-- ==== Sys2Proof/Word.lean ====
section
/-! DEFINITION. The word types of the Jaldan M4 and their plainest arithmetic (R47, R67, R92). -/

namespace Sys2Proof

/-- A byte of memory, scratchpad or code. -/
abbrev Byte := BitVec 8

/-- A lane element position's word, 32 bits (R47). -/
abbrev Word := BitVec 32

/-- A scalar or uniform register, 64 bits (R47). -/
abbrev DWord := BitVec 64

/-- One bit per lane of a weave: a predicate, an execution mask, a faulters' mask (R47, R3). -/
abbrev LaneMask := BitVec 96

/-- One lane register: 96 lanes of 32 bits, lane 0 first (R3, R47). -/
abbrev LaneReg := Vector Word 96

/-- The register field of a 32-bit word (R92). -/
abbrev RegField := BitVec 6

/-- The two streams of a weave (R21). -/
inductive Stream where
  | a
  | c
deriving DecidableEq, Repr, Inhabited

end Sys2Proof
end

