-- ==== Sys2Proof/Syntax.lean ====
section
/-! DEFINITION. The syntax: one constructor of Instr for each row of the opcode table (R101, R100), its fields those
of the row from the high bits down, and the names that the events carry. A field is the number encoded; what it names
(a register of the stream's file, a code) is judged by WellFormed.lean, as R105 step 8 does. -/

namespace Sys2Proof

/-- A weave named by the place it occupies: its core (R34) and its weave slot (R22). -/
structure WeaveId where
  core : Nat
  slot : Nat
deriving DecidableEq, Repr, Inhabited

/-- What issues: the A-stream of a weave, or a fragment of its C-stream by split-table entry (R39, R40). -/
inductive Strand where
  | a
  | c (entry : Nat)
deriving DecidableEq, Repr, Inhabited

/-- The five neighbour ports (R196). -/
inductive Port where
  | w | e | n | s | d
deriving DecidableEq, Repr, Inhabited

/-- A holder of cached lines (R145, R147): the L1 of a core, a cluster's cache, L2 slice n of a die, as the home of a line or
with a sector copy of it, and bank n of a die's RDC. -/
inductive Holder where
  | l1 (core : Nat)
  | cluster (cluster : Nat)
  | slice (die n : Nat)
  | bank (die n : Nat)
deriving DecidableEq, Repr, Inhabited

/-- A region of a tensor object of a partition (R116). -/
structure RegionId where
  part : Nat
  object : Nat
  region : Nat
deriving DecidableEq, Repr, Inhabited

/-- A component measured before it runs: its slot, its kind and its image (R273). -/
structure Component where
  slot : Nat
  kind : Nat
  image : List Byte
deriving DecidableEq, Repr, Inhabited

/-- The registers that a write changes with no behaviour of their own (R267, R269, R270, R153, R152), and the handler
vector that firmware gives each dispatched weave (R62, HNDLR). -/
inductive RegName where
  | scheduleEntry (i : Nat)
  | vfMap (fn : Nat)
  | apert (fn : Nat)
  | objectTable (part : Nat)
  | objectEntries (part : Nat)
  | errorRing (part : Nat)
  | errorHead (part : Nat)
  | threshold (part : Nat)
  | contextObject (part : Nat)
  | framePool (part : Nat)
  | grantedCores (part word : Nat)
  | queueControl (part queue : Nat)
  | sliceMap (die entry : Nat)
  | sliceGeneration (die : Nat)
  | hostGrant (fn : Nat)
  | handlerVector
deriving DecidableEq, Repr, Inhabited

/-- The instructions and events of the opcode table. -/
inductive Instr where
  | add (b a d : RegField)
  | sub (b a d : RegField)
  | mul (b a d : RegField)
  | mulh (b a d : RegField)
  | divu (b a d : RegField)
  | remu (b a d : RegField)
  | and (b a d : RegField)
  | or (b a d : RegField)
  | xor (b a d : RegField)
  | shl (b a d : RegField)
  | shr (b a d : RegField)
  | sar (b a d : RegField)
  | slt (b a d : RegField)
  | sltu (b a d : RegField)
  | min (b a d : RegField)
  | max (b a d : RegField)
  | addi (i : BitVec 10) (a d : RegField)
  | andi (i : BitVec 10) (a d : RegField)
  | ori (i : BitVec 10) (a d : RegField)
  | xori (i : BitVec 10) (a d : RegField)
  | shli (i : BitVec 10) (a d : RegField)
  | shri (i : BitVec 10) (a d : RegField)
  | sari (i : BitVec 10) (a d : RegField)
  | slti (i : BitVec 10) (a d : RegField)
  | clz (a d : RegField)
  | popc (a d : RegField)
  | sel (b a d : RegField)
  | mfc (c d : RegField)
  | mtc (a c : RegField)
  | clock (s d : RegField)
  | pgq (a d : RegField)
  | movi (i : BitVec 20) (d : RegField)
  | movk (p : BitVec 2) (v : BitVec 16) (d : RegField)
  | bra (o : BitVec 26)
  | call (o : BitVec 26)
  | bcc (o : BitVec 11) (c : BitVec 3) (b a : RegField)
  | jmpr (a d : RegField)
  | yield (o : BitVec 12) (d : RegField)
  | wait (d : RegField)
  | trap (c : BitVec 12)
  | brv (o : BitVec 14) (s : BitVec 1) (p : BitVec 3)
  | join (o : BitVec 18)
  | vote (k p : BitVec 3) (d : RegField)
  | launch (b a d : RegField)
  | vadd (p : BitVec 4) (b a d : RegField)
  | vsub (p : BitVec 4) (b a d : RegField)
  | vmul (p : BitVec 4) (b a d : RegField)
  | vmulh (p : BitVec 4) (b a d : RegField)
  | vmulhu (p : BitVec 4) (b a d : RegField)
  | vmad (p : BitVec 4) (b a d : RegField)
  | vand (p : BitVec 4) (b a d : RegField)
  | vor (p : BitVec 4) (b a d : RegField)
  | vxor (p : BitVec 4) (b a d : RegField)
  | vshl (p : BitVec 4) (b a d : RegField)
  | vshr (p : BitVec 4) (b a d : RegField)
  | vsar (p : BitVec 4) (b a d : RegField)
  | vmin (p : BitVec 4) (b a d : RegField)
  | vmax (p : BitVec 4) (b a d : RegField)
  | vadds (p : BitVec 4) (b a d : RegField)
  | vsubs (p : BitVec 4) (b a d : RegField)
  | vaddI16 (p : BitVec 4) (b a d : RegField)
  | vsubI16 (p : BitVec 4) (b a d : RegField)
  | vmulI16 (p : BitVec 4) (b a d : RegField)
  | vmulhI16 (p : BitVec 4) (b a d : RegField)
  | vmulhuI16 (p : BitVec 4) (b a d : RegField)
  | vmadI16 (p : BitVec 4) (b a d : RegField)
  | vandI16 (p : BitVec 4) (b a d : RegField)
  | vorI16 (p : BitVec 4) (b a d : RegField)
  | vxorI16 (p : BitVec 4) (b a d : RegField)
  | vshlI16 (p : BitVec 4) (b a d : RegField)
  | vshrI16 (p : BitVec 4) (b a d : RegField)
  | vsarI16 (p : BitVec 4) (b a d : RegField)
  | vminI16 (p : BitVec 4) (b a d : RegField)
  | vmaxI16 (p : BitVec 4) (b a d : RegField)
  | vaddsI16 (p : BitVec 4) (b a d : RegField)
  | vsubsI16 (p : BitVec 4) (b a d : RegField)
  | vaddI8 (p : BitVec 4) (b a d : RegField)
  | vsubI8 (p : BitVec 4) (b a d : RegField)
  | vmulI8 (p : BitVec 4) (b a d : RegField)
  | vmulhI8 (p : BitVec 4) (b a d : RegField)
  | vmulhuI8 (p : BitVec 4) (b a d : RegField)
  | vmadI8 (p : BitVec 4) (b a d : RegField)
  | vandI8 (p : BitVec 4) (b a d : RegField)
  | vorI8 (p : BitVec 4) (b a d : RegField)
  | vxorI8 (p : BitVec 4) (b a d : RegField)
  | vshlI8 (p : BitVec 4) (b a d : RegField)
  | vshrI8 (p : BitVec 4) (b a d : RegField)
  | vsarI8 (p : BitVec 4) (b a d : RegField)
  | vminI8 (p : BitVec 4) (b a d : RegField)
  | vmaxI8 (p : BitVec 4) (b a d : RegField)
  | vaddsI8 (p : BitVec 4) (b a d : RegField)
  | vsubsI8 (p : BitVec 4) (b a d : RegField)
  | vcmp (p : BitVec 4) (b a : RegField) (c k : BitVec 3)
  | vsel (p : BitVec 4) (b : RegField) (k : BitVec 3) (d : RegField)
  | vabs (p : BitVec 4) (b d : RegField)
  | vclz (p : BitVec 4) (b d : RegField)
  | vpopc (p : BitVec 4) (b d : RegField)
  | vdot4 (p : BitVec 4) (b a d : RegField)
  | vmov (p : BitVec 4) (b d : RegField)
  | vext (p : BitVec 4) (b : RegField) (s w : BitVec 1) (i : BitVec 2) (d : RegField)
  | vins (p : BitVec 4) (b : RegField) (w : BitVec 1) (i : BitVec 2) (d : RegField)
  | vbcst (a d : RegField)
  | vminu (p : BitVec 4) (b a d : RegField)
  | vmaxu (p : BitVec 4) (b a d : RegField)
  | fadd (p : BitVec 4) (b a d : RegField)
  | fsub (p : BitVec 4) (b a d : RegField)
  | fmul (p : BitVec 4) (b a d : RegField)
  | fma (p : BitVec 4) (b a d : RegField)
  | fnma (p : BitVec 4) (b a d : RegField)
  | fmin (p : BitVec 4) (b a d : RegField)
  | fmax (p : BitVec 4) (b a d : RegField)
  | fcmp (p : BitVec 4) (b a : RegField) (c k : BitVec 3)
  | fabs (p : BitVec 4) (b d : RegField)
  | fneg (p : BitVec 4) (b d : RegField)
  | fsign (p : BitVec 4) (b a d : RegField)
  | fscale (p : BitVec 4) (b a d : RegField)
  | frnd (p : BitVec 4) (b : RegField) (m : BitVec 3) (d : RegField)
  | fclass (p : BitVec 4) (b d : RegField)
  | faddF16 (p : BitVec 4) (b a d : RegField)
  | fsubF16 (p : BitVec 4) (b a d : RegField)
  | fmulF16 (p : BitVec 4) (b a d : RegField)
  | fmaF16 (p : BitVec 4) (b a d : RegField)
  | fminF16 (p : BitVec 4) (b a d : RegField)
  | fmaxF16 (p : BitVec 4) (b a d : RegField)
  | fcmpF16 (p : BitVec 4) (b a : RegField) (c k : BitVec 3)
  | fdot2F16 (p : BitVec 4) (b a d : RegField)
  | faddBf16 (p : BitVec 4) (b a d : RegField)
  | fsubBf16 (p : BitVec 4) (b a d : RegField)
  | fmulBf16 (p : BitVec 4) (b a d : RegField)
  | fmaBf16 (p : BitVec 4) (b a d : RegField)
  | fminBf16 (p : BitVec 4) (b a d : RegField)
  | fmaxBf16 (p : BitVec 4) (b a d : RegField)
  | fcmpBf16 (p : BitVec 4) (b a : RegField) (c k : BitVec 3)
  | fdot2Bf16 (p : BitVec 4) (b a d : RegField)
  | frcp (p : BitVec 4) (b d : RegField)
  | frsq (p : BitVec 4) (b d : RegField)
  | fsqrt (p : BitVec 4) (b d : RegField)
  | fdiv (p : BitVec 4) (b a d : RegField)
  | fexp2 (p : BitVec 4) (b d : RegField)
  | flog2 (p : BitVec 4) (b d : RegField)
  | fsin (p : BitVec 4) (b d : RegField)
  | fcos (p : BitVec 4) (b d : RegField)
  | ftanh (p : BitVec 4) (b d : RegField)
  | fcvt (s t j : BitVec 3) (a d : RegField)
  | qblk (k : BitVec 2) (b a d : RegField)
  | dqblk (k : BitVec 2) (b a d : RegField)
  | zipW2 (a d : RegField)
  | zipW3 (a d : RegField)
  | zipW4 (a d : RegField)
  | unzipW2 (a d : RegField)
  | unzipW3 (a d : RegField)
  | unzipW4 (a d : RegField)
  | vperm (p : BitVec 4) (b a d : RegField)
  | vred (k : BitVec 2) (o : BitVec 3) (a d : RegField)
  | vscan (k : BitVec 2) (o : BitVec 3) (a d : RegField)
  | vcmpr (k : BitVec 3) (a d : RegField)
  | vaddi (i : BitVec 10) (a d : RegField)
  | vandi (i : BitVec 10) (a d : RegField)
  | vori (i : BitVec 10) (a d : RegField)
  | vxori (i : BitVec 10) (a d : RegField)
  | vshli (i : BitVec 10) (a d : RegField)
  | vshri (i : BitVec 10) (a d : RegField)
  | vsari (i : BitVec 10) (a d : RegField)
  | vmovi (i : BitVec 10) (d : RegField)
  | vcmpi (i : BitVec 10) (a : RegField) (c k : BitVec 3)
  | vldx (x : BitVec 2) (a d : RegField)
  | vstx (p : BitVec 4) (b a : RegField) (x : BitVec 2)
  | setx (a : RegField) (x : BitVec 2)
  | qpush (a : RegField) (k : BitVec 1) (q : BitVec 2)
  | qpop (k : BitVec 1) (q : BitVec 2) (d : RegField)
  | qpeek (k : BitVec 1) (q : BitVec 2) (d : RegField)
  | qstat (q : BitVec 2) (d : RegField)
  | npush (p : BitVec 4) (b : RegField) (n : BitVec 3)
  | npop (n : BitVec 3) (d : RegField)
  | npeek (n : BitVec 3) (d : RegField)
  | npoll (n : BitVec 3) (k : BitVec 1) (p : BitVec 3)
  | nsave (n : BitVec 3) (a : RegField)
  | nload (n : BitVec 3) (a : RegField)
  | xshuf (a d : RegField)
  | lds (f : BitVec 1) (w : BitVec 2) (e : BitVec 1) (c h d : RegField)
  | sts (f : BitVec 1) (w : BitVec 2) (c h d : RegField)
  | ldc (f : BitVec 1) (c h d : RegField)
  | stc (f : BitVec 1) (c h d : RegField)
  | ldq (f : BitVec 1) (w : BitVec 2) (e : BitVec 1) (c h : RegField) (q : BitVec 2)
  | stq (f : BitVec 1) (w : BitVec 2) (c h : RegField) (q : BitVec 2)
  | pref (f : BitVec 1) (c h : RegField)
  | vld (f : BitVec 1) (w : BitVec 2) (e : BitVec 1) (c h d : RegField)
  | vst (f : BitVec 1) (w : BitVec 2) (c h d : RegField)
  | sld (f : BitVec 1) (w : BitVec 2) (e : BitVec 1) (c h d : RegField)
  | sst (f : BitVec 1) (w : BitVec 2) (c h d : RegField)
  | gthq (w : BitVec 2) (s : BitVec 1) (c : BitVec 2) (b a : RegField) (i q : BitVec 2)
  | sctq (w : BitVec 2) (s : BitVec 1) (c : BitVec 2) (b a : RegField) (i q : BitVec 2)
  | vgth (w : BitVec 2) (s : BitVec 1) (c : BitVec 2) (b a d : RegField)
  | vsct (w : BitVec 2) (s : BitVec 1) (c : BitVec 2) (b a d : RegField)
  | amo (o : BitVec 4) (w : BitVec 2) (b a d : RegField)
  | vamo (o : BitVec 4) (b a d : RegField)
  | cas (w : BitVec 2) (b a d : RegField)
  | vcas (b a d : RegField)
  | fence (s o : BitVec 3)
  | acqp (a : RegField) (s : BitVec 3)
  | bar (d : RegField)
  | binit (a d : RegField)
  | bara (d : RegField)
  | barw (d : RegField)
  | waitv (b a d : RegField)
  | bopen (b a d : RegField)
  | bjoin (a d : RegField)
  | bclose (d : RegField)
  | babort (a : RegField)
  | bview (a d : RegField)
  | brel (a : RegField)
  | bstat (a d : RegField)
  | bpin (a d : RegField)
  | layq (b a d : RegField)
  | laypin (b a d : RegField)
  | layadv (b a d : RegField)
  | mload (k : BitVec 2) (b a d : RegField)
  | mmac (e : BitVec 1) (b a d : RegField)
  | mread (p : BitVec 2) (a d : RegField)
  | msave (a : RegField)
  | mrstr (a : RegField)
  | tcopy (l : BitVec 1) (k : BitVec 2) (x : BitVec 1) (a d : RegField)
  | tcopys (x : BitVec 1) (a d : RegField)
  | nmx (o : BitVec 3) (a d : RegField)
  | scan (c : BitVec 2) (a d : RegField)
  | ckpt (a d : RegField)
  | cred (o : BitVec 2) (a d : RegField)
  | cbcst (a d : RegField)
  | objmap (b a d : RegField)
  | objunmap (b a d : RegField)
  | objq (b a d : RegField)
  | mapgen (b a d : RegField)
  | inval (b a : RegField)
  | rstspl (a : RegField)
  | perf (a d : RegField)
  | preempt (a d : RegField)
  | prefixWord (v b : BitVec 1) (c s p o : BitVec 3)
  | vaddN (b : BitVec 5) (d : RegField)
  | vsubN (b : BitVec 5) (d : RegField)
  | vmulN (b : BitVec 5) (d : RegField)
  | vandN (b : BitVec 5) (d : RegField)
  | vorN (b : BitVec 5) (d : RegField)
  | vxorN (b : BitVec 5) (d : RegField)
  | vshlN (b : BitVec 5) (d : RegField)
  | vshrN (b : BitVec 5) (d : RegField)
  | vsarN (b : BitVec 5) (d : RegField)
  | vminN (b : BitVec 5) (d : RegField)
  | vmaxN (b : BitVec 5) (d : RegField)
  | vmovN (b : BitVec 5) (d : RegField)
  | faddN (b : BitVec 5) (d : RegField)
  | fsubN (b : BitVec 5) (d : RegField)
  | fmulN (b : BitVec 5) (d : RegField)
  | fmaxN (b : BitVec 5) (d : RegField)
  | ret
  | exit
  | nop
  | rte
  | brk
  | mgang
  | mswap
  | mzero
  | savespl
  | launchQueueTailWrite (part queue : Nat) (tail : BitVec 32)
  | preqWrite (part core : Nat) (value : DWord)
  | csramWrite (part core : Nat) (value : DWord)
  | csramSplitChange (core : Nat)
  | limitWrite (part : Nat) (second : Bool) (value : DWord)
  | ftmoWrite (port : Nat) (value : DWord)
  | registerWrite (reg : RegName) (value : DWord)
  | hostWindowAccess (fn : Option Nat) (window offset bytes : Nat) (store : Option DWord)
  | attestationReport (mailbox : Nat) (nonce : BitVec 256)
  | powerLimitSet (watts : Nat)
  | thermalShutdown
  | powerGood
  | startStageReached (stage : Nat) (error : BitVec 8) (components : List Component)
  | vfReset (fn : Nat)
  | crewDispatch (part : Nat)
  | weaveEnd (weave : WeaveId)
  | crewHalted (crew : Nat)
  | splitWindowSwap (weave : WeaveId)
  | fragmentPark (weave : WeaveId) (entry : Nat)
  | waitWake (weave : WeaveId) (strand : Strand)
  | waitWatchdog (weave : WeaveId) (strand : Strand)
  | portWatch (weave : WeaveId) (entry : Nat)
  | portEntryLand (weave : WeaveId) (port : Port)
  | queueEntryComplete (flight : Nat)
  | loadDataReturn (flight : Nat)
  | dataFailure (flight : Nat) (poisoned : Bool) (lanes : LaneMask)
  | farPortTimeout (port : Nat)
  | cxlLinkDown (port : Nat)
  | extentGrant (port first count : Nat)
  | extentReleaseRequest (port first count : Nat)
  | extentForcedRemoval (port first count : Nat)
  | backInvalidateSnoop (half : Nat)
  | homeReadRequest (holder : Holder) (line : Nat)
  | homeOwnershipRequest (holder : Holder) (line : Nat)
  | sliceFillArrival (line : Nat)
  | retryReissue (weave : WeaveId) (strand : Strand)
  | remapReply (core die : Nat) (line : Nat)
  | writeBackMerge (holder : Holder) (line : Nat)
  | lCopyIdleExpiry (cluster line : Nat)
  | lCopyRetryRecall (line : Nat)
  | staleLineWalk (holder : Holder)
  | bankWake (holder : Holder)
  | monitorWindowEnd
  | sectionCopy (region : RegionId)
  | busySectionRelease (region : RegionId)
  | translationWalk (core part object frame : Nat)
  | bundleMemberReport (part handle : Nat)
  | bundleFlip (part handle object line : Nat)
  | coordinatorQuery (part handle object line : Nat)
  | engineGranule (thread granule : Nat)
  | engineArrival (thread : Nat)
  | collectiveMatchTimeout (thread : Nat)
  | memberWithdrawn (part : Nat)
  | gangLatchClose (crew : Nat)
  | gangLatchTimeout (crew : Nat)
  | arrayQueuePerform (core array : Nat)
  | matrixArrival (core array : Nat)
  | acqpDrain (flight : Nat)
  | correctableError (part die : Nat)
  | correctableThreshold (part : Nat)
  | uncorrectableError (part address bytes : Nat)
  | launchAbort (launch : Nat)
  | cxlLinkUp (port : Nat)
  | retentionSleepEntry (holder : Holder)
  | extentReleaseAck (port first count : Nat)
  | powerThrottle (idle clockStep : Nat)
  | launchCopyArrival (part queue : Nat) (record : List Byte)
  | pcieConfigRequest (request : Nat)
  | columnSubstitution (core array column : Nat)
deriving DecidableEq, Repr, Inhabited

end Sys2Proof
end

