-- ==== Sys2Proof/WellFormed.lean ====
section
/-! DEFINITION. Which words are instructions: the stream class and privilege of each member (R101), its access class
(R96), the registers it names (R93, R49), its defined codes (R105 step 8), and the codes of prefix and MDEF that each
class accepts (R9, R96 to R98). -/

namespace Sys2Proof

/-- The streams a member is legal in (R101). -/
inductive StreamClass where
  | both | aOnly | cOnly | none
deriving DecidableEq, Repr, Inhabited

/-- Whether a stream belongs to the class (R105 step 6). -/
def StreamClass.allows : StreamClass → Stream → Bool
  | .both, _ => true
  | .aOnly, .a => true
  | .aOnly, .c => false
  | .cOnly, .a => false
  | .cOnly, .c => true
  | .none, _ => false

/-- The classes of R96. -/
inductive AccessClass where
  | load | store | prefetch | atomic | portPush | portPop | engine
deriving DecidableEq, Repr, Inhabited

/-- The order codes of R9. -/
inductive Order where
  | rlx | acq | rel | ar | sc
deriving DecidableEq, Repr, Inhabited

/-- The scopes of R9 and R160, narrowest first. -/
inductive Scope where
  | wv | co | cl | di | pk | sp | sy
deriving DecidableEq, Repr, Inhabited

/-- The space codes of R9. -/
inductive Space where
  | obj | spd | far | hst
deriving DecidableEq, Repr, Inhabited

/-- The cache-policy codes of R9 and R148. -/
inductive CachePolicy where
  | ca | cg | cs | nt
deriving DecidableEq, Repr, Inhabited

/-- The order that a 3-bit code names (R9). -/
def Order.ofCode (c : BitVec 3) : Option Order :=
  match c.toNat with
  | 0 => some .rlx
  | 1 => some .acq
  | 2 => some .rel
  | 3 => some .ar
  | 4 => some .sc
  | _ => none

/-- The scope that a 3-bit code names (R9). -/
def Scope.ofCode (c : BitVec 3) : Option Scope :=
  match c.toNat with
  | 0 => some .wv
  | 1 => some .co
  | 2 => some .cl
  | 3 => some .di
  | 4 => some .pk
  | 5 => some .sp
  | 6 => some .sy
  | _ => none

/-- The code of a scope (R9), which rises with its width (R160). -/
def Scope.code : Scope → Nat
  | .wv => 0
  | .co => 1
  | .cl => 2
  | .di => 3
  | .pk => 4
  | .sp => 5
  | .sy => 6

/-- The space that a 3-bit code names (R9). -/
def Space.ofCode (c : BitVec 3) : Option Space :=
  match c.toNat with
  | 0 => some .obj
  | 1 => some .spd
  | 2 => some .far
  | 3 => some .hst
  | _ => none

/-- The cache policy that a 3-bit code names (R9). -/
def CachePolicy.ofCode (c : BitVec 3) : Option CachePolicy :=
  match c.toNat with
  | 0 => some .ca
  | 1 => some .cg
  | 2 => some .cs
  | 3 => some .nt
  | _ => none

/-- The attributes of one access (R9), from its prefix or from MDEF (R98). -/
structure Attrs where
  order : Order
  scope : Scope
  space : Space
  cache : CachePolicy
  bundle : Bool
  view : Bool
deriving DecidableEq, Repr, Inhabited

/-- A register that a word names: the scalar file of the stream (a or s), a lane register, a predicate, an index register (R93). -/
inductive Opnd where
  | scal (n : Nat)
  | lane (n : Nat)
  | pred (n : Nat)
  | idx (n : Nat)
deriving DecidableEq, Repr, Inhabited

/-- Pattern 14 reads s1 (R58). -/
def patternOpnds (p : BitVec 4) : List Opnd := if p = 14 then [.scal 1] else []

/-- The link register of CALL and RET: a63 or s28 (R101). -/
def linkOpnds : Stream → List Opnd
  | .a => [.scal 63]
  | .c => [.scal 28]

/-- BCC names two scalar registers, or one predicate under conditions 6 and 7 (R289). -/
def bccOpnds (c : BitVec 3) (b a : RegField) : List Opnd :=
  if c.toNat < 6 then [.scal a.toNat, .scal b.toNat] else [.pred a.toNat]

/-- The place of an M-format word: an offset register, or a coordinate pair under form 1 (R92, R95). -/
def placeOpnds (f : BitVec 1) (c : RegField) : List Opnd :=
  if f = 1 then [.scal c.toNat, .scal (c.toNat + 1)] else [.scal c.toNat]

/-- The register end of a queue member: a lane register under kind 0 in the C-stream, else a scalar register (R55). -/
def queueOpnds (st : Stream) (k : BitVec 1) (r : RegField) : List Opnd :=
  match st with
  | .a => [.scal r.toNat]
  | .c => if k = 0 then [.lane r.toNat] else [.scal r.toNat]

/-- The index register of a lane gather or scatter, with the next one for 64-bit indexes (R104, R376). -/
def indexOpnds (w : BitVec 2) (b : RegField) : List Opnd :=
  if w = 3 then [.lane b.toNat, .lane (b.toNat + 1)] else [.lane b.toNat]

/-- Whether a named register belongs to its file (R93): 64 a registers, 32 s registers, 8 predicates, 4 index registers.
Lane registers are judged against the allocation instead (R49). -/
def Opnd.inFile (st : Stream) : Opnd → Bool
  | .scal n => match st with
    | .a => decide (n < 64)
    | .c => decide (n < 32)
  | .lane _ => true
  | .pred n => decide (n < 8)
  | .idx n => decide (n < 4)

/-- Whether a lane register lies below the allocation n of its weave (R49). -/
def Opnd.inBound (regs : Nat) : Opnd → Bool
  | .lane n => decide (n < regs)
  | .scal _ | .pred _ | .idx _ => true

/-- The stream class of each member (R101), BCC's by its condition; an event is issued by no stream. -/
def Instr.streams : Instr → StreamClass
  | .add _ _ _ | .sub _ _ _ | .mul _ _ _ | .mulh _ _ _ | .divu _ _ _ | .remu _ _ _
  | .and _ _ _ | .or _ _ _ | .xor _ _ _ | .shl _ _ _ | .shr _ _ _ | .sar _ _ _
  | .slt _ _ _ | .sltu _ _ _ | .min _ _ _ | .max _ _ _ | .addi _ _ _ | .andi _ _ _
  | .ori _ _ _ | .xori _ _ _ | .shli _ _ _ | .shri _ _ _ | .sari _ _ _ | .slti _ _ _
  | .clz _ _ | .popc _ _ | .sel _ _ _ | .mfc _ _ | .mtc _ _ | .clock _ _
  | .pgq _ _ | .movi _ _ | .movk _ _ _ | .bra _ | .call _ | .ret
  | .jmpr _ _ | .exit | .nop | .yield _ _ | .wait _ | .trap _
  | .rte | .brk | .qpush _ _ _ | .qpop _ _ _ | .qpeek _ _ _ | .qstat _ _
  | .amo _ _ _ _ _ | .cas _ _ _ _ | .fence _ _ | .acqp _ _ | .bar _ | .binit _ _
  | .bara _ | .barw _ | .waitv _ _ _ | .bopen _ _ _ | .bjoin _ _ | .bclose _
  | .babort _ | .bview _ _ | .brel _ | .bstat _ _ | .bpin _ _ | .layq _ _ _
  | .laypin _ _ _ | .layadv _ _ _ | .mload _ _ _ _ | .objmap _ _ _ | .objunmap _ _ _ | .objq _ _ _
  | .mapgen _ _ _ | .inval _ _ | .savespl | .rstspl _ | .perf _ _ | .preempt _ _
  | .prefixWord _ _ _ _ _ _ => .both
  | .brv _ _ _ | .join _ | .vote _ _ _ | .vadd _ _ _ _ | .vsub _ _ _ _ | .vmul _ _ _ _
  | .vmulh _ _ _ _ | .vmulhu _ _ _ _ | .vmad _ _ _ _ | .vand _ _ _ _ | .vor _ _ _ _ | .vxor _ _ _ _
  | .vshl _ _ _ _ | .vshr _ _ _ _ | .vsar _ _ _ _ | .vmin _ _ _ _ | .vmax _ _ _ _ | .vadds _ _ _ _
  | .vsubs _ _ _ _ | .vaddI16 _ _ _ _ | .vsubI16 _ _ _ _ | .vmulI16 _ _ _ _ | .vmulhI16 _ _ _ _ | .vmulhuI16 _ _ _ _
  | .vmadI16 _ _ _ _ | .vandI16 _ _ _ _ | .vorI16 _ _ _ _ | .vxorI16 _ _ _ _ | .vshlI16 _ _ _ _ | .vshrI16 _ _ _ _
  | .vsarI16 _ _ _ _ | .vminI16 _ _ _ _ | .vmaxI16 _ _ _ _ | .vaddsI16 _ _ _ _ | .vsubsI16 _ _ _ _ | .vaddI8 _ _ _ _
  | .vsubI8 _ _ _ _ | .vmulI8 _ _ _ _ | .vmulhI8 _ _ _ _ | .vmulhuI8 _ _ _ _ | .vmadI8 _ _ _ _ | .vandI8 _ _ _ _
  | .vorI8 _ _ _ _ | .vxorI8 _ _ _ _ | .vshlI8 _ _ _ _ | .vshrI8 _ _ _ _ | .vsarI8 _ _ _ _ | .vminI8 _ _ _ _
  | .vmaxI8 _ _ _ _ | .vaddsI8 _ _ _ _ | .vsubsI8 _ _ _ _ | .vcmp _ _ _ _ _ | .vsel _ _ _ _ | .vabs _ _ _
  | .vclz _ _ _ | .vpopc _ _ _ | .vdot4 _ _ _ _ | .vmov _ _ _ | .vext _ _ _ _ _ _ | .vins _ _ _ _ _
  | .vbcst _ _ | .vminu _ _ _ _ | .vmaxu _ _ _ _ | .fadd _ _ _ _ | .fsub _ _ _ _ | .fmul _ _ _ _
  | .fma _ _ _ _ | .fnma _ _ _ _ | .fmin _ _ _ _ | .fmax _ _ _ _ | .fcmp _ _ _ _ _ | .fabs _ _ _
  | .fneg _ _ _ | .fsign _ _ _ _ | .fscale _ _ _ _ | .frnd _ _ _ _ | .fclass _ _ _ | .faddF16 _ _ _ _
  | .fsubF16 _ _ _ _ | .fmulF16 _ _ _ _ | .fmaF16 _ _ _ _ | .fminF16 _ _ _ _ | .fmaxF16 _ _ _ _ | .fcmpF16 _ _ _ _ _
  | .fdot2F16 _ _ _ _ | .faddBf16 _ _ _ _ | .fsubBf16 _ _ _ _ | .fmulBf16 _ _ _ _ | .fmaBf16 _ _ _ _ | .fminBf16 _ _ _ _
  | .fmaxBf16 _ _ _ _ | .fcmpBf16 _ _ _ _ _ | .fdot2Bf16 _ _ _ _ | .frcp _ _ _ | .frsq _ _ _ | .fsqrt _ _ _
  | .fdiv _ _ _ _ | .fexp2 _ _ _ | .flog2 _ _ _ | .fsin _ _ _ | .fcos _ _ _ | .ftanh _ _ _
  | .fcvt _ _ _ _ _ | .qblk _ _ _ _ | .dqblk _ _ _ _ | .zipW2 _ _ | .zipW3 _ _ | .zipW4 _ _
  | .unzipW2 _ _ | .unzipW3 _ _ | .unzipW4 _ _ | .vperm _ _ _ _ | .vred _ _ _ _ | .vscan _ _ _ _
  | .vcmpr _ _ _ | .vaddi _ _ _ | .vandi _ _ _ | .vori _ _ _ | .vxori _ _ _ | .vshli _ _ _
  | .vshri _ _ _ | .vsari _ _ _ | .vmovi _ _ | .vcmpi _ _ _ _ | .vldx _ _ _ | .vstx _ _ _ _
  | .setx _ _ | .npush _ _ _ | .npop _ _ | .npeek _ _ | .npoll _ _ _ | .nsave _ _
  | .nload _ _ | .xshuf _ _ | .vld _ _ _ _ _ _ | .vst _ _ _ _ _ | .sld _ _ _ _ _ _ | .sst _ _ _ _ _
  | .vgth _ _ _ _ _ _ | .vsct _ _ _ _ _ _ | .vamo _ _ _ _ | .vcas _ _ _ | .mgang | .mswap
  | .mmac _ _ _ _ | .mread _ _ _ | .mzero | .msave _ | .mrstr _ | .vaddN _ _
  | .vsubN _ _ | .vmulN _ _ | .vandN _ _ | .vorN _ _ | .vxorN _ _ | .vshlN _ _
  | .vshrN _ _ | .vsarN _ _ | .vminN _ _ | .vmaxN _ _ | .vmovN _ _ | .faddN _ _
  | .fsubN _ _ | .fmulN _ _ | .fmaxN _ _ => .cOnly
  | .launch _ _ _ | .lds _ _ _ _ _ _ | .sts _ _ _ _ _ | .ldc _ _ _ _ | .stc _ _ _ _ | .ldq _ _ _ _ _ _
  | .stq _ _ _ _ _ | .pref _ _ _ | .gthq _ _ _ _ _ _ _ | .sctq _ _ _ _ _ _ _ | .tcopy _ _ _ _ _ | .tcopys _ _ _
  | .nmx _ _ _ | .scan _ _ _ | .ckpt _ _ | .cred _ _ _ | .cbcst _ _ => .aOnly
  | .bcc _ c _ _ => if c.toNat < 6 then .both else .cOnly
  | .launchQueueTailWrite _ _ _ | .preqWrite _ _ _ | .csramWrite _ _ _ | .csramSplitChange _ | .limitWrite _ _ _
  | .ftmoWrite _ _ | .registerWrite _ _ | .hostWindowAccess _ _ _ _ _ | .attestationReport _ _ | .powerLimitSet _
  | .thermalShutdown | .powerGood | .startStageReached _ _ _ | .vfReset _ | .crewDispatch _
  | .weaveEnd _ | .crewHalted _ | .splitWindowSwap _ | .fragmentPark _ _ | .waitWake _ _
  | .waitWatchdog _ _ | .portWatch _ _ | .portEntryLand _ _ | .queueEntryComplete _ | .loadDataReturn _
  | .dataFailure _ _ _ | .farPortTimeout _ | .cxlLinkDown _ | .extentGrant _ _ _ | .extentReleaseRequest _ _ _
  | .extentForcedRemoval _ _ _ | .backInvalidateSnoop _ | .homeReadRequest _ _ | .homeOwnershipRequest _ _ | .sliceFillArrival _
  | .retryReissue _ _ | .remapReply _ _ _ | .writeBackMerge _ _ | .lCopyIdleExpiry _ _ | .lCopyRetryRecall _
  | .staleLineWalk _ | .bankWake _ | .monitorWindowEnd | .sectionCopy _ | .busySectionRelease _
  | .translationWalk _ _ _ _ | .bundleMemberReport _ _ | .bundleFlip _ _ _ _ | .coordinatorQuery _ _ _ _ | .engineGranule _ _
  | .engineArrival _ | .collectiveMatchTimeout _ | .memberWithdrawn _ | .gangLatchClose _ | .gangLatchTimeout _
  | .arrayQueuePerform _ _ | .matrixArrival _ _ | .acqpDrain _ | .correctableError _ _ | .correctableThreshold _
  | .uncorrectableError _ _ _ | .launchAbort _ | .cxlLinkUp _ | .retentionSleepEntry _ | .extentReleaseAck _ _ _
  | .powerThrottle _ _ | .launchCopyArrival _ _ _ | .pcieConfigRequest _ | .columnSubstitution _ _ _ => .none

/-- The members marked SO, which run in supervisor mode only (R101). -/
def Instr.supervisorOnly : Instr → Bool
  | .rte | .nsave _ _ | .nload _ _ | .msave _ | .mrstr _ | .objmap _ _ _
  | .objunmap _ _ _ | .objq _ _ _ | .mapgen _ _ _ | .inval _ _ | .savespl | .rstspl _
  | .perf _ _ | .preempt _ _ => true
  | .add _ _ _ | .sub _ _ _ | .mul _ _ _ | .mulh _ _ _ | .divu _ _ _ | .remu _ _ _
  | .and _ _ _ | .or _ _ _ | .xor _ _ _ | .shl _ _ _ | .shr _ _ _ | .sar _ _ _
  | .slt _ _ _ | .sltu _ _ _ | .min _ _ _ | .max _ _ _ | .addi _ _ _ | .andi _ _ _
  | .ori _ _ _ | .xori _ _ _ | .shli _ _ _ | .shri _ _ _ | .sari _ _ _ | .slti _ _ _
  | .clz _ _ | .popc _ _ | .sel _ _ _ | .mfc _ _ | .mtc _ _ | .clock _ _
  | .pgq _ _ | .movi _ _ | .movk _ _ _ | .bra _ | .call _ | .bcc _ _ _ _
  | .ret | .jmpr _ _ | .exit | .nop | .yield _ _ | .wait _
  | .trap _ | .brk | .brv _ _ _ | .join _ | .vote _ _ _ | .launch _ _ _
  | .vadd _ _ _ _ | .vsub _ _ _ _ | .vmul _ _ _ _ | .vmulh _ _ _ _ | .vmulhu _ _ _ _ | .vmad _ _ _ _
  | .vand _ _ _ _ | .vor _ _ _ _ | .vxor _ _ _ _ | .vshl _ _ _ _ | .vshr _ _ _ _ | .vsar _ _ _ _
  | .vmin _ _ _ _ | .vmax _ _ _ _ | .vadds _ _ _ _ | .vsubs _ _ _ _ | .vaddI16 _ _ _ _ | .vsubI16 _ _ _ _
  | .vmulI16 _ _ _ _ | .vmulhI16 _ _ _ _ | .vmulhuI16 _ _ _ _ | .vmadI16 _ _ _ _ | .vandI16 _ _ _ _ | .vorI16 _ _ _ _
  | .vxorI16 _ _ _ _ | .vshlI16 _ _ _ _ | .vshrI16 _ _ _ _ | .vsarI16 _ _ _ _ | .vminI16 _ _ _ _ | .vmaxI16 _ _ _ _
  | .vaddsI16 _ _ _ _ | .vsubsI16 _ _ _ _ | .vaddI8 _ _ _ _ | .vsubI8 _ _ _ _ | .vmulI8 _ _ _ _ | .vmulhI8 _ _ _ _
  | .vmulhuI8 _ _ _ _ | .vmadI8 _ _ _ _ | .vandI8 _ _ _ _ | .vorI8 _ _ _ _ | .vxorI8 _ _ _ _ | .vshlI8 _ _ _ _
  | .vshrI8 _ _ _ _ | .vsarI8 _ _ _ _ | .vminI8 _ _ _ _ | .vmaxI8 _ _ _ _ | .vaddsI8 _ _ _ _ | .vsubsI8 _ _ _ _
  | .vcmp _ _ _ _ _ | .vsel _ _ _ _ | .vabs _ _ _ | .vclz _ _ _ | .vpopc _ _ _ | .vdot4 _ _ _ _
  | .vmov _ _ _ | .vext _ _ _ _ _ _ | .vins _ _ _ _ _ | .vbcst _ _ | .vminu _ _ _ _ | .vmaxu _ _ _ _
  | .fadd _ _ _ _ | .fsub _ _ _ _ | .fmul _ _ _ _ | .fma _ _ _ _ | .fnma _ _ _ _ | .fmin _ _ _ _
  | .fmax _ _ _ _ | .fcmp _ _ _ _ _ | .fabs _ _ _ | .fneg _ _ _ | .fsign _ _ _ _ | .fscale _ _ _ _
  | .frnd _ _ _ _ | .fclass _ _ _ | .faddF16 _ _ _ _ | .fsubF16 _ _ _ _ | .fmulF16 _ _ _ _ | .fmaF16 _ _ _ _
  | .fminF16 _ _ _ _ | .fmaxF16 _ _ _ _ | .fcmpF16 _ _ _ _ _ | .fdot2F16 _ _ _ _ | .faddBf16 _ _ _ _ | .fsubBf16 _ _ _ _
  | .fmulBf16 _ _ _ _ | .fmaBf16 _ _ _ _ | .fminBf16 _ _ _ _ | .fmaxBf16 _ _ _ _ | .fcmpBf16 _ _ _ _ _ | .fdot2Bf16 _ _ _ _
  | .frcp _ _ _ | .frsq _ _ _ | .fsqrt _ _ _ | .fdiv _ _ _ _ | .fexp2 _ _ _ | .flog2 _ _ _
  | .fsin _ _ _ | .fcos _ _ _ | .ftanh _ _ _ | .fcvt _ _ _ _ _ | .qblk _ _ _ _ | .dqblk _ _ _ _
  | .zipW2 _ _ | .zipW3 _ _ | .zipW4 _ _ | .unzipW2 _ _ | .unzipW3 _ _ | .unzipW4 _ _
  | .vperm _ _ _ _ | .vred _ _ _ _ | .vscan _ _ _ _ | .vcmpr _ _ _ | .vaddi _ _ _ | .vandi _ _ _
  | .vori _ _ _ | .vxori _ _ _ | .vshli _ _ _ | .vshri _ _ _ | .vsari _ _ _ | .vmovi _ _
  | .vcmpi _ _ _ _ | .vldx _ _ _ | .vstx _ _ _ _ | .setx _ _ | .qpush _ _ _ | .qpop _ _ _
  | .qpeek _ _ _ | .qstat _ _ | .npush _ _ _ | .npop _ _ | .npeek _ _ | .npoll _ _ _
  | .xshuf _ _ | .lds _ _ _ _ _ _ | .sts _ _ _ _ _ | .ldc _ _ _ _ | .stc _ _ _ _ | .ldq _ _ _ _ _ _
  | .stq _ _ _ _ _ | .pref _ _ _ | .vld _ _ _ _ _ _ | .vst _ _ _ _ _ | .sld _ _ _ _ _ _ | .sst _ _ _ _ _
  | .gthq _ _ _ _ _ _ _ | .sctq _ _ _ _ _ _ _ | .vgth _ _ _ _ _ _ | .vsct _ _ _ _ _ _ | .amo _ _ _ _ _ | .vamo _ _ _ _
  | .cas _ _ _ _ | .vcas _ _ _ | .fence _ _ | .acqp _ _ | .bar _ | .binit _ _
  | .bara _ | .barw _ | .waitv _ _ _ | .bopen _ _ _ | .bjoin _ _ | .bclose _
  | .babort _ | .bview _ _ | .brel _ | .bstat _ _ | .bpin _ _ | .layq _ _ _
  | .laypin _ _ _ | .layadv _ _ _ | .mgang | .mload _ _ _ _ | .mswap | .mmac _ _ _ _
  | .mread _ _ _ | .mzero | .tcopy _ _ _ _ _ | .tcopys _ _ _ | .nmx _ _ _ | .scan _ _ _
  | .ckpt _ _ | .cred _ _ _ | .cbcst _ _ | .prefixWord _ _ _ _ _ _ | .vaddN _ _ | .vsubN _ _
  | .vmulN _ _ | .vandN _ _ | .vorN _ _ | .vxorN _ _ | .vshlN _ _ | .vshrN _ _
  | .vsarN _ _ | .vminN _ _ | .vmaxN _ _ | .vmovN _ _ | .faddN _ _ | .fsubN _ _
  | .fmulN _ _ | .fmaxN _ _ => false
  | .launchQueueTailWrite _ _ _ | .preqWrite _ _ _ | .csramWrite _ _ _ | .csramSplitChange _ | .limitWrite _ _ _
  | .ftmoWrite _ _ | .registerWrite _ _ | .hostWindowAccess _ _ _ _ _ | .attestationReport _ _ | .powerLimitSet _
  | .thermalShutdown | .powerGood | .startStageReached _ _ _ | .vfReset _ | .crewDispatch _
  | .weaveEnd _ | .crewHalted _ | .splitWindowSwap _ | .fragmentPark _ _ | .waitWake _ _
  | .waitWatchdog _ _ | .portWatch _ _ | .portEntryLand _ _ | .queueEntryComplete _ | .loadDataReturn _
  | .dataFailure _ _ _ | .farPortTimeout _ | .cxlLinkDown _ | .extentGrant _ _ _ | .extentReleaseRequest _ _ _
  | .extentForcedRemoval _ _ _ | .backInvalidateSnoop _ | .homeReadRequest _ _ | .homeOwnershipRequest _ _ | .sliceFillArrival _
  | .retryReissue _ _ | .remapReply _ _ _ | .writeBackMerge _ _ | .lCopyIdleExpiry _ _ | .lCopyRetryRecall _
  | .staleLineWalk _ | .bankWake _ | .monitorWindowEnd | .sectionCopy _ | .busySectionRelease _
  | .translationWalk _ _ _ _ | .bundleMemberReport _ _ | .bundleFlip _ _ _ _ | .coordinatorQuery _ _ _ _ | .engineGranule _ _
  | .engineArrival _ | .collectiveMatchTimeout _ | .memberWithdrawn _ | .gangLatchClose _ | .gangLatchTimeout _
  | .arrayQueuePerform _ _ | .matrixArrival _ _ | .acqpDrain _ | .correctableError _ _ | .correctableThreshold _
  | .uncorrectableError _ _ _ | .launchAbort _ | .cxlLinkUp _ | .retentionSleepEntry _ | .extentReleaseAck _ _ _
  | .powerThrottle _ _ | .launchCopyArrival _ _ _ | .pcieConfigRequest _ | .columnSubstitution _ _ _ => false

/-- The access class whose prefix and MDEF codes a member takes (R96); none for a member that takes no prefix. -/
def Instr.accessClass : Instr → Option AccessClass
  | .lds _ _ _ _ _ _ | .ldc _ _ _ _ | .ldq _ _ _ _ _ _ | .vld _ _ _ _ _ _ | .sld _ _ _ _ _ _ | .gthq _ _ _ _ _ _ _
  | .vgth _ _ _ _ _ _ => some .load
  | .sts _ _ _ _ _ | .stc _ _ _ _ | .stq _ _ _ _ _ | .vst _ _ _ _ _ | .sst _ _ _ _ _ | .sctq _ _ _ _ _ _ _
  | .vsct _ _ _ _ _ _ => some .store
  | .pref _ _ _ => some .prefetch
  | .amo _ _ _ _ _ | .vamo _ _ _ _ | .cas _ _ _ _ | .vcas _ _ _ => some .atomic
  | .tcopy _ _ _ _ _ | .tcopys _ _ _ | .nmx _ _ _ | .scan _ _ _ | .ckpt _ _ | .cred _ _ _
  | .cbcst _ _ => some .engine
  | .npush _ _ _ => some .portPush
  | .npop _ _ => some .portPop
  | .add _ _ _ | .sub _ _ _ | .mul _ _ _ | .mulh _ _ _ | .divu _ _ _ | .remu _ _ _
  | .and _ _ _ | .or _ _ _ | .xor _ _ _ | .shl _ _ _ | .shr _ _ _ | .sar _ _ _
  | .slt _ _ _ | .sltu _ _ _ | .min _ _ _ | .max _ _ _ | .addi _ _ _ | .andi _ _ _
  | .ori _ _ _ | .xori _ _ _ | .shli _ _ _ | .shri _ _ _ | .sari _ _ _ | .slti _ _ _
  | .clz _ _ | .popc _ _ | .sel _ _ _ | .mfc _ _ | .mtc _ _ | .clock _ _
  | .pgq _ _ | .movi _ _ | .movk _ _ _ | .bra _ | .call _ | .bcc _ _ _ _
  | .ret | .jmpr _ _ | .exit | .nop | .yield _ _ | .wait _
  | .trap _ | .rte | .brk | .brv _ _ _ | .join _ | .vote _ _ _
  | .launch _ _ _ | .vadd _ _ _ _ | .vsub _ _ _ _ | .vmul _ _ _ _ | .vmulh _ _ _ _ | .vmulhu _ _ _ _
  | .vmad _ _ _ _ | .vand _ _ _ _ | .vor _ _ _ _ | .vxor _ _ _ _ | .vshl _ _ _ _ | .vshr _ _ _ _
  | .vsar _ _ _ _ | .vmin _ _ _ _ | .vmax _ _ _ _ | .vadds _ _ _ _ | .vsubs _ _ _ _ | .vaddI16 _ _ _ _
  | .vsubI16 _ _ _ _ | .vmulI16 _ _ _ _ | .vmulhI16 _ _ _ _ | .vmulhuI16 _ _ _ _ | .vmadI16 _ _ _ _ | .vandI16 _ _ _ _
  | .vorI16 _ _ _ _ | .vxorI16 _ _ _ _ | .vshlI16 _ _ _ _ | .vshrI16 _ _ _ _ | .vsarI16 _ _ _ _ | .vminI16 _ _ _ _
  | .vmaxI16 _ _ _ _ | .vaddsI16 _ _ _ _ | .vsubsI16 _ _ _ _ | .vaddI8 _ _ _ _ | .vsubI8 _ _ _ _ | .vmulI8 _ _ _ _
  | .vmulhI8 _ _ _ _ | .vmulhuI8 _ _ _ _ | .vmadI8 _ _ _ _ | .vandI8 _ _ _ _ | .vorI8 _ _ _ _ | .vxorI8 _ _ _ _
  | .vshlI8 _ _ _ _ | .vshrI8 _ _ _ _ | .vsarI8 _ _ _ _ | .vminI8 _ _ _ _ | .vmaxI8 _ _ _ _ | .vaddsI8 _ _ _ _
  | .vsubsI8 _ _ _ _ | .vcmp _ _ _ _ _ | .vsel _ _ _ _ | .vabs _ _ _ | .vclz _ _ _ | .vpopc _ _ _
  | .vdot4 _ _ _ _ | .vmov _ _ _ | .vext _ _ _ _ _ _ | .vins _ _ _ _ _ | .vbcst _ _ | .vminu _ _ _ _
  | .vmaxu _ _ _ _ | .fadd _ _ _ _ | .fsub _ _ _ _ | .fmul _ _ _ _ | .fma _ _ _ _ | .fnma _ _ _ _
  | .fmin _ _ _ _ | .fmax _ _ _ _ | .fcmp _ _ _ _ _ | .fabs _ _ _ | .fneg _ _ _ | .fsign _ _ _ _
  | .fscale _ _ _ _ | .frnd _ _ _ _ | .fclass _ _ _ | .faddF16 _ _ _ _ | .fsubF16 _ _ _ _ | .fmulF16 _ _ _ _
  | .fmaF16 _ _ _ _ | .fminF16 _ _ _ _ | .fmaxF16 _ _ _ _ | .fcmpF16 _ _ _ _ _ | .fdot2F16 _ _ _ _ | .faddBf16 _ _ _ _
  | .fsubBf16 _ _ _ _ | .fmulBf16 _ _ _ _ | .fmaBf16 _ _ _ _ | .fminBf16 _ _ _ _ | .fmaxBf16 _ _ _ _ | .fcmpBf16 _ _ _ _ _
  | .fdot2Bf16 _ _ _ _ | .frcp _ _ _ | .frsq _ _ _ | .fsqrt _ _ _ | .fdiv _ _ _ _ | .fexp2 _ _ _
  | .flog2 _ _ _ | .fsin _ _ _ | .fcos _ _ _ | .ftanh _ _ _ | .fcvt _ _ _ _ _ | .qblk _ _ _ _
  | .dqblk _ _ _ _ | .zipW2 _ _ | .zipW3 _ _ | .zipW4 _ _ | .unzipW2 _ _ | .unzipW3 _ _
  | .unzipW4 _ _ | .vperm _ _ _ _ | .vred _ _ _ _ | .vscan _ _ _ _ | .vcmpr _ _ _ | .vaddi _ _ _
  | .vandi _ _ _ | .vori _ _ _ | .vxori _ _ _ | .vshli _ _ _ | .vshri _ _ _ | .vsari _ _ _
  | .vmovi _ _ | .vcmpi _ _ _ _ | .vldx _ _ _ | .vstx _ _ _ _ | .setx _ _ | .qpush _ _ _
  | .qpop _ _ _ | .qpeek _ _ _ | .qstat _ _ | .npeek _ _ | .npoll _ _ _ | .nsave _ _
  | .nload _ _ | .xshuf _ _ | .fence _ _ | .acqp _ _ | .bar _ | .binit _ _
  | .bara _ | .barw _ | .waitv _ _ _ | .bopen _ _ _ | .bjoin _ _ | .bclose _
  | .babort _ | .bview _ _ | .brel _ | .bstat _ _ | .bpin _ _ | .layq _ _ _
  | .laypin _ _ _ | .layadv _ _ _ | .mgang | .mload _ _ _ _ | .mswap | .mmac _ _ _ _
  | .mread _ _ _ | .mzero | .msave _ | .mrstr _ | .objmap _ _ _ | .objunmap _ _ _
  | .objq _ _ _ | .mapgen _ _ _ | .inval _ _ | .savespl | .rstspl _ | .perf _ _
  | .preempt _ _ | .prefixWord _ _ _ _ _ _ | .vaddN _ _ | .vsubN _ _ | .vmulN _ _ | .vandN _ _
  | .vorN _ _ | .vxorN _ _ | .vshlN _ _ | .vshrN _ _ | .vsarN _ _ | .vminN _ _
  | .vmaxN _ _ | .vmovN _ _ | .faddN _ _ | .fsubN _ _ | .fmulN _ _ | .fmaxN _ _ => none
  | .launchQueueTailWrite _ _ _ | .preqWrite _ _ _ | .csramWrite _ _ _ | .csramSplitChange _ | .limitWrite _ _ _
  | .ftmoWrite _ _ | .registerWrite _ _ | .hostWindowAccess _ _ _ _ _ | .attestationReport _ _ | .powerLimitSet _
  | .thermalShutdown | .powerGood | .startStageReached _ _ _ | .vfReset _ | .crewDispatch _
  | .weaveEnd _ | .crewHalted _ | .splitWindowSwap _ | .fragmentPark _ _ | .waitWake _ _
  | .waitWatchdog _ _ | .portWatch _ _ | .portEntryLand _ _ | .queueEntryComplete _ | .loadDataReturn _
  | .dataFailure _ _ _ | .farPortTimeout _ | .cxlLinkDown _ | .extentGrant _ _ _ | .extentReleaseRequest _ _ _
  | .extentForcedRemoval _ _ _ | .backInvalidateSnoop _ | .homeReadRequest _ _ | .homeOwnershipRequest _ _ | .sliceFillArrival _
  | .retryReissue _ _ | .remapReply _ _ _ | .writeBackMerge _ _ | .lCopyIdleExpiry _ _ | .lCopyRetryRecall _
  | .staleLineWalk _ | .bankWake _ | .monitorWindowEnd | .sectionCopy _ | .busySectionRelease _
  | .translationWalk _ _ _ _ | .bundleMemberReport _ _ | .bundleFlip _ _ _ _ | .coordinatorQuery _ _ _ _ | .engineGranule _ _
  | .engineArrival _ | .collectiveMatchTimeout _ | .memberWithdrawn _ | .gangLatchClose _ | .gangLatchTimeout _
  | .arrayQueuePerform _ _ | .matrixArrival _ _ | .acqpDrain _ | .correctableError _ _ | .correctableThreshold _
  | .uncorrectableError _ _ _ | .launchAbort _ | .cxlLinkUp _ | .retentionSleepEntry _ | .extentReleaseAck _ _ _
  | .powerThrottle _ _ | .launchCopyArrival _ _ _ | .pcieConfigRequest _ | .columnSubstitution _ _ _ => none

/-- The registers a member names, in the file that R93 fixes for the stream; a pair or a group names each of its registers. -/
def Instr.operands (st : Stream) : Instr → List Opnd
  | .add b a d => [.scal d.toNat, .scal a.toNat, .scal b.toNat]
  | .sub b a d => [.scal d.toNat, .scal a.toNat, .scal b.toNat]
  | .mul b a d => [.scal d.toNat, .scal a.toNat, .scal b.toNat]
  | .mulh b a d => [.scal d.toNat, .scal a.toNat, .scal b.toNat]
  | .divu b a d => [.scal d.toNat, .scal a.toNat, .scal b.toNat]
  | .remu b a d => [.scal d.toNat, .scal a.toNat, .scal b.toNat]
  | .and b a d => [.scal d.toNat, .scal a.toNat, .scal b.toNat]
  | .or b a d => [.scal d.toNat, .scal a.toNat, .scal b.toNat]
  | .xor b a d => [.scal d.toNat, .scal a.toNat, .scal b.toNat]
  | .shl b a d => [.scal d.toNat, .scal a.toNat, .scal b.toNat]
  | .shr b a d => [.scal d.toNat, .scal a.toNat, .scal b.toNat]
  | .sar b a d => [.scal d.toNat, .scal a.toNat, .scal b.toNat]
  | .slt b a d => [.scal d.toNat, .scal a.toNat, .scal b.toNat]
  | .sltu b a d => [.scal d.toNat, .scal a.toNat, .scal b.toNat]
  | .min b a d => [.scal d.toNat, .scal a.toNat, .scal b.toNat]
  | .max b a d => [.scal d.toNat, .scal a.toNat, .scal b.toNat]
  | .addi _ a d => [.scal d.toNat, .scal a.toNat]
  | .andi _ a d => [.scal d.toNat, .scal a.toNat]
  | .ori _ a d => [.scal d.toNat, .scal a.toNat]
  | .xori _ a d => [.scal d.toNat, .scal a.toNat]
  | .shli _ a d => [.scal d.toNat, .scal a.toNat]
  | .shri _ a d => [.scal d.toNat, .scal a.toNat]
  | .sari _ a d => [.scal d.toNat, .scal a.toNat]
  | .slti _ a d => [.scal d.toNat, .scal a.toNat]
  | .clz a d => [.scal d.toNat, .scal a.toNat]
  | .popc a d => [.scal d.toNat, .scal a.toNat]
  | .sel b a d => [.scal d.toNat, .scal a.toNat, .scal b.toNat]
  | .mfc _ d => [.scal d.toNat]
  | .mtc a _ => [.scal a.toNat]
  | .clock _ d => [.scal d.toNat]
  | .pgq a d => [.scal d.toNat, .scal a.toNat]
  | .movi _ d => [.scal d.toNat]
  | .movk _ _ d => [.scal d.toNat]
  | .bra _ => []
  | .call _ => linkOpnds st
  | .bcc _ c b a => bccOpnds c b a
  | .ret => linkOpnds st
  | .jmpr a d => [.scal d.toNat, .scal a.toNat]
  | .exit => []
  | .nop => []
  | .yield _ d => [.scal d.toNat]
  | .wait d => [.scal d.toNat]
  | .trap _ => []
  | .rte => []
  | .brk => []
  | .brv _ _ p => [.pred p.toNat]
  | .join _ => []
  | .vote _ p d => [.scal d.toNat, .pred p.toNat]
  | .launch b a d => [.scal d.toNat, .scal a.toNat, .scal b.toNat]
  | .vadd p b a d => [.lane d.toNat, .lane a.toNat, .lane b.toNat] ++ patternOpnds p
  | .vsub p b a d => [.lane d.toNat, .lane a.toNat, .lane b.toNat] ++ patternOpnds p
  | .vmul p b a d => [.lane d.toNat, .lane a.toNat, .lane b.toNat] ++ patternOpnds p
  | .vmulh p b a d => [.lane d.toNat, .lane a.toNat, .lane b.toNat] ++ patternOpnds p
  | .vmulhu p b a d => [.lane d.toNat, .lane a.toNat, .lane b.toNat] ++ patternOpnds p
  | .vmad p b a d => [.lane d.toNat, .lane a.toNat, .lane b.toNat] ++ patternOpnds p
  | .vand p b a d => [.lane d.toNat, .lane a.toNat, .lane b.toNat] ++ patternOpnds p
  | .vor p b a d => [.lane d.toNat, .lane a.toNat, .lane b.toNat] ++ patternOpnds p
  | .vxor p b a d => [.lane d.toNat, .lane a.toNat, .lane b.toNat] ++ patternOpnds p
  | .vshl p b a d => [.lane d.toNat, .lane a.toNat, .lane b.toNat] ++ patternOpnds p
  | .vshr p b a d => [.lane d.toNat, .lane a.toNat, .lane b.toNat] ++ patternOpnds p
  | .vsar p b a d => [.lane d.toNat, .lane a.toNat, .lane b.toNat] ++ patternOpnds p
  | .vmin p b a d => [.lane d.toNat, .lane a.toNat, .lane b.toNat] ++ patternOpnds p
  | .vmax p b a d => [.lane d.toNat, .lane a.toNat, .lane b.toNat] ++ patternOpnds p
  | .vadds p b a d => [.lane d.toNat, .lane a.toNat, .lane b.toNat] ++ patternOpnds p
  | .vsubs p b a d => [.lane d.toNat, .lane a.toNat, .lane b.toNat] ++ patternOpnds p
  | .vaddI16 p b a d => [.lane d.toNat, .lane a.toNat, .lane b.toNat] ++ patternOpnds p
  | .vsubI16 p b a d => [.lane d.toNat, .lane a.toNat, .lane b.toNat] ++ patternOpnds p
  | .vmulI16 p b a d => [.lane d.toNat, .lane a.toNat, .lane b.toNat] ++ patternOpnds p
  | .vmulhI16 p b a d => [.lane d.toNat, .lane a.toNat, .lane b.toNat] ++ patternOpnds p
  | .vmulhuI16 p b a d => [.lane d.toNat, .lane a.toNat, .lane b.toNat] ++ patternOpnds p
  | .vmadI16 p b a d => [.lane d.toNat, .lane a.toNat, .lane b.toNat] ++ patternOpnds p
  | .vandI16 p b a d => [.lane d.toNat, .lane a.toNat, .lane b.toNat] ++ patternOpnds p
  | .vorI16 p b a d => [.lane d.toNat, .lane a.toNat, .lane b.toNat] ++ patternOpnds p
  | .vxorI16 p b a d => [.lane d.toNat, .lane a.toNat, .lane b.toNat] ++ patternOpnds p
  | .vshlI16 p b a d => [.lane d.toNat, .lane a.toNat, .lane b.toNat] ++ patternOpnds p
  | .vshrI16 p b a d => [.lane d.toNat, .lane a.toNat, .lane b.toNat] ++ patternOpnds p
  | .vsarI16 p b a d => [.lane d.toNat, .lane a.toNat, .lane b.toNat] ++ patternOpnds p
  | .vminI16 p b a d => [.lane d.toNat, .lane a.toNat, .lane b.toNat] ++ patternOpnds p
  | .vmaxI16 p b a d => [.lane d.toNat, .lane a.toNat, .lane b.toNat] ++ patternOpnds p
  | .vaddsI16 p b a d => [.lane d.toNat, .lane a.toNat, .lane b.toNat] ++ patternOpnds p
  | .vsubsI16 p b a d => [.lane d.toNat, .lane a.toNat, .lane b.toNat] ++ patternOpnds p
  | .vaddI8 p b a d => [.lane d.toNat, .lane a.toNat, .lane b.toNat] ++ patternOpnds p
  | .vsubI8 p b a d => [.lane d.toNat, .lane a.toNat, .lane b.toNat] ++ patternOpnds p
  | .vmulI8 p b a d => [.lane d.toNat, .lane a.toNat, .lane b.toNat] ++ patternOpnds p
  | .vmulhI8 p b a d => [.lane d.toNat, .lane a.toNat, .lane b.toNat] ++ patternOpnds p
  | .vmulhuI8 p b a d => [.lane d.toNat, .lane a.toNat, .lane b.toNat] ++ patternOpnds p
  | .vmadI8 p b a d => [.lane d.toNat, .lane a.toNat, .lane b.toNat] ++ patternOpnds p
  | .vandI8 p b a d => [.lane d.toNat, .lane a.toNat, .lane b.toNat] ++ patternOpnds p
  | .vorI8 p b a d => [.lane d.toNat, .lane a.toNat, .lane b.toNat] ++ patternOpnds p
  | .vxorI8 p b a d => [.lane d.toNat, .lane a.toNat, .lane b.toNat] ++ patternOpnds p
  | .vshlI8 p b a d => [.lane d.toNat, .lane a.toNat, .lane b.toNat] ++ patternOpnds p
  | .vshrI8 p b a d => [.lane d.toNat, .lane a.toNat, .lane b.toNat] ++ patternOpnds p
  | .vsarI8 p b a d => [.lane d.toNat, .lane a.toNat, .lane b.toNat] ++ patternOpnds p
  | .vminI8 p b a d => [.lane d.toNat, .lane a.toNat, .lane b.toNat] ++ patternOpnds p
  | .vmaxI8 p b a d => [.lane d.toNat, .lane a.toNat, .lane b.toNat] ++ patternOpnds p
  | .vaddsI8 p b a d => [.lane d.toNat, .lane a.toNat, .lane b.toNat] ++ patternOpnds p
  | .vsubsI8 p b a d => [.lane d.toNat, .lane a.toNat, .lane b.toNat] ++ patternOpnds p
  | .vcmp p b a _ k => [.pred k.toNat, .lane a.toNat, .lane b.toNat] ++ patternOpnds p
  | .vsel p b k d => [.lane d.toNat, .pred k.toNat, .lane b.toNat] ++ patternOpnds p
  | .vabs p b d => [.lane d.toNat, .lane b.toNat] ++ patternOpnds p
  | .vclz p b d => [.lane d.toNat, .lane b.toNat] ++ patternOpnds p
  | .vpopc p b d => [.lane d.toNat, .lane b.toNat] ++ patternOpnds p
  | .vdot4 p b a d => [.lane d.toNat, .lane a.toNat, .lane b.toNat] ++ patternOpnds p
  | .vmov p b d => [.lane d.toNat, .lane b.toNat] ++ patternOpnds p
  | .vext p b _ _ _ d => [.lane d.toNat, .lane b.toNat] ++ patternOpnds p
  | .vins p b _ _ d => [.lane d.toNat, .lane b.toNat] ++ patternOpnds p
  | .vbcst a d => [.lane d.toNat, .scal a.toNat]
  | .vminu p b a d => [.lane d.toNat, .lane a.toNat, .lane b.toNat] ++ patternOpnds p
  | .vmaxu p b a d => [.lane d.toNat, .lane a.toNat, .lane b.toNat] ++ patternOpnds p
  | .fadd p b a d => [.lane d.toNat, .lane a.toNat, .lane b.toNat] ++ patternOpnds p
  | .fsub p b a d => [.lane d.toNat, .lane a.toNat, .lane b.toNat] ++ patternOpnds p
  | .fmul p b a d => [.lane d.toNat, .lane a.toNat, .lane b.toNat] ++ patternOpnds p
  | .fma p b a d => [.lane d.toNat, .lane a.toNat, .lane b.toNat] ++ patternOpnds p
  | .fnma p b a d => [.lane d.toNat, .lane a.toNat, .lane b.toNat] ++ patternOpnds p
  | .fmin p b a d => [.lane d.toNat, .lane a.toNat, .lane b.toNat] ++ patternOpnds p
  | .fmax p b a d => [.lane d.toNat, .lane a.toNat, .lane b.toNat] ++ patternOpnds p
  | .fcmp p b a _ k => [.pred k.toNat, .lane a.toNat, .lane b.toNat] ++ patternOpnds p
  | .fabs p b d => [.lane d.toNat, .lane b.toNat] ++ patternOpnds p
  | .fneg p b d => [.lane d.toNat, .lane b.toNat] ++ patternOpnds p
  | .fsign p b a d => [.lane d.toNat, .lane a.toNat, .lane b.toNat] ++ patternOpnds p
  | .fscale p b a d => [.lane d.toNat, .lane a.toNat, .lane b.toNat] ++ patternOpnds p
  | .frnd p b _ d => [.lane d.toNat, .lane b.toNat] ++ patternOpnds p
  | .fclass p b d => [.lane d.toNat, .lane b.toNat] ++ patternOpnds p
  | .faddF16 p b a d => [.lane d.toNat, .lane a.toNat, .lane b.toNat] ++ patternOpnds p
  | .fsubF16 p b a d => [.lane d.toNat, .lane a.toNat, .lane b.toNat] ++ patternOpnds p
  | .fmulF16 p b a d => [.lane d.toNat, .lane a.toNat, .lane b.toNat] ++ patternOpnds p
  | .fmaF16 p b a d => [.lane d.toNat, .lane a.toNat, .lane b.toNat] ++ patternOpnds p
  | .fminF16 p b a d => [.lane d.toNat, .lane a.toNat, .lane b.toNat] ++ patternOpnds p
  | .fmaxF16 p b a d => [.lane d.toNat, .lane a.toNat, .lane b.toNat] ++ patternOpnds p
  | .fcmpF16 p b a _ k => [.pred k.toNat, .pred (k.toNat + 1), .lane a.toNat, .lane b.toNat] ++ patternOpnds p
  | .fdot2F16 p b a d => [.lane d.toNat, .lane a.toNat, .lane b.toNat] ++ patternOpnds p
  | .faddBf16 p b a d => [.lane d.toNat, .lane a.toNat, .lane b.toNat] ++ patternOpnds p
  | .fsubBf16 p b a d => [.lane d.toNat, .lane a.toNat, .lane b.toNat] ++ patternOpnds p
  | .fmulBf16 p b a d => [.lane d.toNat, .lane a.toNat, .lane b.toNat] ++ patternOpnds p
  | .fmaBf16 p b a d => [.lane d.toNat, .lane a.toNat, .lane b.toNat] ++ patternOpnds p
  | .fminBf16 p b a d => [.lane d.toNat, .lane a.toNat, .lane b.toNat] ++ patternOpnds p
  | .fmaxBf16 p b a d => [.lane d.toNat, .lane a.toNat, .lane b.toNat] ++ patternOpnds p
  | .fcmpBf16 p b a _ k => [.pred k.toNat, .pred (k.toNat + 1), .lane a.toNat, .lane b.toNat] ++ patternOpnds p
  | .fdot2Bf16 p b a d => [.lane d.toNat, .lane a.toNat, .lane b.toNat] ++ patternOpnds p
  | .frcp p b d => [.lane d.toNat, .lane b.toNat] ++ patternOpnds p
  | .frsq p b d => [.lane d.toNat, .lane b.toNat] ++ patternOpnds p
  | .fsqrt p b d => [.lane d.toNat, .lane b.toNat] ++ patternOpnds p
  | .fdiv p b a d => [.lane d.toNat, .lane a.toNat, .lane b.toNat] ++ patternOpnds p
  | .fexp2 p b d => [.lane d.toNat, .lane b.toNat] ++ patternOpnds p
  | .flog2 p b d => [.lane d.toNat, .lane b.toNat] ++ patternOpnds p
  | .fsin p b d => [.lane d.toNat, .lane b.toNat] ++ patternOpnds p
  | .fcos p b d => [.lane d.toNat, .lane b.toNat] ++ patternOpnds p
  | .ftanh p b d => [.lane d.toNat, .lane b.toNat] ++ patternOpnds p
  | .fcvt _ _ _ a d => [.lane d.toNat, .lane a.toNat]
  | .qblk _ b a d => [.lane d.toNat, .lane a.toNat, .lane b.toNat]
  | .dqblk _ b a d => [.lane d.toNat, .lane a.toNat, .lane b.toNat]
  | .zipW2 a d => [.lane d.toNat, .lane (d.toNat + 1), .lane a.toNat, .lane (a.toNat + 1)]
  | .zipW3 a d => [.lane d.toNat, .lane (d.toNat + 1), .lane (d.toNat + 2), .lane a.toNat, .lane (a.toNat + 1), .lane (a.toNat + 2)]
  | .zipW4 a d => [.lane d.toNat, .lane (d.toNat + 1), .lane (d.toNat + 2), .lane (d.toNat + 3), .lane a.toNat, .lane (a.toNat + 1), .lane (a.toNat + 2), .lane (a.toNat + 3)]
  | .unzipW2 a d => [.lane d.toNat, .lane (d.toNat + 1), .lane a.toNat, .lane (a.toNat + 1)]
  | .unzipW3 a d => [.lane d.toNat, .lane (d.toNat + 1), .lane (d.toNat + 2), .lane a.toNat, .lane (a.toNat + 1), .lane (a.toNat + 2)]
  | .unzipW4 a d => [.lane d.toNat, .lane (d.toNat + 1), .lane (d.toNat + 2), .lane (d.toNat + 3), .lane a.toNat, .lane (a.toNat + 1), .lane (a.toNat + 2), .lane (a.toNat + 3)]
  | .vperm p b a d => [.lane d.toNat, .lane a.toNat, .lane b.toNat] ++ patternOpnds p
  | .vred _ _ a d => [.lane d.toNat, .lane a.toNat]
  | .vscan _ _ a d => [.lane d.toNat, .lane a.toNat]
  | .vcmpr k a d => [.lane d.toNat, .lane a.toNat, .pred k.toNat]
  | .vaddi _ a d => [.lane d.toNat, .lane a.toNat]
  | .vandi _ a d => [.lane d.toNat, .lane a.toNat]
  | .vori _ a d => [.lane d.toNat, .lane a.toNat]
  | .vxori _ a d => [.lane d.toNat, .lane a.toNat]
  | .vshli _ a d => [.lane d.toNat, .lane a.toNat]
  | .vshri _ a d => [.lane d.toNat, .lane a.toNat]
  | .vsari _ a d => [.lane d.toNat, .lane a.toNat]
  | .vmovi _ d => [.lane d.toNat]
  | .vcmpi _ a _ k => [.pred k.toNat, .lane a.toNat]
  | .vldx x a d => [.lane d.toNat, .lane a.toNat, .idx x.toNat]
  | .vstx p b a x => [.lane a.toNat, .lane b.toNat, .idx x.toNat] ++ patternOpnds p
  | .setx a x => [.scal a.toNat, .idx x.toNat]
  | .qpush a k _ => queueOpnds st k a
  | .qpop k _ d => queueOpnds st k d
  | .qpeek k _ d => queueOpnds st k d
  | .qstat _ d => [.scal d.toNat]
  | .npush p b _ => [.lane b.toNat] ++ patternOpnds p
  | .npop _ d => [.lane d.toNat]
  | .npeek _ d => [.lane d.toNat]
  | .npoll _ _ p => [.pred p.toNat]
  | .nsave _ a => [.scal a.toNat]
  | .nload _ a => [.scal a.toNat]
  | .xshuf a d => [.lane d.toNat, .lane a.toNat]
  | .lds f _ _ c h d => [.scal d.toNat, .scal h.toNat] ++ placeOpnds f c
  | .sts f _ c h d => [.scal d.toNat, .scal h.toNat] ++ placeOpnds f c
  | .ldc f c h d => [.scal d.toNat, .scal (d.toNat + 1), .scal h.toNat] ++ placeOpnds f c
  | .stc f c h d => [.scal d.toNat, .scal (d.toNat + 1), .scal h.toNat] ++ placeOpnds f c
  | .ldq f _ _ c h _ => [.scal h.toNat] ++ placeOpnds f c
  | .stq f _ c h _ => [.scal h.toNat] ++ placeOpnds f c
  | .pref f c h => [.scal h.toNat] ++ placeOpnds f c
  | .vld f _ _ c h d => [.lane d.toNat, .scal h.toNat] ++ placeOpnds f c
  | .vst f _ c h d => [.lane d.toNat, .scal h.toNat] ++ placeOpnds f c
  | .sld f _ _ c h d => [.scal d.toNat, .scal h.toNat] ++ placeOpnds f c
  | .sst f _ c h d => [.scal d.toNat, .scal h.toNat] ++ placeOpnds f c
  | .gthq _ _ _ b a _ _ => [.scal a.toNat, .scal b.toNat]
  | .sctq _ _ _ b a _ _ => [.scal a.toNat, .scal b.toNat]
  | .vgth w _ _ b a d => [.lane d.toNat, .scal a.toNat, .scal (a.toNat + 1)] ++ indexOpnds w b
  | .vsct w _ _ b a d => [.lane d.toNat, .scal a.toNat, .scal (a.toNat + 1)] ++ indexOpnds w b
  | .amo _ _ b a d => [.scal d.toNat, .scal a.toNat, .scal b.toNat]
  | .vamo _ b a d => [.lane d.toNat, .scal a.toNat, .lane b.toNat]
  | .cas _ b a d => [.scal d.toNat, .scal (d.toNat + 1), .scal a.toNat, .scal b.toNat]
  | .vcas b a d => [.lane d.toNat, .lane (d.toNat + 1), .scal a.toNat, .lane b.toNat]
  | .fence _ _ => []
  | .acqp a _ => [.scal a.toNat]
  | .bar d => [.scal d.toNat]
  | .binit a d => [.scal d.toNat, .scal a.toNat]
  | .bara d => [.scal d.toNat]
  | .barw d => [.scal d.toNat]
  | .waitv b a d => [.scal d.toNat, .scal a.toNat, .scal b.toNat]
  | .bopen b a d => [.scal d.toNat, .scal a.toNat, .scal b.toNat]
  | .bjoin a d => [.scal d.toNat, .scal a.toNat]
  | .bclose d => [.scal d.toNat]
  | .babort a => [.scal a.toNat]
  | .bview a d => [.scal d.toNat, .scal a.toNat]
  | .brel a => [.scal a.toNat]
  | .bstat a d => [.scal d.toNat, .scal a.toNat]
  | .bpin a d => [.scal d.toNat, .scal a.toNat]
  | .layq b a d => [.scal d.toNat, .scal a.toNat, .scal b.toNat]
  | .laypin b a d => [.scal d.toNat, .scal a.toNat, .scal b.toNat]
  | .layadv b a d => [.scal d.toNat, .scal a.toNat, .scal b.toNat]
  | .mgang => []
  | .mload _ b a d => [.scal d.toNat, .scal a.toNat, .scal b.toNat, .scal (b.toNat + 1)]
  | .mswap => []
  | .mmac _ b a d => [.scal d.toNat, .lane a.toNat, .scal b.toNat, .scal (b.toNat + 1)]
  | .mread _ a d => [.lane d.toNat, .scal a.toNat]
  | .mzero => []
  | .msave a => [.scal a.toNat]
  | .mrstr a => [.scal a.toNat]
  | .tcopy _ _ _ a d => [.scal d.toNat, .scal a.toNat]
  | .tcopys _ a d => [.scal d.toNat, .scal a.toNat]
  | .nmx _ a d => [.scal d.toNat, .scal a.toNat]
  | .scan _ a d => [.scal d.toNat, .scal a.toNat]
  | .ckpt a d => [.scal d.toNat, .scal a.toNat]
  | .cred _ a d => [.scal d.toNat, .scal a.toNat]
  | .cbcst a d => [.scal d.toNat, .scal a.toNat]
  | .objmap b a d => [.scal d.toNat, .scal a.toNat, .scal b.toNat]
  | .objunmap b a d => [.scal d.toNat, .scal a.toNat, .scal b.toNat]
  | .objq b a d => [.scal d.toNat, .scal a.toNat, .scal b.toNat]
  | .mapgen b a d => [.scal d.toNat, .scal a.toNat, .scal b.toNat]
  | .inval b a => [.scal a.toNat, .scal b.toNat]
  | .savespl => []
  | .rstspl a => [.scal a.toNat]
  | .perf a d => [.scal d.toNat, .scal a.toNat]
  | .preempt a d => [.scal d.toNat, .scal a.toNat]
  | .prefixWord _ _ _ _ _ _ => []
  | .vaddN b d => [.lane d.toNat, .lane b.toNat]
  | .vsubN b d => [.lane d.toNat, .lane b.toNat]
  | .vmulN b d => [.lane d.toNat, .lane b.toNat]
  | .vandN b d => [.lane d.toNat, .lane b.toNat]
  | .vorN b d => [.lane d.toNat, .lane b.toNat]
  | .vxorN b d => [.lane d.toNat, .lane b.toNat]
  | .vshlN b d => [.lane d.toNat, .lane b.toNat]
  | .vshrN b d => [.lane d.toNat, .lane b.toNat]
  | .vsarN b d => [.lane d.toNat, .lane b.toNat]
  | .vminN b d => [.lane d.toNat, .lane b.toNat]
  | .vmaxN b d => [.lane d.toNat, .lane b.toNat]
  | .vmovN b d => [.lane d.toNat, .lane b.toNat]
  | .faddN b d => [.lane d.toNat, .lane b.toNat]
  | .fsubN b d => [.lane d.toNat, .lane b.toNat]
  | .fmulN b d => [.lane d.toNat, .lane b.toNat]
  | .fmaxN b d => [.lane d.toNat, .lane b.toNat]
  | .launchQueueTailWrite _ _ _ | .preqWrite _ _ _ | .csramWrite _ _ _ | .csramSplitChange _ | .limitWrite _ _ _
  | .ftmoWrite _ _ | .registerWrite _ _ | .hostWindowAccess _ _ _ _ _ | .attestationReport _ _ | .powerLimitSet _
  | .thermalShutdown | .powerGood | .startStageReached _ _ _ | .vfReset _ | .crewDispatch _
  | .weaveEnd _ | .crewHalted _ | .splitWindowSwap _ | .fragmentPark _ _ | .waitWake _ _
  | .waitWatchdog _ _ | .portWatch _ _ | .portEntryLand _ _ | .queueEntryComplete _ | .loadDataReturn _
  | .dataFailure _ _ _ | .farPortTimeout _ | .cxlLinkDown _ | .extentGrant _ _ _ | .extentReleaseRequest _ _ _
  | .extentForcedRemoval _ _ _ | .backInvalidateSnoop _ | .homeReadRequest _ _ | .homeOwnershipRequest _ _ | .sliceFillArrival _
  | .retryReissue _ _ | .remapReply _ _ _ | .writeBackMerge _ _ | .lCopyIdleExpiry _ _ | .lCopyRetryRecall _
  | .staleLineWalk _ | .bankWake _ | .monitorWindowEnd | .sectionCopy _ | .busySectionRelease _
  | .translationWalk _ _ _ _ | .bundleMemberReport _ _ | .bundleFlip _ _ _ _ | .coordinatorQuery _ _ _ _ | .engineGranule _ _
  | .engineArrival _ | .collectiveMatchTimeout _ | .memberWithdrawn _ | .gangLatchClose _ | .gangLatchTimeout _
  | .arrayQueuePerform _ _ | .matrixArrival _ _ | .acqpDrain _ | .correctableError _ _ | .correctableThreshold _
  | .uncorrectableError _ _ _ | .launchAbort _ | .cxlLinkUp _ | .retentionSleepEntry _ | .extentReleaseAck _ _ _
  | .powerThrottle _ _ | .launchCopyArrival _ _ _ | .pcieConfigRequest _ | .columnSubstitution _ _ _ => []

/-- The pattern codes 0 to 14 (R58). -/
def patternOk (p : BitVec 4) : Bool := p != 15

/-- A port code (R196, R199). -/
def portOk (n : BitVec 3) : Bool := decide (n.toNat < 5)

/-- VRED and VSCAN take kind .i32 with every operation and .f32 with operations 0 to 2 (R368). -/
def reduceOk (k : BitVec 2) (o : BitVec 3) : Bool := k = 0 || (k = 1 && decide (o.toNat ≤ 2))

/-- A width and extension that load and lane forms accept (R95). -/
def widthExtOk (lane : Bool) (w : BitVec 2) (e : BitVec 1) : Bool := !(w = 3 && (lane || e = 1))

/-- Elements of an FCVT format per lane word, by its code (R84, R68). -/
def cvtDensity (c : BitVec 3) : Nat :=
  match c.toNat with
  | 0 => 1
  | 1 => 2
  | 2 => 2
  | 3 => 4
  | 4 => 4
  | 5 => 1
  | 6 => 4
  | _ => 8

/-- FCVT's formats differ and its part index is in range (R84). -/
def cvtOk (s t j : BitVec 3) : Bool :=
  s != t && decide (j.toNat < Nat.max (cvtDensity s) (cvtDensity t) / Nat.min (cvtDensity s) (cvtDensity t))

/-- Atomic operations 0 to 9; .fadd is 32-bit (R104). -/
def amoOk (o : BitVec 4) (w : BitVec 2) : Bool :=
  decide (o.toNat ≤ 9) && decide (w.toNat ≤ 1) && !(o = 9 && w = 1)

/-- The defined codes of each member that do not depend on its operands' values (R105 step 8); the must-be-zero bits
are judged on the word itself, in Decode.lean. -/
def Instr.codesOk (st : Stream) : Instr → Bool
  | .clock s _ => decide (s.toNat < 2)
  | .bcc _ c b _ => decide (c.toNat < 6) || b = 0
  | .vote k _ _ => decide (k.toNat < 4)
  | .vadd p _ _ _ | .vsub p _ _ _ | .vmul p _ _ _ | .vmulh p _ _ _ | .vmulhu p _ _ _ | .vmad p _ _ _ => patternOk p
  | .vand p _ _ _ | .vor p _ _ _ | .vxor p _ _ _ | .vshl p _ _ _ | .vshr p _ _ _ | .vsar p _ _ _ => patternOk p
  | .vmin p _ _ _ | .vmax p _ _ _ | .vadds p _ _ _ | .vsubs p _ _ _ => patternOk p
  | .vaddI16 p _ _ _ | .vsubI16 p _ _ _ | .vmulI16 p _ _ _ | .vmulhI16 p _ _ _ | .vmulhuI16 p _ _ _ => patternOk p
  | .vmadI16 p _ _ _ | .vandI16 p _ _ _ | .vorI16 p _ _ _ | .vxorI16 p _ _ _ | .vshlI16 p _ _ _ => patternOk p
  | .vshrI16 p _ _ _ | .vsarI16 p _ _ _ | .vminI16 p _ _ _ | .vmaxI16 p _ _ _ => patternOk p
  | .vaddsI16 p _ _ _ | .vsubsI16 p _ _ _ => patternOk p
  | .vaddI8 p _ _ _ | .vsubI8 p _ _ _ | .vmulI8 p _ _ _ | .vmulhI8 p _ _ _ | .vmulhuI8 p _ _ _ => patternOk p
  | .vmadI8 p _ _ _ | .vandI8 p _ _ _ | .vorI8 p _ _ _ | .vxorI8 p _ _ _ | .vshlI8 p _ _ _ => patternOk p
  | .vshrI8 p _ _ _ | .vsarI8 p _ _ _ | .vminI8 p _ _ _ | .vmaxI8 p _ _ _ => patternOk p
  | .vaddsI8 p _ _ _ | .vsubsI8 p _ _ _ => patternOk p
  | .vcmp p _ _ _ _ => patternOk p
  | .vsel p _ _ _ => patternOk p
  | .vabs p _ _ | .vclz p _ _ | .vpopc p _ _ | .vmov p _ _ => patternOk p
  | .vdot4 p _ _ _ | .vminu p _ _ _ | .vmaxu p _ _ _ => patternOk p
  | .vext p _ _ w i _ => patternOk p && (w = 0 || decide (i.toNat ≤ 1))
  | .vins p _ w i _ => patternOk p && (w = 0 || decide (i.toNat ≤ 1))
  | .fadd p _ _ _ | .fsub p _ _ _ | .fmul p _ _ _ | .fma p _ _ _ | .fnma p _ _ _ | .fmin p _ _ _ => patternOk p
  | .fmax p _ _ _ | .fsign p _ _ _ | .fscale p _ _ _ => patternOk p
  | .fcmp p _ _ _ _ => patternOk p
  | .fabs p _ _ | .fneg p _ _ | .fclass p _ _ => patternOk p
  | .frnd p _ m _ => patternOk p && decide (m.toNat ≤ 5)
  | .faddF16 p _ _ _ | .fsubF16 p _ _ _ | .fmulF16 p _ _ _ | .fmaF16 p _ _ _ | .fminF16 p _ _ _ => patternOk p
  | .fmaxF16 p _ _ _ | .fdot2F16 p _ _ _ => patternOk p
  | .faddBf16 p _ _ _ | .fsubBf16 p _ _ _ | .fmulBf16 p _ _ _ | .fmaBf16 p _ _ _ | .fminBf16 p _ _ _ => patternOk p
  | .fmaxBf16 p _ _ _ | .fdot2Bf16 p _ _ _ => patternOk p
  | .fcmpF16 p _ _ _ k | .fcmpBf16 p _ _ _ k => patternOk p && k.toNat % 2 == 0
  | .frcp p _ _ | .frsq p _ _ | .fsqrt p _ _ | .fexp2 p _ _ | .flog2 p _ _ => patternOk p
  | .fsin p _ _ | .fcos p _ _ | .ftanh p _ _ => patternOk p
  | .fdiv p _ _ _ => patternOk p
  | .fcvt s t j _ _ => cvtOk s t j
  | .qblk k b _ d => decide (k.toNat ≤ 2) && b != d
  | .dqblk k _ _ _ => decide (k.toNat ≤ 2)
  | .zipW2 a d | .unzipW2 a d => decide (a.toNat ≤ 62) && decide (d.toNat ≤ 62)
  | .zipW3 a d | .unzipW3 a d => decide (a.toNat ≤ 61) && decide (d.toNat ≤ 61)
  | .zipW4 a d | .unzipW4 a d => decide (a.toNat ≤ 60) && decide (d.toNat ≤ 60)
  | .vperm p _ _ _ => patternOk p
  | .vred k o _ _ | .vscan k o _ _ => reduceOk k o
  | .vstx p _ _ _ => patternOk p
  | .qpush _ k _ => match st with
    | .a => k = 0
    | .c => true
  | .qpop k _ _ | .qpeek k _ _ => match st with
    | .a => k = 0
    | .c => true
  | .npush p _ n => patternOk p && portOk n
  | .npop n _ | .npeek n _ | .nsave n _ | .nload n _ => portOk n
  | .npoll n _ _ => portOk n
  | .lds _ w e _ _ _ | .sld _ w e _ _ _ => widthExtOk false w e
  | .ldq _ w e _ _ _ | .vld _ w e _ _ _ => widthExtOk true w e
  | .stq _ w _ _ _ | .vst _ w _ _ _ => widthExtOk true w 0
  | .sctq _ _ _ _ _ i q => i != q
  | .amo o w _ _ _ => amoOk o w
  | .vamo o _ _ _ => amoOk o 0
  | .cas w _ _ d => decide (w.toNat ≤ 1) && decide (d.toNat < 63)
  | .vcas _ _ d => decide (d.toNat < 63)
  | .fence s o => decide (s.toNat ≤ 6) && decide (1 ≤ o.toNat) && decide (o.toNat ≤ 4)
  | .acqp _ s => decide (2 ≤ s.toNat) && decide (s.toNat ≤ 6)
  | .mread p _ _ => decide (p.toNat ≤ 2)
  | .nmx o _ _ => decide (o.toNat ≤ 4)
  | .scan c _ _ => decide (c.toNat ≤ 2)
  | .cred o _ _ => decide (o.toNat ≤ 2)
  | .prefixWord _ _ c s p o =>
      decide (o.toNat ≤ 4) && decide (p.toNat ≤ 6) && decide (s.toNat ≤ 3) && decide (c.toNat ≤ 3)
  | _ => true

/-- A word of the stream that names only registers of their files and defined codes (R105 step 8, R93). -/
def Instr.wellFormed (st : Stream) (i : Instr) : Bool :=
  i.codesOk st && (i.operands st).all (Opnd.inFile st)

/-- An instruction of one stream: it belongs to the stream and is well formed there. -/
def Instr.WF (st : Stream) (i : Instr) : Prop :=
  i.streams.allows st = true ∧ i.wellFormed st = true

/-! ### The codes that each class accepts -/

/-- The orders that a class accepts from a prefix (R96). -/
def AccessClass.acceptsOrder : AccessClass → Order → Bool
  | .load, o => o = .rlx || o = .acq || o = .sc
  | .store, o => o = .rlx || o = .rel || o = .sc
  | .prefetch, o => o = .rlx
  | .atomic, _ => true
  | .portPush, o => o = .rlx || o = .rel
  | .portPop, o => o = .rlx || o = .acq
  | .engine, o => o = .rlx || o = .rel

/-- The spaces that a class accepts (R96). -/
def AccessClass.acceptsSpace : AccessClass → Space → Bool
  | .load, _ | .store, _ | .atomic, _ => true
  | .prefetch, s | .engine, s => s != .spd
  | .portPush, s | .portPop, s => s = .obj

/-- The cache policies that a class accepts (R96). -/
def AccessClass.acceptsCache : AccessClass → CachePolicy → Bool
  | .load, _ | .store, _ | .atomic, _ | .engine, _ => true
  | .prefetch, c => c = .ca || c = .cg
  | .portPush, c | .portPop, c => c = .ca

/-- The members whose bundle bit may be 1 (R96). -/
def Instr.acceptsBundle : Instr → Bool
  | .sts .. | .stc .. | .stq .. | .sst .. | .vst .. | .sctq .. | .vsct .. | .tcopy .. | .tcopys .. | .nmx .. => true
  | _ => false

/-- The members whose view bit may be 1 (R96). -/
def Instr.acceptsView : Instr → Bool
  | .lds .. | .ldc .. | .ldq .. | .sld .. | .vld .. | .gthq .. | .vgth .. | .tcopy .. | .tcopys .. | .scan .. | .ckpt .. => true
  | _ => false

/-- The two combinations that R97 forbids for a member, whichever way the codes came: .spd with a policy other than .ca;
.spd or .hst with the coordinate form, or on a TCOPY or TCOPYS. -/
def Instr.spaceOk (i : Instr) (s : Space) (c : CachePolicy) : Bool :=
  let coord := match i with
    | .lds f .. | .sts f .. | .ldc f .. | .stc f .. | .ldq f .. | .stq f .. | .pref f .. => f = 1
    | .vld f .. | .vst f .. | .sld f .. | .sst f .. => f = 1
    | .tcopy .. | .tcopys .. => true
    | _ => false
  !(s = .spd && c != .ca) && !((s = .spd || s = .hst) && coord)

/-- R239: with space .spd the handle field of an access names register 0 of its file. -/
def Instr.spdHandleOk : Instr → Bool
  | .lds _ _ _ _ h _ | .ldq _ _ _ _ h _ | .vld _ _ _ _ h _ | .sld _ _ _ _ h _ => h = 0
  | .sts _ _ _ h _ | .stq _ _ _ h _ | .vst _ _ _ h _ | .sst _ _ _ h _ => h = 0
  | .ldc _ _ h _ | .stc _ _ h _ => h = 0
  | .gthq _ _ _ _ a _ _ | .sctq _ _ _ _ a _ _ => a = 0
  | .vgth _ _ _ _ a _ | .vsct _ _ _ _ a _ => a = 0
  | .amo _ _ _ a _ | .vamo _ _ a _ | .cas _ _ a _ => a = 0
  | .vcas _ a _ | .waitv _ a _ => a = 0
  | _ => true

/-- The attributes that a prefix gives its successor, when its codes are defined (R9, R96). -/
def prefixAttrs (v b : BitVec 1) (c s p o : BitVec 3) : Option Attrs :=
  match Order.ofCode o, Scope.ofCode p, Space.ofCode s, CachePolicy.ofCode c with
  | some o, some p, some s, some c => some ⟨o, p, s, c, b = 1, v = 1⟩
  | _, _, _, _ => none

/-- Whether a prefixed member accepts its prefix's codes (R96, R97). -/
def Instr.acceptsPrefix (i : Instr) (t : Attrs) : Bool :=
  match i.accessClass with
  | none => false
  | some k => k.acceptsOrder t.order && k.acceptsSpace t.space && k.acceptsCache t.cache
      && (!t.bundle || i.acceptsBundle) && (!t.view || i.acceptsView) && i.spaceOk t.space t.cache
      && (t.space != .spd || i.spdHandleOk)

/-- The order that a class takes from MDEF (R98). -/
def AccessClass.mdefOrder : AccessClass → Order → Order
  | .load, .acq | .load, .ar => .acq
  | .load, .sc => .sc
  | .load, _ => .rlx
  | .store, .rel | .store, .ar => .rel
  | .store, .sc => .sc
  | .store, _ => .rlx
  | .prefetch, _ => .rlx
  | .atomic, o => o
  | .engine, .rel | .engine, .ar | .engine, .sc => .rel
  | .engine, _ => .rlx
  | .portPush, _ | .portPop, _ => .rlx

/-- The attributes that an unprefixed word of a class takes from its stream's MDEF (R98, R62): NPUSH and NPOP do not read
it; an unaccepted policy becomes .ca; none where the space is not accepted (R96, R97). -/
def Instr.mdefAttrs (i : Instr) (mdef : DWord) : Option Attrs :=
  match i.accessClass with
  | none => none
  | some .portPush | some .portPop => some ⟨.rlx, .wv, .obj, .ca, false, false⟩
  | some k =>
    match Order.ofCode (mdef.extractLsb' 0 3), Scope.ofCode (mdef.extractLsb' 3 3), Space.ofCode (mdef.extractLsb' 6 3),
        CachePolicy.ofCode (mdef.extractLsb' 9 3) with
    | some o, some p, some s, some c =>
      let c' := if k.acceptsCache c then c else .ca
      if k.acceptsSpace s && i.spaceOk s c' && (s != .spd || i.spdHandleOk) then
        some ⟨k.mdefOrder o, p, s, c', mdef.getLsbD 12 && i.acceptsBundle, mdef.getLsbD 13 && i.acceptsView⟩
      else none
    | _, _, _, _ => none

/-- The scope, space and policy that WAITV takes from MDEF, judged as for an unprefixed Load (R181). -/
def waitvAttrs (i : Instr) (mdef : DWord) : Option Attrs :=
  match Scope.ofCode (mdef.extractLsb' 3 3), Space.ofCode (mdef.extractLsb' 6 3), CachePolicy.ofCode (mdef.extractLsb' 9 3) with
  | some p, some s, some c =>
    if i.spaceOk s c && (s != .spd || i.spdHandleOk) then some ⟨.acq, p, s, c, false, false⟩ else none
  | _, _, _ => none

end Sys2Proof
end

