-- ==== Sys2Proof/Config.lean ====
section
/-! DEFINITION. The figures of the full module (R1, R34) and the values that the spec leaves free: each free value is a
constant with no body, applied to plain data, so that nothing can evaluate it. -/

namespace Sys2Proof.Config

/-- Cores of a full module (R1, R34). -/
def cores : Nat := 384

/-- Weave slots of a core (R34). -/
def weaveSlots : Nat := 16

/-- Bytes of one row of 96 lane words: a lane register, a queue entry, a port entry row (R34). -/
def rowBytes : Nat := 384

/-- Lane-register bytes of a core (R34). -/
def laneFileBytes : Nat := 393216

/-- Queue pool bytes of a core (R34). -/
def queuePoolBytes : Nat := 131072

/-- Port FIFO pool bytes of a core (R34). -/
def portPoolBytes : Nat := 65536

/-- Bytes that one declared port of a weave takes (R34). -/
def portBytes : Nat := 3072

/-- Barrier slots of a core (R34). -/
def barrierSlots : Nat := 128

/-- Bytes of a frame (R109). -/
def frameBytes : Nat := 65536

/-- The frames of stacked memory: 16 sites of 64 GB (R1). -/
def stackedFrames : Nat := 2 ^ 24

/-- The frames of far memory that the four CXL ports may attach: 8 TB (R1). -/
def farFrames : Nat := 2 ^ 27

/-- Bytes of a region of a tensor object (R116). -/
def regionBytes : Nat := 262144

/-- cc of one monitor window (R121, R137). -/
def windowCycles : Nat := 3300

/-- Bytes a layout change claims of the window's budget, and the budget of a full module (R124). -/
def retileClaim : Nat := 524288

/-- The re-tiling budget of one window with every HBM channel present (R124); 512 channels give 1,088,000 bytes. -/
def retileBudget : Nat := 1088000

/-- What a byte of HBM or far memory reads as when nothing has written it (DESIGN CHOICE, log 2). -/
def unwrittenByte : Byte := 0

/-- FREE: a byte of scratchpad, supervisor store or host memory that nothing has written (R240; log 3); the arguments
are the model's step counter and the byte's address. -/
opaque freeByte : Nat → Nat → Byte

/-- FREE: a 64-bit value (log 3); the arguments are the model's step counter and a number that tells the uses of one step apart. -/
opaque freeDWord : Nat → Nat → DWord

/-- FREE: a choice between two outcomes that the spec allows (log 3). -/
opaque freeBool : Nat → Nat → Bool

/-- FREE: which of so many lines a full cache gives up (R148; log 3). -/
opaque victim : Nat → Nat → Nat

/-- FREE: whether a fabric manager shares a far frame with other hosts (R156; log 3); the argument is the frame number. -/
opaque sharedFar : Nat → Bool

/-- FREE: the cc that pass in a step (log 7). -/
opaque stepCycles : Nat → Nat

/-- FREE: the secrets of Mirog's signing key (R274; log 8): the start of a hash chain of a leaf, the key of the random values, and the
public seed. -/
opaque chainSecret : Nat → Nat → BitVec 256
opaque prfSecret : Nat → BitVec 256
opaque publicSeed : Nat → BitVec 256

/-- FREE: a special-function result whose enclosure does not decide the rounding at the working precision (log 9). -/
opaque undecidedResult : Nat → Word

/-- FREE: an element that another rank contributes to a collective (R222; log 10): the arguments are the collective's
tag and number, the rank and the element. -/
opaque peerElement : Nat → Nat → Nat → Nat → Word

/-- FREE: the order in which the terms of a collective's float sum are added (R222, R319; log 10): the arguments are the
collective's tag and number, the element, and the number of the choice. -/
opaque collectiveOrder : Nat → Nat → Nat → Nat → Nat

/-- FREE: the element type of host memory that an engine command names (R213; log 17): the argument is the kind code. -/
opaque hostType : Nat → Nat

/-- FREE: whether the commands of the other ranks agree with this rank's (R222; log 10). -/
opaque peersAgree : Nat → Nat → Bool

end Sys2Proof.Config
end

