-- ==== Sys2Proof/Decode.lean ====
section
/-! DEFINITION. Framing (R89), the decoder (R92 to R104) and the encoder beside it. A word is read by its major and its
member code (R101, R103, R104, R100); its must-be-zero bits are zero exactly when the member it names encodes back to it. -/

namespace Sys2Proof

noncomputable section

/-- An instruction word by its length (R89). -/
inductive InstrWord where
  | short (w : BitVec 16)
  | long (w : BitVec 32)
deriving DecidableEq, Repr, Inhabited

/-- The members of major 1 (R101) by the code in bits [31:28]. -/
def decodeSalu (w : BitVec 32) : Option Instr :=
  match (w.extractLsb' 28 4).toNat with
  | 0 => some (.add (w.extractLsb' 18 6) (w.extractLsb' 12 6) (w.extractLsb' 6 6))
  | 1 => some (.sub (w.extractLsb' 18 6) (w.extractLsb' 12 6) (w.extractLsb' 6 6))
  | 2 => some (.mul (w.extractLsb' 18 6) (w.extractLsb' 12 6) (w.extractLsb' 6 6))
  | 3 => some (.mulh (w.extractLsb' 18 6) (w.extractLsb' 12 6) (w.extractLsb' 6 6))
  | 4 => some (.divu (w.extractLsb' 18 6) (w.extractLsb' 12 6) (w.extractLsb' 6 6))
  | 5 => some (.remu (w.extractLsb' 18 6) (w.extractLsb' 12 6) (w.extractLsb' 6 6))
  | 6 => some (.and (w.extractLsb' 18 6) (w.extractLsb' 12 6) (w.extractLsb' 6 6))
  | 7 => some (.or (w.extractLsb' 18 6) (w.extractLsb' 12 6) (w.extractLsb' 6 6))
  | 8 => some (.xor (w.extractLsb' 18 6) (w.extractLsb' 12 6) (w.extractLsb' 6 6))
  | 9 => some (.shl (w.extractLsb' 18 6) (w.extractLsb' 12 6) (w.extractLsb' 6 6))
  | 10 => some (.shr (w.extractLsb' 18 6) (w.extractLsb' 12 6) (w.extractLsb' 6 6))
  | 11 => some (.sar (w.extractLsb' 18 6) (w.extractLsb' 12 6) (w.extractLsb' 6 6))
  | 12 => some (.slt (w.extractLsb' 18 6) (w.extractLsb' 12 6) (w.extractLsb' 6 6))
  | 13 => some (.sltu (w.extractLsb' 18 6) (w.extractLsb' 12 6) (w.extractLsb' 6 6))
  | 14 => some (.min (w.extractLsb' 18 6) (w.extractLsb' 12 6) (w.extractLsb' 6 6))
  | _ => some (.max (w.extractLsb' 18 6) (w.extractLsb' 12 6) (w.extractLsb' 6 6))

/-- The members of major 2 (R101) by the code in bits [31:28]. -/
def decodeSalui (w : BitVec 32) : Option Instr :=
  match (w.extractLsb' 28 4).toNat with
  | 0 => some (.addi (w.extractLsb' 18 10) (w.extractLsb' 12 6) (w.extractLsb' 6 6))
  | 1 => some (.andi (w.extractLsb' 18 10) (w.extractLsb' 12 6) (w.extractLsb' 6 6))
  | 2 => some (.ori (w.extractLsb' 18 10) (w.extractLsb' 12 6) (w.extractLsb' 6 6))
  | 3 => some (.xori (w.extractLsb' 18 10) (w.extractLsb' 12 6) (w.extractLsb' 6 6))
  | 4 => some (.shli (w.extractLsb' 18 10) (w.extractLsb' 12 6) (w.extractLsb' 6 6))
  | 5 => some (.shri (w.extractLsb' 18 10) (w.extractLsb' 12 6) (w.extractLsb' 6 6))
  | 6 => some (.sari (w.extractLsb' 18 10) (w.extractLsb' 12 6) (w.extractLsb' 6 6))
  | 7 => some (.slti (w.extractLsb' 18 10) (w.extractLsb' 12 6) (w.extractLsb' 6 6))
  | _ => none

/-- The members of major 3 (R101) by the code in bits [31:28]. -/
def decodeSmisc (w : BitVec 32) : Option Instr :=
  match (w.extractLsb' 28 4).toNat with
  | 0 => some (.clz (w.extractLsb' 12 6) (w.extractLsb' 6 6))
  | 1 => some (.popc (w.extractLsb' 12 6) (w.extractLsb' 6 6))
  | 2 => some (.sel (w.extractLsb' 18 6) (w.extractLsb' 12 6) (w.extractLsb' 6 6))
  | 3 => some (.mfc (w.extractLsb' 12 6) (w.extractLsb' 6 6))
  | 4 => some (.mtc (w.extractLsb' 12 6) (w.extractLsb' 6 6))
  | 5 => some (.clock (w.extractLsb' 12 6) (w.extractLsb' 6 6))
  | 6 => some (.pgq (w.extractLsb' 12 6) (w.extractLsb' 6 6))
  | _ => none

/-- Major 4 has one member (R101). -/
def decodeMovi (w : BitVec 32) : Option Instr := some (.movi (w.extractLsb' 12 20) (w.extractLsb' 6 6))

/-- Major 5 has one member (R101). -/
def decodeMovk (w : BitVec 32) : Option Instr := some (.movk (w.extractLsb' 28 2) (w.extractLsb' 12 16) (w.extractLsb' 6 6))

/-- Major 6 has one member (R101). -/
def decodeBra (w : BitVec 32) : Option Instr := some (.bra (w.extractLsb' 6 26))

/-- Major 7 has one member (R101). -/
def decodeCall (w : BitVec 32) : Option Instr := some (.call (w.extractLsb' 6 26))

/-- Major 8 has one member (R101). -/
def decodeBcc (w : BitVec 32) : Option Instr := some (.bcc (w.extractLsb' 21 11) (w.extractLsb' 18 3) (w.extractLsb' 12 6) (w.extractLsb' 6 6))

/-- The members of major 9 (R101) by the code in bits [31:28]. -/
def decodeCtrl (w : BitVec 32) : Option Instr :=
  match (w.extractLsb' 28 4).toNat with
  | 0 => some (.ret)
  | 1 => some (.jmpr (w.extractLsb' 12 6) (w.extractLsb' 6 6))
  | 2 => some (.exit)
  | 3 => some (.nop)
  | 4 => some (.yield (w.extractLsb' 12 12) (w.extractLsb' 6 6))
  | 5 => some (.wait (w.extractLsb' 6 6))
  | 6 => some (.trap (w.extractLsb' 12 12))
  | 7 => some (.rte)
  | 8 => some (.brk)
  | 9 => some (.brv (w.extractLsb' 10 14) (w.extractLsb' 9 1) (w.extractLsb' 6 3))
  | 10 => some (.join (w.extractLsb' 6 18))
  | 11 => some (.vote (w.extractLsb' 18 3) (w.extractLsb' 12 3) (w.extractLsb' 6 6))
  | 12 => some (.launch (w.extractLsb' 18 6) (w.extractLsb' 12 6) (w.extractLsb' 6 6))
  | _ => none

/-- The members of major 10 (R101) by the code in bits [31:28]. -/
def decodeVialu (w : BitVec 32) : Option Instr :=
  match (w.extractLsb' 28 4).toNat with
  | 0 => some (.vadd (w.extractLsb' 24 4) (w.extractLsb' 18 6) (w.extractLsb' 12 6) (w.extractLsb' 6 6))
  | 1 => some (.vsub (w.extractLsb' 24 4) (w.extractLsb' 18 6) (w.extractLsb' 12 6) (w.extractLsb' 6 6))
  | 2 => some (.vmul (w.extractLsb' 24 4) (w.extractLsb' 18 6) (w.extractLsb' 12 6) (w.extractLsb' 6 6))
  | 3 => some (.vmulh (w.extractLsb' 24 4) (w.extractLsb' 18 6) (w.extractLsb' 12 6) (w.extractLsb' 6 6))
  | 4 => some (.vmulhu (w.extractLsb' 24 4) (w.extractLsb' 18 6) (w.extractLsb' 12 6) (w.extractLsb' 6 6))
  | 5 => some (.vmad (w.extractLsb' 24 4) (w.extractLsb' 18 6) (w.extractLsb' 12 6) (w.extractLsb' 6 6))
  | 6 => some (.vand (w.extractLsb' 24 4) (w.extractLsb' 18 6) (w.extractLsb' 12 6) (w.extractLsb' 6 6))
  | 7 => some (.vor (w.extractLsb' 24 4) (w.extractLsb' 18 6) (w.extractLsb' 12 6) (w.extractLsb' 6 6))
  | 8 => some (.vxor (w.extractLsb' 24 4) (w.extractLsb' 18 6) (w.extractLsb' 12 6) (w.extractLsb' 6 6))
  | 9 => some (.vshl (w.extractLsb' 24 4) (w.extractLsb' 18 6) (w.extractLsb' 12 6) (w.extractLsb' 6 6))
  | 10 => some (.vshr (w.extractLsb' 24 4) (w.extractLsb' 18 6) (w.extractLsb' 12 6) (w.extractLsb' 6 6))
  | 11 => some (.vsar (w.extractLsb' 24 4) (w.extractLsb' 18 6) (w.extractLsb' 12 6) (w.extractLsb' 6 6))
  | 12 => some (.vmin (w.extractLsb' 24 4) (w.extractLsb' 18 6) (w.extractLsb' 12 6) (w.extractLsb' 6 6))
  | 13 => some (.vmax (w.extractLsb' 24 4) (w.extractLsb' 18 6) (w.extractLsb' 12 6) (w.extractLsb' 6 6))
  | 14 => some (.vadds (w.extractLsb' 24 4) (w.extractLsb' 18 6) (w.extractLsb' 12 6) (w.extractLsb' 6 6))
  | _ => some (.vsubs (w.extractLsb' 24 4) (w.extractLsb' 18 6) (w.extractLsb' 12 6) (w.extractLsb' 6 6))

/-- The members of major 11 (R101) by the code in bits [31:28]. -/
def decodeVialu16 (w : BitVec 32) : Option Instr :=
  match (w.extractLsb' 28 4).toNat with
  | 0 => some (.vaddI16 (w.extractLsb' 24 4) (w.extractLsb' 18 6) (w.extractLsb' 12 6) (w.extractLsb' 6 6))
  | 1 => some (.vsubI16 (w.extractLsb' 24 4) (w.extractLsb' 18 6) (w.extractLsb' 12 6) (w.extractLsb' 6 6))
  | 2 => some (.vmulI16 (w.extractLsb' 24 4) (w.extractLsb' 18 6) (w.extractLsb' 12 6) (w.extractLsb' 6 6))
  | 3 => some (.vmulhI16 (w.extractLsb' 24 4) (w.extractLsb' 18 6) (w.extractLsb' 12 6) (w.extractLsb' 6 6))
  | 4 => some (.vmulhuI16 (w.extractLsb' 24 4) (w.extractLsb' 18 6) (w.extractLsb' 12 6) (w.extractLsb' 6 6))
  | 5 => some (.vmadI16 (w.extractLsb' 24 4) (w.extractLsb' 18 6) (w.extractLsb' 12 6) (w.extractLsb' 6 6))
  | 6 => some (.vandI16 (w.extractLsb' 24 4) (w.extractLsb' 18 6) (w.extractLsb' 12 6) (w.extractLsb' 6 6))
  | 7 => some (.vorI16 (w.extractLsb' 24 4) (w.extractLsb' 18 6) (w.extractLsb' 12 6) (w.extractLsb' 6 6))
  | 8 => some (.vxorI16 (w.extractLsb' 24 4) (w.extractLsb' 18 6) (w.extractLsb' 12 6) (w.extractLsb' 6 6))
  | 9 => some (.vshlI16 (w.extractLsb' 24 4) (w.extractLsb' 18 6) (w.extractLsb' 12 6) (w.extractLsb' 6 6))
  | 10 => some (.vshrI16 (w.extractLsb' 24 4) (w.extractLsb' 18 6) (w.extractLsb' 12 6) (w.extractLsb' 6 6))
  | 11 => some (.vsarI16 (w.extractLsb' 24 4) (w.extractLsb' 18 6) (w.extractLsb' 12 6) (w.extractLsb' 6 6))
  | 12 => some (.vminI16 (w.extractLsb' 24 4) (w.extractLsb' 18 6) (w.extractLsb' 12 6) (w.extractLsb' 6 6))
  | 13 => some (.vmaxI16 (w.extractLsb' 24 4) (w.extractLsb' 18 6) (w.extractLsb' 12 6) (w.extractLsb' 6 6))
  | 14 => some (.vaddsI16 (w.extractLsb' 24 4) (w.extractLsb' 18 6) (w.extractLsb' 12 6) (w.extractLsb' 6 6))
  | _ => some (.vsubsI16 (w.extractLsb' 24 4) (w.extractLsb' 18 6) (w.extractLsb' 12 6) (w.extractLsb' 6 6))

/-- The members of major 12 (R101) by the code in bits [31:28]. -/
def decodeVialu8 (w : BitVec 32) : Option Instr :=
  match (w.extractLsb' 28 4).toNat with
  | 0 => some (.vaddI8 (w.extractLsb' 24 4) (w.extractLsb' 18 6) (w.extractLsb' 12 6) (w.extractLsb' 6 6))
  | 1 => some (.vsubI8 (w.extractLsb' 24 4) (w.extractLsb' 18 6) (w.extractLsb' 12 6) (w.extractLsb' 6 6))
  | 2 => some (.vmulI8 (w.extractLsb' 24 4) (w.extractLsb' 18 6) (w.extractLsb' 12 6) (w.extractLsb' 6 6))
  | 3 => some (.vmulhI8 (w.extractLsb' 24 4) (w.extractLsb' 18 6) (w.extractLsb' 12 6) (w.extractLsb' 6 6))
  | 4 => some (.vmulhuI8 (w.extractLsb' 24 4) (w.extractLsb' 18 6) (w.extractLsb' 12 6) (w.extractLsb' 6 6))
  | 5 => some (.vmadI8 (w.extractLsb' 24 4) (w.extractLsb' 18 6) (w.extractLsb' 12 6) (w.extractLsb' 6 6))
  | 6 => some (.vandI8 (w.extractLsb' 24 4) (w.extractLsb' 18 6) (w.extractLsb' 12 6) (w.extractLsb' 6 6))
  | 7 => some (.vorI8 (w.extractLsb' 24 4) (w.extractLsb' 18 6) (w.extractLsb' 12 6) (w.extractLsb' 6 6))
  | 8 => some (.vxorI8 (w.extractLsb' 24 4) (w.extractLsb' 18 6) (w.extractLsb' 12 6) (w.extractLsb' 6 6))
  | 9 => some (.vshlI8 (w.extractLsb' 24 4) (w.extractLsb' 18 6) (w.extractLsb' 12 6) (w.extractLsb' 6 6))
  | 10 => some (.vshrI8 (w.extractLsb' 24 4) (w.extractLsb' 18 6) (w.extractLsb' 12 6) (w.extractLsb' 6 6))
  | 11 => some (.vsarI8 (w.extractLsb' 24 4) (w.extractLsb' 18 6) (w.extractLsb' 12 6) (w.extractLsb' 6 6))
  | 12 => some (.vminI8 (w.extractLsb' 24 4) (w.extractLsb' 18 6) (w.extractLsb' 12 6) (w.extractLsb' 6 6))
  | 13 => some (.vmaxI8 (w.extractLsb' 24 4) (w.extractLsb' 18 6) (w.extractLsb' 12 6) (w.extractLsb' 6 6))
  | 14 => some (.vaddsI8 (w.extractLsb' 24 4) (w.extractLsb' 18 6) (w.extractLsb' 12 6) (w.extractLsb' 6 6))
  | _ => some (.vsubsI8 (w.extractLsb' 24 4) (w.extractLsb' 18 6) (w.extractLsb' 12 6) (w.extractLsb' 6 6))

/-- The members of major 13 (R101) by the code in bits [31:28]. -/
def decodeVimisc (w : BitVec 32) : Option Instr :=
  match (w.extractLsb' 28 4).toNat with
  | 0 => some (.vcmp (w.extractLsb' 24 4) (w.extractLsb' 18 6) (w.extractLsb' 12 6) (w.extractLsb' 9 3) (w.extractLsb' 6 3))
  | 1 => some (.vsel (w.extractLsb' 24 4) (w.extractLsb' 18 6) (w.extractLsb' 12 3) (w.extractLsb' 6 6))
  | 2 => some (.vabs (w.extractLsb' 24 4) (w.extractLsb' 18 6) (w.extractLsb' 6 6))
  | 3 => some (.vclz (w.extractLsb' 24 4) (w.extractLsb' 18 6) (w.extractLsb' 6 6))
  | 4 => some (.vpopc (w.extractLsb' 24 4) (w.extractLsb' 18 6) (w.extractLsb' 6 6))
  | 5 => some (.vdot4 (w.extractLsb' 24 4) (w.extractLsb' 18 6) (w.extractLsb' 12 6) (w.extractLsb' 6 6))
  | 6 => some (.vmov (w.extractLsb' 24 4) (w.extractLsb' 18 6) (w.extractLsb' 6 6))
  | 7 => some (.vext (w.extractLsb' 24 4) (w.extractLsb' 18 6) (w.extractLsb' 15 1) (w.extractLsb' 14 1) (w.extractLsb' 12 2) (w.extractLsb' 6 6))
  | 8 => some (.vins (w.extractLsb' 24 4) (w.extractLsb' 18 6) (w.extractLsb' 14 1) (w.extractLsb' 12 2) (w.extractLsb' 6 6))
  | 9 => some (.vbcst (w.extractLsb' 12 6) (w.extractLsb' 6 6))
  | 10 => some (.vminu (w.extractLsb' 24 4) (w.extractLsb' 18 6) (w.extractLsb' 12 6) (w.extractLsb' 6 6))
  | 11 => some (.vmaxu (w.extractLsb' 24 4) (w.extractLsb' 18 6) (w.extractLsb' 12 6) (w.extractLsb' 6 6))
  | _ => none

/-- The members of major 14 (R101) by the code in bits [31:28]. -/
def decodeVfalu (w : BitVec 32) : Option Instr :=
  match (w.extractLsb' 28 4).toNat with
  | 0 => some (.fadd (w.extractLsb' 24 4) (w.extractLsb' 18 6) (w.extractLsb' 12 6) (w.extractLsb' 6 6))
  | 1 => some (.fsub (w.extractLsb' 24 4) (w.extractLsb' 18 6) (w.extractLsb' 12 6) (w.extractLsb' 6 6))
  | 2 => some (.fmul (w.extractLsb' 24 4) (w.extractLsb' 18 6) (w.extractLsb' 12 6) (w.extractLsb' 6 6))
  | 3 => some (.fma (w.extractLsb' 24 4) (w.extractLsb' 18 6) (w.extractLsb' 12 6) (w.extractLsb' 6 6))
  | 4 => some (.fnma (w.extractLsb' 24 4) (w.extractLsb' 18 6) (w.extractLsb' 12 6) (w.extractLsb' 6 6))
  | 5 => some (.fmin (w.extractLsb' 24 4) (w.extractLsb' 18 6) (w.extractLsb' 12 6) (w.extractLsb' 6 6))
  | 6 => some (.fmax (w.extractLsb' 24 4) (w.extractLsb' 18 6) (w.extractLsb' 12 6) (w.extractLsb' 6 6))
  | 7 => some (.fcmp (w.extractLsb' 24 4) (w.extractLsb' 18 6) (w.extractLsb' 12 6) (w.extractLsb' 9 3) (w.extractLsb' 6 3))
  | 8 => some (.fabs (w.extractLsb' 24 4) (w.extractLsb' 18 6) (w.extractLsb' 6 6))
  | 9 => some (.fneg (w.extractLsb' 24 4) (w.extractLsb' 18 6) (w.extractLsb' 6 6))
  | 10 => some (.fsign (w.extractLsb' 24 4) (w.extractLsb' 18 6) (w.extractLsb' 12 6) (w.extractLsb' 6 6))
  | 11 => some (.fscale (w.extractLsb' 24 4) (w.extractLsb' 18 6) (w.extractLsb' 12 6) (w.extractLsb' 6 6))
  | 12 => some (.frnd (w.extractLsb' 24 4) (w.extractLsb' 18 6) (w.extractLsb' 12 3) (w.extractLsb' 6 6))
  | 13 => some (.fclass (w.extractLsb' 24 4) (w.extractLsb' 18 6) (w.extractLsb' 6 6))
  | _ => none

/-- The members of major 15 (R101) by the code in bits [31:28]. -/
def decodeVfpk (w : BitVec 32) : Option Instr :=
  match (w.extractLsb' 28 4).toNat with
  | 0 => some (.faddF16 (w.extractLsb' 24 4) (w.extractLsb' 18 6) (w.extractLsb' 12 6) (w.extractLsb' 6 6))
  | 1 => some (.fsubF16 (w.extractLsb' 24 4) (w.extractLsb' 18 6) (w.extractLsb' 12 6) (w.extractLsb' 6 6))
  | 2 => some (.fmulF16 (w.extractLsb' 24 4) (w.extractLsb' 18 6) (w.extractLsb' 12 6) (w.extractLsb' 6 6))
  | 3 => some (.fmaF16 (w.extractLsb' 24 4) (w.extractLsb' 18 6) (w.extractLsb' 12 6) (w.extractLsb' 6 6))
  | 4 => some (.fminF16 (w.extractLsb' 24 4) (w.extractLsb' 18 6) (w.extractLsb' 12 6) (w.extractLsb' 6 6))
  | 5 => some (.fmaxF16 (w.extractLsb' 24 4) (w.extractLsb' 18 6) (w.extractLsb' 12 6) (w.extractLsb' 6 6))
  | 6 => some (.fcmpF16 (w.extractLsb' 24 4) (w.extractLsb' 18 6) (w.extractLsb' 12 6) (w.extractLsb' 9 3) (w.extractLsb' 6 3))
  | 7 => some (.fdot2F16 (w.extractLsb' 24 4) (w.extractLsb' 18 6) (w.extractLsb' 12 6) (w.extractLsb' 6 6))
  | 8 => some (.faddBf16 (w.extractLsb' 24 4) (w.extractLsb' 18 6) (w.extractLsb' 12 6) (w.extractLsb' 6 6))
  | 9 => some (.fsubBf16 (w.extractLsb' 24 4) (w.extractLsb' 18 6) (w.extractLsb' 12 6) (w.extractLsb' 6 6))
  | 10 => some (.fmulBf16 (w.extractLsb' 24 4) (w.extractLsb' 18 6) (w.extractLsb' 12 6) (w.extractLsb' 6 6))
  | 11 => some (.fmaBf16 (w.extractLsb' 24 4) (w.extractLsb' 18 6) (w.extractLsb' 12 6) (w.extractLsb' 6 6))
  | 12 => some (.fminBf16 (w.extractLsb' 24 4) (w.extractLsb' 18 6) (w.extractLsb' 12 6) (w.extractLsb' 6 6))
  | 13 => some (.fmaxBf16 (w.extractLsb' 24 4) (w.extractLsb' 18 6) (w.extractLsb' 12 6) (w.extractLsb' 6 6))
  | 14 => some (.fcmpBf16 (w.extractLsb' 24 4) (w.extractLsb' 18 6) (w.extractLsb' 12 6) (w.extractLsb' 9 3) (w.extractLsb' 6 3))
  | _ => some (.fdot2Bf16 (w.extractLsb' 24 4) (w.extractLsb' 18 6) (w.extractLsb' 12 6) (w.extractLsb' 6 6))

/-- The members of major 16 (R101) by the code in bits [31:28]. -/
def decodeVsfu (w : BitVec 32) : Option Instr :=
  match (w.extractLsb' 28 4).toNat with
  | 0 => some (.frcp (w.extractLsb' 24 4) (w.extractLsb' 18 6) (w.extractLsb' 6 6))
  | 1 => some (.frsq (w.extractLsb' 24 4) (w.extractLsb' 18 6) (w.extractLsb' 6 6))
  | 2 => some (.fsqrt (w.extractLsb' 24 4) (w.extractLsb' 18 6) (w.extractLsb' 6 6))
  | 3 => some (.fdiv (w.extractLsb' 24 4) (w.extractLsb' 18 6) (w.extractLsb' 12 6) (w.extractLsb' 6 6))
  | 4 => some (.fexp2 (w.extractLsb' 24 4) (w.extractLsb' 18 6) (w.extractLsb' 6 6))
  | 5 => some (.flog2 (w.extractLsb' 24 4) (w.extractLsb' 18 6) (w.extractLsb' 6 6))
  | 6 => some (.fsin (w.extractLsb' 24 4) (w.extractLsb' 18 6) (w.extractLsb' 6 6))
  | 7 => some (.fcos (w.extractLsb' 24 4) (w.extractLsb' 18 6) (w.extractLsb' 6 6))
  | 8 => some (.ftanh (w.extractLsb' 24 4) (w.extractLsb' 18 6) (w.extractLsb' 6 6))
  | _ => none

/-- The members of major 17 (R101) by the code in bits [31:30]. -/
def decodeVcvt (w : BitVec 32) : Option Instr :=
  match (w.extractLsb' 30 2).toNat with
  | 0 => some (.fcvt (w.extractLsb' 27 3) (w.extractLsb' 24 3) (w.extractLsb' 18 3) (w.extractLsb' 12 6) (w.extractLsb' 6 6))
  | 1 => some (.qblk (w.extractLsb' 28 2) (w.extractLsb' 18 6) (w.extractLsb' 12 6) (w.extractLsb' 6 6))
  | 2 => some (.dqblk (w.extractLsb' 28 2) (w.extractLsb' 18 6) (w.extractLsb' 12 6) (w.extractLsb' 6 6))
  | _ => none

/-- The members of major 18 (R101) by the code in bits [31:28]. -/
def decodeVrearr (w : BitVec 32) : Option Instr :=
  match (w.extractLsb' 28 4).toNat with
  | 0 => some (.zipW2 (w.extractLsb' 12 6) (w.extractLsb' 6 6))
  | 1 => some (.zipW3 (w.extractLsb' 12 6) (w.extractLsb' 6 6))
  | 2 => some (.zipW4 (w.extractLsb' 12 6) (w.extractLsb' 6 6))
  | 3 => some (.unzipW2 (w.extractLsb' 12 6) (w.extractLsb' 6 6))
  | 4 => some (.unzipW3 (w.extractLsb' 12 6) (w.extractLsb' 6 6))
  | 5 => some (.unzipW4 (w.extractLsb' 12 6) (w.extractLsb' 6 6))
  | 6 => some (.vperm (w.extractLsb' 24 4) (w.extractLsb' 18 6) (w.extractLsb' 12 6) (w.extractLsb' 6 6))
  | 7 => some (.vred (w.extractLsb' 21 2) (w.extractLsb' 18 3) (w.extractLsb' 12 6) (w.extractLsb' 6 6))
  | 8 => some (.vscan (w.extractLsb' 21 2) (w.extractLsb' 18 3) (w.extractLsb' 12 6) (w.extractLsb' 6 6))
  | 9 => some (.vcmpr (w.extractLsb' 18 3) (w.extractLsb' 12 6) (w.extractLsb' 6 6))
  | _ => none

/-- The members of major 19 (R101) by the code in bits [31:28]. -/
def decodeVimm (w : BitVec 32) : Option Instr :=
  match (w.extractLsb' 28 4).toNat with
  | 0 => some (.vaddi (w.extractLsb' 18 10) (w.extractLsb' 12 6) (w.extractLsb' 6 6))
  | 1 => some (.vandi (w.extractLsb' 18 10) (w.extractLsb' 12 6) (w.extractLsb' 6 6))
  | 2 => some (.vori (w.extractLsb' 18 10) (w.extractLsb' 12 6) (w.extractLsb' 6 6))
  | 3 => some (.vxori (w.extractLsb' 18 10) (w.extractLsb' 12 6) (w.extractLsb' 6 6))
  | 4 => some (.vshli (w.extractLsb' 18 10) (w.extractLsb' 12 6) (w.extractLsb' 6 6))
  | 5 => some (.vshri (w.extractLsb' 18 10) (w.extractLsb' 12 6) (w.extractLsb' 6 6))
  | 6 => some (.vsari (w.extractLsb' 18 10) (w.extractLsb' 12 6) (w.extractLsb' 6 6))
  | 7 => some (.vmovi (w.extractLsb' 18 10) (w.extractLsb' 6 6))
  | 8 => some (.vcmpi (w.extractLsb' 18 10) (w.extractLsb' 12 6) (w.extractLsb' 9 3) (w.extractLsb' 6 3))
  | _ => none

/-- The members of major 20 (R101) by the code in bits [31:28]. -/
def decodeIdxq (w : BitVec 32) : Option Instr :=
  match (w.extractLsb' 28 4).toNat with
  | 0 => some (.vldx (w.extractLsb' 18 2) (w.extractLsb' 12 6) (w.extractLsb' 6 6))
  | 1 => some (.vstx (w.extractLsb' 24 4) (w.extractLsb' 18 6) (w.extractLsb' 12 6) (w.extractLsb' 6 2))
  | 2 => some (.setx (w.extractLsb' 12 6) (w.extractLsb' 6 2))
  | 3 => some (.qpush (w.extractLsb' 12 6) (w.extractLsb' 8 1) (w.extractLsb' 6 2))
  | 4 => some (.qpop (w.extractLsb' 14 1) (w.extractLsb' 12 2) (w.extractLsb' 6 6))
  | 5 => some (.qpeek (w.extractLsb' 14 1) (w.extractLsb' 12 2) (w.extractLsb' 6 6))
  | 6 => some (.qstat (w.extractLsb' 12 2) (w.extractLsb' 6 6))
  | _ => none

/-- The members of major 21 (R101) by the code in bits [31:28]. -/
def decodePort (w : BitVec 32) : Option Instr :=
  match (w.extractLsb' 28 4).toNat with
  | 0 => some (.npush (w.extractLsb' 24 4) (w.extractLsb' 18 6) (w.extractLsb' 6 3))
  | 1 => some (.npop (w.extractLsb' 12 3) (w.extractLsb' 6 6))
  | 2 => some (.npeek (w.extractLsb' 12 3) (w.extractLsb' 6 6))
  | 3 => some (.npoll (w.extractLsb' 12 3) (w.extractLsb' 9 1) (w.extractLsb' 6 3))
  | 4 => some (.nsave (w.extractLsb' 18 3) (w.extractLsb' 12 6))
  | 5 => some (.nload (w.extractLsb' 18 3) (w.extractLsb' 12 6))
  | 6 => some (.xshuf (w.extractLsb' 12 6) (w.extractLsb' 6 6))
  | _ => none

/-- The members of major 22 (R101) by the code in bits [31:28]. -/
def decodeMema (w : BitVec 32) : Option Instr :=
  match (w.extractLsb' 28 4).toNat with
  | 0 => some (.lds (w.extractLsb' 27 1) (w.extractLsb' 25 2) (w.extractLsb' 24 1) (w.extractLsb' 18 6) (w.extractLsb' 12 6) (w.extractLsb' 6 6))
  | 1 => some (.sts (w.extractLsb' 27 1) (w.extractLsb' 25 2) (w.extractLsb' 18 6) (w.extractLsb' 12 6) (w.extractLsb' 6 6))
  | 2 => some (.ldc (w.extractLsb' 27 1) (w.extractLsb' 18 6) (w.extractLsb' 12 6) (w.extractLsb' 6 6))
  | 3 => some (.stc (w.extractLsb' 27 1) (w.extractLsb' 18 6) (w.extractLsb' 12 6) (w.extractLsb' 6 6))
  | 4 => some (.ldq (w.extractLsb' 27 1) (w.extractLsb' 25 2) (w.extractLsb' 24 1) (w.extractLsb' 18 6) (w.extractLsb' 12 6) (w.extractLsb' 6 2))
  | 5 => some (.stq (w.extractLsb' 27 1) (w.extractLsb' 25 2) (w.extractLsb' 18 6) (w.extractLsb' 12 6) (w.extractLsb' 6 2))
  | 6 => some (.pref (w.extractLsb' 27 1) (w.extractLsb' 18 6) (w.extractLsb' 12 6))
  | _ => none

/-- The members of major 23 (R101) by the code in bits [31:28]. -/
def decodeMemv (w : BitVec 32) : Option Instr :=
  match (w.extractLsb' 28 4).toNat with
  | 0 => some (.vld (w.extractLsb' 27 1) (w.extractLsb' 25 2) (w.extractLsb' 24 1) (w.extractLsb' 18 6) (w.extractLsb' 12 6) (w.extractLsb' 6 6))
  | 1 => some (.vst (w.extractLsb' 27 1) (w.extractLsb' 25 2) (w.extractLsb' 18 6) (w.extractLsb' 12 6) (w.extractLsb' 6 6))
  | 2 => some (.sld (w.extractLsb' 27 1) (w.extractLsb' 25 2) (w.extractLsb' 24 1) (w.extractLsb' 18 6) (w.extractLsb' 12 6) (w.extractLsb' 6 6))
  | 3 => some (.sst (w.extractLsb' 27 1) (w.extractLsb' 25 2) (w.extractLsb' 18 6) (w.extractLsb' 12 6) (w.extractLsb' 6 6))
  | _ => none

/-- The members of major 24 (R101) by the code in bits [31:30]. -/
def decodeGath (w : BitVec 32) : Option Instr :=
  match (w.extractLsb' 30 2).toNat with
  | 0 => some (.gthq (w.extractLsb' 28 2) (w.extractLsb' 27 1) (w.extractLsb' 25 2) (w.extractLsb' 18 6) (w.extractLsb' 12 6) (w.extractLsb' 8 2) (w.extractLsb' 6 2))
  | 1 => some (.sctq (w.extractLsb' 28 2) (w.extractLsb' 27 1) (w.extractLsb' 25 2) (w.extractLsb' 18 6) (w.extractLsb' 12 6) (w.extractLsb' 8 2) (w.extractLsb' 6 2))
  | 2 => some (.vgth (w.extractLsb' 28 2) (w.extractLsb' 27 1) (w.extractLsb' 25 2) (w.extractLsb' 18 6) (w.extractLsb' 12 6) (w.extractLsb' 6 6))
  | _ => some (.vsct (w.extractLsb' 28 2) (w.extractLsb' 27 1) (w.extractLsb' 25 2) (w.extractLsb' 18 6) (w.extractLsb' 12 6) (w.extractLsb' 6 6))

/-- The members of major 25 (R101) by the code in bits [31:30]. -/
def decodeAtom (w : BitVec 32) : Option Instr :=
  match (w.extractLsb' 30 2).toNat with
  | 0 => some (.amo (w.extractLsb' 26 4) (w.extractLsb' 24 2) (w.extractLsb' 18 6) (w.extractLsb' 12 6) (w.extractLsb' 6 6))
  | 1 => some (.vamo (w.extractLsb' 26 4) (w.extractLsb' 18 6) (w.extractLsb' 12 6) (w.extractLsb' 6 6))
  | 2 => some (.cas (w.extractLsb' 24 2) (w.extractLsb' 18 6) (w.extractLsb' 12 6) (w.extractLsb' 6 6))
  | _ => some (.vcas (w.extractLsb' 18 6) (w.extractLsb' 12 6) (w.extractLsb' 6 6))

/-- The members of major 26 (R101) by the code in bits [31:28]. -/
def decodeSync (w : BitVec 32) : Option Instr :=
  match (w.extractLsb' 28 4).toNat with
  | 0 => some (.fence (w.extractLsb' 9 3) (w.extractLsb' 6 3))
  | 1 => some (.acqp (w.extractLsb' 12 6) (w.extractLsb' 9 3))
  | 2 => some (.bar (w.extractLsb' 6 6))
  | 3 => some (.binit (w.extractLsb' 12 6) (w.extractLsb' 6 6))
  | 4 => some (.bara (w.extractLsb' 6 6))
  | 5 => some (.barw (w.extractLsb' 6 6))
  | 6 => some (.waitv (w.extractLsb' 18 6) (w.extractLsb' 12 6) (w.extractLsb' 6 6))
  | _ => none

/-- The members of major 27 (R101) by the code in bits [31:28]. -/
def decodeBndl (w : BitVec 32) : Option Instr :=
  match (w.extractLsb' 28 4).toNat with
  | 0 => some (.bopen (w.extractLsb' 18 6) (w.extractLsb' 12 6) (w.extractLsb' 6 6))
  | 1 => some (.bjoin (w.extractLsb' 12 6) (w.extractLsb' 6 6))
  | 2 => some (.bclose (w.extractLsb' 6 6))
  | 3 => some (.babort (w.extractLsb' 12 6))
  | 4 => some (.bview (w.extractLsb' 12 6) (w.extractLsb' 6 6))
  | 5 => some (.brel (w.extractLsb' 12 6))
  | 6 => some (.bstat (w.extractLsb' 12 6) (w.extractLsb' 6 6))
  | 7 => some (.bpin (w.extractLsb' 12 6) (w.extractLsb' 6 6))
  | 8 => some (.layq (w.extractLsb' 18 6) (w.extractLsb' 12 6) (w.extractLsb' 6 6))
  | 9 => some (.laypin (w.extractLsb' 18 6) (w.extractLsb' 12 6) (w.extractLsb' 6 6))
  | 10 => some (.layadv (w.extractLsb' 18 6) (w.extractLsb' 12 6) (w.extractLsb' 6 6))
  | _ => none

/-- The members of major 28 (R101) by the code in bits [31:29]. -/
def decodeMatx (w : BitVec 32) : Option Instr :=
  match (w.extractLsb' 29 3).toNat with
  | 0 => some (.mgang)
  | 1 => some (.mload (w.extractLsb' 26 2) (w.extractLsb' 18 6) (w.extractLsb' 12 6) (w.extractLsb' 6 6))
  | 2 => some (.mswap)
  | 3 => some (.mmac (w.extractLsb' 28 1) (w.extractLsb' 18 6) (w.extractLsb' 12 6) (w.extractLsb' 6 6))
  | 4 => some (.mread (w.extractLsb' 27 2) (w.extractLsb' 12 6) (w.extractLsb' 6 6))
  | 5 => some (.mzero)
  | 6 => some (.msave (w.extractLsb' 12 6))
  | _ => some (.mrstr (w.extractLsb' 12 6))

/-- The members of major 29 (R101) by the code in bits [31:29]. -/
def decodeEng (w : BitVec 32) : Option Instr :=
  match (w.extractLsb' 29 3).toNat with
  | 0 => some (.tcopy (w.extractLsb' 28 1) (w.extractLsb' 26 2) (w.extractLsb' 25 1) (w.extractLsb' 12 6) (w.extractLsb' 6 6))
  | 1 => some (.tcopys (w.extractLsb' 25 1) (w.extractLsb' 12 6) (w.extractLsb' 6 6))
  | 2 => some (.nmx (w.extractLsb' 26 3) (w.extractLsb' 12 6) (w.extractLsb' 6 6))
  | 3 => some (.scan (w.extractLsb' 27 2) (w.extractLsb' 12 6) (w.extractLsb' 6 6))
  | 4 => some (.ckpt (w.extractLsb' 12 6) (w.extractLsb' 6 6))
  | 5 => some (.cred (w.extractLsb' 27 2) (w.extractLsb' 12 6) (w.extractLsb' 6 6))
  | 6 => some (.cbcst (w.extractLsb' 12 6) (w.extractLsb' 6 6))
  | _ => none

/-- The members of major 30 (R101) by the code in bits [31:28]. -/
def decodeSys (w : BitVec 32) : Option Instr :=
  match (w.extractLsb' 28 4).toNat with
  | 0 => some (.objmap (w.extractLsb' 18 6) (w.extractLsb' 12 6) (w.extractLsb' 6 6))
  | 1 => some (.objunmap (w.extractLsb' 18 6) (w.extractLsb' 12 6) (w.extractLsb' 6 6))
  | 2 => some (.objq (w.extractLsb' 18 6) (w.extractLsb' 12 6) (w.extractLsb' 6 6))
  | 3 => some (.mapgen (w.extractLsb' 18 6) (w.extractLsb' 12 6) (w.extractLsb' 6 6))
  | 4 => some (.inval (w.extractLsb' 18 6) (w.extractLsb' 12 6))
  | 5 => some (.savespl)
  | 6 => some (.rstspl (w.extractLsb' 12 6))
  | 7 => some (.perf (w.extractLsb' 12 6) (w.extractLsb' 6 6))
  | 8 => some (.preempt (w.extractLsb' 12 6) (w.extractLsb' 6 6))
  | _ => none

/-- Major 31 has one member (R101). -/
def decodePrefix (w : BitVec 32) : Option Instr := some (.prefixWord (w.extractLsb' 19 1) (w.extractLsb' 18 1) (w.extractLsb' 15 3) (w.extractLsb' 12 3) (w.extractLsb' 9 3) (w.extractLsb' 6 3))

/-- The member that a 32-bit word names by its major and member code, its must-be-zero bits apart (R101; R105 step 5);
none where the value is not assigned. -/
def decodeLong (w : BitVec 32) : Option Instr :=
  match (w.extractLsb' 1 5).toNat with
  | 1 => decodeSalu w
  | 2 => decodeSalui w
  | 3 => decodeSmisc w
  | 4 => decodeMovi w
  | 5 => decodeMovk w
  | 6 => decodeBra w
  | 7 => decodeCall w
  | 8 => decodeBcc w
  | 9 => decodeCtrl w
  | 10 => decodeVialu w
  | 11 => decodeVialu16 w
  | 12 => decodeVialu8 w
  | 13 => decodeVimisc w
  | 14 => decodeVfalu w
  | 15 => decodeVfpk w
  | 16 => decodeVsfu w
  | 17 => decodeVcvt w
  | 18 => decodeVrearr w
  | 19 => decodeVimm w
  | 20 => decodeIdxq w
  | 21 => decodePort w
  | 22 => decodeMema w
  | 23 => decodeMemv w
  | 24 => decodeGath w
  | 25 => decodeAtom w
  | 26 => decodeSync w
  | 27 => decodeBndl w
  | 28 => decodeMatx w
  | 29 => decodeEng w
  | 30 => decodeSys w
  | 31 => decodePrefix w
  | _ => none

/-- The member that a 16-bit word names (R100). Lean's compiler makes no object of a constructor past the 245th, so this
definition and those that call it are evaluated by the kernel only. -/
def decodeShort (w : BitVec 16) : Instr :=
  match (w.extractLsb' 1 4).toNat with
  | 0 => .vaddN (w.extractLsb' 11 5) (w.extractLsb' 5 6)
  | 1 => .vsubN (w.extractLsb' 11 5) (w.extractLsb' 5 6)
  | 2 => .vmulN (w.extractLsb' 11 5) (w.extractLsb' 5 6)
  | 3 => .vandN (w.extractLsb' 11 5) (w.extractLsb' 5 6)
  | 4 => .vorN (w.extractLsb' 11 5) (w.extractLsb' 5 6)
  | 5 => .vxorN (w.extractLsb' 11 5) (w.extractLsb' 5 6)
  | 6 => .vshlN (w.extractLsb' 11 5) (w.extractLsb' 5 6)
  | 7 => .vshrN (w.extractLsb' 11 5) (w.extractLsb' 5 6)
  | 8 => .vsarN (w.extractLsb' 11 5) (w.extractLsb' 5 6)
  | 9 => .vminN (w.extractLsb' 11 5) (w.extractLsb' 5 6)
  | 10 => .vmaxN (w.extractLsb' 11 5) (w.extractLsb' 5 6)
  | 11 => .vmovN (w.extractLsb' 11 5) (w.extractLsb' 5 6)
  | 12 => .faddN (w.extractLsb' 11 5) (w.extractLsb' 5 6)
  | 13 => .fsubN (w.extractLsb' 11 5) (w.extractLsb' 5 6)
  | 14 => .fmulN (w.extractLsb' 11 5) (w.extractLsb' 5 6)
  | _ => .fmaxN (w.extractLsb' 11 5) (w.extractLsb' 5 6)

/-- The member that a word names, if any. -/
def InstrWord.member : InstrWord → Option Instr
  | .short w => some (decodeShort w)
  | .long w => decodeLong w

/-- The length of a word in bytes (R89). -/
def InstrWord.bytes : InstrWord → Nat
  | .short _ => 2
  | .long _ => 4

/-- The word of an instruction, from the encoding row of each member: its fixed bits, and its fields where the row places
them. An event has no word. -/
def encode : Instr → Option InstrWord
  | .add b a d => some (.long (0#8 ++ b ++ a ++ d ++ 3#6))
  | .sub b a d => some (.long (16#8 ++ b ++ a ++ d ++ 3#6))
  | .mul b a d => some (.long (32#8 ++ b ++ a ++ d ++ 3#6))
  | .mulh b a d => some (.long (48#8 ++ b ++ a ++ d ++ 3#6))
  | .divu b a d => some (.long (64#8 ++ b ++ a ++ d ++ 3#6))
  | .remu b a d => some (.long (80#8 ++ b ++ a ++ d ++ 3#6))
  | .and b a d => some (.long (96#8 ++ b ++ a ++ d ++ 3#6))
  | .or b a d => some (.long (112#8 ++ b ++ a ++ d ++ 3#6))
  | .xor b a d => some (.long (128#8 ++ b ++ a ++ d ++ 3#6))
  | .shl b a d => some (.long (144#8 ++ b ++ a ++ d ++ 3#6))
  | .shr b a d => some (.long (160#8 ++ b ++ a ++ d ++ 3#6))
  | .sar b a d => some (.long (176#8 ++ b ++ a ++ d ++ 3#6))
  | .slt b a d => some (.long (192#8 ++ b ++ a ++ d ++ 3#6))
  | .sltu b a d => some (.long (208#8 ++ b ++ a ++ d ++ 3#6))
  | .min b a d => some (.long (224#8 ++ b ++ a ++ d ++ 3#6))
  | .max b a d => some (.long (240#8 ++ b ++ a ++ d ++ 3#6))
  | .addi i a d => some (.long (0#4 ++ i ++ a ++ d ++ 5#6))
  | .andi i a d => some (.long (1#4 ++ i ++ a ++ d ++ 5#6))
  | .ori i a d => some (.long (2#4 ++ i ++ a ++ d ++ 5#6))
  | .xori i a d => some (.long (3#4 ++ i ++ a ++ d ++ 5#6))
  | .shli i a d => some (.long (4#4 ++ i ++ a ++ d ++ 5#6))
  | .shri i a d => some (.long (5#4 ++ i ++ a ++ d ++ 5#6))
  | .sari i a d => some (.long (6#4 ++ i ++ a ++ d ++ 5#6))
  | .slti i a d => some (.long (7#4 ++ i ++ a ++ d ++ 5#6))
  | .clz a d => some (.long (0#14 ++ a ++ d ++ 7#6))
  | .popc a d => some (.long (1024#14 ++ a ++ d ++ 7#6))
  | .sel b a d => some (.long (32#8 ++ b ++ a ++ d ++ 7#6))
  | .mfc c d => some (.long (3072#14 ++ c ++ d ++ 7#6))
  | .mtc a c => some (.long (4096#14 ++ a ++ c ++ 7#6))
  | .clock s d => some (.long (5120#14 ++ s ++ d ++ 7#6))
  | .pgq a d => some (.long (6144#14 ++ a ++ d ++ 7#6))
  | .movi i d => some (.long (i ++ d ++ 9#6))
  | .movk p v d => some (.long (0#2 ++ p ++ v ++ d ++ 11#6))
  | .bra o => some (.long (o ++ 13#6))
  | .call o => some (.long (o ++ 15#6))
  | .bcc o c b a => some (.long (o ++ c ++ b ++ a ++ 17#6))
  | .ret => some (.long (19#32))
  | .jmpr a d => some (.long (1024#14 ++ a ++ d ++ 19#6))
  | .exit => some (.long (536870931#32))
  | .nop => some (.long (805306387#32))
  | .yield o d => some (.long (64#8 ++ o ++ d ++ 19#6))
  | .wait d => some (.long (327680#20 ++ d ++ 19#6))
  | .trap c => some (.long (96#8 ++ c ++ 19#12))
  | .rte => some (.long (1879048211#32))
  | .brk => some (.long (2147483667#32))
  | .brv o s p => some (.long (144#8 ++ o ++ s ++ p ++ 19#6))
  | .join o => some (.long (160#8 ++ o ++ 19#6))
  | .vote k p d => some (.long (1408#11 ++ k ++ 0#3 ++ p ++ d ++ 19#6))
  | .launch b a d => some (.long (192#8 ++ b ++ a ++ d ++ 19#6))
  | .vadd p b a d => some (.long (0#4 ++ p ++ b ++ a ++ d ++ 21#6))
  | .vsub p b a d => some (.long (1#4 ++ p ++ b ++ a ++ d ++ 21#6))
  | .vmul p b a d => some (.long (2#4 ++ p ++ b ++ a ++ d ++ 21#6))
  | .vmulh p b a d => some (.long (3#4 ++ p ++ b ++ a ++ d ++ 21#6))
  | .vmulhu p b a d => some (.long (4#4 ++ p ++ b ++ a ++ d ++ 21#6))
  | .vmad p b a d => some (.long (5#4 ++ p ++ b ++ a ++ d ++ 21#6))
  | .vand p b a d => some (.long (6#4 ++ p ++ b ++ a ++ d ++ 21#6))
  | .vor p b a d => some (.long (7#4 ++ p ++ b ++ a ++ d ++ 21#6))
  | .vxor p b a d => some (.long (8#4 ++ p ++ b ++ a ++ d ++ 21#6))
  | .vshl p b a d => some (.long (9#4 ++ p ++ b ++ a ++ d ++ 21#6))
  | .vshr p b a d => some (.long (10#4 ++ p ++ b ++ a ++ d ++ 21#6))
  | .vsar p b a d => some (.long (11#4 ++ p ++ b ++ a ++ d ++ 21#6))
  | .vmin p b a d => some (.long (12#4 ++ p ++ b ++ a ++ d ++ 21#6))
  | .vmax p b a d => some (.long (13#4 ++ p ++ b ++ a ++ d ++ 21#6))
  | .vadds p b a d => some (.long (14#4 ++ p ++ b ++ a ++ d ++ 21#6))
  | .vsubs p b a d => some (.long (15#4 ++ p ++ b ++ a ++ d ++ 21#6))
  | .vaddI16 p b a d => some (.long (0#4 ++ p ++ b ++ a ++ d ++ 23#6))
  | .vsubI16 p b a d => some (.long (1#4 ++ p ++ b ++ a ++ d ++ 23#6))
  | .vmulI16 p b a d => some (.long (2#4 ++ p ++ b ++ a ++ d ++ 23#6))
  | .vmulhI16 p b a d => some (.long (3#4 ++ p ++ b ++ a ++ d ++ 23#6))
  | .vmulhuI16 p b a d => some (.long (4#4 ++ p ++ b ++ a ++ d ++ 23#6))
  | .vmadI16 p b a d => some (.long (5#4 ++ p ++ b ++ a ++ d ++ 23#6))
  | .vandI16 p b a d => some (.long (6#4 ++ p ++ b ++ a ++ d ++ 23#6))
  | .vorI16 p b a d => some (.long (7#4 ++ p ++ b ++ a ++ d ++ 23#6))
  | .vxorI16 p b a d => some (.long (8#4 ++ p ++ b ++ a ++ d ++ 23#6))
  | .vshlI16 p b a d => some (.long (9#4 ++ p ++ b ++ a ++ d ++ 23#6))
  | .vshrI16 p b a d => some (.long (10#4 ++ p ++ b ++ a ++ d ++ 23#6))
  | .vsarI16 p b a d => some (.long (11#4 ++ p ++ b ++ a ++ d ++ 23#6))
  | .vminI16 p b a d => some (.long (12#4 ++ p ++ b ++ a ++ d ++ 23#6))
  | .vmaxI16 p b a d => some (.long (13#4 ++ p ++ b ++ a ++ d ++ 23#6))
  | .vaddsI16 p b a d => some (.long (14#4 ++ p ++ b ++ a ++ d ++ 23#6))
  | .vsubsI16 p b a d => some (.long (15#4 ++ p ++ b ++ a ++ d ++ 23#6))
  | .vaddI8 p b a d => some (.long (0#4 ++ p ++ b ++ a ++ d ++ 25#6))
  | .vsubI8 p b a d => some (.long (1#4 ++ p ++ b ++ a ++ d ++ 25#6))
  | .vmulI8 p b a d => some (.long (2#4 ++ p ++ b ++ a ++ d ++ 25#6))
  | .vmulhI8 p b a d => some (.long (3#4 ++ p ++ b ++ a ++ d ++ 25#6))
  | .vmulhuI8 p b a d => some (.long (4#4 ++ p ++ b ++ a ++ d ++ 25#6))
  | .vmadI8 p b a d => some (.long (5#4 ++ p ++ b ++ a ++ d ++ 25#6))
  | .vandI8 p b a d => some (.long (6#4 ++ p ++ b ++ a ++ d ++ 25#6))
  | .vorI8 p b a d => some (.long (7#4 ++ p ++ b ++ a ++ d ++ 25#6))
  | .vxorI8 p b a d => some (.long (8#4 ++ p ++ b ++ a ++ d ++ 25#6))
  | .vshlI8 p b a d => some (.long (9#4 ++ p ++ b ++ a ++ d ++ 25#6))
  | .vshrI8 p b a d => some (.long (10#4 ++ p ++ b ++ a ++ d ++ 25#6))
  | .vsarI8 p b a d => some (.long (11#4 ++ p ++ b ++ a ++ d ++ 25#6))
  | .vminI8 p b a d => some (.long (12#4 ++ p ++ b ++ a ++ d ++ 25#6))
  | .vmaxI8 p b a d => some (.long (13#4 ++ p ++ b ++ a ++ d ++ 25#6))
  | .vaddsI8 p b a d => some (.long (14#4 ++ p ++ b ++ a ++ d ++ 25#6))
  | .vsubsI8 p b a d => some (.long (15#4 ++ p ++ b ++ a ++ d ++ 25#6))
  | .vcmp p b a c k => some (.long (0#4 ++ p ++ b ++ a ++ c ++ k ++ 27#6))
  | .vsel p b k d => some (.long (1#4 ++ p ++ b ++ 0#3 ++ k ++ d ++ 27#6))
  | .vabs p b d => some (.long (2#4 ++ p ++ b ++ 0#6 ++ d ++ 27#6))
  | .vclz p b d => some (.long (3#4 ++ p ++ b ++ 0#6 ++ d ++ 27#6))
  | .vpopc p b d => some (.long (4#4 ++ p ++ b ++ 0#6 ++ d ++ 27#6))
  | .vdot4 p b a d => some (.long (5#4 ++ p ++ b ++ a ++ d ++ 27#6))
  | .vmov p b d => some (.long (6#4 ++ p ++ b ++ 0#6 ++ d ++ 27#6))
  | .vext p b s w i d => some (.long (7#4 ++ p ++ b ++ 0#2 ++ s ++ w ++ i ++ d ++ 27#6))
  | .vins p b w i d => some (.long (8#4 ++ p ++ b ++ 0#3 ++ w ++ i ++ d ++ 27#6))
  | .vbcst a d => some (.long (9216#14 ++ a ++ d ++ 27#6))
  | .vminu p b a d => some (.long (10#4 ++ p ++ b ++ a ++ d ++ 27#6))
  | .vmaxu p b a d => some (.long (11#4 ++ p ++ b ++ a ++ d ++ 27#6))
  | .fadd p b a d => some (.long (0#4 ++ p ++ b ++ a ++ d ++ 29#6))
  | .fsub p b a d => some (.long (1#4 ++ p ++ b ++ a ++ d ++ 29#6))
  | .fmul p b a d => some (.long (2#4 ++ p ++ b ++ a ++ d ++ 29#6))
  | .fma p b a d => some (.long (3#4 ++ p ++ b ++ a ++ d ++ 29#6))
  | .fnma p b a d => some (.long (4#4 ++ p ++ b ++ a ++ d ++ 29#6))
  | .fmin p b a d => some (.long (5#4 ++ p ++ b ++ a ++ d ++ 29#6))
  | .fmax p b a d => some (.long (6#4 ++ p ++ b ++ a ++ d ++ 29#6))
  | .fcmp p b a c k => some (.long (7#4 ++ p ++ b ++ a ++ c ++ k ++ 29#6))
  | .fabs p b d => some (.long (8#4 ++ p ++ b ++ 0#6 ++ d ++ 29#6))
  | .fneg p b d => some (.long (9#4 ++ p ++ b ++ 0#6 ++ d ++ 29#6))
  | .fsign p b a d => some (.long (10#4 ++ p ++ b ++ a ++ d ++ 29#6))
  | .fscale p b a d => some (.long (11#4 ++ p ++ b ++ a ++ d ++ 29#6))
  | .frnd p b m d => some (.long (12#4 ++ p ++ b ++ 0#3 ++ m ++ d ++ 29#6))
  | .fclass p b d => some (.long (13#4 ++ p ++ b ++ 0#6 ++ d ++ 29#6))
  | .faddF16 p b a d => some (.long (0#4 ++ p ++ b ++ a ++ d ++ 31#6))
  | .fsubF16 p b a d => some (.long (1#4 ++ p ++ b ++ a ++ d ++ 31#6))
  | .fmulF16 p b a d => some (.long (2#4 ++ p ++ b ++ a ++ d ++ 31#6))
  | .fmaF16 p b a d => some (.long (3#4 ++ p ++ b ++ a ++ d ++ 31#6))
  | .fminF16 p b a d => some (.long (4#4 ++ p ++ b ++ a ++ d ++ 31#6))
  | .fmaxF16 p b a d => some (.long (5#4 ++ p ++ b ++ a ++ d ++ 31#6))
  | .fcmpF16 p b a c k => some (.long (6#4 ++ p ++ b ++ a ++ c ++ k ++ 31#6))
  | .fdot2F16 p b a d => some (.long (7#4 ++ p ++ b ++ a ++ d ++ 31#6))
  | .faddBf16 p b a d => some (.long (8#4 ++ p ++ b ++ a ++ d ++ 31#6))
  | .fsubBf16 p b a d => some (.long (9#4 ++ p ++ b ++ a ++ d ++ 31#6))
  | .fmulBf16 p b a d => some (.long (10#4 ++ p ++ b ++ a ++ d ++ 31#6))
  | .fmaBf16 p b a d => some (.long (11#4 ++ p ++ b ++ a ++ d ++ 31#6))
  | .fminBf16 p b a d => some (.long (12#4 ++ p ++ b ++ a ++ d ++ 31#6))
  | .fmaxBf16 p b a d => some (.long (13#4 ++ p ++ b ++ a ++ d ++ 31#6))
  | .fcmpBf16 p b a c k => some (.long (14#4 ++ p ++ b ++ a ++ c ++ k ++ 31#6))
  | .fdot2Bf16 p b a d => some (.long (15#4 ++ p ++ b ++ a ++ d ++ 31#6))
  | .frcp p b d => some (.long (0#4 ++ p ++ b ++ 0#6 ++ d ++ 33#6))
  | .frsq p b d => some (.long (1#4 ++ p ++ b ++ 0#6 ++ d ++ 33#6))
  | .fsqrt p b d => some (.long (2#4 ++ p ++ b ++ 0#6 ++ d ++ 33#6))
  | .fdiv p b a d => some (.long (3#4 ++ p ++ b ++ a ++ d ++ 33#6))
  | .fexp2 p b d => some (.long (4#4 ++ p ++ b ++ 0#6 ++ d ++ 33#6))
  | .flog2 p b d => some (.long (5#4 ++ p ++ b ++ 0#6 ++ d ++ 33#6))
  | .fsin p b d => some (.long (6#4 ++ p ++ b ++ 0#6 ++ d ++ 33#6))
  | .fcos p b d => some (.long (7#4 ++ p ++ b ++ 0#6 ++ d ++ 33#6))
  | .ftanh p b d => some (.long (8#4 ++ p ++ b ++ 0#6 ++ d ++ 33#6))
  | .fcvt s t j a d => some (.long (0#2 ++ s ++ t ++ 0#3 ++ j ++ a ++ d ++ 35#6))
  | .qblk k b a d => some (.long (1#2 ++ k ++ 0#4 ++ b ++ a ++ d ++ 35#6))
  | .dqblk k b a d => some (.long (2#2 ++ k ++ 0#4 ++ b ++ a ++ d ++ 35#6))
  | .zipW2 a d => some (.long (0#14 ++ a ++ d ++ 37#6))
  | .zipW3 a d => some (.long (1024#14 ++ a ++ d ++ 37#6))
  | .zipW4 a d => some (.long (2048#14 ++ a ++ d ++ 37#6))
  | .unzipW2 a d => some (.long (3072#14 ++ a ++ d ++ 37#6))
  | .unzipW3 a d => some (.long (4096#14 ++ a ++ d ++ 37#6))
  | .unzipW4 a d => some (.long (5120#14 ++ a ++ d ++ 37#6))
  | .vperm p b a d => some (.long (6#4 ++ p ++ b ++ a ++ d ++ 37#6))
  | .vred k o a d => some (.long (224#9 ++ k ++ o ++ a ++ d ++ 37#6))
  | .vscan k o a d => some (.long (256#9 ++ k ++ o ++ a ++ d ++ 37#6))
  | .vcmpr k a d => some (.long (1152#11 ++ k ++ a ++ d ++ 37#6))
  | .vaddi i a d => some (.long (0#4 ++ i ++ a ++ d ++ 39#6))
  | .vandi i a d => some (.long (1#4 ++ i ++ a ++ d ++ 39#6))
  | .vori i a d => some (.long (2#4 ++ i ++ a ++ d ++ 39#6))
  | .vxori i a d => some (.long (3#4 ++ i ++ a ++ d ++ 39#6))
  | .vshli i a d => some (.long (4#4 ++ i ++ a ++ d ++ 39#6))
  | .vshri i a d => some (.long (5#4 ++ i ++ a ++ d ++ 39#6))
  | .vsari i a d => some (.long (6#4 ++ i ++ a ++ d ++ 39#6))
  | .vmovi i d => some (.long (7#4 ++ i ++ 0#6 ++ d ++ 39#6))
  | .vcmpi i a c k => some (.long (8#4 ++ i ++ a ++ c ++ k ++ 39#6))
  | .vldx x a d => some (.long (0#12 ++ x ++ a ++ d ++ 41#6))
  | .vstx p b a x => some (.long (1#4 ++ p ++ b ++ a ++ 0#4 ++ x ++ 41#6))
  | .setx a x => some (.long (2048#14 ++ a ++ 0#4 ++ x ++ 41#6))
  | .qpush a k q => some (.long (3072#14 ++ a ++ 0#3 ++ k ++ q ++ 41#6))
  | .qpop k q d => some (.long (32768#17 ++ k ++ q ++ d ++ 41#6))
  | .qpeek k q d => some (.long (40960#17 ++ k ++ q ++ d ++ 41#6))
  | .qstat q d => some (.long (98304#18 ++ q ++ d ++ 41#6))
  | .npush p b n => some (.long (0#4 ++ p ++ b ++ 0#9 ++ n ++ 43#6))
  | .npop n d => some (.long (8192#17 ++ n ++ d ++ 43#6))
  | .npeek n d => some (.long (16384#17 ++ n ++ d ++ 43#6))
  | .npoll n k p => some (.long (24576#17 ++ n ++ 0#2 ++ k ++ p ++ 43#6))
  | .nsave n a => some (.long (512#11 ++ n ++ a ++ 43#12))
  | .nload n a => some (.long (640#11 ++ n ++ a ++ 43#12))
  | .xshuf a d => some (.long (6144#14 ++ a ++ d ++ 43#6))
  | .lds f w e c h d => some (.long (0#4 ++ f ++ w ++ e ++ c ++ h ++ d ++ 45#6))
  | .sts f w c h d => some (.long (1#4 ++ f ++ w ++ 0#1 ++ c ++ h ++ d ++ 45#6))
  | .ldc f c h d => some (.long (2#4 ++ f ++ 6#3 ++ c ++ h ++ d ++ 45#6))
  | .stc f c h d => some (.long (3#4 ++ f ++ 6#3 ++ c ++ h ++ d ++ 45#6))
  | .ldq f w e c h q => some (.long (4#4 ++ f ++ w ++ e ++ c ++ h ++ 0#4 ++ q ++ 45#6))
  | .stq f w c h q => some (.long (5#4 ++ f ++ w ++ 0#1 ++ c ++ h ++ 0#4 ++ q ++ 45#6))
  | .pref f c h => some (.long (6#4 ++ f ++ 0#3 ++ c ++ h ++ 45#12))
  | .vld f w e c h d => some (.long (0#4 ++ f ++ w ++ e ++ c ++ h ++ d ++ 47#6))
  | .vst f w c h d => some (.long (1#4 ++ f ++ w ++ 0#1 ++ c ++ h ++ d ++ 47#6))
  | .sld f w e c h d => some (.long (2#4 ++ f ++ w ++ e ++ c ++ h ++ d ++ 47#6))
  | .sst f w c h d => some (.long (3#4 ++ f ++ w ++ 0#1 ++ c ++ h ++ d ++ 47#6))
  | .gthq w s c b a i q => some (.long (0#2 ++ w ++ s ++ c ++ 0#1 ++ b ++ a ++ 0#2 ++ i ++ q ++ 49#6))
  | .sctq w s c b a i q => some (.long (1#2 ++ w ++ s ++ c ++ 0#1 ++ b ++ a ++ 0#2 ++ i ++ q ++ 49#6))
  | .vgth w s c b a d => some (.long (2#2 ++ w ++ s ++ c ++ 0#1 ++ b ++ a ++ d ++ 49#6))
  | .vsct w s c b a d => some (.long (3#2 ++ w ++ s ++ c ++ 0#1 ++ b ++ a ++ d ++ 49#6))
  | .amo o w b a d => some (.long (0#2 ++ o ++ w ++ b ++ a ++ d ++ 51#6))
  | .vamo o b a d => some (.long (1#2 ++ o ++ 0#2 ++ b ++ a ++ d ++ 51#6))
  | .cas w b a d => some (.long (32#6 ++ w ++ b ++ a ++ d ++ 51#6))
  | .vcas b a d => some (.long (192#8 ++ b ++ a ++ d ++ 51#6))
  | .fence s o => some (.long (0#20 ++ s ++ o ++ 53#6))
  | .acqp a s => some (.long (1024#14 ++ a ++ s ++ 53#9))
  | .bar d => some (.long (131072#20 ++ d ++ 53#6))
  | .binit a d => some (.long (3072#14 ++ a ++ d ++ 53#6))
  | .bara d => some (.long (262144#20 ++ d ++ 53#6))
  | .barw d => some (.long (327680#20 ++ d ++ 53#6))
  | .waitv b a d => some (.long (96#8 ++ b ++ a ++ d ++ 53#6))
  | .bopen b a d => some (.long (0#8 ++ b ++ a ++ d ++ 55#6))
  | .bjoin a d => some (.long (1024#14 ++ a ++ d ++ 55#6))
  | .bclose d => some (.long (131072#20 ++ d ++ 55#6))
  | .babort a => some (.long (3072#14 ++ a ++ 55#12))
  | .bview a d => some (.long (4096#14 ++ a ++ d ++ 55#6))
  | .brel a => some (.long (5120#14 ++ a ++ 55#12))
  | .bstat a d => some (.long (6144#14 ++ a ++ d ++ 55#6))
  | .bpin a d => some (.long (7168#14 ++ a ++ d ++ 55#6))
  | .layq b a d => some (.long (128#8 ++ b ++ a ++ d ++ 55#6))
  | .laypin b a d => some (.long (144#8 ++ b ++ a ++ d ++ 55#6))
  | .layadv b a d => some (.long (160#8 ++ b ++ a ++ d ++ 55#6))
  | .mgang => some (.long (57#32))
  | .mload k b a d => some (.long (2#4 ++ k ++ 0#2 ++ b ++ a ++ d ++ 57#6))
  | .mswap => some (.long (1073741881#32))
  | .mmac e b a d => some (.long (3#3 ++ e ++ 0#4 ++ b ++ a ++ d ++ 57#6))
  | .mread p a d => some (.long (4#3 ++ p ++ 0#9 ++ a ++ d ++ 57#6))
  | .mzero => some (.long (2684354617#32))
  | .msave a => some (.long (12288#14 ++ a ++ 57#12))
  | .mrstr a => some (.long (14336#14 ++ a ++ 57#12))
  | .tcopy l k x a d => some (.long (0#3 ++ l ++ k ++ x ++ 0#7 ++ a ++ d ++ 59#6))
  | .tcopys x a d => some (.long (8#6 ++ x ++ 0#7 ++ a ++ d ++ 59#6))
  | .nmx o a d => some (.long (2#3 ++ o ++ 0#8 ++ a ++ d ++ 59#6))
  | .scan c a d => some (.long (3#3 ++ c ++ 0#9 ++ a ++ d ++ 59#6))
  | .ckpt a d => some (.long (8192#14 ++ a ++ d ++ 59#6))
  | .cred o a d => some (.long (5#3 ++ o ++ 0#9 ++ a ++ d ++ 59#6))
  | .cbcst a d => some (.long (12288#14 ++ a ++ d ++ 59#6))
  | .objmap b a d => some (.long (0#8 ++ b ++ a ++ d ++ 61#6))
  | .objunmap b a d => some (.long (16#8 ++ b ++ a ++ d ++ 61#6))
  | .objq b a d => some (.long (32#8 ++ b ++ a ++ d ++ 61#6))
  | .mapgen b a d => some (.long (48#8 ++ b ++ a ++ d ++ 61#6))
  | .inval b a => some (.long (64#8 ++ b ++ a ++ 61#12))
  | .savespl => some (.long (1342177341#32))
  | .rstspl a => some (.long (6144#14 ++ a ++ 61#12))
  | .perf a d => some (.long (7168#14 ++ a ++ d ++ 61#6))
  | .preempt a d => some (.long (8192#14 ++ a ++ d ++ 61#6))
  | .prefixWord v b c s p o => some (.long (0#12 ++ v ++ b ++ c ++ s ++ p ++ o ++ 63#6))
  | .vaddN b d => some (.short (b ++ d ++ 0#5))
  | .vsubN b d => some (.short (b ++ d ++ 2#5))
  | .vmulN b d => some (.short (b ++ d ++ 4#5))
  | .vandN b d => some (.short (b ++ d ++ 6#5))
  | .vorN b d => some (.short (b ++ d ++ 8#5))
  | .vxorN b d => some (.short (b ++ d ++ 10#5))
  | .vshlN b d => some (.short (b ++ d ++ 12#5))
  | .vshrN b d => some (.short (b ++ d ++ 14#5))
  | .vsarN b d => some (.short (b ++ d ++ 16#5))
  | .vminN b d => some (.short (b ++ d ++ 18#5))
  | .vmaxN b d => some (.short (b ++ d ++ 20#5))
  | .vmovN b d => some (.short (b ++ d ++ 22#5))
  | .faddN b d => some (.short (b ++ d ++ 24#5))
  | .fsubN b d => some (.short (b ++ d ++ 26#5))
  | .fmulN b d => some (.short (b ++ d ++ 28#5))
  | .fmaxN b d => some (.short (b ++ d ++ 30#5))
  | .launchQueueTailWrite _ _ _ | .preqWrite _ _ _ | .csramWrite _ _ _ | .csramSplitChange _ | .limitWrite _ _ _
  | .ftmoWrite _ _ | .registerWrite _ _ | .hostWindowAccess _ _ _ _ _ | .attestationReport _ _ | .powerLimitSet _
  | .thermalShutdown | .powerGood | .startStageReached _ _ _ | .vfReset _ | .crewDispatch _
  | .weaveEnd _ | .crewHalted _ | .splitWindowSwap _ | .fragmentPark _ _ | .waitWake _ _
  | .waitWatchdog _ _ | .portWatch _ _ | .portEntryLand _ _ | .queueEntryComplete _ | .loadDataReturn _
  | .dataFailure _ _ _ | .farPortTimeout _ | .cxlLinkDown _ | .extentGrant _ _ _ | .extentReleaseRequest _ _ _
  | .extentForcedRemoval _ _ _ | .backInvalidateSnoop _ | .homeReadRequest _ _ | .homeOwnershipRequest _ _ | .sliceFillArrival _
  | .retryReissue _ _ | .remapReply _ _ _ | .writeBackMerge _ _ | .lCopyIdleExpiry _ _ | .lCopyRetryRecall _
  | .staleLineWalk _ | .bankWake _ | .monitorWindowEnd | .sectionCopy _ | .busySectionRelease _
  | .translationWalk _ _ _ _ | .bundleMemberReport _ _ | .bundleFlip _ _ _ _ | .coordinatorQuery _ _ _ _ | .engineGranule _ _
  | .engineArrival _ | .collectiveMatchTimeout _ | .memberWithdrawn _ | .gangLatchClose _ | .gangLatchTimeout _
  | .arrayQueuePerform _ _ | .matrixArrival _ _ | .acqpDrain _ | .correctableError _ _ | .correctableThreshold _
  | .uncorrectableError _ _ _ | .launchAbort _ | .cxlLinkUp _ | .retentionSleepEntry _ | .extentReleaseAck _ _ _
  | .powerThrottle _ _ | .launchCopyArrival _ _ _ | .pcieConfigRequest _ | .columnSubstitution _ _ _ => none

/-- What a word is, before the checks that depend on the stream (R105 steps 5 and 8): no member, a member whose
must-be-zero bits are not all zero, or an instruction. -/
inductive Decoded where
  | unassigned
  | reserved (i : Instr)
  | instr (i : Instr)
deriving DecidableEq, Repr, Inhabited

/-- The decoder on one word. -/
def InstrWord.decode (w : InstrWord) : Decoded :=
  match w.member with
  | none => .unassigned
  | some i => if encode i = some w then .instr i else .reserved i

/-- Why a byte sequence holds no instruction. -/
inductive DecodeError where
  | truncated
  | unassigned
  | reservedBits
deriving DecidableEq, Repr, Inhabited

/-- A halfword from its two bytes, little-endian (R13, R89). -/
def halfword (lo hi : Byte) : BitVec 16 := hi ++ lo

/-- The first word of a byte sequence, and the bytes after it (R89: bit 0 of the first halfword gives the length). -/
def firstWord : List Byte → Option (InstrWord × List Byte)
  | b0 :: b1 :: rest =>
    if b0.getLsbD 0 then
      match rest with
      | b2 :: b3 :: rest' => some (.long (halfword b2 b3 ++ halfword b0 b1), rest')
      | _ => none
    else some (.short (halfword b0 b1), rest)
  | _ => none

/-- The decoder on any bytes: an instruction and the bytes after it, or why there is none. -/
def decodeBytes (bs : List Byte) : Except DecodeError (Instr × List Byte) :=
  match firstWord bs with
  | none => .error .truncated
  | some (w, rest) =>
    match w.decode with
    | .unassigned => .error .unassigned
    | .reserved _ => .error .reservedBits
    | .instr i => .ok (i, rest)

/-- The bytes of a word as code stores it (R13). -/
def InstrWord.toBytes : InstrWord → List Byte
  | .short w => [w.extractLsb' 0 8, w.extractLsb' 8 8]
  | .long w => [w.extractLsb' 0 8, w.extractLsb' 8 8, w.extractLsb' 16 8, w.extractLsb' 24 8]

/-- The low n bytes of a number, lowest first. -/
def natBytes : Nat → Nat → List Byte
  | 0, _ => []
  | n + 1, w => BitVec.ofNat 8 w :: natBytes n (w / 256)

/-- The code bytes of an instruction whose table bits are w: four bytes, those above nbits zero. -/
def tableBytes (nbits w : Nat) : List Byte := natBytes 4 (w % 2 ^ nbits)

/-- What the decoder reads from a row's bits laid out as code (the bits above nbits zero). -/
def decodeTableWord (nbits w : Nat) : Option Instr :=
  match decodeBytes (tableBytes nbits w) with
  | .ok (i, _) => some i
  | .error _ => none

/-- The events, which no stream issues and no word encodes. -/
def Instr.isEvent (i : Instr) : Bool := (encode i).isNone

end

end Sys2Proof
end

