-- ==== Sys2Proof/Machine/State.lean ====
section
/-! DEFINITION. The state of the machine as plain data, the reasons a step can stop, and the state after reset. -/

namespace Sys2Proof.Machine

/-- The two modes of a stream (R102). -/
inductive Mode where
  | user
  | supervisor
deriving DecidableEq, Repr, Inhabited

/-- The cause codes of R249 that a running stream can meet. -/
inductive Cause where
  | illegal | stream | priv | regBound | objBound | firstTouch | perm | farUnavail | dataUe | bundleOutside
  | portWatch | align | prefixMisuse | gangMismatch | extentGone | queueMisuse | viewExpired | trap
deriving DecidableEq, Repr, Inhabited

/-- The two causes outside faults: pre-emption and restore (R249). -/
inductive EntryCause where
  | fault (c : Cause)
  | preempted
  | restored
deriving DecidableEq, Repr, Inhabited

/-- An index register (R51). -/
structure XReg where
  base : BitVec 7
  bound : BitVec 7
deriving DecidableEq, Repr, Inhabited

/-- What a queue entry holds (R53). -/
inductive QData where
  | vector (v : LaneReg)
  | scalar (x : DWord)
deriving DecidableEq, Repr, Inhabited

/-- A queue entry: its reservation number, its contents, whether its data are complete (R54), and, after a data failure
of an LDQ or GTHQ, the PC that may refill it with the index vectors kept (R56, R330). -/
structure QEntry where
  ticket : Nat
  data : QData
  complete : Bool
  refill : Option (BitVec 32)
  kept : List LaneReg
deriving DecidableEq, Repr, Inhabited

/-- A queue, head first (R53, R54), and the place of its head among its slots (R264). -/
structure Queue where
  depth : Nat
  entries : List QEntry
  head : Nat
deriving DecidableEq, Repr, Inhabited

/-- An inbound port FIFO: per lane the complete entries, head first (R198). -/
structure PortFifo where
  lanes : Vector (List Word) 96
deriving DecidableEq, Repr, Inhabited

/-- PAIR (R62). -/
structure PairReg where
  valid : Bool
  weave : BitVec 4
  core : BitVec 9
deriving DecidableEq, Repr, Inhabited

/-- What a waiting stream or fragment waits for (R44). `again` reissues the instruction when its condition holds; a WAITV keeps the
register that it will write, and the mode in which it issued (R181, R251). -/
inductive WaitOn where
  | queueHead (q n : Nat)
  | queueRoom (q : Nat)
  | gather (qi n qd : Nat)
  | scatter (qv qi n : Nat)
  | portIn (p : Port)
  | portOut (p : Port)
  | launchRoom (queue : Nat)
  | again
  | barrier (offset : Nat) (phase : Bool)
  | completion (address : Nat) (want : Bool) (target : BitVec 32)
  | word (object offset : Nat) (attrs : Attrs) (comparand : Word) (d : Nat) (mode : Mode)
  | gang
  | shuffle (d : RegField) (lanes : LaneMask) (data : LaneReg) (pair : PairReg)
deriving DecidableEq, Repr, Inhabited

/-- A wait record: what is awaited, since when, and the instruction that waits (R44); and the time up to which the counter of R350 has
counted it. -/
structure WaitRec where
  on : WaitOn
  since : Nat
  pc : BitVec 32
  counted : Nat
deriving DecidableEq, Repr, Inhabited

/-- The kind of a split-table entry (R40). -/
inductive SplitKind where
  | free | ready | parked | waiting | join
deriving DecidableEq, Repr, Inhabited

/-- A split-table entry (R40); `done` marks a fragment that stays at its EXIT (R320). -/
structure SplitEntry where
  kind : SplitKind
  addr : BitVec 32
  owned : LaneMask
  mask : LaneMask
  link : Option Nat
  wait : Option WaitRec
  done : Bool
deriving DecidableEq, Repr, Inhabited

/-- A view-table entry (R191): `expired` is the flag that MTC clears, `dead` says that the entry has expired, until BREL. -/
structure ViewEntry where
  handle : BitVec 32
  generation : BitVec 32
  valid : Bool
  expired : Bool
  dead : Bool
deriving DecidableEq, Repr, Inhabited

/-- GANG (R62). -/
structure GangReg where
  size : BitVec 3
  members : BitVec 16
deriving DecidableEq, Repr, Inhabited

/-- CHKINJ (R62). -/
structure InjectReg where
  arm : Bool
  column : BitVec 8
  row : BitVec 8
deriving DecidableEq, Repr, Inhabited

/-- A weave's barrier record (R285). -/
structure BarrierRec where
  arrived : Bool
  phase : Bool
deriving DecidableEq, Repr, Inhabited

/-- What a fault records beside its cause (R248). -/
structure FaultInfo where
  cause : Cause
  access : Nat
  engine : Nat
  pc : BitVec 32
  object : BitVec 32
  generation : BitVec 32
  place : BitVec 128
  faulters : LaneMask
  port : BitVec 8
  linear : Option Nat := none
deriving DecidableEq, Repr, Inhabited

/-- A resident weave: everything R47, R62 and the rules named at the fields give it; `cPend` names its fragment, and the
stashes are the entry and the wait of the stream vectored at a halt (R260). -/
structure Weave where
  id : WeaveId
  crew : Nat
  index : Nat
  aRegs : Vector DWord 64
  aBank : Vector DWord 8
  aPc : BitVec 32
  aMode : Mode
  aEnded : Bool
  aWait : Option WaitRec
  aPend : Option FaultInfo
  sRegs : Vector DWord 32
  sBank : Vector DWord 8
  vRegs : List LaneReg
  pRegs : Vector LaneMask 8
  xRegs : Vector XReg 4
  queues : Vector Queue 4
  ports : List (Port × PortFifo)
  split : Vector SplitEntry 128
  lastEntry : Nat
  takenFirst : Option Nat
  cMode : Mode
  cHand : Nat
  cPend : Option (Nat × FaultInfo)
  stash : Option SplitEntry
  aStash : Option WaitRec
  mdefA : DWord
  mdefC : DWord
  fpctl : DWord
  gang : GangReg
  pair : PairReg
  breg : BitVec 32
  views : Vector ViewEntry 4
  mprom : BitVec 7
  chktol : Word
  chkinj : InjectReg
  splitBase : Nat
  fltm : LaneMask
  fltrec : BitVec 20
  hndlr : DWord
  pgt : BitVec 32
  ctxid : DWord
  pwatch : BitVec 32
  qcfg : BitVec 2
  gens : Vector Word 96
  recs : Vector BarrierRec 64
  part : Option (BitVec 32 × BitVec 32)
  session : Nat
  /-- Whether every fragment of both streams has been stopped (R252). -/
  stopped : Bool
  /-- The entries whose join was made in supervisor mode: its address lies in the handler code object (R41, R250). -/
  supJoins : BitVec 128
  aIssued : Nat
  cIssued : Nat
  cWaited : Nat
  halted : Bool
  saved : Bool
  restored : Bool
deriving DecidableEq, Repr

/-- A launch record (R27). -/
structure LaunchRec where
  raw : List Byte
  code : Nat
  cseg : Nat
  grid : Nat
  weaves : Nat
  gang : Nat
  fallback : Nat
  stage : Nat
  pipe : Bool
  cores : Bool
  regs : Nat
  qdepth : Nat
  ports : List Port
  span : Bool
  spad : Nat
  bars : Nat
  deps : Nat
  group : Nat
  stages : Nat
  pgt : Nat
  depends : List (Nat × Nat × Bool)
  done : Nat × Nat
  args : List Nat
deriving DecidableEq, Repr, Inhabited

/-- A launch that the dispatcher has accepted (R28 to R38, R31). -/
structure Launch where
  id : Nat
  part : Nat
  fn : Nat
  queue : Nat
  record : LaunchRec
  span : Nat
  rank : Nat
  neighbours : List DWord
  first : Nat
  share : Nat
  next : Nat
  ended : Nat
  faulted : Bool
  aborted : Bool
  finished : Bool
deriving DecidableEq, Repr, Inhabited

/-- The states of a crew (R260). -/
inductive CrewState where
  | run | halting | halted | saving | saved | restoring
deriving DecidableEq, Repr, Inhabited

/-- What a member brings to the gang latch (R229). -/
structure Arrival where
  weave : WeaveId
  entry : Nat
  pc : BitVec 32
  acting : LaneMask
  instr : Instr
  gang : GangReg
  operation : DWord
  format : DWord × DWord
  data : LaneReg
  mprom : BitVec 7
  chktol : Word
  /-- CHKINJ as the instruction captured it at issue (R241, R64). -/
  chkinj : InjectReg
  /-- Whether an MTC to CHKINJ of the same weave came after the instruction issued. -/
  renewed : Bool
  since : Nat
deriving DecidableEq, Repr

/-- What stays of a weave that has been saved, beside its area: its index, where it was saved, its participation and its
views (R195, R262), the waits of fragments outside the window, and the entries that a failed load may refill (R56, R330),
by queue and place, for which the area has no room. -/
structure SavedWeave where
  index : Nat
  place : WeaveId
  part : Option (BitVec 32 × BitVec 32)
  session : Nat
  views : Vector ViewEntry 4
  waits : List (Nat × WaitRec)
  refills : List (Nat × Nat × Option (BitVec 32) × List LaneReg)
deriving DecidableEq, Repr

/-- A crew: where it runs, what it reserves (R20, R22, R34), its gang latch (R229), what stays of its saved weaves (R262), and the
limit of engine threads in force at its dispatch (R269). -/
structure Crew where
  id : Nat
  launch : Nat
  index : Nat
  size : Nat
  gangSize : Nat
  core : Nat
  part : Nat
  fn : Nat
  spadAt : Nat
  spadBytes : Nat
  bars : Nat
  array : Option Nat
  state : CrewState
  requested : Bool
  haltAt : Nat
  live : Nat
  endedSaved : Nat
  latch : List Arrival
  home : List SavedWeave
  savedAt : Nat
  faulted : Bool
  engines : Nat
deriving DecidableEq, Repr

/-- A launch queue descriptor (R270), with the function that fed it last (log 11). -/
structure LaunchQueue where
  enable : Bool
  device : Bool
  priority : Nat
  size : Nat
  ring : Nat
  tail : Nat
  head : Nat
  owner : Nat
deriving DecidableEq, Repr, Inhabited

/-- A partition control block (R269), with the partition's placement pointer, its queues last
served, one for each priority, the launch whose crew found no core (R35), its correctable errors, and the threshold records due (R257);
the limits of bundles and of retention in force, which a lowered one follows at the next dispatch (R269). -/
structure Pcb where
  tableBase : Nat
  tableEntries : Nat
  lim0 : DWord
  lim1 : DWord
  ringObject : Nat
  ringHead : Nat
  ringTail : Nat
  overflow : Nat
  threshold : Nat
  contextObject : Nat
  poolObject : Nat
  granted : BitVec 384
  queues : Vector LaunchQueue 16
  lastPlace : Nat
  lastQueues : Vector Nat 4
  held : Option Nat
  corrected : Nat
  due : Nat
  bundlesNow : Nat
  retentionNow : Nat
deriving DecidableEq, Repr, Inhabited

/-- A core's own registers and counters: CSRAM (R141), PREQ's request and saved fields (R259), the PERF counters of the core (R350), the
slots that its front ends granted last (R245), and the generations of the slice maps under which it hashes (R152). -/
structure CoreState where
  units : Nat
  active : Nat
  preqAsked : BitVec 16
  preqSaved : BitVec 16
  specMiss : Nat
  l1Miss : Nat
  retryCount : Nat
  remapCount : Nat
  lastA : Nat
  lastC : Nat
  /-- How many of the C front end's latest grants in a row went to the vector pipes, counted up to two (R245). -/
  vectorRun : Nat
  /-- For how many more grants of the C front end a special-function word may hold its pipe (R245, R326). -/
  sfuTurns : Nat
  mapsSeen : Vector (BitVec 16) 4
deriving DecidableEq, Repr, Inhabited

/-- What BOPEN, BJOIN, BCLOSE and BPIN ask of the coordinator, which answers when their result is written (R244): a handle with a count
of participants, a handle, nothing, a handle with what d held. -/
inductive CoordOp where
  | bopen (handle participants : Nat)
  | bjoin (handle : Nat)
  | bclose
  | bpin (handle : Nat) (ask : DWord)
deriving DecidableEq, Repr, Inhabited

/-- Where a returning result goes (R63, R54); `coord` is the answer of a bundle's coordinator (R244), `drain` the request of an ACQP
(R174), and `accept` the request of an access to far memory that is still to be performed there: a store or atomic awaits the home's
acceptance (R362, R158), with the faulters' mask of a scalar form. -/
inductive Dest where
  | scal (d : Nat) (x : DWord)
  | scal2 (d e : Nat) (x y : DWord)
  | coord (d : Nat) (op : CoordOp)
  | lanes (d : Nat) (m : LaneMask) (v : LaneReg)
  | queue (q ticket : Nat) (v : LaneReg)
  | array (d : Nat) (m : LaneMask)
  | drain (core : Nat) (scope : Scope)
  | accept (mask : Option LaneMask)
deriving DecidableEq, Repr, Inhabited

/-- A result in flight: an instruction that has issued and whose data have not returned (R63). `certain` marks one that
can no longer fail (R362); `bad` holds the lanes that will receive poison (R257), `lost` those whose port went down while they
were outstanding (R158). -/
structure Flight where
  id : Nat
  weave : WeaveId
  strand : Strand
  info : FaultInfo
  dest : Dest
  lanesAt : List (Option Nat)
  bad : LaneMask
  lost : LaneMask
  certain : Bool
  since : Nat
deriving DecidableEq, Repr

/-- A push in transit toward an inbound FIFO (R200, R202). -/
structure Transit where
  source : WeaveId
  crew : Nat
  index : Nat
  port : Port
  lanes : LaneMask
  data : LaneReg
deriving DecidableEq, Repr

/-- A weight plane (R224, R264): the tag, the tile and scale bytes as MLOAD read them, and the check sums; an empty tile
holds zero weights. -/
structure Plane where
  format : Nat
  blockLen : Nat
  q : Nat
  tile : List Byte
  scales : List Byte
  rs : List Word
  ra : List Word
  cs : List Word
  ca : List Word
deriving DecidableEq, Repr, Inhabited

/-- An entry of the array's queue (R224, R230): addresses are absolute, the tile's apart, which is measured from `base`;
an MMAC holds each member's activations, the scale bytes with the rows whose scales are bad, and the cells injected. -/
inductive ArrayOp where
  | mload (weave : WeaveId) (locator base tile scales format blockLen swizzle : Nat)
  | mswap
  | mzero
  | mgang
  | mmac (weave : WeaveId) (locator row0 : Nat) (far : Bool) (format : Nat) (rows : List LaneReg) (scales : List Byte)
      (badRows : List Nat) (mprom : Nat) (chktol : Word) (inject : List (Nat × Nat))
  | mread (flight row plane : Nat)
deriving DecidableEq, Repr

/-- A completed MMAC or MLOAD whose arrival is due (R236). -/
structure ArrayDone where
  weave : WeaveId
  locator : Nat
  status : Nat
deriving DecidableEq, Repr, Inhabited

/-- A matrix array owned by a crew (R224). -/
structure MatArray where
  core : Nat
  index : Nat
  plane0 : Plane
  plane1 : Plane
  active : Bool
  acc : Vector LaneReg 96
  fp : Vector LaneReg 96
  counters : Vector Nat 96
  queue : List ArrayOp
  done : List ArrayDone
deriving DecidableEq, Repr

/-- What an engine thread does (R210, R213): the element offsets at which the rows of a tile start, the operands with their
first elements, and element types by their codes. -/
inductive EngineOp where
  | tcopy (load : Bool) (swizzle object : Nat) (starts : List Nat) (rowBytes address pitch : Nat)
  | tcopys (src dst : Nat) (from' to' : List Nat) (rowBytes : Nat)
  | nmx (op type w x w0 x0 n : Nat) (alpha lambda : Word) (address : Nat)
  | scan (cmp type w w0 n : Nat) (threshold : Word) (address capacity : Nat)
  | ckpt (manifest generation members target object offset peer : Nat)
  | cred (op type src dst s0 d0 n tag number span rank : Nat)
  | cbcst (root type src dst s0 d0 n tag number span rank : Nat)
deriving DecidableEq, Repr, Inhabited

/-- An engine thread (R171, R210 to R223): `todo` are the granules not yet performed, `locator` and `base` absolute
addresses of the core's SRAM, `matched` whether a collective has met its peers (R315), `flags` the status bits 29:24, `refused`
a line held in L that refuses a granule, with the times of the first and of the last refusal (R176, R177), and `session` tells the
participations of its weave apart (R188). -/
structure Thread where
  id : Nat
  weave : WeaveId
  crew : Nat
  part : Nat
  fn : Nat
  core : Nat
  base : Nat
  op : EngineOp
  kind : Nat
  todo : List Nat
  bytes : Nat
  locator : Nat
  scope : Scope
  host : Bool
  bundle : Option (BitVec 32 × BitVec 32)
  views : List ViewEntry
  fpctl : DWord
  flags : Nat
  kept : Nat
  written : Nat
  failed : Option Nat
  stopped : Bool
  matched : Bool
  since : Nat
  refused : Option (Nat × Nat × Nat)
  session : Nat
deriving DecidableEq, Repr

/-- The state of a cached line (R149); `plain` is a line of an L1, which nothing tracks (R145). -/
inductive LineState where
  | m | e | s | f | l | plain
deriving DecidableEq, Repr, Inhabited

/-- A cached line (R145, R129): its physical line, its bytes, which 64-byte halves are held and the state of each (R156), its dirty bytes,
its stamp, and, for a tensor line, the region it belongs to and the byte offset within the region's frames at which it stood when filled
(R130). `early` marks the first victim (R148). -/
structure CacheLine where
  holder : Holder
  line : Nat
  data : List Byte
  halves : BitVec 2
  dirty : BitVec 128
  stamp : BitVec 16
  state : LineState
  upper : LineState
  tag : Option (RegionId × Nat)
  last : Nat
  early : Bool
deriving DecidableEq, Repr, Inhabited

/-- A directory entry (R149, R150): the tracker is a line's home, or a die's RDC for the clusters of that die (R145); its state,
the holders in its vector, which an S or F copy given up silently does not leave, and the forwarder. -/
structure DirEntry where
  tracker : Option Nat
  line : Nat
  state : LineState
  holders : List Holder
  forwarder : Option Holder
deriving DecidableEq, Repr, Inhabited

/-- A line allocated in its home slice (R148); its bytes are the home's. -/
structure HomeLine where
  die : Nat
  slice : Nat
  line : Nat
  early : Bool
deriving DecidableEq, Repr, Inhabited

/-- A slice fill with its waiters, and whether each is for the first victim (R151, R148); a core waits for itself where its request
allocates no copy beyond the L1. -/
structure SliceFill where
  line : Nat
  waiters : List (Holder × Bool)
deriving DecidableEq, Repr, Inhabited

/-- A refused access (R151, R176): when it was refused first and last, and whether it may be reissued now. -/
structure RetryRec where
  core : Nat
  weave : WeaveId
  strand : Strand
  line : Nat
  since : Nat
  last : Nat
  ready : Bool
deriving DecidableEq, Repr, Inhabited

/-- The states of a region (R123). -/
inductive RegionState where
  | stable | retiling | pinned | contested
deriving DecidableEq, Repr, Inhabited

/-- A region of a tensor object (R123, R134): `target` is that of the change under way, `contest` the compromise of a contest, and
`request` a change that waits, with whether a LAYPIN asked for it (R135). -/
structure Region where
  id : RegionId
  state : RegionState
  layout : Nat
  generation : BitVec 16
  done : BitVec 64
  busy : Option Nat
  target : Nat
  contest : Option Nat
  newFrames : List Nat
  previous : Nat
  layoutSince : BitVec 16
  from' : RegionState
  request : Option (Nat × Bool)
  pinPending : Option Nat
  lastChange : Option Nat
  streak : Option (Nat × Nat)
  rivals : List ((Int × Int) × Nat)
  contestSince : Nat
deriving DecidableEq, Repr, Inhabited

/-- A stride family of one window (R121). -/
structure Family where
  stride : Int
  runs : Nat
  bytes : Nat
  sample : List Nat
deriving DecidableEq, Repr, Inhabited

/-- A region that a slice's monitor tracks (R121). -/
structure Track where
  region : RegionId
  slice : Nat × Nat
  lastRun : Nat
  total : Nat
  families : List Family
deriving DecidableEq, Repr, Inhabited

/-- A translation held by a core's or a cluster's buffer (R255): the object-table words and the extent entry as they stood, and
the layout generation of the frame's region (R129). -/
structure OtbEntry where
  owner : Holder
  part : Nat
  object : Nat
  frame : Nat
  words : List DWord
  extent : DWord
  generation : BitVec 16
deriving DecidableEq, Repr, Inhabited

/-- The states of a bundle (R182). -/
inductive BundleState where
  | committed | opened | committing | aborted
deriving DecidableEq, Repr, Inhabited

/-- A bundle directory entry of the coordinator (R182, R183): what the manifest's header reports, the members, the
reports still awaited before the commit point, the generations that aborted, and the functions that pinned and that own a
participant of the open generation, closed ones too (R190, R195). -/
structure Bundle where
  part : Nat
  handle : Nat
  index : Nat
  coordinator : Nat
  state : BundleState
  opened : Nat
  committed : Nat
  participants : Nat
  joined : Nat
  closed : Nat
  chips : Nat
  pin : Option Nat
  pinOwner : Nat
  members : List (Nat × Nat)
  reported : Bool
  aborted : List Nat
  owners : List Nat
deriving DecidableEq, Repr, Inhabited

/-- A version's bytes with its generation (R185), and the bytes that are poisoned (R257). -/
structure Version where
  generation : Nat
  data : List Byte
  bad : BitVec 128
deriving DecidableEq, Repr, Inhabited

/-- A member line, by its logical line (R183), with the generation of its current version and its other versions (R185). -/
structure MemberLine where
  part : Nat
  object : Nat
  line : Nat
  handle : Nat
  current : Nat
  retained : Option Version
  openV : Option Version
  spilled : List (Version × Nat)
deriving DecidableEq, Repr, Inhabited

/-- A CXL port (R157 to R159, R275), with the dirty lines that its write-back buffer holds while it is down. -/
structure CxlPort where
  up : Bool
  down : Bool
  timeout : Nat
  capacity : Nat
  granted : List (Nat × Nat)
  releasing : List (Nat × Nat)
  buffer : List CacheLine
deriving DecidableEq, Repr, Inhabited

/-- What an error record holds beside TIME. -/
structure ErrorInfo where
  code : Nat
  die : Nat
  unit : Nat
  ctx : Nat
  object : Nat
  generation : Nat
  offset : Nat
deriving DecidableEq, Repr, Inhabited

/-- A fabric link port's status (R275). -/
structure FabricPort where
  trained : Bool
  peerChip : BitVec 16
  peerPort : BitVec 4
deriving DecidableEq, Repr, Inhabited

/-- A slice map (R152), and the maps published before it, under their generations. -/
structure SliceMap where
  entries : List Nat
  generation : BitVec 16
  older : List (BitVec 16 × List Nat)
deriving DecidableEq, Repr, Inhabited

/-- An answered report request (R274); `signature` is none when the signatures are spent. -/
structure Report where
  mailbox : Nat
  nonce : BitVec 256
  slots : List (BitVec 256)
  log : List (Nat × Nat × BitVec 256)
  index : Nat
  signature : Option (BitVec 22560)
deriving DecidableEq, Repr, Inhabited

/-- Firmware substitutions of an array's columns (R224). -/
structure ColumnSpares where
  core : Nat
  index : Nat
  used : List Nat
  retired : Bool
deriving DecidableEq, Repr, Inhabited

/-- The permissions an access needs (R110 step 5). -/
inductive Need where
  | read | write | both | fetch
deriving DecidableEq, Repr, Inhabited

/-- When an access of the acting instruction is performed (R162; log 6): at its issue, or later, at a turn of its own; `due` is
that turn, with the number under which it waits, the time of its issue, and the weave as it stood then. -/
inductive Moment where
  | now
  | later
  | due (id since : Nat) (weave : Weave)
deriving DecidableEq, Repr

/-- Who acts in this step: the issuing weave and strand, the PC and length of its instruction, the attributes of its
prefix (R99; log 5), and when its access is performed. -/
structure Issuer where
  weave : WeaveId
  strand : Strand
  pc : BitVec 32
  bytes : Nat
  attrs : Option Attrs
  moment : Moment
deriving DecidableEq, Repr

/-- What an access asks for: its lanes with their offsets, and the fault record it would leave; `mask` is the faulters'
mask of a scalar form (R110), `viewMask` that of a view fault where R191 fixes it. -/
structure Req where
  space : Space
  object : Nat
  width : Nat
  need : Need
  lanes : List (Nat × Bool × Int)
  mask : Option LaneMask
  viewMask : Option LaneMask
  info : FaultInfo
deriving DecidableEq, Repr

/-- An access that has issued and is not yet performed (R162): its instruction, when it issued, the weave as it stood, and what it
asks for; where its home has refused it, the line with the times of the first and of the last refusal (R176, R177); and the queue and
the entry that its data will fill (R54). -/
structure Pending where
  id : Nat
  since : Nat
  issuer : Issuer
  weave : Weave
  instr : Instr
  req : Req
  refused : Option (Nat × Nat × Nat)
  slot : Option (Nat × Nat)
deriving DecidableEq, Repr

/-- A turn of the schedule (log 4): an event of the table, an issue slot granted to a stream of a weave, a turn of a core's
front end in its own rotation (R245), the same with the access left for later, an access performed then, a passage of cc, a line
that a cache gives up, a translation dropped, the peers of a collective being ready, or an access of a scout or of a wrong path (R113). -/
inductive Turn where
  | event (i : Instr)
  | issue (weave : WeaveId) (stream : Stream)
  | offer (core : Nat) (stream : Stream)
  | postpone (weave : WeaveId) (stream : Stream)
  | perform (pending : Nat)
  | pass (cycles : Nat)
  | evict (holder : Holder) (line : Nat)
  | evictOtb (owner : Holder) (part object frame : Nat)
  | peersReady (thread : Nat)
  | scout (weave : WeaveId) (attrs : Attrs) (object : Nat) (offset : DWord)
deriving DecidableEq, Repr

/-- The machine. -/
structure State where
  -- the model's own fields
  cur : Issuer
  schedule : List Turn
  tick : Nat
  nextId : Nat
  rr : Nat
  hostReply : DWord
  hostRetry : Bool
  codeWas : List (Nat × BitVec 16)
  -- the module
  time : Nat
  powered : Bool
  stage : Option Nat
  stageError : BitVec 8
  linksAt : Nat
  chipId : BitVec 16
  dies : BitVec 4
  cxlPorts : BitVec 4
  fabricPorts : BitVec 16
  firmware : DWord
  coresPresent : BitVec 384
  arraysOut : List ColumnSpares
  channels : BitVec 512
  scheduleEntries : Vector (BitVec 8) 64
  vfMap : Vector (BitVec 8) 256
  aperts : Vector DWord 256
  fabric : Vector FabricPort 16
  slots : Vector (BitVec 256) 8
  log : List (Nat × Nat × BitVec 256)
  nextSignature : Nat
  reports : List Report
  shutdown : Option (ErrorInfo × Nat)
  powerLimit : Nat
  idleCycles : Nat
  clockStep : Nat
  fwHndlr : DWord
  changesDone : Nat
  dieCorrected : Vector Nat 4
  -- partitions, launches, crews, weaves
  pcbs : Vector Pcb 16
  launches : List Launch
  crews : List Crew
  weaves : List Weave
  coreStates : Vector CoreState 384
  flights : List Flight
  pending : List Pending
  transits : List Transit
  arrays : List MatArray
  threads : List Thread
  tagCounts : List (Nat × Nat × Nat)
  flipScopes : List ((Nat × Nat) × Scope)
  merged : List (Nat × Nat)
  -- memories
  mem : List Host.Cell
  spad : List Host.Cell
  store : List Host.Cell
  hostMem : List Host.Cell
  hostGrant : List (Nat × Nat)
  poison : List (Nat × Nat)
  -- caches and homes
  caches : List CacheLine
  dirs : List DirEntry
  resident : List HomeLine
  fills : List SliceFill
  retries : List RetryRec
  homeRetries : List (Holder × Nat × Nat)
  sleeping : List (Holder × BitVec 16)
  sliceMaps : Vector SliceMap 4
  otb : List OtbEntry
  cxl : Vector CxlPort 4
  -- layouts
  mapGen : BitVec 16
  baseGen : BitVec 16
  regions : List Region
  tracks : List Track
  claimed : Nat
  window : Nat
  -- bundles
  bundles : List Bundle
  members : List MemberLine
deriving DecidableEq, Repr

/-- Why a step can stop. The machine that the spec describes has no stop of its own: a faulting stream is vectored
(R250), and a schedule's turn that cannot be taken passes. -/
inductive Fault where
  /-- A meaning was asked to act for a stream that is not resident. Raised by Ops.run; safe: `step` never does this. -/
  | noIssuer
deriving DecidableEq, Repr

/-- Why an instruction has no meaning. -/
inductive Refusal where
  /-- An instruction that is not modelled, by its mnemonic. Raised by exec's refused arms only; safe. -/
  | notModelled (mnemonic : String)
deriving DecidableEq, Repr

/-- A launch queue after reset (R270). -/
def LaunchQueue.reset : LaunchQueue := ⟨false, false, 0, 4, 0, 0, 0, 0⟩

/-- A partition control block after reset (R269; log 1 for the fields without a reset value). -/
def Pcb.reset : Pcb :=
  { tableBase := 0, tableEntries := 0, lim0 := 0, lim1 := 0, ringObject := 0, ringHead := 0, ringTail := 0
    overflow := 0, threshold := 0, contextObject := 0, poolObject := 0, granted := 0
    queues := .replicate 16 .reset, lastPlace := 383, lastQueues := .replicate 4 15, held := none, corrected := 0, due := 0
    bundlesNow := 0, retentionNow := 0 }

/-- A core after reset: no scratchpad, no request, counters at zero (R141, R259; log 1). -/
def CoreState.reset : CoreState := ⟨0, 0, 0, 0, 0, 0, 0, 0, 15, 15, 0, 0, .replicate 4 0⟩

/-- A CXL port after reset (R157; log 1). -/
def CxlPort.reset : CxlPort := ⟨false, false, 10000, 0, [], [], []⟩

/-- A die's slice map after reset: entry h names slice h mod 48 (DESIGN CHOICE, log 1). -/
def SliceMap.reset : SliceMap := ⟨(List.range 256).map (· % 48), 0, []⟩

/-- The machine after reset: without power, nothing resident, every register at the value the spec states or log 1 names. -/
def State.reset : State :=
  { cur := ⟨⟨0, 0⟩, .a, 0, 4, none, .now⟩, schedule := [], tick := 0, nextId := 0, rr := 0, hostReply := 0, hostRetry := false, codeWas := []
    time := 0, powered := false, stage := none, stageError := 0, linksAt := 0, chipId := 0, dies := BitVec.allOnes 4
    cxlPorts := BitVec.allOnes 4, fabricPorts := BitVec.allOnes 16
    firmware := 0, coresPresent := BitVec.allOnes 384, arraysOut := [], channels := BitVec.allOnes 512
    scheduleEntries := Vector.ofFn fun i => if i.val = 63 then 0x20 else 0
    vfMap := .replicate 256 0, aperts := .replicate 256 0, fabric := .replicate 16 ⟨false, 0, 0⟩
    slots := .replicate 8 0, log := [], nextSignature := 0, reports := [], shutdown := none, powerLimit := 3400, idleCycles := 0
    clockStep := 0, fwHndlr := 0, changesDone := 0, dieCorrected := .replicate 4 0
    pcbs := .replicate 16 .reset, launches := [], crews := [], weaves := [], coreStates := .replicate 384 .reset
    flights := [], pending := [], transits := [], arrays := [], threads := [], tagCounts := [], flipScopes := [], merged := []
    mem := [], spad := [], store := [], hostMem := [], hostGrant := [], poison := []
    caches := [], dirs := [], resident := [], fills := [], retries := [], homeRetries := [], sleeping := [], sliceMaps := .replicate 4 .reset, otb := []
    cxl := .replicate 4 .reset, mapGen := 0, baseGen := 0, regions := [], tracks := [], claimed := 0, window := 0
    bundles := [], members := [] }

end Sys2Proof.Machine
end

