-- ==== Sys2Proof/Machine/Bits.lean ====
section
/-! DEFINITION. Bit fields, byte order, sign extension and small list operations that the meanings share. -/

namespace Sys2Proof.Machine

/-- The field of n bits at bit lo of a number. -/
def bits (x lo n : Nat) : Nat := x / 2 ^ lo % 2 ^ n

/-- Bit i of a number. -/
def bitAt (x i : Nat) : Bool := x / 2 ^ i % 2 == 1

/-- A number whose bit is a truth value. -/
def ofBool (b : Bool) : Nat := if b then 1 else 0

/-- The signed value of the low n bits of x. -/
def signed (n x : Nat) : Int :=
  let y := x % 2 ^ n
  if y < 2 ^ (n - 1) then (y : Int) else (y : Int) - (2 ^ n : Nat)

/-- The n bits that hold an integer in two's complement. -/
def wrapInt (n : Nat) (x : Int) : Nat := (x % (2 ^ n : Nat)).toNat

/-- x clamped to the range of a signed n-bit integer (R19, sat). -/
def satInt (n : Nat) (x : Int) : Int :=
  let hi : Int := (2 ^ (n - 1) : Nat) - 1
  let lo : Int := -(2 ^ (n - 1) : Nat)
  if x > hi then hi else if x < lo then lo else x

/-- The number that bytes hold, little-endian (R19). -/
def leNat : List Byte → Nat
  | [] => 0
  | b :: r => b.toNat + 256 * leNat r

/-- n bytes of a number, little-endian. -/
def leBytes (n x : Nat) : List Byte := natBytes n x

/-- Sign extension of a 64-bit immediate field (R94). -/
def sext64 {n : Nat} (x : BitVec n) : DWord := x.signExtend 64

/-- The PC at a signed halfword offset from a word (R13, R94). -/
def branchTarget {n : Nat} (pc : BitVec 32) (o : BitVec n) : BitVec 32 := pc + 2 * o.signExtend 32

/-- The entry at position i of a list, changed. -/
def updateAt {α : Type} (f : α → α) : Nat → List α → List α
  | _, [] => []
  | 0, x :: r => f x :: r
  | i + 1, x :: r => x :: updateAt f i r

/-- The entries of a list that differ, first occurrence kept, in order. -/
def distinct {α : Type} [DecidableEq α] : List α → List α
  | [] => []
  | x :: r => x :: (distinct r).filter (· ≠ x)

/-- A fold that may stop. -/
def foldE {α β ε : Type} (f : β → α → Except ε β) : β → List α → Except ε β
  | b, [] => .ok b
  | b, x :: r => match f b x with
    | .ok b' => foldE f b' r
    | .error e => .error e

/-- The lanes 0 to 95 in ascending order (R18). -/
def laneList : List Nat := List.range 96

/-- The lanes of a mask, ascending (R18). -/
def lanesOf (m : LaneMask) : List Nat := laneList.filter fun l => m.getLsbD l

/-- The mask of the lanes that a test selects. -/
def maskOf (p : Nat → Bool) : LaneMask :=
  laneList.foldl (fun m l => if p l then m ||| ((1 : LaneMask) <<< l) else m) 0

/-- A lane register by lane. -/
def mkLanes (f : Nat → Word) : LaneReg := Vector.ofFn fun i => f i.val

/-- Lane l of a lane register. -/
def laneAt (v : LaneReg) (l : Nat) : Word := v.toArray.toList.getD l 0

/-- The number of one bits of a number, over its low n bits. -/
def popBits (n x : Nat) : Nat := ((List.range n).filter fun i => bitAt x i).length

/-- The number of leading zeros of an n-bit number. -/
def leadingZeros : Nat → Nat → Nat
  | 0, _ => 0
  | n + 1, x => if bitAt x n then 0 else leadingZeros n x + 1

/-- The greater of two numbers rounded up to a multiple. -/
def ceilDiv (a b : Nat) : Nat := (a + b - 1) / b

/-! ### Cells: memories as sorted lists -/

/-- The byte listed at an address. -/
def cellGet : List Host.Cell → Nat → Option Byte
  | [], _ => none
  | (k, b) :: r, a => if a < k then none else if a = k then some b else cellGet r a

/-- A byte written at an address; writing what an unlisted address reads as removes the entry. -/
def cellSet (unlisted : Option Byte) : List Host.Cell → Nat → Byte → List Host.Cell
  | [], a, b => if some b = unlisted then [] else [(a, b)]
  | (k, c) :: r, a, b =>
    if a < k then (if some b = unlisted then (k, c) :: r else (a, b) :: (k, c) :: r)
    else if a = k then (if some b = unlisted then r else (a, b) :: r)
    else (k, c) :: cellSet unlisted r a b

/-- The cells outside a range. -/
def cellClear (cells : List Host.Cell) (a n : Nat) : List Host.Cell :=
  cells.filter fun c => decide (c.1 < a) || decide (a + n ≤ c.1)

/-- Addresses strictly rising from a bound, and no entry equal to what an unlisted address reads as. -/
def cellsFrom (unlisted : Option Byte) : Nat → List Host.Cell → Bool
  | _, [] => true
  | lo, (k, b) :: r => decide (lo ≤ k) && decide (some b ≠ unlisted) && cellsFrom unlisted (k + 1) r

/-- The canonical form of a memory. -/
def Memory.wf (unlisted : Option Byte) (cells : List Host.Cell) : Bool := cellsFrom unlisted 0 cells

/-! ### Places of the module -/

/-- The cluster of a core, counted over the module (R34). -/
def clusterOf (core : Nat) : Nat := core / 4

/-- The die of a core (R34). -/
def dieOf (core : Nat) : Nat := core / 96

/-- The sector of a core within its die (R34). -/
def sectorOf (core : Nat) : Nat := core / 32 % 3

/-- Where the far-memory tier begins among the physical addresses of `mem`. -/
def farBase : Nat := 2 ^ 60

/-- The physical address of byte b of a frame of a tier (R109); the frames of an entry are those of its tier (log 63). -/
def frameAddr (far : Bool) (frame b : Nat) : Nat := (if far then farBase else 0) + frame * Config.frameBytes + b

/-- Where host memory begins among the addresses of cached lines (R156). -/
def hostBase : Nat := 2 ^ 63

/-- Whether an address lies in host memory, or in far memory. -/
def isHost (a : Nat) : Bool := decide (hostBase ≤ a)
def isFar (a : Nat) : Bool := decide (farBase ≤ a) && !isHost a

/-- The frame number of a physical address in its tier. -/
def frameOf (a : Nat) : Nat := (if isFar a then a - farBase else a) / Config.frameBytes

/-- The physical line of an address (R145). -/
def lineOf (a : Nat) : Nat := a / 128

/-- The CXL port of an address, for far memory (R146). -/
def portOf (a : Nat) : Option Nat := if isFar a then some (frameOf a % 4) else none

/-- The home die of an address; host memory is homed on die 0 (R146). -/
def homeDie (a : Nat) : Nat := if isHost a then 0 else if isFar a then frameOf a % 4 else frameOf a % 16 / 4

/-- The HBM channel of an address, counted over the module's 16 sites of 32 channels (R146). An access to a line whose channel the module
does not have is performed as any other (DESIGN CHOICE, log 63). -/
def channelOf (a : Nat) : Nat :=
  32 * (frameOf a % 16) + (a % Config.frameBytes / 128 % 32 ^^^ frameOf a / 16 % 32)

/-- The unit that an error record names for an address of memory: its CXL port, or its HBM channel (R258; log 34). -/
def unitOf (a : Nat) : Nat := if isHost a then 0 else if isFar a then frameOf a % 4 else channelOf a

/-- The hash that chooses a home slice from a line's number in its tier (R146). -/
def sliceHash (line : Nat) : Nat :=
  let l := if isHost (line * 128) then line - hostBase / 128 else if isFar (line * 128) then line - farBase / 128 else line
  ((bits l 0 8 ^^^ bits l 8 8) ^^^ bits l 16 8) ^^^ bits l 24 8

end Sys2Proof.Machine
end

