-- ==== Sys2Proof/Machine/Tensor.lean ====
section
/-! DEFINITION. Objects, extents, regions and layouts (R107 to R119), translation buffers (R255), and the place of every
byte that an access names. -/

namespace Sys2Proof.Machine

/-! ### Home memory -/

/-- A byte at its home: of HBM and far memory (R145), or of host memory, where a byte that nothing has written reads as any
value (log 3). -/
def State.memByte (s : State) (a : Nat) : Byte :=
  if isHost a then (cellGet s.hostMem (a - hostBase)).getD (Config.freeByte s.tick (2 ^ 60 + (a - hostBase)))
  else (cellGet s.mem a).getD Config.unwrittenByte

/-- n bytes at their home, little-endian. -/
def State.memRead (s : State) (a n : Nat) : Nat := leNat ((List.range n).map fun i => s.memByte (a + i))

/-- A byte as its home answers: a copy that the directory has granted in M counts as the home (R161). -/
def State.homeByte (s : State) (a : Nat) : Byte :=
  match s.caches.find? fun c => c.line = lineOf a && c.state ≠ .plain && c.state ≠ .l && c.dirty.getLsbD (a % 128) with
  | some c => c.data.getD (a % 128) 0
  | none => s.memByte a

/-- n bytes as their home answers, little-endian. -/
def State.homeWord (s : State) (a n : Nat) : Nat := leNat ((List.range n).map fun i => s.homeByte (a + i))

/-- A byte written at its home. -/
def State.memSet (s : State) (a : Nat) (b : Byte) : State :=
  if isHost a then { s with hostMem := cellSet none s.hostMem (a - hostBase) b }
  else { s with mem := cellSet (some Config.unwrittenByte) s.mem a b }

/-- The key of a byte of the host memory granted to a function. -/
def hostKey (fn a : Nat) : Nat := fn * 2 ^ 48 + a

/-- A byte of host memory. -/
def State.hostByte (s : State) (fn a : Nat) : Byte := s.memByte (hostBase + hostKey fn a)

/-- A byte of host memory written. -/
def State.hostSet (s : State) (fn a : Nat) (b : Byte) : State := s.memSet (hostBase + hostKey fn a) b

/-- Bytes written at their home from an address on. -/
def State.memStore (s : State) (a : Nat) (bs : List Byte) : State :=
  (bs.zipIdx).foldl (fun t x => t.memSet (a + x.2) x.1) s

/-- n bytes of a number written at their home, little-endian. -/
def State.memWrite (s : State) (a n x : Nat) : State := s.memStore a (leBytes n x)

/-- Zeros written over a range, which also clears poison there (R257, R347). -/
def State.memZero (s : State) (a n : Nat) : State :=
  { s with
    mem := cellClear s.mem a n
    poison := s.poison.filter fun p => decide (p.1 + p.2 ≤ a) || decide (a + n ≤ p.1) }

/-! ### Object-table entries -/

/-- An object-table entry that names an object (R108). Element sizes are counted in 4-bit units, so that i4 is 1. -/
structure ObjDesc where
  kind : Nat
  type : Nat
  rank : Nat
  d0 : Nat
  d1 : Nat
  d2 : Nat
  d3 : Nat
  size : Nat
  readable : Bool
  writable : Bool
  executable : Bool
  withdrawn : Bool
  pinned : Bool
  layout : Nat
  farShare : Nat
  list : Nat
  shape : Nat
deriving DecidableEq, Repr, Inhabited

/-- The 4-bit units of an element type (R108). -/
def typeNibs (t : Nat) : Nat :=
  match t with
  | 0 => 8
  | 1 => 4
  | 2 => 4
  | 3 => 2
  | 4 => 2
  | 5 => 8
  | 6 => 2
  | _ => 1

/-- The element count of a tensor (R108). -/
def ObjDesc.count (d : ObjDesc) : Nat := d.d0 * d.d1 * d.d2 * d.d3

/-- The 4-bit units of an element; a byte or bundle object counts bytes. -/
def ObjDesc.nibs (d : ObjDesc) : Nat := if d.kind = 2 then typeNibs d.type else 2

/-- The bytes of an object (R108). -/
def ObjDesc.bytes (d : ObjDesc) : Nat := if d.kind = 2 then (d.count * typeNibs d.type + 1) / 2 else d.size

/-- The frames of an object (R109). -/
def ObjDesc.frames (d : ObjDesc) : Nat := ceilDiv d.bytes Config.frameBytes

/-- The extents by which coordinates address an object (R8). -/
def ObjDesc.extents (d : ObjDesc) : Nat × Nat × Nat × Nat :=
  if d.kind = 2 then (d.d0, d.d1, d.d2, d.d3) else (1, 1, 1, d.size)

/-- The object that eight words of a table entry name, if any (R108). -/
def parseObject (w : List DWord) : Option ObjDesc :=
  let g := fun i => (w.getD i 0).toNat
  let kind := bits (g 0) 0 2
  let rank := bits (g 0) 5 2 + 1
  let d : ObjDesc :=
    { kind, type := bits (g 0) 2 3, rank
      d0 := bits (g 2) 0 32, d1 := bits (g 2) 32 32, d2 := bits (g 3) 0 32, d3 := bits (g 3) 32 32
      size := bits (g 1) 0 48
      readable := bitAt (g 0) 8, writable := bitAt (g 0) 9, executable := bitAt (g 0) 10, withdrawn := bitAt (g 0) 11
      pinned := bitAt (g 0) 40, layout := bits (g 0) 32 8, farShare := bits (g 0) 16 7
      list := bits (g 4) 6 46 * 64, shape := bits (g 5) 0 32 }
  let mustBeZero := bits (g 0) 41 23 + bits (g 0) 23 9 + bits (g 0) 12 4 + bits (g 0) 7 1 + bits (g 1) 48 16
    + bits (g 4) 52 12 + bits (g 4) 0 6 + bits (g 5) 32 32 + g 6 + g 7
  let shapeOk := kind != 2 ||
    (d.d0 != 0 && d.d1 != 0 && d.d2 != 0 && d.d3 != 0
      && (rank ≥ 4 || d.d0 = 1) && (rank ≥ 3 || d.d1 = 1) && (rank ≥ 2 || d.d2 = 1))
  if kind != 0 && mustBeZero = 0 && shapeOk && d.farShare ≤ 64 && d.bytes ≤ 2 ^ 48 then some d else none

/-- The address of an object's table entry, of an extent entry: stacked memory answers 1,024 GB of addresses (R1; log 63). -/
def Pcb.entry (p : Pcb) (object : Nat) : Nat := (p.tableBase + 64 * object) % (Config.stackedFrames * Config.frameBytes)
def ObjDesc.extAt (d : ObjDesc) (f : Nat) : Nat := (d.list + 8 * f) % (Config.stackedFrames * Config.frameBytes)

/-- The words of an object's table entry at their home (R107); none for identifier 0 or past the table. -/
def State.objWords (s : State) (part object : Nat) : Option (List DWord) :=
  match s.pcbs.toList[part]? with
  | none => none
  | some p =>
    if object = 0 || p.tableEntries ≤ object then none
    else some ((List.range 8).map fun i => BitVec.ofNat 64 (s.homeWord (p.entry object + 8 * i) 8))

/-- The object that an identifier names in a partition's table (R107, R108). -/
def State.objDesc (s : State) (part object : Nat) : Option ObjDesc := (s.objWords part object).bind parseObject

/-- The extent entry of a frame at its home (R109). -/
def State.extWord (s : State) (d : ObjDesc) (f : Nat) : DWord := BitVec.ofNat 64 (s.homeWord (d.extAt f) 8)

/-- Whether an extent entry is present, in far memory, withdrawn; its frame number (R109). -/
def extPresent (w : DWord) : Bool := w.getLsbD 0
def extFar (w : DWord) : Bool := w.getLsbD 1
def extWithdrawn (w : DWord) : Bool := w.getLsbD 2
/-- The frame that an entry names: a number past the frames of its tier is taken modulo their count (DESIGN CHOICE, log 63). -/
def extFrame (w : DWord) : Nat := bits w.toNat 16 32 % (if extFar w then Config.farFrames else Config.stackedFrames)

/-- An extent entry (R109). -/
def mkExt (frame : Nat) (far present : Bool) : Nat := frame % 2 ^ 32 * 65536 + 2 * ofBool far + ofBool present

/-! ### Layouts -/

/-- The tile of a shape code: th x tw (R117). -/
def tileShape (c : Nat) : Nat × Nat :=
  match c with
  | 0 => (4, 4)
  | 1 => (8, 8)
  | 2 => (16, 16)
  | 3 => (32, 32)
  | 4 => (4, 32)
  | 5 => (32, 4)
  | 6 => (8, 16)
  | _ => (16, 8)

/-- Whether a layout code is defined (R117). -/
def layoutDefined (c : Nat) : Bool :=
  decide (c < 64) && (decide (c < 2) || bits c 0 2 = 2)

/-- The elements of a full region of an object (R116). -/
def ObjDesc.regionElems (d : ObjDesc) : Nat := 2 * Config.regionBytes / d.nibs

/-- The elements of region k (R116). -/
def ObjDesc.elemsOf (d : ObjDesc) (k : Nat) : Nat := Nat.min d.regionElems (d.count - k * d.regionElems)

/-- Whether a number is a power of two. -/
def powerOfTwo (n : Nat) : Bool := decide (n ≠ 0) && n &&& (n - 1) = 0

/-- Whether the rows of an object suit a movable region: B is a power of two no greater than 262,144 (R118). -/
def ObjDesc.rowsMovable (d : ObjDesc) : Bool :=
  d.kind = 2 && (d.d3 * d.nibs) % 2 = 0 && powerOfTwo (d.d3 * d.nibs / 2) && decide (d.d3 * d.nibs / 2 ≤ 262144)

/-- The rows of region k, H of R118. -/
def ObjDesc.rowsOf (d : ObjDesc) (k : Nat) : Nat := d.elemsOf k / d.d3

/-- Whether a code is eligible for a region of the object, its frames apart (R118). -/
def ObjDesc.eligible (d : ObjDesc) (k c : Nat) : Bool :=
  d.rowsMovable && layoutDefined c &&
    (decide (c < 2) || ((d.rowsOf k) % (tileShape (bits c 2 3)).1 = 0 && d.d3 % (tileShape (bits c 2 3)).2 = 0))

/-- The physical slot of region-relative element i of H rows by C columns (R119). -/
def slot (layout h c i : Nat) : Nat :=
  if layout = 0 then i
  else
    let row := i / c
    let col := i % c
    if layout = 1 then col * h + row
    else
      let th := (tileShape (bits layout 2 3)).1
      let tw := (tileShape (bits layout 2 3)).2
      let tr := row / th
      let tc := col / tw
      let t := if bitAt layout 5 then tc * (h / th) + tr else tr * (c / tw) + tc
      t * th * tw + (row % th) * tw + col % tw

/-- The region-relative element in physical slot p: the inverse of `slot`, used when a write-back is mapped (R130). -/
def unslot (layout h c p : Nat) : Nat :=
  if layout = 0 then p
  else if layout = 1 then (if h = 0 then p else (p % h) * c + p / h)
  else
    let th := (tileShape (bits layout 2 3)).1
    let tw := (tileShape (bits layout 2 3)).2
    let t := p / (th * tw)
    let u := p % (th * tw)
    let tr := if bitAt layout 5 then t % (h / th) else t / (c / tw)
    let tc := if bitAt layout 5 then t / (h / th) else t % (c / tw)
    (tr * th + u / tw) * c + (tc * tw + u % tw)

/-! ### Regions -/

/-- A region as its object's entry makes it (R123); its first generation is that of every region that nothing has touched
(log 13). -/
def State.newRegion (s : State) (id : RegionId) (d : ObjDesc) : Region :=
  let l := if d.eligible id.region d.layout then d.layout else 0
  { id, state := if d.pinned then .pinned else .stable, layout := l, generation := s.baseGen, done := 0, busy := none
    target := l, contest := none, newFrames := [], previous := l, layoutSince := s.baseGen, from' := .stable, request := none
    pinPending := none, lastChange := none, streak := none, rivals := [], contestSince := 0 }

/-- A region that the machine already keeps. -/
def State.region? (s : State) (id : RegionId) : Option Region := s.regions.find? fun r => r.id = id

/-- A region of an object: kept by its name once something has touched it, whatever becomes of the object's entry (DESIGN CHOICE,
log 58), else as the entry makes it. -/
def State.regionOf (s : State) (id : RegionId) (d : ObjDesc) : Region := (s.region? id).getD (s.newRegion id d)

/-- A region written back. -/
def State.setRegion (s : State) (r : Region) : State :=
  if (s.region? r.id).isSome then { s with regions := s.regions.map fun x => if x.id = r.id then r else x }
  else { s with regions := s.regions ++ [r] }

/-- The frame indexes of region k (R116). -/
def ObjDesc.regionFrames (d : ObjDesc) (k : Nat) : List Nat :=
  (List.range 4).map (4 * k + ·) |>.filter (· < d.frames)

/-- Whether a region is movable now (R118). -/
def State.movable (s : State) (d : ObjDesc) (k : Nat) : Bool :=
  d.rowsMovable && (d.regionFrames k).all fun f =>
    extPresent (s.extWord d f) && !extFar (s.extWord d f) && !extWithdrawn (s.extWord d f)

/-! ### Translation buffers -/

/-- The translation a core would use from its own or its cluster's buffer (R255). -/
def State.otbFind (s : State) (core part object : Nat) (frame : Option Nat) : Option OtbEntry :=
  let hit := fun (o : Holder) => s.otb.find? fun e =>
    e.owner = o && e.part = part && e.object = object && (frame.isNone || frame = some e.frame)
  match hit (.l1 core) with
  | some e => some e
  | none => hit (.cluster (clusterOf core))

/-- The translation that an access uses: a core's, or none for work at the home. -/
def State.heldEntry (s : State) (core : Option Nat) (part object : Nat) (frame : Option Nat) : Option OtbEntry :=
  core.bind fun c => s.otbFind c part object frame

/-- The object as a core sees it: through a held translation, else at its home (R255, R256). -/
def State.seeDesc (s : State) (core : Option Nat) (part object : Nat) : Option ObjDesc :=
  match s.heldEntry core part object none with
  | some e => parseObject e.words
  | none => s.objDesc part object

/-- The extent entry of a frame as a core sees it (R255). -/
def State.seeExt (s : State) (core : Option Nat) (part object : Nat) (d : ObjDesc) (f : Nat) : DWord :=
  match s.heldEntry core part object (some f) with
  | some e => e.extent
  | none => s.extWord d f

/-- A new entry of one buffer; a full buffer gives up its oldest entry (log 12). -/
def otbInsert (otb : List OtbEntry) (e : OtbEntry) (cap : Nat) : List OtbEntry :=
  let mine := otb.filter fun x => x.owner = e.owner
  let rest := otb.filter fun x => x.owner ≠ e.owner
  e :: (mine.take (cap - 1) ++ rest)

/-- A walk for one frame: both buffers are filled (R255). Nothing happens when the core's buffer holds the frame. -/
def State.walk (s : State) (core part object frame : Nat) : State :=
  if (s.otbFind core part object (some frame)).isSome then s
  else
    match s.objWords part object with
    | none => s
    | some w =>
      match parseObject w with
      | none => s
      | some d =>
        let e : OtbEntry := ⟨.l1 core, part, object, frame, w, s.extWord d frame,
          (s.regionOf ⟨part, object, frame / 4⟩ d).generation⟩
        let s1 := otbInsert s.otb e 256
        { s with otb := otbInsert s1 { e with owner := .cluster (clusterOf core) } 8192 }

/-- The buffers' entries that a test does not match: an invalidation in every buffer of the module (R256, R331). -/
def State.otbInvalidate (s : State) (p : OtbEntry → Bool) : State :=
  { s with otb := s.otb.filter fun e => !p e }

/-! ### Places -/

/-- One byte, or one half of a byte for i4, that an access names: where caches hold it under the layout in force, where
its home is now (R119, R127), the half in each, its logical byte (R116), the extent entry it depends on, and its region with the byte's
offset in the region's frames. -/
structure Place where
  seen : Nat
  home : Nat
  halfSeen : Option Bool
  half : Option Bool
  logical : Nat
  frame : Nat
  rel : Option (RegionId × Nat)
  moving : Bool
  busy : Bool
deriving DecidableEq, Repr, Inhabited

/-- The section of a region-relative element (R116, R119). -/
def sectionOf (d : ObjDesc) (i : Nat) : Nat := i * d.nibs / 2 / 128 % 64

/-- The places of one element of a tensor (R119). -/
def State.elemPlaces (s : State) (core : Option Nat) (part object : Nat) (d : ObjDesc) (e : Nat) : List Place :=
  let k := e / d.regionElems
  let i := e % d.regionElems
  let id : RegionId := ⟨part, object, k⟩
  let r := s.regionOf id d
  let h := d.rowsOf k
  let p := slot r.layout h d.d3 i
  let b := p * d.nibs / 2
  let sec := sectionOf d i
  let retiling := decide (r.state = .retiling)
  let moved := retiling && r.done.getLsbD sec
  let f := 4 * k + b / Config.frameBytes
  let x := s.seeExt core part object d f
  let seen := frameAddr (extFar x) (extFrame x) (b % Config.frameBytes)
  let p' := slot r.target h d.d3 i
  let b' := p' * d.nibs / 2
  let home := if moved then frameAddr false (r.newFrames.getD (b' / Config.frameBytes) 0) (b' % Config.frameBytes) else seen
  let busy := decide (r.busy = some sec)
  if d.nibs = 1 then
    let half := if moved then p' % 2 == 1 else p % 2 == 1
    [⟨seen, home, some (p % 2 == 1), some half, e / 2, f, some (id, b), retiling, busy⟩]
  else
    (List.range (d.nibs / 2)).map fun j =>
      ⟨seen + j, home + j, none, none, e * d.nibs / 2 + j, f, some (id, b + j), retiling, busy⟩

/-- The places of w bytes at offset o of an object: k consecutive elements of a tensor, or w bytes (R111). -/
def State.placesAt (s : State) (core : Option Nat) (part object : Nat) (d : ObjDesc) (o w : Nat) : List Place :=
  if d.kind = 2 then
    (List.range (2 * w / d.nibs)).flatMap fun j => s.elemPlaces core part object d (o + j)
  else
    (List.range w).map fun j =>
      let b := o + j
      let f := b / Config.frameBytes
      let x := s.seeExt core part object d f
      let a := frameAddr (extFar x) (extFrame x) (b % Config.frameBytes)
      ⟨a, a, none, none, b, f, none, false, false⟩

/-- The frames that places depend on. -/
def framesOf (ps : List Place) : List Nat := distinct (ps.map (·.frame))

/-- The elements, or bytes, of an access of w bytes: k of R111, at least one. -/
def ObjDesc.spanOf (d : ObjDesc) (w : Nat) : Nat := Nat.max 1 (if d.kind = 2 then 2 * w / d.nibs else w)

/-! ### The checks of R110 -/

/-- Whether an object grants what is needed; a manifest whose directory entry is held is not writable (R182). -/
def State.permits (s : State) (part object : Nat) (d : ObjDesc) (n : Need) : Bool :=
  let held := s.bundles.any fun b => b.part = part && b.handle = object
  match n with
  | .read => d.readable
  | .write => d.writable && !held
  | .both => d.readable && d.writable && !held
  | .fetch => d.executable

/-- The first step of R110 that an access of w bytes at an offset fails, with its cause. `badCoord` says that a
coordinate lies at or above its extent. -/
def State.checkAt (s : State) (core : Option Nat) (part object : Nat) (d? : Option ObjDesc) (n : Need) (w : Nat) (badCoord : Bool)
    (off : Int) : Option (Nat × Cause) :=
  match d? with
  | none => some (1, .objBound)
  | some d =>
    let size := if d.kind = 2 then d.count else d.size
    if d.withdrawn then some (2, .extentGone)
    else if badCoord || off < 0 || (size : Int) < off + d.spanOf w then some (3, .objBound)
    else if (d.kind = 2 && 2 * w < d.nibs) || off.toNat % d.spanOf w ≠ 0 then some (4, .align)
    else if !s.permits part object d n then some (5, .perm)
    else
      let fs := framesOf (s.placesAt core part object d off.toNat w)
      if fs.any fun f => !extPresent (s.seeExt core part object d f) then some (6, .firstTouch)
      else if fs.any fun f => extWithdrawn (s.seeExt core part object d f) then some (7, .extentGone)
      else none

/-- The deciding step of several lanes: the lowest-numbered step that any lane fails, its cause, and the lanes that
fail it (R110). -/
def decideLanes (fails : List (Nat × Option (Nat × Cause))) : Option (Cause × LaneMask) :=
  let hits := fails.filterMap fun x => x.2.map fun y => (x.1, y)
  match hits.foldl (fun m x => match m with
      | none => some x.2
      | some y => if x.2.1 < y.1 then some x.2 else m) (none : Option (Nat × Cause)) with
  | none => none
  | some (step, cause) =>
    some (cause, hits.foldl (fun m x => if x.2.1 = step then m ||| ((1 : LaneMask) <<< x.1) else m) 0)

/-- coord_to_offset of R19, with whether a coordinate lies at or above its extent (R8). -/
def coordOffset (d : ObjDesc) (c0 c1 c2 c3 : Nat) : Bool × Nat :=
  let e := d.extents
  (decide (e.1 ≤ c0) || decide (e.2.1 ≤ c1) || decide (e.2.2.1 ≤ c2) || decide (e.2.2.2 ≤ c3),
    ((c0 * e.2.1 + c1) * e.2.2.1 + c2) * e.2.2.2 + c3)

end Sys2Proof.Machine
end

