-- ==== Sys2Proof/Machine/Caches.lean ====
section
/-! DEFINITION. Cached copies and their homes: lookup and staleness (R148, R129), write-backs mapped through the layout of
their stamp (R130, R178), the room in each cache (R145), the home directory (R149, R150), L copies (R176, R177), the part of
release and acquire that acts on caches (R165), and the bytes that loads, stores and atomics meet at each level (R160, R161,
R175). -/

namespace Sys2Proof

/-- Whether a policy allocates in L1, in the cluster cache and beyond (R148). -/
def CachePolicy.inL1 : CachePolicy → Bool
  | .ca => true
  | .cs => true
  | .cg => false
  | .nt => false

def CachePolicy.inCluster : CachePolicy → Bool
  | .ca => true
  | .cs => true
  | .cg => true
  | .nt => false

/-- Whether a store of the policy writes through to the home (R148). -/
def CachePolicy.through : CachePolicy → Bool
  | .ca => false
  | .cs => false
  | .cg => true
  | .nt => true

end Sys2Proof

namespace Sys2Proof.Machine

/-- Why an instruction does not complete at its issue: a fault (R246), the fault of a view load, which marks the entries
that find no version expired (R191), a scheduler-visible wait (R44), a stall at the
scoreboard (R63), a RETRY of a line's home, before which a store or atomic has ended its cluster's own L copy (R176), a place
among the waiters of a fill (R151), a REMAP (R152), or an access left to be performed later (R162), as a store to far memory is until
its home accepts it (R362). -/
inductive Stop where
  | fault (info : FaultInfo)
  | expired (info : FaultInfo) (entries : List Nat)
  | wait (on : WaitOn)
  | stall
  | retry (line : Nat) (own : Bool)
  | join (holder : Holder) (line : Nat) (early : Bool)
  | remap (core die : Nat)
  | postpone (q : Req)
deriving DecidableEq, Repr

/-! ### Lines -/

/-- A line that a holder has. -/
def State.lineAt (s : State) (h : Holder) (line : Nat) : Option CacheLine :=
  s.caches.find? fun c => c.holder = h && c.line = line

/-- Whether a holder has a line. -/
def State.has (s : State) (h : Holder) (line : Nat) : Bool := (s.lineAt h line).isSome

/-- A line put into its holder. -/
def State.putLine (s : State) (c : CacheLine) : State :=
  if s.has c.holder c.line then
    { s with caches := s.caches.map fun x => if x.holder = c.holder && x.line = c.line then c else x }
  else { s with caches := s.caches ++ [c] }

/-- A line taken out of its holder; dirty bytes are gone with it. -/
def State.dropLine (s : State) (h : Holder) (line : Nat) : State :=
  { s with caches := s.caches.filter fun c => !(c.holder = h && c.line = line) }

/-- The 128 bytes of a line at its home. -/
def State.homeLine (s : State) (line : Nat) : List Byte := (List.range 128).map fun i => s.memByte (128 * line + i)

/-- A copy in one state in both halves. -/
def CacheLine.inState (c : CacheLine) (x : LineState) : CacheLine := { c with state := x, upper := x }

/-- The state of the half that holds a byte (R156). -/
def CacheLine.stateAt (c : CacheLine) (i : Nat) : LineState := if i < 64 then c.state else c.upper

/-- Whether a copy may hold bytes newer than the home's: a half in M or E (R149). -/
def CacheLine.owned (c : CacheLine) : Bool := c.state = .m || c.state = .e || c.upper = .m || c.upper = .e

/-- Whether a line fails the test of R129 against a region: its stamp is older than the region's layout generation. -/
def State.olderThan (s : State) (c : CacheLine) (id : RegionId) : Bool :=
  decide (2 ^ 15 ≤ (c.stamp - ((s.region? id).map (·.generation)).getD s.baseGen).toNat)

/-- Whether a line is stale for the region that it was filled for (R129). -/
def State.lineStale (s : State) (c : CacheLine) : Bool :=
  match c.tag with
  | none => false
  | some (id, _) => s.olderThan c id

/-- Whether a region is being moved. -/
def State.regionMoving (s : State) (id : RegionId) : Bool := (s.region? id).any fun r => r.state = .retiling

/-- Where a dirty byte of a line goes: through the layout in force at the stamp back to its logical element, and on to
the position of that element now (R130). A line without a region goes to its own address. The second part is the half
of the byte for i4. -/
def State.mergePlaces (s : State) (c : CacheLine) (i : Nat) : List (Nat × Option Bool × Nat) :=
  let direct := [(128 * c.line + i, none, 0)]
  match c.tag with
  | none => direct
  | some (id, rel) =>
    match s.region? id, s.objDesc id.part id.object with
    | some r, some d =>
      let layout := if 2 ^ 15 ≤ (c.stamp - r.layoutSince).toNat then r.previous else r.layout
      let h := d.rowsOf id.region
      let b := rel + i
      let units := if d.nibs = 1 then [2 * b, 2 * b + 1] else [b * 2 / d.nibs]
      units.flatMap fun p =>
        let e := unslot layout h d.d3 p
        let ps := s.elemPlaces none id.part id.object d (id.region * d.regionElems + e)
        match ps[(b * 2 - p * d.nibs) / 2]? with
        | none => []
        | some q => [(q.home, q.half, p % 2)]
    | _, _ => direct

/-- One byte written over the whole or a half of a byte. -/
def setHalf (old new : Byte) : Option Bool → Byte
  | none => new
  | some false => (old &&& 0xF0) ||| (new &&& 0x0F)
  | some true => (old &&& 0x0F) ||| (new <<< 4)

/-- The dirty bytes of a line, each with the places it goes to. -/
def State.mergeMoves (s : State) (c : CacheLine) : List (Byte × Nat × Option Bool × Nat) :=
  ((List.range 128).filter fun i => c.dirty.getLsbD i).flatMap fun i => (s.mergePlaces c i).map fun x => (c.data.getD i 0, x)

/-- Dirty bytes merged at their home, byte by byte (R178, R130). -/
def State.mergeBytes (s : State) (xs : List (Byte × Nat × Option Bool × Nat)) : State :=
  xs.foldl (fun t x =>
    let v := match x.2.2.1 with
      | none => x.1
      | some _ => if x.2.2.2 = 1 then x.1 >>> 4 else x.1
    t.memSet x.2.1 (setHalf (t.memByte x.2.1) v x.2.2.1)) s

/-! ### Where a core's copies stand -/

/-- The slice of a die's map that is a line's home (R146), in a map's entries. -/
def sliceIn (entries : List Nat) (line : Nat) : Nat := entries.getD (sliceHash line) 0

/-- A die's slice map. -/
def State.sliceMap (s : State) (die : Nat) : SliceMap := s.sliceMaps.toList.getD die SliceMap.reset

/-- The home slice of a line (R146). -/
def State.homeSlice (s : State) (line : Nat) : Nat := sliceIn (s.sliceMap (homeDie (128 * line))).entries line

/-- The slice with a sector copy, or the RDC bank, that stands between a core's cluster and the home of a line, if any; a retired
slice keeps no copy (R147, R152). -/
def State.nearHolder (s : State) (core line : Nat) : Option Holder :=
  let hd := homeDie (128 * line)
  if hd = dieOf core then
    let n := 16 * sectorOf core + s.homeSlice line % 16
    if s.homeSlice line / 16 = sectorOf core || !(s.sliceMap hd).entries.contains n then none else some (.slice hd n)
  else some (.bank (dieOf core) (sliceHash line % 16))

/-- A line's dirty bytes written over another copy's, where they are as clean as the home's. -/
def CacheLine.over (l c : CacheLine) : CacheLine :=
  { l with data := (List.range 128).map fun i => if c.dirty.getLsbD i then c.data.getD i 0 else l.data.getD i 0
           dirty := l.dirty &&& ~~~c.dirty }

/-- The L copy of a core's own cluster, which bytes that leave its L1 pass on their way home (R161, R163). -/
def State.passCopy (s : State) (core : Nat) (c : CacheLine) : State :=
  match s.lineAt (.cluster (clusterOf core)) c.line with
  | some l => if l.state = .l then s.putLine (l.over c) else s
  | none => s

/-! ### Write-backs -/

/-- The tracked copies of a line, L copies and the given holder's apart, leave it before other bytes are merged into it:
their own dirty bytes first. -/
def State.expel (s : State) (h : Holder) (line : Nat) : State :=
  (s.caches.filter fun c => c.line = line && c.state ≠ .plain && c.state ≠ .l && c.holder ≠ h).foldl
    (fun t c => (t.mergeBytes (t.mergeMoves c)).dropLine c.holder line) s

/-- The dirty bytes of a line merged at their home, whose other copies end (R178, R149); those of an L1 pass its cluster's L copy. -/
def State.mergeLine (s : State) (c : CacheLine) : State :=
  let xs := s.mergeMoves c
  let t := ((distinct (xs.map fun x => lineOf x.2.1)).foldl (fun t l => t.expel c.holder l) s).mergeBytes xs
  match c.holder with
  | .l1 core => t.passCopy core c
  | _ => t

/-- Whether a CXL port is down (R157). -/
def State.portDown (s : State) (p : Nat) : Bool := ((s.cxl.toList[p]?).map (·.down)).getD false

/-- Whether a line lies behind a port that is down, so that its dirty bytes are held (R158). -/
def State.lineHeld (s : State) (line : Nat) : Bool := ((portOf (128 * line)).map s.portDown).getD false

/-- A CXL port changed. -/
def State.onCxl (s : State) (port : Nat) (f : CxlPort → CxlPort) : State :=
  { s with cxl := if h : port < 4 then s.cxl.set port (f s.cxl[port]) else s.cxl }

/-- The dirty bytes of a line whose port is down go to the port's write-back buffer of 4,096 lines, if it has room (R158). -/
def State.holdBack (s : State) (c : CacheLine) : State :=
  match portOf (128 * c.line) with
  | none => s
  | some p =>
    if ((s.cxl.toList[p]?).map (·.buffer.length)).getD 0 < 4096 then
      (s.onCxl p fun x => { x with buffer := x.buffer ++ [c] }).putLine { c with dirty := 0 }
    else s

/-- A holder's dirty bytes of one line written back, or held; a line written back stays, clean (R130, R158). -/
def State.writeBack (s : State) (h : Holder) (line : Nat) : State :=
  match s.lineAt h line with
  | none => s
  | some c =>
    if c.dirty = 0 then s
    else if s.lineHeld line then s.holdBack c
    else (s.mergeLine c).putLine { c with dirty := 0 }

/-- A line written back and given up; one whose dirty bytes find no room while its port is down stays (R158). -/
def State.giveUp (s : State) (h : Holder) (line : Nat) : State :=
  let t := s.writeBack h line
  if (t.lineAt h line).any fun c => c.dirty ≠ 0 then t else t.dropLine h line

/-- A stale line given up, its dirty bytes written back first (R129). -/
def State.dropStale (s : State) (h : Holder) (line : Nat) : State :=
  match s.lineAt h line with
  | none => s
  | some c => if s.lineStale c then s.giveUp h line else s

/-- Every line of a holder, treated by a function of the state and the line's number. -/
def State.eachLine (s : State) (h : Holder) (f : State → Nat → State) : State :=
  ((s.caches.filter fun c => c.holder = h).map (·.line)).foldl f s

/-- A port that software has armed again: the lines of its buffer are written back, and its dirty lines in caches (R158). -/
def State.drainPort (s : State) (port : Nat) : State :=
  let held := ((s.cxl.toList[port]?).map (·.buffer)).getD []
  let t := held.foldl State.mergeLine (s.onCxl port fun x => { x with buffer := [] })
  (t.caches.filter fun c => portOf (128 * c.line) = some port && c.dirty ≠ 0).foldl
    (fun u c => u.writeBack c.holder c.line) t

/-! ### The home directory -/

/-- The tracked copies of a line: all but L1 copies (R145, R149). -/
def State.tracked (s : State) (line : Nat) : List CacheLine :=
  s.caches.filter fun c => c.line = line && c.state ≠ .plain

/-- Whether a cluster other than the given one holds an L copy of the line (R176). -/
def State.lElsewhere (s : State) (cluster line : Nat) : Bool :=
  (s.tracked line).any fun c => c.state = .l && c.holder ≠ .cluster cluster

/-- Who tracks a holder's copy of a line: none its home, else the RDC of a die; an L1 copy is tracked by nothing (R145). -/
def trackerOf (h : Holder) (line : Nat) : Option (Option Nat) :=
  match h with
  | .l1 _ => none
  | .cluster c => some (if c / 24 = homeDie (128 * line) then none else some (c / 24))
  | .slice .. | .bank .. => some none

/-- The directory entry of a line at a tracker; a line in I has none. -/
def State.dir? (s : State) (tracker : Option Nat) (line : Nat) : Option DirEntry :=
  s.dirs.find? fun e => e.tracker = tracker && e.line = line

/-- A directory entry written; one without a holder goes to I. -/
def State.setDir (s : State) (e : DirEntry) : State :=
  let rest := s.dirs.filter fun x => !(x.tracker = e.tracker && x.line = e.line)
  { s with dirs := if e.holders.isEmpty then rest else e :: rest }

/-- A holder recorded as a reader, by the table of R149: the first gets E, a later one F; the state that it gets. -/
def State.recordRead (s : State) (h : Holder) (line : Nat) : State × LineState :=
  match trackerOf h line with
  | none => (s, .plain)
  | some t =>
    match s.dir? t line with
    | none => (s.setDir ⟨t, line, .e, [h], none⟩, .e)
    | some e => (s.setDir { e with state := .f, holders := h :: e.holders.filter (· ≠ h), forwarder := some h }, .f)

/-- A holder recorded as the owner (R149). -/
def State.recordOwner (s : State) (h : Holder) (line : Nat) : State :=
  match trackerOf h line with
  | none => s
  | some t => s.setDir ⟨t, line, .m, [h], none⟩

/-- A holder that tells its tracker that it has given a line up: an M or E copy does, an F or S copy is silent (R150). -/
def State.recordLoss (s : State) (h : Holder) (line : Nat) : State :=
  match trackerOf h line with
  | none => s
  | some t =>
    match s.dir? t line with
    | none => s
    | some e => if e.state = .m || e.state = .e then s.setDir { e with holders := e.holders.filter (· ≠ h) } else s

/-- The directory of a line after every holder but the spared ones has been invalidated. -/
def spareHolders (dirs : List DirEntry) (line : Nat) (spare : List Holder) : List DirEntry :=
  (dirs.map fun e =>
    if e.line = line then
      { e with holders := e.holders.filter spare.contains, forwarder := e.forwarder.filter spare.contains
               state := if (e.forwarder.filter spare.contains).isSome then .f else if e.state = .f then .s else e.state }
    else e).filter fun e => !e.holders.isEmpty

/-- Every M or E copy brings its dirty bytes home; M and E fall to S, and a die's RDC holds what its clusters wrote (R149). -/
def State.homeSync (s : State) (line : Nat) : State :=
  let own := (s.tracked line).filter CacheLine.owned
  if own.isEmpty then s
  else
    let t := own.foldl (fun t c =>
      let u := t.writeBack c.holder line
      match u.lineAt c.holder line with
      | some x => if x.dirty = 0 then u.putLine (x.inState .s) else u
      | none => u) s
    { t with
      caches := t.caches.map fun (c : CacheLine) => match c.holder with
        | .bank .. => if c.line = line then { c with data := t.homeLine line } else c
        | _ => c
      dirs := t.dirs.map fun (e : DirEntry) => if e.line = line && (e.state = .m || e.state = .e) then { e with state := .s } else e }

/-- The tracked copies apart from L copies are invalidated, their dirty bytes kept; the given holders are spared. -/
def State.homeInvalidate (s : State) (line : Nat) (spare : List Holder) : State :=
  let t := ((s.tracked line).filter fun c => c.state ≠ .l && !spare.contains c.holder).foldl (fun t c => t.giveUp c.holder line) s
  { t with dirs := spareHolders t.dirs line spare }

/-- The part of an eviction that the copy's tracker sees; the copies that an RDC bank owns for its clusters come home first. -/
def State.loseLine (s : State) (c : CacheLine) : State :=
  match c.holder with
  | .bank .. => if c.owned then (s.homeSync c.line).homeInvalidate c.line [] else s
  | _ => if c.owned then s.recordLoss c.holder c.line else s

/-- A line that a cache gives up; a dirty line of a port that is down is no victim (R158). -/
def State.evict (s : State) (h : Holder) (line : Nat) : State :=
  match s.lineAt h line with
  | some c => if c.dirty ≠ 0 && s.lineHeld line then s else (s.loseLine c).giveUp h line
  | none => { s with resident := s.resident.filter fun x => !(Holder.slice x.die x.slice = h && x.line = line) }

/-! ### Room (R141, R145) -/

/-- The lines that a holder has room for: an L1 the core's SRAM less its scratchpad, every other cache 4 MiB. -/
def State.capacity (s : State) : Holder → Nat
  | .l1 core => 512 * (8 - (s.coreStates.toList.getD core CoreState.reset).active)
  | _ => 32768

/-- The lines that a holder has: a slice's are sector copies and the lines that it homes. -/
def State.occupancy (s : State) (h : Holder) : Nat :=
  (s.caches.filter fun c => c.holder = h).length + (s.resident.filter fun x => Holder.slice x.die x.slice = h).length

/-- The lines that a full holder may give up, those for the first victim before the others; a way that waits for its fill is none
(R148, R151, R158). -/
def State.victims (s : State) (h : Holder) : List Nat :=
  let cs := (s.caches.filter fun c => c.holder = h && !(c.dirty ≠ 0 && s.lineHeld c.line)).map fun c => (c.early, c.line)
  let hs := (s.resident.filter fun x => Holder.slice x.die x.slice = h && !(s.fills.any fun f => f.line = x.line)).map fun x =>
    (x.early, x.line)
  let early := (cs ++ hs).filter (·.1)
  (if early.isEmpty then cs ++ hs else early).map (·.2)

/-- Room for one more line: a full cache gives up a line that it chooses freely, and takes none when it has no victim (log 59). -/
def State.makeWay (s : State) (h : Holder) : Option State :=
  if s.occupancy h < s.capacity h then some s
  else
    let vs := s.victims h
    (vs[Config.victim s.tick vs.length % vs.length]?).map fun l => s.evict h l

/-- A copy allocated; where no way can be had the access is served without one (R158). -/
def State.allocate (s : State) (c : CacheLine) : State :=
  if s.has c.holder c.line then s.putLine c
  else match s.makeWay c.holder with
    | some t => t.putLine c
    | none => s

/-- A line allocated in its home slice, unless the policy is .nt (R148). -/
def State.settleHome (s : State) (line : Nat) (p : CachePolicy) : State :=
  let die := homeDie (128 * line)
  let n := s.homeSlice line
  if p = .nt || s.resident.any fun x => x.die = die && x.slice = n && x.line = line then s
  else match s.makeWay (.slice die n) with
    | some t => { t with resident := t.resident ++ [⟨die, n, line, p = .cs⟩] }
    | none => s

/-! ### Requests at the home -/

/-- Whether a line is kept coherent with the outside: host memory, and far memory that is shared (R156). -/
def lineOutside (line : Nat) : Bool := isHost (128 * line) || (isFar (128 * line) && Config.sharedFar (frameOf (128 * line)))

/-- The halves that a miss on half k of a line fetches: that half alone of a line kept coherent with the outside, else the whole line
(R156). -/
def fetchedHalves (line k : Nat) : BitVec 2 := (1 <<< k) ||| (if lineOutside line then 0 else 3)

/-- The copy that a holder receives, of some halves; the state of a half that it does not receive is that of no owner. -/
def State.grant (s : State) (h : Holder) (line : Nat) (st : LineState) (tag : Option (RegionId × Nat)) (early : Bool)
    (halves : BitVec 2 := 3) : State :=
  let rest : LineState := if st = .l || st = .plain then st else .s
  s.allocate { holder := h, line, data := s.homeLine line, halves, dirty := 0, stamp := s.mapGen
               state := if halves.getLsbD 0 then st else rest, upper := if halves.getLsbD 1 then st else rest, tag
               last := s.time, early }

/-- A read from a holder served by the directory's table (R149, R150): the sole reader gets E, a later one F, and the
forwarder before it drops to S. Data come from the home, where every M or E copy has brought its bytes, also when the forwarder
no longer has the line. -/
def State.homeRead (s : State) (h : Holder) (line : Nat) (tag : Option (RegionId × Nat)) (early : Bool) (halves : BitVec 2 := 3) :
    State :=
  let s1 := s.homeSync line
  let r := s1.recordRead h line
  let s2 := { r.1 with caches := r.1.caches.map fun (c : CacheLine) =>
    if c.line = line && c.state = LineState.f && trackerOf c.holder line = trackerOf h line then c.inState .s else c }
  let t := s2.grant h line r.2 tag early halves
  if t.has h line then t else s1

/-- The RDC bank through which a remote cluster owns a line (R145). -/
def bankOf (h : Holder) (line : Nat) : Option Holder :=
  match h with
  | .cluster c => if c / 24 = homeDie (128 * line) then none else some (.bank (c / 24) (sliceHash line % 16))
  | _ => none

/-- An ownership request served by the directory's table (R149): every other holder is invalidated, its dirty bytes
supplied, and the requester gets M, beside the halves that it has; a remote cluster owns a line through its die's RDC. -/
def State.homeOwn (s : State) (h : Holder) (line : Nat) (tag : Option (RegionId × Nat)) (early : Bool) (halves : BitVec 2 := 3) :
    State :=
  let got := ((s.lineAt h line).map (·.halves)).getD 0 ||| halves
  let s1 := (s.homeSync line).homeInvalidate line []
  let s2 := match bankOf h line with
    | some b => (s1.grant b line .m tag early got).recordOwner b line
    | none => s1
  let t := s2.grant h line .m tag early got
  if t.has h line then t.recordOwner h line else s1

/-! ### L copies -/

/-- An L copy ends: its dirty bytes go home and the line goes to I (R177). -/
def State.endL (s : State) (cluster line : Nat) : State :=
  match s.lineAt (.cluster cluster) line with
  | some c => if c.state = .l then s.giveUp (.cluster cluster) line else s
  | none => s

/-- Every L copy of a cluster ends (R165, R177). -/
def State.endAllL (s : State) (cluster : Nat) : State := s.eachLine (.cluster cluster) fun t l => t.endL cluster l

/-- Every L copy of a line ends (R177, R243). -/
def State.endLineL (s : State) (line : Nat) : State :=
  ((s.tracked line).filter fun c => c.state = .l).foldl (fun t c => t.giveUp c.holder line) s

/-- A cluster-scope access obtains an L copy: M and E copies come home, every other non-L copy is
invalidated, and the copy starts clean with the home's data (R176). -/
def State.obtainL (s : State) (cluster line : Nat) (tag : Option (RegionId × Nat)) (early : Bool) (halves : BitVec 2 := 3) : State :=
  let fresh := ((s.homeSync line).homeInvalidate line []).grant (.cluster cluster) line .l tag early halves
  match s.lineAt (.cluster cluster) line with
  | some c => if c.state = .l then s.putLine { c with last := s.time } else fresh
  | none => fresh

/-- A core's dirty bytes of a line moved from its L1 into its cluster's L copy (R165, R178), or home where there is none, as in a region
that retiles (R127). -/
def State.pushToL (s : State) (core line : Nat) : State :=
  match s.lineAt (.l1 core) line with
  | none => s
  | some c =>
    if c.dirty = 0 then s
    else if s.lineStale c || c.tag.any fun x => s.regionMoving x.1 then s.writeBack (.l1 core) line
    else
      let u := s.obtainL (clusterOf core) line c.tag c.early c.halves
      match u.lineAt (.cluster (clusterOf core)) line with
      | none => u.writeBack (.l1 core) line
      | some l =>
        if c.halves &&& ~~~l.halves ≠ 0 then u.writeBack (.l1 core) line
        else (u.putLine { l.over c with dirty := l.dirty ||| c.dirty }).putLine { c with dirty := 0 }

/-! ### Release and acquire on caches -/

/-- Every dirty byte of a core's L1 written back to the level of a scope: into L copies for cluster scope, else home
(R165, R178). -/
def State.flushL1 (s : State) (core : Nat) (sc : Scope) : State :=
  s.eachLine (.l1 core) fun t line => if sc = .cl then t.pushToL core line else t.writeBack (.l1 core) line

/-- Every line of a core's L1 invalidated, dirty bytes written back first (R165). -/
def State.clearL1 (s : State) (core : Nat) : State := s.eachLine (.l1 core) fun t l => t.giveUp (.l1 core) l

/-- The cache part of a release of a scope (R165). -/
def State.releaseCaches (s : State) (core : Nat) (sc : Scope) : State :=
  if sc.code < 2 then s
  else
    let t := s.flushL1 core sc
    if sc.code < 3 then t else t.endAllL (clusterOf core)

/-- The cache part of an acquire of a scope (R165). -/
def State.acquireCaches (s : State) (core : Nat) (sc : Scope) : State :=
  if sc.code < 2 then s
  else
    let t := s.clearL1 core
    if sc.code < 3 then t else t.endAllL (clusterOf core)

/-! ### The bytes an access meets -/

/-- What the caches keep of a place: its line and the byte within it. -/
def Place.line (p : Place) : Nat := lineOf p.seen
def Place.index (p : Place) : Nat := p.seen % 128

/-- The tag of the line that holds a place: its region and the offset of the line's first byte in the region's frames. -/
def Place.tag (p : Place) : Option (RegionId × Nat) := p.rel.map fun x => (x.1, x.2 - p.index)

/-- Whether a place lies in memory kept coherent with the outside: host memory, and far memory that is shared (R156). -/
def Place.outside (p : Place) : Bool := isHost p.home || (isFar p.home && Config.sharedFar (frameOf p.home))

/-- The byte that answers a holder that fetches a half of a line: for an L1 that of its cluster's copy, where that holds the half,
else the home's (R156). -/
def State.ownerByte (s : State) (h : Holder) (line i : Nat) : Byte :=
  let above := match h with
    | .l1 core => (s.lineAt (.cluster (clusterOf core)) line).filter fun (c : CacheLine) => c.halves.getLsbD (i / 64)
    | _ => none
  match above with
  | some c => c.data.getD i 0
  | none => s.memByte (128 * line + i)

/-- A holder's copy of a place's line fit for the place: one that is stale for the region that it was filled for, or for the region
that the access names, is given up (R129), and a clean copy that was filled under another name takes the place's. -/
def State.fitLine (s : State) (h : Holder) (p : Place) : State :=
  match s.lineAt h p.line with
  | none => s
  | some c =>
    if s.lineStale c || (p.rel.any fun x => s.olderThan c x.1) || (decide (c.tag ≠ p.tag) && decide (c.dirty ≠ 0)) then s.giveUp h p.line
    else if c.tag = p.tag then s else s.putLine { c with tag := p.tag }

/-- What must be at the home before a half of a place's line is fetched: every owned copy's bytes, a stale copy above an L1 given up
(R129). -/
def State.beforeHalf (s : State) (h : Holder) (p : Place) : State :=
  match h with
  | .l1 core => (s.fitLine (.cluster (clusterOf core)) p).homeSync p.line
  | _ => s.homeSync p.line

/-- The cached lines that hold dirty bytes of a region where an earlier layout put them: they are stale (R129). -/
def State.formerLines (s : State) (id : RegionId) : List CacheLine :=
  s.caches.filter fun c => decide (c.dirty ≠ 0) && c.tag.any (·.1 = id) && s.lineStale c

/-- A holder's dirty bytes of a place's region that an earlier layout put into other lines are given up before the region is
accessed, so that a stream meets its own stores wherever the layout now puts them (R120, R129, R163; log 36). -/
def State.dropFormer (s : State) (h : Holder) (p : Place) : State :=
  match p.rel with
  | none => s
  | some (id, _) => ((s.formerLines id).filter fun c => c.holder = h).foldl (fun t c => t.giveUp h c.line) s

/-- Every dirty byte of a region that an earlier layout placed brought home: the walks of R130 have done so before the eight windows
of R124 are over, so that no write-back comes from before the previous layout (log 36). -/
def State.settleFormer (s : State) (id : RegionId) : State :=
  (s.formerLines id).foldl (fun t c => t.writeBack c.holder c.line) s

/-- A holder's copy made usable for a place: a stale line is given up (R129), and a half that the device does not hold is
fetched from its owner (R156). -/
def State.freshen (s : State) (h : Holder) (p : Place) : State :=
  let k := p.index / 64
  let s1 := (s.dropFormer h p).fitLine h p
  let t := if (s1.lineAt h p.line).any fun c => !c.halves.getLsbD k then s1.beforeHalf h p else s1
  match t.lineAt h p.line with
  | none => t
  | some c =>
    if c.halves.getLsbD k then t
    else
      let x := if c.state = .l || c.state = .plain then c.state else .s
      t.putLine { c with
        data := (List.range 128).map fun i => if i / 64 = k then t.ownerByte h p.line i else c.data.getD i 0
        halves := c.halves ||| ((1 : BitVec 2) <<< k)
        state := if k = 0 then x else c.state, upper := if k = 1 then x else c.upper }

/-- A core's counters changed (R350). -/
def State.onCore (s : State) (core : Nat) (f : CoreState → CoreState) : State :=
  { s with coreStates := if h : core < 384 then s.coreStates.set core (f s.coreStates[core]) else s.coreStates }

/-- The generation of a die's slice map under which a core hashes (R152). -/
def State.mapSeen (s : State) (core die : Nat) : BitVec 16 :=
  ((s.coreStates.toList.getD core CoreState.reset).mapsSeen.toList).getD die 0

/-- Whether a core's request for a line would be answered REMAP: it hashes under an older map, whose slice the current map no
longer names (R152). -/
def State.remapped (s : State) (core line : Nat) : Bool :=
  let die := homeDie (128 * line)
  let m := s.sliceMap die
  decide (s.mapSeen core die ≠ m.generation) &&
    m.older.any fun x => x.1 = s.mapSeen core die && !m.entries.contains (sliceIn x.2 line)

/-- What stops a core's request that reaches a line's home slice: a REMAP (R152), or a fill that is on its way, whose waiters it
joins while they are fewer than twelve (R151); a request that allocates no copy joins as its core's. -/
def State.atSlice (s : State) (core line : Nat) (a : Attrs) : Option Stop :=
  if s.remapped core line then some (.remap core (homeDie (128 * line)))
  else match s.fills.find? fun f => f.line = line with
    | none => none
    | some f =>
      let h : Holder := if a.cache.inCluster then .cluster (clusterOf core) else .l1 core
      if f.waiters.any fun x => x.1 = h then some .stall
      else if f.waiters.length < 12 then some (.join h line (a.cache = .cs))
      else some (.retry line false)

/-- A line's copies brought home and its other holders invalidated, for an access performed at the home: the issuer's copies that
it passes are spared (R148, R127). -/
def State.homeReady (s : State) (core : Nat) (p : Place) : State :=
  let spare := .cluster (clusterOf core) :: (s.nearHolder core p.line).toList
  let t := (s.homeSync p.line).homeInvalidate p.line spare
  if lineOf p.home = p.line then t else (t.homeSync (lineOf p.home)).homeInvalidate (lineOf p.home) []

/-- The line of a place made ready for a load: served from the nearest valid copy, else from the home, allocating as the
policy and the region's state say (R148, R127, R149); `own` asks for a line of the L1 whatever the policy (R175). -/
def State.loadLine (s : State) (core : Nat) (a : Attrs) (own : Bool) (p : Place) : Except Stop State :=
  let c := clusterOf core
  let early := a.cache = CachePolicy.cs
  let halves := fetchedHalves p.line (p.index / 64)
  let s0 := s.freshen (.l1 core) p
  if s0.has (.l1 core) p.line then .ok s0
  else
    let s1 := (s0.freshen (.cluster c) p).onCore core fun k => { k with l1Miss := k.l1Miss + 1 }
    let toL1 := fun (t : State) (data : List Byte) (halves : BitVec 2) =>
      if (own || a.cache.inL1) && !p.moving then
        t.allocate ⟨.l1 core, p.line, data, halves, 0, t.mapGen, .plain, .plain, p.tag, t.time, early⟩
      else t
    match s1.lineAt (.cluster c) p.line with
    | some l =>
      -- a cluster-scope access keeps its L copy in use (R177); a narrower or wider load is served without ending it (R176)
      let t := if l.state = .l && a.scope = .cl then s1.putLine { l with last := s1.time } else s1
      .ok (toL1 t l.data l.halves)
    | none =>
      if 3 ≤ a.scope.code && s1.lElsewhere c p.line then .error (.retry p.line false)
      else
        -- beside another cluster's L copy a cluster-scope access obtains its own, with the home's data (R176)
        let ownL := a.scope = .cl && s1.lElsewhere c p.line
        let near := if p.moving || ownL then none else s1.nearHolder core p.line
        let s2 := near.elim s1 fun h => s1.freshen h p
        match near.bind fun h => s2.lineAt h p.line with
        | some _ =>
          -- the sector copy or the RDC answers; after the sync its bytes are the home's
          let t := if a.cache.inCluster then s2.homeRead (.cluster c) p.line p.tag early halves else s2.homeSync p.line
          .ok (toL1 t (t.homeLine p.line) halves)
        | none =>
          match s2.atSlice core p.line a with
          | some stop => .error stop
          | none =>
            if p.moving then .ok ((s2.homeSync p.line).homeSync (lineOf p.home))
            else if ownL then
              let t := s2.obtainL c p.line p.tag early halves
              .ok (toL1 t (t.homeLine p.line) halves)
            else
              let s3 := if a.cache.inCluster then
                  (near.elim s2 fun h => s2.homeRead h p.line p.tag early halves).homeRead (.cluster c) p.line p.tag early halves
                else s2.homeSync p.line
              let s4 := s3.settleHome p.line a.cache
              .ok (toL1 s4 (s4.homeLine p.line) halves)

/-- A byte, or a half, out of a byte. -/
def takeHalf (b : Byte) : Option Bool → Nat
  | none => b.toNat
  | some false => b.toNat % 16
  | some true => b.toNat / 16

/-- The two halves of a byte exchanged. -/
def swapHalves (b : Byte) : Byte := (b >>> 4) ||| (b <<< 4)

/-- A byte of a copy as the place's home has it: an i4 element may stand in the other half there (R119). -/
def Place.asHome (p : Place) (b : Byte) : Byte := if p.half = p.halfSeen then b else swapHalves b

/-- A copy's byte at a place. -/
def CacheLine.byteOf (c : CacheLine) (p : Place) : Byte := p.asHome (c.data.getD p.index 0)

/-- The byte a core sees at a place once its line has been made ready: the nearest copy, else the home (R148). -/
def State.seeByte (s : State) (core : Nat) (p : Place) : Byte :=
  match s.lineAt (.l1 core) p.line with
  | some c => c.byteOf p
  | none =>
    match s.lineAt (.cluster (clusterOf core)) p.line with
    | some c => c.byteOf p
    | none =>
      if p.moving then s.memByte p.home
      else
        match (s.nearHolder core p.line).bind fun h => s.lineAt h p.line with
        | some c => c.byteOf p
        | none => s.memByte p.home

/-- The number that places hold, lowest first, as a reader of bytes sees them (R68, R19). -/
def joinPlaces (see : Place → Byte) : List Place → Nat
  | [] => 0
  | p :: r =>
    match p.half with
    | none => (see p).toNat + 256 * joinPlaces see r
    | some h => takeHalf (see p) (some h) + 16 * joinPlaces see r

/-- The values that a number gives to places, lowest first. -/
def splitPlaces : List Place → Nat → List (Place × Byte)
  | [], _ => []
  | p :: r, x =>
    match p.half with
    | none => (p, BitVec.ofNat 8 x) :: splitPlaces r (x / 256)
    | some _ => (p, BitVec.ofNat 8 (x % 16)) :: splitPlaces r (x / 16)

/-- A byte changed in a holder's copy of a place's line: marked dirty there, or, where the change is performed further out, as clean
as the home; an i4 element leaves a byte of an L copy as dirty as it was, since the mask is of bytes (R176). -/
def State.pokeLine (s : State) (h : Holder) (p : Place) (b : Byte) (mark : Bool) : State :=
  match s.lineAt h p.line with
  | none => s
  | some c =>
    let bit := (1 : BitVec 128) <<< p.index
    s.putLine { c with
      data := updateAt (fun _ => setHalf (c.data.getD p.index 0) b p.halfSeen) p.index c.data
      dirty := if mark then c.dirty ||| bit else if p.half.isSome && c.state = .l then c.dirty else c.dirty &&& ~~~bit }

/-- A byte changed at the home, and in the issuer's own copies that it passes (R148, R127). -/
def State.pokeHome (s : State) (core : Nat) (p : Place) (b : Byte) : State :=
  let t := (s.memSet p.home (setHalf (s.memByte p.home) b p.half)).pokeLine (.l1 core) p b false
  let u := t.pokeLine (.cluster (clusterOf core)) p b false
  (u.nearHolder core p.line).elim u fun h => u.pokeLine h p b false

/-- The level at which a store is performed (R161, R176, R148, R127). -/
inductive StoreLevel where
  | l1 | lCopy | owned | home
deriving DecidableEq, Repr, Inhabited

/-- The level of a store: the home in a retiling region; an L copy at cluster scope; the L1 below it unless the policy
writes through; the home or an owned copy, which counts as the home, at die scope and wider. -/
def storeLevel (a : Attrs) (p : Place) : StoreLevel :=
  if p.moving then .home
  else if a.scope = .cl then .lCopy
  else if a.scope.code < 2 && !a.cache.through then .l1
  else if a.cache.through then .home
  else .owned

/-- The holder whose copy performs an access of a level; none for the home. -/
def StoreLevel.holder (v : StoreLevel) (core : Nat) : Option Holder :=
  match v with
  | .l1 => some (.l1 core)
  | .lCopy | .owned => some (.cluster (clusterOf core))
  | .home => none

/-- Whether the level has its copy. -/
def State.levelHeld (s : State) (core : Nat) (v : StoreLevel) (p : Place) : Bool :=
  match v.holder core with
  | some h => (s.lineAt h p.line).any fun c => match v with
    | .lCopy => c.state = .l
    | .owned => c.stateAt p.index = .m
    | _ => true
  | none => false

/-- The line of a place made ready for an access at a level; one whose cache can take no copy is performed at the home (R158). -/
def State.levelLine (s : State) (core : Nat) (a : Attrs) (v : StoreLevel) (p : Place) : Except Stop State :=
  let c := clusterOf core
  if v = .l1 then
    match s.loadLine core a true p with
    | .error e => .error e
    | .ok t => .ok (if t.levelHeld core .l1 p then t else t.homeReady core p)
  else if 3 ≤ a.scope.code && s.lElsewhere c p.line then .error (.retry p.line true)
  else
    let s0 := (s.freshen (.l1 core) p).freshen (.cluster c) p
    -- the other element of an i4 byte leaves the L1 before the byte is written further out (R161)
    let s1 := if p.half.isNone then s0 else if v = .lCopy then s0.pushToL core p.line else s0.writeBack (.l1 core) p.line
    let early := a.cache = CachePolicy.cs
    let halves := fetchedHalves p.line (p.index / 64)
    let s2 := if 3 ≤ a.scope.code || p.moving then s1.endL c p.line else s1
    if s2.levelHeld core v p then .ok (if v = .lCopy then s2.obtainL c p.line p.tag early else s2)
    else
      match s2.atSlice core p.line (if v = .home then { a with cache := .nt } else a) with
      | some stop => .error stop
      | none =>
        let t := match v with
          | .lCopy => s2.obtainL c p.line p.tag early halves
          | .owned => s2.homeOwn (.cluster c) p.line p.tag early halves
          | _ => s2.homeReady core p
        .ok ((if v = .home || t.levelHeld core v p then t else t.homeReady core p).settleHome p.line a.cache)

/-- The line of a place made ready for a store. -/
def State.storeLine (s : State) (core : Nat) (a : Attrs) (p : Place) : Except Stop State := s.levelLine core a (storeLevel a p) p

/-- A byte written at a level, its line made ready: in the copy that performs it, through the L1, else at the home (R161). -/
def State.pokeLevel (s : State) (core : Nat) (v : StoreLevel) (p : Place) (b : Byte) : State :=
  if s.levelHeld core v p then
    match v with
    | .l1 => s.pokeLine (.l1 core) p b true
    | _ => (s.pokeLine (.cluster (clusterOf core)) p b true).pokeLine (.l1 core) p b false
  else s.pokeHome core p b

/-- What an atomic beyond the L1 has read at a place is what its stream sees there from then on: the L1's copy, if any, follows (R163). -/
def State.refreshL1 (s : State) (core : Nat) (v : StoreLevel) (p : Place) (b : Byte) : State :=
  if v = .l1 then s else s.pokeLine (.l1 core) p b false

/-- A byte of a store performed at its level (R161). -/
def State.storeByte (s : State) (core : Nat) (a : Attrs) (p : Place) (b : Byte) : State := s.pokeLevel core (storeLevel a p) p b

/-- The level of an atomic (R175): the home in a retiling region (R127), and in memory shared with the outside (R156). -/
def atomicLevel (a : Attrs) (p : Place) : StoreLevel :=
  if p.moving || p.outside then .home
  else if a.scope = .cl then .lCopy
  else if a.scope.code < 2 then .l1
  else .home

/-- The line of a place made ready for an atomic: the dirty bytes of the issuer's own L1 come to the level first, so that the atomic
meets its stream's latest store (R163); in memory shared with the outside it is of system scope (R156). -/
def State.atomicLine (s : State) (core : Nat) (a : Attrs) (p : Place) : Except Stop State :=
  let t := (s.freshen (.l1 core) p).freshen (.cluster (clusterOf core)) p
  let u := match atomicLevel a p with
    | .l1 => t
    | .lCopy => t.pushToL core p.line
    | _ => t.writeBack (.l1 core) p.line
  u.levelLine core (if p.outside then { a with scope := .sy } else a) (atomicLevel a p) p

/-- The byte that an atomic reads at its level. -/
def State.atomicSee (s : State) (core : Nat) (a : Attrs) (p : Place) : Byte :=
  let v := atomicLevel a p
  if s.levelHeld core v p then
    match (v.holder core).bind fun h => s.lineAt h p.line with
    | some c => c.byteOf p
    | none => s.memByte p.home
  else s.memByte p.home

/-- The byte that an atomic writes at its level, marked dirty in the copy that performs it (R180). -/
def State.atomicPoke (s : State) (core : Nat) (a : Attrs) (p : Place) (b : Byte) : State := s.pokeLevel core (atomicLevel a p) p b

/-- The lines of places, one place for each line. -/
def linePlaces : List Place → List Place
  | [] => []
  | p :: r => p :: (linePlaces r).filter fun q => q.line ≠ p.line

/-- The halves of lines that places need, one place for each (R156). -/
def halfPlaces : List Place → List Place
  | [] => []
  | p :: r => p :: (halfPlaces r).filter fun q => decide (q.line ≠ p.line) || decide (q.index / 64 ≠ p.index / 64)

/-- The halves that places need, fetched into every copy of the issuer's caches that lacks them (R156). -/
def State.freshenHalves (s : State) (core : Nat) (ps : List Place) : State :=
  (halfPlaces ps).foldl (fun t p =>
    let u := (t.freshen (.l1 core) p).freshen (.cluster (clusterOf core)) p
    (u.nearHolder core p.line).elim u fun h => u.freshen h p) s

/-- Every line of a core's L1 and its cluster, as the home sees a line after everything above it has come home: the
recall that work beside the memory makes (R218). -/
def State.recallLine (s : State) (line : Nat) : State := ((s.homeSync line).homeInvalidate line [])

end Sys2Proof.Machine
end

