-- ==== Sys2Proof/Machine/Homes.lean ====
section
/-! DEFINITION. Accesses that the device makes at a location's home (the dispatcher, the coordinator, the engines, the
host): R32, R160, R268; the frame pool (R346); the error ring (R258). -/

namespace Sys2Proof.Machine

/-- Every copy of a line is written back and its L copies end, so that the home's bytes are the newest (R149, R177). -/
def State.gather (s : State) (line : Nat) : State := (s.endLineL line).homeSync line

/-- As `gather`, and every tracked copy is invalidated: what a write at the home requires (R149). -/
def State.reclaim (s : State) (line : Nat) : State := (s.gather line).homeInvalidate line []

/-- A function applied to each line that places lie in. -/
def State.eachPlaceLine (s : State) (ps : List Place) (f : State → Nat → State) : State :=
  (distinct (ps.map fun p => lineOf p.home)).foldl f s

/-- The number that places hold at their homes. -/
def State.homeNat (s : State) (ps : List Place) : Nat := joinPlaces (fun p => s.homeByte p.home) ps

/-- A number written to places at their homes, their lines already reclaimed. -/
def State.putNat (s : State) (ps : List Place) (x : Nat) : State :=
  (splitPlaces ps x).foldl (fun t y => t.memSet y.1.home (setHalf (t.memByte y.1.home) y.2 y.1.half)) s

/-- A store performed at the home of every place (R32, R268). -/
def State.homePut (s : State) (ps : List Place) (x : Nat) : State := (s.eachPlaceLine ps State.reclaim).putNat ps x

/-- The places of n bytes of an object at its home; none when the object does not exist. -/
def State.objPlaces (s : State) (part object off n : Nat) : List Place :=
  match s.objDesc part object with
  | none => []
  | some d => if d.kind = 2 || off + n ≤ d.bytes then s.placesAt none part object d off n else []

/-- n bytes written to a byte object at their home. -/
def State.objWrite (s : State) (part object off n x : Nat) : State := s.homePut (s.objPlaces part object off n) x

/-- n bytes of a byte object brought home, so that `objRead` gives the newest. -/
def State.objSync (s : State) (part object off n : Nat) : State :=
  s.eachPlaceLine (s.objPlaces part object off n) State.gather

/-- n bytes of a byte object at their home. -/
def State.objRead (s : State) (part object off n : Nat) : Nat := s.homeNat (s.objPlaces part object off n)

/-! ### Poison (R257) -/

/-- The keys under which poison marks a byte of a core's SRAM and a word of an array's planes; a byte of device memory goes
by its address. -/
def sramKey (core a : Nat) : Nat := 2 ^ 61 + core * 2 ^ 20 + a
def planeKey (core array plane i : Nat) : Nat := 2 ^ 62 + ((core * 2 + array) * 4 + plane) * 2 ^ 16 + i

/-- Whether a byte or word is poisoned. -/
def State.poisonAt (s : State) (key : Nat) : Bool := s.poison.any fun x => x.1 ≤ key && key < x.1 + x.2

/-- Whether a place, or a byte among n of a core's SRAM, is poisoned. -/
def State.poisoned (s : State) (p : Place) : Bool := s.poisonAt p.home
def State.sramPoisoned (s : State) (core a n : Nat) : Bool := !s.poison.isEmpty && (List.range n).any fun i => s.poisonAt (sramKey core (a + i))

/-- The poison of a list of ranges outside n keys from a on. -/
def unpoisoned (xs : List (Nat × Nat)) (a n : Nat) : List (Nat × Nat) :=
  xs.flatMap fun x =>
    if x.1 + x.2 ≤ a || a + n ≤ x.1 then [x]
    else [(x.1, a - x.1), (a + n, x.1 + x.2 - (a + n))].filter fun y => y.2 ≠ 0

/-- The poison of n keys from a on cleared. -/
def State.unpoison (s : State) (a n : Nat) : State := if s.poison.isEmpty then s else { s with poison := unpoisoned s.poison a n }

/-- The poison cleared by a store that writes every byte of a line. -/
def State.clearKeys (s : State) (keys : List Nat) : State :=
  if s.poison.isEmpty then s
  else
    let bytes := distinct keys
    let lines := (distinct (bytes.map lineOf)).filter fun n => (bytes.filter fun b => lineOf b = n).length = 128
    lines.foldl (fun t n => t.unpoison (128 * n) 128) s

/-- The poison at the places of a logical line made what a mask says, byte by byte. -/
def State.markPlaces (s : State) (ps : List Place) (bad : BitVec 128) : State :=
  if s.poison.isEmpty && bad = 0 then s
  else ps.foldl (fun t p =>
    let u := t.unpoison p.home 1
    if bad.getLsbD (p.logical % 128) then { u with poison := u.poison ++ [(p.home, 1)] } else u) s

/-- The bytes of a logical line, given by its places, that are poisoned. -/
def State.badPlaces (s : State) (ps : List Place) : BitVec 128 :=
  if s.poison.isEmpty then 0
  else ps.foldl (fun (m : BitVec 128) p => if s.poisoned p then m ||| (1 <<< (p.logical % 128)) else m) 0

/-- n bytes within a line written at their home, every copy of the line reclaimed. -/
def State.homeWrite (s : State) (a n x : Nat) : State := (s.reclaim (lineOf a)).memWrite a n x

/-! ### Partition control blocks -/

/-- A partition's control block (R269). -/
def State.pcb (s : State) (part : Nat) : Pcb := s.pcbs.toList.getD part Pcb.reset

/-- A partition's control block changed. -/
def State.onPcb (s : State) (part : Nat) (f : Pcb → Pcb) : State :=
  { s with pcbs := if h : part < 16 then s.pcbs.set part (f s.pcbs[part]) else s.pcbs }

/-- Engine threads that each core may hold for a partition, bundle directory entries, port KiB, queue KiB and
scratchpad units (LIM0), and the retention frames (LIM1) of R269; the limits of bundles and retention in force, where a lowered one is
applied at the next dispatch. -/
def Pcb.engines (p : Pcb) : Nat := bits p.lim0.toNat 33 6
def Pcb.bundles (p : Pcb) : Nat := bits p.lim0.toNat 20 13
def Pcb.portKib (p : Pcb) : Nat := bits p.lim0.toNat 12 8
def Pcb.queueKib (p : Pcb) : Nat := bits p.lim0.toNat 4 8
def Pcb.spadUnits (p : Pcb) : Nat := bits p.lim0.toNat 0 4
def Pcb.retention (p : Pcb) : Nat := bits p.lim1.toNat 0 32
def Pcb.raised (p : Pcb) : Pcb :=
  { p with bundlesNow := Nat.max p.bundlesNow p.bundles, retentionNow := Nat.max p.retentionNow p.retention }
def Pcb.applied (p : Pcb) : Pcb := { p with bundlesNow := p.bundles, retentionNow := p.retention }

/-! ### The frame pool (R346) -/

/-- The word of a pool entry. -/
def State.poolWord (s : State) (part i : Nat) : Nat := s.objRead part (s.pcb part).poolObject (8 * i) 8

/-- The lowest entry from i on that a test accepts. -/
def State.poolSearch (s : State) (part : Nat) (p : DWord → Bool) : (fuel i : Nat) → Option Nat
  | 0, _ => none
  | fuel + 1, i => if p (BitVec.ofNat 64 (s.poolWord part i)) then some i else s.poolSearch part p fuel (i + 1)

/-- The entries of a partition's pool. -/
def State.poolSize (s : State) (part : Nat) : Nat :=
  match s.objDesc part (s.pcb part).poolObject with
  | some d => d.bytes / 8
  | none => 0

/-- A partition's pool brought home: frames are taken and returned by atomics of system scope there. -/
def State.poolSync (s : State) (part : Nat) : State := s.objSync part (s.pcb part).poolObject 0 (8 * s.poolSize part)

/-- The lowest-indexed free frame that a test accepts, taken from the pool. -/
def State.poolTakeIf (s0 : State) (part : Nat) (p : DWord → Bool) : Option (State × Nat) :=
  let s := s0.poolSync part
  match s.poolSearch part (fun w => extPresent w && p w) (s.poolSize part) 0 with
  | none => none
  | some i =>
    let w := s.poolWord part i
    some (s.objWrite part (s.pcb part).poolObject (8 * i) 8 (w - w % 2), extFrame (BitVec.ofNat 64 w))

/-- A frame of a tier taken from the pool. -/
def State.poolTake (s : State) (part : Nat) (far : Bool) : Option (State × Nat) :=
  s.poolTakeIf part fun w => extFar w == far

/-- A frame returned to the lowest entry that holds none. -/
def State.poolReturn (s0 : State) (part frame : Nat) (far : Bool) : State :=
  let s := s0.poolSync part
  match s.poolSearch part (fun w => !extPresent w) (s.poolSize part) 0 with
  | none => s
  | some i => s.objWrite part (s.pcb part).poolObject (8 * i) 8 (mkExt frame far true)

/-! ### Error records (R258) -/

/-- The slots of an error ring: the lesser of its size over 32 and 65,536. -/
def State.ringSlots (s : State) (part : Nat) : Nat :=
  match s.objDesc part (s.pcb part).ringObject with
  | some d => Nat.min (d.bytes / 32) 65536
  | none => 0

/-- The 32 bytes of a record. -/
def ErrorInfo.word (e : ErrorInfo) (time : Nat) : Nat :=
  e.code % 256 + 2 ^ 8 * (e.die % 256) + 2 ^ 16 * (e.unit % 65536) + 2 ^ 32 * (e.ctx % 2 ^ 32)
    + 2 ^ 64 * (e.object % 2 ^ 32 + 2 ^ 32 * (e.generation % 2 ^ 32)) + 2 ^ 128 * (e.offset % 2 ^ 48)
    + 2 ^ 192 * (time % 2 ^ 64)

/-- An error record sent to a partition's ring; a full ring, or none, counts an overflow. -/
def State.sendError (s : State) (part : Nat) (e : ErrorInfo) : State :=
  let p := s.pcb part
  let cap := s.ringSlots part
  if cap = 0 || (p.ringTail + 1) % cap = p.ringHead then
    s.onPcb part fun p => { p with overflow := (p.overflow + 1) % 2 ^ 32 }
  else
    (s.objWrite part p.ringObject (32 * p.ringTail) 32 (e.word s.time)).onPcb part fun p =>
      { p with ringTail := (p.ringTail + 1) % cap }

end Sys2Proof.Machine
end

