-- ==== Sys2Proof/Machine/Monitor.lean ====
section
/-! DEFINITION. What the monitors of the L2 slices observe (R121), and the layout generation that a record of a tensor access names
(R248). -/

namespace Sys2Proof.Machine

/-- The generation that a record of a tensor access holds (R248, R258): that of the region of its start offset. -/
def State.recordGeneration (s : State) (part object : Nat) (d? : Option ObjDesc) (o : Int) : BitVec 32 :=
  match d? with
  | none => 0
  | some d =>
    if d.kind = 2 && 0 ≤ o && o < d.count then
      (s.regionOf ⟨part, object, o.toNat / d.regionElems⟩ d).generation.setWidth 32
    else 0

/-- The controlling slice of a region: the home die of its first frame and the entry of that die's slice map (R121). -/
def State.controlling (s : State) (id : RegionId) (d : ObjDesc) : Nat × Nat :=
  let x := s.extWord d (4 * id.region)
  let die := homeDie (frameAddr (extFar x) (extFrame x) 0)
  let h := id.object
  let c := bits h 0 8 ^^^ bits h 8 8 ^^^ bits h 16 8 ^^^ bits h 24 8 ^^^ bits id.region 0 8
  (die, (s.sliceMap die).entries.getD c 0)

/-- The stride of a run: the difference of its first two elements, 0 for one element (R121). -/
def runStride : List Nat → Int
  | a :: b :: _ => (b : Int) - a
  | _ => 0

/-- A run added to the families of a window, of which there are at most four (R121). -/
def addRun (fs : List Family) (bytes : Nat) (run : List Nat) : List Family :=
  if fs.any fun f => f.stride = runStride run then
    fs.map fun f => if f.stride = runStride run then { f with runs := f.runs + 1, bytes := f.bytes + bytes } else f
  else if fs.length < 4 then fs ++ [⟨runStride run, 1, bytes, run⟩]
  else fs

/-- A run that reaches a region's controlling slice: the region is tracked when the slice has a free slot, or one whose
region has seen no run for 16 windows (R121): the window of its last run lies 16 or more behind the present one (DEDUCED, log 40).
The run's elements are relative to the region. -/
def State.observe (s : State) (id : RegionId) (d : ObjDesc) (run : List Nat) : State :=
  if run.isEmpty || !s.movable d id.region then s
  else
    let sl := s.controlling id d
    let bytes := run.length * d.nibs / 2
    let fresh : Track := ⟨id, sl, s.window, bytes, addRun [] bytes run⟩
    if s.tracks.any fun t => t.region = id && t.slice = sl then
      { s with tracks := s.tracks.map fun t =>
          if t.region = id && t.slice = sl then
            { t with lastRun := s.window, total := t.total + bytes, families := addRun t.families bytes run }
          else t }
    else
      let others := s.tracks.filter fun t => t.region ≠ id
      let mine := others.filter fun t => t.slice = sl
      if mine.length < 64 then { s with tracks := others ++ [fresh] }
      else
        match mine.find? fun t => t.lastRun + 16 ≤ s.window with
        | none => s
        | some old => { s with tracks := (others.filter fun t => t.region ≠ old.region) ++ [fresh] }

/-- A run of elements of an object, cut into its regions (R121). -/
def State.observeRun (s : State) (part object : Nat) (d : ObjDesc) (run : List Nat) : State :=
  if d.kind ≠ 2 then s
  else
    (distinct (run.map (· / d.regionElems))).foldl (fun t k =>
      t.observe ⟨part, object, k⟩ d ((run.filter fun e => e / d.regionElems = k).map (· % d.regionElems))) s

end Sys2Proof.Machine
end

