-- ==== Sys2Proof/Machine/Bundle.lean ====
section
/-! DEFINITION. Store bundles at the coordinator and at the member homes (R182 to R195, R243): the manifest's header,
side-tags and versions, flips, bundled stores, and views. A version holds a line's logical bytes. -/

namespace Sys2Proof.Machine

/-! ### The directory -/

/-- The bundle directory entry of a manifest (R183). -/
def State.bundle? (s : State) (part handle : Nat) : Option Bundle :=
  s.bundles.find? fun b => b.part = part && b.handle = handle

/-- The code of a bundle's state (R182). -/
def BundleState.code : BundleState → Nat
  | .committed => 0
  | .opened => 1
  | .committing => 2
  | .aborted => 3

/-- The member lines of a bundle that the module homes. -/
def State.membersOf (s : State) (b : Bundle) : List MemberLine :=
  s.members.filter fun m => m.part = b.part && m.handle = b.handle

/-! ### Member lines and their versions -/

/-- The member line that a logical line of an object is, if it carries a side-tag (R184). -/
def State.member? (s : State) (part object line : Nat) : Option MemberLine :=
  s.members.find? fun m => m.part = part && m.object = object && m.line = line

/-- A member line written back. -/
def State.putMember (s : State) (m : MemberLine) : State :=
  if (s.member? m.part m.object m.line).isSome then
    { s with members := s.members.map fun x =>
        if x.part = m.part && x.object = m.object && x.line = m.line then m else x }
  else { s with members := s.members ++ [m] }

/-- The places of a logical line of an object, cut at the object's end (R183). -/
def State.logicalPlaces (s : State) (part object line : Nat) : List Place :=
  match s.objDesc part object with
  | none => []
  | some d =>
    let e0 := 256 * line / d.nibs
    let n := Nat.min (256 / d.nibs) ((if d.kind = 2 then d.count else d.size) - e0)
    s.placesAt none part object d e0 (n * d.nibs / 2)

/-- The bytes of the current version, which is kept in place (R185). -/
def State.currentBytes (s : State) (m : MemberLine) : List Byte :=
  leBytes 128 (s.homeNat (s.logicalPlaces m.part m.object m.line))

/-- The generation of a member line's version for a view at g: the largest at or below g (R191). -/
def MemberLine.versionAt (m : MemberLine) (g : Nat) : Option Nat :=
  let gens := m.current :: (m.retained.toList.map (·.generation) ++ m.spilled.map (·.1.generation))
  (gens.filter (· ≤ g)).foldl (fun x y => some (match x with | none => y | some z => Nat.max z y)) none

/-- A version of a member line, by its generation, with its poison: the current one is in place, its newest bytes at their home. -/
def State.versionOf (s : State) (m : MemberLine) (g : Nat) : Version :=
  if m.current = g then ⟨g, s.currentBytes m, s.badPlaces (s.logicalPlaces m.part m.object m.line)⟩
  else ((m.retained.toList ++ m.spilled.map (·.1)).find? fun v => v.generation = g).getD ⟨g, [], 0⟩

/-- Whether a version lives in a spill frame behind a port that is down (R185, R158). -/
def State.versionDown (s : State) (m : MemberLine) (g : Nat) : Bool :=
  m.spilled.any fun x => x.1.generation = g && m.current ≠ g && x.2 % 2 = 1 && s.portDown (x.2 / 2 % 4)

/-- Whether the retained version is the pinned generation's. -/
def MemberLine.retainedPinned (m : MemberLine) (pin : Option Nat) : Bool :=
  match pin, m.retained with
  | some g, some v => m.versionAt g = some v.generation
  | _, _ => false

/-- Whether some version of a bundle's pinned generation lives in spill frames: header bit 35 (R182). -/
def State.pinSpilled (s : State) (b : Bundle) : Bool :=
  (s.membersOf b).any fun m => m.spilled.any fun x => (b.pin.bind m.versionAt) = some x.1.generation

/-- The header of a manifest (R182), its first 64 bytes. -/
def State.headerOf (s : State) (b : Bundle) : Nat :=
  let w0 := b.index % 2 ^ 12 + 2 ^ 12 * (b.coordinator % 2 ^ 16) + 2 ^ 32 * b.state.code
    + 2 ^ 34 * ofBool b.pin.isSome + 2 ^ 35 * ofBool (s.pinSpilled b)
  let w1 := b.committed % 2 ^ 32 + 2 ^ 32 * (b.opened % 2 ^ 32)
  let w2 := b.participants % 2 ^ 16 + 2 ^ 16 * (b.joined % 2 ^ 16) + 2 ^ 32 * (b.closed % 2 ^ 16) + 2 ^ 48 * (b.chips % 2 ^ 16)
  let w3 := (b.pin.getD 0) % 2 ^ 32
  w0 + 2 ^ 64 * w1 + 2 ^ 128 * w2 + 2 ^ 192 * w3 + 2 ^ 256 * (b.members.length % 2 ^ 17)

/-- A directory entry written back, with the manifest's header beside it (R182). -/
def State.putBundle (s : State) (b : Bundle) : State :=
  let t := if (s.bundle? b.part b.handle).isSome then
      { s with bundles := s.bundles.map fun x => if x.part = b.part && x.handle = b.handle then b else x }
    else { s with bundles := s.bundles ++ [b] }
  t.objWrite b.part b.handle 0 64 (t.headerOf b)

/-- The header of a bundle's manifest written anew, after its spilled versions have changed. -/
def State.reheader (s : State) (part handle : Nat) : State :=
  match s.bundle? part handle with
  | some b => s.putBundle b
  | none => s

/-- A flip at a line's home: tracked copies are invalidated, the open version becomes current, and the old current the
new retained (R189, R243). -/
def State.flip (s : State) (m : MemberLine) : State :=
  match m.openV with
  | none => s
  | some v =>
    let ps := s.logicalPlaces m.part m.object m.line
    let t := s.eachPlaceLine ps State.reclaim
    ((t.putNat ps (leNat v.data)).markPlaces ps v.bad).putMember
      { m with current := v.generation, retained := some (t.versionOf m m.current), openV := none }

/-- A line whose open generation has committed or aborted is settled: the flip applied, or the open version discarded
(R187, R189). -/
def State.settle (s : State) (m : MemberLine) : State :=
  match m.openV, s.bundle? m.part m.handle with
  | some v, some b =>
    if v.generation ∈ b.aborted then s.putMember { m with openV := none }
    else if v.generation ≤ b.committed then s.flip m
    else s
  | _, _ => s

/-- Every line of the module settled whose flip is due: what an acquire of package scope or wider waits for (R243). -/
def State.settleAll (s : State) : State := s.members.foldl (fun t m => t.settle m) s

/-- The bundle part of an acquire: from package scope on, every due flip is applied (R243). -/
def State.acquireFlips (s : State) (sc : Scope) : State := if 4 ≤ sc.code then s.settleAll else s

/-! ### Retention and spill space (R185) -/

/-- The 128-byte versions that a partition holds in retention space. -/
def State.retentionUsed (s : State) (part : Nat) : Nat :=
  ((s.members.filter fun m => m.part = part).map fun m => ofBool m.retained.isSome + ofBool m.openV.isSome).sum

/-- The member whose retained version is discarded first: unpinned, of the oldest generation. -/
def State.oldestRetained (s : State) (part : Nat) : Option MemberLine :=
  let cands := s.members.filter fun m => m.part = part && m.retained.isSome &&
    !(m.retainedPinned ((s.bundle? m.part m.handle).bind (·.pin)))
  cands.foldl (fun x m => match x with
    | none => some m
    | some y => if (m.retained.map (·.generation)).getD 0 < (y.retained.map (·.generation)).getD 0 then some m else x) none

/-- Room for one more version in retention space, made by discarding retained versions (R185); none when there is none. -/
def State.makeRoom (s : State) (part : Nat) : Nat → Option State
  | 0 => none
  | fuel + 1 =>
    if s.retentionUsed part < 512 * (s.pcb part).retentionNow then some s
    else
      match s.oldestRetained part with
      | none => none
      | some m => (s.putMember { m with retained := none }).makeRoom part fuel

/-- The spill frames of a partition, coded as twice the frame number plus the tier, with the versions each holds. -/
def State.spillLoad (s : State) (part code : Nat) : Nat :=
  ((s.members.filter fun m => m.part = part).map fun m => (m.spilled.filter fun x => x.2 = code).length).sum

/-- A spill frame with room for a version, among those that a test of the code accepts: one in use, or one from the pool, far
memory first (R185; log 14). -/
def State.spillFrame (s : State) (part : Nat) (ok : Nat → Bool) : Option (State × Nat) :=
  let codes := (s.members.filter fun m => m.part = part).flatMap fun m => m.spilled.map (·.2)
  match codes.find? fun c => ok c && s.spillLoad part c < 512 with
  | some c => some (s, c)
  | none =>
    match s.poolTakeIf part fun w => extFar w && ok (2 * extFrame w + 1) with
    | some (t, f) => some (t, 2 * f + 1)
    | none => (s.poolTakeIf part fun w => !extFar w && ok (2 * extFrame w)).map fun x => (x.1, 2 * x.2)

/-- A member line's retained version moved to a spill frame (R185); none when no frame can be obtained. -/
def State.spill (s : State) (m : MemberLine) : Option State :=
  match m.retained with
  | none => some s
  | some v => (s.spillFrame m.part fun _ => true).map fun x =>
      (x.1.putMember { m with retained := none, spilled := m.spilled ++ [(v, x.2)] }).reheader m.part m.handle

/-- Spill frames that hold no version go back to the pool (R194). -/
def State.freeSpill (s : State) (part : Nat) (codes : List Nat) : State :=
  (distinct codes).foldl (fun t c => if t.spillLoad part c = 0 then t.poolReturn part (c / 2) (c % 2 = 1) else t) s

/-- Spilled versions of a bundle that no pin and no view rests on are freed (R194). -/
def State.dropSpilled (s : State) (b : Bundle) : State :=
  let rests := fun (m : MemberLine) (g : Nat) =>
    (b.pin.bind m.versionAt) = some g ||
    (s.weaves.any fun w => w.ctxid.toNat / 256 % 16 = b.part && w.views.toList.any fun v =>
      v.valid && v.handle.toNat = b.handle && m.versionAt v.generation.toNat = some g) ||
    (s.crews.any fun c => c.part = b.part && c.home.any fun x => x.views.toList.any fun v =>
      v.valid && v.handle.toNat = b.handle && m.versionAt v.generation.toNat = some g) ||
    -- a checkpoint holds its generation as a view does (R221)
    (s.threads.any fun t => t.part = b.part && (match t.op with
      | .ckpt manifest f .. => decide (manifest = b.handle) && decide (m.versionAt f = some g)
      | _ => false))
  let keep := fun (m : MemberLine) => m.spilled.filter fun x => rests m x.1.generation
  let codes := (s.membersOf b).flatMap fun m => (m.spilled.filter fun x => !rests m x.1.generation).map (·.2)
  let t := { s with members := s.members.map fun (m : MemberLine) =>
    if m.part = b.part && m.handle = b.handle then { m with spilled := keep m } else m }
  (t.freeSpill b.part codes).reheader b.part b.handle

/-! ### Abort and release -/

/-- A bundle aborted (R190): open versions are discarded, and every participant's BREG is cleared. -/
def State.abortBundle (s : State) (b : Bundle) : State :=
  if b.state = .opened || b.state = .committing then
    let b' := { b with state := .aborted, aborted := b.opened :: b.aborted, reported := false }
    let t := { s with
      members := s.members.map fun (m : MemberLine) =>
        if m.part = b.part && m.handle = b.handle && m.openV.map (fun (v : Version) => v.generation) = some b.opened then
          { m with openV := none } else m
      weaves := s.weaves.map fun (w : Weave) =>
        if w.part = some (BitVec.ofNat 32 b.handle, BitVec.ofNat 32 b.opened) && w.ctxid.toNat / 256 % 16 = b.part then
          { w with breg := 0 } else w }
    t.putBundle b'
  else s

/-- The directory entry released with every tag and version of the bundle (R183, R184). -/
def State.releaseBundle (s : State) (b : Bundle) : State :=
  let codes := (s.membersOf b).flatMap fun m => m.spilled.map (·.2)
  let t := { s with
    bundles := s.bundles.filter fun x => !(x.part = b.part && x.handle = b.handle)
    members := s.members.filter fun m => !(m.part = b.part && m.handle = b.handle) }
  t.freeSpill b.part codes

/-! ### Unbundled stores and atomics (R187) -/

/-- A line settled before an unbundled store or atomic acts on it (R187). -/
def State.settleLine (s : State) (part object line : Nat) : State :=
  match s.member? part object line with
  | some m => s.settle m
  | none => s

/-- Whether an unbundled store or atomic to a line faults: an open version remains, or the current version is the pinned
generation's (R187). -/
def State.barred (s : State) (part object line : Nat) : Bool :=
  match s.member? part object line with
  | none => false
  | some m =>
    m.openV.isSome ||
      (match (s.bundle? part m.handle).bind (·.pin) with
       | some g => m.versionAt g = some m.current
       | none => false)

/-! ### Bundled stores (R186) -/

/-- Whether an agent may store into a bundle: it is a joined participant of the open generation (R186). -/
def State.mayStore (s : State) (part : Nat) (breg : BitVec 32) (rec : Option (BitVec 32 × BitVec 32)) : Bool :=
  breg ≠ 0 &&
    (match s.bundle? part breg.toNat with
     | some b => b.state = .opened && rec = some (breg, BitVec.ofNat 32 b.opened)
     | none => false)

/-- Whether a line carries the side-tag of another bundle (R184). -/
def State.foreignTag (s : State) (part handle object line : Nat) : Bool :=
  match s.member? part object line with
  | some m => m.handle ≠ handle
  | none => false

/-- How many more members a bundle can have: 65,536 in all, and as many as its manifest has entries for (R186). -/
def State.memberRoom (s : State) (b : Bundle) : Nat :=
  Nat.min 65536 ((((s.objDesc b.part b.handle).map (·.bytes)).getD 0 - 0x40) / 16) - b.members.length

/-- The bytes of a line that the L1s hold dirty, and those that an earlier layout of its region has put elsewhere, brought home after the
copies above them: no unbundled store is merged once the open version stands (R187). -/
def State.gatherL1 (s : State) (ps : List Place) : State :=
  let t := (distinct (ps.filterMap fun p => p.rel.map (·.1))).foldl State.settleFormer s
  let lines := distinct (ps.map Place.line)
  (t.caches.filter fun c => c.state = .plain && lines.contains c.line).foldl (fun u c => u.writeBack c.holder c.line) t

/-- A line's open version, created when the generation first touches it: due flips applied, copies recalled, the
pinned retained version spilled, the member entry appended (R185, R243, R298); none when no space can be obtained. -/
def State.openLine (s : State) (b : Bundle) (object line : Nat) : Option State :=
  let fresh : MemberLine := ⟨b.part, object, line, b.handle, 0, none, none, []⟩
  let s0 := s.settle ((s.member? b.part object line).getD fresh)
  let m := (s0.member? b.part object line).getD fresh
  if m.openV.isSome then some s0
  else
    let ps := s0.logicalPlaces b.part object line
    let s1 := (s0.eachPlaceLine ps State.reclaim).gatherL1 ps
    match (if m.retainedPinned b.pin then s1.spill m else some s1) with
    | none => none
    | some s2 =>
      match s2.makeRoom b.part (s2.members.length + 1) with
      | none => none
      | some s3 =>
        let m3 := (s3.member? b.part object line).getD fresh
        let s4 := s3.putMember { m3 with openV := some { s3.versionOf m3 m3.current with generation := b.opened } }
        let b4 := (s4.bundle? b.part b.handle).getD b
        if (object, line) ∈ b4.members then some s4
        else
          let entry := s4.chipId.toNat + 2 ^ 16 * (object % 2 ^ 32) + 2 ^ 48 * (line % 2 ^ 41)
          let s5 := s4.objWrite b.part b.handle (0x40 + 16 * b4.members.length) 16 entry
          some (s5.putBundle { b4 with members := b4.members ++ [(object, line)] })

/-- Logical bytes written into the open version of their line (R186). -/
def State.openWrite (s : State) (part object at' : Nat) (bs : List Byte) : State :=
  match s.member? part object (at' / 128) with
  | none => s
  | some m =>
    match m.openV with
    | none => s
    | some v =>
      let data := (bs.zipIdx).foldl (fun l x => updateAt (fun _ => x.1) (at' % 128 + x.2) l) v.data
      s.putMember { m with openV := some { v with data } }

/-- The poison of an open version gone, when one store has written the whole line (R257). -/
def State.openClean (s : State) (part object line : Nat) : State :=
  match s.member? part object line with
  | some m => s.putMember { m with openV := m.openV.map fun v => { v with bad := 0 } }
  | none => s

/-! ### Views (R191) -/

/-- How a view load of a tagged line is resolved: whether its entry is fresh, the entry, and its generation; none when the
entry has expired or no entry is free. -/
def viewEntry (views : List ViewEntry) (handle committed : Nat) : Option (Bool × Nat × Nat) :=
  match views.findIdx? fun v => v.valid && v.handle.toNat = handle with
  | some k =>
    match views[k]? with
    | some v => if v.dead then none else some (false, k, v.generation.toNat)
    | none => none
  | none => (views.findIdx? fun v => !v.valid).map fun k => (true, k, committed)

/-- The generation that a bundle's valid entry holds; 0 without one. -/
def heldView (views : List ViewEntry) (handle : Nat) : Nat :=
  ((views.find? fun v => v.valid && v.handle.toNat = handle).map (·.generation.toNat)).getD 0

/-- A line of a bundle settled for a view at generation f (R189). -/
def State.settleFor (s : State) (m : MemberLine) (f : Nat) : State :=
  match m.openV with
  | some v => if v.generation ≤ f then s.settle m else s
  | none => s

end Sys2Proof.Machine
end

