-- ==== Sys2Proof/Machine/Operands.lean ====
section
/-! DEFINITION. The weave that acts and its registers as the instructions name them: scalar registers with their hard-wired
and banked numbers (R48, R251), the fragment's mask (R42), lane registers, predicates and index registers under the mask
(R50), operand patterns (R58), coordinates (R8, R337), and the four queues (R53 to R55). -/

namespace Sys2Proof

/-- The stream of a strand. -/
def Strand.stream : Strand → Stream
  | .a => .a
  | .c _ => .c

/-- The split-table entry of a strand; 0 for the A-stream. -/
def Strand.entry : Strand → Nat
  | .a => 0
  | .c e => e

end Sys2Proof

namespace Sys2Proof.Machine

/-! ### The weave -/

/-- A resident weave. -/
def State.weave? (s : State) (id : WeaveId) : Option Weave := s.weaves.find? fun w => w.id = id

/-- A resident weave changed. -/
def State.onWeave (s : State) (id : WeaveId) (f : Weave → Weave) : State :=
  { s with weaves := s.weaves.map fun w => if w.id = id then f w else w }

/-- The acting weave changed. -/
def State.onMe (s : State) (f : Weave → Weave) : State := s.onWeave s.cur.weave f

/-- A free split-table entry (R40). -/
def SplitEntry.empty : SplitEntry := ⟨.free, 0, 0, 0, none, none, false⟩

/-- Whether an entry is a fragment. -/
def SplitEntry.isFragment (x : SplitEntry) : Bool := x.kind = .ready || x.kind = .parked || x.kind = .waiting

/-- Entry e of a weave's split table. -/
def Weave.entry (w : Weave) (e : Nat) : SplitEntry := (w.split[e]?).getD SplitEntry.empty

/-- Entry e of a weave's split table written. -/
def Weave.setEntry (w : Weave) (e : Nat) (x : SplitEntry) : Weave := { w with split := w.split.setIfInBounds e x }

/-- The mode of a strand (R102). -/
def Weave.mode (w : Weave) : Strand → Mode
  | .a => w.aMode
  | .c _ => w.cMode

/-- The mode of a strand set. -/
def Weave.setMode (w : Weave) (st : Strand) (m : Mode) : Weave :=
  match st with
  | .a => { w with aMode := m }
  | .c _ => { w with cMode := m }

/-- The PC of a strand (R89, R40). -/
def Weave.pc (w : Weave) : Strand → BitVec 32
  | .a => w.aPc
  | .c e => (w.entry e).addr

/-- The PC of a strand set. -/
def Weave.setPc (w : Weave) (st : Strand) (pc : BitVec 32) : Weave :=
  match st with
  | .a => { w with aPc := pc }
  | .c e => w.setEntry e { w.entry e with addr := pc }

/-- ACT: the active lanes of a strand; the A-stream has none, and its faulters' masks are zero (R105). -/
def Weave.act (w : Weave) : Strand → LaneMask
  | .a => 0
  | .c e => (w.entry e).mask

/-- The MDEF of a strand (R61). -/
def Weave.mdef (w : Weave) : Strand → DWord
  | .a => w.mdefA
  | .c _ => w.mdefC

/-- The partition and the function of a weave, from its CTXID (R62). -/
def Weave.partition (w : Weave) : Nat := bits w.ctxid.toNat 8 4
def Weave.function (w : Weave) : Nat := bits w.ctxid.toNat 0 8

/-! ### Scalar registers -/

/-- EM0 to EM2 as a strand's fragment reads them (R42, R48). -/
def Weave.em (w : Weave) (e k : Nat) : DWord := ((w.entry e).mask.extractLsb' (32 * k) 32).setWidth 64

/-- 32 lanes of a mask replaced. -/
def setWord (m : LaneMask) (k : Nat) (x : Word) : LaneMask :=
  maskOf fun l => if l / 32 = k then x.getLsbD (l % 32) else m.getLsbD l

/-- A scalar register as the strand's stream reads it: a0 and s0 read zero (R48), EM0 to EM2 are the fragment's mask
(R42), and a56 to a63 and s20 to s27 name the supervisor bank in supervisor mode (R251). -/
def Weave.scal (w : Weave) (st : Strand) (n : Nat) : DWord :=
  match st with
  | .a =>
    if n = 0 then 0
    else if 56 ≤ n && w.aMode = .supervisor then (w.aBank[n - 56]?).getD 0
    else (w.aRegs[n]?).getD 0
  | .c e =>
    if n = 0 then 0
    else if 29 ≤ n then w.em e (n - 29)
    else if 20 ≤ n && n < 28 && w.cMode = .supervisor then (w.sBank[n - 20]?).getD 0
    else (w.sRegs[n]?).getD 0

/-- A scalar register written as the strand's stream writes it. A write to EM0 to EM2 sets that part of the fragment's
mask to the value AND its owned lanes (R42). -/
def Weave.setScal (w : Weave) (st : Strand) (n : Nat) (x : DWord) : Weave :=
  match st with
  | .a =>
    if n = 0 then w
    else if 56 ≤ n && w.aMode = .supervisor then { w with aBank := w.aBank.setIfInBounds (n - 56) x }
    else { w with aRegs := w.aRegs.setIfInBounds n x }
  | .c e =>
    if n = 0 then w
    else if 29 ≤ n then
      let y := w.entry e
      w.setEntry e { y with mask := setWord y.mask (n - 29) (x.setWidth 32 &&& y.owned.extractLsb' (32 * (n - 29)) 32) }
    else if 20 ≤ n && n < 28 && w.cMode = .supervisor then { w with sBank := w.sBank.setIfInBounds (n - 20) x }
    else { w with sRegs := w.sRegs.setIfInBounds n x }

/-- The register that a number names for the strand's stream now, the supervisor bank as 64 to 71 (R251): what a result
in flight keeps, since the mode may change before it returns. -/
def Weave.physical (w : Weave) (st : Strand) (n : Nat) : Nat :=
  match st with
  | .a => if 56 ≤ n && w.aMode = .supervisor then n + 8 else n
  | .c _ => if 20 ≤ n && n < 28 && w.cMode = .supervisor then n + 44 else n

/-- A register written by what `physical` gave. -/
def Weave.setPhysical (w : Weave) (st : Strand) (n : Nat) (x : DWord) : Weave :=
  match st with
  | .a =>
    if n = 0 then w
    else if 64 ≤ n then { w with aBank := w.aBank.setIfInBounds (n - 64) x }
    else { w with aRegs := w.aRegs.setIfInBounds n x }
  | .c _ =>
    if 64 ≤ n then { w with sBank := w.sBank.setIfInBounds (n - 64) x }
    else if 29 ≤ n then w.setScal st n x
    else if n = 0 then w
    else { w with sRegs := w.sRegs.setIfInBounds n x }

/-! ### Lane registers, predicates, index registers -/

/-- A lane register of zeros. -/
def LaneReg.zero : LaneReg := .replicate 96 0

/-- Lane register n. -/
def Weave.lane (w : Weave) (n : Nat) : LaneReg := w.vRegs.getD n LaneReg.zero

/-- A lane register with the lanes of a mask replaced (R50). -/
def blend (m : LaneMask) (f : Nat → Word) (old : LaneReg) : LaneReg :=
  mkLanes fun l => if m.getLsbD l then f l else laneAt old l

/-- Lane register n written in the lanes of a mask. -/
def Weave.setLanes (w : Weave) (n : Nat) (m : LaneMask) (f : Nat → Word) : Weave :=
  { w with vRegs := updateAt (blend m f) n w.vRegs }

/-- Predicate k; p7 reads all ones (R48). -/
def Weave.pred (w : Weave) (k : Nat) : LaneMask :=
  if k = 7 then BitVec.allOnes 96 else (w.pRegs[k]?).getD 0

/-- Predicate k written in the lanes of a mask; a write to p7 is discarded (R48, R50). -/
def Weave.setPred (w : Weave) (k : Nat) (m : LaneMask) (p : LaneMask) : Weave :=
  if k = 7 then w else { w with pRegs := w.pRegs.setIfInBounds k ((p &&& m) ||| (w.pred k &&& ~~~m)) }

/-- Index register k (R51). -/
def Weave.xreg (w : Weave) (k : Nat) : XReg := (w.xRegs[k]?).getD ⟨0, 0⟩

/-- The lane registers that the weave holds. -/
def Weave.nregs (w : Weave) : Nat := w.vRegs.length

/-! ### Patterns (R58) -/

/-- src(l) of R58; s1 is the scalar register that pattern 14 reads. -/
def patternSrc (p : Nat) (s1 : DWord) (l : Nat) : Nat :=
  let g := 8 * (l / 8)
  let t := l % 8
  match p with
  | 0 => l
  | 1 => l ^^^ 1
  | 2 => l ^^^ 2
  | 3 => l ^^^ 4
  | 4 => l ^^^ 8
  | 5 => l ^^^ 16
  | 6 => if 96 ≤ l ^^^ 32 then l else l ^^^ 32
  | 7 => g + (t + 7) % 8
  | 8 => g + (t + 1) % 8
  | 9 => 95 - l
  | 10 => 32 * (l / 32) + 31 - l % 32
  | 11 => g
  | 12 => 0
  | 13 => 95
  | _ => if (s1.toNat % 128) < 96 then s1.toNat % 128 else 0

/-- The b operand of a V-format word as lane l receives it. -/
def Weave.pat (w : Weave) (st : Strand) (p : BitVec 4) (b : Nat) (l : Nat) : Word :=
  laneAt (w.lane b) (patternSrc p.toNat (w.scal st 1) l)

/-! ### Places that instructions name -/

/-- What an instruction names as the place of an access: a byte or element offset, or four coordinates (R8, R95). -/
inductive Offset where
  | at' (o : DWord)
  | coords (c0 c1 c2 c3 : Nat)
deriving DecidableEq, Repr, Inhabited

/-- The place that an M-format word names (R337). -/
def Weave.offset (w : Weave) (st : Strand) (f : BitVec 1) (c : Nat) : Offset :=
  if f = 0 then .at' (w.scal st c)
  else
    let x := (w.scal st c).toNat
    let y := (w.scal st (c + 1)).toNat
    .coords (x / 2 ^ 32) (y / 2 ^ 32) (x % 2 ^ 32) (y % 2 ^ 32)

/-- The place field of a fault record (R248). -/
def Offset.place : Offset → BitVec 128
  | .at' o => BitVec.ofNat 128 (o.toNat % 2 ^ 48)
  | .coords c0 c1 c2 c3 => BitVec.ofNat 128 (c0 % 2 ^ 32 + 2 ^ 32 * (c1 % 2 ^ 32) + 2 ^ 64 * (c2 % 2 ^ 32) + 2 ^ 96 * (c3 % 2 ^ 32))

/-- The start offset of an access of an object, with whether a coordinate lies at or above its extent (R112, R8). -/
def Offset.start (o : Offset) (d? : Option ObjDesc) : Bool × Int :=
  match o, d? with
  | .at' x, _ => (false, x.toNat)
  | .coords c0 c1 c2 c3, some d =>
    let r := coordOffset d c0 c1 c2 c3
    (r.1, r.2)
  | .coords .., none => (false, 0)

/-! ### Queues (R53 to R55) -/

/-- Queue q of a weave. -/
def Weave.queue (w : Weave) (q : Nat) : Queue := (w.queues[q]?).getD ⟨0, [], 0⟩

/-- Queue q of a weave changed. -/
def Weave.onQueue (w : Weave) (q : Nat) (f : Queue → Queue) : Weave :=
  { w with queues := w.queues.setIfInBounds q (f (w.queue q)) }

/-- Whether a push has room (R54). -/
def Queue.hasRoom (q : Queue) : Bool := decide (q.entries.length < q.depth)

/-- The head, when its data are complete (R54). -/
def Queue.head? (q : Queue) : Option QEntry := q.entries.head?.bind fun e => if e.complete then some e else none

/-- The consecutive complete entries from the head (R55). -/
def Queue.completeFromHead (q : Queue) : Nat := (q.entries.takeWhile (·.complete)).length

/-- The first n entries removed; the next slot in turn becomes the head's. -/
def Queue.popMany (q : Queue) (n : Nat) : Queue := { q with entries := q.entries.drop n, head := (q.head + n) % q.depth }

/-- The head removed. -/
def Queue.pop (q : Queue) : Queue := q.popMany 1

/-- An entry reserved at the tail. -/
def Queue.push (q : Queue) (e : QEntry) : Queue := { q with entries := q.entries ++ [e] }

/-- An entry of a queue changed, by its reservation number. -/
def Queue.onEntry (q : Queue) (ticket : Nat) (f : QEntry → QEntry) : Queue :=
  { q with entries := q.entries.map fun e => if e.ticket = ticket then f e else e }

/-- The place of an entry in its queue (R248). -/
def Queue.indexOf (q : Queue) (ticket : Nat) : Nat := (q.entries.findIdx? fun e => e.ticket = ticket).getD 0

/-! ### Ports (R196 to R198) -/

/-- The port that a 3-bit code names. -/
def portOfCode (n : Nat) : Port :=
  match n with
  | 0 => .w
  | 1 => .e
  | 2 => .n
  | 3 => .s
  | _ => .d

/-- The code of a port. -/
def portCode : Port → Nat
  | .w => 0
  | .e => 1
  | .n => 2
  | .s => 3
  | .d => 4

/-- The inbound FIFO that a weave declared for a port. -/
def Weave.port? (w : Weave) (p : Port) : Option PortFifo := (w.ports.find? fun x => x.1 = p).map (·.2)

/-- An inbound FIFO changed. -/
def Weave.onPort (w : Weave) (p : Port) (f : PortFifo → PortFifo) : Weave :=
  { w with ports := w.ports.map fun x => if x.1 = p then (p, f x.2) else x }

end Sys2Proof.Machine
end

