-- ==== Sys2Proof/Machine/Access.lean ====
section
/-! DEFINITION. Loads, stores and atomics of the streams (R110 to R114, R160 to R177, R186, R187, R191, R239, R337): the
checks, the lines made ready, the bytes, and the release and acquire around them. An access is performed whole, at its issue or
at a later turn (R162; log 6). -/

namespace Sys2Proof.Machine

/-- Who makes an access: where it stands, and what its scratchpad addresses are measured from (R160, R239, R247). -/
structure Agent where
  core : Nat
  part : Nat
  fn : Nat
  spadAt : Nat
  spadBytes : Nat
  sup : Bool
deriving DecidableEq, Repr, Inhabited

/-- A crew. -/
def State.crew? (s : State) (id : Nat) : Option Crew := s.crews.find? fun c => c.id = id

/-- What names a barrier or completion object wherever its crew stands: the crew whose reservation holds it and the
address within; an object outside every reservation goes by its address. -/
def State.objectKey (s : State) (core a : Nat) : Nat × Nat :=
  match s.crews.find? fun c => c.core = core && c.state ≠ CrewState.saved && decide (c.spadAt ≤ a) && decide (a < c.spadAt + c.spadBytes) with
  | some c => (c.id + 1, a - c.spadAt)
  | none => (0, core * 2 ^ 20 + a)

/-- A strand of a weave as the maker of accesses. -/
def State.agentOf (s : State) (w : Weave) (st : Strand) : Agent :=
  let c := s.crew? w.crew
  ⟨w.id.core, w.partition, w.function, (c.map (·.spadAt)).getD 0, (c.map (·.spadBytes)).getD 0, w.mode st = .supervisor⟩

/-- The fault of an access with a cause and the lanes that fail. -/
def Req.fault (q : Req) (c : Cause) (m : LaneMask) : Stop := .fault { q.info with cause := c, faulters := q.mask.getD m }

/-- As `fault`, with the generation of a bundle in the record (R248). -/
def Req.bundleFault (q : Req) (c : Cause) (m : LaneMask) (g : Nat) : Stop :=
  .fault { q.info with cause := c, faulters := q.mask.getD m, generation := BitVec.ofNat 32 g }

/-! ### Scratchpad, supervisor store and host memory -/

/-- The key of a byte of a core's scratchpad. -/
def spadKey (core a : Nat) : Nat := core * 2 ^ 19 + a

/-- A byte of a core's SRAM by its absolute address: the scratchpad, and the supervisor store from 0x8_0000 on (R247).
A byte that nothing has written reads as any value (R240). -/
def State.sramByte (s : State) (core a : Nat) : Byte :=
  if a < 0x80000 then (cellGet s.spad (spadKey core a)).getD (Config.freeByte s.tick (spadKey core a))
  else (cellGet s.store (core * 8192 + (a - 0x80000))).getD (Config.freeByte s.tick (2 ^ 40 + core * 8192 + (a - 0x80000)))

/-- A byte of a core's SRAM written; an address past the supervisor store holds nothing. -/
def State.sramSet (s : State) (core a : Nat) (b : Byte) : State :=
  if a < 0x80000 then { s with spad := cellSet none s.spad (spadKey core a) b }
  else if a < 0x82000 then { s with store := cellSet none s.store (core * 8192 + (a - 0x80000)) b }
  else s

/-- n bytes of a core's SRAM, little-endian. -/
def State.sramRead (s : State) (core a n : Nat) : Nat := leNat ((List.range n).map fun i => s.sramByte core (a + i))

/-- n bytes of a number written to a core's SRAM. -/
def State.sramWrite (s : State) (core a n x : Nat) : State :=
  (leBytes n x).zipIdx.foldl (fun t y => t.sramSet core (a + y.2) y.1) s

/-- The absolute address in the core's SRAM that an agent's scratchpad address names (R239, R247). -/
def Agent.spad (g : Agent) (a : Nat) : Nat := if g.sup then a else g.spadAt + a

/-- Whether n bytes at a scratchpad address lie where the agent may go: its crew's reservation, or in supervisor mode the
core's scratchpad and the supervisor store (R239, R247). -/
def State.spadInside (s : State) (g : Agent) (a n : Nat) : Bool :=
  if g.sup then
    decide (a + n ≤ ((s.coreStates.toList.getD g.core CoreState.reset).active) * 65536) ||
      (decide (0x80000 ≤ a) && decide (a + n ≤ 0x82000))
  else decide (a + n ≤ g.spadBytes)

/-- Whether n bytes at a scratchpad address lie in the crew's reservation, in either mode (R211, R230, R238, R383). -/
def Agent.reserved (g : Agent) (a n : Nat) : Bool :=
  if g.sup then decide (g.spadAt ≤ a) && decide (a + n ≤ g.spadAt + g.spadBytes) else decide (a + n ≤ g.spadBytes)

/-- The bytes of host memory granted to a function (R337). -/
def State.granted (s : State) (fn : Nat) : Nat := ((s.hostGrant.find? fun x => x.1 = fn).map (·.2)).getD 0

/-! ### Checks -/

/-- The first failing step of R110 for one lane in its space; .far has no effect of its own, .spd follows R239, and an
offset outside the grant of host memory lacks permission (R337). -/
def State.checkLane (s : State) (g : Agent) (q : Req) (d? : Option ObjDesc) (bad : Bool) (off : Int) : Option (Nat × Cause) :=
  match q.space with
  | .obj | .far => s.checkAt g.core g.part q.object d? q.need q.width bad off
  | .spd =>
    if off < 0 || !s.spadInside g off.toNat q.width then some (3, .objBound)
    else if off.toNat % q.width ≠ 0 then some (4, .align)
    else none
  | .hst =>
    if bad || off < 0 then some (3, .objBound)
    else if off.toNat % q.width ≠ 0 then some (4, .align)
    else if s.granted g.fn < off.toNat + q.width then some (5, .perm)
    else none

/-- The fault of R110 for an access, if any lane fails. -/
def State.checkReq (s : State) (g : Agent) (q : Req) : Except Stop Unit :=
  let d? := s.seeDesc g.core g.part q.object
  match decideLanes (q.lanes.map fun l => (l.1, s.checkLane g q d? l.2.1 l.2.2)) with
  | some (c, m) => .error (q.fault c m)
  | none => .ok ()

/-! ### The lanes of an access of objects or host memory -/

/-- One lane of an access that has passed its checks: its offset and its places. -/
structure LaneAt where
  lane : Nat
  off : Nat
  places : List Place
deriving DecidableEq, Repr, Inhabited

/-- The places of w bytes of host memory: their lines are homed on die 0 (R146). -/
def hostPlaces (fn o w : Nat) : List Place :=
  (List.range w).map fun j =>
    let a := hostBase + hostKey fn (o + j)
    ⟨a, a, none, none, o + j, 0, none, false, false⟩

/-- The lanes with their places; host memory has no object. -/
def State.lanesAt (s : State) (g : Agent) (q : Req) (d : ObjDesc) : List LaneAt :=
  q.lanes.map fun l => ⟨l.1, l.2.2.toNat,
    if q.space = .hst then hostPlaces g.fn l.2.2.toNat q.width else s.placesAt g.core g.part q.object d l.2.2.toNat q.width⟩

/-- The object whose elements an access names; host memory is plain bytes. -/
def State.descOf (s : State) (g : Agent) (q : Req) : Option ObjDesc :=
  if q.space = .hst then some default else s.seeDesc g.core g.part q.object

/-- The logical byte at which an access of an object starts. -/
def ObjDesc.byteAt (d : ObjDesc) (off : Nat) : Nat := off * d.nibs / 2

/-- The mask of the lanes that a test selects. -/
def lanesWhere (ls : List LaneAt) (p : LaneAt → Bool) : LaneMask :=
  ls.foldl (fun m l => if p l then m ||| ((1 : LaneMask) <<< l.lane) else m) 0

/-- The first address of each lane, by lane. -/
def addresses (ls : List LaneAt) : List (Option Nat) :=
  laneList.map fun l => (ls.find? fun x => x.lane = l).bind fun x => x.places.head?.map (·.home)

/-- The walks that the frames of an access of an object need (R255). -/
def State.walkAll (s : State) (g : Agent) (q : Req) (ls : List LaneAt) : State :=
  if q.space = .hst then s else (framesOf (ls.flatMap (·.places))).foldl (fun t f => t.walk g.core g.part q.object f) s

/-- Whether a place lies behind a port that is down (R158). -/
def State.placeDown (s : State) (p : Place) : Bool := ((portOf p.home).map s.portDown).getD false

/-- Whether the places of a lane reach the home slice: no copy nearer the core serves them (R121). -/
def State.sends (s : State) (core : Nat) (p : Place) : Bool :=
  let live := fun (h : Holder) => match s.lineAt h p.line with
    | some c => !s.lineStale c
    | none => false
  !(live (.l1 core) || live (.cluster (clusterOf core)) || ((s.nearHolder core p.line).map live).getD false)

/-- Whether an access performed at a level reaches the home slice: always at the home, a load's way on an L1 miss, else where
the cluster has no copy of the kind (R121, R161). -/
def State.levelSends (s : State) (core : Nat) (v : StoreLevel) (p : Place) : Bool :=
  match v with
  | .home => true
  | .l1 => s.sends core p
  | _ => !s.levelHeld core v p

/-- Whether a slot of the module's schedule names a partition, so that it can send on the shared paths (R153). -/
def State.maySend (s : State) (part : Nat) : Bool :=
  s.scheduleEntries.toList.any fun (e : BitVec 8) => e.getLsbD 4 && e.toNat % 16 = part

/-- Whether a release or an acquire of a scope by a core sends on the shared paths: dirty bytes of its L1 leave for the home, or for an L
copy that its cluster does not have, or L copies of the cluster end (R165). -/
def State.fenceSends (s : State) (core : Nat) (sc : Scope) : Bool :=
  let l := fun (line : Nat) => (s.lineAt (.cluster (clusterOf core)) line).any fun c => c.state = .l
  decide (2 ≤ sc.code) &&
    ((s.caches.any fun c => c.holder = .l1 core && decide (c.dirty ≠ 0) && !(sc = .cl && l c.line)) ||
      (decide (3 ≤ sc.code) && s.caches.any fun c => c.holder = .cluster (clusterOf core) && c.state = .l))

/-- Whether a release or an acquire waits for a slot of its partition (R153). -/
def State.fenceHeld (s : State) (part core : Nat) (sc : Scope) : Bool := s.fenceSends core sc && !s.maySend part

/-- The elements that the lanes of a test name, in lane order (R121). -/
def runOf (d : ObjDesc) (w : Nat) (ls : List LaneAt) (p : LaneAt → Bool) : List Nat :=
  (ls.filter p).flatMap fun l => (List.range (d.spanOf w)).map (l.off + ·)

/-- The poison cleared by a store of lanes that writes every byte of a line (R257). -/
def State.clearPoison (s : State) (ls : List LaneAt) : State := s.clearKeys (ls.flatMap fun l => l.places.map (·.home))

/-- The lanes of an access of scratchpad whose bytes are poisoned. -/
def State.spadBad (s : State) (g : Agent) (q : Req) : LaneMask :=
  q.lanes.foldl (fun (m : LaneMask) l =>
    if s.sramPoisoned g.core (g.spad l.2.2.toNat) q.width then m ||| (1 <<< l.1) else m) 0

/-! ### Loads -/

/-- What a load brings: the state after it, a value for each lane, the lanes whose data are poisoned, and the addresses. -/
structure Loaded where
  state : State
  values : List (Nat × Nat)
  bad : LaneMask
  lanesAt : List (Option Nat)
deriving DecidableEq, Repr

/-- The value a load gives a lane. -/
def Loaded.value (l : Loaded) (lane : Nat) : Nat := ((l.values.find? fun x => x.1 = lane).map (·.2)).getD 0

/-- Whether an order acquires, and whether it releases (R165). -/
def acquires (o : Order) : Bool := o = .acq || o = .ar || o = .sc
def releases (o : Order) : Bool := o = .rel || o = .ar || o = .sc

/-- What an acquire of a scope does on completion (R165, R243). -/
def State.acquire (s : State) (core : Nat) (sc : Scope) : State := (s.acquireFlips sc).acquireCaches core sc

/-- What a release of a scope does before it is performed (R165). -/
def State.release (s : State) (core : Nat) (sc : Scope) : State := s.releaseCaches core sc

/-- The view table of a weave changed. -/
def State.onViews (s : State) (id : WeaveId) (f : Vector ViewEntry 4 → Vector ViewEntry 4) : State :=
  s.onWeave id fun w => { w with views := f w.views }

/-- Some bits of a mask of 128. -/
def badBytes (m : BitVec 128) (i n : Nat) : Bool := (List.range n).any fun k => m.getLsbD (i + k)

/-- A view load of a lane (R191): none for an untagged line, else the version's bytes and whether they are poisoned. -/
def State.viewLane (s : State) (id : WeaveId) (g : Agent) (q : Req) (d : ObjDesc) (l : LaneAt) :
    Except Stop (State × Option (Nat × Bool)) :=
  let at' := d.byteAt l.off
  match s.member? g.part q.object (at' / 128) with
  | none => .ok (s, none)
  | some m =>
    match s.bundle? g.part m.handle, s.weave? id with
    | some b, some w =>
      match viewEntry w.views.toList m.handle b.committed with
      | none => .error (q.bundleFault .viewExpired (1 <<< l.lane) (heldView w.views.toList m.handle))
      | some (fresh, k, f) =>
        let s1 := if fresh then
            (s.onViews id fun v => v.setIfInBounds k ⟨BitVec.ofNat 32 m.handle, BitVec.ofNat 32 f, true, false, false⟩).acquire
              g.core .sp
          else s
        let s2 := s1.settleFor m f
        let m2 := (s2.member? g.part q.object (at' / 128)).getD m
        match m2.versionAt f with
        | none => .error (match q.bundleFault .viewExpired (1 <<< l.lane) f with
            | .fault i => .expired i [k]
            | other => other)
        | some n =>
          let v := s2.versionOf m2 n
          if s2.versionDown m2 n then .error (q.fault .farUnavail (1 <<< l.lane)) else
          .ok (s2, some (leNat ((v.data.drop (at' % 128)).take q.width), badBytes v.bad (at' % 128) q.width))
    | _, _ => .ok (s, none)

/-- View loads lane after lane: the state, in which an entry that one lane fills serves the next, what the lanes bring, and the stops of
those that fail. -/
structure Viewed where
  state : State
  values : List (Nat × Nat × Bool)
  fails : List (Nat × Stop)
deriving DecidableEq, Repr

/-- The next lane. -/
def Viewed.lane (x : Viewed) (id : WeaveId) (g : Agent) (q : Req) (d : ObjDesc) (l : LaneAt) : Viewed :=
  match x.state.viewLane id g q d l with
  | .ok (t, some v) => { x with state := t, values := x.values ++ [(l.lane, v)] }
  | .ok (t, none) => { x with state := t }
  | .error e => { x with fails := x.fails ++ [(l.lane, e)] }

/-- The entries that a stop marks expired, and whether it is VIEW_EXPIRED. -/
def Stop.marks : Stop → List Nat
  | .expired _ ks => ks
  | _ => []
def Stop.viewExpired : Stop → Bool
  | .fault i => i.cause = .viewExpired
  | .expired .. => true
  | _ => false

/-- The stop of a view load some of whose lanes fail (R191): VIEW_EXPIRED with the lanes that meet it, every entry without a version
marked; where no lane meets it the failure that arrives with the data. -/
def Viewed.stop (x : Viewed) (q : Req) : Option Stop :=
  let expired := x.fails.filter (·.2.viewExpired)
  let mine := if expired.isEmpty then x.fails else expired
  let mask := mine.foldl (fun (m : LaneMask) y => m ||| (1 <<< y.1)) 0
  mine.head?.map fun y => match y.2 with
    | .fault i => if expired.isEmpty then .fault { i with faulters := q.mask.getD mask }
        else .expired { i with faulters := q.viewMask.getD mask } (distinct (mine.flatMap (·.2.marks)))
    | .expired i _ => .expired { i with faulters := q.viewMask.getD mask } (distinct (mine.flatMap (·.2.marks)))
    | e => e

/-- The view loads of every lane, in lane order. -/
def State.viewLanes (s : State) (id : WeaveId) (g : Agent) (q : Req) (d : ObjDesc) (ls : List LaneAt) :
    Except Stop (State × List (Nat × Nat × Bool)) :=
  let x := ls.foldl (fun (x : Viewed) l => x.lane id g q d l) ⟨s, [], []⟩
  match x.stop q with
  | some e => .error e
  | none => .ok (x.state, x.values)

/-- A line that some place needs, made ready by a function; the first that its home refuses stops it. -/
def readyLines (f : State → Place → Except Stop State) (s : State) : List Place → Except Stop State
  | [] => .ok s
  | p :: r => match f s p with
    | .error e => .error e
    | .ok t => readyLines f t r

/-- Whether an access of the acting instruction is left for a later turn: a relaxed one, unbundled (R162; log 6). -/
def State.postpones (s : State) (a : Attrs) : Bool := s.cur.moment = .later && a.order = .rlx && !a.bundle

/-- The bytes that an access names: those of a core's SRAM under their keys, others by their homes. -/
def State.byteKeys (s : State) (g : Agent) (q : Req) : List Nat :=
  if q.space = .spd then q.lanes.flatMap fun l => (List.range q.width).map fun i => sramKey g.core (g.spad l.2.2.toNat + i)
  else match s.descOf g q with
    | none => []
    | some d => (s.lanesAt g q d).flatMap fun l => l.places.map (·.home)

/-- Whether an access of the acting stream shares a byte with an earlier one that has issued and is not yet performed; accesses of one
stream to one location keep their order (R163, R166). -/
def State.behind (s : State) (g : Agent) (q : Req) : Bool :=
  let before := fun (p : Pending) => match s.cur.moment with
    | .due id .. => decide (p.id < id)
    | _ => true
  s.pending.any fun p => p.issuer.weave = s.cur.weave && p.issuer.strand.stream = s.cur.strand.stream && before p &&
    (s.byteKeys (s.agentOf p.weave p.issuer.strand) p.req).any (s.byteKeys g q).contains

/-- The first address of each lane of an access of an object or of host memory. -/
def State.reqAddresses (s : State) (g : Agent) (q : Req) : List (Option Nat) :=
  if q.space = .spd then []
  else match s.descOf g q with
    | none => []
    | some d => addresses (s.lanesAt g q d)

/-- Whether some lane of an access lies in far memory. -/
def State.reqFar (s : State) (g : Agent) (q : Req) : Bool := (s.reqAddresses g q).any fun x => x.any isFar

/-- Whether a flight is the request of an access to far memory that is still to be performed. -/
def Dest.isAccept : Dest → Bool
  | .accept _ => true
  | _ => false

/-- The request of the access whose turn it is, if it went to far memory (R362, R158). -/
def State.awaiting (s : State) : Option Flight :=
  match s.cur.moment with
  | .due id _ _ => s.flights.find? fun f => f.id = id && f.dest.isAccept
  | _ => none

/-- Whether the access whose turn it is has been lost with a port that went down: it is never performed (R158). -/
def State.accessLost (s : State) : Bool := s.awaiting.any fun f => decide (f.lost ≠ 0)

/-- The lanes that lie behind a port that is down. A copy of such a line in a cache does not save a load: any access to an address of
the port is an access to it (DEDUCED, log 35). -/
def State.downLanes (s : State) (ls : List LaneAt) : LaneMask := lanesWhere ls fun l => l.places.any s.placeDown

/-- A load of lanes (R110, R148, R191), performed. -/
def State.loadObject (s : State) (id : WeaveId) (g : Agent) (a : Attrs) (q : Req) (d : ObjDesc) : Except Stop Loaded :=
  let ls := s.lanesAt g q d
  -- a view load of an untagged line is an ordinary one (R191)
  let tagged := a.view && ls.any fun l => (s.member? g.part q.object (d.byteAt l.off / 128)).isSome
  if s.accessLost then .error .stall
  else if s.downLanes ls ≠ 0 then .error (q.fault .farUnavail (s.downLanes ls))
  else if (ls.any fun l => l.places.any (·.busy)) || s.behind g q then .error .stall
  else if s.postpones a && !tagged then .error (.postpone q)
  else
    let s1 := s.walkAll g q ls
    match (if a.view then s1.viewLanes id g q d ls else .ok (s1, [])) with
    | .error e => .error e
    | .ok (s2, viewed) =>
      let seen := fun (l : LaneAt) => viewed.find? fun x => x.1 = l.lane
      let plain := ls.filter fun l => (seen l).isNone
      let sends := fun (l : LaneAt) => (seen l).isSome || l.places.any (s2.sends g.core)
      if (ls.any sends && !s2.maySend g.part) || (acquires a.order && s2.fenceHeld g.part g.core a.scope) then .error .stall
      else
        let s3 := s2.observeRun g.part q.object d (runOf d q.width ls sends)
        match readyLines (fun t p => t.loadLine g.core a false p) s3 (linePlaces (plain.flatMap (·.places))) with
        | .error e => .error e
        | .ok lines =>
          let s4 := lines.freshenHalves g.core (plain.flatMap (·.places))
          let values := plain.map fun l => (l.lane, joinPlaces (s4.seeByte g.core) l.places)
          let s5 := if acquires a.order then s4.acquire g.core a.scope else s4
          .ok ⟨s5, values ++ viewed.map fun x => (x.1, x.2.1),
            lanesWhere ls fun l => match seen l with
              | some x => x.2.2
              | none => l.places.any s.poisoned, addresses ls⟩

/-- The value of w bytes given one by one. -/
def bytesOf (f : Nat → Byte) (w : Nat) : Nat := leNat ((List.range w).map f)

/-- A load (R337): its checks, and its lanes in object space, scratchpad or host memory. -/
def State.load (s : State) (id : WeaveId) (g : Agent) (a : Attrs) (q : Req) : Except Stop Loaded :=
  match s.checkReq g q with
  | .error e => .error e
  | .ok () =>
    match q.space, s.descOf g q with
    | .spd, _ =>
      if s.behind g q || (acquires a.order && s.fenceHeld g.part g.core a.scope) then .error .stall
      else if s.postpones a then .error (.postpone q)
      else .ok ⟨if acquires a.order then s.acquire g.core a.scope else s,
        q.lanes.map fun l => (l.1, bytesOf (fun i => s.sramByte g.core (g.spad l.2.2.toNat + i)) q.width), s.spadBad g q, []⟩
    | _, some d => s.loadObject id g a q d
    | _, none => .ok ⟨s, [], 0, []⟩

/-! ### Stores -/

/-- Whether an access waits for its home's acceptance: a store or atomic to far memory, until a later turn, at which the home accepts and
performs it in one, so that no failure comes between (R362). -/
def State.mustWait (s : State) (g : Agent) (q : Req) : Bool :=
  match s.cur.moment with
  | .due .. => false
  | _ => s.reqFar g q

/-- The lines among some, in their order, that a bundled store would append and for which the manifest has no room (R186). -/
def State.linesBeyond (s : State) (object : Nat) (b : Bundle) (lines : List Nat) : List Nat :=
  (lines.filter fun n => !(b.members.contains (object, n))).drop (s.memberRoom b)

/-- Open versions of lines, one after another, and the lines for which no space can be obtained (R185). -/
def State.openLines (s : State) (object : Nat) (b : Bundle) (lines : List Nat) : State × List Nat :=
  lines.foldl (fun (x : State × List Nat) n =>
    match x.1.openLine ((x.1.bundle? b.part b.handle).getD b) object n with
    | some t => (t, x.2)
    | none => (x.1, x.2 ++ [n])) (s, [])

/-- The checks of a bundled store (R186): none, or its fault. -/
def State.bundleStop (s : State) (w : Weave) (g : Agent) (q : Req) (d : ObjDesc) (ls : List LaneAt) : Option Stop :=
  let lineOf' := fun (l : LaneAt) => d.byteAt l.off / 128
  let b? := s.bundle? g.part w.breg.toNat
  let gen := (b?.map (·.opened)).getD 0
  let foreign := lanesWhere ls fun l => s.foreignTag g.part w.breg.toNat q.object (lineOf' l)
  let beyond := (b?.map fun b => s.linesBeyond q.object b (distinct (ls.map lineOf'))).getD []
  let full := lanesWhere ls fun l => beyond.contains (lineOf' l)
  let shut := (b?.map fun b => (s.openLines q.object b (distinct (ls.map lineOf'))).2).getD []
  let spaceless := lanesWhere ls fun l => shut.contains (lineOf' l)
  if ls.isEmpty then none
  else if !s.mayStore g.part w.breg w.part then some (q.bundleFault .bundleOutside (lanesWhere ls fun _ => true) gen)
  else if foreign ≠ 0 then some (q.bundleFault .bundleOutside foreign gen)
  else if full ≠ 0 then some (q.fault .objBound full)
  else if spaceless ≠ 0 then some (q.bundleFault .bundleOutside spaceless gen)
  else none

/-- The logical lines that the lanes write whole. -/
def wholeLines (d : ObjDesc) (w : Nat) (ls : List LaneAt) : List Nat :=
  let bytes := distinct (ls.flatMap fun l => (List.range w).map (d.byteAt l.off + ·))
  (distinct (bytes.map (· / 128))).filter fun n => (bytes.filter fun b => b / 128 = n).length = 128

/-- A bundled store that has passed its checks (R186): its lanes written into open versions. -/
def State.storeBundled (s : State) (w : Weave) (g : Agent) (q : Req) (d : ObjDesc) (ls : List LaneAt) (vals : Nat → Nat) : State :=
  match s.bundle? g.part w.breg.toNat with
  | none => s
  | some b =>
    let t := (s.openLines q.object b (distinct (ls.map fun l => d.byteAt l.off / 128))).1
    let u := ls.foldl (fun u l => u.openWrite g.part q.object (d.byteAt l.off) (leBytes q.width (vals l.lane))) t
    (wholeLines d q.width ls).foldl (fun v n => v.openClean g.part q.object n) u

/-- The lines of an unbundled store or atomic settled, and its fault where a line is barred (R187). -/
def State.settleLanes (s : State) (g : Agent) (q : Req) (d : ObjDesc) (ls : List LaneAt) : Except Stop State :=
  let lines := distinct (ls.map fun l => d.byteAt l.off / 128)
  let t := lines.foldl (fun t n => t.settleLine g.part q.object n) s
  let barred := lanesWhere ls fun l => t.barred g.part q.object (d.byteAt l.off / 128)
  if barred ≠ 0 then
    let gen := ((ls.find? fun l => t.barred g.part q.object (d.byteAt l.off / 128)).bind fun l =>
      (t.member? g.part q.object (d.byteAt l.off / 128)).bind fun m => (t.bundle? g.part m.handle).map (·.opened)).getD 0
    .error (q.bundleFault .bundleOutside barred gen)
  else .ok t

/-- What stops a store or atomic before its lanes are written, or the state in which they can be: a port that has lost it, the checks of
bundles (R186, R187), the ports, poison for an atomic, a section that moves, the home's acceptance, and the slots of the partition. -/
def State.clearance (s : State) (w : Weave) (g : Agent) (a : Attrs) (q : Req) (d : ObjDesc) (ls : List LaneAt) (atomic : Bool)
    (sends : State → LaneAt → Bool) : Except Stop State :=
  if s.accessLost then .error .stall else
  match (if a.bundle then (match s.bundleStop w g q d ls with
      | some e => .error e
      | none => .ok s) else s.settleLanes g q d ls) with
  | .error e => .error e
  | .ok s1 =>
    let bad := if atomic then lanesWhere ls fun l => l.places.any s1.poisoned else 0
    if s1.downLanes ls ≠ 0 then .error (q.fault .farUnavail (s1.downLanes ls))
    else if bad ≠ 0 then .error (q.fault .dataUe bad)
    else if (ls.any fun l => l.places.any fun p => p.busy || (a.bundle && p.moving)) || s1.behind g q then .error .stall
    else if s1.postpones a || s1.mustWait g q then .error (.postpone q)
    else
      let s2 := s1.walkAll g q ls
      let s3 := if releases a.order then s2.release g.core a.scope else s2
      if (ls.any (sends s3) && !s3.maySend g.part) || (a.order ≠ .rlx && s2.fenceHeld g.part g.core a.scope) then .error .stall
      else .ok (s3.observeRun g.part q.object d (runOf d q.width ls (sends s3)))

/-- A store of lanes (R161, R362); the highest lane wins a shared location (R114). -/
def State.storeObject (s : State) (w : Weave) (g : Agent) (a : Attrs) (q : Req) (d : ObjDesc) (vals : Nat → Nat) :
    Except Stop State :=
  let ls := s.lanesAt g q d
  match s.clearance w g a q d ls false fun t l => a.bundle || l.places.any fun p => t.levelSends g.core (storeLevel a p) p with
  | .error e => .error e
  | .ok s1 =>
    if a.bundle then .ok (s1.storeBundled w g q d ls vals)
    else
      match readyLines (fun t p => t.storeLine g.core a p) s1 (halfPlaces (ls.flatMap (·.places))) with
      | .error e => .error e
      | .ok s2 =>
        .ok ((ls.foldl (fun t l =>
          (splitPlaces l.places (vals l.lane)).foldl (fun u y => u.storeByte g.core a y.1 y.2) t) s2).clearPoison ls)

/-- What holds a store or atomic of scratchpad: an earlier access of its stream to a byte of it, or the fence that its order makes
(R163, R153). -/
def State.spadHeld (s : State) (g : Agent) (a : Attrs) (q : Req) : Bool :=
  s.behind g q || (a.order ≠ .rlx && s.fenceHeld g.part g.core a.scope)

/-- The fault of a bundled store to scratchpad or host memory, which hold no line of an object: its weave must be a joined participant of
BREG's open bundle all the same (R186). It is judged once, when the store issues. -/
def State.loneStop (s : State) (w : Weave) (g : Agent) (a : Attrs) (q : Req) : Option Stop :=
  let due := match s.cur.moment with
    | .due .. => true
    | _ => false
  if due || !a.bundle || q.lanes.isEmpty || s.mayStore g.part w.breg w.part then none
  else some (q.bundleFault .bundleOutside (q.lanes.foldl (fun (m : LaneMask) l => m ||| (1 <<< l.1)) 0)
    (((s.bundle? g.part w.breg.toNat).map (·.opened)).getD 0))

/-- A store (R362): its checks, and its lanes in object space, scratchpad or host memory. A bundled store to scratchpad or to host memory
that BREG admits is an ordinary one, since no rule gives those bytes versions (DESIGN CHOICE, log 65). -/
def State.store' (s : State) (w : Weave) (g : Agent) (a0 : Attrs) (q : Req) (vals : Nat → Nat) : Except Stop State :=
  match s.checkReq g q with
  | .error e => .error e
  | .ok () =>
    let lone := q.space = .spd || q.space = .hst
    let a := if lone then { a0 with bundle := false } else a0
    match (if lone then s.loneStop w g a0 q else none) with
    | some e => .error e
    | none =>
    match q.space, s.descOf g q with
    | .spd, _ =>
      if s.spadHeld g a q then .error .stall
      else if s.postpones a then .error (.postpone q)
      else
      let t := if releases a.order then s.release g.core a.scope else s
      .ok ((q.lanes.foldl (fun u l => u.sramWrite g.core (g.spad l.2.2.toNat) q.width (vals l.1)) t).clearKeys
        (q.lanes.flatMap fun l => (List.range q.width).map fun i => sramKey g.core (g.spad l.2.2.toNat + i)))
    | _, some d => s.storeObject w g a q d vals
    | _, none => .ok s

/-! ### Atomics -/

/-- What an atomic brings: the state after it and the value each lane read. -/
abbrev AtomicDone := State × List (Nat × Nat)

/-- An atomic of lanes (R175), lane after lane; f gives the value a lane writes, if it writes. -/
def State.atomicObject (s : State) (w : Weave) (g : Agent) (a : Attrs) (q : Req) (d : ObjDesc) (f : Nat → Nat → Option Nat) :
    Except Stop AtomicDone :=
  let ls := s.lanesAt g q d
  match s.clearance w g a q d ls true fun t l => l.places.any fun p => t.levelSends g.core (atomicLevel a p) p with
  | .error e => .error e
  | .ok s1 =>
    match readyLines (fun t p => t.atomicLine g.core a p) s1 (halfPlaces (ls.flatMap (·.places))) with
    | .error e => .error e
    | .ok s2 =>
      let r := ls.foldl (fun (x : State × List (Nat × Nat)) l =>
        let old := joinPlaces (x.1.atomicSee g.core a) l.places
        let t := match f l.lane old with
          | none => (splitPlaces l.places old).foldl (fun u y => u.refreshL1 g.core (atomicLevel a y.1) y.1 y.2) x.1
          | some v => (splitPlaces l.places v).foldl (fun u y => u.atomicPoke g.core a y.1 y.2) x.1
        (t, x.2 ++ [(l.lane, old)])) (s2, [])
      .ok (if acquires a.order then r.1.acquire g.core a.scope else r.1, r.2)

/-- An atomic: its checks, and its lanes in object space, scratchpad or host memory. -/
def State.atomic (s : State) (w : Weave) (g : Agent) (a : Attrs) (q : Req) (f : Nat → Nat → Option Nat) : Except Stop AtomicDone :=
  match s.checkReq g q with
  | .error e => .error e
  | .ok () =>
    match q.space, s.descOf g q with
    | .spd, _ =>
      if s.spadBad g q ≠ 0 then .error (q.fault .dataUe (s.spadBad g q))
      else if s.spadHeld g a q then .error .stall
      else if s.postpones a then .error (.postpone q)
      else
      let t := if releases a.order then s.release g.core a.scope else s
      let r := q.lanes.foldl (fun (x : State × List (Nat × Nat)) l =>
        let at' := g.spad l.2.2.toNat
        let old := x.1.sramRead g.core at' q.width
        let u := match f l.1 old with
          | none => x.1
          | some v => x.1.sramWrite g.core at' q.width v
        (u, x.2 ++ [(l.1, old)])) (t, [])
      .ok (if acquires a.order then r.1.acquire g.core a.scope else r.1, r.2)
    | _, some d => s.atomicObject w g a q d f
    | _, none => .ok (s, [])

end Sys2Proof.Machine
end

