-- ==== Sys2Proof/Machine/Ops.lean ====
section
/-! DEFINITION. What the meanings share: taking a fault (R246 to R250, R253), returning from one (R252, R356), ending a
weave (R252), waits and stalls (R44, R63), the checks of R105 that an instruction makes before it acts, and results in
flight. -/

namespace Sys2Proof

/-- The kind code of an engine command, an MMAC or an MLOAD, as a fault record names it; else 0 (R210, R248). -/
def Instr.engineKind (i : Instr) : Nat :=
  match i with
  | .tcopy .. => 1
  | .tcopys .. => 2
  | .nmx .. => 3
  | .scan .. => 4
  | .ckpt .. => 5
  | .cred .. => 6
  | .cbcst .. => 7
  | .mmac .. => 8
  | .mload .. => 9
  | _ => 0

/-- The instructions whose access may be left for a later turn (R162; log 6), with the registers that it will write then. -/
def Instr.leaves (i : Instr) : Option (List Opnd) :=
  match i with
  | .lds _ _ _ _ _ d | .sld _ _ _ _ _ d | .amo _ _ _ _ d | .cas _ _ _ d | .layq _ _ d | .laypin _ _ d | .layadv _ _ d | .bstat _ d
  | .objq _ _ d => some [.scal d.toNat]
  | .ldc _ _ _ d => some [.scal d.toNat, .scal (d.toNat + 1)]
  | .vld _ _ _ _ _ d | .vgth _ _ _ _ _ d | .vamo _ _ _ d | .vcas _ _ d => some [.lane d.toNat]
  | .sts .. | .stc .. | .sst .. | .vst .. | .vsct .. | .stq .. | .sctq .. | .ldq .. | .gthq .. => some []
  | _ => none

end Sys2Proof

namespace Sys2Proof.Machine

/-! ### Causes and records -/

/-- The code of a cause (R249), which is its handler slot. -/
def Cause.code : Cause → Nat
  | .illegal => 0x01
  | .stream => 0x02
  | .priv => 0x03
  | .regBound => 0x04
  | .objBound => 0x05
  | .firstTouch => 0x06
  | .perm => 0x07
  | .farUnavail => 0x08
  | .dataUe => 0x09
  | .bundleOutside => 0x0A
  | .portWatch => 0x0B
  | .align => 0x0C
  | .prefixMisuse => 0x0D
  | .gangMismatch => 0x0E
  | .extentGone => 0x0F
  | .queueMisuse => 0x10
  | .viewExpired => 0x11
  | .trap => 0x12

/-- The access codes of a fault record (R248). -/
def accFetch : Nat := 0
def accLoad : Nat := 1
def accStore : Nat := 2
def accAtomic : Nat := 3
def accGather : Nat := 4
def accScatter : Nat := 5
def accEngine : Nat := 6
def accLayout : Nat := 7
def accQueue : Nat := 8
def accPort : Nat := 9
def accGang : Nat := 10
def accOther : Nat := 11

/-- A fault of the acting instruction that names no object: its faulters' mask is ACT in the C-stream, zero in the A-stream (R105). -/
def State.info (s : State) (w : Weave) (c : Cause) (access : Nat) : FaultInfo :=
  { cause := c, access, engine := 0, pc := s.cur.pc, object := 0, generation := 0, place := 0
    faulters := w.act s.cur.strand, port := 0 }

/-- The entry code and handler slot of a vectoring (R249, R250). -/
def EntryCause.code : EntryCause → Nat
  | .fault c => c.code
  | .preempted => 0x00
  | .restored => 0xFF

def EntryCause.slot : EntryCause → Nat
  | .fault c => c.code
  | .preempted => 31
  | .restored => 31

/-- The number of a stream in records and handler offsets (R248, R250). -/
def Strand.number : Strand → Nat
  | .a => 0
  | .c _ => 1

/-- The supervisor-store address of a stream's record (R247). -/
def Weave.recordAt (w : Weave) (stream : Nat) : Nat := w.fltrec.toNat + 64 * stream

/-- The 64 bytes of a fault record (R248). -/
def recordWord (cause : Nat) (w : Weave) (st : Strand) (i : FaultInfo) : Nat :=
  let n := Strand.number st
  let entryMask : LaneMask := w.act st
  let entry := if n = 1 then st.entry else 0
  cause + 2 ^ 8 * n + 2 ^ 12 * i.access + 2 ^ 16 * i.engine + 2 ^ 32 * i.pc.toNat
    + 2 ^ 64 * i.object.toNat + 2 ^ 96 * i.generation.toNat + 2 ^ 128 * i.place.toNat
    + 2 ^ 256 * i.faulters.toNat + 2 ^ 352 * entryMask.toNat + 2 ^ 448 * entry + 2 ^ 456 * i.port.toNat

/-- The PC at which a handler begins, relative to the handler code object (R250). -/
def Weave.handlerPc (w : Weave) (stream slot : Nat) : BitVec 32 :=
  (w.hndlr.setWidth 32 &&& 0xFFFFFFFE#32) + BitVec.ofNat 32 (2048 * stream + 64 * slot)

/-- The cc that an entry has spent in its wait and that no counter has counted (R350). -/
def SplitEntry.waited (x : SplitEntry) (time : Nat) : Nat := (x.wait.map fun r => time - r.counted).getD 0

/-- A strand waits no longer; the C-stream's wait is counted (R350). -/
def Weave.endWait (w : Weave) (st : Strand) (time : Nat) : Weave :=
  match st with
  | .a => { w with aWait := none }
  | .c e => { w.setEntry e { w.entry e with kind := .ready, wait := none } with cWaited := w.cWaited + (w.entry e).waited time }

/-- A fragment has not arrived at its crew's gang latch, or no longer (R229). -/
def State.leaveLatch (s : State) (id : WeaveId) (st : Strand) : State :=
  { s with crews := s.crews.map fun (c : Crew) =>
      if c.latch.isEmpty then c else { c with latch := c.latch.filter fun a => !(a.weave = id && st = .c a.entry) } }

/-- A stream enters supervisor mode at a handler (R250), with its record written (R248). -/
def State.enter (s : State) (id : WeaveId) (st : Strand) (c : EntryCause) (i : FaultInfo) : State :=
  match s.weave? id with
  | none => s
  | some w =>
    let n := Strand.number st
    let t := s.sramWrite id.core (w.recordAt n) 64 (recordWord c.code w st i)
    (t.leaveLatch id st).onWeave id fun w =>
      let w1 := ((w.endWait st s.time).setMode st .supervisor).setPc st (w.handlerPc n c.slot)
      match st with
      | .a => w1
      | .c e => { w1 with cHand := e }

/-- FLTM0 to FLTM2 take the faulters' mask of a C-stream fault (R248). -/
def Weave.setFltm (w : Weave) (st : Strand) (m : LaneMask) : Weave :=
  match st with
  | .a => w
  | .c _ => { w with fltm := m }

/-! ### The end of a weave -/

/-- The launch of a weave's crew carries status bit 27 from now on (R31). -/
def State.markFaulted (s : State) (crew : Nat) : State :=
  match s.crew? crew with
  | none => s
  | some c => { s with
      crews := s.crews.map fun (x : Crew) => if x.id = crew then { x with faulted := true } else x
      launches := s.launches.map fun (l : Launch) => if l.id = c.launch then { l with faulted := true } else l }

/-- Every fragment of both streams of a weave stops. -/
def State.endStreams (s : State) (id : WeaveId) : State :=
  match s.weave? id with
  | none => s
  | some w =>
    let t := s.onWeave id fun w => { w with
      aEnded := true, aWait := none, aPend := none, cPend := none, split := .replicate 128 SplitEntry.empty, stopped := true }
    { t with crews := t.crews.map fun (c : Crew) =>
      if c.id = w.crew then { c with latch := c.latch.filter fun a => a.weave ≠ id } else c }

/-- Every fragment of both streams stops (R252); the weave ends once its accesses are complete. A weave that has been
saved ends without a fault (R260). -/
def State.stopWeave (s : State) (id : WeaveId) : State :=
  match s.weave? id with
  | none => s
  | some w => if w.saved then s.endStreams id else (s.endStreams id).markFaulted w.crew

/-- The error record of a fault that ends a weave (R253, R258). -/
def doubleFault (w : Weave) (i : FaultInfo) : ErrorInfo :=
  { code := 0x21, die := dieOf w.id.core, unit := w.id.core, ctx := w.ctxid.toNat, object := i.object.toNat
    generation := i.generation.toNat, offset := i.linear.getD i.place.toNat % 2 ^ 48 }

/-- Taking a fault: in user mode the stream is vectored (R250); in supervisor mode the weave ends and an error record goes
to the supervisor (R253). -/
def State.vector (s : State) (id : WeaveId) (st : Strand) (i : FaultInfo) : State :=
  match s.weave? id with
  | none => s
  | some w =>
    match w.mode st with
    | .supervisor => (s.stopWeave id).sendError w.partition (doubleFault w i)
    | .user => (s.enter id st (.fault i.cause) i).onWeave id fun w => w.setFltm st i.faulters

/-- Return from an exception (R252, R356): none where the record makes RTE fault. -/
def State.returnFrom (s : State) (w : Weave) (st : Strand) : Except Cause State :=
  let at' := w.recordAt (Strand.number st)
  let cause := s.sramRead w.id.core at' 1
  let pc := BitVec.ofNat 32 (s.sramRead w.id.core (at' + 4) 4)
  if cause = 0x00 || cause = 0xFF then .error .illegal
  else if pc.getLsbD 0 then .error .align
  else
    let mask : LaneMask := BitVec.ofNat 96 (s.sramRead w.id.core (at' + 0x2C) 12)
    .ok (s.onWeave w.id fun w =>
      let w1 := (w.setMode st .user).setPc st pc
      match st with
      | .a => w1
      | .c e => let x := w1.entry e
                w1.setEntry e { x with mask := mask &&& x.owned })

/-! ### Waits, stalls and refusals -/

/-- The acting strand waits at its instruction (R44). -/
def State.startWait (s : State) (on : WaitOn) : State :=
  let r : WaitRec := ⟨on, s.time, s.cur.pc, s.time⟩
  s.onMe fun w =>
    let w1 := w.setPc s.cur.strand s.cur.pc
    match s.cur.strand with
    | .a => { w1 with aWait := some r }
    | .c e => let x := w1.entry e
              w1.setEntry e { x with kind := .waiting, wait := some r }

/-- The home refused a line with RETRY: the strand reissues no sooner than 32 cc later (R151, R176). -/
def State.refuse (s : State) (line : Nat) : State :=
  let same := fun (r : RetryRec) => r.weave = s.cur.weave && r.strand = s.cur.strand
  let since := ((s.retries.find? fun r => same r && r.line = line).map (·.since)).getD s.time
  { (s.onCore s.cur.weave.core fun k => { k with retryCount := k.retryCount + 1 }) with
    retries := ⟨s.cur.weave.core, s.cur.weave, s.cur.strand, line, since, s.time, false⟩ ::
      s.retries.filter fun r => !same r }

/-- A refusal by a line's home after an earlier one: the line, the time of the first refusal for it, and that of this one (R176, R177). -/
def refusedAgain (old : Option (Nat × Nat × Nat)) (line time : Nat) : Nat × Nat × Nat :=
  (line, (match old with
    | some (l, t, _) => if l = line then t else time
    | none => time), time)

/-- The home refused the line of an access that was left for later: it asks again no sooner than 32 cc later (R151, R176). -/
def State.refusePending (s : State) (id line : Nat) : State :=
  { (s.onCore s.cur.weave.core fun k => { k with retryCount := k.retryCount + 1 }) with
    pending := s.pending.map fun (p : Pending) => if p.id = id then { p with refused := some (refusedAgain p.refused line s.time) } else p }

/-- A holder that waits for a line's fill (R151). -/
def State.joinFill (s : State) (h : Holder) (line : Nat) (early : Bool) : State :=
  { s with fills := s.fills.map fun (f : SliceFill) =>
    if f.line = line then { f with waiters := f.waiters ++ [(h, early)] } else f }

/-- A core hashes under the newest slice map of a die from now on (R152). -/
def State.adoptMap (s : State) (core die : Nat) : State :=
  s.onCore core fun k => { k with remapCount := k.remapCount + 1, mapsSeen := k.mapsSeen.setIfInBounds die (s.sliceMap die).generation }

/-- The strand is refused no longer. -/
def State.clearRefusal (s : State) : State :=
  { s with retries := s.retries.filter fun r => !(r.weave = s.cur.weave && r.strand = s.cur.strand) }

/-! ### Results in flight (R63) -/

/-- A destination with its scalar registers as the issuing stream's mode names them (R251). -/
def Dest.resolve (w : Weave) (st : Strand) : Dest → Dest
  | .scal d x => .scal (w.physical st d) x
  | .scal2 d e x y => .scal2 (w.physical st d) (w.physical st e) x y
  | .coord d op => .coord (w.physical st d) op
  | d => d

/-- A result that will return to a destination; its timeout runs from the issue (R158). -/
def State.fly (s : State) (info : FaultInfo) (dest : Dest) (lanesAt : List (Option Nat)) (bad : LaneMask) (certain : Bool) : State :=
  let to' := match s.cur.moment with
    | .due _ _ w => dest.resolve w s.cur.strand
    | _ => ((s.weave? s.cur.weave).map fun w => dest.resolve w s.cur.strand).getD dest
  let since := match s.cur.moment with
    | .due _ t _ => t
    | _ => s.time
  { s with
    flights := s.flights ++ [⟨s.nextId, s.cur.weave, s.cur.strand, info, to', lanesAt, bad, 0, certain, since⟩]
    nextId := s.nextId + 1 }

/-- A flight taken away, with the access that awaits its acceptance (R362). -/
def State.dropFlight (s : State) (id : Nat) : State :=
  { s with flights := s.flights.filter fun f => f.id ≠ id, pending := s.pending.filter fun p => p.id ≠ id }

/-- The scalar registers, as `physical` names them, and the lane registers that a result in flight will write. -/
def Dest.scalars : Dest → List Nat
  | .scal d _ => [d]
  | .scal2 d e .. => [d, e]
  | .coord d _ => [d]
  | _ => []
def Dest.lanes' : Dest → List Nat
  | .lanes d _ _ => [d]
  | .array d _ => [d]
  | _ => []

/-- Whether a register is one of EM0 to EM2, s29 to s31 of the C-stream (R62). -/
def isMask (st : Stream) (n : Nat) : Bool := st = .c && decide (29 ≤ n) && decide (n ≤ 31)

/-- The scalar and lane registers that an access left for later will write. -/
def Pending.dests (p : Pending) : List Nat × List Nat :=
  let ops := p.instr.leaves.getD []
  (ops.filterMap fun o => match o with
    | .scal n => if n = 0 then none else some (p.weave.physical p.issuer.strand n)
    | _ => none,
   ops.filterMap fun o => match o with
    | .lane n => some n
    | _ => none)

/-- Whether a result other than flight n's that will write EM0 to EM2 is still on its way to a fragment: what ends the fragment's mask as
it stands, a parking or a vectoring, comes after it (R42, R64). -/
def State.maskFlies (s : State) (id : WeaveId) (st : Strand) (n : Option Nat) : Bool :=
  (s.flights.any fun f => f.weave = id && f.strand = st && decide (some f.id ≠ n) && f.dest.scalars.any (isMask st.stream)) ||
    s.pending.any fun p => p.issuer.weave = id && p.issuer.strand = st && decide (some p.id ≠ n) && p.dests.1.any (isMask st.stream)

/-! ### Data that fail (R56, R158, R257, R261) -/

/-- The strand that a failure reaches: the issuer, or, when the issuing fragment is gone, the fragment that owns one of the
lanes; none when no fragment does. -/
def Weave.strandOf (w : Weave) (f : Flight) (m : LaneMask) : Option Strand :=
  match f.strand with
  | .a => some .a
  | .c e =>
    if (w.entry e).isFragment && ((w.entry e).owned &&& m ≠ 0 || m = 0) then some (.c e)
    else ((List.range 128).find? fun k => (w.entry k).isFragment && (w.entry k).owned &&& m ≠ 0).map .c

/-- The faulters' mask of a data failure (R110): that of a scalar form, else the lanes that failed. -/
def Flight.failMask (f : Flight) (m : LaneMask) : LaneMask :=
  match f.dest with
  | .scal .. | .scal2 .. | .coord .. => f.info.faulters
  | .accept mask => mask.getD m
  | _ => m

/-- The record of a data failure: of an LDQ or GTHQ, with the index of the entry that stays reserved (R56). -/
def Weave.failInfo (w : Weave) (f : Flight) (c : Cause) (m : LaneMask) : FaultInfo :=
  let port := match f.dest with
    | .queue q ticket _ => (w.queue q).indexOf ticket
    | _ => 0
  { f.info with cause := c, faulters := f.failMask m, port := BitVec.ofNat 8 port }

/-- The entry of a failed LDQ or GTHQ may be filled again by the instruction at its PC (R56). -/
def Weave.keepEntry (w : Weave) (f : Flight) : Weave :=
  match f.dest with
  | .queue q ticket _ => w.onQueue q fun u => u.onEntry ticket fun e => { e with refill := some f.info.pc }
  | _ => w

/-- A pending fault of a strand, kept unless one is pending already (R261). -/
def Weave.keepPending (w : Weave) (st : Strand) (i : FaultInfo) : Weave :=
  match st with
  | .a => { w with aPend := w.aPend.or (some i) }
  | .c e => { w with cPend := w.cPend.or (some (e, i)) }

/-- Whether a failure is recorded and not vectored: it arrives while the crew halts, has halted or saves (R261). -/
def State.pends (s : State) (w : Weave) : Bool :=
  (s.crew? w.crew).any fun c => c.state = .halting || c.state = .halted || c.state = .saving

/-- A flight with the queue entry that its data were to fill, where its access has not been performed (R56). -/
def State.destined (s : State) (f : Flight) : Flight :=
  match (s.pending.find? fun p => p.id = f.id).bind (·.slot) with
  | some (q, ticket) => { f with dest := .queue q ticket LaneReg.zero }
  | none => f

/-- Whether a failure waits for another result: one that writes the mask under which its fragment would be vectored (R64, R248). -/
def State.faultHeld (s : State) (f : Flight) (m : LaneMask) : Bool :=
  ((s.weave? f.weave).bind fun w => w.strandOf f m).any fun st => s.maskFlies f.weave st (some f.id)

/-- A failure that arrives with the data: the stream is vectored, or the fault is kept pending (R158, R257, R261); in a weave that has
been ended it reaches nothing (R252, R253). -/
def State.dataFault (s : State) (f0 : Flight) (c : Cause) (m : LaneMask) : State :=
  let f := s.destined f0
  match s.weave? f.weave with
  | none => s
  | some w =>
    let t := (s.dropFlight f.id).onWeave w.id fun x => x.keepEntry f
    match (if w.stopped then none else w.strandOf f m) with
    | none => t
    | some st =>
      let i := w.failInfo f c m
      if s.pends w then t.onWeave w.id fun x => x.keepPending st i
      else
        let u := match st with
          | .a => t.onWeave w.id fun x => { x with aEnded := false }
          | .c _ => t
        u.vector w.id st i

/-! ### The checks before an instruction acts (R105 steps 6 to 9) -/

/-- The attributes of the acting access: its prefix's, else MDEF's (R98). -/
def State.attrs? (s : State) (i : Instr) (w : Weave) : Option Attrs :=
  match s.cur.attrs with
  | some a => some a
  | none => i.mdefAttrs (w.mdef s.cur.strand)

/-- Whether the codes of the prefix, or of MDEF, suit the instruction (R96 to R98, R181). -/
def State.codesSuit (s : State) (i : Instr) (w : Weave) : Bool :=
  match s.cur.attrs with
  | some a => i.acceptsPrefix a
  | none =>
    match i with
    | .waitv .. => (waitvAttrs i (w.mdef s.cur.strand)).isSome
    | _ => i.accessClass.isNone || (i.mdefAttrs (w.mdef s.cur.strand)).isSome

/-- The first check of steps 6 to 9 of R105 that the instruction fails. -/
def State.decodeFault (s : State) (i : Instr) (w : Weave) : Option Cause :=
  let st := s.cur.strand.stream
  if !i.streams.allows st then some .stream
  else if i.supervisorOnly && w.mode s.cur.strand = .user then some .priv
  else if !i.wellFormed st || !s.codesSuit i w then some .illegal
  else if !(i.operands st).all (Opnd.inBound w.nregs) then some .regBound
  else none

/-- The instructions that a weave's streams have issued (R350). -/
def Weave.countIssue (w : Weave) : Strand → Weave
  | .a => { w with aIssued := w.aIssued + 1 }
  | .c _ => { w with cIssued := w.cIssued + 1 }

/-- What an instruction does, once it has passed its checks: the weave as it stood at issue, and a state whose PC has moved
past the instruction. -/
abbrev Body := Weave → State → Except Stop State

/-- The fault of an instruction that fails a check of decoding, or a check of its own that names no object (R105, R248). -/
def State.infoOf (s : State) (i : Instr) (w : Weave) (c : Cause) (access : Nat) : FaultInfo :=
  { s.info w c access with engine := i.engineKind }

/-- What the home's answer leaves where an access is to be tried again: the cluster's own L copy has ended (R176), the cluster waits for
a fill (R151), or the core has taken the newest slice map (R152). -/
def State.answered (s : State) : Stop → State
  | .retry line own => if own then s.endL (clusterOf s.cur.weave.core) line else s
  | .join h line early => s.joinFill h line early
  | .remap core die => s.adoptMap core die
  | _ => s

/-- What becomes of an instruction that stops (R246, R44, R63). -/
def State.stopped (s : State) : Stop → State
  | .fault i => s.vector s.cur.weave s.cur.strand i
  | .expired i ks =>
    (s.onViews s.cur.weave fun v => ks.foldl (fun u k =>
      u.setIfInBounds k { (u[k]?).getD default with expired := true, dead := true }) v).vector s.cur.weave s.cur.strand i
  | .wait on => s.startWait on
  | .retry line own => (s.answered (.retry line own)).refuse line
  | e => s.answered e

/-- The state in which an instruction's effect begins: the strand's PC has moved past it (R13), its issue is counted (R350),
and no refusal of it stands. -/
def State.issued (s : State) : State :=
  (s.onMe fun w => (w.setPc s.cur.strand (s.cur.pc + BitVec.ofNat 32 s.cur.bytes)).countIssue s.cur.strand).clearRefusal

/-- An access left to be performed later, under a number of its own, with the queue entry that its data will fill (R162; log 6); one to
far memory is a request on its way, whose flight has the same number (R362, R158). -/
def State.leave (s : State) (i : Instr) (w : Weave) (q : Req) (slot : Option (Nat × Nat) := none) : State :=
  let g := s.agentOf w s.cur.strand
  let t := if s.reqFar g q then s.fly q.info (.accept q.mask) (s.reqAddresses g q) 0 false else { s with nextId := s.nextId + 1 }
  { t with pending := s.pending ++ [⟨s.nextId, s.time, s.cur, w, i, q, none, slot⟩] }

/-- The queue entry that the access whose turn it is fills. -/
def State.slot (s : State) : Option (Nat × Nat) :=
  match s.cur.moment with
  | .due id _ _ => (s.pending.find? fun p => p.id = id).bind (·.slot)
  | _ => none

/-- What becomes of an access that does not complete at its turn: it is tried again, unless it fails as data do (R158, R257). -/
def State.undone (s : State) (id since : Nat) : Stop → State
  | .fault i =>
    let f : Flight := ⟨id, s.cur.weave, s.cur.strand, i, .lanes 0 i.faulters LaneReg.zero, [], 0, 0, false, since⟩
    if s.faultHeld f i.faulters then s else s.dataFault f i.cause i.faulters
  | .retry line own => (s.answered (.retry line own)).refusePending id line
  | e => s.answered e

/-- An instruction of the acting strand: its checks, then its effect; a stop takes the place of the effect. At the turn of an access
that was left for later its effect alone, with the weave as it stood at the issue. -/
def run (i : Instr) (s : State) (body : Body) : Host.Outcome State Fault Refusal :=
  match s.weave? s.cur.weave with
  | none => .fault .noIssuer
  | some w =>
    match s.cur.moment with
    | .due id since v =>
      match body v s with
      | .ok u => .next (u.dropFlight id)
      | .error e => .next (s.undone id since e)
    | _ =>
      match s.decodeFault i w with
      | some c => .next (s.vector s.cur.weave s.cur.strand (s.infoOf i w c accOther))
      | none =>
        match body w s.issued with
        | .ok u => .next u
        | .error (.postpone q) => .next (s.issued.leave i w q)
        | .error e => .next (s.stopped e)

/-- A body that faults. -/
def failing (s : State) (w : Weave) (c : Cause) (access : Nat) : Except Stop State := .error (.fault (s.info w c access))

/-- A body that writes one scalar register. -/
def writeScal (s : State) (d : RegField) (x : DWord) : Except Stop State :=
  .ok (s.onMe fun w => w.setScal s.cur.strand d.toNat x)

/-- A body whose result returns to one scalar register as a load's does (R63). -/
def flyScal (w : Weave) (s : State) (d : RegField) (x : DWord) : Except Stop State :=
  .ok (s.fly (s.info w .illegal accOther) (.scal d.toNat x) [] 0 true)

/-- What a request asks that names no lanes: the access of an instruction that is answered when it arrives. -/
def bareReq (w : Weave) (s : State) : Req := ⟨.obj, 0, 1, .read, [], none, none, s.info w .illegal accOther⟩

/-- A body answered when its request arrives, which may be at a later turn (R133, R308). -/
def whenArrived (w : Weave) (s : State) (x : Except Stop State) : Except Stop State :=
  if s.cur.moment = .later then .error (.postpone (bareReq w s)) else x

/-- A body that writes one lane register in the lanes of ACT (R50). -/
def writeLanes (w : Weave) (s : State) (d : Nat) (f : Nat → Word) : Except Stop State :=
  .ok (s.onMe fun x => x.setLanes d (w.act s.cur.strand) f)

/-- A body that writes one predicate in the lanes of ACT (R50). -/
def writePred (w : Weave) (s : State) (k : Nat) (p : Nat → Bool) : Except Stop State :=
  .ok (s.onMe fun x => x.setPred k (w.act s.cur.strand) (maskOf p))

/-- A body that moves the strand to a PC. -/
def jump (s : State) (pc : BitVec 32) : Except Stop State := .ok (s.onMe fun w => w.setPc s.cur.strand pc)

/-- The value of a scalar register of the acting strand. -/
def reg (w : Weave) (s : State) (n : RegField) : DWord := w.scal s.cur.strand n.toNat

end Sys2Proof.Machine
end

