-- ==== Sys2Proof/Machine/Flags.lean ====
section
/-! DEFINITION. Conditions and the modes that arithmetic captures: the conditions of BCC (R290), the fields of FPCTL (R62),
and the lanes' generators (R73). -/

namespace Sys2Proof.Machine

/-- A condition of BCC on two scalar values (R290, conditions 0 to 5). -/
def scalarCond (c : Nat) (x y : DWord) : Bool :=
  match c with
  | 0 => x == y
  | 1 => x != y
  | 2 => x.slt y
  | 3 => !x.slt y
  | 4 => x.ult y
  | _ => !x.ult y

/-- Whether some lane, or every lane, of a mask holds a predicate (R290, R379). -/
def anyLane (m p : LaneMask) : Bool := m &&& p ≠ 0
def allLanes (m p : LaneMask) : Bool := m &&& ~~~p = 0


/-- The rounding modes of FPCTL (R62, R72). -/
inductive Rounding where
  | rne | rtz | rup | rdn | stochastic
deriving DecidableEq, Repr, Inhabited

/-- The mode that an instruction captures at issue (R75). -/
structure FpMode where
  round : Rounding
  ftz : Bool
  daz : Bool
deriving DecidableEq, Repr, Inhabited

/-- The rounding mode that FPCTL[2:0] names; 5 to 7 are never held (R62). -/
def Rounding.ofCode (c : Nat) : Rounding :=
  match c with
  | 0 => .rne
  | 1 => .rtz
  | 2 => .rup
  | 3 => .rdn
  | _ => .stochastic

/-- FPCTL as a mode. -/
def fpMode (fpctl : DWord) : FpMode :=
  ⟨Rounding.ofCode (bits fpctl.toNat 0 3), fpctl.getLsbD 3, fpctl.getLsbD 4⟩

/-- The generator states that a seed gives a weave's lanes (R73). -/
def seedGens (seed : BitVec 32) (slot : Nat) : Vector Word 96 :=
  Vector.ofFn fun l =>
    let g : Word := seed ^^^ BitVec.ofNat 32 ((slot * 96 + l.val + 1) * 0x9E3779B9)
    if g = 0 then 1 else g

/-- One advance of a generator (R73). -/
def nextGen (g : Word) : Word :=
  let g1 := g ^^^ (g <<< 13)
  let g2 := g1 ^^^ (g1 >>> 17)
  g2 ^^^ (g2 <<< 5)

/-- The 16 bits drawn from an advanced generator (R73). -/
def drawn (g : Word) : Nat := g.toNat / 65536

end Sys2Proof.Machine
end

