-- ==== Sys2Proof/Machine/Scalar.lean ====
section
/-! DEFINITION. The scalar and uniform members: majors 1 to 5 (R279, R280, R318, R343, R351, R353, R360, R317). -/

namespace Sys2Proof.Machine

/-- A member of major 1: d takes a function of a and b (R279). -/
def salu (i : Instr) (b a d : RegField) (s : State) (f : DWord → DWord → DWord) : Host.Outcome State Fault Refusal :=
  run i s fun w t => writeScal t d (f (reg w t a) (reg w t b))

/-- A member of major 2: d takes a function of a (R280). -/
def salui (i : Instr) (a d : RegField) (s : State) (f : DWord → DWord) : Host.Outcome State Fault Refusal :=
  run i s fun w t => writeScal t d (f (reg w t a))

/-- Bits 127:64 of the signed product (R279). -/
def mulHigh (x y : DWord) : DWord := (x.signExtend 128 * y.signExtend 128).extractLsb' 64 64

/-- Unsigned quotient and remainder; a divisor of zero gives all ones and the dividend (R86). -/
def divU (x y : DWord) : DWord := if y = 0 then BitVec.allOnes 64 else x / y
def remU (x y : DWord) : DWord := if y = 0 then x else x % y

/-- Shifts of w bits by an amount that is never reduced (R87). -/
def shiftL {n : Nat} (x : BitVec n) (k : Nat) : BitVec n := if n ≤ k then 0 else x <<< k
def shiftR {n : Nat} (x : BitVec n) (k : Nat) : BitVec n := if n ≤ k then 0 else x >>> k
def shiftA {n : Nat} (x : BitVec n) (k : Nat) : BitVec n := x.sshiftRight (Nat.min k (n - 1))

/-- 1 or 0. -/
def truth (b : Bool) : DWord := if b then 1 else 0

def execAdd (b a d : RegField) (s : State) := salu (.add b a d) b a d s (· + ·)
def execSub (b a d : RegField) (s : State) := salu (.sub b a d) b a d s (· - ·)
def execMul (b a d : RegField) (s : State) := salu (.mul b a d) b a d s (· * ·)
def execMulh (b a d : RegField) (s : State) := salu (.mulh b a d) b a d s mulHigh
def execDivu (b a d : RegField) (s : State) := salu (.divu b a d) b a d s divU
def execRemu (b a d : RegField) (s : State) := salu (.remu b a d) b a d s remU
def execAnd (b a d : RegField) (s : State) := salu (.and b a d) b a d s (· &&& ·)
def execOr (b a d : RegField) (s : State) := salu (.or b a d) b a d s (· ||| ·)
def execXor (b a d : RegField) (s : State) := salu (.xor b a d) b a d s (· ^^^ ·)
def execShl (b a d : RegField) (s : State) := salu (.shl b a d) b a d s fun x y => shiftL x y.toNat
def execShr (b a d : RegField) (s : State) := salu (.shr b a d) b a d s fun x y => shiftR x y.toNat
def execSar (b a d : RegField) (s : State) := salu (.sar b a d) b a d s fun x y => shiftA x y.toNat
def execSlt (b a d : RegField) (s : State) := salu (.slt b a d) b a d s fun x y => truth (x.slt y)
def execSltu (b a d : RegField) (s : State) := salu (.sltu b a d) b a d s fun x y => truth (x.ult y)
def execMin (b a d : RegField) (s : State) := salu (.min b a d) b a d s fun x y => if x.slt y then x else y
def execMax (b a d : RegField) (s : State) := salu (.max b a d) b a d s fun x y => if x.slt y then y else x

def execAddi (i : BitVec 10) (a d : RegField) (s : State) := salui (.addi i a d) a d s (· + sext64 i)
def execAndi (i : BitVec 10) (a d : RegField) (s : State) := salui (.andi i a d) a d s (· &&& sext64 i)
def execOri (i : BitVec 10) (a d : RegField) (s : State) := salui (.ori i a d) a d s (· ||| sext64 i)
def execXori (i : BitVec 10) (a d : RegField) (s : State) := salui (.xori i a d) a d s (· ^^^ sext64 i)
def execShli (i : BitVec 10) (a d : RegField) (s : State) := salui (.shli i a d) a d s (shiftL · i.toNat)
def execShri (i : BitVec 10) (a d : RegField) (s : State) := salui (.shri i a d) a d s (shiftR · i.toNat)
def execSari (i : BitVec 10) (a d : RegField) (s : State) := salui (.sari i a d) a d s (shiftA · i.toNat)
def execSlti (i : BitVec 10) (a d : RegField) (s : State) := salui (.slti i a d) a d s fun x => truth (x.slt (sext64 i))

def execClz (a d : RegField) (s : State) :=
  salui (.clz a d) a d s fun x => BitVec.ofNat 64 (leadingZeros 64 x.toNat)
def execPopc (a d : RegField) (s : State) :=
  salui (.popc a d) a d s fun x => BitVec.ofNat 64 (popBits 64 x.toNat)

/-- SEL reads d as a source (R360). -/
def execSel (b a d : RegField) (s : State) :=
  run (.sel b a d) s fun w t => writeScal t d (if reg w t d ≠ 0 then reg w t a else reg w t b)

def execMovi (i : BitVec 20) (d : RegField) (s : State) :=
  run (.movi i d) s fun _ t => writeScal t d (sext64 i)

/-- MOVK replaces one halfword of d (R343). -/
def insertHalf (x : DWord) (p : Nat) (v : BitVec 16) : DWord :=
  (x &&& ~~~((0xFFFF : DWord) <<< (16 * p))) ||| (v.setWidth 64 <<< (16 * p))

def execMovk (p : BitVec 2) (v : BitVec 16) (d : RegField) (s : State) :=
  run (.movk p v d) s fun w t => writeScal t d (insertHalf (reg w t d) p.toNat v)

/-- CLOCK reads TIME or the monitor window (R317). -/
def execClock (sel d : RegField) (s : State) :=
  run (.clock sel d) s fun _ t =>
    writeScal t d (BitVec.ofNat 64 (if sel = 0 then t.time else t.time / Config.windowCycles))

/-- The value of a PGQ selector (R23); none above 17. -/
def groupValue (w : Weave) (c : Crew) (l : Launch) (sel : Nat) : Option DWord :=
  match sel with
  | 0 => some (BitVec.ofNat 64 w.index)
  | 1 => some (BitVec.ofNat 64 c.size)
  | 2 => some (BitVec.ofNat 64 c.index)
  | 3 => some (BitVec.ofNat 64 l.share)
  | 4 => some (BitVec.ofNat 64 l.first)
  | 5 => some (BitVec.ofNat 64 l.record.grid)
  | 6 => some (BitVec.ofNat 64 l.rank)
  | 7 => some (BitVec.ofNat 64 l.span)
  | 8 => some (BitVec.ofNat 64 l.record.stage)
  | 9 => some (BitVec.ofNat 64 c.gangSize)
  | 10 => some (BitVec.ofNat 64 w.id.core)
  | 11 => some (BitVec.ofNat 64 (dieOf w.id.core))
  | n => if n ≤ 17 then some (l.neighbours.getD (n - 12) (BitVec.allOnes 64)) else none

/-- The value of a PGQ selector for a resident weave. -/
def State.groupQuery (s : State) (w : Weave) (sel : Nat) : Option DWord :=
  match s.crew? w.crew with
  | none => none
  | some c =>
    match s.launches.find? fun l => l.id = c.launch with
    | none => none
    | some l => groupValue w c l sel

def execPgq (a d : RegField) (s : State) :=
  run (.pgq a d) s fun w t =>
    match t.groupQuery w (reg w t a).toNat with
    | some v => writeScal t d v
    | none => failing t w .illegal accOther

end Sys2Proof.Machine
end

