-- ==== Sys2Proof/Machine/Control.lean ====
section
/-! DEFINITION. Control flow: majors 6 to 9 (R289, R290, R301, R304 to R306, R311, R320, R332, R333, R354, R356, R367, R379,
R383, R384) and divergence (R39 to R41). -/

namespace Sys2Proof.Machine

/-! ### The split table -/

/-- Whether the C-stream has ended: no fragment remains (R41). -/
def Weave.cEnded (w : Weave) : Bool := !(w.split.toList.any SplitEntry.isFragment)

/-- The lowest free entry (R40). -/
def Weave.freeEntry (w : Weave) : Option Nat := w.split.toList.findIdx? fun x => x.kind = .free

/-- The join entries on a link chain, nearest first (R41). -/
def Weave.chain (w : Weave) : (fuel : Nat) → Option Nat → List Nat
  | 0, _ => []
  | _, none => []
  | fuel + 1, some j => j :: w.chain fuel (w.entry j).link

/-- The fragments parked on a join entry, by entry number. -/
def Weave.parkedOn (w : Weave) (j : Nat) : List Nat :=
  (List.range 128).filter fun e => (w.entry e).kind = .parked && (w.entry e).link = some j

/-- Fusion at a join entry, when the owned lanes of the fragments parked there are those it expects (R41). The fused
fragment takes the lowest entry of those parked. -/
def Weave.fuse (w : Weave) (j : Nat) : Weave :=
  let x := w.entry j
  let es := w.parkedOn j
  let owned := es.foldl (fun m e => m ||| (w.entry e).owned) 0
  let mask := es.foldl (fun m e => m ||| (w.entry e).mask) 0
  if x.kind ≠ .join || owned ≠ x.owned then w
  else
    let w1 := es.foldl (fun (u : Weave) e => u.setEntry e SplitEntry.empty) (w.setEntry j SplitEntry.empty)
    match es with
    | [] => w1
    | e0 :: _ => w1.setEntry e0 ⟨.ready, x.addr, owned, mask, x.link, none, false⟩

/-- A fragment parks on its current join entry, and fusion follows where it can (R41). -/
def Weave.park (w : Weave) (e : Nat) : Weave :=
  let x := w.entry e
  match x.link with
  | none => w
  | some j => (w.setEntry e { x with kind := .parked }).fuse j

/-- The exit of a fragment's active lanes (R41, R320). -/
def Weave.exitLanes (w : Weave) (e : Nat) (pc : BitVec 32) : Weave :=
  let x := w.entry e
  let out := x.mask
  let js := w.chain 128 x.link
  let owned := x.owned &&& ~~~out
  let w1 := js.foldl (fun (u : Weave) j => u.setEntry j { u.entry j with owned := (u.entry j).owned &&& ~~~out }) w
  let w2 :=
    if owned = 0 then w1.setEntry e SplitEntry.empty
    else if x.link.isSome then w1.setEntry e { x with kind := .parked, owned, mask := 0 }
    else w1.setEntry e { x with owned, mask := 0, addr := pc, done := true }
  js.foldl (fun (u : Weave) j => u.fuse j) w2

/-! ### Branches -/

def execBra (o : BitVec 26) (s : State) :=
  run (.bra o) s fun _ t => jump t (branchTarget t.cur.pc o)

/-- The register that holds the link (R101). -/
def linkReg : Stream → Nat
  | .a => 63
  | .c => 28

def execCall (o : BitVec 26) (s : State) :=
  run (.call o) s fun _ t =>
    jump (t.onMe fun x => x.setScal t.cur.strand (linkReg t.cur.strand.stream) (t.cur.pc + 4).toNat) (branchTarget t.cur.pc o)

def execBcc (o : BitVec 11) (c : BitVec 3) (b a : RegField) (s : State) :=
  run (.bcc o c b a) s fun w t =>
    let act := w.act t.cur.strand
    let take :=
      if c.toNat < 6 then scalarCond c.toNat (reg w t a) (reg w t b)
      else if c = 6 then anyLane act (w.pred a.toNat)
      else allLanes act (w.pred a.toNat)
    if take then jump t (branchTarget t.cur.pc o) else .ok t

/-- A jump to an address in a register: odd addresses fault ALIGN, and addresses past 32 bits OBJ_BOUND (R354, R332). -/
def jumpTo (w : Weave) (t u : State) (x : DWord) : Except Stop State :=
  if x.getLsbD 0 then failing t w .align accOther
  else if 2 ^ 32 ≤ x.toNat then failing t w .objBound accFetch
  else jump u (x.setWidth 32)

def execRet (s : State) :=
  run .ret s fun w t => jumpTo w t t (w.scal t.cur.strand (linkReg t.cur.strand.stream))

def execJmpr (a d : RegField) (s : State) :=
  run (.jmpr a d) s fun w t =>
    jumpTo w t (t.onMe fun x => x.setScal t.cur.strand d.toNat (t.cur.pc + 4).toNat) (reg w t a)

def execNop (s : State) := run .nop s fun _ t => .ok t

/-! ### Divergence -/

/-- The lanes of ACT for which BRV's sense of a predicate holds (R306). -/
def branchLanes (w : Weave) (st : Strand) (sense : BitVec 1) (p : BitVec 3) : LaneMask :=
  if sense = 0 then w.act st &&& w.pred p.toNat else w.act st &&& ~~~(w.pred p.toNat)

/-- A split (R39, R306): the taken lanes keep the entry, the others take a new one, and the taken fragment issues first. -/
def Weave.splitAt (w : Weave) (e f : Nat) (taken : LaneMask) (target fall : BitVec 32) : Weave :=
  let x := w.entry e
  let w1 := w.setEntry f ⟨.ready, fall, x.owned &&& ~~~taken, x.mask &&& ~~~taken, x.link, none, false⟩
  { w1.setEntry e { x with addr := target, mask := taken, owned := taken } with takenFirst := some e }

def execBrv (o : BitVec 14) (sense : BitVec 1) (p : BitVec 3) (s : State) :=
  run (.brv o sense p) s fun w t =>
    let act := w.act t.cur.strand
    let taken := branchLanes w t.cur.strand sense p
    let target := branchTarget t.cur.pc o
    if taken = act && act ≠ 0 then jump t target
    else if taken = 0 then .ok t
    else
      match w.freeEntry with
      | none => failing t w .illegal accOther
      | some f => .ok (t.onMe fun x => x.splitAt t.cur.strand.entry f taken target (t.cur.pc + 4))

/-- A new join entry becomes the fragment's current join (R41, R333); whether it was made in supervisor mode says which code object its
address lies in. -/
def Weave.addJoin (w : Weave) (e j : Nat) (addr : BitVec 32) : Weave :=
  let x := w.entry e
  let bit : BitVec 128 := 1 <<< j
  { (w.setEntry j ⟨.join, addr, x.owned, 0, x.link, none, false⟩).setEntry e { x with link := some j } with
    supJoins := if w.cMode = .supervisor then w.supJoins ||| bit else w.supJoins &&& ~~~bit }

def execJoin (o : BitVec 18) (s : State) :=
  run (.join o) s fun w t =>
    match w.freeEntry with
    | none => failing t w .illegal accOther
    | some j => .ok (t.onMe fun x => x.addJoin t.cur.strand.entry j (branchTarget t.cur.pc o))

/-- The results of VOTE's kinds (R379). -/
def voteValue (k : Nat) (act p : LaneMask) : DWord :=
  match k with
  | 0 => truth (anyLane act p)
  | 1 => truth (allLanes act p)
  | 2 => BitVec.ofNat 64 (lanesOf (act &&& p)).length
  | _ => truth (allLanes act p || !anyLane act p)

def execVote (k p : BitVec 3) (d : RegField) (s : State) :=
  run (.vote k p d) s fun w t => writeScal t d (voteValue k.toNat (w.act t.cur.strand) (w.pred p.toNat))

/-! ### The end of a stream -/

def execExit (s : State) :=
  run .exit s fun w t =>
    match w.mode t.cur.strand, t.cur.strand with
    | .supervisor, _ => .ok (t.stopWeave w.id)
    | .user, .a => .ok (t.onMe fun x => { x with aEnded := true })
    | .user, .c e => .ok (t.onMe fun x => x.exitLanes e t.cur.pc)

/-! ### Traps and returns -/

/-- A program-class fault: its record PC and the code in its generation field (R367, R304). -/
def trapInfo (w : Weave) (s : State) (pc : BitVec 32) (code : Nat) : FaultInfo :=
  { s.info w .trap accOther with pc, generation := BitVec.ofNat 32 code }

def execTrap (c : BitVec 12) (s : State) :=
  run (.trap c) s fun w t => .error (.fault (trapInfo w t (t.cur.pc + 4) c.toNat))

def execBrk (s : State) :=
  run .brk s fun w t => .error (.fault (trapInfo w t t.cur.pc 0x1000))

def execRte (s : State) :=
  run .rte s fun w t =>
    match t.returnFrom w t.cur.strand with
    | .ok u => .ok u
    | .error c => failing t w c accOther

/-! ### Waits on completion objects -/

/-- The check of a 32-byte object in the crew's scratchpad (R383, R239): the fault, if any. -/
def State.objectFault (s : State) (w : Weave) (st : Strand) (locator : Nat) : Option Cause :=
  if !(s.agentOf w st).reserved locator 32 then some .objBound
  else if locator % 32 ≠ 0 then some .align
  else none

/-- The phase of the completion or barrier object at an absolute address of a core's SRAM (R215, R285). -/
def State.phaseAt (s : State) (core a : Nat) : Bool := (s.sramByte core a).getLsbD 0

/-- The scope of the release that flipped an object last (R170); core scope where no engine or array has flipped it. -/
def State.flipScope (s : State) (core a : Nat) : Scope :=
  ((s.flipScopes.find? fun x => x.1 = s.objectKey core a).map (·.2)).getD .co

/-- The completion of a WAIT or YIELD: an acquire of the scope of the flip, and the strand moves on (R170, R383, R384). -/
def State.completeWait (s : State) (core a : Nat) (target : BitVec 32) : Except Stop State :=
  jump (s.acquire core (s.flipScope core a)) target

/-- WAIT and YIELD: the locator and the phase of register d, what phase is wanted, and where the strand continues. -/
def waitOn (i : Instr) (d : RegField) (s : State) (wants : Bool → Bool) (target : BitVec 32 → BitVec 32) :
    Host.Outcome State Fault Refusal :=
  run i s fun w t =>
    let v := (reg w t d).toNat
    let locator := bits v 0 20
    match t.objectFault w t.cur.strand locator with
    | some c => .error (.fault { t.info w c accOther with place := BitVec.ofNat 128 locator })
    | none =>
      let at' := (t.agentOf w t.cur.strand).spad locator
      let want := wants (bitAt v 32)
      if t.phaseAt w.id.core at' = want then
        if t.fenceHeld w.partition w.id.core (t.flipScope w.id.core at') then .error .stall
        else t.completeWait w.id.core at' (target t.cur.pc)
      else .error (.wait (.completion at' want (target t.cur.pc)))

def execWait (d : RegField) (s : State) := waitOn (.wait d) d s id (· + 4)

def execYield (o : BitVec 12) (d : RegField) (s : State) := waitOn (.yield o d) d s (!·) (branchTarget · o)

end Sys2Proof.Machine
end

