-- ==== Sys2Proof/Machine/Special.lean ====
section
/-! DEFINITION. The control registers: MFC and MTC (R60 to R62, R341). -/

namespace Sys2Proof.Machine

/-- The supervisor-only control registers (R62). -/
def ctrlSupervisor (n : Nat) : Bool := n = 8 || n = 13 || n = 14

/-- The control registers that only the C-stream writes (R61). -/
def ctrlCOnly (n : Nat) : Bool := [1, 2, 3, 6, 7, 8, 10, 11, 12].contains n

/-- The read-only control registers (R62). -/
def ctrlReadOnly (n : Nat) : Bool := [9, 15, 16, 17, 19].contains n

/-- BVSTAT: the expired and valid bits of the view table (R62, R191). -/
def Weave.bvstat (w : Weave) : Nat :=
  ((List.range 4).map fun k =>
    let v := (w.views[k]?).getD default
    2 ^ k * ofBool v.valid + 2 ^ (4 + k) * ofBool v.expired).sum

/-- The value of a control register (R62). -/
def State.ctrl (s : State) (w : Weave) (st : Strand) (n : Nat) : DWord :=
  match n with
  | 0 => w.mdef st
  | 1 => w.fpctl
  | 2 => BitVec.ofNat 64 (w.gang.members.toNat + 65536 * w.gang.size.toNat)
  | 3 => BitVec.ofNat 64 (w.pair.core.toNat + 4096 * w.pair.weave.toNat + 65536 * ofBool w.pair.valid)
  | 4 => w.breg.setWidth 64
  | 5 => BitVec.ofNat 64 w.bvstat
  | 6 => w.mprom.setWidth 64
  | 7 => w.chktol.setWidth 64
  | 8 => BitVec.ofNat 64 (w.chkinj.row.toNat + 256 * w.chkinj.column.toNat + 65536 * ofBool w.chkinj.arm)
  | 9 => BitVec.ofNat 64 w.splitBase
  | 10 => (w.fltm.extractLsb' 0 32).setWidth 64
  | 11 => (w.fltm.extractLsb' 32 32).setWidth 64
  | 12 => (w.fltm.extractLsb' 64 32).setWidth 64
  | 13 => w.fltrec.setWidth 64
  | 14 => w.hndlr
  | 15 => w.pgt.setWidth 64
  | 16 => w.ctxid
  | 17 => BitVec.ofNat 64 s.time
  | 18 => w.pwatch.setWidth 64
  | _ => w.qcfg.setWidth 64

/-- Whether a value holds only defined codes for a control register (R62); the writing weave's index bears on GANG. -/
def ctrlAccepts (w : Weave) (n : Nat) (v : DWord) : Bool :=
  let x := v.toNat
  match n with
  | 0 => decide (bits x 0 3 ≤ 4) && decide (bits x 3 3 ≤ 6) && decide (bits x 6 3 ≤ 3) && decide (bits x 9 3 ≤ 3)
  | 1 => decide (bits x 0 3 ≤ 4)
  | 2 =>
    let size := bits x 16 3
    decide (2 ≤ size) && decide (size ≤ 6) && popBits 16 x = size && bitAt (bits x 0 16) w.index
  | 3 => decide (bits x 0 9 ≤ 383)
  | 6 => decide (1 ≤ bits x 0 7) && decide (bits x 0 7 ≤ 64)
  | 7 =>
    let t := bits x 0 32
    decide (t ≤ 0x7F800000) || t = 0x80000000
  | 8 => decide (bits x 8 8 ≤ 95) && decide (bits x 0 8 ≤ 95)
  | _ => true

/-- The expired bit of a view entry cleared by a write of 1 (R62, R191). -/
def clearExpired (e : ViewEntry) (one : Bool) : ViewEntry := if one then { e with expired := false } else e

/-- A control register written (R62): fields marked zero ignore writes, and W1C fields clear the bits written as 1. -/
def Weave.setCtrl (w : Weave) (st : Strand) (n : Nat) (v : DWord) : Weave :=
  let x := v.toNat
  match n with
  | 0 => match st with
    | .a => { w with mdefA := v &&& 0x3FFF }
    | .c _ => { w with mdefC := v &&& 0x3FFF }
  | 1 => { w with fpctl := v &&& 0xFFFFFFFF0000001F, gens := seedGens (v.extractLsb' 32 32) w.id.slot }
  | 2 => { w with gang := ⟨BitVec.ofNat 3 (bits x 16 3), BitVec.ofNat 16 x⟩ }
  | 3 => { w with pair := ⟨bitAt x 16, BitVec.ofNat 4 (bits x 12 4), BitVec.ofNat 9 x⟩ }
  | 4 => { w with breg := v.setWidth 32 }
  | 5 => { w with views := Vector.ofFn fun k => clearExpired ((w.views[k.val]?).getD default) (bitAt x (4 + k.val)) }
  | 6 => { w with mprom := v.setWidth 7 }
  | 7 => { w with chktol := v.setWidth 32 }
  | 8 => { w with chkinj := ⟨bitAt x 16, BitVec.ofNat 8 (bits x 8 8), BitVec.ofNat 8 x⟩ }
  | 10 => { w with fltm := w.fltm &&& ~~~((v.setWidth 32).setWidth 96) }
  | 11 => { w with fltm := w.fltm &&& ~~~((v.setWidth 32).setWidth 96 <<< 32) }
  | 12 => { w with fltm := w.fltm &&& ~~~((v.setWidth 32).setWidth 96 <<< 64) }
  | 13 => { w with fltrec := v.setWidth 20 }
  | 14 => { w with hndlr := v &&& 0xFFFFFFFFFFFFFFFE }
  | 18 => { w with pwatch := v.setWidth 32 }
  | _ => w

/-- The first check of R60 that an access to control register n fails. -/
def ctrlFault (w : Weave) (st : Strand) (n : Nat) (write : Option DWord) : Option Cause :=
  if 20 ≤ n then some .illegal
  else if ctrlSupervisor n && w.mode st = .user then some .priv
  else
    match write with
    | none => none
    | some v =>
      if st.stream = .a && ctrlCOnly n then some .stream
      else if ctrlReadOnly n then some .illegal
      else if !ctrlAccepts w n v then some .illegal
      else none

def execMfc (c d : RegField) (s : State) :=
  run (.mfc c d) s fun w t =>
    match ctrlFault w t.cur.strand c.toNat none with
    | some e => failing t w e accOther
    | none => writeScal t d (t.ctrl w t.cur.strand c.toNat)

/-- The arrivals of a weave at its crew's latch note that an MTC to CHKINJ came after they issued (R241). -/
def State.renewInjection (s : State) (id : WeaveId) : State :=
  { s with crews := s.crews.map fun (c : Crew) =>
      { c with latch := c.latch.map fun (y : Arrival) => if y.weave = id then { y with renewed := true } else y } }

def execMtc (a c : RegField) (s : State) :=
  run (.mtc a c) s fun w t =>
    match ctrlFault w t.cur.strand c.toNat (some (reg w t a)) with
    | some e => failing t w e accOther
    | none =>
      let u := t.onMe fun x => x.setCtrl t.cur.strand c.toNat (reg w t a)
      .ok (if c.toNat = 8 then u.renewInjection w.id else u)

end Sys2Proof.Machine
end

