-- ==== Sys2Proof/Machine/LaneInt.lean ====
section
/-! DEFINITION. Lane integer members: majors 10 to 13 and 19 (R370 to R373), their 16-bit forms (R100), and the
rearrangements of major 18 that compute nothing (R369, R375, R380). -/

namespace Sys2Proof.Machine

/-- The high bits of a product, signed or unsigned (R86). -/
def mulHigh' {n : Nat} (x y : BitVec n) (sg : Bool) : BitVec n :=
  if sg then (x.signExtend (2 * n) * y.signExtend (2 * n)).extractLsb' n n
  else (x.setWidth (2 * n) * y.setWidth (2 * n)).extractLsb' n n

/-- An exact result saturated to the signed range (R86). -/
def saturate {n : Nat} (x : Int) : BitVec n := BitVec.ofInt n (satInt n x)

/-- A function of the elements of n bits of three lane words, applied element by element (R68). -/
def packed (n : Nat) (f : BitVec n → BitVec n → BitVec n → BitVec n) (x y z : Word) : Word :=
  BitVec.ofNat 32 (((List.range (32 / n)).map fun i =>
    (f (x.extractLsb' (n * i) n) (y.extractLsb' (n * i) n) (z.extractLsb' (n * i) n)).toNat * 2 ^ (n * i)).sum)

/-- A lane member with operands a, b under its pattern, and d read at issue. -/
def lane3 (i : Instr) (p : BitVec 4) (b a d : RegField) (s : State) (f : Word → Word → Word → Word) :
    Host.Outcome State Fault Refusal :=
  run i s fun w t => writeLanes w t d.toNat fun l =>
    f (laneAt (w.lane a.toNat) l) (w.pat t.cur.strand p b.toNat l) (laneAt (w.lane d.toNat) l)

/-- A member of majors 10 to 12 on elements of n bits (R372). -/
def vialu (i : Instr) (n : Nat) (p : BitVec 4) (b a d : RegField) (s : State)
    (f : BitVec n → BitVec n → BitVec n → BitVec n) : Host.Outcome State Fault Refusal :=
  lane3 i p b a d s (packed n f)

/-- A lane member that reads b alone, or b and d. -/
def lane2 (i : Instr) (p : BitVec 4) (b d : RegField) (s : State) (f : Word → Word → Word) :
    Host.Outcome State Fault Refusal :=
  run i s fun w t => writeLanes w t d.toNat fun l =>
    f (w.pat t.cur.strand p b.toNat l) (laneAt (w.lane d.toNat) l)

/-- A member of major 19 (R373). -/
def laneImm (i : Instr) (a d : RegField) (s : State) (f : Word → Word) : Host.Outcome State Fault Refusal :=
  run i s fun w t => writeLanes w t d.toNat fun l => f (laneAt (w.lane a.toNat) l)

/-- The conditions of VCMP and VCMPI (R370). -/
def laneCond (c : Nat) (x y : Word) : Bool :=
  match c with
  | 0 => x == y
  | 1 => x != y
  | 2 => x.slt y
  | 3 => !y.slt x
  | 4 => y.slt x
  | 5 => !x.slt y
  | 6 => x.ult y
  | _ => !x.ult y

/-- Sign extension of an immediate to a lane word (R94). -/
def sext32 (i : BitVec 10) : Word := i.signExtend 32

def execVadd (p : BitVec 4) (b a d : RegField) (s : State) :=
  vialu (.vadd p b a d) 32 p b a d s fun x y _ => x + y
def execVsub (p : BitVec 4) (b a d : RegField) (s : State) :=
  vialu (.vsub p b a d) 32 p b a d s fun x y _ => x - y
def execVmul (p : BitVec 4) (b a d : RegField) (s : State) :=
  vialu (.vmul p b a d) 32 p b a d s fun x y _ => x * y
def execVmulh (p : BitVec 4) (b a d : RegField) (s : State) :=
  vialu (.vmulh p b a d) 32 p b a d s fun x y _ => mulHigh' x y true
def execVmulhu (p : BitVec 4) (b a d : RegField) (s : State) :=
  vialu (.vmulhu p b a d) 32 p b a d s fun x y _ => mulHigh' x y false
def execVmad (p : BitVec 4) (b a d : RegField) (s : State) :=
  vialu (.vmad p b a d) 32 p b a d s fun x y z => x * y + z
def execVand (p : BitVec 4) (b a d : RegField) (s : State) :=
  vialu (.vand p b a d) 32 p b a d s fun x y _ => x &&& y
def execVor (p : BitVec 4) (b a d : RegField) (s : State) :=
  vialu (.vor p b a d) 32 p b a d s fun x y _ => x ||| y
def execVxor (p : BitVec 4) (b a d : RegField) (s : State) :=
  vialu (.vxor p b a d) 32 p b a d s fun x y _ => x ^^^ y
def execVshl (p : BitVec 4) (b a d : RegField) (s : State) :=
  vialu (.vshl p b a d) 32 p b a d s fun x y _ => shiftL x y.toNat
def execVshr (p : BitVec 4) (b a d : RegField) (s : State) :=
  vialu (.vshr p b a d) 32 p b a d s fun x y _ => shiftR x y.toNat
def execVsar (p : BitVec 4) (b a d : RegField) (s : State) :=
  vialu (.vsar p b a d) 32 p b a d s fun x y _ => shiftA x y.toNat
def execVmin (p : BitVec 4) (b a d : RegField) (s : State) :=
  vialu (.vmin p b a d) 32 p b a d s fun x y _ => if x.slt y then x else y
def execVmax (p : BitVec 4) (b a d : RegField) (s : State) :=
  vialu (.vmax p b a d) 32 p b a d s fun x y _ => if x.slt y then y else x
def execVadds (p : BitVec 4) (b a d : RegField) (s : State) :=
  vialu (.vadds p b a d) 32 p b a d s fun x y _ => saturate (x.toInt + y.toInt)
def execVsubs (p : BitVec 4) (b a d : RegField) (s : State) :=
  vialu (.vsubs p b a d) 32 p b a d s fun x y _ => saturate (x.toInt - y.toInt)

def execVaddI16 (p : BitVec 4) (b a d : RegField) (s : State) :=
  vialu (.vaddI16 p b a d) 16 p b a d s fun x y _ => x + y
def execVsubI16 (p : BitVec 4) (b a d : RegField) (s : State) :=
  vialu (.vsubI16 p b a d) 16 p b a d s fun x y _ => x - y
def execVmulI16 (p : BitVec 4) (b a d : RegField) (s : State) :=
  vialu (.vmulI16 p b a d) 16 p b a d s fun x y _ => x * y
def execVmulhI16 (p : BitVec 4) (b a d : RegField) (s : State) :=
  vialu (.vmulhI16 p b a d) 16 p b a d s fun x y _ => mulHigh' x y true
def execVmulhuI16 (p : BitVec 4) (b a d : RegField) (s : State) :=
  vialu (.vmulhuI16 p b a d) 16 p b a d s fun x y _ => mulHigh' x y false
def execVmadI16 (p : BitVec 4) (b a d : RegField) (s : State) :=
  vialu (.vmadI16 p b a d) 16 p b a d s fun x y z => x * y + z
def execVandI16 (p : BitVec 4) (b a d : RegField) (s : State) :=
  vialu (.vandI16 p b a d) 16 p b a d s fun x y _ => x &&& y
def execVorI16 (p : BitVec 4) (b a d : RegField) (s : State) :=
  vialu (.vorI16 p b a d) 16 p b a d s fun x y _ => x ||| y
def execVxorI16 (p : BitVec 4) (b a d : RegField) (s : State) :=
  vialu (.vxorI16 p b a d) 16 p b a d s fun x y _ => x ^^^ y
def execVshlI16 (p : BitVec 4) (b a d : RegField) (s : State) :=
  vialu (.vshlI16 p b a d) 16 p b a d s fun x y _ => shiftL x y.toNat
def execVshrI16 (p : BitVec 4) (b a d : RegField) (s : State) :=
  vialu (.vshrI16 p b a d) 16 p b a d s fun x y _ => shiftR x y.toNat
def execVsarI16 (p : BitVec 4) (b a d : RegField) (s : State) :=
  vialu (.vsarI16 p b a d) 16 p b a d s fun x y _ => shiftA x y.toNat
def execVminI16 (p : BitVec 4) (b a d : RegField) (s : State) :=
  vialu (.vminI16 p b a d) 16 p b a d s fun x y _ => if x.slt y then x else y
def execVmaxI16 (p : BitVec 4) (b a d : RegField) (s : State) :=
  vialu (.vmaxI16 p b a d) 16 p b a d s fun x y _ => if x.slt y then y else x
def execVaddsI16 (p : BitVec 4) (b a d : RegField) (s : State) :=
  vialu (.vaddsI16 p b a d) 16 p b a d s fun x y _ => saturate (x.toInt + y.toInt)
def execVsubsI16 (p : BitVec 4) (b a d : RegField) (s : State) :=
  vialu (.vsubsI16 p b a d) 16 p b a d s fun x y _ => saturate (x.toInt - y.toInt)

def execVaddI8 (p : BitVec 4) (b a d : RegField) (s : State) :=
  vialu (.vaddI8 p b a d) 8 p b a d s fun x y _ => x + y
def execVsubI8 (p : BitVec 4) (b a d : RegField) (s : State) :=
  vialu (.vsubI8 p b a d) 8 p b a d s fun x y _ => x - y
def execVmulI8 (p : BitVec 4) (b a d : RegField) (s : State) :=
  vialu (.vmulI8 p b a d) 8 p b a d s fun x y _ => x * y
def execVmulhI8 (p : BitVec 4) (b a d : RegField) (s : State) :=
  vialu (.vmulhI8 p b a d) 8 p b a d s fun x y _ => mulHigh' x y true
def execVmulhuI8 (p : BitVec 4) (b a d : RegField) (s : State) :=
  vialu (.vmulhuI8 p b a d) 8 p b a d s fun x y _ => mulHigh' x y false
def execVmadI8 (p : BitVec 4) (b a d : RegField) (s : State) :=
  vialu (.vmadI8 p b a d) 8 p b a d s fun x y z => x * y + z
def execVandI8 (p : BitVec 4) (b a d : RegField) (s : State) :=
  vialu (.vandI8 p b a d) 8 p b a d s fun x y _ => x &&& y
def execVorI8 (p : BitVec 4) (b a d : RegField) (s : State) :=
  vialu (.vorI8 p b a d) 8 p b a d s fun x y _ => x ||| y
def execVxorI8 (p : BitVec 4) (b a d : RegField) (s : State) :=
  vialu (.vxorI8 p b a d) 8 p b a d s fun x y _ => x ^^^ y
def execVshlI8 (p : BitVec 4) (b a d : RegField) (s : State) :=
  vialu (.vshlI8 p b a d) 8 p b a d s fun x y _ => shiftL x y.toNat
def execVshrI8 (p : BitVec 4) (b a d : RegField) (s : State) :=
  vialu (.vshrI8 p b a d) 8 p b a d s fun x y _ => shiftR x y.toNat
def execVsarI8 (p : BitVec 4) (b a d : RegField) (s : State) :=
  vialu (.vsarI8 p b a d) 8 p b a d s fun x y _ => shiftA x y.toNat
def execVminI8 (p : BitVec 4) (b a d : RegField) (s : State) :=
  vialu (.vminI8 p b a d) 8 p b a d s fun x y _ => if x.slt y then x else y
def execVmaxI8 (p : BitVec 4) (b a d : RegField) (s : State) :=
  vialu (.vmaxI8 p b a d) 8 p b a d s fun x y _ => if x.slt y then y else x
def execVaddsI8 (p : BitVec 4) (b a d : RegField) (s : State) :=
  vialu (.vaddsI8 p b a d) 8 p b a d s fun x y _ => saturate (x.toInt + y.toInt)
def execVsubsI8 (p : BitVec 4) (b a d : RegField) (s : State) :=
  vialu (.vsubsI8 p b a d) 8 p b a d s fun x y _ => saturate (x.toInt - y.toInt)

/-- VCMP writes a predicate (R371). -/
def execVcmp (p : BitVec 4) (b a : RegField) (c k : BitVec 3) (s : State) :=
  run (.vcmp p b a c k) s fun w t => writePred w t k.toNat fun l =>
    laneCond c.toNat (laneAt (w.lane a.toNat) l) (w.pat t.cur.strand p b.toNat l)

/-- VSEL takes b where the predicate holds, else keeps d (R371). -/
def execVsel (p : BitVec 4) (b : RegField) (k : BitVec 3) (d : RegField) (s : State) :=
  run (.vsel p b k d) s fun w t => writeLanes w t d.toNat fun l =>
    if (w.pred k.toNat).getLsbD l then w.pat t.cur.strand p b.toNat l else laneAt (w.lane d.toNat) l

def execVabs (p : BitVec 4) (b d : RegField) (s : State) :=
  lane2 (.vabs p b d) p b d s fun y _ => if y.slt 0 then -y else y
def execVclz (p : BitVec 4) (b d : RegField) (s : State) :=
  lane2 (.vclz p b d) p b d s fun y _ => BitVec.ofNat 32 (leadingZeros 32 y.toNat)
def execVpopc (p : BitVec 4) (b d : RegField) (s : State) :=
  lane2 (.vpopc p b d) p b d s fun y _ => BitVec.ofNat 32 (popBits 32 y.toNat)

/-- The sum of the products of four signed bytes, added to z (R371). -/
def dot4 (x y z : Word) : Word :=
  BitVec.ofInt 32 (z.toInt + ((List.range 4).map fun i =>
    (x.extractLsb' (8 * i) 8).toInt * (y.extractLsb' (8 * i) 8).toInt).sum)

def execVdot4 (p : BitVec 4) (b a d : RegField) (s : State) := lane3 (.vdot4 p b a d) p b a d s dot4
def execVmov (p : BitVec 4) (b d : RegField) (s : State) := lane2 (.vmov p b d) p b d s fun y _ => y

/-- Element i of a word at a width, extended to 32 bits (R371). -/
def extractElem (sg w : BitVec 1) (i : Nat) (y : Word) : Word :=
  if w = 0 then
    let e := y.extractLsb' (8 * i) 8
    if sg = 1 then e.signExtend 32 else e.setWidth 32
  else
    let e := y.extractLsb' (16 * i) 16
    if sg = 1 then e.signExtend 32 else e.setWidth 32

/-- z with element i replaced by the low bits of y (R371). -/
def insertElem (w : BitVec 1) (i : Nat) (y z : Word) : Word :=
  let n := if w = 0 then 8 else 16
  let m : Word := BitVec.ofNat 32 (2 ^ n - 1)
  (z &&& ~~~(m <<< (n * i))) ||| ((y &&& m) <<< (n * i))

def execVext (p : BitVec 4) (b : RegField) (sg w : BitVec 1) (i : BitVec 2) (d : RegField) (s : State) :=
  lane2 (.vext p b sg w i d) p b d s fun y _ => extractElem sg w i.toNat y
def execVins (p : BitVec 4) (b : RegField) (w : BitVec 1) (i : BitVec 2) (d : RegField) (s : State) :=
  lane2 (.vins p b w i d) p b d s (insertElem w i.toNat)

/-- VBCST gives every active lane the low half of a uniform register (R371). -/
def execVbcst (a d : RegField) (s : State) :=
  run (.vbcst a d) s fun w t => writeLanes w t d.toNat fun _ => (reg w t a).setWidth 32

def execVminu (p : BitVec 4) (b a d : RegField) (s : State) :=
  lane3 (.vminu p b a d) p b a d s fun x y _ => if x.ult y then x else y
def execVmaxu (p : BitVec 4) (b a d : RegField) (s : State) :=
  lane3 (.vmaxu p b a d) p b a d s fun x y _ => if x.ult y then y else x

/-! ### Immediates (R373) -/

def execVaddi (i : BitVec 10) (a d : RegField) (s : State) := laneImm (.vaddi i a d) a d s (· + sext32 i)
def execVandi (i : BitVec 10) (a d : RegField) (s : State) := laneImm (.vandi i a d) a d s (· &&& sext32 i)
def execVori (i : BitVec 10) (a d : RegField) (s : State) := laneImm (.vori i a d) a d s (· ||| sext32 i)
def execVxori (i : BitVec 10) (a d : RegField) (s : State) := laneImm (.vxori i a d) a d s (· ^^^ sext32 i)
def execVshli (i : BitVec 10) (a d : RegField) (s : State) := laneImm (.vshli i a d) a d s (shiftL · i.toNat)
def execVshri (i : BitVec 10) (a d : RegField) (s : State) := laneImm (.vshri i a d) a d s (shiftR · i.toNat)
def execVsari (i : BitVec 10) (a d : RegField) (s : State) := laneImm (.vsari i a d) a d s (shiftA · i.toNat)

def execVmovi (i : BitVec 10) (d : RegField) (s : State) :=
  run (.vmovi i d) s fun w t => writeLanes w t d.toNat fun _ => sext32 i

def execVcmpi (i : BitVec 10) (a : RegField) (c k : BitVec 3) (s : State) :=
  run (.vcmpi i a c k) s fun w t => writePred w t k.toNat fun l =>
    laneCond c.toNat (laneAt (w.lane a.toNat) l) (sext32 i)

/-! ### Rearrangements (R368) -/

/-- Source element e of a group of lane registers that starts at a (R369). -/
def groupElem (w : Weave) (a e : Nat) : Word := laneAt (w.lane (a + e / 96)) (e % 96)

/-- A group of n lane registers from d on written in the lanes of ACT (R369). -/
def writeGroup (w : Weave) (s : State) (n d : Nat) (f : Nat → Nat → Word) : Except Stop State :=
  .ok (s.onMe fun x => (List.range n).foldl (fun u j => u.setLanes (d + j) (w.act s.cur.strand) (f j)) x)

/-- ZIP and UNZIP of n registers (R369). -/
def zipBody (n a d : Nat) : Body := fun w t =>
  writeGroup w t n d fun j l => let e := 96 * j + l
                                groupElem w a (96 * (e % n) + e / n)
def unzipBody (n a d : Nat) : Body := fun w t => writeGroup w t n d fun j l => groupElem w a (n * l + j)

def execZipW2 (a d : RegField) (s : State) := run (.zipW2 a d) s (zipBody 2 a.toNat d.toNat)
def execZipW3 (a d : RegField) (s : State) := run (.zipW3 a d) s (zipBody 3 a.toNat d.toNat)
def execZipW4 (a d : RegField) (s : State) := run (.zipW4 a d) s (zipBody 4 a.toNat d.toNat)
def execUnzipW2 (a d : RegField) (s : State) := run (.unzipW2 a d) s (unzipBody 2 a.toNat d.toNat)
def execUnzipW3 (a d : RegField) (s : State) := run (.unzipW3 a d) s (unzipBody 3 a.toNat d.toNat)
def execUnzipW4 (a d : RegField) (s : State) := run (.unzipW4 a d) s (unzipBody 4 a.toNat d.toNat)

/-- VPERM reads lane i of va, where i is the lane's index word (R380). -/
def execVperm (p : BitVec 4) (b a d : RegField) (s : State) :=
  run (.vperm p b a d) s fun w t => writeLanes w t d.toNat fun l =>
    let i := (w.pat t.cur.strand p b.toNat l).toNat
    if i < 96 then laneAt (w.lane a.toNat) i else 0

/-- VCMPR packs the selected lanes downward, in those lanes whatever the mask (R375). -/
def execVcmpr (k : BitVec 3) (a d : RegField) (s : State) :=
  run (.vcmpr k a d) s fun w t =>
    let ls := lanesOf (w.act t.cur.strand &&& w.pred k.toNat)
    .ok (t.onMe fun x => x.setLanes d.toNat (maskOf fun j => j < ls.length) fun j =>
      laneAt (w.lane a.toNat) (ls.getD j 0))

/-! ### The 16-bit forms: d op b, without a pattern (R100, R372) -/

def execVaddN (b : BitVec 5) (d : RegField) (s : State) :=
  vialu (.vadd 0 (b.setWidth 6) d d) 32 0 (b.setWidth 6) d d s fun x y _ => x + y
def execVsubN (b : BitVec 5) (d : RegField) (s : State) :=
  vialu (.vsub 0 (b.setWidth 6) d d) 32 0 (b.setWidth 6) d d s fun x y _ => x - y
def execVmulN (b : BitVec 5) (d : RegField) (s : State) :=
  vialu (.vmul 0 (b.setWidth 6) d d) 32 0 (b.setWidth 6) d d s fun x y _ => x * y
def execVandN (b : BitVec 5) (d : RegField) (s : State) :=
  vialu (.vand 0 (b.setWidth 6) d d) 32 0 (b.setWidth 6) d d s fun x y _ => x &&& y
def execVorN (b : BitVec 5) (d : RegField) (s : State) :=
  vialu (.vor 0 (b.setWidth 6) d d) 32 0 (b.setWidth 6) d d s fun x y _ => x ||| y
def execVxorN (b : BitVec 5) (d : RegField) (s : State) :=
  vialu (.vxor 0 (b.setWidth 6) d d) 32 0 (b.setWidth 6) d d s fun x y _ => x ^^^ y
def execVshlN (b : BitVec 5) (d : RegField) (s : State) :=
  vialu (.vshl 0 (b.setWidth 6) d d) 32 0 (b.setWidth 6) d d s fun x y _ => shiftL x y.toNat
def execVshrN (b : BitVec 5) (d : RegField) (s : State) :=
  vialu (.vshr 0 (b.setWidth 6) d d) 32 0 (b.setWidth 6) d d s fun x y _ => shiftR x y.toNat
def execVsarN (b : BitVec 5) (d : RegField) (s : State) :=
  vialu (.vsar 0 (b.setWidth 6) d d) 32 0 (b.setWidth 6) d d s fun x y _ => shiftA x y.toNat
def execVminN (b : BitVec 5) (d : RegField) (s : State) :=
  vialu (.vmin 0 (b.setWidth 6) d d) 32 0 (b.setWidth 6) d d s fun x y _ => if x.slt y then x else y
def execVmaxN (b : BitVec 5) (d : RegField) (s : State) :=
  vialu (.vmax 0 (b.setWidth 6) d d) 32 0 (b.setWidth 6) d d s fun x y _ => if x.slt y then y else x
def execVmovN (b : BitVec 5) (d : RegField) (s : State) :=
  lane2 (.vmov 0 (b.setWidth 6) d) 0 (b.setWidth 6) d s fun y _ => y

end Sys2Proof.Machine
end

