-- ==== Sys2Proof/Machine/Float.lean ====
section
/-! DEFINITION. The float formats (R66), exact values, and the one rounding that every float result takes (R69 to R74). -/

namespace Sys2Proof.Machine

/-- A float format (R66): its exponent and fraction bits, its bias, whether it has infinities, whether DAZ and FTZ act on
it (R74), and the canonical NaN written. -/
structure Fmt where
  expBits : Nat
  fracBits : Nat
  bias : Nat
  hasInf : Bool
  flushes : Bool
  nan : Nat
deriving DecidableEq, Repr, Inhabited

def fp32 : Fmt := ⟨8, 23, 127, true, true, 0x7FC00000⟩
def fp16 : Fmt := ⟨5, 10, 15, true, true, 0x7E00⟩
def bf16 : Fmt := ⟨8, 7, 127, true, true, 0x7FC0⟩
def e4m3 : Fmt := ⟨4, 3, 7, false, false, 0x7F⟩
def e5m2 : Fmt := ⟨5, 2, 15, true, false, 0x7E⟩

/-- The bits of an element. -/
def Fmt.width (f : Fmt) : Nat := 1 + f.expBits + f.fracBits

/-- A float value: NaN, an infinity, or (−1)^neg × m × 2^e. -/
inductive Fp where
  | nan
  | inf (neg : Bool)
  | fin (neg : Bool) (m : Nat) (e : Int)
deriving DecidableEq, Repr, Inhabited

/-- The value that an element's bits hold (R66). -/
def Fmt.decode (f : Fmt) (x : Nat) : Fp :=
  let neg := bitAt x (f.expBits + f.fracBits)
  let ex := bits x f.fracBits f.expBits
  let fr := bits x 0 f.fracBits
  let top := 2 ^ f.expBits - 1
  if ex = top && f.hasInf then (if fr = 0 then .inf neg else .nan)
  else if ex = top && fr = 2 ^ f.fracBits - 1 then .nan
  else if ex = 0 then .fin neg fr (1 - (f.bias : Int) - f.fracBits)
  else .fin neg (2 ^ f.fracBits + fr) ((ex : Int) - f.bias - f.fracBits)

/-- Whether an element is a non-zero subnormal. -/
def Fmt.subnormal (f : Fmt) (x : Nat) : Bool := bits x f.fracBits f.expBits = 0 && bits x 0 f.fracBits ≠ 0

/-- An operand as the instruction reads it, after DAZ (R74). -/
def Fmt.read (f : Fmt) (md : FpMode) (x : Nat) : Fp :=
  match f.decode x with
  | .fin neg m e => if md.daz && f.flushes && f.subnormal x then .fin neg 0 e else .fin neg m e
  | v => v

/-- A magnitude before rounding: m × 2^e, or more than that by less than 2^e when inexact. -/
structure Exact where
  m : Nat
  e : Int
  inexact : Bool
deriving DecidableEq, Repr, Inhabited

/-- The number of bits of a number. -/
def bitLen (n : Nat) : Nat := if n = 0 then 0 else Nat.log2 n + 1

/-- A magnitude in units of 2^q rounded to a whole number of units (R72, R73); u are the bits drawn. -/
def Exact.units (x : Exact) (q : Int) (md : Rounding) (neg : Bool) (u : Nat) : Nat :=
  if q ≤ x.e then x.m * 2 ^ (x.e - q).toNat
  else
    let k := (q - x.e).toNat
    let n := x.m / 2 ^ k
    let r := x.m % 2 ^ k
    let part := decide (r ≠ 0) || x.inexact
    match md with
    | .rne => if 2 * r > 2 ^ k || (2 * r = 2 ^ k && (x.inexact || n % 2 = 1)) then n + 1 else n
    | .rtz => n
    | .rup => if part && !neg then n + 1 else n
    | .rdn => if part && neg then n + 1 else n
    | .stochastic => n + (r * 65536 + u * 2 ^ k) / 2 ^ (k + 16)

/-- The least exponent of a normal value, the unit of a subnormal, and the largest finite value as units and their exponent. -/
def Fmt.emin (f : Fmt) : Int := 1 - (f.bias : Int)
def Fmt.qmin (f : Fmt) : Int := f.emin - f.fracBits
def Fmt.qmax (f : Fmt) : Int := (if f.hasInf then 2 ^ f.expBits - 2 else 2 ^ f.expBits - 1 : Nat) - (f.bias : Int) - f.fracBits
def Fmt.nmax (f : Fmt) : Nat := if f.hasInf then 2 ^ (f.fracBits + 1) - 1 else 2 ^ (f.fracBits + 1) - 2

/-- The bits of a sign, units and exponent that the format holds exactly. -/
def Fmt.pack (f : Fmt) (neg : Bool) (n : Nat) (q : Int) : Nat :=
  let s := ofBool neg * 2 ^ (f.expBits + f.fracBits)
  if n < 2 ^ f.fracBits then s + n
  else
    let n' := if n = 2 ^ (f.fracBits + 1) then 2 ^ f.fracBits else n
    let q' := if n = 2 ^ (f.fracBits + 1) then q + 1 else q
    s + (q' + f.fracBits + f.bias).toNat * 2 ^ f.fracBits + (n' - 2 ^ f.fracBits)

/-- An infinity of the format, or its largest finite value where it has none (R72). -/
def Fmt.infinity (f : Fmt) (neg : Bool) : Nat :=
  if f.hasInf then ofBool neg * 2 ^ (f.expBits + f.fracBits) + (2 ^ f.expBits - 1) * 2 ^ f.fracBits
  else f.pack neg f.nmax f.qmax

/-- What an overflow gives (R72). -/
def Fmt.overflow (f : Fmt) (md : Rounding) (neg : Bool) : Nat :=
  match md with
  | .rne | .stochastic => f.infinity neg
  | .rtz => f.pack neg f.nmax f.qmax
  | .rup => if neg then f.pack neg f.nmax f.qmax else f.infinity neg
  | .rdn => if neg then f.infinity neg else f.pack neg f.nmax f.qmax

/-- A magnitude brought within reach of the format: one far above it or far below it rounds as a nearer one does. -/
def Fmt.near (f : Fmt) (x : Exact) : Exact :=
  let top : Int := x.e + bitLen x.m
  if x.m = 0 then ⟨0, f.qmin, x.inexact⟩
  else if f.qmax + f.fracBits + 8 < top then ⟨1, f.qmax + f.fracBits + 4, false⟩
  else if top < f.qmin - 40 then ⟨1, f.qmin - 40, false⟩
  else x

/-- A signed magnitude rounded to the format under a mode (R69, R72 to R74): the only place where a result is rounded. -/
def Fmt.round (f : Fmt) (md : FpMode) (neg : Bool) (x0 : Exact) (u : Nat) : Nat :=
  let x := f.near x0
  let l : Int := x.e + bitLen x.m - 1
  let q := max (l - f.fracBits) f.qmin
  let n := x.units q md.round neg u
  if f.qmax < q || (q = f.qmax && f.nmax < n) then f.overflow md.round neg
  else if md.ftz && f.flushes && n < 2 ^ f.fracBits then f.pack neg 0 q
  else f.pack neg n q

/-- A value written in a format (R70 to R74). -/
def Fmt.write (f : Fmt) (md : FpMode) (v : Fp) (u : Nat) : Nat :=
  match v with
  | .nan => f.nan
  | .inf neg => f.infinity neg
  | .fin neg m e => f.round md neg ⟨m, e, false⟩ u

/-! ### Exact arithmetic -/

/-- The negation of a value. -/
def Fp.neg : Fp → Fp
  | .nan => .nan
  | .inf n => .inf (!n)
  | .fin n m e => .fin (!n) m e

/-- The magnitude of a value. -/
def Fp.abs : Fp → Fp
  | .nan => .nan
  | .inf _ => .inf false
  | .fin _ m e => .fin false m e

/-- The sign of a value; a NaN has none. -/
def Fp.sign : Fp → Bool
  | .nan => false
  | .inf n => n
  | .fin n _ _ => n

/-- The exact product (R70: 0 × ∞ is invalid). -/
def Fp.mul : Fp → Fp → Fp
  | .nan, _ => .nan
  | _, .nan => .nan
  | .inf a, .inf b => .inf (a != b)
  | .inf a, .fin b m _ => if m = 0 then .nan else .inf (a != b)
  | .fin a m _, .inf b => if m = 0 then .nan else .inf (a != b)
  | .fin a m e, .fin b n k => .fin (a != b) (m * n) (e + k)

/-- The integer that a finite value holds in units of 2^q, q not above its exponent. -/
def Fp.scaled (q : Int) : Fp → Int
  | .fin neg m e => (if neg then -1 else 1) * (m : Int) * (2 ^ (e - q).toNat : Nat)
  | _ => 0

/-- The exponent of a finite value. -/
def Fp.exp : Fp → Int
  | .fin _ _ e => e
  | _ => 0

/-- The exact sum of values; ∞ − ∞ is invalid (R70), and a sum that is zero takes the sign of R69. -/
def sumExact (md : Rounding) (xs : List Fp) : Fp :=
  if xs.contains .nan then .nan
  else if xs.contains (.inf false) then (if xs.contains (.inf true) then .nan else .inf false)
  else if xs.contains (.inf true) then .inf true
  else
    let q := xs.foldl (fun m x => min m x.exp) (xs.headD (.fin false 0 0)).exp
    let t := (xs.map (Fp.scaled q)).foldl (· + ·) 0
    if t = 0 then
      .fin (if xs.all Fp.sign then true else if xs.all (fun x => !x.sign) then false else md = .rdn) 0 q
    else .fin (t < 0) t.natAbs q

/-- Whether a value is below another, as numbers; −0 and +0 are equal here. -/
def Fp.lt : Fp → Fp → Bool
  | .nan, _ => false
  | _, .nan => false
  | .inf a, .inf b => a && !b
  | .inf a, .fin _ _ _ => a
  | .fin _ _ _, .inf b => !b
  | x@(.fin _ _ e), y@(.fin _ _ k) => x.scaled (min e k) < y.scaled (min e k)

/-- Whether two values are equal, as numbers. -/
def Fp.eq (x y : Fp) : Bool := x != .nan && y != .nan && !x.lt y && !y.lt x

/-- FMIN and FMAX (R71): the operand that is not NaN, −0 below +0, and no rounding. -/
def Fp.min (x y : Fp) : Fp :=
  if x = .nan then y else if y = .nan then x
  else if x.lt y then x else if y.lt x then y else if x.sign then x else y

def Fp.max (x y : Fp) : Fp :=
  if x = .nan then y else if y = .nan then x
  else if y.lt x then x else if x.lt y then y else if x.sign then y else x

/-- The conditions of FCMP (R324). -/
def floatCond (c : Nat) (x y : Fp) : Bool :=
  let un := x = .nan || y = .nan
  match c with
  | 0 => x.eq y
  | 1 => !x.eq y
  | 2 => x.lt y
  | 3 => x.lt y || x.eq y
  | 4 => y.lt x
  | 5 => y.lt x || x.eq y
  | 6 => un
  | _ => !un

/-- A magnitude rounded to an integer, with its sign (R328, R80, R85). -/
def roundInt (md : Rounding) (neg : Bool) (m : Nat) (e : Int) (u : Nat) : Int :=
  let n : Int := (Exact.units ⟨m, e, false⟩ 0 md neg u : Nat)
  if neg then -n else n

/-! ### Random draws (R73) -/

/-- The generator of a lane after k advances. -/
def advanceGen : Nat → Word → Word
  | 0, g => g
  | k + 1, g => advanceGen k (nextGen g)

/-- The bits of the (j + 1)-th draw of a lane in this instruction. -/
def Weave.draw (w : Weave) (l j : Nat) : Nat := drawn (advanceGen (j + 1) ((w.gens[l]?).getD 0))

/-- The generators of the lanes of a mask advanced k times. -/
def Weave.advanceBy (w : Weave) (m : LaneMask) (k : Nat) : Weave :=
  { w with gens := Vector.ofFn fun l =>
      if m.getLsbD l.val then advanceGen k ((w.gens[l.val]?).getD 0) else (w.gens[l.val]?).getD 0 }

/-- As `advanceBy`, when the rounding that the instruction captured is stochastic. -/
def Weave.advance (w : Weave) (m : LaneMask) (k : Nat) : Weave :=
  if (fpMode w.fpctl).round = .stochastic then w.advanceBy m k else w

/-- A body that writes a lane register in the lanes of ACT from values that draw k times in each lane (R73). -/
def writeDrawing (w : Weave) (t : State) (d k : Nat) (f : Nat → Word) : Except Stop State :=
  let act := w.act t.cur.strand
  .ok (t.onMe fun x => (x.setLanes d act f).advance act k)

end Sys2Proof.Machine
end

