-- ==== Sys2Proof/Machine/LaneFloat.lean ====
section
/-! DEFINITION. Lane float members: majors 14 and 15 (R321 to R324, R327, R328) and their 16-bit forms (R100). -/

namespace Sys2Proof.Machine

/-- A value of three elements, as numbers. -/
abbrev FloatOp := FpMode → Fp → Fp → Fp → Fp

def opAdd : FloatOp := fun md x y _ => sumExact md.round [x, y]
def opSub : FloatOp := fun md x y _ => sumExact md.round [x, y.neg]
def opMul : FloatOp := fun _ x y _ => x.mul y
def opFma : FloatOp := fun md x y z => sumExact md.round [x.mul y, z]
def opFnma : FloatOp := fun md x y z => sumExact md.round [z, (x.mul y).neg]
def opMin : FloatOp := fun _ x y _ => x.min y
def opMax : FloatOp := fun _ x y _ => x.max y
def opAbs : FloatOp := fun _ _ y _ => y.abs
def opNeg : FloatOp := fun _ _ y _ => y.neg

/-- A lane word whose elements are an operation's, each read after DAZ and rounded once (R322). -/
def floatWord (f : Fmt) (md : FpMode) (op : FloatOp) (draw : Nat → Nat) (x y z : Word) : Word :=
  BitVec.ofNat 32 (((List.range (32 / f.width)).map fun i =>
    let e := fun (v : Word) => f.read md (bits v.toNat (f.width * i) f.width)
    f.write md (op md (e x) (e y) (e z)) (draw i) * 2 ^ (f.width * i)).sum)

/-- A member of major 14 or 15; `draws` says whether it draws under stochastic rounding (R73). -/
def floatLane (i : Instr) (f : Fmt) (p : BitVec 4) (b a d : RegField) (s : State) (draws : Bool) (op : FloatOp) :
    Host.Outcome State Fault Refusal :=
  run i s fun w t =>
    writeDrawing w t d.toNat (if draws then 32 / f.width else 0) fun l =>
      floatWord f (fpMode w.fpctl) op (w.draw l) (laneAt (w.lane a.toNat) l) (w.pat t.cur.strand p b.toNat l)
        (laneAt (w.lane d.toNat) l)

def execFadd (p : BitVec 4) (b a d : RegField) (s : State) :=
  floatLane (.fadd p b a d) fp32 p b a d s true opAdd
def execFsub (p : BitVec 4) (b a d : RegField) (s : State) :=
  floatLane (.fsub p b a d) fp32 p b a d s true opSub
def execFmul (p : BitVec 4) (b a d : RegField) (s : State) :=
  floatLane (.fmul p b a d) fp32 p b a d s true opMul
def execFma (p : BitVec 4) (b a d : RegField) (s : State) :=
  floatLane (.fma p b a d) fp32 p b a d s true opFma
def execFnma (p : BitVec 4) (b a d : RegField) (s : State) :=
  floatLane (.fnma p b a d) fp32 p b a d s true opFnma
def execFmin (p : BitVec 4) (b a d : RegField) (s : State) :=
  floatLane (.fmin p b a d) fp32 p b a d s false opMin
def execFmax (p : BitVec 4) (b a d : RegField) (s : State) :=
  floatLane (.fmax p b a d) fp32 p b a d s false opMax
def execFabs (p : BitVec 4) (b d : RegField) (s : State) :=
  floatLane (.fabs p b d) fp32 p b 0 d s true opAbs
def execFneg (p : BitVec 4) (b d : RegField) (s : State) :=
  floatLane (.fneg p b d) fp32 p b 0 d s true opNeg

/-- |a| with the sign of b: a NaN operand gives the canonical NaN (R70), and the sign bit of b is read as it stands. -/
def signWord (md : FpMode) (draw : Nat → Nat) (x y : Word) : Word :=
  let a := fp32.read md x.toNat
  let v := if a = .nan || fp32.read md y.toNat = .nan then Fp.nan else if y.getLsbD 31 then a.abs.neg else a.abs
  BitVec.ofNat 32 (fp32.write md v (draw 0))

def execFsign (p : BitVec 4) (b a d : RegField) (s : State) :=
  run (.fsign p b a d) s fun w t => writeDrawing w t d.toNat 1 fun l =>
    signWord (fpMode w.fpctl) (w.draw l) (laneAt (w.lane a.toNat) l) (w.pat t.cur.strand p b.toNat l)

/-- a × 2^n, where n is b read as a signed integer (R321). -/
def scaleWord (md : FpMode) (draw : Nat → Nat) (x y : Word) : Word :=
  let v := match fp32.read md x.toNat with
    | .fin neg m e => Fp.fin neg m (e + y.toInt)
    | other => other
  BitVec.ofNat 32 (fp32.write md v (draw 0))

def execFscale (p : BitVec 4) (b a d : RegField) (s : State) :=
  run (.fscale p b a d) s fun w t => writeDrawing w t d.toNat 1 fun l =>
    scaleWord (fpMode w.fpctl) (w.draw l) (laneAt (w.lane a.toNat) l) (w.pat t.cur.strand p b.toNat l)

/-- FRND of one word (R328): values of at least 2^23, zeros and infinities unchanged; the sign is kept. -/
def roundWord (md : FpMode) (r : Rounding) (u : Nat) (y : Word) : Word :=
  match fp32.read md y.toNat with
  | .nan => BitVec.ofNat 32 fp32.nan
  | .inf neg => BitVec.ofNat 32 (fp32.infinity neg)
  | .fin neg m e =>
    if 0 ≤ e then y
    else BitVec.ofNat 32 (fp32.round md neg ⟨(roundInt r neg m e u).natAbs, 0, false⟩ 0)

/-- The mode that FRND's field names; 5 is the captured mode (R328). -/
def frndMode (md : FpMode) (m : BitVec 3) : Rounding := if m = 5 then md.round else Rounding.ofCode m.toNat

def execFrnd (p : BitVec 4) (b : RegField) (m : BitVec 3) (d : RegField) (s : State) :=
  run (.frnd p b m d) s fun w t =>
    let md := fpMode w.fpctl
    let r := frndMode md m
    let act := w.act t.cur.strand
    .ok (t.onMe fun x =>
      let y := x.setLanes d.toNat act fun l =>
        roundWord ⟨.rne, md.ftz, md.daz⟩ r (w.draw l 0) (w.pat t.cur.strand p b.toNat l)
      if r = .stochastic then y.advanceBy act 1 else y)

/-- The class bit of a word (R323), from its raw bits. -/
def classWord (y : Word) : Word :=
  let neg := y.getLsbD 31
  let k : Nat := match fp32.decode y.toNat with
    | .nan => if y.getLsbD 22 then 9 else 8
    | .inf _ => if neg then 0 else 7
    | .fin _ m _ =>
      if m = 0 then (if neg then 3 else 4)
      else if fp32.subnormal y.toNat then (if neg then 2 else 5)
      else (if neg then 1 else 6)
  BitVec.ofNat 32 (2 ^ k)

def execFclass (p : BitVec 4) (b d : RegField) (s : State) :=
  lane2 (.fclass p b d) p b d s fun y _ => classWord y

/-- FCMP on element i of two words (R324), read after DAZ. -/
def compareElem (f : Fmt) (md : FpMode) (c i : Nat) (x y : Word) : Bool :=
  let e := fun (v : Word) => f.read md (bits v.toNat (f.width * i) f.width)
  floatCond c (e x) (e y)

def execFcmp (p : BitVec 4) (b a : RegField) (c k : BitVec 3) (s : State) :=
  run (.fcmp p b a c k) s fun w t => writePred w t k.toNat fun l =>
    compareElem fp32 (fpMode w.fpctl) c.toNat 0 (laneAt (w.lane a.toNat) l) (w.pat t.cur.strand p b.toNat l)

/-- The packed FCMP writes element 0 to p[k] and element 1 to p[k + 1] (R324). -/
def packedCompare (f : Fmt) (p : BitVec 4) (b a : RegField) (c k : BitVec 3) : Body := fun w t =>
  let cmp := fun (i l : Nat) =>
    compareElem f (fpMode w.fpctl) c.toNat i (laneAt (w.lane a.toNat) l) (w.pat t.cur.strand p b.toNat l)
  let act := w.act t.cur.strand
  .ok (t.onMe fun x => (x.setPred k.toNat act (maskOf (cmp 0))).setPred (k.toNat + 1) act (maskOf (cmp 1)))

/-- FDOT2 of one word: the FP32 addend and both products, rounded once (R327). -/
def dot2Word (f : Fmt) (md : FpMode) (u : Nat) (x y z : Word) : Word :=
  let e := fun (v : Word) (i : Nat) => f.read md (bits v.toNat (16 * i) 16)
  BitVec.ofNat 32 (fp32.write md
    (sumExact md.round [fp32.read md z.toNat, (e x 0).mul (e y 0), (e x 1).mul (e y 1)]) u)

/-- FDOT2 draws once per lane (R73). -/
def dot2Body (f : Fmt) (p : BitVec 4) (b a d : RegField) : Body := fun w t =>
  writeDrawing w t d.toNat 1 fun l =>
    dot2Word f (fpMode w.fpctl) (w.draw l 0) (laneAt (w.lane a.toNat) l) (w.pat t.cur.strand p b.toNat l)
      (laneAt (w.lane d.toNat) l)

def execFaddF16 (p : BitVec 4) (b a d : RegField) (s : State) :=
  floatLane (.faddF16 p b a d) fp16 p b a d s true opAdd
def execFsubF16 (p : BitVec 4) (b a d : RegField) (s : State) :=
  floatLane (.fsubF16 p b a d) fp16 p b a d s true opSub
def execFmulF16 (p : BitVec 4) (b a d : RegField) (s : State) :=
  floatLane (.fmulF16 p b a d) fp16 p b a d s true opMul
def execFmaF16 (p : BitVec 4) (b a d : RegField) (s : State) :=
  floatLane (.fmaF16 p b a d) fp16 p b a d s true opFma
def execFminF16 (p : BitVec 4) (b a d : RegField) (s : State) :=
  floatLane (.fminF16 p b a d) fp16 p b a d s false opMin
def execFmaxF16 (p : BitVec 4) (b a d : RegField) (s : State) :=
  floatLane (.fmaxF16 p b a d) fp16 p b a d s false opMax
def execFcmpF16 (p : BitVec 4) (b a : RegField) (c k : BitVec 3) (s : State) :=
  run (.fcmpF16 p b a c k) s (packedCompare fp16 p b a c k)
def execFdot2F16 (p : BitVec 4) (b a d : RegField) (s : State) :=
  run (.fdot2F16 p b a d) s (dot2Body fp16 p b a d)

def execFaddBf16 (p : BitVec 4) (b a d : RegField) (s : State) :=
  floatLane (.faddBf16 p b a d) bf16 p b a d s true opAdd
def execFsubBf16 (p : BitVec 4) (b a d : RegField) (s : State) :=
  floatLane (.fsubBf16 p b a d) bf16 p b a d s true opSub
def execFmulBf16 (p : BitVec 4) (b a d : RegField) (s : State) :=
  floatLane (.fmulBf16 p b a d) bf16 p b a d s true opMul
def execFmaBf16 (p : BitVec 4) (b a d : RegField) (s : State) :=
  floatLane (.fmaBf16 p b a d) bf16 p b a d s true opFma
def execFminBf16 (p : BitVec 4) (b a d : RegField) (s : State) :=
  floatLane (.fminBf16 p b a d) bf16 p b a d s false opMin
def execFmaxBf16 (p : BitVec 4) (b a d : RegField) (s : State) :=
  floatLane (.fmaxBf16 p b a d) bf16 p b a d s false opMax
def execFcmpBf16 (p : BitVec 4) (b a : RegField) (c k : BitVec 3) (s : State) :=
  run (.fcmpBf16 p b a c k) s (packedCompare bf16 p b a c k)
def execFdot2Bf16 (p : BitVec 4) (b a d : RegField) (s : State) :=
  run (.fdot2Bf16 p b a d) s (dot2Body bf16 p b a d)

def execFaddN (b : BitVec 5) (d : RegField) (s : State) :=
  floatLane (.fadd 0 (b.setWidth 6) d d) fp32 0 (b.setWidth 6) d d s true opAdd
def execFsubN (b : BitVec 5) (d : RegField) (s : State) :=
  floatLane (.fsub 0 (b.setWidth 6) d d) fp32 0 (b.setWidth 6) d d s true opSub
def execFmulN (b : BitVec 5) (d : RegField) (s : State) :=
  floatLane (.fmul 0 (b.setWidth 6) d d) fp32 0 (b.setWidth 6) d d s true opMul
def execFmaxN (b : BitVec 5) (d : RegField) (s : State) :=
  floatLane (.fmax 0 (b.setWidth 6) d d) fp32 0 (b.setWidth 6) d d s false opMax

end Sys2Proof.Machine
end

