-- ==== Sys2Proof/Machine/Sfu.lean ====
section
/-! DEFINITION. The special-function members: major 16 (R325, R326). A quotient or a root is exact with a sticky bit. The
other functions are approximated in fixed point within a bound, and rounded at both ends of the enclosure: where the two
ends round alike, that is the correctly rounded result (log 9). -/

namespace Sys2Proof.Machine

/-! ### Quotients and roots -/

/-- The exact quotient of magnitudes, with a sticky bit. -/
def quotient (m n : Nat) (e k : Int) : Exact := ⟨m * 2 ^ 80 / n, e - k - 80, decide (m * 2 ^ 80 % n ≠ 0)⟩

/-- The whole square root of x, found bit by bit from 2^(bits − 1) down. -/
def isqrt (x : Nat) : Nat → Nat → Nat
  | 0, r => r
  | b + 1, r => if (r + 2 ^ b) * (r + 2 ^ b) ≤ x then isqrt x b (r + 2 ^ b) else isqrt x b r

/-- The square root of m × 2^e. -/
def sqrtExact (m : Nat) (e : Int) : Exact :=
  let p : Nat := if e % 2 = 0 then 96 else 97
  let x := m * 2 ^ p
  let r := isqrt x 80 0
  ⟨r, (e - p) / 2, decide (r * r ≠ x)⟩

/-- The reciprocal of the square root of m × 2^e. -/
def rsqrtExact (m : Nat) (e : Int) : Exact :=
  let p : Nat := if e % 2 = 0 then 128 else 129
  let r := isqrt (2 ^ p / m) 80 0
  ⟨r, -((e + p) / 2), decide (r * r * m ≠ 2 ^ p)⟩

/-- A quotient as FP32 bits (R326). -/
def fdivBits (md : FpMode) (u : Nat) (x y : Fp) : Nat :=
  match x, y with
  | .nan, _ => fp32.nan
  | _, .nan => fp32.nan
  | .inf _, .inf _ => fp32.nan
  | .inf a, .fin b _ _ => fp32.infinity (a != b)
  | .fin a _ _, .inf b => fp32.pack (a != b) 0 fp32.qmin
  | .fin a m e, .fin b n k =>
    if n = 0 then (if m = 0 then fp32.nan else fp32.infinity (a != b))
    else fp32.round md (a != b) (quotient m n e k) u

def frsqBits (md : FpMode) (u : Nat) (y : Fp) : Nat :=
  match y with
  | .nan => fp32.nan
  | .inf neg => if neg then fp32.nan else fp32.pack false 0 fp32.qmin
  | .fin neg m e =>
    if m = 0 then fp32.infinity neg else if neg then fp32.nan else fp32.round md false (rsqrtExact m e) u

def fsqrtBits (md : FpMode) (u : Nat) (y : Fp) : Nat :=
  match y with
  | .nan => fp32.nan
  | .inf neg => if neg then fp32.nan else fp32.infinity false
  | .fin neg m e =>
    if m = 0 then fp32.pack neg 0 fp32.qmin else if neg then fp32.nan else fp32.round md false (sqrtExact m e) u

/-! ### Fixed point -/

/-- The bits after the point, and the bound on every approximation below, in units of the last of them. -/
def fixBits : Nat := 640
def fixBound : Nat := 2 ^ 40

/-- The product of two numbers in fixed point. -/
def fixMul (x y : Nat) : Nat := x * y / 2 ^ fixBits

/-- A dyadic number in fixed point. -/
def toFix (m : Nat) (e : Int) : Nat := if 0 ≤ e + fixBits then m * 2 ^ (e + fixBits).toNat else m / 2 ^ (-(e + fixBits)).toNat

/-- The sum of z^(2k + 1) ÷ (2k + 1) over n terms from term k on: atanh z; p is z^(2k + 1). -/
def atanhSum (z2 : Nat) : (n k p acc : Nat) → Nat
  | 0, _, _, acc => acc
  | n + 1, k, p, acc => atanhSum z2 n (k + 1) (fixMul p z2) (acc + p / (2 * k + 1))

/-- ln y for y in 1 to 2, in fixed point. -/
def fixLn (y : Nat) : Nat :=
  let one := 2 ^ fixBits
  let z := (y - one) * one / (y + one)
  2 * atanhSum (fixMul z z) 210 0 z 0

/-- The sum of x^k ÷ k! over n terms from term k on: e^x; t is the term. -/
def expSum (x : Nat) : (n k t acc : Nat) → Nat
  | 0, _, _, acc => acc
  | n + 1, k, t, acc => expSum x n (k + 1) (fixMul t x / (k + 1)) (acc + t)

/-- e^x for x in 0 to 1, in fixed point. -/
def fixExp (x : Nat) : Nat := expSum x 130 0 (2 ^ fixBits) 0

/-- The alternating sum that sine (from k = 1, t = x) and cosine (from k = 0, t = 1) are. -/
def altSum (x2 : Nat) : (n k t : Nat) → (plus : Bool) → (acc : Int) → Int
  | 0, _, _, _, acc => acc
  | n + 1, k, t, plus, acc =>
    altSum x2 n (k + 2) (fixMul t x2 / ((k + 1) * (k + 2))) (!plus) (if plus then acc + t else acc - t)

/-- Sine and cosine of x in 0 to π ÷ 2, in fixed point. -/
def fixSin (x : Nat) : Nat := (altSum (fixMul x x) 140 1 x true 0).toNat
def fixCos (x : Nat) : Nat := (altSum (fixMul x x) 140 0 (2 ^ fixBits) true 0).toNat

/-- Bits of π ÷ 2 that bring the greatest FP32 argument within its first quadrant. -/
def piBits : Nat := 800

/-- arctan(1 ÷ d) with piBits after the point: p is 1 ÷ d^(2k + 1). -/
def atanInv (d2 : Nat) : (n k p : Nat) → (plus : Bool) → (acc : Int) → Int
  | 0, _, _, _, acc => acc
  | n + 1, k, p, plus, acc =>
    atanInv d2 n (k + 1) (p / d2) (!plus) (if plus then acc + p / (2 * k + 1) else acc - p / (2 * k + 1))

/-- π ÷ 2 by Machin's formula. -/
def halfPi : Nat :=
  (8 * atanInv 25 180 0 (2 ^ piBits / 5) true 0 - 2 * atanInv 57121 60 0 (2 ^ piBits / 239) true 0).toNat

/-- The quadrant of a magnitude and its place within it, in fixed point. -/
def quadrant (m : Nat) (e : Int) : Nat × Nat :=
  let x := m * 2 ^ (e + piBits).toNat
  (x / halfPi % 4, x % halfPi / 2 ^ (piBits - fixBits))

/-! ### Rounding an approximation -/

/-- A magnitude known to lie within the bound of v × 2^(e − fixBits), rounded: both ends must agree. -/
def roundNear (md : FpMode) (neg : Bool) (v : Nat) (e : Int) (u : Nat) (tag : Nat) : Nat :=
  let lo := fp32.round md neg ⟨v - fixBound, e - fixBits, true⟩ u
  let hi := fp32.round md neg ⟨v + fixBound - 1, e - fixBits, true⟩ u
  if lo = hi then lo else (Config.undecidedResult tag).toNat

def fexp2Bits (md : FpMode) (u : Nat) (y : Fp) (tag : Nat) : Nat :=
  match y with
  | .nan => fp32.nan
  | .inf neg => if neg then fp32.pack false 0 fp32.qmin else fp32.infinity false
  | .fin neg m e =>
    -- the whole part, kept within reach, and the fraction
    let x : Int := if neg then -(toFix m (min e 64) : Int) else toFix m (min e 64)
    let n : Int := x / (2 ^ fixBits : Nat)
    let f := (x % (2 ^ fixBits : Nat)).toNat
    let n' := max (-400) (min 400 n)
    if f = 0 then fp32.round md false ⟨1, n', false⟩ u
    else roundNear md false (fixExp (fixMul f (fixLn (2 ^ fixBits * 2)))) n' u tag

def flog2Bits (md : FpMode) (u : Nat) (y : Fp) (tag : Nat) : Nat :=
  match y with
  | .nan => fp32.nan
  | .inf neg => if neg then fp32.nan else fp32.infinity false
  | .fin neg m e =>
    if m = 0 then fp32.infinity true
    else if neg then fp32.nan
    else
      let n : Int := e + bitLen m - 1
      let y := m * 2 ^ (fixBits + 1 - bitLen m)
      if y = 2 ^ fixBits then fp32.round md (n < 0) ⟨n.natAbs, 0, false⟩ u
      else
        let l : Int := n * (2 ^ fixBits : Nat) + (fixLn y * 2 ^ fixBits / fixLn (2 ^ fixBits * 2) : Nat)
        roundNear md (l < 0) l.natAbs 0 u tag

/-- Sine of the angle (quadrant, place) + shift quadrants, times a sign. -/
def sinBits (md : FpMode) (u : Nat) (neg : Bool) (q r : Nat) (tag : Nat) : Nat :=
  let v := if q % 2 = 0 then fixSin r else fixCos r
  roundNear md (neg != decide (2 ≤ q % 4)) v 0 u tag

def fsinBits (md : FpMode) (u : Nat) (y : Fp) (tag : Nat) : Nat :=
  match y with
  | .nan => fp32.nan
  | .inf _ => fp32.nan
  | .fin neg m e =>
    if m = 0 then fp32.pack neg 0 fp32.qmin
    else sinBits md u neg (quadrant m e).1 (quadrant m e).2 tag

def fcosBits (md : FpMode) (u : Nat) (y : Fp) (tag : Nat) : Nat :=
  match y with
  | .nan => fp32.nan
  | .inf _ => fp32.nan
  | .fin _ m e =>
    if m = 0 then fp32.round md false ⟨1, 0, false⟩ u
    else sinBits md u false ((quadrant m e).1 + 1) (quadrant m e).2 tag

/-- e^(2x) for x up to 32, in fixed point: the exponential of 2x ÷ 1024 squared ten times. -/
def fixExp2x (x : Nat) : Nat := (List.range 10).foldl (fun y _ => fixMul y y) (fixExp (2 * x / 1024))

/-- The hyperbolic tangent (R326); from 32 on it lies between 1 − 2^−64 and 1. -/
def ftanhBits (md : FpMode) (u : Nat) (y : Fp) (tag : Nat) : Nat :=
  match y with
  | .nan => fp32.nan
  | .inf neg => fp32.round md neg ⟨1, 0, false⟩ u
  | .fin neg m e =>
    if m = 0 then fp32.pack neg 0 fp32.qmin
    else if 5 < e + bitLen m then fp32.round md neg ⟨2 ^ 64 - 1, -64, true⟩ u
    else
      let x := fixExp2x (toFix m e)
      let one := 2 ^ fixBits
      roundNear md neg ((x - one) * one / (x + one)) 0 u tag

/-! ### The members -/

/-- A member of major 16 on the b operand and, for FDIV, on a: each lane draws once (R73). -/
def sfu (i : Instr) (p : BitVec 4) (b a d : RegField) (s : State) (f : FpMode → Nat → Fp → Fp → Nat) :
    Host.Outcome State Fault Refusal :=
  run i s fun w t =>
    let md := fpMode w.fpctl
    writeDrawing w t d.toNat 1 fun l =>
      BitVec.ofNat 32 (f md (w.draw l 0) (fp32.read md (laneAt (w.lane a.toNat) l).toNat)
        (fp32.read md (w.pat t.cur.strand p b.toNat l).toNat))

/-- The number that an undecided result depends on: the member, the mode, the draw and the operand. -/
def sfuTag (fn : Nat) (md : FpMode) (u : Nat) (y : Fp) : Nat :=
  let r := match md.round with
    | .rne => 0
    | .rtz => 1
    | .rup => 2
    | .rdn => 3
    | .stochastic => 4
  fn + 16 * r + 128 * u + 2 ^ 24 * fp32.write ⟨.rne, false, false⟩ y 0

def execFrcp (p : BitVec 4) (b d : RegField) (s : State) :=
  sfu (.frcp p b d) p b 0 d s fun md u _ y => fdivBits md u (.fin false 1 0) y
def execFrsq (p : BitVec 4) (b d : RegField) (s : State) :=
  sfu (.frsq p b d) p b 0 d s fun md u _ y => frsqBits md u y
def execFsqrt (p : BitVec 4) (b d : RegField) (s : State) :=
  sfu (.fsqrt p b d) p b 0 d s fun md u _ y => fsqrtBits md u y
def execFdiv (p : BitVec 4) (b a d : RegField) (s : State) :=
  sfu (.fdiv p b a d) p b a d s fdivBits
def execFexp2 (p : BitVec 4) (b d : RegField) (s : State) :=
  sfu (.fexp2 p b d) p b 0 d s fun md u _ y => fexp2Bits md u y (sfuTag 4 md u y)
def execFlog2 (p : BitVec 4) (b d : RegField) (s : State) :=
  sfu (.flog2 p b d) p b 0 d s fun md u _ y => flog2Bits md u y (sfuTag 5 md u y)
def execFsin (p : BitVec 4) (b d : RegField) (s : State) :=
  sfu (.fsin p b d) p b 0 d s fun md u _ y => fsinBits md u y (sfuTag 6 md u y)
def execFcos (p : BitVec 4) (b d : RegField) (s : State) :=
  sfu (.fcos p b d) p b 0 d s fun md u _ y => fcosBits md u y (sfuTag 7 md u y)
def execFtanh (p : BitVec 4) (b d : RegField) (s : State) :=
  sfu (.ftanh p b d) p b 0 d s fun md u _ y => ftanhBits md u y (sfuTag 8 md u y)

end Sys2Proof.Machine
end

