-- ==== Sys2Proof/Machine/Convert.lean ====
section
/-! DEFINITION. Conversions: major 17 (R77 to R81, R84, R85). -/

namespace Sys2Proof.Machine

/-! ### FCVT (R84, R85) -/

/-- What an element of a conversion is: a float format, or a signed integer of n bits. -/
inductive Elem where
  | flt (f : Fmt)
  | int (n : Nat)
deriving DecidableEq, Repr, Inhabited

/-- The format that a code names. -/
def Elem.ofCode (c : Nat) : Elem :=
  match c with
  | 0 => .flt fp32
  | 1 => .flt fp16
  | 2 => .flt bf16
  | 3 => .flt e4m3
  | 4 => .flt e5m2
  | 5 => .int 32
  | 6 => .int 8
  | _ => .int 4

/-- The bits of an element. -/
def Elem.width : Elem → Nat
  | .flt f => f.width
  | .int n => n

/-- A value rounded to an integer and saturated (R85): a NaN gives 0. -/
def fpToInt (md : FpMode) (n : Nat) (u : Nat) : Fp → Int
  | .nan => 0
  | .inf neg => if neg then -(2 ^ (n - 1) : Nat) else (2 ^ (n - 1) : Nat) - 1
  | .fin neg m e =>
    -- beyond 2^64 the value saturates whatever its last bits
    if 64 < e + bitLen m then satInt n (if neg then -(2 ^ 64 : Nat) else (2 ^ 64 : Nat))
    else satInt n (roundInt md.round neg m e u)

/-- cvt(e, l) of R85 on an element's bits. -/
def convert (src dst : Elem) (md : FpMode) (u x : Nat) : Nat :=
  match src, dst with
  | .flt f, .flt g => g.write md (f.read md x) u
  | .flt f, .int n => wrapInt n (fpToInt md n u (f.read md x))
  | .int n, .flt g => let v := signed n x
                      g.write md (.fin (v < 0) v.natAbs 0) u
  | .int n, .int k => wrapInt k (satInt k (signed n x))

/-- Whether a conversion draws (R73). -/
def Elem.draws : Elem → Elem → Bool
  | .int _, .int _ => false
  | _, _ => true

/-- A number with n bits at bit lo replaced. -/
def insertBits (w lo n v : Nat) : Nat := w - bits w lo n * 2 ^ lo + v % 2 ^ n * 2 ^ lo

/-- One converted word (R85). -/
def convertWord (src dst : Elem) (j : Nat) (md : FpMode) (draw : Nat → Nat) (x old : Word) : Word :=
  let ns := 32 / src.width
  let nd := 32 / dst.width
  let elem := fun (i : Nat) => bits x.toNat (src.width * i) src.width
  if nd ≤ ns then
    BitVec.ofNat 32 (((List.range nd).map fun i => convert src dst md (draw i) (elem (j * nd + i)) * 2 ^ (dst.width * i)).sum)
  else
    BitVec.ofNat 32 ((List.range ns).foldl (fun w i =>
      insertBits w (dst.width * (j * ns + i)) dst.width (convert src dst md (draw i) (elem i))) old.toNat)

def execFcvt (src dst j : BitVec 3) (a d : RegField) (s : State) :=
  run (.fcvt src dst j a d) s fun w t =>
    let x := Elem.ofCode src.toNat
    let y := Elem.ofCode dst.toNat
    writeDrawing w t d.toNat (if x.draws y then Nat.min (32 / x.width) (32 / y.width) else 0) fun l =>
      convertWord x y j.toNat (fpMode w.fpctl) (w.draw l) (laneAt (w.lane a.toNat) l) (laneAt (w.lane d.toNat) l)

/-! ### SX blocks (R77, R78) -/

/-- m of a kind: the magnitude bits of a payload. -/
def sxBits (kind : Nat) : Nat :=
  match kind with
  | 0 => 7
  | 1 => 3
  | _ => 1

/-- The lane words of a block's payload. -/
def sxWords (kind : Nat) : Nat := sxBits kind + 1

/-- A block as 32 payloads, element 0 first, and its scale. -/
structure SxBlock where
  payload : List Nat
  scale : Nat
deriving DecidableEq, Repr, Inhabited

/-- floor(log2 x) of a positive magnitude. -/
def floorLog2 (m : Nat) (e : Int) : Int := e + bitLen m - 1

/-- Whether m × 2^e is below 2^k. -/
def belowPow (m : Nat) (e k : Int) : Bool := decide (m = 0) || decide (floorLog2 m e < k)

/-- The magnitude of a finite value. -/
def Fp.mag : Fp → Nat
  | .fin _ m _ => m
  | _ => 0

/-- The sub-shift of a group (R80). -/
def subShift (e : Int) (xs : List Fp) : Nat :=
  let ok := fun (k : Nat) => xs.all fun x => belowPow x.mag x.exp (e - 127 - k)
  if ok 3 then 3 else if ok 2 then 2 else if ok 1 then 1 else 0

/-- One payload: q = x × 2^(m−1) ÷ 2^(E−127−σ), rounded, its magnitude saturated (R80). -/
def sxPayload (m : Nat) (e : Int) (sigma : Nat) (md : FpMode) (u : Nat) (x : Fp) : Nat :=
  match x with
  | .fin neg mg ex =>
    let q := ex + (m - 1) - (e - 127 - sigma)
    let r := (roundInt md.round neg mg q u).natAbs
    let mag := Nat.min r (2 ^ m - 1)
    (if neg && mag ≠ 0 then 2 ^ m else 0) + mag
  | _ => 0

/-- A block quantised (R80). -/
def quantise (m : Nat) (md : FpMode) (draw : Nat → Nat) (xs : List Fp) : SxBlock :=
  if xs.any fun x => x = .nan || x = .inf true || x = .inf false then ⟨List.replicate 32 0, 0xFF⟩
  else if xs.all fun x => x.mag = 0 then ⟨List.replicate 32 0, 0⟩
  else
    let top := (xs.filter fun x => x.mag ≠ 0).foldl (fun k x => max k (floorLog2 x.mag x.exp)) (-1000)
    let e := max 1 (top + 127)
    let sig := (List.range 4).map fun k => subShift e ((xs.drop (8 * k)).take 8)
    ⟨xs.zipIdx.map fun x => sxPayload m e (sig.getD (x.2 / 8) 0) md (draw x.2) x.1,
      e.toNat + ((List.range 4).map fun k => sig.getD k 0 * 2 ^ (8 + 2 * k)).sum⟩

/-- The value of element i of a block (R77); the sign of a zero is ignored. -/
def sxValue (m scale i payload : Nat) : Fp :=
  let e := scale % 256
  if e = 0xFF then .nan
  else .fin (bitAt payload m && bits payload 0 m ≠ 0) (bits payload 0 m) ((e : Int) - 127 - bits scale (8 + 2 * (i / 8)) 2 - (m - 1))

/-- The payload of element i of block g in a payload register (R78, R68). -/
def sxElem (kind : Nat) (v : LaneReg) (g i : Nat) : Nat :=
  let k := sxWords kind
  let per := 32 / k
  bits (laneAt v (k * g + i / per)).toNat (k * (i % per)) k

/-- The scale halfword of block g in a scale register (R78). -/
def sxScale (v : LaneReg) (g : Nat) : Nat := bits (laneAt v (g / 2)).toNat (16 * (g % 2)) 16

/-- A block's payload as lane words (R68). -/
def sxPack (kind : Nat) (b : SxBlock) (j : Nat) : Word :=
  let k := sxWords kind
  let per := 32 / k
  BitVec.ofNat 32 (((List.range per).map fun i => b.payload.getD (per * j + i) 0 * 2 ^ (k * i)).sum)

/-- The lanes of block g. -/
def blockLanes (g : Nat) : LaneMask := maskOf fun l => l / 32 = g

/-- A block's payload and scale written, whatever the mask of the lanes that hold them (R80). -/
def Weave.putBlock (w : Weave) (kind d b g : Nat) (x : SxBlock) : Weave :=
  let k := sxWords kind
  let w1 := w.setLanes d (maskOf fun l => k * g ≤ l && l < k * g + k) fun l => sxPack kind x (l - k * g)
  w1.setLanes b (1 <<< (g / 2)) fun _ =>
    BitVec.ofNat 32 (insertBits (laneAt (w1.lane b) (g / 2)).toNat (16 * (g % 2)) 16 x.scale)

def execQblk (k : BitVec 2) (b a d : RegField) (s : State) :=
  run (.qblk k b a d) s fun w t =>
    let md := fpMode w.fpctl
    let act := w.act t.cur.strand
    let gs := (List.range 3).filter fun g => act &&& blockLanes g ≠ 0
    let value := fun (l : Nat) =>
      if act.getLsbD l then fp32.read md (laneAt (w.lane a.toNat) l).toNat else Fp.fin false 0 0
    let block := fun (g : Nat) =>
      quantise (sxBits k.toNat) md (fun i => w.draw (32 * g + i) 0) ((List.range 32).map fun i => value (32 * g + i))
    .ok (t.onMe fun x =>
      (gs.foldl (fun u g => u.putBlock k.toNat d.toNat b.toNat g (block g)) x).advance
        (gs.foldl (fun m g => m ||| blockLanes g) 0) 1)

def execDqblk (k : BitVec 2) (b a d : RegField) (s : State) :=
  run (.dqblk k b a d) s fun w t =>
    let md : FpMode := { fpMode w.fpctl with round := .rne }
    writeLanes w t d.toNat fun l =>
      let g := l / 32
      BitVec.ofNat 32 (fp32.write md (sxValue (sxBits k.toNat) (sxScale (w.lane b.toNat) g) (l % 32)
        (sxElem k.toNat (w.lane a.toNat) g (l % 32))) 0)

end Sys2Proof.Machine
end

