-- ==== Sys2Proof/Machine/Rearrange.lean ====
section
/-! DEFINITION. Reductions and scans over lanes: VRED and VSCAN (R368, R381, R382). -/

namespace Sys2Proof.Machine

/-- An integer operation of VRED and VSCAN (R368, R381). -/
def reduceInt (o : Nat) (x y : Word) : Word :=
  match o with
  | 0 => x + y
  | 1 => if x.slt y then x else y
  | 2 => if x.slt y then y else x
  | 3 => if x.ult y then x else y
  | 4 => if x.ult y then y else x
  | 5 => x &&& y
  | 6 => x ||| y
  | _ => x ^^^ y

/-- A float operation of VRED and VSCAN: stochastic mode is read as RNE (R381). -/
def reduceFloat (md : FpMode) (o : Nat) (x y : Word) : Word :=
  let a := fp32.read md x.toNat
  let b := fp32.read md y.toNat
  let v := match o with
    | 0 => sumExact md.round [a, b]
    | 1 => a.min b
    | _ => a.max b
  BitVec.ofNat 32 (fp32.write md v 0)

/-- The captured mode with stochastic rounding read as RNE (R73). -/
def FpMode.plain (md : FpMode) : FpMode := { md with round := if md.round = .stochastic then .rne else md.round }

/-- The element of a single active lane, with DAZ and FTZ, a NaN canonical (R381, R70). -/
def ownElement (md : FpMode) (x : Word) : Word := BitVec.ofNat 32 (fp32.write md (fp32.read md x.toNat) 0)

/-- The element with which a chain of several lanes goes on: read after DAZ, with no result to flush (R381, R74). -/
def firstElement (md : FpMode) (x : Word) : Word := ownElement { md with ftz := false } x

/-- What a chain is made of: its operation, what becomes of a single element, and its first element (R381). -/
structure Chain where
  op : Word → Word → Word
  own : Word → Word
  first : Word → Word

/-- The chain of a kind and an operation code (R381). -/
def reduceOp (k : BitVec 2) (o : BitVec 3) (md : FpMode) : Chain :=
  if k = 0 then ⟨reduceInt o.toNat, id, id⟩ else ⟨reduceFloat md.plain o.toNat, ownElement md.plain, firstElement md.plain⟩

/-- The values of the chain of R381 after each lane of a list, in order. What the lowest lane shows is a result, to which FTZ applies; the
chain goes on with the element as it was read (R74, R382). -/
def chainOf (c : Chain) (v : LaneReg) : List Nat → List (Nat × Word)
  | [] => []
  | [l] => [(l, c.own (laneAt v l))]
  | l0 :: r =>
    (r.foldl (fun (x : Word × List (Nat × Word)) l =>
      let y := c.op x.1 (laneAt v l)
      (y, x.2 ++ [(l, y)])) (c.first (laneAt v l0), [(l0, c.own (laneAt v l0))])).2

def execVred (k : BitVec 2) (o : BitVec 3) (a d : RegField) (s : State) :=
  run (.vred k o a d) s fun w t =>
    let c := chainOf (reduceOp k o (fpMode w.fpctl)) (w.lane a.toNat) (lanesOf (w.act t.cur.strand))
    writeLanes w t d.toNat fun _ => (c.getLast?.map (·.2)).getD 0

def execVscan (k : BitVec 2) (o : BitVec 3) (a d : RegField) (s : State) :=
  run (.vscan k o a d) s fun w t =>
    let c := chainOf (reduceOp k o (fpMode w.fpctl)) (w.lane a.toNat) (lanesOf (w.act t.cur.strand))
    writeLanes w t d.toNat fun l => ((c.find? fun x => x.1 = l).map (·.2)).getD 0

end Sys2Proof.Machine
end

