-- ==== Sys2Proof/Machine/Queues.lean ====
section
/-! DEFINITION. Indexed lane registers (R51, R52) and the queue members that move registers (R53 to R55): major 20. -/

namespace Sys2Proof.Machine

/-! ### Indexed lane registers -/

/-- The lane register that lane l names through an index register, if it is within bound and allocation (R52). -/
def Weave.indexed (w : Weave) (x : XReg) (a l : Nat) : Option Nat :=
  let i := x.base.toNat + (laneAt (w.lane a) l).toNat
  if x.bound.toNat ≤ i || w.nregs ≤ i then none else some i

/-- The lanes of ACT whose index is out of bound (R52). -/
def Weave.indexFails (w : Weave) (st : Strand) (x : XReg) (a : Nat) : LaneMask :=
  maskOf fun l => (w.act st).getLsbD l && (w.indexed x a l).isNone

/-- The REG_BOUND of an index register, with the failing lanes. -/
def boundFault (s : State) (w : Weave) (m : LaneMask) : Except Stop State :=
  .error (.fault { s.info w .regBound accOther with faulters := m })

def execVldx (x : BitVec 2) (a d : RegField) (s : State) :=
  run (.vldx x a d) s fun w t =>
    let xr := w.xreg x.toNat
    let m := w.indexFails t.cur.strand xr a.toNat
    if m ≠ 0 then boundFault t w m
    else writeLanes w t d.toNat fun l => laneAt (w.lane ((w.indexed xr a.toNat l).getD 0)) l

/-- The lanes of a VSTX stored, each into the register that its index names (R52). -/
def Weave.storeIndexed (w old : Weave) (st : Strand) (xr : XReg) (a : Nat) (f : Nat → Word) : Weave :=
  (lanesOf (old.act st)).foldl (fun (u : Weave) l =>
    match old.indexed xr a l with
    | some i => u.setLanes i (1 <<< l) f
    | none => u) w

def execVstx (p : BitVec 4) (b a : RegField) (x : BitVec 2) (s : State) :=
  run (.vstx p b a x) s fun w t =>
    let xr := w.xreg x.toNat
    let m := w.indexFails t.cur.strand xr a.toNat
    if m ≠ 0 then boundFault t w m
    else .ok (t.onMe fun u => u.storeIndexed w t.cur.strand xr a.toNat fun l => w.pat t.cur.strand p b.toNat l)

def execSetx (a : RegField) (x : BitVec 2) (s : State) :=
  run (.setx a x) s fun w t =>
    let v := reg w t a
    .ok (t.onMe fun u => { u with xRegs := u.xRegs.setIfInBounds x.toNat ⟨v.extractLsb' 0 7, v.extractLsb' 8 7⟩ })

/-! ### Queues -/

/-- Whether a stream pushes into a queue: the A-stream into q0 and q1, the C-stream into q2 and q3; it pops the others (R53). -/
def pushesInto (st : Stream) (q : Nat) : Bool :=
  match st with
  | .a => decide (q < 2)
  | .c => decide (2 ≤ q)

/-- A complete entry. -/
def QEntry.filled (ticket : Nat) (x : QData) : QEntry := ⟨ticket, x, true, none, []⟩

/-- An entry reserved for data that are to arrive (R54). -/
def QEntry.reserved (ticket : Nat) (kept : List LaneReg) : QEntry := ⟨ticket, .vector LaneReg.zero, false, none, kept⟩

/-- What QPUSH pushes: a lane register whole, or a scalar register (R55). -/
def pushed (w : Weave) (st : Strand) (k : BitVec 1) (a : Nat) : QData :=
  match st with
  | .a => .scalar (w.scal st a)
  | .c _ => if k = 0 then .vector (w.lane a) else .scalar (w.scal st a)

def execQpush (a : RegField) (k : BitVec 1) (q : BitVec 2) (s : State) :=
  run (.qpush a k q) s fun w t =>
    if !pushesInto t.cur.strand.stream q.toNat then failing t w .queueMisuse accQueue
    else if !(w.queue q.toNat).hasRoom then .error (.wait (.queueRoom q.toNat))
    else
      let e := QEntry.filled t.nextId (pushed w t.cur.strand k a.toNat)
      .ok ({ t with nextId := t.nextId + 1 }.onMe fun x => x.onQueue q.toNat fun u => u.push e)

/-- Lane l of a head popped into a lane register (R55). -/
def QData.lane (x : QData) (l : Nat) : Word :=
  match x with
  | .vector v => laneAt v l
  | .scalar y => if l = 0 then y.extractLsb' 0 32 else if l = 1 then y.extractLsb' 32 32 else 0

/-- QPOP and QPEEK: the head of a queue into a register, and, for QPOP, removed (R55). -/
def popBody (k : BitVec 1) (q : Nat) (d : RegField) (remove : Bool) : Body := fun w t =>
  if pushesInto t.cur.strand.stream q then failing t w .queueMisuse accQueue
  else
    match (w.queue q).head? with
    | none => .error (.wait (.queueHead q 1))
    | some e =>
      let u := if remove then t.onMe fun x => x.onQueue q Queue.pop else t
      if t.cur.strand.stream = .c && k = 0 then writeLanes w u d.toNat e.data.lane
      else
        match e.data with
        | .vector _ => failing t w .queueMisuse accQueue
        | .scalar x => writeScal u d x

def execQpop (k : BitVec 1) (q : BitVec 2) (d : RegField) (s : State) :=
  run (.qpop k q d) s (popBody k q.toNat d true)
def execQpeek (k : BitVec 1) (q : BitVec 2) (d : RegField) (s : State) :=
  run (.qpeek k q d) s (popBody k q.toNat d false)

/-- Whether the head is complete and scalar (R55). -/
def Queue.scalarHead (q : Queue) : Bool :=
  match q.head? with
  | some e => match e.data with
    | .scalar _ => true
    | .vector _ => false
  | none => false

/-- The value of QSTAT (R55). -/
def Queue.status (q : Queue) : DWord :=
  BitVec.ofNat 64 (q.entries.length % 32 + 256 * (q.completeFromHead % 32) + 65536 * ofBool q.scalarHead)

def execQstat (q : BitVec 2) (d : RegField) (s : State) :=
  run (.qstat q d) s fun w t => writeScal t d (w.queue q.toNat).status

end Sys2Proof.Machine
end

