-- ==== Sys2Proof/Machine/Memory.lean ====
section
/-! DEFINITION. Loads and stores of registers and queues: majors 22 to 24 (R329, R330, R336 to R338, R353, R359, R361 to
R364, R376 to R378). -/

namespace Sys2Proof.Machine

/-! ### What an access asks for -/

/-- The object that a handle register names: its whole value is the identifier (log 15). -/
def handleOf (w : Weave) (st : Strand) (h : RegField) : Nat := (w.scal st h.toNat).toNat

/-- How far after the start the access of lane l lies, in elements of a tensor or in bytes (R112, R239). k of R111 is the
exact quotient, so a width below the element's puts several lanes into one element (log 57). -/
def laneStep (sp : Space) (d? : Option ObjDesc) (w l : Nat) : Nat :=
  match sp, d? with
  | .obj, some d | .far, some d => l * (2 * w) / d.nibs
  | _, _ => l * w

/-- The request of an access whose lanes lie at offsets given one by one. -/
def State.reqAt (s : State) (w : Weave) (a : Attrs) (object : Nat) (off : Offset) (lanes : List (Nat × Bool × Int))
    (width : Nat) (need : Need) (mask : Option LaneMask) (access : Nat) : Req :=
  let d? := s.seeDesc w.id.core w.partition object
  let onObj := a.space = .obj || a.space = .far
  { space := a.space, object, width, need, lanes, mask, viewMask := if s.cur.strand = .a && mask.isNone then none else some (w.act s.cur.strand)
    info := { s.info w .illegal access with
      object := if onObj then BitVec.ofNat 32 object else 0
      generation := if onObj then s.recordGeneration w.partition object d? (off.start d?).2 else 0
      place := off.place
      linear := match off with
        | .coords .. => some (off.start d?).2.toNat
        | .at' _ => none } }

/-- The request of an access whose lane l lies l steps after the start (R112). -/
def State.reqRow (s : State) (w : Weave) (a : Attrs) (object : Nat) (off : Offset) (lanes : List Nat)
    (width : Nat) (need : Need) (mask : Option LaneMask) (access : Nat) : Req :=
  let d? := s.seeDesc w.id.core w.partition object
  let start := off.start d?
  s.reqAt w a object off (lanes.map fun (l : Nat) => (l, start.1, start.2 + laneStep a.space d? width l)) width need mask access

/-- An access of host memory must name register value 0 as its handle (R337). -/
def hostHandleBad (a : Attrs) (object : Nat) : Bool := a.space = .hst && object ≠ 0

/-- The bytes of a width code (R95). -/
def widthBytes (w : BitVec 2) : Nat := 2 ^ w.toNat

/-- A value of n bytes extended to a register of r bits (R95). -/
def extend (e : BitVec 1) (n r x : Nat) : Nat := if e = 1 then wrapInt r (signed (8 * n) x) else x % 2 ^ (8 * n)

/-- The attributes that an access has once its checks have passed. -/
def State.attrsOf (s : State) (i : Instr) (w : Weave) : Attrs := (s.attrs? i w).getD default

/-- The default faulters' mask of a scalar form: ACT, which is zero in the A-stream (R110). -/
def scalarMask (s : State) (w : Weave) : Option LaneMask := some (w.act s.cur.strand)

/-- Whether nothing can fail any more once a load has been issued: scratchpad and host memory lie behind no port, and their
data fail only where they are poisoned. -/
def neverFails (a : Attrs) (bad : LaneMask) : Bool := (a.space = .spd || a.space = .hst) && bad = 0

/-! ### Loads -/

/-- A scalar load: LDS and SLD (R337, R361). -/
def loadScalar (i : Instr) (f : BitVec 1) (wd : BitVec 2) (e : BitVec 1) (c h d : RegField) : Body := fun w t =>
  let a := t.attrsOf i w
  let object := handleOf w t.cur.strand h
  if hostHandleBad a object then failing t w .illegal accLoad
  else
    let n := widthBytes wd
    let q := t.reqRow w a object (w.offset t.cur.strand f c.toNat) [0] n .read (scalarMask t w) accLoad
    match t.load w.id (t.agentOf w t.cur.strand) a q with
    | .error x => .error x
    | .ok r => .ok (r.state.fly q.info (.scal d.toNat (BitVec.ofNat 64 (extend e n 64 (r.value 0)))) r.lanesAt
        (if r.bad = 0 then 0 else BitVec.allOnes 96) (neverFails a r.bad))

def execLds (f : BitVec 1) (wd : BitVec 2) (e : BitVec 1) (c h d : RegField) (s : State) :=
  run (.lds f wd e c h d) s (loadScalar (.lds f wd e c h d) f wd e c h d)

def execSld (f : BitVec 1) (wd : BitVec 2) (e : BitVec 1) (c h d : RegField) (s : State) :=
  run (.sld f wd e c h d) s (loadScalar (.sld f wd e c h d) f wd e c h d)

/-- The request of LDC and STC: two lanes of 8 bytes, one after the other; `bad` says that their start is not a multiple of
twice their width (R337, R363). -/
def State.reqPair (s : State) (w : Weave) (a : Attrs) (object : Nat) (off : Offset) (need : Need) (access : Nat) : Req × Bool :=
  let d? := s.seeDesc w.id.core w.partition object
  let q := s.reqRow w a object off [0, 1] 8 need (scalarMask s w) access
  (q, (off.start d?).2 % (laneStep a.space d? 8 2 : Nat) ≠ 0)

def execLdc (f : BitVec 1) (c h d : RegField) (s : State) :=
  run (.ldc f c h d) s fun w t =>
    let a := t.attrsOf (.ldc f c h d) w
    let object := handleOf w t.cur.strand h
    if hostHandleBad a object then failing t w .illegal accLoad
    else
      let q := t.reqPair w a object (w.offset t.cur.strand f c.toNat) .read accLoad
      let g := t.agentOf w t.cur.strand
      match t.checkReq g q.1 with
      | .error x => .error x
      | .ok () =>
        if q.2 then .error (q.1.fault .align 0)
        else
          match t.load w.id g a q.1 with
          | .error x => .error x
          | .ok r => .ok (r.state.fly q.1.info
              (.scal2 d.toNat (d.toNat + 1) (BitVec.ofNat 64 (r.value 0)) (BitVec.ofNat 64 (r.value 1))) r.lanesAt r.bad (neverFails a r.bad))

def execVld (f : BitVec 1) (wd : BitVec 2) (e : BitVec 1) (c h d : RegField) (s : State) :=
  run (.vld f wd e c h d) s fun w t =>
    let a := t.attrsOf (.vld f wd e c h d) w
    let object := handleOf w t.cur.strand h
    let act := w.act t.cur.strand
    if act ≠ 0 && hostHandleBad a object then failing t w .illegal accLoad
    else
      let n := widthBytes wd
      let q := t.reqRow w a object (w.offset t.cur.strand f c.toNat) (lanesOf act) n .read none accLoad
      match t.load w.id (t.agentOf w t.cur.strand) a q with
      | .error x => .error x
      | .ok r => .ok (r.state.fly q.info
          (.lanes d.toNat act (mkLanes fun l => BitVec.ofNat 32 (extend e n 32 (r.value l)))) r.lanesAt r.bad (neverFails a r.bad))

/-! ### Gathers -/

/-- Lane l's index as an integer, from its low word and, for 64-bit indexes, its high word (R104). -/
def laneIndex (wd : BitVec 2) (sg : BitVec 1) (lo hi : Word) : Int :=
  let n := 8 * widthBytes wd
  let x := lo.toNat + (if wd = 3 then 2 ^ 32 * hi.toNat else 0)
  if sg = 1 then signed n x else (x % 2 ^ n : Nat)

/-- The offsets of R114, lane by lane; one of 2^48 or more lies past every object. -/
def gatherLanes (base : Nat) (wd : BitVec 2) (sg : BitVec 1) (sc : BitVec 2) (lo hi : LaneReg) (lanes : List Nat) :
    List (Nat × Bool × Int) :=
  lanes.map fun l =>
    let o : Int := base + laneIndex wd sg (laneAt lo l) (laneAt hi l) * (2 ^ sc.toNat : Nat)
    (l, decide (2 ^ 48 ≤ o), o)

def execVgth (wd : BitVec 2) (sg : BitVec 1) (sc : BitVec 2) (b a d : RegField) (s : State) :=
  run (.vgth wd sg sc b a d) s fun w t =>
    let at' := t.attrsOf (.vgth wd sg sc b a d) w
    let object := handleOf w t.cur.strand a
    let act := w.act t.cur.strand
    if act ≠ 0 && hostHandleBad at' object then failing t w .illegal accGather
    else
      let base := w.scal t.cur.strand (a.toNat + 1)
      let ls := gatherLanes base.toNat wd sg sc (w.lane b.toNat) (w.lane (b.toNat + 1)) (lanesOf act)
      let q := t.reqAt w at' object (.at' base) ls 4 .read none accGather
      match t.load w.id (t.agentOf w t.cur.strand) at' q with
      | .error x => .error x
      | .ok r => .ok (r.state.fly q.info (.lanes d.toNat act (mkLanes fun l => BitVec.ofNat 32 (r.value l)))
          r.lanesAt r.bad (neverFails at' r.bad))

/-! ### Loads into queues -/

/-- The entry that an LDQ or GTHQ at a PC holds after its data failed (R56). -/
def Queue.toRefill (q : Queue) (pc : BitVec 32) : Option QEntry := q.entries.find? fun e => e.refill = some pc

/-- The entry that data will fill: the one already held (R56), or a new one at the tail; the state and its number. -/
def State.reserve (s : State) (q : Nat) (held : Option QEntry) (kept : List LaneReg) : State × Nat :=
  match held with
  | some e => (s.onMe fun w => w.onQueue q fun u => u.onEntry e.ticket fun x => { x with refill := none }, e.ticket)
  | none => ({ s with nextId := s.nextId + 1 }.onMe fun w => w.onQueue q fun u => u.push (QEntry.reserved s.nextId kept), s.nextId)

/-- The load of LDQ and GTHQ: its entry is reserved when it issues, also where the load is left for later (R54, R162), and each lane's
word is made of its value. -/
def queueLoad (i : Instr) (w : Weave) (t : State) (a : Attrs) (rq : Req) (q : Nat) (reserve : State → State × Nat)
    (word : Nat → Word) : Except Stop State :=
  match t.load w.id (t.agentOf w t.cur.strand) a rq with
  | .error (.postpone p) => .ok ((reserve t).1.leave i w p (some (q, (reserve t).2)))
  | .error x => .error x
  | .ok r =>
    let u := match t.slot with
      | some (_, ticket) => (r.state, ticket)
      | none => reserve r.state
    .ok (u.1.fly rq.info (.queue q u.2 (mkLanes fun l => word (r.value l))) r.lanesAt r.bad (neverFails a r.bad))

def execLdq (f : BitVec 1) (wd : BitVec 2) (e : BitVec 1) (c h : RegField) (q : BitVec 2) (s : State) :=
  run (.ldq f wd e c h q) s fun w t =>
    let a := t.attrsOf (.ldq f wd e c h q) w
    let object := handleOf w t.cur.strand h
    let held := (w.queue q.toNat).toRefill t.cur.pc
    if !pushesInto .a q.toNat then failing t w .queueMisuse accQueue
    else if held.isNone && !(w.queue q.toNat).hasRoom then .error (.wait (.queueRoom q.toNat))
    else if hostHandleBad a object then failing t w .illegal accLoad
    else
      let n := widthBytes wd
      let rq := t.reqRow w a object (w.offset t.cur.strand f c.toNat) laneList n .read none accLoad
      queueLoad (.ldq f wd e c h q) w t a rq q.toNat (fun u => u.reserve q.toNat held []) fun x => BitVec.ofNat 32 (extend e n 32 x)

/-- The index vectors at the head of a queue: one entry, or two for 64-bit indexes; the second part says whether one of
them is scalar. None when they are not complete (R330). -/
def Queue.indexes (q : Queue) (wd : BitVec 2) : Option (List LaneReg × Bool) :=
  let n := if wd = 3 then 2 else 1
  if q.completeFromHead < n then none
  else
    let es := q.entries.take n
    some (es.filterMap fun e => match e.data with
        | .vector v => some v
        | .scalar _ => none,
      es.any fun e => match e.data with
        | .vector _ => false
        | .scalar _ => true)

def execGthq (wd : BitVec 2) (sg : BitVec 1) (sc : BitVec 2) (b a : RegField) (qi qd : BitVec 2) (s : State) :=
  run (.gthq wd sg sc b a qi qd) s fun w t =>
    let at' := t.attrsOf (.gthq wd sg sc b a qi qd) w
    let object := handleOf w t.cur.strand a
    let held := (w.queue qd.toNat).toRefill t.cur.pc
    if !pushesInto .a qd.toNat || pushesInto .a qi.toNat then failing t w .queueMisuse accQueue
    else
      let idx := match held with
        | some e => some (e.kept, false)
        | none => if (w.queue qd.toNat).hasRoom then (w.queue qi.toNat).indexes wd else none
      match idx with
      | none => .error (.wait (.gather qi.toNat (if wd = 3 then 2 else 1) qd.toNat))
      | some (vs, scalar) =>
        if scalar then failing t w .queueMisuse accQueue
        else if hostHandleBad at' object then failing t w .illegal accGather
        else
          let base := w.scal t.cur.strand b.toNat
          let ls := gatherLanes base.toNat wd sg sc (vs.getD 0 LaneReg.zero) (vs.getD 1 LaneReg.zero) laneList
          let q := t.reqAt w at' object (.at' base) ls 4 .read none accGather
          let take := fun (u : State) => if held.isSome then u
            else u.onMe fun x => x.onQueue qi.toNat fun y => y.popMany vs.length
          queueLoad (.gthq wd sg sc b a qi qd) w t at' q qd.toNat (fun u => (take u).reserve qd.toNat held vs) (BitVec.ofNat 32)

/-! ### Stores -/

/-- A scalar store: STS and SST (R362, R361). -/
def storeScalar (i : Instr) (f : BitVec 1) (wd : BitVec 2) (c h d : RegField) : Body := fun w t =>
  let a := t.attrsOf i w
  let object := handleOf w t.cur.strand h
  if hostHandleBad a object then failing t w .illegal accStore
  else
    let n := widthBytes wd
    let q := t.reqRow w a object (w.offset t.cur.strand f c.toNat) [0] n .write (scalarMask t w) accStore
    t.store' w (t.agentOf w t.cur.strand) a q fun _ => (reg w t d).toNat % 2 ^ (8 * n)

def execSts (f : BitVec 1) (wd : BitVec 2) (c h d : RegField) (s : State) :=
  run (.sts f wd c h d) s (storeScalar (.sts f wd c h d) f wd c h d)

def execSst (f : BitVec 1) (wd : BitVec 2) (c h d : RegField) (s : State) :=
  run (.sst f wd c h d) s (storeScalar (.sst f wd c h d) f wd c h d)

def execStc (f : BitVec 1) (c h d : RegField) (s : State) :=
  run (.stc f c h d) s fun w t =>
    let a := t.attrsOf (.stc f c h d) w
    let object := handleOf w t.cur.strand h
    if hostHandleBad a object then failing t w .illegal accStore
    else
      let q := t.reqPair w a object (w.offset t.cur.strand f c.toNat) .write accStore
      let g := t.agentOf w t.cur.strand
      match t.checkReq g q.1 with
      | .error x => .error x
      | .ok () =>
        if q.2 then .error (q.1.fault .align 0)
        else t.store' w g a q.1 fun l => (w.scal t.cur.strand (d.toNat + l)).toNat

def execVst (f : BitVec 1) (wd : BitVec 2) (c h d : RegField) (s : State) :=
  run (.vst f wd c h d) s fun w t =>
    let a := t.attrsOf (.vst f wd c h d) w
    let object := handleOf w t.cur.strand h
    if w.act t.cur.strand ≠ 0 && hostHandleBad a object then failing t w .illegal accStore
    else
      let n := widthBytes wd
      let q := t.reqRow w a object (w.offset t.cur.strand f c.toNat) (lanesOf (w.act t.cur.strand)) n .write none accStore
      t.store' w (t.agentOf w t.cur.strand) a q fun l => (laneAt (w.lane d.toNat) l).toNat % 2 ^ (8 * n)

def execVsct (wd : BitVec 2) (sg : BitVec 1) (sc : BitVec 2) (b a d : RegField) (s : State) :=
  run (.vsct wd sg sc b a d) s fun w t =>
    let at' := t.attrsOf (.vsct wd sg sc b a d) w
    let object := handleOf w t.cur.strand a
    if w.act t.cur.strand ≠ 0 && hostHandleBad at' object then failing t w .illegal accScatter
    else
      let base := w.scal t.cur.strand (a.toNat + 1)
      let ls := gatherLanes base.toNat wd sg sc (w.lane b.toNat) (w.lane (b.toNat + 1)) (lanesOf (w.act t.cur.strand))
      let q := t.reqAt w at' object (.at' base) ls 4 .write none accScatter
      t.store' w (t.agentOf w t.cur.strand) at' q fun l => (laneAt (w.lane d.toNat) l).toNat

/-- The store of STQ and SCTQ with what it pops: at its issue, also where the store is left for later (R162), but for a store to far memory
once its home has accepted it (R362). -/
def queueStore (i : Instr) (w : Weave) (t : State) (r : Except Stop State) (pop : Weave → Weave) : Except Stop State :=
  match r with
  | .error (.postpone p) =>
    if t.reqFar (t.agentOf w t.cur.strand) p then .error (.postpone p) else .ok ((t.leave i w p).onMe pop)
  | .error x => .error x
  | .ok u => .ok (match t.cur.moment with
    | .due .. => if t.awaiting.isSome then u.onMe pop else u
    | _ => u.onMe pop)

def execStq (f : BitVec 1) (wd : BitVec 2) (c h : RegField) (q : BitVec 2) (s : State) :=
  run (.stq f wd c h q) s fun w t =>
    let a := t.attrsOf (.stq f wd c h q) w
    let object := handleOf w t.cur.strand h
    if pushesInto .a q.toNat then failing t w .queueMisuse accQueue
    else
      match (w.queue q.toNat).head? with
      | none => .error (.wait (.queueHead q.toNat 1))
      | some e =>
        match e.data with
        | .scalar _ => failing t w .queueMisuse accQueue
        | .vector v =>
          if hostHandleBad a object then failing t w .illegal accStore
          else
            let n := widthBytes wd
            let rq := t.reqRow w a object (w.offset t.cur.strand f c.toNat) laneList n .write none accStore
            queueStore (.stq f wd c h q) w t (t.store' w (t.agentOf w t.cur.strand) a rq fun l => (laneAt v l).toNat % 2 ^ (8 * n))
              fun x => x.onQueue q.toNat Queue.pop

def execSctq (wd : BitVec 2) (sg : BitVec 1) (sc : BitVec 2) (b a : RegField) (qi qv : BitVec 2) (s : State) :=
  run (.sctq wd sg sc b a qi qv) s fun w t =>
    let at' := t.attrsOf (.sctq wd sg sc b a qi qv) w
    let object := handleOf w t.cur.strand a
    let n := if wd = 3 then 2 else 1
    if pushesInto .a qv.toNat || pushesInto .a qi.toNat then failing t w .queueMisuse accQueue
    else
      match (w.queue qv.toNat).head?, (w.queue qi.toNat).indexes wd with
      | some e, some (vs, scalar) =>
        match e.data with
        | .scalar _ => failing t w .queueMisuse accQueue
        | .vector v =>
          if scalar then failing t w .queueMisuse accQueue
          else if hostHandleBad at' object then failing t w .illegal accScatter
          else
            let base := w.scal t.cur.strand b.toNat
            let ls := gatherLanes base.toNat wd sg sc (vs.getD 0 LaneReg.zero) (vs.getD 1 LaneReg.zero) laneList
            let q := t.reqAt w at' object (.at' base) ls 4 .write none accScatter
            queueStore (.sctq wd sg sc b a qi qv) w t (t.store' w (t.agentOf w t.cur.strand) at' q fun l => (laneAt v l).toNat)
              fun x => (x.onQueue qv.toNat Queue.pop).onQueue qi.toNat fun y => y.popMany n
      | _, _ => .error (.wait (.scatter qv.toNat qi.toNat n))

/-! ### PREF -/

/-- A core's count of dropped accesses (R113, R350). -/
def State.countDrop (s : State) (core : Nat) : State := s.onCore core fun k => { k with specMiss := k.specMiss + 1 }

/-- The place whose line a PREF reads: none where a step of R110 fails for the element or byte at its offset, or a handle of host
memory is not 0 (R353, R113; log 48). -/
def State.prefPlace (s : State) (w : Weave) (st : Strand) (a : Attrs) (object : Nat) (off : Offset) : Option Place :=
  let g := s.agentOf w st
  if a.space = .hst then
    match off with
    | .at' o => if object = 0 && o.toNat < s.granted g.fn then (hostPlaces g.fn o.toNat 1).head? else none
    | .coords .. => none
  else
    (s.seeDesc g.core g.part object).bind fun d =>
      let o := off.start (some d)
      let size := if d.kind = 2 then d.count else d.size
      if d.withdrawn || o.1 || o.2 < 0 || (size : Int) ≤ o.2 || !s.permits g.part object d .read then none
      else
        ((if d.kind = 2 then s.elemPlaces g.core g.part object d o.2.toNat else s.placesAt g.core g.part object d o.2.toNat 1).head?).filter
          fun p => extPresent (s.seeExt g.core g.part object d p.frame) && !extWithdrawn (s.seeExt g.core g.part object d p.frame)

/-- A prefetch of the line that holds an offset (R353): dropped and counted where a check fails; dropped where the region moves, where
its port is down, where its partition has no slot to send in, and where no miss resource is free, which is a free choice; else the
line is read into the levels that the policy names. -/
def State.prefetch (s : State) (w : Weave) (st : Strand) (a : Attrs) (object : Nat) (off : Offset) : State :=
  match s.prefPlace w st a object off with
  | none => s.countDrop w.id.core
  | some p =>
    if p.moving || s.placeDown p || !s.maySend w.partition || Config.freeBool s.tick 4 then s
    else
      let t := if a.space = .hst then s else s.walk w.id.core w.partition object p.frame
      match t.loadLine w.id.core { a with scope := .wv } false p with
      | .ok t => t
      | .error _ => s

/-- An access of a scout or of a wrong path, of any address (R113): made as a prefetch is, for the A-stream of a weave. -/
def State.scout (s : State) (id : WeaveId) (a : Attrs) (object : Nat) (o : DWord) : State :=
  match s.weave? id with
  | none => s
  | some w => s.prefetch w .a a object (.at' o)

def execPref (f : BitVec 1) (c h : RegField) (s : State) :=
  run (.pref f c h) s fun w t =>
    .ok (t.prefetch w t.cur.strand (t.attrsOf (.pref f c h) w) (handleOf w t.cur.strand h) (w.offset t.cur.strand f c.toNat))

end Sys2Proof.Machine
end

