-- ==== Sys2Proof/Machine/Atomics.lean ====
section
/-! DEFINITION. Atomics: major 25 (R104, R175, R180, R281, R282, R312, R313, R374). -/

namespace Sys2Proof.Machine

/-- An atomic operation on n bytes (R282): what is written for an old value and an operand. -/
def amoOp (op n : Nat) (md : FpMode) (old x : Nat) : Nat :=
  let sg := signed (8 * n)
  match op with
  | 0 => (old + x) % 2 ^ (8 * n)
  | 1 => if sg old < sg x then old else x
  | 2 => if sg old < sg x then x else old
  | 3 => if old < x then old else x
  | 4 => if old < x then x else old
  | 5 => old &&& x
  | 6 => old ||| x
  | 7 => old ^^^ x
  | 8 => x
  | _ => fp32.write md.plain (sumExact md.plain.round [fp32.read md.plain old, fp32.read md.plain x]) 0

/-- The width of a scalar atomic (R104). -/
def amoBytes (w : BitVec 2) : Nat := if w = 0 then 4 else 8

/-- Whether a .fadd names a tensor whose elements are not f32, judged once the object is known to exist (R282). -/
def State.faddBad (s : State) (w : Weave) (a : Attrs) (object : Nat) (op : BitVec 4) : Bool :=
  op = 9 && (a.space = .obj || a.space = .far) &&
    (match s.seeDesc w.id.core w.partition object with
     | some d => d.kind = 2 && d.type ≠ 0
     | none => false)

/-- What the atomic of a scalar form asks for: one location of its width (R282, R313). -/
def scalarReq (i : Instr) (wd : BitVec 2) (b a : RegField) (w : Weave) (t : State) : Req :=
  t.reqRow w (t.attrsOf i w) (handleOf w t.cur.strand a) (.at' (reg w t b)) [0] (amoBytes wd) .both (scalarMask t w) accAtomic

/-- What the atomic of a lane form asks for: a word at the offset of each lane of ACT (R180, R374); the record's place is
the lowest of these lanes'. -/
def lanesReq (i : Instr) (b a : RegField) (w : Weave) (t : State) : Req :=
  let act := w.act t.cur.strand
  t.reqAt w (t.attrsOf i w) (handleOf w t.cur.strand a)
    (.at' (((lanesOf act).head?.map fun l => (laneAt (w.lane b.toNat) l).setWidth 64).getD 0))
    ((lanesOf act).map fun l => (l, false, ((laneAt (w.lane b.toNat) l).toNat : Int))) 4 .both (some act) accAtomic

/-- The atomic of a scalar form: f gives what is written for the old value, if anything is; d takes the old value (R282, R313). -/
def atomicScalar (i : Instr) (wd : BitVec 2) (b a d : RegField) (f : Weave → Strand → Nat → Option Nat) : Body := fun w t =>
  let at' := t.attrsOf i w
  let object := handleOf w t.cur.strand a
  if hostHandleBad at' object then failing t w .illegal accAtomic
  else
    let q := scalarReq i wd b a w t
    match t.atomic w (t.agentOf w t.cur.strand) at' q fun _ old => f w t.cur.strand old with
    | .error x => .error x
    | .ok r => .ok (r.1.fly q.info (.scal d.toNat (BitVec.ofNat 64 ((r.2.head?.map (·.2)).getD 0))) [] 0 true)

/-- The ILLEGAL of a .fadd on the wrong element type, whose record names the access as another failed check's does (R282, R248). -/
def faddFault (q : Req) : Except Stop State := .error (.fault { q.info with cause := .illegal })

def execAmo (o : BitVec 4) (wd : BitVec 2) (b a d : RegField) (s : State) :=
  run (.amo o wd b a d) s fun w t =>
    if t.faddBad w (t.attrsOf (.amo o wd b a d) w) (handleOf w t.cur.strand a) o then
      faddFault (scalarReq (.amo o wd b a d) wd b a w t)
    else atomicScalar (.amo o wd b a d) wd b a d (fun u st old =>
      some (amoOp o.toNat (amoBytes wd) (fpMode u.fpctl) old ((u.scal st d.toNat).toNat % 2 ^ (8 * amoBytes wd)))) w t

def execCas (wd : BitVec 2) (b a d : RegField) (s : State) :=
  run (.cas wd b a d) s (atomicScalar (.cas wd b a d) wd b a d fun u st old =>
    let m := 2 ^ (8 * amoBytes wd)
    if old = (u.scal st d.toNat).toNat % m then some ((u.scal st (d.toNat + 1)).toNat % m) else none)

/-- The atomic of a lane form: lane l acts at its own offset, lane after lane (R180, R374). -/
def atomicLanes (i : Instr) (b a d : RegField) (f : Weave → Nat → Nat → Option Nat) : Body := fun w t =>
  let at' := t.attrsOf i w
  let object := handleOf w t.cur.strand a
  let act := w.act t.cur.strand
  if act ≠ 0 && hostHandleBad at' object then failing t w .illegal accAtomic
  else
    let q := lanesReq i b a w t
    match t.atomic w (t.agentOf w t.cur.strand) at' q (f w) with
    | .error x => .error x
    | .ok r => .ok (r.1.fly q.info (.lanes d.toNat act (mkLanes fun l =>
        BitVec.ofNat 32 (((r.2.find? fun x => x.1 = l).map (·.2)).getD 0))) [] 0 true)

def execVamo (o : BitVec 4) (b a d : RegField) (s : State) :=
  run (.vamo o b a d) s fun w t =>
    if w.act t.cur.strand ≠ 0 && t.faddBad w (t.attrsOf (.vamo o b a d) w) (handleOf w t.cur.strand a) o then
      faddFault (lanesReq (.vamo o b a d) b a w t)
    else atomicLanes (.vamo o b a d) b a d (fun u l old =>
      some (amoOp o.toNat 4 (fpMode u.fpctl) old (laneAt (u.lane d.toNat) l).toNat)) w t

def execVcas (b a d : RegField) (s : State) :=
  run (.vcas b a d) s (atomicLanes (.vcas b a d) b a d fun u l old =>
    if old = (laneAt (u.lane d.toNat) l).toNat then some (laneAt (u.lane (d.toNat + 1)) l).toNat else none)

end Sys2Proof.Machine
end

