-- ==== Sys2Proof/Machine/Ports.lean ====
section
/-! DEFINITION. Neighbour ports and the cross-cluster shuffle: major 21 (R196 to R208). -/

namespace Sys2Proof.Machine

/-! ### Partners (R196, R197) -/

/-- Where a port of a weave leads: into the weave itself, or to the upstream or downstream weave; a port without a link
leads nowhere. -/
inductive PortLink where
  | ring | up | down | none
deriving DecidableEq, Repr, Inhabited

/-- The link that a port of a core carries: die edges lie between cores 96d + 95 and 96d + 96 (R197). -/
def portLink (core : Nat) (p : Port) : PortLink :=
  match p with
  | .w | .e => .ring
  | .n => if core % 96 = 0 then .none else .up
  | .s => if core % 96 = 95 then .none else .down
  | .d => if core % 96 = 95 then .down else if core % 96 = 0 then .up else .none

/-- The inbound FIFO that a push through a port lands in (R196). -/
def landsIn : Port → Port
  | .w => .e
  | .e => .w
  | .n => .s
  | .s => .n
  | .d => .d

/-- The lane whose FIFO lane l pushes into (R196). -/
def targetLane (p : Port) (l : Nat) : Nat :=
  match p with
  | .w => (l + 95) % 96
  | .e => (l + 1) % 96
  | _ => l

/-- A partner: its crew and index, and the launch record of its stage. -/
structure Partner where
  crew : Nat
  index : Nat
  record : LaunchRec
deriving DecidableEq, Repr, Inhabited

/-- The launch of a crew. -/
def State.launchOf (s : State) (c : Crew) : Option Launch := s.launches.find? fun l => l.id = c.launch

/-- The launch of the neighbouring stage of a pipeline group; the records of a group are accepted with consecutive numbers. -/
def State.stageLaunch (s : State) (l : Launch) (up : Bool) : Option Launch :=
  if !l.record.pipe then none
  else if up then (if l.record.stage = 0 then none else s.launches.find? fun x => x.id + 1 = l.id)
  else if l.record.stage + 1 = l.record.stages then none
  else s.launches.find? fun x => x.id = l.id + 1

/-- The weave that a port of a weave reaches, if the port has a partner (R197). A crew that is gone keeps its number, so
that the partner counts as ended. -/
def State.partner (s : State) (w : Weave) (p : Port) : Option Partner :=
  match s.crew? w.crew with
  | none => none
  | some c =>
    match s.launchOf c with
    | none => none
    | some l =>
      let stage := fun (up : Bool) => (s.stageLaunch l up).map fun (x : Launch) =>
        (⟨((s.crews.find? fun (y : Crew) => y.launch = x.id && y.index = c.index).map (·.id)).getD s.nextId, w.index, x.record⟩ : Partner)
      match portLink w.id.core p with
      | .ring => some ⟨c.id, w.index, l.record⟩
      | .up => stage true
      | .down => stage false
      | .none => none

/-- Where a partner is: resident, away (saved with its crew), or ended (R197, R198, R205). -/
inductive Whereabouts where
  | here (w : Weave)
  | away
  | ended
deriving DecidableEq, Repr

/-- A weave of a crew, by its index. -/
def State.member (s : State) (crew index : Nat) : Option Weave := s.weaves.find? fun w => w.crew = crew && w.index = index

/-- A weave that has been saved and has not ended, or that waits for its RSTSPL, is away: its FIFOs are those of its area (R205). While a
crew is being restored every weave that has not ended is resident. -/
def State.whereabouts (s : State) (p : Partner) : Whereabouts :=
  match s.member p.crew p.index with
  | some w => if w.saved || w.restored then .away else .here w
  | none =>
    match s.crew? p.crew with
    | some c => if c.state ≠ .restoring && c.home.any fun x => x.index = p.index then .away else .ended
    | none => .ended

/-- The fault of a port member that names no partner, or a FIFO that its receiver did not declare (R197); `push` says that
the partner receives. -/
def State.portBad (s : State) (w : Weave) (p : Port) (push : Bool) : Bool :=
  match s.partner w p with
  | none => true
  | some x => if push then !x.record.ports.contains (landsIn p) else (w.port? p).isNone

/-! ### FIFOs (R198, R200) -/

/-- The entries of one lane of an inbound FIFO. -/
def PortFifo.lane (f : PortFifo) (l : Nat) : List Word := (f.lanes[l]?).getD []

/-- An entry put at the tail of one lane, or taken from its head. -/
def PortFifo.push (f : PortFifo) (l : Nat) (x : Word) : PortFifo := { f with lanes := f.lanes.setIfInBounds l (f.lane l ++ [x]) }
def PortFifo.pop (f : PortFifo) (l : Nat) : PortFifo := { f with lanes := f.lanes.setIfInBounds l (f.lane l).tail }

/-- An empty FIFO. -/
def PortFifo.empty : PortFifo := ⟨.replicate 96 []⟩

/-- The entries in transit toward a lane of an inbound FIFO (R200). -/
def State.inTransit (s : State) (crew index : Nat) (p : Port) (l : Nat) : Nat :=
  (s.transits.filter fun t => t.crew = crew && t.index = index && t.port = p && t.lanes.getLsbD l).length

/-- Whether a lane of a partner's FIFO has room for one more; an ended partner takes any push (R198). -/
def State.portRoom (s : State) (x : Partner) (p : Port) (l : Nat) : Bool :=
  match s.whereabouts x with
  | .ended => true
  | .away => false
  | .here w => ((w.port? p).map fun f => decide ((f.lane l).length + s.inTransit x.crew x.index p l ≤ 7)).getD false

/-- The lanes of ACT for which the wait of a push, or of a pop, is not over (R200, R204). -/
def State.pushUnmet (s : State) (w : Weave) (st : Strand) (p : Port) : LaneMask :=
  match s.partner w p with
  | none => 0
  | some x => maskOf fun l => (w.act st).getLsbD l && !s.portRoom x (landsIn p) (targetLane p l)

def Weave.popUnmet (w : Weave) (st : Strand) (p : Port) : LaneMask :=
  maskOf fun l => (w.act st).getLsbD l && ((w.port? p).map fun f => (f.lane l).isEmpty).getD true

/-! ### NPUSH, NPOP, NPEEK, NPOLL -/

/-- The attributes of NPUSH and NPOP: their prefix's, else none (R98). -/
def portAttrs (t : State) (i : Instr) (w : Weave) : Attrs := t.attrsOf i w

def execNpush (p : BitVec 4) (b : RegField) (n : BitVec 3) (s : State) :=
  run (.npush p b n) s fun w t =>
    let port := portOfCode n.toNat
    match t.partner w port with
    | none => failing t w .illegal accPort
    | some x =>
      if t.portBad w port true then failing t w .illegal accPort
      else if t.pushUnmet w t.cur.strand port ≠ 0 then .error (.wait (.portOut port))
      else
        let a := portAttrs t (.npush p b n) w
        let u := if releases a.order then t.release w.id.core a.scope else t
        let act := w.act t.cur.strand
        let lanes := maskOf fun l => laneList.any fun k => act.getLsbD k && targetLane port k = l
        let source := fun (l : Nat) => (laneList.find? fun k => targetLane port k = l).getD 0
        if releases a.order && t.fenceHeld w.partition w.id.core a.scope then .error .stall
        else if t.whereabouts x = .ended || act = 0 then .ok u
        else
          .ok { u with transits := u.transits ++ [⟨w.id, x.crew, x.index, landsIn port, lanes,
            mkLanes fun l => w.pat t.cur.strand p b.toNat (source l)⟩] }

/-- NPOP and NPEEK (R200). -/
def portPop (i : Instr) (n : BitVec 3) (d : RegField) (remove : Bool) : Body := fun w t =>
  let port := portOfCode n.toNat
  if t.portBad w port false then failing t w .illegal accPort
  else if w.popUnmet t.cur.strand port ≠ 0 then .error (.wait (.portIn port))
  else
    let a := portAttrs t i w
    let f := (w.port? port).getD PortFifo.empty
    let act := w.act t.cur.strand
    let u := if remove then t.onMe fun x => x.onPort port fun g => (lanesOf act).foldl PortFifo.pop g else t
    let v := if acquires a.order && remove then u.acquire w.id.core a.scope else u
    if acquires a.order && remove && t.fenceHeld w.partition w.id.core a.scope then .error .stall
    else writeLanes w v d.toNat fun l => (f.lane l).headD 0

def execNpop (n : BitVec 3) (d : RegField) (s : State) := run (.npop n d) s (portPop (.npop n d) n d true)
def execNpeek (n : BitVec 3) (d : RegField) (s : State) := run (.npeek n d) s (portPop (.npeek n d) n d false)

def execNpoll (n : BitVec 3) (k : BitVec 1) (p : BitVec 3) (s : State) :=
  run (.npoll n k p) s fun w t =>
    let port := portOfCode n.toNat
    if t.portBad w port (k = 1) then failing t w .illegal accPort
    else if k = 0 then
      writePred w t p.toNat fun l => ((w.port? port).map fun f => !(f.lane l).isEmpty).getD false
    else
      match t.partner w port with
      | none => failing t w .illegal accPort
      | some x => writePred w t p.toNat fun l => t.portRoom x (landsIn port) (targetLane port l)

/-! ### Images (R206) -/

/-- The bytes of an image. -/
def portImageBytes : Nat := 3200

/-- The image of an inbound FIFO: eight rows, the counts, zeros (R206). -/
def PortFifo.image (f : PortFifo) : List Byte :=
  ((List.range 8).flatMap fun k => laneList.flatMap fun l => leBytes 4 ((f.lane l).getD k 0).toNat)
    ++ (laneList.map fun l => BitVec.ofNat 8 (f.lane l).length) ++ List.replicate 32 0

/-- The FIFO of an image; none when a count exceeds 8 (R206). -/
def imageFifo (b : List Byte) : Option PortFifo :=
  let count := fun (l : Nat) => (b.getD (3072 + l) 0).toNat
  if laneList.any fun l => 8 < count l then none
  else some ⟨Vector.ofFn fun l => (List.range (count l.val)).map fun k =>
    BitVec.ofNat 32 (leNat ((b.drop (384 * k + 4 * l.val)).take 4))⟩

/-- The fault of a 3,200-byte image at a scratchpad address, if any (R206). -/
def State.imageFault (s : State) (w : Weave) (st : Strand) (a align n : Nat) : Option Cause :=
  if !s.spadInside (s.agentOf w st) a n then some .objBound else if a % align ≠ 0 then some .align else none

/-- Bytes of a core's SRAM, and bytes written there. -/
def State.sramBytes (s : State) (core a n : Nat) : List Byte := (List.range n).map fun i => s.sramByte core (a + i)
def State.sramStore (s : State) (core a : Nat) (bs : List Byte) : State :=
  bs.zipIdx.foldl (fun t x => t.sramSet core (a + x.2) x.1) s

/-- A fault that names a scratchpad address. -/
def placeFault (t : State) (w : Weave) (c : Cause) (access at' : Nat) : Except Stop State :=
  .error (.fault { t.info w c access with place := BitVec.ofNat 128 at' })

def execNsave (n : BitVec 3) (a : RegField) (s : State) :=
  run (.nsave n a) s fun w t =>
    let port := portOfCode n.toNat
    let at' := (reg w t a).toNat
    match w.port? port with
    | none => failing t w .illegal accPort
    | some f =>
      match t.imageFault w t.cur.strand at' 128 portImageBytes with
      | some c => placeFault t w c accPort at'
      | none =>
        if laneList.any fun l => t.inTransit w.crew w.index port l ≠ 0 then .error .stall
        else .ok (t.sramStore w.id.core ((t.agentOf w t.cur.strand).spad at') f.image)

def execNload (n : BitVec 3) (a : RegField) (s : State) :=
  run (.nload n a) s fun w t =>
    let port := portOfCode n.toNat
    let at' := (reg w t a).toNat
    if (w.port? port).isNone then failing t w .illegal accPort
    else
      match t.imageFault w t.cur.strand at' 128 portImageBytes with
      | some c => placeFault t w c accPort at'
      | none =>
        match imageFifo (t.sramBytes w.id.core ((t.agentOf w t.cur.strand).spad at') portImageBytes) with
        | none => failing t w .illegal accPort
        | some f => .ok (t.onMe fun x => x.onPort port fun _ => f)

/-! ### XSHUF (R207) -/

/-- A weave's fragment that waits at an XSHUF whose PAIR named a weave (R207); of several the one of the lowest entry (DESIGN CHOICE,
log 65). -/
def Weave.shuffling (w : Weave) (id : WeaveId) : Option (Nat × Nat × LaneMask × LaneReg) :=
  ((List.range 128).findSome? fun e =>
    match (w.entry e).wait with
    | some ⟨.shuffle d m v p, _, _, _⟩ =>
      if p.valid && p.core.toNat = id.core && p.weave.toNat = id.slot then some (e, d.toNat, m, v) else none
    | _ => none)

/-- Whether a weave's waits can end now: no halt keeps them, and it is not away (R260). -/
def State.waitsOpen (s : State) (w : Weave) : Bool :=
  !w.halted && !w.saved && !w.restored && ((s.crew? w.crew).map (·.state)).getD .run ≠ .halting

/-- Lane values of one side's exchange: lanes active on both sides (R207). -/
def Weave.exchange (w : Weave) (d : Nat) (mine theirs : LaneMask) (v : LaneReg) : Weave :=
  w.setLanes d (mine &&& theirs) (laneAt v)

/-- A waiting fragment released, to go on after its 4-byte word. -/
def Weave.release (w : Weave) (e : Nat) : Weave :=
  let x := w.entry e
  { w.setEntry e { x with kind := .ready, wait := none, addr := x.addr + 4 } with cIssued := w.cIssued + 1 }

/-- A core that the module has, and that a partition has been granted. -/
def State.hasCore (s : State) (core : Nat) : Bool := decide (core < 384) && s.coresPresent.getLsbD core
def State.grantedCore (s : State) (part core : Nat) : Bool := (s.pcb part).granted.getLsbD core

def execXshuf (a d : RegField) (s : State) :=
  run (.xshuf a d) s fun w t =>
    let core := w.pair.core.toNat
    if !w.pair.valid || clusterOf core = clusterOf w.id.core || dieOf core ≠ dieOf w.id.core || !t.hasCore core then
      failing t w .illegal accPort
    else if !t.grantedCore w.partition core then failing t w .perm accPort
    else
      let act := w.act t.cur.strand
      let other := t.weave? ⟨core, w.pair.weave.toNat⟩
      let ready := other.bind fun o => if t.waitsOpen o then (o.shuffling w.id).map fun x => (o, x) else none
      match ready with
      | none => .error (.wait (.shuffle d act (w.lane a.toNat) w.pair))
      | some (o, e, od, om, ov) =>
        let u := t.onMe fun x => x.exchange d.toNat act om ov
        .ok (u.onWeave o.id fun x => (x.exchange od om act (w.lane a.toNat)).release e)

end Sys2Proof.Machine
end

