-- ==== Sys2Proof/Machine/Sync.lean ====
section
/-! DEFINITION. Synchronisation: major 26 (R167, R174, R181, R277, R278, R285 to R288, R293, R294), and arrivals at barrier
and completion objects (R215, R216). -/

namespace Sys2Proof.Machine

/-! ### FENCE -/

/-- Whether FENCE's order code has a release part, and an acquire part (R167). -/
def fenceReleases (o : BitVec 3) : Bool := o ≠ 1
def fenceAcquires (o : BitVec 3) : Bool := o ≠ 2

def execFence (sc o : BitVec 3) (s : State) :=
  run (.fence sc o) s fun w t =>
    let scope := (Scope.ofCode sc).getD .wv
    let u := if fenceReleases o then t.release w.id.core scope else t
    if t.fenceHeld w.partition w.id.core scope then .error .stall
    else .ok (if fenceAcquires o then u.acquire w.id.core scope else u)

/-! ### ACQP -/

def execAcqp (a : RegField) (sc : BitVec 3) (s : State) :=
  run (.acqp a sc) s fun w t =>
    let v := (reg w t a).toNat
    if 383 < v then failing t w .illegal accOther
    else if !t.hasCore v || !t.grantedCore w.partition v then failing t w .perm accOther
    else .ok (t.fly (t.info w .illegal accOther) (.drain v ((Scope.ofCode sc).getD .cl)) [] 0 true)

/-- The drain point of an ACQP: the victim's L1 is written back and invalidated, and its cluster's L copies end from die
scope on; the ACQP then completes as an acquire (R174, R278). -/
def State.drain (s : State) (thief victim : Nat) (sc : Scope) : State :=
  ((s.flushL1 victim sc).acquireCaches victim sc).acquire thief sc

/-- Whether the drain of an ACQP waits for a slot of the partition of the weave that made it (R153). -/
def State.drainHeld (s : State) (f : Flight) (victim : Nat) (sc : Scope) : Bool :=
  (s.weave? f.weave).any fun w => s.fenceHeld w.partition victim sc || s.fenceHeld w.partition f.weave.core sc

/-! ### Barrier and completion objects -/

/-- A field of an object's word 0 (R215). -/
def State.pendingAt (s : State) (core a : Nat) : Nat := s.sramRead core (a + 4) 2
def State.expectedAt (s : State) (core a : Nat) : Nat := s.sramRead core (a + 2) 2
def State.bytesAt (s : State) (core a : Nat) : Nat := s.sramRead core (a + 8) 8
def State.statusAt (s : State) (core a : Nat) : Nat := s.sramRead core (a + 16) 8

/-- The scope of the release that flips an object, kept for those who await it (R170). -/
def State.noteFlip (s : State) (core a : Nat) (sc : Scope) : State :=
  { s with flipScopes := (s.objectKey core a, sc) :: s.flipScopes.filter fun x => x.1 ≠ s.objectKey core a }

/-- No engine or array has arrived at an object in the phase that begins (R217). -/
def State.freshPhase (s : State) (core a : Nat) : State :=
  { s with merged := s.merged.filter fun x => x ≠ s.objectKey core a }

/-- The phase inverts and pending reloads, where nothing is pending any more (R216). -/
def State.flipIfDone (s : State) (core a : Nat) (sc : Scope) : State :=
  if s.pendingAt core a = 0 && s.bytesAt core a = 0 then
    (((s.sramSet core a (s.sramByte core a ^^^ 1)).sramWrite core (a + 4) 2 (s.expectedAt core a)).noteFlip core a sc).freshPhase core a
  else s

/-- One arrival at an object (R216, R285). -/
def State.arrive (s : State) (core a : Nat) (sc : Scope) : State :=
  (s.sramWrite core (a + 4) 2 (s.pendingAt core a - 1)).flipIfDone core a sc

/-- BINIT's contents (R294). -/
def initWord (n : Nat) : Nat := 2 ^ 16 * n + 2 ^ 32 * n

/-- Where a crew's scratchpad begins, and its barrier objects. -/
def State.crewSpad (s : State) (w : Weave) : Nat := ((s.crew? w.crew).map (·.spadAt)).getD 0
def State.crewBytes (s : State) (w : Weave) : Nat := ((s.crew? w.crew).map (·.spadBytes)).getD 0
def State.crewBars (s : State) (w : Weave) : Nat := ((s.crew? w.crew).map (·.bars)).getD 0

/-- The locator of a barrier or completion object (R211, R285). -/
def locatorOf (v : DWord) : Nat := bits v.toNat 0 20

/-- A barrier's locator: its fault, if any (R285). -/
def State.barrierFault (s : State) (w : Weave) (o : Nat) : Option Cause :=
  if o % 32 ≠ 0 then some .align else if s.crewBars w ≤ o / 32 then some .objBound else none

/-- A barrier record of a weave, and one written. -/
def Weave.barRec (w : Weave) (j : Nat) : BarrierRec := (w.recs[j]?).getD ⟨false, false⟩
def Weave.setRec (w : Weave) (j : Nat) (r : BarrierRec) : Weave := { w with recs := w.recs.setIfInBounds j r }

/-- The arrival of BAR and BARA: a release at core scope, the record, and the object (R285 to R287). -/
def State.barArrive (s : State) (w : Weave) (o : Nat) : State :=
  let a := s.crewSpad w + o
  let t := s.release w.id.core .co
  (t.onWeave w.id fun x => x.setRec (o / 32) ⟨true, s.phaseAt w.id.core a⟩).arrive w.id.core a .co

/-- The completion of BAR and BARW: the record cleared, and an acquire at core scope (R286, R288). -/
def State.barComplete (s : State) (id : WeaveId) (o : Nat) : State :=
  (s.onWeave id fun x => x.setRec (o / 32) { x.barRec (o / 32) with arrived := false }).acquire id.core .co

/-- A BAR that has arrived waits beside the next instruction: only its completion is left, so that a stop keeps the arrival. -/
def State.waitHere (s : State) (o : Nat) (phase : Bool) : State := s.startWait (.barrier o phase)

def execBar (d : RegField) (s : State) :=
  run (.bar d) s fun w t =>
    let o := locatorOf (reg w t d)
    match t.barrierFault w o with
    | some c => placeFault t w c accOther o
    | none =>
      let phase := t.phaseAt w.id.core (t.crewSpad w + o)
      let u := t.barArrive w o
      if u.phaseAt w.id.core (t.crewSpad w + o) ≠ phase then .ok (u.barComplete w.id o)
      else .ok (u.waitHere o phase)

def execBara (d : RegField) (s : State) :=
  run (.bara d) s fun w t =>
    let o := locatorOf (reg w t d)
    match t.barrierFault w o with
    | some c => placeFault t w c accOther o
    | none => .ok (t.barArrive w o)

def execBarw (d : RegField) (s : State) :=
  run (.barw d) s fun w t =>
    let o := locatorOf (reg w t d)
    match t.barrierFault w o with
    | some c => placeFault t w c accOther o
    | none =>
      let r := w.barRec (o / 32)
      if !r.arrived then .ok (t.acquire w.id.core .co)
      else if t.phaseAt w.id.core (t.crewSpad w + o) ≠ r.phase then .ok (t.barComplete w.id o)
      else .ok (t.waitHere o r.phase)

def execBinit (a d : RegField) (s : State) :=
  run (.binit a d) s fun w t =>
    let o := locatorOf (reg w t d)
    let n := (reg w t a).toNat
    if t.crewBytes w < o + 32 then placeFault t w .objBound accOther o
    else if o % 32 ≠ 0 then placeFault t w .align accOther o
    else if n = 0 || 65535 < n then failing t w .illegal accOther
    else
      let u := (t.sramWrite w.id.core (t.crewSpad w + o) 32 (initWord n)).freshPhase w.id.core (t.crewSpad w + o)
      if o / 32 < t.crewBars w then
        .ok { u with weaves := u.weaves.map fun (x : Weave) =>
          if x.crew = w.crew then x.setRec (o / 32) ⟨false, false⟩ else x }
      else .ok u

/-! ### WAITV (R181) -/

/-- The byte of a place at the level of a scope, no copy being allocated: nearer copies are passed over. -/
def State.levelByte (s : State) (core : Nat) (sc : Scope) (p : Place) : Byte :=
  if sc.code < 2 then s.seeByte core p
  else
    match s.lineAt (.cluster (clusterOf core)) p.line with
    | some c => if sc = .cl && c.state = .l then c.byteOf p else s.memByte p.home
    | none => s.memByte p.home

/-- The state in which `levelByte` sees the newest bytes: stale copies are given up, and dirty owned copies come home. -/
def State.levelReady (s : State) (core : Nat) (sc : Scope) (p : Place) : Except Stop State :=
  if 3 ≤ sc.code && s.lElsewhere (clusterOf core) p.line then .error (.retry p.line false)
  else
    let t := (s.freshenHalves core [p]).homeSync p.line
    .ok (if lineOf p.home = p.line then t else t.homeSync (lineOf p.home))

/-- The request of a WAITV. -/
def State.waitvReq (s : State) (w : Weave) (a : Attrs) (object : Nat) (o : DWord) : Req :=
  s.reqRow w a object (.at' o) [0] 4 .read (scalarMask s w) accLoad

/-- The word that WAITV observes (R181). -/
def State.observeWord (s : State) (g : Agent) (a : Attrs) (q : Req) : Except Stop (State × Word) :=
  match s.checkReq g q with
  | .error e => .error e
  | .ok () =>
    let o := ((q.lanes.head?.map fun (l : Nat × Bool × Int) => l.2.2).getD 0).toNat
    match q.space, s.descOf g q with
    | .spd, _ =>
      if s.sramPoisoned g.core (g.spad o) 4 then .error (q.fault .dataUe 0)
      else .ok (s, BitVec.ofNat 32 (s.sramRead g.core (g.spad o) 4))
    | _, some d =>
      let ps := (s.lanesAt g q d).flatMap (·.places)
      if ps.any s.placeDown then .error (q.fault .farUnavail 0)
      else if ps.any s.poisoned then .error (q.fault .dataUe 0)
      else if ps.any (·.busy) || (!s.maySend g.part && (2 ≤ a.scope.code || ps.any (s.sends g.core))) then .error .stall
      else
        match readyLines (fun t p => t.levelReady g.core a.scope p) s (linePlaces ps) with
        | .error e => .error e
        | .ok t => .ok (t, BitVec.ofNat 32 (joinPlaces (t.levelByte g.core a.scope) ps))
    | _, none => .ok (s, 0)

/-- The element that a WAITV sends to its home observed as a run: where its scope goes beyond the core, or no nearer copy serves it (R121,
R181). A WAITV makes one run, observed when it completes (DESIGN CHOICE, log 62). -/
def State.waitvRun (s t : State) (g : Agent) (a : Attrs) (q : Req) : State :=
  match (if a.space = .obj then t.seeDesc g.core g.part q.object else none) with
  | none => s
  | some d =>
    let ls := t.lanesAt g q d
    s.observeRun g.part q.object d (runOf d 4 ls fun l => decide (2 ≤ a.scope.code) || l.places.any (t.sends g.core))

def execWaitv (b a d : RegField) (s : State) :=
  run (.waitv b a d) s fun w t =>
    let at' := (waitvAttrs (.waitv b a d) (w.mdef t.cur.strand)).getD default
    let object := handleOf w t.cur.strand a
    let o := reg w t b
    if hostHandleBad at' object then failing t w .illegal accLoad
    else
      let c : Word := (reg w t d).setWidth 32
      let g := t.agentOf w t.cur.strand
      let q := t.waitvReq w at' object o
      match t.observeWord g at' q with
      | .error e => .error e
      | .ok (u0, x) =>
        let u := u0.waitvRun t g at' q
        if t.fenceHeld w.partition w.id.core at'.scope then .error .stall
        else if x ≠ c then writeScal (u.acquire w.id.core at'.scope) d (x.setWidth 64)
        else .error (.wait (.word object o.toNat at' c (w.physical t.cur.strand d.toNat) (w.mode t.cur.strand)))

end Sys2Proof.Machine
end

