-- ==== Sys2Proof/Machine/Bundles.lean ====
section
/-! DEFINITION. The bundle members: major 27 (R193, R194, R283, R284, R291, R292, R295 to R300, R302, R303, R307 to R310),
and what the events do at the coordinator and the member homes (R189). -/

namespace Sys2Proof.Machine

/-- A fault of an instruction that names an object without a place. -/
def objectStop (t : State) (w : Weave) (c : Cause) (access object generation : Nat) : Except Stop State :=
  .error (.fault { t.info w c access with object := BitVec.ofNat 32 object, generation := BitVec.ofNat 32 generation })

/-- Steps 1 to 5 of R110 on the header of a manifest, which must be a bundle object (R193). -/
def State.manifestFault (s : State) (w : Weave) (object : Nat) (write : Bool) : Option Cause :=
  match s.seeDesc w.id.core w.partition object with
  | none => some .objBound
  | some d =>
    if d.kind ≠ 3 then some .objBound
    else if d.withdrawn then some .extentGone
    else if d.size < 64 then some .objBound
    else if !d.readable || (write && !d.writable) then some .perm
    else none

/-- A result register's value (R193). -/
def bundleResult (code gen : Nat) : DWord := BitVec.ofNat 64 (2 ^ 32 * code + gen % 2 ^ 32)

/-- The generation field of a result whose generation the spec does not state (log 16). -/
def State.openGen (s : State) : Nat := (Config.freeDWord s.tick 0).toNat

/-- Participation: the record and BREG take a handle and a generation (R292). -/
def Weave.participate (w : Weave) (handle gen : Nat) : Weave :=
  { w with part := some (BitVec.ofNat 32 handle, BitVec.ofNat 32 gen), breg := BitVec.ofNat 32 handle }

/-- The generation that BREG's bundle has open. -/
def State.bregOpen (s : State) (w : Weave) : Nat := ((s.bundle? w.partition w.breg.toNat).map (·.opened)).getD 0

/-! ### BOPEN and BJOIN -/

/-- The lowest index of the directory that no entry holds (R183). -/
def State.freeIndex (s : State) : Nat :=
  ((List.range 4096).find? fun i => !(s.bundles.any fun b => b.index = i)).getD 0

/-- The directory entry of a first open; none where a limit is reached or the header is not zero (R183, R194). -/
def State.firstOpen (s : State) (part handle : Nat) : Option Bundle :=
  let mine := (s.bundles.filter fun b => b.part = part).length
  if 4096 ≤ s.bundles.length || (s.pcb part).bundlesNow ≤ mine || s.objRead part handle 0 64 ≠ 0 then none
  else some { part, handle, index := s.freeIndex, coordinator := s.chipId.toNat, state := .committed, opened := 0
              committed := 0, participants := 0, joined := 0, closed := 0, chips := 0, pin := none, pinOwner := 0, members := []
              reported := false, aborted := [], owners := [] }

/-- A bundle opened at its next generation by a weave of a function (R298). -/
def Bundle.opening (b : Bundle) (n fn : Nat) : Bundle :=
  { b with state := .opened, opened := b.opened + 1, participants := n, joined := 1, closed := 0, chips := 1, reported := false
           owners := [fn] }

/-- What BOPEN does at the coordinator, and its result (R298, R194). -/
def State.answerOpen (s : State) (w : Weave) (h n : Nat) : State × DWord :=
  let u := s.objSync w.partition h 0 64
  match (u.bundle? w.partition h).or (u.firstOpen w.partition h) with
  | none => (u, bundleResult 2 u.openGen)
  | some x =>
    if x.state ≠ .committed && x.state ≠ .aborted then (u, bundleResult 1 u.openGen)
    else if x.opened = 0xFFFFFFFE then (u, bundleResult 2 u.openGen)
    else
      let y := x.opening n w.function
      ((u.putBundle y).onWeave w.id fun v => v.participate h y.opened, bundleResult 0 y.opened)

/-- What BJOIN does at the coordinator, and its result (R296, R194). -/
def State.answerJoin (s : State) (w : Weave) (h : Nat) : State × DWord :=
  match s.bundle? w.partition h with
  | none => (s, bundleResult 1 s.openGen)
  | some x =>
    let joined := fun (t : State) => (t.onWeave w.id fun v => v.participate h x.opened, bundleResult 0 x.opened)
    if x.state ≠ .opened then (s, bundleResult 1 s.openGen)
    else if w.part = some (BitVec.ofNat 32 h, BitVec.ofNat 32 x.opened) then joined s
    else if x.joined = x.participants then (s, bundleResult 3 s.openGen)
    else joined (s.putBundle { x with joined := x.joined + 1, owners := w.function :: x.owners })

/-- A body that asks a bundle's coordinator: its result, BREG, the participation and the pin change in one when the answer comes
(R244). -/
def flyCoord (w : Weave) (s : State) (d : RegField) (op : CoordOp) : Except Stop State :=
  .ok (s.fly (s.info w .illegal accOther) (.coord d.toNat op) [] 0 true)

def execBopen (b a d : RegField) (s : State) :=
  run (.bopen b a d) s fun w t =>
    let n := (reg w t b).toNat
    let h := handleOf w t.cur.strand a
    if n = 0 || 65535 < n then failing t w .illegal accLayout
    else
      match t.manifestFault w h true with
      | some c => objectStop t w c accLayout h 0
      | none =>
        if w.breg ≠ 0 then objectStop t w .bundleOutside accLayout h (t.bregOpen w) else flyCoord w t d (.bopen h n)

def execBjoin (a d : RegField) (s : State) :=
  run (.bjoin a d) s fun w t =>
    let h := handleOf w t.cur.strand a
    match t.manifestFault w h true with
    | some c => objectStop t w c accLayout h 0
    | none =>
      if w.breg ≠ 0 then objectStop t w .bundleOutside accLayout h (t.bregOpen w) else flyCoord w t d (.bjoin h)

/-! ### BCLOSE and BABORT -/

/-- The participation record and BREG cleared (R292); what the weave joins later is another participation (R188). -/
def Weave.leave (w : Weave) : Weave := { w with part := none, breg := 0, session := w.session + 1 }

/-- A close counted at the coordinator (R189, R292). -/
def Bundle.close (b : Bundle) : Bundle :=
  if b.closed + 1 = b.participants then { b with closed := b.closed + 1, state := .committing }
  else { b with closed := b.closed + 1 }

/-- What BCLOSE does at the coordinator, and its result (R292, R194): its release is performed before the close is counted (R189). -/
def State.answerClose (s : State) (w : Weave) : State × DWord :=
  let left := fun (t : State) => t.onWeave w.id Weave.leave
  match w.part with
  | none => (left s, bundleResult 1 0)
  | some (h, g) =>
    match s.bundle? w.partition h.toNat with
    | none => (left s, bundleResult 2 g.toNat)
    | some x =>
      if g.toNat ∈ x.aborted then (left s, bundleResult 2 g.toNat)
      else (left ((s.release w.id.core .sp).putBundle x.close), bundleResult 0 g.toNat)

def execBclose (d : RegField) (s : State) :=
  run (.bclose d) s fun w t =>
    match w.part with
    | none => flyCoord w t d .bclose
    | some (h, _) =>
      match t.manifestFault w h.toNat true with
      | some c => objectStop t w c accLayout h.toNat 0
      | none => flyCoord w t d .bclose

def execBabort (a : RegField) (s : State) :=
  run (.babort a) s fun w t =>
    let h := handleOf w t.cur.strand a
    match t.manifestFault w h true with
    | some c => objectStop t w c accLayout h 0
    | none =>
      match t.bundle? w.partition h with
      | none => .ok t
      | some x => .ok (t.abortBundle x)

/-! ### Views -/

/-- The member lines of a bundle settled for a request at a generation (R189). -/
def State.settleBundle (s : State) (b : Bundle) (g : Nat) : State := (s.membersOf b).foldl (fun t m => t.settleFor m g) s

/-- Whether every member holds a version at or below a generation (R194). -/
def State.allAt (s : State) (b : Bundle) (g : Nat) : Bool := (s.membersOf b).all fun m => (m.versionAt g).isSome

/-- The committed generation of a manifest; one never opened reads 0 (R308). -/
def State.committedOf (s : State) (part handle : Nat) : Nat := ((s.bundle? part handle).map (·.committed)).getD 0

def execBview (a d : RegField) (s : State) :=
  run (.bview a d) s fun w t =>
    let h := handleOf w t.cur.strand a
    match t.manifestFault w h false with
    | some c => objectStop t w c accLayout h 0
    | none =>
      match w.views.toList.find? fun v => v.valid && v.handle.toNat = h with
      | some v => flyScal w t d (bundleResult 1 v.generation.toNat)
      | none =>
        match w.views.toList.findIdx? fun v => !v.valid with
        | none => flyScal w t d (bundleResult 2 0)
        | some k =>
          let req := (reg w t d).toNat % 2 ^ 32
          let committed := t.committedOf w.partition h
          let g := if req = 0xFFFFFFFF then committed else req
          let u := match t.bundle? w.partition h with
            | some b => t.settleBundle b g
            | none => t
          let held := match u.bundle? w.partition h with
            | some b => u.allAt b g
            | none => true
          if committed < g || !held then flyScal w t d (bundleResult 3 0)
          else
            let entry : ViewEntry := ⟨BitVec.ofNat 32 h, BitVec.ofNat 32 g, true, false, false⟩
            if u.fenceHeld w.partition w.id.core .sp then .error .stall
            else flyScal w ((u.onMe fun x => { x with views := x.views.setIfInBounds k entry }).acquire w.id.core .sp) d
              (bundleResult 0 g)

/-- A view entry freed where it names a handle (R303). -/
def ViewEntry.freed (v : ViewEntry) (h : Nat) : ViewEntry :=
  if v.valid && v.handle.toNat = h then { v with valid := false, expired := false, dead := false } else v

/-- The entries of a weave that name a handle freed, and the spilled versions that nothing rests on (R303, R194). -/
def State.releaseView (s : State) (id : WeaveId) (part h : Nat) : State :=
  let t := s.onViews id fun v => v.map fun e => e.freed h
  match t.bundle? part h with
  | some b => t.dropSpilled b
  | none => t

def execBrel (a : RegField) (s : State) :=
  run (.brel a) s fun w t =>
    let h := handleOf w t.cur.strand a
    match t.manifestFault w h false with
    | some c => objectStop t w c accLayout h 0
    | none => .ok (t.releaseView w.id w.partition h)

/-- The value of BSTAT (R308). -/
def Bundle.status (b : Bundle) : DWord :=
  BitVec.ofNat 64 (b.committed % 2 ^ 32 + 2 ^ 32 * b.state.code + 2 ^ 34 * ofBool b.pin.isSome)

def execBstat (a d : RegField) (s : State) :=
  run (.bstat a d) s fun w t =>
    let h := handleOf w t.cur.strand a
    match t.manifestFault w h false with
    | some c => objectStop t w c accLayout h 0
    | none => whenArrived w t (flyScal w t d (((t.bundle? w.partition h).map Bundle.status).getD 0))

/-! ### BPIN -/

/-- The spills that pinning generation g needs (R185): none where no space can be obtained. -/
def State.spillFor (s : State) (b : Bundle) (g : Nat) : Option State :=
  (s.membersOf b).foldl (fun (x : Option State) m => x.bind fun t =>
    let n := (t.member? m.part m.object m.line).getD m
    if n.openV.isSome && n.retainedPinned (some g) then t.spill n else some t) (some s)

/-- A pin of generation g at the coordinator, made for a function: the code, and the state after it (R300). -/
def State.pinBundle (s : State) (part h g fn : Nat) : Nat × State :=
  match s.bundle? part h with
  | none => (1, s)
  | some b =>
    if b.pin = some g then (0, s)
    else if g = 0 then (1, s)
    else
      let t := s.settleBundle b g
      if b.committed < g || !t.allAt b g then (1, s)
      else if b.pin.isSome then (2, s)
      else
        match t.spillFor b g with
        | none => (3, s)
        | some u => (0, u.putBundle { b with pin := some g, pinOwner := fn })

/-- An unpin: the generation that was pinned, and the state after it (R300, R194). -/
def State.unpinBundle (s : State) (part h : Nat) : Nat × State :=
  match s.bundle? part h with
  | none => (0, s)
  | some b =>
    let b' := { b with pin := none }
    (b.pin.getD 0, ((s.putBundle b').dropSpilled b').putBundle b')

/-- What BPIN does at the coordinator, and its result (R300, R194). -/
def State.answerPin (s : State) (w : Weave) (h : Nat) (v : DWord) : State × DWord :=
  let g := v.toNat % 2 ^ 32
  if v.getLsbD 32 then
    let r := s.pinBundle w.partition h g w.function
    (r.2, bundleResult r.1 g)
  else
    let r := s.unpinBundle w.partition h
    (r.2, bundleResult 0 r.1)

/-- Whether the release of a BCLOSE waits for a slot of the weave's partition (R153). -/
def State.coordHeld (s : State) (id : WeaveId) (op : CoordOp) : Bool :=
  op = .bclose && (s.weave? id).any fun w => s.fenceHeld w.partition id.core .sp

/-- The coordinator's answer: the change that it makes, and the result written, in one (R244). -/
def State.answer (s : State) (id : WeaveId) (st : Strand) (d : Nat) (op : CoordOp) : State :=
  match s.weave? id with
  | none => s
  | some w =>
    let r := match op with
      | .bopen h n => s.answerOpen w h n
      | .bjoin h => s.answerJoin w h
      | .bclose => s.answerClose w
      | .bpin h v => s.answerPin w h v
    r.1.onWeave id fun x => x.setPhysical st d r.2

def execBpin (a d : RegField) (s : State) :=
  run (.bpin a d) s fun w t =>
    let h := handleOf w t.cur.strand a
    if (reg w t d).toNat / 2 ^ 33 ≠ 0 then failing t w .illegal accLayout
    else
      match t.manifestFault w h true with
      | some c => objectStop t w c accLayout h 0
      | none => flyCoord w t d (.bpin h (reg w t d))

/-! ### What the events do (R189) -/

/-- Whether every open version of a bundle's open generation is free of uncorrectable errors (R189). -/
def State.openSound (s : State) (b : Bundle) : Bool :=
  (s.membersOf b).all fun m => m.openV.all fun v => v.generation ≠ b.opened || v.bad = 0

/-- A member home's report, and with the last one the commit point: the open generation becomes the committed one; an uncorrectable
error in an open version aborts the bundle instead (R189, R190). -/
def State.commit (s : State) (b : Bundle) : State :=
  if b.state ≠ .committing then s
  else if s.openSound b then s.putBundle { b with state := .committed, committed := b.opened, reported := true }
  else s.abortBundle b

end Sys2Proof.Machine
end

