-- ==== Sys2Proof/Machine/Garnet.lean ====
section
/-! DEFINITION. Background re-tiling: scores and window ends (R122 to R124), Garnet's copy (R125 to R128), the module
mapping generation (R129, R131), and the layout members of major 27 (R132 to R135). -/

namespace Sys2Proof.Machine

/-! ### Scores (R122) -/

/-- The line, within its region's frames, that region-relative element i lies in under a layout. -/
def lineUnder (d : ObjDesc) (k layout i : Nat) : Nat := slot layout (d.rowsOf k) d.d3 i * d.nibs / 2 / 128

/-- The score of a candidate over families. -/
def scoreOf (d : ObjDesc) (k : Nat) (fs : List Family) (layout : Nat) : Nat :=
  (fs.map fun f => f.runs * (distinct (f.sample.map (lineUnder d k layout))).length).sum

/-- The best candidate: the lowest score, ties to the current layout and then to the lower code. -/
def bestOf (d : ObjDesc) (k current : Nat) (fs : List Family) : Nat :=
  ((List.range 64).filter (d.eligible k)).foldl (fun b c =>
    if scoreOf d k fs c < scoreOf d k fs b || (scoreOf d k fs c = scoreOf d k fs b && b ≠ current && c < b) then c else b) current

/-- The compromise of a contest: the largest eligible square tile of order 0, else row-major (R123). -/
def compromise (d : ObjDesc) (k : Nat) : Nat := ([0x0E, 0x0A, 0x06, 0x02].find? (d.eligible k)).getD 0

/-! ### The module mapping generation (R129, R131) -/

/-- A region's translations invalidated in every buffer (R256). -/
def State.forgetRegion (s : State) (id : RegionId) : State :=
  s.otbInvalidate fun e => e.part = id.part && e.object = id.object && e.frame / 4 = id.region

/-- A holder's lines given up whose stamp lags the counter by more than 16,384. -/
def State.sweepLines (s : State) : State :=
  (s.caches.filter fun c => decide (16384 < (s.mapGen - c.stamp).toNat)).foldl (fun t c => t.giveUp c.holder c.line) s

/-- A generation that lags the counter by more than 16,384 brought up to that distance (R131). -/
def State.renewed (s : State) (g : BitVec 16) : BitVec 16 := if 16384 < (s.mapGen - g).toNat then s.mapGen - 16384 else g

/-- The sweep of R131: the lines that lag go, and every region's generation follows, that of the regions which nothing has touched
too. The generation since which a region has its layout moves with them, since no line is stamped before it any more (R130). -/
def State.sweep (s : State) : State :=
  let t := s.sweepLines
  let u := (t.regions.filter fun r => t.renewed r.generation ≠ r.generation).foldl (fun u r =>
    (u.setRegion { r with generation := u.renewed r.generation }).forgetRegion r.id) t
  let v := if u.renewed u.baseGen = u.baseGen then u
    else u.otbInvalidate fun e => (u.region? ⟨e.part, e.object, e.frame / 4⟩).isNone
  { v with
    baseGen := v.renewed v.baseGen
    regions := v.regions.map fun (r : Region) => { r with layoutSince := v.renewed r.layoutSince } }

/-- A bank woken from retention sleep: every line goes when the counter is more than 16,384 ahead of its record (R131). -/
def State.wakeBank (s : State) (h : Holder) : State :=
  match s.sleeping.find? fun x => x.1 = h with
  | none => s
  | some x =>
    let t := { s with sleeping := s.sleeping.filter fun y => y.1 ≠ h }
    if 16384 < (s.mapGen - x.2).toNat then t.eachLine h fun u l => u.giveUp h l else t

/-- The counter incremented: a bank whose record it would leave too far behind is woken first, and a multiple of 8,192
sweeps (R131). -/
def State.nextGeneration (s : State) : State :=
  let late := s.sleeping.filter fun x => decide (32767 ≤ (s.mapGen - x.2).toNat)
  let t := late.foldl (fun (u : State) x => u.wakeBank x.1) s
  let u : State := { t with mapGen := t.mapGen + 1 }
  if u.mapGen.toNat % 8192 = 0 then u.sweep else u

/-- A region given the counter's value after an increment, its layout unchanged (R129, R340). -/
def State.touchRegion (s : State) (id : RegionId) (d : ObjDesc) : State :=
  let t := s.nextGeneration
  (t.setRegion { t.regionOf id d with generation := t.mapGen }).forgetRegion id

/-! ### The start of a change (R124) -/

/-- The bytes of a window's budget: two percent of what the present channels move (R124). -/
def State.budget (s : State) : Nat := Config.retileBudget * popBits 512 s.channels.toNat / 512

/-- Free HBM frames at the sites of a region's frames, the lowest entries of the pool; none where one is missing. -/
def State.takeSites (s : State) (part : Nat) : List Nat → Option (State × List Nat)
  | [] => some (s, [])
  | f :: r =>
    match s.poolTakeIf part fun w => !extFar w && extFrame w % 16 = f % 16 with
    | none => none
    | some (t, n) => (t.takeSites part r).map fun x => (x.1, n :: x.2)

/-- Windows since a region's last change completed; none when it has completed none (R138). -/
def State.sinceChange (s : State) (r : Region) : Option Nat := r.lastChange.map (s.window - ·)

/-- Whether so many windows have passed since the last change. -/
def State.cooled (s : State) (r : Region) (n : Nat) : Bool :=
  match s.sinceChange r with
  | none => true
  | some k => decide (n ≤ k)

/-- Whether a line lies in one of a region's frames. -/
def State.lineInRegion (s : State) (id : RegionId) (d : ObjDesc) (line : Nat) : Bool :=
  (d.regionFrames id.region).any fun f =>
    let w := s.extWord d f
    let at' := lineOf (frameAddr (extFar w) (extFrame w) 0)
    extPresent w && decide (at' ≤ line) && decide (line < at' + 512)

/-- Whether a line of a region is held in state L, whatever tag it carries, or carries a side-tag (R124). -/
def State.regionHeld (s : State) (id : RegionId) (d : ObjDesc) : Bool :=
  (s.caches.any fun c => c.state = .l && ((match c.tag with
    | some (i, _) => decide (i = id)
    | none => false) || s.lineInRegion id d c.line)) ||
  (s.members.any fun m => m.part = id.part && m.object = id.object && m.line * 128 / Config.regionBytes = id.region)

/-- A region's change started, when R124 allows; `pin` says that the region is pinned when it ends. -/
def State.startRetile (s : State) (r : Region) (d : ObjDesc) (code : Nat) (pin : Bool) : State :=
  if r.state = .retiling || !s.movable d r.id.region || !s.cooled r 8 || s.budget < s.claimed + Config.retileClaim
      || s.regionHeld r.id d then s
  else
    let fs := (d.regionFrames r.id.region).map fun f => extFrame (s.extWord d f)
    match s.takeSites r.id.part fs with
    | none => s
    | some (t, new) =>
      { t.setRegion { r with
          state := .retiling, from' := r.state, target := code, newFrames := new, done := 0, busy := none
          request := none, streak := none, rivals := []
          pinPending := if pin then some code else r.pinPending } with claimed := t.claimed + Config.retileClaim }

/-! ### The end of a window (R121, R123) -/

/-- The track of a region in its controlling slice. -/
def State.track? (s : State) (id : RegionId) : Option Track := s.tracks.find? fun t => t.region = id

/-- The pairs of families that a window's runs set against each other, with their counts (R123). -/
def contestPairs (d : ObjDesc) (k current : Nat) (t : Track) (old : List ((Int × Int) × Nat)) : List ((Int × Int) × Nat) :=
  let big := t.families.filter fun f => decide (t.total ≤ 4 * f.bytes) && decide (t.total ≠ 0)
  big.flatMap fun f => (big.filter fun g => decide (f.stride < g.stride) && bestOf d k current [f] ≠ bestOf d k current [g]).map fun g =>
    ((f.stride, g.stride), ((old.find? fun x => x.1 = (f.stride, g.stride)).map (·.2)).getD 0 + 1)

/-- A stable region at a window's end: its streaks, and the change or the contest that they decide (R123). Where both are decided at
once the contest begins (DEDUCED, log 39); a change that waits goes on waiting with its streak (R124). -/
def scoreRegion (s : State) (d : ObjDesc) (r : Region) (t : Track) : Region :=
  let k := r.id.region
  let best := bestOf d k r.layout t.families
  let gain := best ≠ r.layout && decide (10 * scoreOf d k t.families best ≤ 7 * scoreOf d k t.families r.layout)
  let streak := if gain then
      some (best, match r.streak with
        | some (c, n) => if c = best then n + 1 else 1
        | none => 1)
    else none
  let rivals := contestPairs d k r.layout t r.rivals
  if rivals.any fun x => 4 ≤ x.2 then
    { r with state := .contested, target := compromise d k, contest := some (compromise d k), contestSince := s.window, rivals := []
             streak := if r.request.isSome then r.streak else none }
  else
    let go := match streak with
      | some (_, n) => decide (4 ≤ n) && s.cooled r 64
      | none => false
    if r.request.isSome then { r with rivals }
    else if go then { r with streak, rivals, request := some (best, false) }
    else { r with streak, rivals }

/-- A region without a contest (R123, R135). -/
def Region.settled (r : Region) : Region := { r with contest := none, target := r.layout }

/-- A region without a monitor, or one that cannot move, has no streaks (R123). -/
def Region.still (r : Region) : Region := { r with streak := none, rivals := [] }

/-- A region at a window's end: scored, or a contest ended, and a change started where one is due. -/
def State.windowRegion (s : State) (r0 : Region) : State :=
  match s.objDesc r0.id.part r0.id.object with
  | none => s
  | some d =>
    let r := match r0.state, s.track? r0.id with
      | .stable, some t => if s.movable d r0.id.region then scoreRegion s d r0 t else r0.still
      | .contested, _ => if 1024 ≤ s.window - r0.contestSince then { r0.still.settled with state := .stable } else r0
      | _, _ => r0.still
    let u := s.setRegion r
    match r.request with
    | some (code, pin) => u.startRetile r d code pin
    | none =>
      match r.state, r.contest with
      | .contested, some c => if c ≠ r.layout && u.cooled r 64 then u.startRetile r d c false else u
      | _, _ => u

/-- The regions that a window's end concerns: those kept, and those tracked. -/
def State.windowRegions (s : State) : List Region :=
  s.regions ++ (s.tracks.filter fun t => !(s.regions.any fun r => r.id = t.region)).filterMap fun t =>
    (s.objDesc t.region.part t.region.object).map fun d => s.newRegion t.region d

/-- A track at the start of a window; one whose region cannot move is given up (R121, R123). -/
def Track.fresh (t : Track) : Track := { t with total := 0, families := [] }

/-- The end of a window: budget lapses, every region is judged, and the monitors start afresh (R123, R124). -/
def State.windowEnd (s : State) : State :=
  let t := { s with window := s.window + 1, claimed := 0 }
  let u := t.windowRegions.foldl State.windowRegion t
  { u with tracks := (u.tracks.filter fun (x : Track) => match u.objDesc x.region.part x.region.object with
      | some d => u.movable d x.region.region
      | none => false).map Track.fresh }

/-! ### Garnet's copy (R125, R128) -/

/-- The region-relative elements of a section. -/
def sectionElems (d : ObjDesc) (k sec : Nat) : List Nat := (List.range (d.elemsOf k)).filter fun i => sectionOf d i = sec

/-- The sections of a region that hold elements: 64, or one for each line of a short region. -/
def sectionCount (d : ObjDesc) (k : Nat) : Nat := Nat.min 64 (ceilDiv (d.elemsOf k * d.nibs) 256)

/-- Bytes and poison moved from places to places, one by one. -/
def State.movePlaces (s : State) (old new : List Place) : State :=
  (old.zip new).foldl (fun t x =>
    let v := takeHalf (t.memByte x.1.home) x.1.half
    let u := t.memSet x.2.home (setHalf (t.memByte x.2.home) (BitVec.ofNat 8 v) x.2.half)
    if t.poisoned x.1 then { u with poison := u.poison ++ [(x.2.home, 1)] } else u) s

/-- The two elements of i4 that share a byte at their new positions: whether the other one of element i is there already, as a part of
another section; `r` is the region once i's section has moved. -/
def Region.sharesByte (r : Region) (d : ObjDesc) (i : Nat) : Bool :=
  let h := d.rowsOf r.id.region
  let sec := sectionOf d i
  let l := if r.done.getLsbD sec then r.target else r.layout
  let j := unslot l h d.d3 (slot l h d.d3 i ^^^ 1)
  d.nibs = 1 && decide (j < d.elemsOf r.id.region) && sectionOf d j ≠ sec && r.done.getLsbD (sectionOf d j) == r.done.getLsbD sec

/-- The elements of a section moved from where `a` keeps them to where `b` does; `a` and `b` differ in the region alone. -/
def State.moveSection (s : State) (r r' : Region) (d : ObjDesc) (sec : Nat) : State :=
  let a := (s.settleFormer r.id).setRegion r
  let b := s.setRegion r'
  let es := (sectionElems d r.id.region sec).map (r.id.region * d.regionElems + ·)
  let at' := fun (x : State) (e : Nat) => x.elemPlaces none r.id.part r.id.object d e
  let lines := distinct (es.flatMap fun e => (at' a e).map fun p => lineOf p.home)
  let t := lines.foldl State.reclaim a
  -- what the frames of the new positions held before is overwritten, its poison too, but for the half of a byte that has moved before
  let u := if t.poison.isEmpty then t
    else ((es.filter fun e => !r'.sharesByte d (e % d.regionElems)).flatMap (at' b)).foldl (fun x p => x.unpoison p.home 1) t
  (es.foldl (fun x e => x.movePlaces (at' a e) (at' b e)) u).setRegion r'

/-- The first place of each aligned 8-byte word, the word that an error lies in (R257; log 34). -/
def wordsOf (ps : List Place) : List Place :=
  ps.foldl (fun (m : List Place) p => if m.any fun q => q.home / 8 = p.home / 8 then m else m ++ [p]) []

/-- The words of a section that hold poison, for the error records of R128. -/
def State.poisonedIn (s : State) (r : Region) (d : ObjDesc) (sec : Nat) : List Place :=
  if s.poison.isEmpty then []
  else
    wordsOf (((sectionElems d r.id.region sec).flatMap fun i =>
      s.elemPlaces none r.id.part r.id.object d (r.id.region * d.regionElems + i)).filter s.poisoned)

/-- An error record of data found bad at a place of a region (R257, R258). -/
def dataError (r : Region) (p : Place) : ErrorInfo :=
  { code := 0x09, die := homeDie p.home, unit := unitOf p.home, ctx := 0, object := r.id.object, generation := r.generation.toNat
    offset := p.logical }

/-- A retile completed: the counter, the layout, the extent entries, the old frames (R128). -/
def State.finishRetile (s : State) (r : Region) (d : ObjDesc) : State :=
  let fs := d.regionFrames r.id.region
  let old := fs.map fun f => extFrame (s.extWord d f)
  let t := s.nextGeneration
  let u := (fs.zip r.newFrames).foldl (fun x y => x.homeWrite (d.extAt y.1) 8 (mkExt y.2 false true)) t
  let v := old.foldl (fun x f => x.poolReturn r.id.part f false) u
  let follow := match r.pinPending with
    | some c => if c ≠ r.target && d.eligible r.id.region c then some (c, true) else none
    | none => none
  let contest := if r.pinPending.isSome then none else r.contest
  (({ v with changesDone := v.changesDone + 1 } : State).setRegion { r with
    state := if r.pinPending.isSome then .pinned else r.from'
    layout := r.target, previous := r.layout, generation := v.mapGen, layoutSince := v.mapGen, done := 0, busy := none
    newFrames := [], request := follow, pinPending := none, lastChange := some v.window, streak := none, rivals := []
    contest, target := contest.getD r.target
    contestSince := if r.from' = RegionState.contested && r.contest = some r.target then v.window else r.contestSince }).forgetRegion r.id

/-- The next section of a retiling region copied: its lines recalled, its elements written at their new positions, its
done bit set. The section stays busy until Garnet lets its accesses go (R125, R126). -/
def State.copySection (s : State) (id : RegionId) : State :=
  match s.region? id, s.objDesc id.part id.object with
  | some r, some d =>
    match (List.range (sectionCount d id.region)).find? fun k => !r.done.getLsbD k with
    | none => s
    | some sec =>
      if r.state ≠ .retiling then s
      else
        let bad := s.poisonedIn r d sec
        let r' := { r with done := r.done ||| ((1 : BitVec 64) <<< sec), busy := none }
        let t := bad.foldl (fun u p => u.sendError id.part (dataError r p)) (s.moveSection { r with busy := none } r' d sec)
        if sec + 1 = sectionCount d id.region then t.finishRetile r' d
        else t.setRegion { r' with busy := some sec }
  | _, _ => s

/-- A busy section let go (R126). -/
def State.releaseBusy (s : State) (id : RegionId) : State :=
  match s.region? id with
  | some r => s.setRegion { r with busy := none }
  | none => s

/-- A retile abandoned: what has moved goes back to the old positions, and the new frames to the pool (R128, R120). The region is
then pinned in its old layout where a pin was pending, and else in the state it came from, with no change to follow (DEDUCED, log
39). -/
def State.abandonRetile (s : State) (r : Region) (d : ObjDesc) : State :=
  if r.state ≠ .retiling then s
  else
    let r0 := { r with done := 0, busy := none }
    let moved := (List.range (sectionCount d r.id.region)).filter fun k => r.done.getLsbD k
    let back := moved.foldl (fun (x : State × Region) k =>
      let r1 := { x.2 with done := x.2.done &&& ~~~((1 : BitVec 64) <<< k) }
      (x.1.moveSection x.2 r1 d k, r1)) (s, { r with busy := none })
    let t := r.newFrames.foldl (fun u f => u.poolReturn r.id.part f false) back.1
    let contest := if r.pinPending.isSome then none else r.contest
    t.setRegion { r0 with
      state := if r.pinPending.isSome then .pinned else r.from', newFrames := [], pinPending := none
      contest, target := contest.getD r.layout }

/-! ### The layout members (R132 to R135) -/

/-- Steps 1, 2, 3 and 5 of R110 on the region that holds an offset (R133). -/
def State.regionFault (s : State) (w : Weave) (object o : Nat) : Option Cause :=
  match s.seeDesc w.id.core w.partition object with
  | none => some .objBound
  | some d =>
    if d.withdrawn then some .extentGone
    else if (if d.kind = 2 then d.count else d.size) ≤ o then some .objBound
    else if !d.readable then some .perm
    else none

/-- The code of a region's state (R123). -/
def RegionState.code : RegionState → Nat
  | .stable => 0
  | .retiling => 1
  | .pinned => 2
  | .contested => 3

/-- Whether a pin is pending: during a retile, or with a change that has not started (R134, R135). -/
def Region.pinDue (r : Region) : Bool :=
  r.pinPending.isSome || (match r.request with
    | some (_, p) => p
    | none => false)

/-- The value of LAYQ for a region (R134). -/
def State.layoutWord (s : State) (d : ObjDesc) (r : Region) : DWord :=
  let retiling := r.state = .retiling
  BitVec.ofNat 64 (r.layout + 2 ^ 8 * r.state.code + 2 ^ 10 * ofBool r.pinDue
    + 2 ^ 14 * ofBool (!s.movable d r.id.region) + 2 ^ 16 * r.generation.toNat
    + 2 ^ 32 * Nat.min 0xFFFF ((s.sinceChange r).getD 0xFFFF)
    + (if retiling then 2 ^ 48 * popBits 64 r.done.toNat + 2 ^ 56 * r.target else 0))

/-- A layout member on the region that holds an offset, as it stands when the request arrives: f for a tensor, `bytes` for any other
object (R132, R133). -/
def layoutBody (b a : RegField) (bytes : Weave → State → Except Stop State)
    (f : Weave → State → ObjDesc → Region → Except Stop State) : Body := fun w t =>
  let h := handleOf w t.cur.strand a
  let o := (reg w t b).toNat
  match t.regionFault w h o with
  | some c => .error (.fault { t.info w c accLayout with
      object := BitVec.ofNat 32 h, place := BitVec.ofNat 128 (o % 2 ^ 48)
      generation := t.recordGeneration w.partition h (t.seeDesc w.id.core w.partition h) o })
  | none =>
    match (t.objDesc w.partition h).or (t.seeDesc w.id.core w.partition h) with
    | none => .ok t
    | some d => whenArrived w t (if d.kind = 2 then f w t d (t.regionOf ⟨w.partition, h, o / d.regionElems⟩ d) else bytes w t)

def execLayq (b a d : RegField) (s : State) :=
  run (.layq b a d) s (layoutBody b a (fun w t => flyScal w t d 0x8000) fun w t o r => flyScal w t d (t.layoutWord o r))

/-- Whether a request's bits and code are defined (R133, R135): LAYADV has no pin bit. -/
def layoutRequestOk (v : Nat) (pinBit : Bool) : Bool :=
  decide (v < (if pinBit then 512 else 256)) && layoutDefined (v % 256)

/-- The changes of a region that wait, LAYPIN's own apart. -/
def Region.unpinned (r : Region) : Region :=
  let mine := r.request.any (·.2)
  { r with
    pinPending := none, request := if mine then none else r.request
    target := if mine then r.contest.getD r.layout else r.target }

/-- A region pinned in its current layout: nothing that waited for it moves it any more (R135). -/
def Region.fixed (r : Region) : Region := { r.still.settled with state := .pinned, request := none, pinPending := none }

/-- LAYPIN on a region: the region after it, and the result code (R135). Unpinning takes back what LAYPIN asked for, and a change that
LAYADV asked for goes on waiting (log 39). -/
def layPin (s : State) (d : ObjDesc) (r : Region) (pin : Bool) (code : Nat) : Region × Nat :=
  if !pin then
    if r.state = .pinned then ({ r.still.unpinned with state := .stable }, 3)
    else if r.pinDue then (r.still.unpinned, 3)
    else (r, 3)
  else if r.state = .retiling then ({ r with pinPending := some code }, 1)
  else if code = r.layout then (r.fixed, 0)
  else if d.eligible r.id.region code && s.movable d r.id.region then
    ({ r with target := code, request := some (code, true), pinPending := none }, 1)
  else (r.fixed, 2)

/-- The layout of a LAYPIN's change that has not started. -/
def Region.waitingPin (r : Region) : Option Nat := r.request.bind fun x => if x.2 then some x.1 else none

/-- LAYADV on a region (R135); the change of a LAYPIN that still waits follows the advised one. -/
def layAdv (s : State) (d : ObjDesc) (r : Region) (code : Nat) : Region × Nat :=
  if r.state = .pinned || r.state = .retiling || !s.movable d r.id.region then (r, 2)
  else if code = r.layout then ({ r.settled with state := .stable }, 0)
  else if d.eligible r.id.region code then
    ({ r.settled with state := .stable, request := some (code, false), pinPending := r.waitingPin.or r.pinPending }, 1)
  else (r, 2)

def execLaypin (b a d : RegField) (s : State) :=
  run (.laypin b a d) s fun w t =>
    let v := (reg w t d).toNat
    if !layoutRequestOk v true then failing t w .illegal accLayout
    else
      layoutBody b a (fun w t => flyScal w t d (if bitAt v 8 then 2 else 3)) (fun w t o r =>
        let x := layPin t o r (bitAt v 8) (v % 256)
        flyScal w (t.setRegion x.1) d (BitVec.ofNat 64 x.2)) w t

def execLayadv (b a d : RegField) (s : State) :=
  run (.layadv b a d) s fun w t =>
    let v := (reg w t d).toNat
    if !layoutRequestOk v false then failing t w .illegal accLayout
    else
      layoutBody b a (fun w t => flyScal w t d 2) (fun w t o r =>
        let x := layAdv t o r (v % 256)
        flyScal w (t.setRegion x.1) d (BitVec.ofNat 64 x.2)) w t

/-! ### Events -/

/-- Every window that TIME has passed ended, at most so many (R137). -/
def State.windowsEnd (s : State) : Nat → State
  | 0 => s
  | n + 1 => if Config.windowCycles * (s.window + 1) ≤ s.time then s.windowEnd.windowsEnd n else s

/-- The end of a 1 µs window, once TIME has reached it (R121, R137). -/
def execMonitorWindowEnd (s : State) : Host.Outcome State Fault Refusal :=
  .next (if Config.windowCycles * (s.window + 1) ≤ s.time then s.windowEnd else s)

def execSectionCopy (id : RegionId) (s : State) : Host.Outcome State Fault Refusal := .next (s.copySection id)

def execBusySectionRelease (id : RegionId) (s : State) : Host.Outcome State Fault Refusal := .next (s.releaseBusy id)

end Sys2Proof.Machine
end

