-- ==== Sys2Proof/Machine/Granules.lean ====
section
/-! DEFINITION. Engine threads at work (R214 to R223): what a granule reads and writes at the homes, NMX, SCAN, CKPT and
the collectives, and the arrival at the completion object. -/

namespace Sys2Proof.Machine

/-- Why a granule is not performed: it is held and comes again (R127, R176), or it fails with status bits (R223). -/
inductive GranStop where
  | hold (line : Option Nat)
  | fails (flags : Nat)
deriving DecidableEq, Repr

/-- The status bits of R223. -/
def flagOverflow : Nat := 2 ^ 24
def flagData : Nat := 2 ^ 26
def flagGone : Nat := 2 ^ 27
def flagAbort : Nat := 2 ^ 28
def flagWithdrawn : Nat := 2 ^ 29

/-- A granule's outcome. -/
abbrev Gran := Except GranStop

/-! ### Bytes at the homes -/

/-- Whether places of an object cannot be used: the object or a frame is not there, or a port is down (R223). -/
def State.placesGone (s : State) (d : ObjDesc) (ps : List Place) : Bool :=
  d.withdrawn || ps.any s.placeDown || (framesOf ps).any fun f => !extPresent (s.extWord d f) || extWithdrawn (s.extWord d f)

/-- The places of n bytes from element e0 of an object on, when they can be used: they are there, no section is busy, and, unless the
granule recalls it, no L copy stands in the way (R223, R126, R218, R243). -/
def State.engPlaces (s : State) (part object e0 n : Nat) (still recalls : Bool) : Gran (ObjDesc × List Place) :=
  match s.objDesc part object with
  | none => .error (.fails flagGone)
  | some d =>
    let ps := s.placesAt none part object d e0 n
    if s.placesGone d ps then .error (.fails flagGone)
    else
      match (ps.map fun p => lineOf p.home).find? fun l => !recalls && (s.tracked l).any fun c => c.state = .l with
      | some l => .error (.hold (some l))
      | none => if ps.any fun p => p.busy || (still && p.moving) then .error (.hold none) else .ok (d, ps)

/-- Which version of a tagged line a thread reads: the current one, the one of its view (R365), or an open one (R344). -/
inductive ReadMode where
  | plain
  | view (entries : List ViewEntry)
  | opened (handle : Nat)
deriving DecidableEq, Repr

/-- The version that a mode gives for a member line; none where the line is read in place. -/
def State.modeVersion (s : State) (m : MemberLine) : ReadMode → Gran (State × Option Version)
  | .plain => .ok (s, none)
  | .view es =>
    match es.find? fun v => v.valid && v.handle.toNat = m.handle with
    | none => .ok (s, none)
    | some v =>
      let t := s.settleFor m v.generation.toNat
      let n := (t.member? m.part m.object m.line).getD m
      match n.versionAt v.generation.toNat with
      | none => .error (.fails flagGone)
      | some g => if t.versionDown n g then .error (.fails flagGone) else .ok (t, some (t.versionOf n g))
  | .opened h =>
    .ok (s, if m.handle = h then m.openV else none)

/-- A range of logical bytes cut at the lines (R183): the first byte and the length of each part. -/
def lineCuts (at' n : Nat) : List (Nat × Nat) :=
  if n = 0 then []
  else
    (List.range ((at' + n - 1) / 128 - at' / 128 + 1)).map fun i =>
      let lo := Nat.max at' (128 * (at' / 128 + i))
      (lo, Nat.min (at' + n) (128 * (at' / 128 + i + 1)) - lo)

/-- The bytes of one part of a range. -/
def State.engReadPart (s : State) (part object : Nat) (still : Bool) (mode : ReadMode) (x : Nat × Nat) : Gran (State × List Byte) :=
  match s.objDesc part object with
  | none => .error (.fails flagGone)
  | some d =>
    match s.engPlaces part object (2 * x.1 / d.nibs) x.2 still false with
    | .error e => .error e
    | .ok (_, ps) =>
      -- work beside the memory recalls every copy of the lines that it reads (R218)
      let direct := fun (t : State) =>
        if ps.any t.poisoned then (.error (.fails flagData) : Gran (State × List Byte))
        else
          let u := t.eachPlaceLine ps (if still then State.reclaim else State.gather)
          .ok (u, leBytes x.2 (u.homeNat ps))
      match s.member? part object (x.1 / 128) with
      | none => direct s
      | some m =>
        match s.modeVersion m mode with
        | .error e => .error e
        | .ok (t, none) => direct t
        | .ok (t, some v) =>
          if badBytes v.bad (x.1 % 128) x.2 then .error (.fails flagData) else .ok (t, (v.data.drop (x.1 % 128)).take x.2)

/-- n logical bytes from byte b of an object on. -/
def State.engRead (s : State) (part object b n : Nat) (still : Bool) (mode : ReadMode) : Gran (State × List Byte) :=
  foldE (fun (y : State × List Byte) x => match y.1.engReadPart part object still mode x with
    | .ok (t, bs) => .ok (t, y.2 ++ bs)
    | .error e => .error e) (s, []) (lineCuts b n)

/-- A part of a range written in place; a line that is barred to unbundled stores fails with status bit 27 (R187; DESIGN CHOICE,
log 64). -/
def State.engWritePart (s : State) (part object : Nat) (still : Bool) (at' : Nat) (bs : List Byte) : Gran State :=
  let t := s.settleLine part object (at' / 128)
  if t.barred part object (at' / 128) then .error (.fails flagGone)
  else
    match t.objDesc part object with
    | none => .error (.fails flagGone)
    | some d =>
      match t.engPlaces part object (2 * at' / d.nibs) bs.length still false with
      | .error e => .error e
      | .ok (_, ps) =>
        let u := t.homePut ps (leNat bs)
        .ok (u.clearPoison [⟨0, at', ps⟩])

/-- The open version that a part of a range lies in, for a thread of a bundle's generation, the copies of the line recalled at its first
touch (R186, R243). A line of another bundle, and one for which there is no room, fail with status bit 27 (DESIGN CHOICE, log 64). -/
def State.engOpenPart (s : State) (part object : Nat) (b : BitVec 32 × BitVec 32) (at' n : Nat) : Gran State :=
  match s.objDesc part object, s.bundle? part b.1.toNat with
  | some d, some x =>
    match s.engPlaces part object (2 * at' / d.nibs) n true true with
    | .error e => .error e
    | .ok _ =>
      if s.foreignTag part x.handle object (at' / 128) || !(s.linesBeyond object x [at' / 128]).isEmpty then
        .error (.fails flagGone)
      else
        match s.openLine x object (at' / 128) with
        | none => .error (.fails flagGone)
        | some t => .ok t
  | _, _ => .error (.fails flagGone)

/-- A part of a range written into its open version; a thread whose weave has closed or whose bundle has aborted writes nothing (R188). -/
def State.engBundlePart (s : State) (part object : Nat) (b : BitVec 32 × BitVec 32) (at' : Nat) (bs : List Byte) : Gran State :=
  match s.engOpenPart part object b at' bs.length with
  | .error e => .error e
  | .ok t => .ok (t.openWrite part object at' bs)

/-- The open versions of n bytes of an object that a bundled NMX reads before it writes them (R186, R243). -/
def State.engOpen (s : State) (part object b n : Nat) : Option (BitVec 32 × BitVec 32) → Gran State
  | none => .ok s
  | some h => foldE (fun (t : State) (x : Nat × Nat) => t.engOpenPart part object h x.1 x.2) s (lineCuts b n)

/-- Logical bytes written from byte b of an object on. -/
def State.engWrite (s : State) (part object b : Nat) (still : Bool) (bundle : Option (BitVec 32 × BitVec 32)) (bs : List Byte) :
    Gran State :=
  foldE (fun (t : State) (x : Nat × Nat) =>
    let mine := (bs.drop (x.1 - b)).take x.2
    match bundle with
    | none => t.engWritePart part object still x.1 mine
    | some h => t.engBundlePart part object h x.1 mine) s (lineCuts b bs.length)

/-! ### Operands -/

/-- The line of some places that an L copy holds, which refuses a granule (R176, R218). -/
def State.heldL (s : State) (ps : List Place) : Option Nat :=
  (ps.map fun p => lineOf p.home).find? fun l => (s.tracked l).any fun c => c.state = .l

/-- n bytes of host memory written at their home (R156). -/
def State.hostPut (s : State) (fn b : Nat) (bs : List Byte) : Gran State :=
  let ps := hostPlaces fn b bs.length
  match s.heldL ps with
  | some l => .error (.hold (some l))
  | none => .ok ((s.homePut ps (leNat bs)).clearPoison [⟨0, b, ps⟩])

/-- n bytes of host memory read at their home. -/
def State.hostGet (s : State) (fn b n : Nat) (still : Bool) : Gran (State × List Byte) :=
  let ps := hostPlaces fn b n
  match s.heldL ps with
  | some l => .error (.hold (some l))
  | none =>
    if ps.any s.poisoned then .error (.fails flagData)
    else
      let t := s.eachPlaceLine ps (if still then State.reclaim else State.gather)
      .ok (t, leBytes n (t.homeNat ps))

/-- An operand of a thread: host memory, or an object, from a logical byte on. -/
def State.opRead (s : State) (th : Thread) (object b n : Nat) (still : Bool) (mode : ReadMode) : Gran (State × List Byte) :=
  if th.host then s.hostGet th.fn b n still else s.engRead th.part object b n still mode

def State.opWrite (s : State) (th : Thread) (object b : Nat) (still : Bool) (bundle : Option (BitVec 32 × BitVec 32))
    (bs : List Byte) : Gran State :=
  if th.host then s.hostPut th.fn b bs else s.engWrite th.part object b still bundle bs

/-- The elements that a granule sends to the home, as one run (R121). -/
def State.seeRun (s : State) (th : Thread) (object e0 n : Nat) : State :=
  if th.host then s
  else match s.objDesc th.part object with
    | some d => s.observeRun th.part object d ((List.range n).map (e0 + ·))
    | none => s

/-- The bytes of an element type that the engines compute on (R213). -/
def typeBytes (t : Nat) : Nat := typeNibs t / 2

/-- The logical byte at which element e of an operand stands; host memory is addressed by bytes (R213). -/
def opByte (th : Thread) (t e0 : Nat) : Nat := if th.host then e0 else e0 * typeBytes t

/-! ### The size of a command -/

/-- The bytes of a command's own sequence (R217). -/
def EngineOp.size : EngineOp → Nat
  | .tcopy _ _ _ ss rb _ _ => ss.length * rb
  | .tcopys _ _ f _ rb => f.length * rb
  | .nmx _ t _ _ _ _ n .. => n * typeBytes t
  | .scan _ t _ _ n .. => n * typeBytes t
  | .ckpt _ _ m .. => 128 * m
  | .cred _ t _ _ _ _ n .. => n * typeBytes t
  | .cbcst _ t _ _ _ _ n .. => n * typeBytes t

/-- The bytes of a granule: 64, or a line for CKPT (R214, R316). -/
def EngineOp.unit : EngineOp → Nat
  | .ckpt .. => 128
  | _ => 64

/-- The bytes of granule k. -/
def EngineOp.granule (op : EngineOp) (k : Nat) : Nat := Nat.min op.unit (op.size - op.unit * k)

/-- The granules of a command. -/
def EngineOp.granules (op : EngineOp) : Nat := ceilDiv op.size op.unit

/-- Whether a command counts its bytes in word 1 (R214). -/
def EngineOp.counts : EngineOp → Bool
  | .tcopy .. | .tcopys .. => true
  | _ => false

/-! ### Copies (R214) -/

/-- The parts of rows that granule k of a tile covers: the row, the byte within it, and the length. -/
def tileParts (rowBytes size k : Nat) : List (Nat × Nat × Nat) :=
  let lo := 64 * k
  let hi := Nat.min (64 * k + 64) size
  if hi ≤ lo || rowBytes = 0 then []
  else
    (List.range ((hi - 1) / rowBytes - lo / rowBytes + 1)).map fun i =>
      let t := lo / rowBytes + i
      let a := Nat.max lo (t * rowBytes)
      (t, a - t * rowBytes, Nat.min hi ((t + 1) * rowBytes) - a)

/-- The address at which a byte stands under a swizzle mode (R143). -/
def swizzled (mode a : Nat) : Nat :=
  let row := a / 128
  128 * row + 16 * ((a % 128 / 16) ^^^ (row % 2 ^ mode)) + a % 16

/-- The logical byte at which an element of an object stands. -/
def State.elemByte (s : State) (part object e : Nat) : Nat :=
  match s.objDesc part object with
  | some d => e * d.nibs / 2
  | none => 0

/-- The elements of so many bytes of an object. -/
def State.elemsIn (s : State) (part object n : Nat) : Nat :=
  match s.objDesc part object with
  | some d => 2 * n / d.nibs
  | none => 0

/-- One part of a tile moved between an object and scratchpad. -/
def State.copyPart (s : State) (th : Thread) (load : Bool) (mode object : Nat) (starts : List Nat) (address pitch : Nat)
    (x : Nat × Nat × Nat) : Gran State :=
  let b := s.elemByte th.part object (starts.getD x.1 0) + x.2.1
  let a := fun (i : Nat) => th.base + swizzled mode (address + x.1 * pitch + x.2.1 + i)
  if load then
    match s.engRead th.part object b x.2.2 false (.view th.views) with
    | .error e => .error e
    | .ok (t, bs) => .ok (bs.zipIdx.foldl (fun u y => u.sramSet th.core (a y.2) y.1) t)
  else if (List.range x.2.2).any fun i => s.poisonAt (sramKey th.core (a i)) then .error (.fails flagData)
  else s.engWrite th.part object b false th.bundle ((List.range x.2.2).map fun i => s.sramByte th.core (a i))

/-- The elements of an object that the parts of a granule name. -/
def State.partElems (s : State) (part object : Nat) (starts : List Nat) (xs : List (Nat × Nat × Nat)) : List Nat :=
  xs.flatMap fun x => (List.range (s.elemsIn part object x.2.2)).map fun i =>
    starts.getD x.1 0 + s.elemsIn part object x.2.1 + i

/-- A run of an object's elements observed (R121). -/
def State.observeList (s : State) (part object : Nat) (run : List Nat) : State :=
  match s.objDesc part object with
  | some d => s.observeRun part object d run
  | none => s

/-! ### NMX and SCAN -/

/-- The format of an element type that NMX and the collectives compute in (R213). -/
def typeFmt (t : Nat) : Fmt := if t = 2 then bf16 else if t = 1 then fp16 else fp32

/-- The elements of so many bytes, little-endian. -/
def elemsOfBytes (es : Nat) (bs : List Byte) : List Nat := (List.range (bs.length / es)).map fun i => leNat ((bs.drop (es * i)).take es)

/-- One element of NMX's result (R219): .sadd, .fade, .copy, .fill; what .copy and .fill write follows DAZ and FTZ too, a NaN
canonical (DEDUCED, log 60). -/
def nmxElem (op : Nat) (f : Fmt) (md : FpMode) (alpha lambda w x : Nat) : Nat :=
  let a := fp32.read md alpha
  match op with
  | 0 => f.write md (sumExact md.round [f.read md w, a.mul (f.read md x)]) 0
  | 1 =>
    let one := fp32.decode 0x3F800000
    let c := fp32.decode (fp32.write md (sumExact md.round [one, ((fp32.read md lambda).mul a).neg]) 0)
    f.write md (sumExact md.round [(f.read md w).mul c, (a.mul (f.read md x)).neg]) 0
  | 2 => f.write md (f.read md x) 0
  | _ => f.write md a 0

/-- The FP32 word of a .dotp granule (R219): fused multiply-adds in ascending order. -/
def dotWord (f : Fmt) (md : FpMode) (ws xs : List Nat) : Nat :=
  (ws.zip xs).foldl (fun s y => fp32.write md (sumExact md.round [fp32.read md s, (f.read md y.1).mul (f.read md y.2)]) 0) 0

/-- A granule of NMX: both operands are read before w is written (R218, R219, R344). -/
def State.nmxGranule (s : State) (th : Thread) (op type w x w0 x0 : Nat) (alpha lambda : Word) (address k n : Nat) : Gran State :=
  let es := typeBytes type
  let md := (fpMode th.fpctl).plain
  let f := typeFmt type
  let mode := match th.bundle with
    | some b => ReadMode.opened b.1.toNat
    | none => .plain
  let wb := opByte th type w0 + 64 * k
  let xb := opByte th type x0 + 64 * k
  let ready := if th.host || op = 4 then (.ok s : Gran State) else s.engOpen th.part w wb n th.bundle
  let first : Gran (State × List Byte) := match ready with
    | .error e => .error e
    | .ok r => if op = 2 || op = 3 then .ok (r, List.replicate n 0) else r.opRead th w wb n true mode
  match first with
  | .error e => .error e
  | .ok (t, ws) =>
    match (if op = 3 then .ok (t, List.replicate n 0) else t.opRead th x xb n true mode) with
    | .error e => .error e
    | .ok (u, xs) =>
      let run := fun (v : State) =>
        let v1 := v.seeRun th w (w0 + 64 / es * k) (n / es)
        if op = 3 then v1 else v1.seeRun th x (x0 + 64 / es * k) (n / es)
      if op = 4 then
        .ok (run (u.sramWrite th.core (th.base + address + 4 * k) 4 (dotWord f md (elemsOfBytes es ws) (elemsOfBytes es xs))))
      else
        let out := ((elemsOfBytes es ws).zip (elemsOfBytes es xs)).flatMap fun y =>
          leBytes es (nmxElem op f md alpha.toNat lambda.toNat y.1 y.2)
        match u.opWrite th w wb true th.bundle out with
        | .error e => .error e
        | .ok v => .ok (run v)

/-- Whether SCAN keeps an element (R220, R358): exact, without DAZ; i32 elements compare signed. -/
def scanKeeps (type cmp threshold x : Nat) : Bool :=
  if type = 5 then
    let a := signed 32 x
    let t := signed 32 threshold
    match cmp with
    | 0 => decide (t < a)
    | 1 => decide (t ≤ a)
    | _ => decide (t.natAbs < a.natAbs)
  else
    let a := (typeFmt type).decode x
    let t := (typeFmt type).decode threshold
    match cmp with
    | 0 => t.lt a
    | 1 => t.lt a || t.eq a
    | _ => t.abs.lt a.abs

/-- A granule of SCAN: its kept elements become pairs after those already written; a pair past the capacity is dropped
(R220). In host memory, which has no elements, a pair's offset is the byte offset there (DESIGN CHOICE, log 64). -/
def State.scanGranule (s : State) (th : Thread) (cmp type w w0 : Nat) (threshold : Word) (address capacity k n : Nat) :
    Gran (State × Thread) :=
  let es := typeBytes type
  match s.opRead th w (opByte th type w0 + 64 * k) n true (.view th.views) with
  | .error e => .error e
  | .ok (t, bs) =>
    let kept := ((elemsOfBytes es bs).zipIdx).filter fun x => scanKeeps type cmp (threshold.toNat % 2 ^ (8 * es)) x.1
    let r := kept.foldl (fun (y : State × Thread) x =>
      let off := if th.host then w0 + 64 * k + es * x.2 else w0 + 64 / es * k + x.2
      if y.2.written < capacity then
        (y.1.sramWrite th.core (th.base + address + 16 * y.2.written) 16 (off % 2 ^ 48 + 2 ^ 64 * x.1),
          { y.2 with written := y.2.written + 1, kept := y.2.kept + 1 })
      else (y.1, { y.2 with kept := y.2.kept + 1, flags := y.2.flags ||| flagOverflow })) (t, th)
    .ok (r.1.seeRun th w (w0 + 64 / es * k) (n / es), r.2)

/-! ### CKPT (R221, R316) -/

/-- The 128 bytes of member k at a generation, zeros past its object's end; none where no version exists. -/
def State.drained (s : State) (part manifest generation k : Nat) : Gran (State × List Byte) :=
  match (s.bundle? part manifest).bind fun b => b.members[k]? with
  | none => .error (.fails flagGone)
  | some (object, line) =>
    match s.member? part object line with
    | none => .error (.fails flagGone)
    | some m =>
      let t := s.settleFor m generation
      let n := (t.member? part object line).getD m
      match n.versionAt generation with
      | none => .error (.fails flagGone)
      | some g =>
        let ps := t.logicalPlaces part object line
        let u := if n.current = g then t.eachPlaceLine ps State.gather else t
        let v := u.versionOf n g
        let gone := match t.objDesc part object with
          | none => true
          | some d => if n.current = g then t.placesGone d ps
            else d.withdrawn || (framesOf ps).any fun f => extWithdrawn (t.extWord d f)
        if t.versionDown n g || gone then
          .error (.fails flagGone)
        else if v.bad ≠ 0 then .error (.fails flagData)
        else .ok (u, (v.data ++ List.replicate 128 0).take 128)

/-- The rank of this chip in the span of a thread's launch. -/
def Thread.rank? (th : Thread) (s : State) : Option Nat :=
  (s.crew? th.crew).bind fun c => (s.launchOf c).map (·.rank)

/-- The first step of R110 that n elements of an object from element e0 on fail, with its cause; `bad` says that a
coordinate lies at or above its extent. -/
def State.rangeSteps (s : State) (part object : Nat) (need : Need) (bad : Bool) (e0 n : Nat) : Option (Nat × Cause) :=
  match s.objDesc part object with
  | none => some (1, .objBound)
  | some d =>
    if d.withdrawn then some (2, .extentGone)
    else if bad || (if d.kind = 2 then d.count else d.size) < e0 + n then some (3, .objBound)
    else if !s.permits part object d need then some (5, .perm)
    else
      let fs := framesOf (s.placesAt none part object d e0 (n * d.nibs / 2))
      if fs.any fun f => !extPresent (s.extWord d f) then some (6, .firstTouch)
      else if fs.any fun f => extWithdrawn (s.extWord d f) then some (7, .extentGone)
      else none

/-- A granule of CKPT: a line of the object, of host memory, or of a peer, whose answer is free (R221). Where this chip is the peer the
object must be a tensor, as one of target 0 must (R213); under space .hst the target is this chip's host memory, whatever target 2 names
(DESIGN CHOICE, log 64). -/
def State.ckptGranule (s : State) (th : Thread) (manifest generation target object offset peer k : Nat) : Gran State :=
  match s.drained th.part manifest generation k with
  | .error e => .error e
  | .ok (t, bs) =>
    let at' := offset + 128 * k
    let put := fun (u : State) =>
      (u.seeRun th object (u.elemsIn th.part object at') (u.elemsIn th.part object 128)).engWrite th.part object at' false none bs
    if target = 1 || th.host then t.hostPut th.fn at' bs
    else if target = 0 then put t
    else if th.rank? t = some peer then
      if (t.rangeSteps th.part object .write false (t.elemsIn th.part object at') (t.elemsIn th.part object 128)).isSome
          || (t.objDesc th.part object).any (·.kind ≠ 2) then .error (.fails flagGone)
      else put t
    else if Config.freeBool s.tick 0 then .ok t
    else .error (.fails flagGone)

/-! ### Collectives (R222, R315, R319) -/

/-- Element i of a rank's source: this rank's own, or a peer's. -/
def rankElem (tag number own : Nat) (mine : Nat → Nat) (es r i : Nat) : Nat :=
  if r = own then mine i else (Config.peerElement tag number r i).toNat % 2 ^ (8 * es)

/-- Two elements combined (R222, R319): i32 compares signed and its sums wrap; the min and max of floats follow R71. -/
def combine (op type : Nat) (md : FpMode) (x y : Nat) : Nat :=
  if type = 5 then
    match op with
    | 0 => (x + y) % 2 ^ 32
    | 1 => if signed 32 y < signed 32 x then y else x
    | _ => if signed 32 x < signed 32 y then y else x
  else
    let f := typeFmt type
    if op = 1 then f.write md ((f.read md x).min (f.read md y)) 0 else f.write md ((f.read md x).max (f.read md y)) 0

/-- The element of a list that a free number picks, and the others. -/
def pickOne (c : Nat) (xs : List Fp) : Fp × List Fp := (xs.getD (c % xs.length) (.fin false 0 0), xs.eraseIdx (c % xs.length))

/-- Terms added two by two, each addition rounded by RNE in FP32, in an order that free numbers choose (R222). -/
def sumFree (choose : Nat → Nat) : (fuel : Nat) → List Fp → Fp
  | 0, xs => xs.headD (.fin false 0 0)
  | n + 1, xs =>
    if xs.length ≤ 1 then xs.headD (.fin false 0 0)
    else
      let a := pickOne (choose (2 * n)) xs
      let b := pickOne (choose (2 * n + 1)) a.2
      sumFree choose n (fp32.decode (fp32.write ⟨.rne, false, false⟩ (sumExact .rne [a.1, b.1]) 0) :: b.2)

/-- Element i reduced over the ranks (R222, R319): the order of a float sum is not fixed; its result is rounded once to the type. -/
def reduced (op type tag number span own : Nat) (md : FpMode) (mine : Nat → Nat) (i : Nat) : Nat :=
  let es := typeBytes type
  let x := fun (r : Nat) => rankElem tag number own mine es r i
  if span ≤ 1 then mine i
  else if op = 0 && type ≠ 5 then
    (typeFmt type).write ⟨.rne, false, false⟩
      (sumFree (Config.collectiveOrder tag number i) span ((List.range span).map fun r => (typeFmt type).decode (x r))) 0
  else ((List.range (span - 1)).map (· + 1)).foldl (fun a r => combine op type md a (x r)) (x 0)

/-- A granule of a collective: this rank's source where it is read, and the destination (R222), each a run at its home (R121). -/
def State.collectGranule (s : State) (th : Thread) (type src dst s0 d0 k n : Nat) (reads : Bool) (f : (Nat → Nat) → Nat → Nat) :
    Gran State :=
  let es := typeBytes type
  let at' := opByte th type d0 + 64 * k
  let from' := opByte th type s0 + 64 * k
  match (if reads then s.opRead th src from' n false .plain else .ok (s, [])) with
  | .error e => .error e
  | .ok (t, bs) =>
    let mine := fun (i : Nat) => (elemsOfBytes es bs).getD (i - 64 / es * k) 0
    let out := (List.range (n / es)).flatMap fun i => leBytes es (f mine (64 / es * k + i))
    let run := fun (u : State) (object e0 : Nat) => u.seeRun th object (e0 + 64 / es * k) (n / es)
    (run (if reads then run t src s0 else t) dst d0).opWrite th dst at' false none out

/-! ### A granule -/

/-- Granule k of a thread, performed whole (R214, R218 to R222). -/
def State.performGranule (s : State) (th : Thread) (k : Nat) : Gran (State × Thread) :=
  let n := th.op.granule k
  let keep := fun (x : Gran State) => match x with
    | .ok t => (.ok (t, th) : Gran (State × Thread))
    | .error e => .error e
  match th.op with
  | .tcopy load mode object starts rowBytes address pitch =>
    let xs := tileParts rowBytes th.op.size k
    keep (foldE (fun t x => t.copyPart th load mode object starts address pitch x)
      (s.observeList th.part object (s.partElems th.part object starts xs)) xs)
  | .tcopys src dst f g rowBytes =>
    let xs := tileParts rowBytes th.op.size k
    let t0 := (s.observeList th.part src (s.partElems th.part src f xs)).observeList th.part dst (s.partElems th.part dst g xs)
    keep (foldE (fun (t : State) (x : Nat × Nat × Nat) =>
      match t.engRead th.part src (t.elemByte th.part src (f.getD x.1 0) + x.2.1) x.2.2 false (.view th.views) with
      | .error e => .error e
      | .ok (u, bs) => u.engWrite th.part dst (u.elemByte th.part dst (g.getD x.1 0) + x.2.1) false th.bundle bs) t0 xs)
  | .nmx op type w x w0 x0 _ alpha lambda address => keep (s.nmxGranule th op type w x w0 x0 alpha lambda address k n)
  | .scan cmp type w w0 _ threshold address capacity => s.scanGranule th cmp type w w0 threshold address capacity k n
  | .ckpt manifest generation _ target object offset peer => keep (s.ckptGranule th manifest generation target object offset peer k)
  | .cred op type src dst s0 d0 _ tag number span rank =>
    keep (s.collectGranule th type src dst s0 d0 k n true (reduced op type tag number span rank (fpMode th.fpctl).plain))
  | .cbcst root type src dst s0 d0 _ tag number _ rank =>
    keep (s.collectGranule th type src dst s0 d0 k n (root = rank) fun mine i => rankElem tag number rank mine (typeBytes type) root i)

/-! ### The thread -/

/-- A thread written back. -/
def State.setThread (s : State) (th : Thread) : State :=
  { s with threads := s.threads.map fun (x : Thread) => if x.id = th.id then th else x }

/-- The ranges of an object's elements that granule k of a thread names. -/
def State.granuleRanges (s : State) (th : Thread) (k : Nat) : List (Nat × Nat × Nat) :=
  let n := th.op.granule k
  let rows := fun (object : Nat) (starts : List Nat) (rb : Nat) => (tileParts rb th.op.size k).map fun x =>
    (object, starts.getD x.1 0 + s.elemsIn th.part object x.2.1, x.2.2)
  let flat := fun (object t e0 : Nat) => (object, e0 + 64 / typeBytes t * k, n)
  if th.host then []
  else
    match th.op with
    | .tcopy _ _ o ss rb .. => rows o ss rb
    | .tcopys src dst f g rb => rows src f rb ++ rows dst g rb
    | .nmx _ t w x w0 x0 .. => [flat w t w0, flat x t x0]
    | .scan _ t w w0 .. => [flat w t w0]
    | .ckpt manifest _ _ target o off _ =>
      let source := match (s.bundle? th.part manifest).bind fun b => b.members[k]? with
        | some (object, line) => [(object, s.elemsIn th.part object (128 * line), n)]
        | none => []
      source ++ if target = 0 then [(o, s.elemsIn th.part o (off + 128 * k), n)] else []
    | .cred _ t src dst s0 d0 .. => [flat src t s0, flat dst t d0]
    | .cbcst root t src dst s0 d0 _ _ _ _ rank => (if root = rank then [flat src t s0] else []) ++ [flat dst t d0]

/-- Whether granule k of a thread touches a frame of an object. -/
def State.touches (s : State) (th : Thread) (object frame k : Nat) : Bool :=
  match s.objDesc th.part object with
  | none => false
  | some d => (s.granuleRanges th k).any fun x =>
      decide (x.1 = object) && (framesOf (s.placesAt none th.part object d x.2.1 x.2.2)).contains frame

/-- The unit index of a granule in a status word (R217): member k of CKPT has index 2k. -/
def EngineOp.index (op : EngineOp) (k : Nat) : Nat := k * (op.unit / 64)

/-- A thread stopped with status bits, at a granule or at its lowest one not performed (R223). -/
def Thread.stop (th : Thread) (flags : Nat) (k : Option Nat) : Thread :=
  if th.stopped then th
  else
    let low := th.todo.foldl Nat.min (th.todo.headD 0)
    { th with flags := th.flags ||| flags, failed := some (th.op.index (k.getD low)), stopped := true }

/-- The threads that touch a frame that OBJUNMAP takes away fail there (R223). -/
def State.failTouching (s : State) (part object frame : Nat) : State :=
  { s with threads := s.threads.map fun (x : Thread) =>
      if x.part = part then
        match x.todo.filter (s.touches x object frame) with
        | [] => x
        | k :: ks => x.stop flagGone (some (ks.foldl Nat.min k))
      else x }

/-- The bytes of word 1 taken off, stopping at 0, with the flip that may follow (R214, R216, R294). -/
def State.subtractBytes (s : State) (core a n : Nat) (sc : Scope) : State :=
  (s.sramWrite core (a + 8) 8 (s.bytesAt core a - n)).flipIfDone core a sc

/-- Whether a bundled thread may still write: its weave has not closed, and its generation is open (R188). -/
def State.bundleLive (s : State) (th : Thread) (b : BitVec 32 × BitVec 32) : Bool :=
  (match s.weave? th.weave with
   | some w => w.part = some b && w.session = th.session
   | none => false) &&
  (match s.bundle? th.part b.1.toNat with
   | some x => x.state = .opened && x.opened = b.2.toNat
   | none => false)

/-- The bundle of a thread aborted while its generation is open or committing (R188, R190). -/
def State.abortFor (s : State) (th : Thread) : State :=
  match th.bundle with
  | none => s
  | some b =>
    match s.bundle? th.part b.1.toNat with
    | some x => if x.opened = b.2.toNat then s.abortBundle x else s
    | none => s

/-- A thread one of whose granules a line in state L refuses (R176, R177). -/
def Thread.refusedBy (th : Thread) (line : Option Nat) (time : Nat) : Thread :=
  { th with refused := line.map fun l => refusedAgain th.refused l time }

/-- Whether a refusal, with the time of the last one, is less than 32 cc ago (R151). -/
def State.refusedNow (s : State) (x : Option (Nat × Nat × Nat)) : Bool := x.any fun r => decide (s.time < r.2.2 + 32)

/-- The memory unit on which a granule of SCAN runs: the channel, or the port, of its first byte (R218). -/
def State.scanUnit (s : State) (th : Thread) (w e0 : Nat) : Nat × Nat :=
  match ((s.objDesc th.part w).bind fun d => (s.elemPlaces none th.part w d e0).head?) with
  | some p => (ofBool (isFar p.home), unitOf p.home)
  | none => (2, 0)

/-- Whether a granule's turn has come: a SCAN's pairs of one channel come out in ascending order (R220), the thread's partition has
a slot to send in (R153), and no line has refused the thread less than 32 cc ago (R151, R176). -/
def State.granuleDue (s : State) (th : Thread) (k : Nat) : Bool :=
  s.maySend th.part && !s.refusedNow th.refused &&
    match th.op with
    | .scan _ t w w0 .. =>
      let unit := fun (j : Nat) => if th.host then (3, 0) else s.scanUnit th w (w0 + 64 / typeBytes t * j)
      !(th.todo.any fun j => decide (j < k) && unit j = unit k)
    | _ => true

/-- A granule of a thread offered by the schedule. -/
def State.granuleEvent (s : State) (id k : Nat) : State :=
  match s.threads.find? fun x => x.id = id with
  | none => s
  | some th =>
    if th.stopped || !th.matched || !th.todo.contains k || !s.granuleDue th k then s
    else if (match th.bundle with
        | some b => !s.bundleLive th b
        | none => false) then
      (s.setThread (th.stop (flagGone ||| flagAbort) (some k))).abortFor th
    else
      match s.performGranule th k with
      | .error (.hold line) => s.setThread (th.refusedBy line s.time)
      | .error (.fails f) =>
        let t := s.setThread (th.stop f (some k))
        if f = flagData then t.abortFor th else t
      | .ok (t, th') =>
        let n := th.op.granule k
        let u := t.setThread { th' with todo := th'.todo.filter (· ≠ k), bytes := th'.bytes + n, refused := none }
        if th.op.counts then u.subtractBytes th.core th.locator n th.scope else u

/-! ### The arrival (R216, R217) -/

/-- A thread's own status (R217). -/
def Thread.status (th : Thread) : Nat :=
  let top := match th.failed with
    | some k => k
    | none => match th.op with
      | .scan .. => th.kept
      | _ => th.bytes
  th.flags + 2 ^ 32 * th.kind + 2 ^ 36 * Nat.min top (2 ^ 28 - 1)

/-- A status merged into a word that an earlier arrival of the phase has written (R217). -/
def mergeStatus (old new : Nat) : Nat :=
  let low := Nat.min 0xFFFF (bits old 0 16 + bits new 0 16)
  let row := if bits old 0 16 = 0 then bits new 16 8 else bits old 16 8
  let flags := bits old 24 6 ||| bits new 24 6
  let kind := if bits old 32 4 = bits new 32 4 then bits old 32 4 else 0xF
  let bad := fun (x : Nat) => decide (bits x 26 4 ≠ 0)
  let top :=
    if bad new && !bad old then bits new 36 28
    else if !bad new && !bad old then Nat.min (2 ^ 28 - 1) (bits old 36 28 + bits new 36 28)
    else bits old 36 28
  low + 2 ^ 16 * row + 2 ^ 24 * flags + 2 ^ 32 * kind + 2 ^ 36 * top

/-- A status written by an engine's or an array's arrival: the first of a phase writes its own (R217). -/
def State.mergeInto (s : State) (core a status : Nat) : State :=
  let first := !s.merged.contains (s.objectKey core a)
  let t := s.sramWrite core (a + 16) 8 (if first then status else mergeStatus (s.statusAt core a) status)
  if first then { t with merged := s.objectKey core a :: s.merged } else t

/-- An engine's or an array's arrival at an object (R216). -/
def State.engineArrive (s : State) (core a status : Nat) (sc : Scope) : State := (s.mergeInto core a status).arrive core a sc

/-- Whether a thread has ended. -/
def Thread.ended (th : Thread) : Bool := th.stopped || (th.matched && th.todo.isEmpty)

/-- The arrival of a thread that has ended: the bytes that it never performed are taken off first (R214, R223). -/
def State.arrivalEvent (s : State) (id : Nat) : State :=
  match s.threads.find? fun x => x.id = id with
  | none => s
  | some th =>
    if !th.ended then s
    else
      let lost := (th.todo.map th.op.granule).sum
      let t : State := { s with threads := s.threads.filter fun (x : Thread) => x.id ≠ id }
      let u := if th.op.counts && lost ≠ 0 then t.sramWrite th.core (th.locator + 8) 8 (t.bytesAt th.core th.locator - lost) else t
      let v := u.engineArrive th.core th.locator th.status th.scope
      match th.op with
      | .ckpt manifest .. => match v.bundle? th.part manifest with
        | some b => v.dropSpilled b
        | none => v
      | _ => v

def execEngineGranule (thread granule : Nat) (s : State) : Host.Outcome State Fault Refusal :=
  .next (s.granuleEvent thread granule)

def execEngineArrival (thread : Nat) (s : State) : Host.Outcome State Fault Refusal := .next (s.arrivalEvent thread)

/-- Whether an operation is a collective over more than one rank. -/
def EngineOp.collective : EngineOp → Bool
  | .cred _ _ _ _ _ _ _ _ _ n _ => decide (1 < n)
  | .cbcst _ _ _ _ _ _ _ _ _ n _ => decide (1 < n)
  | _ => false

/-- The 100 ms within which a collective must meet its matching commands, in cc (R315, R1). -/
def matchLimit : Nat := 330000000

/-- A collective unmatched for 100 ms completes with status bit 27 (R315); one issued before stage 3 waits until stage 3, and its 100 ms
run from there (R272). -/
def execCollectiveMatchTimeout (thread : Nat) (s : State) : Host.Outcome State Fault Refusal :=
  let late (x : Thread) : Bool := x.id = thread && !x.matched && x.op.collective && decide (3 ≤ s.stage.getD 0)
    && decide (Nat.max x.since s.linksAt + matchLimit ≤ s.time)
  .next { s with threads := s.threads.map fun (x : Thread) => if late x then x.stop flagGone none else x }

/-- A peer's reset reported to a span stops its collective threads with status bit 29 (R223). -/
def execMemberWithdrawn (part : Nat) (s : State) : Host.Outcome State Fault Refusal :=
  .next { s with threads := s.threads.map fun (x : Thread) =>
    if x.part = part && x.op.collective then x.stop flagWithdrawn none else x }

/-- The matching commands of the other ranks have come, once the module has reached stage 3; where they disagree, the
thread completes with status bit 27 (R222, R315). -/
def State.peersReady (s : State) (thread : Nat) : State :=
  if 3 ≤ s.stage.getD 0 then
    { s with threads := s.threads.map fun (x : Thread) =>
      if x.id = thread && !x.matched then
        match x.op with
        | .cred _ _ _ _ _ _ _ t n _ _ => if Config.peersAgree t n then { x with matched := true } else x.stop flagGone none
        | .cbcst _ _ _ _ _ _ _ t n _ _ => if Config.peersAgree t n then { x with matched := true } else x.stop flagGone none
        | _ => { x with matched := true }
      else x }
  else s

end Sys2Proof.Machine
end

