-- ==== Sys2Proof/Machine/Engine.lean ====
section
/-! DEFINITION. The engine commands: major 29 (R210 to R213, R314 to R316, R319, R344, R358, R365, R366): the descriptor,
the checks made at issue, and the thread forked. -/

namespace Sys2Proof.Machine

/-- Why a command fails its checks: the cause, and the object and place of the record. -/
structure CmdFault where
  cause : Cause
  object : Nat
  place : Nat
  generation : Nat
deriving DecidableEq, Repr

/-- A check of a command. -/
abbrev Cmd := Except CmdFault

/-- What a check demands, with the cause where it fails. -/
def demand (ok : Bool) (c : Cause) (object : Nat := 0) (place : Nat := 0) : Cmd Unit :=
  if ok then .ok () else .error ⟨c, object, place, 0⟩

/-- A command as it is issued: the weave, its agent, its attributes, the state, and the eight words of its descriptor. -/
structure Issue where
  w : Weave
  g : Agent
  a : Attrs
  s : State
  word : Nat → Nat

/-- Whether host memory holds the operands (R213). -/
def Issue.host (x : Issue) : Bool := x.a.space = .hst

/-- Whether a descriptor word holds bits outside a set of fields, given as the first bit and the length. -/
def fieldsOnly (x : Nat) (fs : List (Nat × Nat)) : Bool :=
  (List.range 64).all fun i => !bitAt x i || fs.any fun f => f.1 ≤ i && i < f.1 + f.2

/-- The fields of every word (R213). -/
def Issue.layout (x : Issue) (fs : List (List (Nat × Nat))) : Cmd Unit :=
  demand ((List.range 8).all fun i => fieldsOnly (x.word i) (fs.getD i [])) .illegal

/-- The step of R110 with the lowest number among ranges, with the object and the place of that range. -/
def lowestStep (xs : List (Option (Nat × Cause) × Nat × Nat)) : Option (Cause × Nat × Nat) :=
  (xs.foldl (fun (m : Option (Nat × Cause × Nat × Nat)) x => match x.1, m with
    | none, _ => m
    | some (n, c), none => some (n, c, x.2.1, x.2.2)
    | some (n, c), some y => if n < y.1 then some (n, c, x.2.1, x.2.2) else m) none).map (·.2)

/-- A failure at an element of an object, with the layout generation of its region where the object is a tensor (R248). -/
def Issue.failure (x : Issue) (c : Cause) (object element : Nat) : CmdFault :=
  ⟨c, object, element, (x.s.recordGeneration x.g.part object (x.s.objDesc x.g.part object) element).toNat⟩

/-- The steps of R110 over ranges of elements: the object, the permission, whether a coordinate is out of range, the first
element and the count. -/
def Issue.ranges (x : Issue) (rs : List (Nat × Need × Bool × Nat × Nat)) : Cmd Unit :=
  match lowestStep (rs.map fun r => (x.s.rangeSteps x.g.part r.1 r.2.1 r.2.2.1 r.2.2.2.1 r.2.2.2.2, r.1, r.2.2.2.1)) with
  | none => .ok ()
  | some (c, o, e) => .error (x.failure c o e)

/-- The object that a field names (R212): step 1 of R110, and the kind that the field accepts. -/
def Issue.object (x : Issue) (o : Nat) (accepts : ObjDesc → Bool) : Cmd ObjDesc :=
  match x.s.objDesc x.g.part o with
  | none => .error ⟨.objBound, o, 0, 0⟩
  | some d => if accepts d then .ok d else .error ⟨.illegal, 0, 0, 0⟩

/-- Whether an object is a tensor. -/
def ObjDesc.isTensor (d : ObjDesc) : Bool := d.kind = 2

/-- A scratchpad range that a command moves (R212): the checks of R110. -/
def Issue.spad (x : Issue) (at' n align : Nat) : Cmd Unit := do
  demand (x.s.spadInside x.g at' n) .objBound 0 at'
  demand (at' % align = 0) .align 0 at'

/-- The completion object or the descriptor of a command, which lies in the crew's reservation (R211). -/
def Issue.reserved (x : Issue) (at' n align : Nat) : Cmd Unit := do
  demand (x.g.reserved at' n) .objBound 0 at'
  demand (at' % align = 0) .align 0 at'

/-! ### Stores of a command (R186, R187) -/

/-- The lines of ranges of elements, with their objects. -/
def Issue.lines (x : Issue) (rs : List (Nat × Nat × Nat)) : List (Nat × Nat) :=
  distinct (rs.flatMap fun r => match x.s.objDesc x.g.part r.1 with
    | none => []
    | some d => (lineCuts (r.2.1 * d.nibs / 2) (r.2.2 * d.nibs / 2)).map fun c => (r.1, c.1 / 128))

/-- The first element of ranges that lies in a line of theirs: the place of a record about the line (R248). -/
def Issue.firstOf (x : Issue) (rs : List (Nat × Nat × Nat)) (l : Nat × Nat) : Nat :=
  match x.s.objDesc x.g.part l.1 with
  | none => 0
  | some d =>
    let at' := 256 * l.2 / d.nibs
    ((rs.find? fun r => r.1 = l.1 && r.2.1 < at' + 256 / d.nibs && at' < r.2.1 + r.2.2).map fun r => Nat.max r.2.1 at').getD at'

/-- The checks of the lines that a command writes, in place or as bundled stores; the faulting generation is the open one. -/
def Issue.stores (x : Issue) (bundled : Bool) (rs : List (Nat × Nat × Nat)) : Cmd Unit :=
  let ls := x.lines rs
  if bundled then
    match x.s.bundle? x.g.part x.w.breg.toNat with
    | none => .error ⟨.bundleOutside, (ls.head?.map (·.1)).getD 0, (ls.head?.map (x.firstOf rs)).getD 0, 0⟩
    | some b =>
      if !x.s.mayStore x.g.part x.w.breg x.w.part then
        .error ⟨.bundleOutside, (ls.head?.map (·.1)).getD 0, (ls.head?.map (x.firstOf rs)).getD 0, b.opened⟩
      else match ls.find? fun l => x.s.foreignTag x.g.part b.handle l.1 l.2 with
      | some l => .error ⟨.bundleOutside, l.1, x.firstOf rs l, b.opened⟩
      | none =>
        match ((ls.filter fun l => !b.members.contains l).drop (x.s.memberRoom b)).head? with
        | some l => .error (x.failure .objBound l.1 (x.firstOf rs l))
        | none => .ok ()
  else
    let t := ls.foldl (fun (u : State) l => u.settleLine x.g.part l.1 l.2) x.s
    match ls.find? fun l => t.barred x.g.part l.1 l.2 with
    | none => .ok ()
    | some l => .error ⟨.bundleOutside, l.1, x.firstOf rs l, ((t.member? x.g.part l.1 l.2).bind fun m =>
        (t.bundle? x.g.part m.handle).map (·.opened)).getD 0⟩

/-! ### Tiles (R213, R214) -/

/-- A tile of a descriptor: its object, the origin's coordinates, its size and its row dimension. -/
structure Tile where
  object : Nat
  c0 : Nat
  c1 : Nat
  c2 : Nat
  c3 : Nat
  cols : Nat
  rows : Nat
  dim : Nat
deriving DecidableEq, Repr, Inhabited

/-- A tile whose origin stands in two words of the descriptor (R8). -/
def Issue.tile (x : Issue) (object origin : Nat) : Tile :=
  let p := x.word origin
  let q := x.word (origin + 1)
  ⟨object, p / 2 ^ 32, q / 2 ^ 32, p % 2 ^ 32, q % 2 ^ 32, bits (x.word 3) 0 32, bits (x.word 3) 32 16, bits (x.word 3) 48 2⟩

/-- Row t of a tile: whether it lies outside the object's extents, and the element at which it starts. -/
def Tile.row (t : Tile) (d : ObjDesc) (index : Option (List Int)) (i : Nat) : Bool × Nat :=
  let move := fun (k c : Nat) => if t.dim = k then (match index with
    | some xs => xs.getD i 0
    | none => ((c + i : Nat) : Int)) else (c : Int)
  let a := move 0 t.c0
  let b := move 1 t.c1
  let c := move 2 t.c2
  let r := coordOffset d a.toNat b.toNat c.toNat t.c3
  (decide (a < 0) || decide (b < 0) || decide (c < 0) || r.1 || decide (d.d3 < t.c3 + t.cols), r.2)

/-- The rows of a tile. -/
def Tile.starts (t : Tile) (d : ObjDesc) (index : Option (List Int)) : List (Bool × Nat) := (List.range t.rows).map (t.row d index)

/-- The ranges of a tile's rows. -/
def Tile.ranges (t : Tile) (need : Need) (rs : List (Bool × Nat)) : List (Nat × Need × Bool × Nat × Nat) :=
  rs.map fun r => (t.object, need, r.1, r.2, t.cols)

/-- The bytes of a row. -/
def Tile.rowBytes (t : Tile) (d : ObjDesc) : Nat := t.cols * d.nibs / 2

/-- The fields of a tile, and its alignment for i4 (R213). -/
def Issue.rows (x : Issue) (t : Tile) (d : ObjDesc) (rs : List (Bool × Nat)) : Cmd Unit := do
  demand (d.nibs ≠ 1 || t.cols % 2 = 0) .illegal
  match rs.find? fun r => d.nibs = 1 && (t.c3 % 2 ≠ 0 || (!r.1 && r.2 % 2 ≠ 0)) with
  | some r => .error (x.failure .align t.object r.2)
  | none => return

/-- The state in which a command's own accesses begin: after the release of an .rel command (R171). -/
def Issue.released (x : Issue) : State := if releases x.a.order then x.s.release x.g.core x.a.scope else x.s

/-- The values of an index tensor (R115): a rank-1 tensor of i8 or i32, read at issue, after the command's release. -/
def Issue.index (x : Issue) (ix : BitVec 1) (object rows : Nat) : Cmd (Option (List Int)) := do
  if ix = 0 then
    demand (object = 0) .illegal
    return none
  else
    let d ← x.object object fun d => d.isTensor && d.rank = 1 && (d.type = 5 || d.type = 6)
    x.ranges [(object, .read, false, 0, rows)]
    let es := d.nibs / 2
    let ps := x.s.placesAt none x.g.part object d 0 (rows * es)
    let bs := leBytes (rows * es) ((x.released.eachPlaceLine ps State.gather).homeNat ps)
    return some ((elemsOfBytes es bs).map (signed (8 * es)))

/-- The status bits that reading an index tensor gives (R223). -/
def Issue.indexFlags (x : Issue) (ix : BitVec 1) (object rows : Nat) : Nat :=
  match (if ix = 1 then x.s.objDesc x.g.part object else none) with
  | none => 0
  | some d =>
    let ps := x.s.placesAt none x.g.part object d 0 (rows * d.nibs / 2)
    if ps.any x.s.placeDown then flagGone else if ps.any x.s.poisoned then flagData else 0

/-- TCOPY (R365). -/
def Issue.tcopy (x : Issue) (load : Bool) (mode : Nat) (ix : BitVec 1) : Cmd EngineOp := do
  x.layout [[(0, 64)], [(0, 64)], [(0, 64)], [(0, 50)], [(0, 20), (32, 20)]]
  let t := x.tile (bits (x.word 0) 0 32) 1
  let pitch := bits (x.word 4) 32 20
  let address := bits (x.word 4) 0 20
  demand (t.cols ≠ 0 && t.rows ≠ 0 && t.dim ≠ 3 && pitch % 16 = 0) .illegal
  let d ← x.object t.object ObjDesc.isTensor
  demand (t.rowBytes d ≤ pitch) .illegal
  let index ← x.index ix (bits (x.word 0) 32 32) t.rows
  let rs := t.starts d index
  x.rows t d rs
  x.spad address ((t.rows - 1) * pitch + t.rowBytes d) 1
  x.ranges (t.ranges (if load then .read else .write) rs)
  if !load then x.stores x.a.bundle (rs.map fun r => (t.object, r.2, t.cols))
  return .tcopy load mode t.object (rs.map (·.2)) (t.rowBytes d) address pitch

/-- TCOPYS (R366). -/
def Issue.tcopys (x : Issue) (ix : BitVec 1) : Cmd EngineOp := do
  x.layout [[(0, 64)], [(0, 64)], [(0, 64)], [(0, 50)], [(0, 32)], [(0, 64)], [(0, 64)]]
  let t := x.tile (bits (x.word 0) 0 32) 1
  let u := x.tile (bits (x.word 4) 0 32) 5
  demand (t.cols ≠ 0 && t.rows ≠ 0 && t.dim ≠ 3) .illegal
  let d ← x.object t.object ObjDesc.isTensor
  let e ← x.object u.object ObjDesc.isTensor
  demand (d.type = e.type) .illegal
  let index ← x.index ix (bits (x.word 0) 32 32) t.rows
  let rs := t.starts d index
  let us := u.starts e none
  x.rows t d rs
  x.rows u e us
  x.ranges (t.ranges .read rs ++ u.ranges .write us)
  x.stores x.a.bundle (us.map fun r => (u.object, r.2, u.cols))
  return .tcopys t.object u.object (rs.map (·.2)) (us.map (·.2)) (t.rowBytes d)

/-! ### Flat operands -/

/-- The element types that a kind of command accepts (R213). -/
def typeAccepted (kind t : Nat) : Bool :=
  match kind with
  | 3 => t = 0 || t = 2
  | 4 => t = 0 || t = 1 || t = 2 || t = 5
  | _ => t = 0 || t = 2 || t = 5

/-- The element type of an operand: a tensor's, or, for host memory, a free one (log 17). -/
def Issue.type (x : Issue) (kind object : Nat) : Cmd Nat :=
  if x.host then
    if object ≠ 0 then .error ⟨.illegal, 0, 0, 0⟩
    else .ok (if typeAccepted kind (Config.hostType kind) then Config.hostType kind else 0)
  else do
    let d ← x.object object fun d => d.isTensor && typeAccepted kind d.type
    return d.type

/-- The alignment of an operand's first element (R213), and its range. In host memory, where the first element is a byte offset and no
object gives es, it must be a multiple of 64 bytes (DESIGN CHOICE, log 64). -/
def Issue.flat (x : Issue) (type : Nat) (rs : List (Nat × Need × Nat)) (n : Nat) : Cmd Unit := do
  let es := typeBytes type
  let step := if x.host then 64 else 64 / es
  match rs.find? fun r => r.2.2 % step ≠ 0 with
  | some r => .error (if x.host then ⟨.align, 0, r.2.2, 0⟩ else x.failure .align r.1 r.2.2)
  | none => pure ()
  if x.host then demand (rs.all fun r => r.2.2 + n * es ≤ x.s.granted x.g.fn) .perm
  else x.ranges (rs.map fun r => (r.1, r.2.1, false, r.2.2, n))

/-- NMX (R344). -/
def Issue.nmx (x : Issue) (op : Nat) : Cmd EngineOp := do
  let w4 := if op = 1 then [(0, 64)] else if op = 0 || op = 3 then [(0, 32)] else []
  x.layout [[(0, 64)], [(0, 48)], [(0, 48)], [(0, 48)], w4, if op = 4 then [(0, 20)] else []]
  let w := bits (x.word 0) 0 32
  let y := bits (x.word 0) 32 32
  let n := x.word 3
  let address := bits (x.word 5) 0 20
  demand (n ≠ 0 && (op ≠ 3 || (y = 0 && x.word 2 = 0))) .illegal
  let type ← x.type 3 w
  if op ≠ 3 then
    let other ← x.type 3 y
    demand (type = other) .illegal
  if op = 4 then x.spad address (4 * ceilDiv (n * typeBytes type) 64) 1
  let need : Need := if op = 4 then .read else if op = 2 || op = 3 then .write else .both
  x.flat type ((w, need, x.word 1) :: if op = 3 then [] else [(y, .read, x.word 2)]) n
  if !x.host then x.stores x.a.bundle (if op = 4 then [] else [(w, x.word 1, n)]) else if x.a.bundle then x.stores true []
  return .nmx op type w y (x.word 1) (x.word 2) n (BitVec.ofNat 32 (x.word 4)) (BitVec.ofNat 32 (x.word 4 / 2 ^ 32)) address

/-- SCAN (R358). -/
def Issue.scan (x : Issue) (cmp : Nat) : Cmd EngineOp := do
  x.layout [[(0, 32)], [(0, 48)], [], [(0, 48)], [(0, 32)], [(0, 20), (32, 20)]]
  let w := x.word 0
  let n := x.word 3
  demand (n ≠ 0) .illegal
  let type ← x.type 4 w
  demand (typeBytes type = 4 || x.word 4 < 2 ^ 16) .illegal
  let address := bits (x.word 5) 0 20
  let capacity := bits (x.word 5) 32 20
  x.spad address (16 * capacity) 16
  x.flat type [(w, .read, x.word 1)] n
  return .scan cmp type w (x.word 1) n (BitVec.ofNat 32 (x.word 4)) address capacity

/-- The ranks of a weave's span and this chip's own (R315, R25). -/
def Issue.span (x : Issue) : Nat × Nat :=
  match (x.s.crew? x.w.crew).bind x.s.launchOf with
  | some l => (Nat.max 1 l.span, l.rank)
  | none => (1, 0)

/-- CKPT (R221, R316). -/
def Issue.ckpt (x : Issue) : Cmd EngineOp := do
  x.layout [[(0, 32)], [(0, 32)], [(0, 2), (16, 12)], if bits (x.word 2) 0 2 = 1 then [] else [(0, 32)], [(0, 48)]]
  let manifest := x.word 0
  let g := x.word 1
  let target := bits (x.word 2) 0 2
  let peer := bits (x.word 2) 16 12
  let object := x.word 3
  let offset := x.word 4
  demand (target ≠ 3 && (!(target = 2) || peer < x.span.1) && (!x.host || object = 0)) .illegal
  let d ← x.object manifest fun d => d.kind = 3
  demand (!d.withdrawn) .extentGone manifest
  demand (64 ≤ d.size) .objBound manifest
  demand d.readable .perm manifest
  match x.s.bundle? x.g.part manifest with
  | none => .error ⟨.illegal, 0, 0, 0⟩
  | some b =>
    demand (b.pin = some g) .illegal
    if offset % 128 ≠ 0 then
      .error (if target = 0 && !x.host then x.failure .align object (2 * offset / (((x.s.objDesc x.g.part object).map (·.nibs)).getD 2))
        else ⟨.align, object, offset, 0⟩)
    let m := b.members.length
    let sources := b.members.map fun y => match x.s.objDesc x.g.part y.1 with
      | none => (y.1, Need.read, false, 0, 1)
      | some d => (y.1, Need.read, false, 256 * y.2 / d.nibs,
          Nat.min (256 / d.nibs) ((if d.kind = 2 then d.count else d.size) - 256 * y.2 / d.nibs))
    if target = 1 || x.host then
      demand (offset + 128 * m ≤ x.s.granted x.g.fn) .perm
      x.ranges sources
    else if target = 0 then
      let e ← x.object object ObjDesc.isTensor
      x.ranges (sources ++ [(object, .write, false, 2 * offset / e.nibs, 256 * m / e.nibs)])
      x.stores false [(object, 2 * offset / e.nibs, 256 * m / e.nibs)]
    else x.ranges sources
    return .ckpt manifest g m target object offset peer

/-- CRED and CBCST (R222, R315): the operands, and the source where it is read on this rank. -/
def Issue.collective (x : Issue) (kind : Nat) (reads : Bool) : Cmd (Nat × Nat × Nat) := do
  let src := bits (x.word 0) 0 32
  let dst := bits (x.word 0) 32 32
  demand (x.word 3 ≠ 0) .illegal
  let type ← x.type kind dst
  if reads then
    let other ← x.type kind src
    demand (type = other) .illegal
  x.flat type ((if reads then [(src, .read, x.word 1)] else []) ++ [(dst, .write, x.word 2)]) (x.word 3)
  if !x.host then x.stores false [(dst, x.word 2, x.word 3)]
  return (type, src, dst)

/-- The number of a collective among those of its partition and tag (R315). -/
def State.tagNumber (s : State) (part tag : Nat) : Nat :=
  ((s.tagCounts.find? fun x => x.1 = part && x.2.1 = tag).map (·.2.2)).getD 0

def Issue.cred (x : Issue) (op : Nat) : Cmd EngineOp := do
  x.layout [[(0, 64)], [(0, 48)], [(0, 48)], [(0, 48)], [], [(0, 32)]]
  let r ← x.collective 6 true
  return .cred op r.1 r.2.1 r.2.2 (x.word 1) (x.word 2) (x.word 3) (x.word 5) (x.s.tagNumber x.g.part (x.word 5)) x.span.1 x.span.2

def Issue.cbcst (x : Issue) : Cmd EngineOp := do
  x.layout [[(0, 64)], [(0, 48)], [(0, 48)], [(0, 48)], [(0, 12)], [(0, 32)]]
  let root := x.word 4
  demand (root < x.span.1) .illegal
  let r ← x.collective 7 (root = x.span.2)
  return .cbcst root r.1 r.2.1 r.2.2 (x.word 1) (x.word 2) (x.word 3) (x.word 5) (x.s.tagNumber x.g.part (x.word 5))
    x.span.1 x.span.2

/-! ### The thread forked -/

/-- The tag of a collective, counted when it issues (R315). -/
def State.countTag (s : State) (part : Nat) : EngineOp → State
  | .cred _ _ _ _ _ _ _ tag number _ _ => { s with
      tagCounts := (part, tag, number + 1) :: s.tagCounts.filter fun x => !(x.1 = part && x.2.1 = tag) }
  | .cbcst _ _ _ _ _ _ _ tag number _ _ => { s with
      tagCounts := (part, tag, number + 1) :: s.tagCounts.filter fun x => !(x.1 = part && x.2.1 = tag) }
  | _ => s

/-- The weaves whose MLOADs stand in the queues of a core's arrays: each is an engine thread until its arrival (R171, R236). -/
def State.loading (s : State) (core : Nat) : List WeaveId :=
  (s.arrays.filter fun a => a.core = core).flatMap fun a => a.queue.filterMap fun o => match o with
    | .mload w .. => some w
    | _ => none

/-- Whether a core can run one more thread for a crew's partition (R212): 32 in all, and the limit in force at the crew's dispatch
(R269). -/
def State.threadRoom (s : State) (part core limit : Nat) : Bool :=
  let threads := s.threads.filter fun t => t.core = core
  let loads := s.loading core
  let mine := loads.filter fun id => ((s.weave? id).map Weave.partition) = some part
  decide (threads.length + loads.length < 32) &&
    decide ((threads.filter fun t => t.part = part).length + mine.length < limit)

/-- The limit of engine threads under which a weave's crew was dispatched (R269). -/
def State.engineLimit (s : State) (w : Weave) : Nat := ((s.crew? w.crew).map (·.engines)).getD 0

/-- The thread of a command (R171). -/
def Issue.thread (x : Issue) (op : EngineOp) (kind locator flags : Nat) (bundled : Bool) : Thread :=
  { id := x.s.nextId, weave := x.w.id, crew := x.w.crew, part := x.g.part, fn := x.g.fn, core := x.g.core
    base := if x.g.sup then 0 else x.g.spadAt
    op, kind, todo := List.range op.granules, bytes := 0, locator, scope := x.a.scope, host := x.host
    bundle := if bundled && !x.host then x.w.part else none
    views := if x.a.view then x.w.views.toList else []
    fpctl := x.w.fpctl, flags, kept := 0, written := 0, failed := if flags = 0 then none else some 0
    stopped := flags ≠ 0, matched := !op.collective, since := x.s.time, refused := none
    session := x.w.session }

/-- A thread forked: the release of an .rel command, the bytes counted in word 1, and the thread (R171, R214). An uncorrectable error in
the index tensor of a bundled command aborts its bundle (R223, R190). -/
def Issue.fork (x : Issue) (th : Thread) : State :=
  let t := x.released
  let u := if th.op.counts then t.sramWrite x.g.core (th.locator + 8) 8 (t.bytesAt x.g.core th.locator + th.op.size) else t
  let v := { u.countTag x.g.part th.op with threads := u.threads ++ [th], nextId := u.nextId + 1 }
  if th.flags = flagData then v.abortFor th else v

/-- Whether a command waits for a slot of its partition (R153): one that reads an index tensor, and an .rel command whose release
sends. -/
def Issue.held (x : Issue) (ix : BitVec 1) : Bool :=
  (ix = 1 && !x.s.maySend x.g.part) || (releases x.a.order && x.s.fenceHeld x.g.part x.g.core x.a.scope)

/-- A command of major 29: its locator and its descriptor, its checks, and its thread (R211, R212). -/
def command (i : Instr) (kind : Nat) (a d : RegField) (bundles : Bool) (ix : BitVec 1) (f : Issue → Cmd EngineOp) : Body := fun w t =>
  let g := t.agentOf w t.cur.strand
  let locator := locatorOf (reg w t d)
  let at' := (reg w t a).toNat
  let x : Issue := ⟨w, g, t.attrsOf i w, t, fun k => t.sramRead w.id.core (g.spad at' + 8 * k) 8⟩
  match (do
    x.reserved locator 32 32
    x.reserved at' 64 64
    f x : Cmd EngineOp) with
  | .error e => .error (.fault { t.info w e.cause accEngine with
      engine := kind, object := BitVec.ofNat 32 e.object, generation := BitVec.ofNat 32 e.generation, place := BitVec.ofNat 128 e.place })
  | .ok op =>
    if x.held ix || !t.threadRoom g.part g.core (t.engineLimit w) then .error .stall
    else
      let rows := bits (x.word 3) 32 16
      .ok (x.fork (x.thread op kind (g.spad locator) (x.indexFlags ix (bits (x.word 0) 32 32) rows) (bundles && x.a.bundle)))

def execTcopy (l : BitVec 1) (k : BitVec 2) (x : BitVec 1) (a d : RegField) (s : State) :=
  run (.tcopy l k x a d) s (command (.tcopy l k x a d) 1 a d (l = 1) x fun y => y.tcopy (l = 0) k.toNat x)

def execTcopys (x : BitVec 1) (a d : RegField) (s : State) :=
  run (.tcopys x a d) s (command (.tcopys x a d) 2 a d true x fun y => y.tcopys x)

def execNmx (o : BitVec 3) (a d : RegField) (s : State) :=
  run (.nmx o a d) s (command (.nmx o a d) 3 a d true 0 fun y => y.nmx o.toNat)

def execScan (c : BitVec 2) (a d : RegField) (s : State) :=
  run (.scan c a d) s (command (.scan c a d) 4 a d false 0 fun y => y.scan c.toNat)

def execCkpt (a d : RegField) (s : State) :=
  run (.ckpt a d) s (command (.ckpt a d) 5 a d false 0 Issue.ckpt)

def execCred (o : BitVec 2) (a d : RegField) (s : State) :=
  run (.cred o a d) s (command (.cred o a d) 6 a d false 0 fun y => y.cred o.toNat)

def execCbcst (a d : RegField) (s : State) :=
  run (.cbcst a d) s (command (.cbcst a d) 7 a d false 0 Issue.cbcst)

end Sys2Proof.Machine
end

