-- ==== Sys2Proof/Machine/Arrays.lean ====
section
/-! DEFINITION. The matrix arrays at work (R76, R224, R225, R230 to R236): elements under their block scales, F26, MLOAD,
MMAC with its order and its check, promotion, and the arrivals. -/

namespace Sys2Proof.Machine

/-! ### F26 (R76) -/

/-- The 26 bits of an F26 value; a word holds them above six zeros. -/
def f26 : Fmt := ⟨8, 17, 127, true, false, 0x7FC00000 / 64⟩

/-- A word of the accumulator plane read as F26: bits 5:0 ignored, an exponent of zero read as a signed zero. -/
def f26Read (w : Word) : Fp :=
  let x := w.toNat / 64
  if bits x 17 8 = 0 then .fin (bitAt x 25) 0 0 else f26.decode x

/-- A value rounded to F26: to 17 fraction bits with RNE, the exponent unbounded, then flushed below 2^-126. -/
def f26Round (v : Fp) : Word :=
  match v with
  | .nan => 0x7FC00000
  | .inf neg => BitVec.ofNat 32 (64 * f26.infinity neg)
  | .fin neg m e =>
    let q := e + bitLen m - 18
    let n := Exact.units ⟨m, e, false⟩ q .rne neg 0
    let top := if n = 2 ^ 18 then q + 1 else q
    if m = 0 || top + 17 < -126 then BitVec.ofNat 32 (64 * f26.pack neg 0 0)
    else if f26.qmax < top then BitVec.ofNat 32 (64 * f26.infinity neg)
    else BitVec.ofNat 32 (64 * f26.pack neg n q)

/-- F26 addition of exact values. -/
def f26Sum (xs : List Fp) : Word := f26Round (sumExact .rne xs)

/-- FP32 addition as the arrays make it: RNE, subnormals kept. -/
def arrayMode : FpMode := ⟨.rne, false, false⟩
def f32Sum (xs : List Fp) : Word := BitVec.ofNat 32 (fp32.write arrayMode (sumExact .rne xs) 0)

/-- An FP32 word as a value. -/
def f32Value (w : Word) : Fp := fp32.decode w.toNat

/-! ### Elements (R225, R226, R83) -/

/-- The payload width of a format code. -/
def formatWidth (c : Nat) : Nat :=
  match c with
  | 1 => 4
  | 4 => 16
  | 5 => 16
  | 7 => 4
  | 8 => 2
  | _ => 8

/-- The products per cell, and the activation rows of a lane register. -/
def formatQ (c : Nat) : Nat := if formatWidth c = 4 then 2 else if formatWidth c = 2 then 4 else 1
def formatRows (c : Nat) : Nat := if formatWidth c = 16 then 2 else 4

/-- Whether a format is integer, SX, or FP8. -/
def formatInt (c : Nat) : Bool := c < 2
def formatSx (c : Nat) : Bool := 6 ≤ c
def formatFp8 (c : Nat) : Bool := c = 2 || c = 3

/-- The bytes of a weight tile. -/
def tileBytes (c : Nat) : Nat := if formatWidth c = 16 then 18432 else 9216

/-- Whether a format pairs with a block-length code (R83). -/
def blockOk (c bl : Nat) : Bool := if formatSx c then bl = 2 else if formatFp8 c then bl = 0 || bl = 2 else decide (c < 6) && bl = 0

/-- The bytes of one block's scale, and of the scales of a weight tile. -/
def scaleBytes (c bl : Nat) : Nat := if formatSx c then 2 else if formatFp8 c && bl = 2 then 1 else 0
def weightScales (c bl : Nat) : Nat := 3 * 96 * formatQ c * scaleBytes c bl

/-- Element i of packed elements (R68). -/
def packedElem (bs : List Byte) (width i : Nat) : Nat :=
  let at' := i * width / 8
  bits (leNat ((bs.drop at').take 2)) (i * width % 8) width

/-- The scale of block g among scale bytes. -/
def scaleOf (c bl : Nat) (scales : List Byte) (g : Nat) : Nat :=
  let n := scaleBytes c bl
  leNat ((scales.drop (n * g)).take n)

/-- The value of a float payload under its block's scale; i is the element's place in its block (R77, R82). -/
def floatElem (c bl payload scale i : Nat) : Fp :=
  match c with
  | 4 => fp16.decode payload
  | 5 => bf16.decode payload
  | 6 => sxValue 7 scale i payload
  | 7 => sxValue 3 scale i payload
  | 8 => sxValue 1 scale i payload
  | _ =>
    let v := (if c = 2 then e4m3 else e5m2).decode payload
    if bl = 0 then v
    else if scale = 0xFF then .nan
    else match v with
      | .fin neg m e => .fin neg m (e + scale - 127)
      | other => other

/-- The value of an integer payload. -/
def intElem (c payload : Nat) : Int := signed (formatWidth c) payload

/-! ### Weight planes -/

/-- The plane of a cleared array (R224). -/
def Plane.cleared : Plane := ⟨0, 0, 1, [], [], [], [], [], []⟩

/-- Payload (K, n) of a plane, with the injections of R235. -/
def Plane.payload (p : Plane) (inject : List (Nat × Nat)) (k n : Nat) : Nat :=
  let w := formatWidth p.format
  let x := packedElem p.tile w (96 * k + n)
  if k % p.q = 0 && inject.contains (k / p.q, n) then x ^^^ 2 ^ (w - 2) else x

/-- Weight (K, n) of a plane as a float value, or as an integer. -/
def Plane.float (p : Plane) (inject : List (Nat × Nat)) (k n : Nat) : Fp :=
  if p.tile.isEmpty && !inject.contains (k / p.q, n) then .fin false 0 0
  else floatElem p.format p.blockLen (p.payload inject k n) (scaleOf p.format p.blockLen p.scales (3 * k + n / 32)) (n % 32)

def Plane.int (p : Plane) (inject : List (Nat × Nat)) (k n : Nat) : Int := intElem p.format (p.payload inject k n)

/-- An integer as a word, and a word as a signed integer. -/
def intWord (x : Int) : Word := BitVec.ofInt 32 x
def wordInt (w : Word) : Int := w.toInt

/-- The check sums of a list of weights (R230): integers wrap, floats round at each addition. -/
def sumInts (xs : List Int) : Word := intWord (xs.foldl (· + ·) 0)
def sumFloats (xs : List Fp) : Word := xs.foldl (fun s x => f32Sum [f32Value s, x]) 0

/-- The plane that a tile and its scales give (R230). -/
def decodePlane (format bl : Nat) (tile scales : List Byte) : Plane :=
  let q := formatQ format
  let p : Plane := ⟨format, bl, q, tile, scales, [], [], [], []⟩
  let rows := List.range (96 * q)
  let cols := List.range 96
  let sums := fun (f : Fp → Fp) (g : Int → Int) (cells : List (Nat × Nat)) =>
    if formatInt format then sumInts (cells.map fun x => g (p.int [] x.1 x.2)) else sumFloats (cells.map fun x => f (p.float [] x.1 x.2))
  let absI := fun (x : Int) => (x.natAbs : Int)
  { p with
    rs := rows.map fun k => sums id id (cols.map fun n => (k, n))
    ra := rows.map fun k => sums Fp.abs absI (cols.map fun n => (k, n))
    cs := if q = 1 then cols.map fun n => sums id id (cols.map fun k => (k, n)) else []
    ca := if q = 1 then cols.map fun n => sums Fp.abs absI (cols.map fun k => (k, n)) else [] }

/-- Whether a check sum of a plane is NaN (R236). -/
def Plane.nanSum (p : Plane) : Bool :=
  !formatInt p.format && (p.rs ++ p.ra ++ p.cs ++ p.ca).any fun w => f32Value w = .nan

/-! ### The array -/

/-- An array as its crew receives it (R224). -/
def MatArray.cleared (core index : Nat) : MatArray :=
  ⟨core, index, .cleared, .cleared, false, .replicate 96 LaneReg.zero, .replicate 96 LaneReg.zero, .replicate 96 0, [], []⟩

def State.array? (s : State) (core index : Nat) : Option MatArray := s.arrays.find? fun a => a.core = core && a.index = index

def State.setArray (s : State) (a : MatArray) : State :=
  { s with arrays := s.arrays.map fun (x : MatArray) => if x.core = a.core && x.index = a.index then a else x }

/-- The active plane, its number, and the shadow plane replaced. -/
def MatArray.plane (a : MatArray) : Plane := if a.active then a.plane1 else a.plane0
def MatArray.planeNo (a : MatArray) : Nat := ofBool a.active
def MatArray.setShadow (a : MatArray) (p : Plane) : MatArray := if a.active then { a with plane0 := p } else { a with plane1 := p }

def MatArray.accRow (a : MatArray) (r : Nat) : LaneReg := (a.acc[r]?).getD LaneReg.zero
def MatArray.fpRow (a : MatArray) (r : Nat) : LaneReg := (a.fp[r]?).getD LaneReg.zero
def MatArray.counter (a : MatArray) (r : Nat) : Nat := (a.counters[r]?).getD 0
def MatArray.setRow (a : MatArray) (r : Nat) (acc fp : LaneReg) (n : Nat) : MatArray :=
  { a with acc := a.acc.setIfInBounds r acc, fp := a.fp.setIfInBounds r fp, counters := a.counters.setIfInBounds r n }

/-- Both result planes and every counter cleared (MZERO). -/
def MatArray.zero (a : MatArray) : MatArray :=
  { a with acc := .replicate 96 LaneReg.zero, fp := .replicate 96 LaneReg.zero, counters := .replicate 96 0 }

/-- Promotion of a row (R233). -/
def MatArray.promote (a : MatArray) (r : Nat) : MatArray :=
  a.setRow r LaneReg.zero (mkLanes fun n => f32Sum [f32Value (laneAt (a.fpRow r) n), f26Read (laneAt (a.accRow r) n)]) 0

/-! ### MMAC (R231 to R235) -/

/-- What an MMAC's rows share: the plane, the format pair's fields, and the injections. -/
structure Mmac where
  plane : Plane
  aFormat : Nat
  aBlock : Nat
  transpose : Bool
  far : Bool
  sat : Bool
  target : Nat
  scales : List Byte
  inject : List (Nat × Nat)
  chktol : Word
deriving DecidableEq, Repr, Inhabited

/-- The products per cell. -/
def Mmac.q (m : Mmac) : Nat := formatQ m.aFormat

/-- The cell index at chain position p (R231). -/
def Mmac.cell (m : Mmac) (p : Nat) : Nat := if m.far then 95 - p else p

/-- The K positions of the cell at chain position p. -/
def Mmac.ks (m : Mmac) (p : Nat) : List Nat := (List.range m.q).map fun u => m.q * m.cell p + u

/-- Payload K of row j of a member's activations (R225). -/
def Mmac.activation (m : Mmac) (v : LaneReg) (j k : Nat) : Nat :=
  let w := formatWidth m.aFormat
  bits (laneAt v (k / m.q)).toNat (w * (m.q * j + k % m.q)) w

/-- Activation K of batch row t as a float value. -/
def Mmac.floatX (m : Mmac) (v : LaneReg) (j t k : Nat) : Fp :=
  floatElem m.aFormat m.aBlock (m.activation v j k) (scaleOf m.aFormat m.aBlock m.scales (3 * m.q * t + k / 32)) (k % 32)

def Mmac.intX (m : Mmac) (v : LaneReg) (j k : Nat) : Int := intElem m.aFormat (m.activation v j k)

/-- The weight that K contributes to column n (R231). -/
def Mmac.floatW (m : Mmac) (k n : Nat) : Fp := if m.transpose then m.plane.float m.inject n k else m.plane.float m.inject k n
def Mmac.intW (m : Mmac) (k n : Nat) : Int := if m.transpose then m.plane.int m.inject n k else m.plane.int m.inject k n

/-- The check sums that apply (R231). -/
def Mmac.checks (m : Mmac) : List Word × List Word :=
  if m.transpose then (m.plane.cs, m.plane.ca) else (m.plane.rs, m.plane.ra)

/-- Column n's contribution of a float row: the chain in F26 (R232). -/
def chainFloat (m : Mmac) (x w : Nat → Fp) : Word :=
  (List.range 96).foldl (fun s p => f26Sum (f26Read s :: (m.ks p).map fun k => (x k).mul (w k))) 0

/-- An integer sum, saturated or wrapped (R232), with whether it saturated. -/
def intStep (sat : Bool) (a b : Int) : Int × Bool :=
  if sat then (satInt 32 (a + b), satInt 32 (a + b) ≠ a + b) else (wordInt (intWord (a + b)), false)

/-- Column n's contribution of an integer row. -/
def chainInt (m : Mmac) (sat : Bool) (x w : Nat → Int) : Int × Bool :=
  (List.range 96).foldl (fun s p =>
    let y := intStep sat s.1 (((m.ks p).map fun k => x k * w k).foldl (· + ·) 0)
    (y.1, s.2 || y.2)) (0, false)

/-- A sum of neighbours, pair by pair. -/
def pairUp {α : Type} (f : α → α → α) : List α → List α
  | a :: b :: r => f a b :: pairUp f r
  | r => r

/-- The adder tree of R234 over 96 contributions. -/
def tree96 {α : Type} [Inhabited α] (f : α → α → α) (p : List α) : α :=
  let top := fun (g : Nat) => (pairUp f (pairUp f (pairUp f (pairUp f (pairUp f ((p.drop (32 * g)).take 32)))))).headD default
  f (f (top 0) (top 1)) (top 2)

/-- Whether a value is finite. -/
def Fp.finite : Fp → Bool
  | .fin .. => true
  | _ => false

/-- Whether a float row mismatches (R234). -/
def floatMismatch (c t sum tol : Fp) : Bool :=
  if c.finite != t.finite then true
  else if !c.finite then false
  else
    let diff := (sumExact .rne [c, t.neg]).abs
    let zero := Fp.fin false 0 0
    if tol.mag = 0 && tol.finite then zero.lt diff
    else if !tol.finite || !sum.finite then false
    else (tol.mul sum).lt diff

/-- What a row gives: the array after it, whether it mismatched, and status bits 24 and 25. -/
structure RowDone where
  array : MatArray
  mismatch : Bool
  flags : Nat

/-- Whether a float MMAC promotes a row once it has added its contribution (R233). -/
def MatArray.due (a : MatArray) (m : Mmac) (r mprom : Nat) : Bool :=
  decide (mprom ≤ (if m.target = 1 then 0 else a.counter r) + 1) || m.target = 2

/-- A row of a float MMAC. -/
def MatArray.floatRow (a : MatArray) (m : Mmac) (r : Nat) (x : Nat → Fp) (bad : Nat → Bool) (mprom : Nat) : RowDone :=
  let a0 := if m.target = 1 then a.setRow r LaneReg.zero LaneReg.zero 0 else a
  let p := (List.range 96).map fun n => chainFloat m x fun k => m.floatW k n
  let acc := mkLanes fun n =>
    if bad n then 0x7FC00000 else f26Sum [f26Read (laneAt (a0.accRow r) n), f26Read (p.getD n 0)]
  let a1 := a0.setRow r acc (a0.fpRow r) (a0.counter r + 1)
  let due := a.due m r mprom
  let a2 := if due then a1.promote r else a1
  let ck := m.checks
  let value := fun (ws : List Word) (k : Nat) => f32Value (ws.getD k 0)
  let c := f26Read (chainFloat m x (value ck.1))
  let s := f26Read (chainFloat m (fun k => (x k).abs) (value ck.2))
  let t := f32Value (tree96 (fun u v => f32Sum [f32Value u, f32Value v]) p)
  let nan := (p.any fun w => f26Read w = .nan) || laneList.any fun n =>
    f26Read (laneAt acc n) = .nan || (due && f32Value (laneAt (a2.fpRow r) n) = .nan)
  ⟨a2, floatMismatch c t s (f32Value m.chktol), 2 ^ 25 * ofBool nan⟩

/-- A row of an integer MMAC. -/
def MatArray.intRow (a : MatArray) (m : Mmac) (r : Nat) (x : Nat → Int) (bad : Nat → Bool) : RowDone :=
  let a0 := if m.target = 1 then a.setRow r LaneReg.zero LaneReg.zero 0 else a
  let p := (List.range 96).map fun n => chainInt m m.sat x fun k => m.intW k n
  let new := fun (n : Nat) => intStep m.sat (wordInt (laneAt (a0.accRow r) n)) (p.getD n (0, false)).1
  let acc := mkLanes fun n => if bad n then laneAt (a0.accRow r) n else intWord (new n).1
  let c := intWord (chainInt m false x fun k => wordInt (m.checks.1.getD k 0)).1
  let t := tree96 (fun u v : Word => u + v) (p.map fun y => intWord y.1)
  ⟨a0.setRow r acc (a0.fpRow r) (a0.counter r), c ≠ t, 2 ^ 24 * ofBool ((p.any (·.2)) || laneList.any fun n => (new n).2)⟩

/-! ### Uncorrectable errors in the planes (R236) -/

/-- Whether output column n meets a poisoned weight. -/
def State.badColumn (s : State) (a : MatArray) (m : Mmac) (n : Nat) : Bool :=
  !s.poison.isEmpty && (List.range (96 * m.q)).any fun k =>
    s.poisonAt (planeKey a.core a.index a.planeNo (if m.transpose then 96 * n + k else 96 * k + n))

/-- Whether an MMAC reads a poisoned word of a row: of the accumulator plane, or of the FP32 plane at a promotion. -/
def State.badWord (s : State) (a : MatArray) (m : Mmac) (due : Bool) (r n : Nat) : Bool :=
  !s.poison.isEmpty && m.target ≠ 1 && (s.poisonAt (planeKey a.core a.index 2 (96 * r + n))
    || (due && s.poisonAt (planeKey a.core a.index 3 (96 * r + n))))

/-- The poison of n words of a plane gone, when they are written (R257). -/
def State.clearPlane (s : State) (a : MatArray) (plane lo n : Nat) : State := s.unpoison (planeKey a.core a.index plane lo) n

/-! ### Performing the queue (R230) -/

/-- The fields of a format pair that MMAC reads (R226). -/
def mmacOf (a : MatArray) (format : Nat) (far : Bool) (scales : List Byte) (inject : List (Nat × Nat)) (chktol : Word) : Mmac :=
  { plane := a.plane, aFormat := bits format 0 4, aBlock := bits format 8 2, transpose := bitAt format 12, far
    sat := bitAt format 13, target := bits format 14 2, scales, inject, chktol }

/-- The rows of an MMAC one after the other: the array, the mismatches, the first of them, the flags. -/
def State.mmacRows (s : State) (a : MatArray) (m : Mmac) (row0 mprom : Nat) (rows : List LaneReg) (badRows : List Nat) :
    MatArray × Nat × Nat × Nat :=
  let h := formatRows m.aFormat
  (List.range (rows.length * h)).foldl (fun (y : MatArray × Nat × Nat × Nat) t =>
    let v := rows.getD (t / h) LaneReg.zero
    let r := row0 + t
    let bad := fun (n : Nat) => badRows.contains t || s.badColumn a m n || s.badWord a m (!formatInt m.aFormat && a.due m r mprom) r n
    let d := if formatInt m.aFormat then y.1.intRow m r (m.intX v (t % h)) bad
      else y.1.floatRow m r (m.floatX v (t % h) t) bad mprom
    let ue := flagData * ofBool (laneList.any bad)
    (d.array, y.2.1 + ofBool d.mismatch, (if d.mismatch && y.2.1 = 0 then r else y.2.2.1), y.2.2.2 ||| d.flags ||| ue))
    (a, 0, 0, 0)

/-- The byte of a core's SRAM at a crew's address under a swizzle mode (R143). -/
def tileByte (core base mode at' : Nat) (s : State) : Byte := s.sramByte core (base + swizzled mode at')

/-- The first byte of an MLOAD's tile, or of its scales after it, that is poisoned (R236). -/
def State.badTile (s : State) (core base tile scales n k mode : Nat) : Option Nat :=
  if s.poison.isEmpty then none
  else (List.range (n + k)).find? fun i =>
    s.poisonAt (sramKey core (base + if i < n then swizzled mode (tile + i) else scales + (i - n)))

/-- The status of an MLOAD: the bytes read, or the granule of the first byte that failed (R217, R236). -/
def mloadStatus (bad : Option Nat) (nan : Bool) (bytes : Nat) : Nat :=
  2 ^ 25 * ofBool nan + 2 ^ 32 * 9 + match bad with
    | some i => flagData + 2 ^ 36 * (i / 64)
    | none => 2 ^ 36 * bytes

/-- MLOAD performed: the tile and its scales decoded into the shadow plane (R230, R342). -/
def State.performMload (s : State) (a : MatArray) (w : WeaveId) (locator base tile scales format bl mode : Nat) : State :=
  let n := tileBytes format
  let k := weightScales format bl
  let tb := (List.range n).map fun i => tileByte a.core base mode (tile + i) s
  let sb := s.sramBytes a.core (base + scales) k
  let bad := s.badTile a.core base tile scales n k mode
  let p := decodePlane format bl tb sb
  let shadow := 1 - a.planeNo
  let t := s.setArray
    { a.setShadow p with queue := a.queue.tail, done := a.done ++ [⟨w, locator, mloadStatus bad p.nanSum (n + k)⟩] }
  let u := t.clearPlane a shadow 0 36864
  { u with poison := u.poison ++ (if bad.isSome then [(planeKey a.core a.index shadow 0, 36864)] else []) }

/-- The value of MREAD's row (R237): the FP32 plane, the accumulator plane, or the FP32 plane after promotion. -/
def MatArray.readRow (a : MatArray) (row plane : Nat) : LaneReg := if plane = 1 then a.accRow row else a.fpRow row

/-- The lanes of a row whose words MREAD reads poisoned: a promotion reads both planes. -/
def State.badRow (s : State) (a : MatArray) (row plane : Nat) : LaneMask :=
  if s.poison.isEmpty then 0
  else maskOf fun n => s.poisonAt (planeKey a.core a.index (if plane = 1 then 2 else 3) (96 * row + n))
    || (plane = 2 && s.poisonAt (planeKey a.core a.index 2 (96 * row + n)))

/-- What a promotion leaves poisoned: the FP32 words it made from a poisoned word, and no accumulator word (R257). -/
def State.promotePoison (s : State) (a : MatArray) (row : Nat) (bad : LaneMask) : State :=
  if s.poison.isEmpty then s
  else
    let t := (s.clearPlane a 2 (96 * row) 96).clearPlane a 3 (96 * row) 96
    { t with poison := t.poison ++ (lanesOf bad).map fun n => (planeKey a.core a.index 3 (96 * row + n), 1) }

/-- MREAD performed: its flight takes the row's words and can return. -/
def State.performMread (s : State) (a : MatArray) (flight row plane : Nat) : State :=
  let b := if plane = 2 then a.promote row else a
  let bad := s.badRow a row plane
  let t := s.setArray { b with queue := a.queue.tail }
  let u := if plane = 2 then t.promotePoison a row bad else t
  { u with flights := u.flights.map fun (f : Flight) =>
      if f.id = flight then
        match f.dest with
        | .array d m => { f with dest := .lanes d m (b.readRow row plane), bad := bad &&& m, certain := bad &&& m = 0 }
        | _ => f
      else f }

/-- The operation at the front of an array's queue performed (R230). -/
def State.performArray (s : State) (core index : Nat) : State :=
  match s.array? core index with
  | none => s
  | some a =>
    match a.queue with
    | [] => s
    | .mload w locator base tile scales format bl mode :: _ => s.performMload a w locator base tile scales format bl mode
    | .mswap :: r => s.setArray { a with active := !a.active, queue := r }
    | .mzero :: r => ((s.setArray { a.zero with queue := r }).clearPlane a 2 0 9216).clearPlane a 3 0 9216
    | .mgang :: r => s.setArray { a with queue := r }
    | .mread flight row plane :: _ => s.performMread a flight row plane
    | .mmac w locator row0 far format rows scales badRows mprom chktol inject :: r =>
      let m := mmacOf a format far scales inject chktol
      let y := s.mmacRows a m row0 mprom rows badRows
      let status := Nat.min y.2.1 0xFFFF + 2 ^ 16 * y.2.2.1 + y.2.2.2 + 2 ^ 32 * 8 + 2 ^ 36 * (rows.length * formatRows m.aFormat)
      let n := 96 * rows.length * formatRows m.aFormat
      let t := s.setArray { y.1 with queue := r, done := a.done ++ [⟨w, locator, status⟩] }
      let u := if formatInt m.aFormat && m.target ≠ 1 then t else t.clearPlane a 2 (96 * row0) n
      if m.target = 1 then u.clearPlane a 3 (96 * row0) n
      else if formatInt m.aFormat then u
      else (List.range (rows.length * formatRows m.aFormat)).foldl (fun v i =>
        if a.due m (row0 + i) mprom then v.clearPlane a 3 (96 * (row0 + i)) 96 else v) u

/-- The oldest completed MMAC or MLOAD of an array arrives (R236). -/
def State.arrayArrival (s : State) (core index : Nat) : State :=
  match s.array? core index with
  | none => s
  | some a =>
    match a.done with
    | [] => s
    | x :: r => (s.setArray { a with done := r }).engineArrive core x.locator x.status .co

def execArrayQueuePerform (core array : Nat) (s : State) : Host.Outcome State Fault Refusal := .next (s.performArray core array)

def execMatrixArrival (core array : Nat) (s : State) : Host.Outcome State Fault Refusal := .next (s.arrayArrival core array)

/-- The spare columns of an array: the four it carries, and whether it is in service (R224). -/
def State.spares (s : State) (core array : Nat) : ColumnSpares :=
  (s.arraysOut.find? fun x => x.core = core && x.index = array).getD ⟨core, array, [], false⟩

/-- A column substituted by a spare, which gives the same bits; a fifth substitution takes the array out of service (R224). -/
def State.substitute (s : State) (core array column : Nat) : State :=
  let x := s.spares core array
  let y := if x.used.length < 4 then { x with used := x.used ++ [column] } else { x with retired := true }
  { s with arraysOut := y :: s.arraysOut.filter fun (z : ColumnSpares) => !(z.core = core && z.index = array) }

def execColumnSubstitution (core array column : Nat) (s : State) : Host.Outcome State Fault Refusal :=
  .next (if core < 384 && array < 2 && column < 96 then s.substitute core array column else s)

end Sys2Proof.Machine
end

