-- ==== Sys2Proof/Machine/Matrix.lean ====
section
/-! DEFINITION. The members of major 28 (R227 to R230, R237, R238, R264, R342): the gang latch, MLOAD, MREAD, and the array's
image. -/

namespace Sys2Proof.Machine

/-! ### The crew's array (R228) -/

/-- The array that a weave's crew owns. -/
def State.arrayOf (s : State) (w : Weave) : Option MatArray :=
  (s.crew? w.crew).bind fun c => c.array.bind fun i => s.array? c.core i

/-- Whether the array's queue has a free entry (R224). -/
def MatArray.hasRoom (a : MatArray) : Bool := decide (a.queue.length < 8)

/-- An operation put at the end of an array's queue. -/
def State.enqueue (s : State) (a : MatArray) (op : ArrayOp) : State :=
  match s.array? a.core a.index with
  | none => s
  | some x => s.setArray { x with queue := x.queue ++ [op] }

/-! ### The gang latch (R229) -/

/-- The number of a gang instruction among the members of major 28. -/
def gangCode : Instr → Nat
  | .mgang => 0
  | .mswap => 2
  | .mzero => 5
  | _ => 3

/-- The index of an arrived weave in its crew. -/
def State.indexOf (s : State) (a : Arrival) : Nat := ((s.weave? a.weave).map (·.index)).getD 16

/-- The arrivals of the weaves that an arrival's GANG names (R229). -/
def State.gangOf (s : State) (latch : List Arrival) (a : Arrival) : List Arrival :=
  latch.filter fun b => a.gang.members.getLsbD (s.indexOf b)

/-- Whether every weave that an arrival's GANG names has arrived. -/
def State.gangFull (s : State) (latch : List Arrival) (a : Arrival) : Bool :=
  (List.range 16).all fun i => !a.gang.members.getLsbD i || latch.any fun b => s.indexOf b = i

/-- A crew's latch changed. -/
def State.setLatch (s : State) (crew : Nat) (latch : List Arrival) : State :=
  { s with crews := s.crews.map fun (c : Crew) => if c.id = crew then { c with latch } else c }

/-- Arrivals taken from a crew's latch. -/
def State.leaveGang (s : State) (crew : Nat) (ms : List Arrival) : State :=
  match s.crew? crew with
  | none => s
  | some c => s.setLatch crew (c.latch.filter fun a => !ms.contains a)

/-- Members released from the latch: each is back at its instruction, with no effect (R229). -/
def State.backOut (s : State) (crew : Nat) (ms : List Arrival) : State :=
  (ms.foldl (fun t a => t.onWeave a.weave fun w => (w.endWait (.c a.entry) s.time).setPc (.c a.entry) a.pc) s).leaveGang crew ms

/-- Every member at a crew's latch released, as pre-emption does (R229, R260). -/
def State.backOutAll (s : State) (crew : Nat) : State :=
  match s.crew? crew with
  | none => s
  | some c => s.backOut crew c.latch

/-- The fault of one member at the latch, with its own ACT as the mask. -/
def gangInfo (a : Arrival) (c : Cause) (at' : Nat) : FaultInfo :=
  { cause := c, access := accGang, engine := a.instr.engineKind, pc := a.pc, object := 0, generation := 0
    place := BitVec.ofNat 128 at', faulters := a.acting, port := 0 }

/-- The last arrival of each weave. -/
def lastArrivals : List Arrival → List Arrival
  | [] => []
  | a :: r => if r.any fun b => b.weave = a.weave then lastArrivals r else a :: lastArrivals r

/-- The members of a gang fault together, and the latch is released (R229). A weave of which two fragments had arrived takes one
fault, and its other fragment is only backed out. -/
def State.latchFault (s : State) (crew : Nat) (ms : List Arrival) (c : Cause) (at' : Nat) : State :=
  (lastArrivals ms).foldl (fun t a => t.vector a.weave (.c a.entry) (gangInfo a c at')) (s.backOut crew ms)

/-- The agent by which a member reads its scratchpad. -/
def State.arrivalAgent (s : State) (a : Arrival) : Agent :=
  match s.weave? a.weave with
  | some w => s.agentOf w (.c a.entry)
  | none => default

/-- The arrivals in ascending weave index. -/
def State.inOrder (s : State) (latch : List Arrival) : List Arrival :=
  (List.range 16).flatMap fun i => latch.filter fun a => s.indexOf a = i

/-- Whether a member's fragment owns every lane of its weave that has not executed EXIT. -/
def State.ownsAll (s : State) (a : Arrival) : Bool :=
  match s.weave? a.weave with
  | none => false
  | some w =>
    let all := (w.split.toList.filter SplitEntry.isFragment).foldl (fun (m : LaneMask) x => m ||| x.owned) 0
    (w.entry a.entry).owned = all

/-- Whether the members disagree (R229). -/
def State.mismatched (s : State) (latch : List Arrival) : Bool :=
  match latch with
  | [] => false
  | a :: _ =>
    latch.any fun b => gangCode b.instr ≠ gangCode a.instr || b.gang ≠ a.gang || !s.ownsAll b
      || (gangCode a.instr = 3 && (b.format ≠ a.format || b.operation ≠ a.operation || edgeOf b.instr ≠ edgeOf a.instr))
where
  /-- The edge bit of an MMAC. -/
  edgeOf : Instr → Bool
    | .mmac e _ _ _ => e = 1
    | _ => false

/-- Whether a format pair's fields are those that R226 and R227 accept. -/
def formatPairOk (f0 f1 : Nat) : Bool :=
  let a := bits f0 0 4
  let b := bits f0 4 4
  f0 / 2 ^ 16 = 0 && f1 / 2 ^ 52 = 0 && bits f1 20 12 = 0 && decide (a ≤ 8) && decide (b ≤ 8)
    && formatWidth a = formatWidth b && formatInt a == formatInt b && blockOk a (bits f0 8 2) && blockOk b (bits f0 10 2)
    && !(bitAt f0 12 && decide (1 < formatQ a)) && bits f0 14 2 ≠ 3

/-- The first check of an MMAC that fails at the closing, with its place (R227 to R229, R211). -/
def State.mmacFault (s : State) (a : MatArray) (lead : Arrival) (members : Nat) : Option (Cause × Nat) :=
  let f0 := lead.format.1.toNat
  let f1 := lead.format.2.toNat
  let c := bits f0 0 4
  let rows := members * formatRows c
  let g := s.arrivalAgent lead
  let locator := locatorOf lead.operation
  let at' := bits f1 0 20
  let n := 3 * formatQ c * rows * scaleBytes c (bits f0 8 2)
  -- the plane that the MMAC will read: an MSWAP still queued exchanges the planes first
  let swaps := (a.queue.filter fun o => o = .mswap).length
  let active := if swaps % 2 = 0 then a.planeNo else 1 - a.planeNo
  let loads := a.queue.foldl (fun (y : Nat × Option (Nat × Nat)) o => match o with
    | .mswap => (1 - y.1, y.2)
    | .mload _ _ _ _ _ f bl _ => (y.1, if 1 - y.1 = active then some (f, bl) else y.2)
    | _ => y) (a.planeNo, none)
  let held := if active = 1 then a.plane1 else a.plane0
  let tag := match loads.2 with
    | some (f, bl) => (f, bl, formatQ f)
    | none => (held.format, held.blockLen, held.q)
  if !formatPairOk f0 f1 then some (.illegal, 0)
  else if 96 < bits lead.operation.toNat 40 7 + rows then some (.illegal, 0)
  else if tag ≠ (bits f0 4 4, bits f0 10 2, formatQ c) then some (.illegal, 0)
  else if !g.reserved locator 32 then some (.objBound, locator)
  else if locator % 32 ≠ 0 then some (.align, locator)
  else if n ≠ 0 && !g.reserved at' n then some (.objBound, at')
  else none

/-- The operation that a closed latch puts into the queue: an MMAC takes its scales now, the leader's MPROM and CHKTOL, and each member's
CHKINJ as it stood when the member issued (R64, R241). -/
def State.closingOp (s : State) (lead : Arrival) (ms : List Arrival) : ArrayOp :=
  match gangCode lead.instr with
  | 0 => .mgang
  | 2 => .mswap
  | 5 => .mzero
  | _ =>
    let f0 := lead.format.1.toNat
    let c := bits f0 0 4
    let g := s.arrivalAgent lead
    let at' := g.spad (bits lead.format.2.toNat 0 20)
    let per := 3 * formatQ c * scaleBytes c (bits f0 8 2)
    let rows := ms.length * formatRows c
    .mmac lead.weave (g.spad (locatorOf lead.operation)) (bits lead.operation.toNat 40 7) (State.mismatched.edgeOf lead.instr) f0
      (ms.map (·.data)) (s.sramBytes g.core at' (per * rows))
      ((List.range rows).filter fun t => s.sramPoisoned g.core (at' + per * t) per) lead.mprom.toNat lead.chktol
      (ms.filterMap fun a => if a.chkinj.arm then some (a.chkinj.row.toNat, a.chkinj.column.toNat) else none)

/-- What a closing does to a member: it moves on, and an MMAC clears the injection that it applies, unless CHKINJ has been written since
(R229, R230, R235, R241). -/
def Weave.released (w : Weave) (a : Arrival) (time : Nat) : Weave :=
  let w1 := ((w.endWait (.c a.entry) time).setPc (.c a.entry) (a.pc + 4)).countIssue (.c a.entry)
  if gangCode a.instr = 3 && a.chkinj.arm && !a.renewed then { w1 with chkinj := { w1.chkinj with arm := false } } else w1

/-- A gang whose members have all arrived: a fault of every member, or one operation in the queue; MGANG is a release and an acquire
of core scope (R229, R230). -/
def State.closeGang (s : State) (c : Crew) (a : MatArray) (ms : List Arrival) : State :=
  match ms with
  | [] => s
  | lead :: _ =>
    if s.mismatched ms then s.latchFault c.id ms .gangMismatch 0
    else
      match (if gangCode lead.instr = 3 then s.mmacFault a lead ms.length else none) with
      | some (cause, at') => s.latchFault c.id ms cause at'
      | none =>
        let t := s.enqueue a (s.closingOp lead ms)
        let u := (ms.foldl (fun v b => v.onWeave b.weave fun w => w.released b s.time) t).leaveGang c.id ms
        if gangCode lead.instr = 0 then (u.release c.core .co).acquire c.core .co else u

/-- The latch closes for a gang, once every member has arrived and the queue has room (R229, R230). -/
def State.closeLatch (s : State) (crew : Nat) : State :=
  match s.crew? crew with
  | none => s
  | some c =>
    match c.array.bind fun i => s.array? c.core i, c.latch.find? (s.gangFull c.latch) with
    | some a, some x => if a.hasRoom then s.closeGang c a (s.inOrder (s.gangOf c.latch x)) else s
    | _, _ => s

/-- Whether a weave that an arrival's GANG names has ended. -/
def State.memberGone (s : State) (crew : Nat) (a : Arrival) : Bool :=
  (List.range 16).any fun i => a.gang.members.getLsbD i && (s.member crew i).isNone

/-- The gangs at a crew's latch that name a weave that has ended fault at once (R229). -/
def State.latchGone (s : State) (crew : Nat) : State :=
  match s.crew? crew with
  | none => s
  | some c => c.latch.foldl (fun t a =>
    match t.crew? crew with
    | none => t
    | some d => if d.latch.contains a && t.memberGone crew a then t.latchFault crew (t.gangOf d.latch a) .gangMismatch 0 else t) s

/-- A gang instruction: the member arrives and waits; a member that has ended makes the latch fault at once (R229). -/
def gang (i : Instr) (data : LaneReg) (operation : DWord) (format : DWord × DWord) : Body := fun w t =>
  match t.arrayOf w, t.crew? w.crew with
  | some _, some c =>
    let a : Arrival := ⟨w.id, t.cur.strand.entry, t.cur.pc, w.act t.cur.strand, i, w.gang, operation, format, data, w.mprom, w.chktol, w.chkinj, false, t.time⟩
    .ok ((((t.onMe fun _ => w).startWait .gang).setLatch c.id (c.latch ++ [a])).latchGone c.id)
  | _, _ => .error (.fault (t.infoOf i w .illegal accGang))

def execMgang (s : State) := run .mgang s (gang .mgang LaneReg.zero 0 (0, 0))
def execMswap (s : State) := run .mswap s (gang .mswap LaneReg.zero 0 (0, 0))
def execMzero (s : State) := run .mzero s (gang .mzero LaneReg.zero 0 (0, 0))

def execMmac (e : BitVec 1) (b a d : RegField) (s : State) :=
  run (.mmac e b a d) s fun w t =>
    gang (.mmac e b a d) (w.lane a.toNat) (reg w t d) (reg w t b, w.scal t.cur.strand (b.toNat + 1)) w t

def execGangLatchClose (crew : Nat) (s : State) : Host.Outcome State Fault Refusal := .next (s.closeLatch crew)

/-- An arrival whose gang lacks a member, after a wait longer than PWATCH.limit × 64 cc (R229). -/
def State.latchLate (s : State) (latch : List Arrival) (a : Arrival) : Bool :=
  !s.gangFull latch a && match s.weave? a.weave with
    | some w => w.pwatch ≠ 0 && decide (a.since + 64 * w.pwatch.toNat < s.time)
    | none => false

def execGangLatchTimeout (crew : Nat) (s : State) : Host.Outcome State Fault Refusal :=
  .next (match s.crew? crew with
    | none => s
    | some c =>
      match c.latch.find? (s.latchLate c.latch) with
      | some a => s.latchFault crew (s.gangOf c.latch a) .gangMismatch 0
      | none => s)

/-! ### MLOAD and MREAD -/

def execMload (k : BitVec 2) (b a d : RegField) (s : State) :=
  run (.mload k b a d) s fun w t =>
    let fault := fun (c : Cause) (at' : Nat) =>
      Except.error (.fault { t.infoOf (.mload k b a d) w c accEngine with place := BitVec.ofNat 128 at' })
    match t.arrayOf w with
    | none => fault .illegal 0
    | some m =>
      let f0 := (reg w t b).toNat
      let c := bits f0 4 4
      let bl := bits f0 10 2
      let scales := bits (w.scal t.cur.strand (b.toNat + 1)).toNat 32 20
      let tile := bits (reg w t a).toNat 0 20
      let g := t.agentOf w t.cur.strand
      let locator := locatorOf (reg w t d)
      if 8 < c || !blockOk c bl then fault .illegal 0
      else if !g.reserved locator 32 then fault .objBound locator
      else if locator % 32 ≠ 0 then fault .align locator
      else if tile % 16 ≠ 0 then fault .align tile
      else if !g.reserved tile (tileBytes c) then fault .objBound tile
      else if weightScales c bl ≠ 0 && !g.reserved scales (weightScales c bl) then fault .objBound scales
      else if !m.hasRoom || !t.threadRoom g.part g.core (t.engineLimit w) then .error .stall
      else
        let base := if g.sup then 0 else g.spadAt
        .ok ((t.release w.id.core .co).enqueue m (.mload w.id (g.spad locator) base tile scales c bl k.toNat))

def execMread (p : BitVec 2) (a d : RegField) (s : State) :=
  run (.mread p a d) s fun w t =>
    match t.arrayOf w with
    | none => failing t w .illegal accOther
    | some m =>
      let row := bits (reg w t a).toNat 0 7
      if 95 < row then failing t w .illegal accOther
      else if !m.hasRoom then .error .stall
      else
        let u := t.fly (t.info w .illegal accOther) (.array d.toNat (w.act t.cur.strand)) [] 0 false
        .ok (u.enqueue m (.mread t.nextId row p.toNat))

/-! ### The image of an array (R264, item 10) -/

/-- n bytes of a list, filled up with zeros. -/
def padded (n : Nat) (bs : List Byte) : List Byte := (bs ++ List.replicate n 0).take n

/-- Words as bytes. -/
def wordBytes (ws : List Word) : List Byte := ws.flatMap fun w => leBytes 4 w.toNat

/-- The words of bytes. -/
def bytesWords (bs : List Byte) : List Word := (List.range (bs.length / 4)).map fun i => BitVec.ofNat 32 (leNat ((bs.drop (4 * i)).take 4))

/-- The 22,400 bytes of a plane; the tag's bytes are format, block length and q (log 18). -/
def Plane.image (p : Plane) : List Byte :=
  padded 18432 (p.tile ++ p.scales) ++ padded 1536 (wordBytes p.rs) ++ padded 1536 (wordBytes p.ra)
    ++ padded 384 (wordBytes p.cs) ++ padded 384 (wordBytes p.ca)
    ++ padded 128 [BitVec.ofNat 8 p.format, BitVec.ofNat 8 p.blockLen, BitVec.ofNat 8 p.q]

/-- A row of lane words as bytes. -/
def rowImage (v : LaneReg) : List Byte := wordBytes v.toList

/-- The 118,656 bytes of an array. -/
def MatArray.image (a : MatArray) : List Byte :=
  padded 128 (BitVec.ofNat 8 (ofBool a.active) :: a.counters.toList.map fun n => BitVec.ofNat 8 n)
    ++ a.acc.toList.flatMap rowImage ++ a.fp.toList.flatMap rowImage ++ a.plane0.image ++ a.plane1.image

def arrayImageBytes : Nat := 118656

/-- A plane from its image. -/
def imagePlane (b : List Byte) : Plane :=
  let tag := fun (i : Nat) => (b.getD (22272 + i) 0).toNat
  let c := tag 0
  let n := tileBytes c
  let k := 96 * formatQ c
  let words := fun (at' m : Nat) => bytesWords ((b.drop at').take (4 * m))
  ⟨c, tag 1, tag 2, b.take n, (b.drop n).take (weightScales c (tag 1)), words 18432 k, words 19968 k,
    if formatQ c = 1 then words 21504 96 else [], if formatQ c = 1 then words 21888 96 else []⟩

/-- A row of lane words from bytes. -/
def imageRow (b : List Byte) : LaneReg := mkLanes fun l => BitVec.ofNat 32 (leNat ((b.drop (4 * l)).take 4))

/-- An array restored from an image: a row whose counter is not zero holds F26 words, whose bits 5:0 are cleared (R76, R233). -/
def MatArray.restore (a : MatArray) (b : List Byte) : MatArray :=
  let count := fun (r : Nat) => (b.getD (1 + r) 0).toNat
  let clear := fun (r : Nat) (v : LaneReg) => if count r = 0 then v else v.map fun w => w &&& 0xFFFFFFC0
  { a with
    active := (b.getD 0 0).getLsbD 0
    counters := Vector.ofFn fun r => count r.val
    acc := Vector.ofFn fun r => clear r.val (imageRow (b.drop (128 + 384 * r.val)))
    fp := Vector.ofFn fun r => imageRow (b.drop (36992 + 384 * r.val))
    plane0 := imagePlane (b.drop 73856)
    plane1 := imagePlane (b.drop 96256) }

/-- Whether a plane's tag in an image names a format. -/
def imageOk (b : List Byte) : Bool := decide ((b.getD (73856 + 22272) 0).toNat ≤ 8) && decide ((b.getD (96256 + 22272) 0).toNat ≤ 8)

/-- The fault of an array image at a scratchpad address, if any (R238). -/
def State.arrayImageFault (s : State) (w : Weave) (at' : Nat) : Option Cause :=
  if !(s.agentOf w s.cur.strand).reserved at' arrayImageBytes then some .objBound else if at' % 128 ≠ 0 then some .align else none

def execMsave (a : RegField) (s : State) :=
  run (.msave a) s fun w t =>
    let at' := (reg w t a).toNat
    match t.arrayOf w with
    | none => failing t w .illegal accOther
    | some m =>
      match t.arrayImageFault w at' with
      | some c => placeFault t w c accOther at'
      | none =>
        if !m.queue.isEmpty then .error .stall
        else .ok (t.sramStore w.id.core ((t.agentOf w t.cur.strand).spad at') m.image)

def execMrstr (a : RegField) (s : State) :=
  run (.mrstr a) s fun w t =>
    let at' := (reg w t a).toNat
    match t.arrayOf w with
    | none => failing t w .illegal accOther
    | some m =>
      match t.arrayImageFault w at' with
      | some c => placeFault t w c accOther at'
      | none =>
        if !m.queue.isEmpty then .error .stall
        else
          let b := t.sramBytes w.id.core ((t.agentOf w t.cur.strand).spad at') arrayImageBytes
          if !imageOk b then failing t w .illegal accOther else .ok (t.setArray (m.restore b))

end Sys2Proof.Machine
end

