-- ==== Sys2Proof/Machine/Launch.lean ====
section
/-! DEFINITION. Launch records and their validation (R24 to R32), the placement of crews (R22, R34 to R38), the dispatcher,
and LAUNCH (R33, R334, R335) with the launch queues (R270). -/

namespace Sys2Proof.Machine

/-! ### Records (R27) -/

/-- A launch record from its 256 bytes. -/
def parseRecord (raw : List Byte) : LaunchRec :=
  let word := fun (i n : Nat) => leNat ((raw.drop i).take n)
  let w1 := word 8 8
  let w2 := word 0x10 8
  { raw, code := word 0 4, cseg := word 4 4
    grid := bits w1 0 32, weaves := bits w1 32 4 + 1, gang := bits w1 36 3, fallback := bits w1 39 3
    stage := bits w1 42 4, pipe := bitAt w1 46, cores := bitAt w1 47
    regs := 8 * (bits w1 48 3 + 1), qdepth := bits w1 51 2
    ports := ([.w, .e, .n, .s, .d] : List Port).filter fun p => bitAt w1 (53 + portCode p)
    span := bitAt w1 58
    spad := bits w2 0 21, bars := bits w2 21 7, deps := bits w2 28 3, group := bits w2 32 16, stages := bits w2 48 4 + 1
    pgt := word 0x18 4
    depends := (List.range (Nat.min (bits w2 28 3) 4)).map fun j =>
      (word (0x20 + 16 * j) 4, word (0x24 + 16 * j) 6, bitAt (word (0x2A + 16 * j) 1) 0)
    done := (word 0x60 4, word 0x64 6)
    args := (List.range 16).map fun i => word (0x70 + 4 * i) 4 }

/-- The must-be-zero fields of a record, summed: those that R27's table calls so. Bytes 11 to 15 of a dependence entry, and the slots of
dependences and arguments that a record does not use, hold zero in an assembled record, and the dispatcher does not look at them
(DESIGN CHOICE, log 61). -/
def LaunchRec.mustBeZero (r : LaunchRec) : Nat :=
  let word := fun (i n : Nat) => leNat ((r.raw.drop i).take n)
  bits (word 8 8) 59 5 + bits (word 0x10 8) 31 1 + bits (word 0x10 8) 52 12 + word 0x1C 4 + word 0xB0 0x50

/-- The bytes of a crew's scratchpad reservation (R34, R240). -/
def LaunchRec.spadBytes (r : LaunchRec) : Nat := r.spad + 32 * r.bars

/-- The entries of each queue (R27). -/
def LaunchRec.depth (r : LaunchRec) : Nat := 4 * 2 ^ r.qdepth

/-! ### The process-group table (R24, R25) -/

/-- Whether n bytes from an offset of a byte object pass the steps of R110. -/
def State.bytesPass (s : State) (part object off n : Nat) (need : Need) : Bool :=
  (match s.objDesc part object with
   | some d => d.kind = 1
   | none => false) && (s.rangeSteps part object need false off n).isNone

/-- The chips that a table names. -/
def State.tableChips (s : State) (part pgt : Nat) : Nat := bits (s.objRead part pgt 0 8) 0 13

/-- Whether a table can be read. -/
def State.tableReadable (s : State) (part pgt : Nat) : Bool :=
  s.bytesPass part pgt 0 0x40 .read && s.bytesPass part pgt 0 (0x40 + 16 * s.tableChips part pgt) .read

/-- The ranks under which a table lists this chip. -/
def State.ranksIn (s : State) (part pgt : Nat) : List Nat :=
  (List.range (s.tableChips part pgt)).filter fun k => bits (s.objRead part pgt (0x40 + 16 * k) 16) 0 16 = s.chipId.toNat

/-- The extent of dimension i of a table, and whether it is open. -/
def State.tableDim (s : State) (part pgt i : Nat) : Nat × Bool :=
  (bits (s.objRead part pgt 8 8) (16 * i) 13, bitAt (s.objRead part pgt 0 8) (13 + i))

/-- Whether the first 64 bytes of a table are those of a valid one (R24, R25). -/
def State.headerValid (s : State) (part pgt : Nat) : Bool :=
  let n := s.tableChips part pgt
  let w0 := s.objRead part pgt 0 8
  let w1 := s.objRead part pgt 8 8
  let rest := bits w0 16 48 + bits w1 45 19 + bits w1 29 3 + bits w1 13 3 + s.objRead part pgt 0x10 0x30
  let dims := (s.tableDim part pgt 0).1 * (s.tableDim part pgt 1).1 * (s.tableDim part pgt 2).1
  rest = 0 && dims = n && decide (1 ≤ n) && decide (n ≤ 4096)

/-- Whether the entries of a table that can be read make it invalid (R25): one whose must-be-zero field is not zero, this chip in two of
them, or, where all of them can be read, this chip in none. -/
def State.entriesBad (s : State) (part pgt : Nat) : Bool :=
  let seen := (List.range (s.tableChips part pgt)).filter fun k => s.bytesPass part pgt (0x40 + 16 * k) 16 .read
  let mine := (s.ranksIn part pgt).filter fun k => seen.contains k
  (seen.any fun k => bits (s.objRead part pgt (0x40 + 16 * k) 16) 16 112 ≠ 0)
    || decide (2 ≤ mine.length) || (s.tableReadable part pgt && mine.isEmpty)

/-- Whether what can be read of a table makes it invalid (R25, R30): its header, or its entries, each that can be read. -/
def State.tableInvalid (s : State) (part pgt : Nat) : Bool :=
  s.bytesPass part pgt 0 0x40 .read && (!s.headerValid part pgt || s.entriesBad part pgt)

/-- The coordinate one step along a dimension; none at the edge of an open one. -/
def stepDim (extent : Nat) (isOpen plus : Bool) (v : Nat) : Option Nat :=
  if plus then (if v + 1 < extent then some (v + 1) else if isOpen then none else some 0)
  else if v = 0 then (if isOpen then none else some (extent - 1)) else some (v - 1)

/-- The ranks of the neighbours at −X, +X, −Y, +Y, −Z, +Z, as PGQ returns them (R23, R25). -/
def State.neighbourRanks (s : State) (part pgt rank : Nat) : List DWord :=
  let dim := s.tableDim part pgt
  let ex := (dim 0).1
  let ey := (dim 1).1
  let x := rank % ex
  let y := rank / ex % ey
  let z := rank / (ex * ey)
  let join := fun (x y z : Nat) => BitVec.ofNat 64 (x + ex * (y + ey * z))
  let way := fun (i : Nat) (plus : Bool) =>
    match stepDim (dim i).1 (dim i).2 plus (if i = 0 then x else if i = 1 then y else z) with
    | none => BitVec.allOnes 64
    | some v => if i = 0 then join v y z else if i = 1 then join x v z else join x y v
  [way 0 false, way 0 true, way 1 false, way 1 true, way 2 false, way 2 true]

/-- The span, the rank and the neighbours of a record's launch; without a span the neighbours are all ones (R26, R351). -/
def State.spanOf (s : State) (part : Nat) (r : LaunchRec) : Nat × Nat × List DWord :=
  if r.span then
    let k := (s.ranksIn part r.pgt).headD 0
    (s.tableChips part r.pgt, k, s.neighbourRanks part r.pgt k)
  else (1, 0, List.replicate 6 (BitVec.allOnes 64))

/-- The first crew of a rank's share (R26). -/
def shareStart (grid span rank : Nat) : Nat := grid * rank / span

/-! ### Room on a core (R34) -/

/-- The crews that hold pools of a core. -/
def State.crewsOn (s : State) (core : Nat) : List Crew := s.crews.filter fun c => c.core = core && c.state ≠ CrewState.saved

/-- The weaves resident on a core. -/
def State.weavesOn (s : State) (core : Nat) : List Weave := s.weaves.filter fun w => w.id.core = core

/-- The queue pool bytes and the port pool bytes that a weave holds. -/
def Weave.queueBytes (w : Weave) : Nat := 4 * (w.queue 0).depth * Config.rowBytes
def Weave.portBytes (w : Weave) : Nat := w.ports.length * Config.portBytes

/-- The scratchpad units in force on a core (R141). -/
def State.activeUnits (s : State) (core : Nat) : Nat := (s.coreStates.toList.getD core CoreState.reset).active

/-- The split that a core was asked for takes effect when no crew is resident: the L1 gives up its lines first, and the scratchpad's
contents are gone (R142). While the L1 must hold dirty lines of a port that is down (R158), the old split stays in force. -/
def State.changeSplit (s : State) (core : Nat) : State :=
  let k := s.coreStates.toList.getD core CoreState.reset
  if !(s.crewsOn core).isEmpty || k.units = k.active || 384 ≤ core then s
  else
    let t := s.clearL1 core
    if t.caches.any fun c => c.holder = .l1 core then t
    else
      { t.onCore core fun k => { k with active := k.units } with
        spad := cellClear t.spad (spadKey core 0) 0x80000
        poison := t.poison.filter fun p => decide (p.1 < sramKey core 0) || decide (sramKey core 0x80000 ≤ p.1) }

/-- The splits that the cores of a partition were asked for, in force on those that hold no crew before the dispatcher seats one
(R142). -/
def State.changeSplits (s : State) (part : Nat) : State :=
  (s.coreStates.toList.zipIdx.filter fun x => x.1.units ≠ x.1.active && s.grantedCore part x.2).foldl
    (fun t x => t.changeSplit x.2) s

/-- The lowest 128-byte aligned gap of a core's scratchpad that takes a reservation. -/
def State.spadGap (s : State) (core need : Nat) : Option Nat :=
  let taken := ((s.crewsOn core).filter fun c => c.spadBytes ≠ 0).map fun c => (c.spadAt, c.spadBytes)
  let ok := fun (a : Nat) => decide (a + need ≤ 65536 * s.activeUnits core) &&
    taken.all fun x => decide (a + need ≤ x.1) || decide (x.1 + x.2 ≤ a)
  if need = 0 then some 0
  else ((0 :: taken.map fun x => ceilDiv (x.1 + x.2) 128 * 128).filter ok).foldl (fun m a => match m with
    | none => some a
    | some b => some (Nat.min a b)) none

/-- The arrays of a core that are in service and that no crew owns (R34, R224). -/
def State.arraysFree (s : State) (core : Nat) : List Nat :=
  [0, 1].filter fun i =>
    !(s.arraysOut.any fun x => x.core = core && x.index = i && x.retired) && !((s.crewsOn core).any fun c => c.array = some i)

/-- Where a core takes a crew of so many weaves, if it does: every pool has room, within the partition's limits. -/
def State.fits (s : State) (part : Nat) (r : LaunchRec) (size core : Nat) : Option Nat :=
  let ws := s.weavesOn core
  let mine := ws.filter fun w => w.partition = part
  let cs := s.crewsOn core
  let p := s.pcb part
  let q := size * 4 * r.depth * Config.rowBytes
  let f := size * r.ports.length * Config.portBytes
  if s.hasCore core && s.grantedCore part core
      && decide (ws.length + size ≤ Config.weaveSlots)
      && decide ((ws.map fun w => w.nregs * Config.rowBytes).sum + size * r.regs * Config.rowBytes ≤ Config.laneFileBytes)
      && decide ((ws.map Weave.queueBytes).sum + q ≤ Config.queuePoolBytes)
      && decide ((mine.map Weave.queueBytes).sum + q ≤ 1024 * p.queueKib)
      && decide ((ws.map Weave.portBytes).sum + f ≤ Config.portPoolBytes)
      && decide ((mine.map Weave.portBytes).sum + f ≤ 1024 * p.portKib)
      && decide ((cs.map (·.bars)).sum + r.bars ≤ Config.barrierSlots)
      && decide (((cs.filter fun c => c.part = part).map (·.spadBytes)).sum + r.spadBytes ≤ 65536 * p.spadUnits)
      && (r.gang = 0 || !(s.arraysFree core).isEmpty) then
    s.spadGap core r.spadBytes
  else none

/-! ### A weave at dispatch (R16, R22, R62) -/

/-- The status that a weave's registers hold at dispatch. -/
def newWeave (l : Launch) (c : Crew) (index core slot : Nat) (hndlr : DWord) : Weave :=
  { id := ⟨core, slot⟩, crew := c.id, index
    aRegs := Vector.ofFn fun k => if k.val = 0 then 0 else BitVec.ofNat 64 (l.record.args.getD (k.val - 1) 0)
    aBank := .replicate 8 0, aPc := 0, aMode := .user, aEnded := false, aWait := none, aPend := none
    sRegs := .replicate 32 0, sBank := .replicate 8 0, vRegs := List.replicate l.record.regs LaneReg.zero
    pRegs := Vector.ofFn fun k => if k.val = 7 then BitVec.allOnes 96 else 0
    xRegs := .replicate 4 ⟨0, 0⟩, queues := .replicate 4 ⟨l.record.depth, [], 0⟩
    ports := l.record.ports.map fun p => (p, PortFifo.empty)
    split := Vector.ofFn fun k => if k.val = 0 then ⟨.ready, 0, BitVec.allOnes 96, BitVec.allOnes 96, none, none, false⟩ else SplitEntry.empty
    lastEntry := 0, takenFirst := none, cMode := .user, cHand := 0, cPend := none, stash := none, aStash := none
    mdefA := 0x18, mdefC := 0x18, fpctl := 0
    gang := if c.gangSize = 0 then ⟨0, 0⟩ else ⟨BitVec.ofNat 3 c.gangSize, BitVec.ofNat 16 (2 ^ c.gangSize - 1)⟩
    pair := ⟨false, 0, 0⟩, breg := 0, views := .replicate 4 ⟨0, 0, false, false, false⟩
    mprom := 64, chktol := 0x3A800000, chkinj := ⟨false, 0, 0⟩, splitBase := 0, fltm := 0
    fltrec := BitVec.ofNat 20 (0x80000 + 512 * slot), hndlr, pgt := BitVec.ofNat 32 l.record.pgt
    ctxid := BitVec.ofNat 64 (l.fn % 256 + 2 ^ 8 * (l.part % 16) + 2 ^ 12 * slot + 2 ^ 16 * core)
    pwatch := 0x4000, qcfg := BitVec.ofNat 2 l.record.qdepth, gens := seedGens 0 slot
    recs := .replicate 64 ⟨false, false⟩, part := none, aIssued := 0, cIssued := 0, cWaited := 0
    session := 0, stopped := false, supJoins := 0, halted := false, saved := false, restored := false }

/-- The weave slots that are free on a core, lowest first (R22). -/
def State.freeSlots (s : State) (core : Nat) : List Nat :=
  (List.range Config.weaveSlots).filter fun k => !((s.weavesOn core).any fun w => w.id.slot = k)

/-- The weaves of a crew, by index, begin on a core together; the crew's array is clear, and each byte of its scratchpad reads as any
value until the crew writes it (R22, R224, R240). -/
def State.seat (s : State) (l : Launch) (c : Crew) (indexes : List Nat) : State :=
  let new := (indexes.zip (s.freeSlots c.core)).map fun x => newWeave l c x.1 c.core x.2 s.fwHndlr
  let t : State := { s with
    weaves := s.weaves ++ new
    spad := if c.spadBytes = 0 then s.spad else cellClear s.spad (spadKey c.core c.spadAt) c.spadBytes }
  match c.array with
  | none => t
  | some i => { t with arrays := MatArray.cleared c.core i :: t.arrays.filter fun a => !(a.core = c.core && a.index = i) }

/-- The scope of the acquire with which a weave begins: the system for a host-fed queue (R268), the span for LAUNCH (R335). -/
def State.startScope (s : State) (l : Launch) : Scope :=
  if (((s.pcb l.part).queues[l.queue]?).map (·.device)).getD false then .sp else .sy

/-- A place for a crew: a core, the crew's weaves, and where its scratchpad begins. -/
structure Spot where
  core : Nat
  size : Nat
  spadAt : Nat
deriving DecidableEq, Repr, Inhabited

/-- The next crew of a launch dispatched to a place (R22, R35). The crews of a pipeline's unit are placed stage by stage, so the core of
the last stage is the partition's last placement after it (DESIGN CHOICE, log 65). -/
def State.placeCrew (s : State) (l : Launch) (x : Spot) : State :=
  let c : Crew :=
    { id := s.nextId, launch := l.id, index := l.next, size := x.size, gangSize := if l.record.gang = 0 then 0 else x.size
      core := x.core, part := l.part, fn := l.fn, spadAt := x.spadAt, spadBytes := l.record.spadBytes, bars := l.record.bars
      array := if l.record.gang = 0 then none else (s.arraysFree x.core).head?
      state := .run, requested := false, haltAt := 0, live := x.size, endedSaved := 0, latch := [], home := [], savedAt := 0
      faulted := false, engines := (s.pcb l.part).engines }
  let t := (s.seat l c (List.range x.size)).acquire x.core (s.startScope l)
  ({ t with
    crews := t.crews ++ [c], nextId := t.nextId + 1
    launches := t.launches.map fun (y : Launch) => if y.id = l.id then { y with next := y.next + 1 } else y }).onPcb l.part fun p =>
      { p.applied with lastPlace := x.core }

/-! ### The search (R35 to R38) -/

/-- The cores in the order in which a partition's search takes them. -/
def State.searchOrder (s : State) (part : Nat) : List Nat :=
  (List.range Config.cores).map fun i => ((s.pcb part).lastPlace + 1 + i) % Config.cores

/-- The weaves of a crew at the preferred or at the fallback size (R36). -/
def LaunchRec.crewSize (r : LaunchRec) (fallback : Bool) : Nat :=
  if r.gang = 0 then r.weaves else if fallback then r.fallback else r.gang

/-- The places of one crew of every stage, the first stage on a given core (R37); one launch is a chain of one. -/
def State.chainSpots (s : State) (part : Nat) (rs : List LaunchRec) (fallback : Bool) (core : Nat) : Option (List Spot) :=
  rs.zipIdx.mapM fun x =>
    let n := (core + x.2) % Config.cores
    (s.fits part x.1 (x.1.crewSize fallback) n).map fun a => ⟨n, x.1.crewSize fallback, a⟩

/-- The first places that a search finds at the preferred size, else at the fallback size (R36, R37). -/
def State.unitSpots (s : State) (part : Nat) (rs : List LaunchRec) (sizes : List Bool) : Option (List Spot) :=
  sizes.findSome? fun f => (s.searchOrder part).findSome? fun n => s.chainSpots part rs f n

/-- The next crew of every launch of a unit placed together; none when no core fits. -/
def State.placeUnit (s : State) (ls : List Launch) (sizes : List Bool) : Option State :=
  match ls with
  | [] => none
  | l :: _ => (s.unitSpots l.part (ls.map (·.record)) sizes).map fun xs =>
      (ls.zip xs).foldl (fun t y => t.placeCrew ((t.launches.find? fun z => z.id = y.1.id).getD y.1) y.2) s

/-- So many crews of a unit placed in one step, or none (R38). -/
def State.placeMany (s : State) (ls : List Launch) (sizes : List Bool) : Nat → Option State
  | 0 => some s
  | n + 1 => (s.placeUnit ls sizes).bind fun t => t.placeMany ls sizes n

/-- The next crew of every launch of a unit placed at the fallback size, the first stage on a given core. -/
def State.placeAt (s : State) (ls : List Launch) (core : Nat) : Option State :=
  match ls with
  | [] => none
  | l :: _ => (s.chainSpots l.part (ls.map (·.record)) true core).map fun xs =>
      (ls.zip xs).foldl (fun t y => t.placeCrew ((t.launches.find? fun z => z.id = y.1.id).getD y.1) y.2) s

/-- So many crews of a pipeline's unit placed at the fallback size in some way, if there is one: on each start core in turn as many as
the rest of the search allows. `fuel` bounds the search. -/
def State.placeSome (ls : List Launch) : Nat → List Nat → Nat → State → Option State
  | 0, _, left, s => if left = 0 then some s else none
  | fuel + 1, cores, left, s =>
    if left = 0 then some s
    else match cores with
      | [] => none
      | n :: ns =>
        match (s.placeAt ls n).bind (State.placeSome ls fuel (n :: ns) (left - 1)) with
        | some t => some t
        | none => State.placeSome ls fuel ns left s

/-- All crews of a unit placed at once at the fallback size (R38): in turn, or for a pipeline in any way that holds them. -/
def State.placeWhole (s : State) (ls : List Launch) (n : Nat) : Option State :=
  match s.placeMany ls [true] n, ls with
  | some t, _ => some t
  | none, l :: _ :: _ => State.placeSome ls (n + Config.cores) (s.searchOrder l.part) n s
  | none, _ => none

/-- Whether a launch's grid must be resident at once. -/
def needsAll (ls : List Launch) : Bool := ls.any fun l => l.record.cores

/-- The crews of this chip's share that remain to be dispatched. -/
def Launch.remaining (l : Launch) : Nat := l.first + l.share - l.next

/-- The candidate unit placed: its next crews, or with cores = 1 all of them, at either size (R35 to R38). -/
def State.placeCandidate (s : State) (ls : List Launch) : Option State :=
  match ls with
  | [] => none
  | l :: _ =>
    if needsAll ls then
      match s.placeMany ls [false, true] l.remaining with
      | some t => some t
      | none => s.placeWhole ls l.remaining
    else s.placeUnit ls [false, true]

/-! ### Validation (R30) -/

/-- Whether a record's completion object is accessible. -/
def State.doneOk (s : State) (part : Nat) (r : LaunchRec) : Bool :=
  r.done.2 % 32 = 0 && s.bytesPass part r.done.1 r.done.2 32 .both

/-- A launch with nothing dispatched, as a record makes it. -/
def State.launchOfRecord (s : State) (part fn queue id : Nat) (r : LaunchRec) : Launch :=
  let x := s.spanOf part r
  let first := shareStart r.grid x.1 x.2.1
  { id, part, fn, queue, record := r, span := x.1, rank := x.2.1, neighbours := x.2.2
    first, share := shareStart r.grid x.1 (x.2.1 + 1) - first, next := first, ended := 0
    faulted := false, aborted := false, finished := false }

/-- The machine with its cores empty, on which capacity is judged (R30). -/
def State.emptied (s : State) : State := { s with weaves := [], crews := [], launches := [] }

/-- Whether the share of a unit can be resident at once on empty cores (R30, reason 7). -/
def State.couldHoldAll (s : State) (ls : List Launch) : Bool :=
  match ls with
  | [] => true
  | l :: _ => decide (l.share ≤ Config.weaveSlots * Config.cores) && (s.emptied.placeWhole ls l.share).isSome

/-- Whether a dependence, the table or an argument of a record fails reason 9 of R30. An object of another kind, and a table with an
absent frame, count as out of bounds (DESIGN CHOICE, log 65). -/
def State.badObjects (s : State) (part : Nat) (r : LaunchRec) : Bool :=
  (r.depends.any fun x => x.2.1 % 32 ≠ 0 ||
    (match s.objDesc part x.1 with
     | some d => d.kind ≠ 1 || decide (d.size < x.2.1 + 32) || !d.readable
     | none => true)) ||
  (r.span && !s.tableReadable part r.pgt) ||
  (r.args.any fun a => a ≠ 0 &&
    (match s.objDesc part a with
     | some d => !d.readable
     | none => true))

/-- The lowest-numbered reason for which a record is rejected; 0 for a valid one. `unit` are the records that count with it
(R37), and `grouped` says that they form a group where the record asks for one. A partition that has none of its granted cores can hold
no crew: reason 8 (DESIGN CHOICE, log 65). -/
def State.reason (s : State) (part : Nat) (r : LaunchRec) (unit : List LaunchRec) (grouped : Bool) : Nat :=
  let gangBad :=
    if r.gang = 0 then r.fallback ≠ 0
    else decide (r.gang < 2) || decide (6 < r.gang) || decide (r.fallback < 2) || decide (r.gang < r.fallback) || r.weaves ≠ r.gang
  if r.mustBeZero ≠ 0 then 1
  else if r.grid = 0 || r.cseg % 2 = 1 then 2
  else if r.qdepth = 3 then 3
  else if gangBad then 4
  else if r.span && s.tableInvalid part r.pgt then 5
  else if !grouped then 6
  else if r.cores && !s.couldHoldAll (unit.map (s.launchOfRecord part 0 0 0)) then 7
  else if !((List.range Config.cores).any fun n => (s.emptied.fits part r (r.crewSize true) n).isSome) then 8
  else if s.badObjects part r then 9
  else if r.spad % 128 ≠ 0 || decide (64 < r.bars) || decide (4 < r.deps) then 10
  else 0

/-! ### Completion objects (R31, R32) -/

/-- A status written into word 2 of a launch's completion object, and its phase inverted, at the home; where the object is
not accessible, an error record with code 0x23. -/
def State.flipDone (s : State) (part : Nat) (r : LaunchRec) (status : Nat) : State :=
  if s.doneOk part r then
    let t := s.objWrite part r.done.1 (r.done.2 + 16) 8 status
    let b := t.objRead part r.done.1 r.done.2 1
    t.objWrite part r.done.1 r.done.2 1 (b + 1 - 2 * (b % 2))
  else
    s.sendError part { code := 0x23, die := 0, unit := 0, ctx := 0, object := r.done.1, generation := 0, offset := r.done.2 }

/-- The status word of a launch that has ended (R31). -/
def Launch.status (l : Launch) : Nat :=
  2 ^ 27 * ofBool l.faulted + 2 ^ 28 * ofBool l.aborted + 2 ^ 36 * Nat.min l.ended (2 ^ 28 - 1)

/-- The launches that count with a launch: itself, or the records of its pipeline group, which have consecutive numbers. -/
def Launch.groupIds (l : Launch) : List Nat :=
  if l.record.pipe then (List.range l.record.stages).map fun i => l.id - l.record.stage + i else [l.id]

/-- A launch whose crews have all ended completes; its entry goes once every launch of its group has completed. -/
def State.finishLaunch (s : State) (id : Nat) : State :=
  match s.launches.find? fun l => l.id = id with
  | none => s
  | some l =>
    if l.finished || (l.remaining ≠ 0 && !l.aborted) || s.crews.any fun c => c.launch = id then s
    else
      let t := s.flipDone l.part l.record l.status
      let ls := t.launches.map fun (x : Launch) => if x.id = id then { x with finished := true } else x
      let done := ls.all fun x => !(l.groupIds.contains x.id) || x.finished
      { t with launches := if done then ls.filter fun x => !(l.groupIds.contains x.id) else ls }

/-! ### The queues (R28, R270) -/

/-- A launch queue of a partition. -/
def State.launchQueue (s : State) (part q : Nat) : LaunchQueue := ((s.pcb part).queues[q]?).getD LaunchQueue.reset

/-- A launch queue changed. -/
def State.onLaunchQueue (s : State) (part q : Nat) (f : LaunchQueue → LaunchQueue) : State :=
  s.onPcb part fun p => { p with queues := p.queues.setIfInBounds q (f ((p.queues[q]?).getD LaunchQueue.reset)) }

/-- The records between head and tail, and the entries of the ring. -/
def LaunchQueue.count (q : LaunchQueue) : Nat := (q.tail + 2 ^ 32 - q.head) % 2 ^ 32
def LaunchQueue.entries (q : LaunchQueue) : Nat := 2 ^ q.size

/-- The byte of the ring at which the record of an index lies. -/
def LaunchQueue.place (q : LaunchQueue) (i : Nat) : Nat := 256 * (i % q.entries)

/-- The record that stands so many places behind the head. -/
def State.recordAt (s : State) (part q i : Nat) : LaunchRec :=
  let x := s.launchQueue part q
  parseRecord (leBytes 256 (s.objRead part x.ring (x.place (x.head + i)) 256))

/-- What the dispatcher reads of a queue's next records, brought home. -/
def State.syncRecords (s : State) (part q n : Nat) : State :=
  let x := s.launchQueue part q
  (List.range n).foldl (fun (t : State) i =>
    let u := t.objSync part x.ring (x.place (x.head + i)) 256
    let r := u.recordAt part q i
    let v := r.depends.foldl (fun (y : State) d => y.objSync part d.1 d.2.1 32) u
    let z := v.objSync part r.done.1 r.done.2 32
    if r.span then (z.objSync part r.pgt 0 0x40).objSync part r.pgt 0 (0x40 + 16 * z.tableChips part r.pgt) else z) s

/-- Whether records form a pipeline group (R37). -/
def isGroup (rs : List LaunchRec) : Bool :=
  match rs with
  | [] => false
  | r :: _ => rs.zipIdx.all fun x =>
      x.1.pipe && x.1.stage = x.2 && x.1.group = r.group && x.1.stages = r.stages && x.1.grid = r.grid
        && x.1.weaves = r.weaves && x.1.span == r.span && x.1.pgt = r.pgt

/-- Whether a record's dependences are satisfied (R29): all of them together, at the turn that judges the record. One that was satisfied
and whose phase has flipped back while another was awaited is awaited again (DESIGN CHOICE, log 61). -/
def State.dependsMet (s : State) (part : Nat) (r : LaunchRec) : Bool :=
  r.depends.all fun x => s.bytesPass part x.1 x.2.1 32 .read && bitAt (s.objRead part x.1 x.2.1 1) 0 == x.2.2

/-- A record that dispatches nothing: its completion object receives the reason, or the record is discarded (R30). -/
def State.reject (s : State) (part : Nat) (r : LaunchRec) (reason : Nat) : State :=
  s.flipDone part r (2 ^ 27 + 2 ^ 36 * reason)

/-- The head of a queue moved past so many records. -/
def State.consume (s : State) (part q n : Nat) : State :=
  s.onLaunchQueue part q fun x => { x with head := (x.head + n) % 2 ^ 32 }

/-- Records that begin: their launches, with consecutive numbers; a share of no crews completes at once. -/
def State.begin' (s : State) (part q : Nat) (rs : List LaunchRec) : State :=
  let fn := (s.launchQueue part q).owner
  let ls := rs.zipIdx.map fun x => s.launchOfRecord part fn q (s.nextId + x.2) x.1
  let t : State := { s with launches := s.launches ++ ls, nextId := s.nextId + rs.length }
  (ls.filter fun l => l.share = 0).foldl (fun (u : State) l => u.finishLaunch l.id) (t.consume part q rs.length)

/-- The launches of a queue that have crews to dispatch: one launch, or a group (R28). -/
def State.front (s : State) (part q : Nat) : List Launch :=
  s.launches.filter fun l => l.part = part && l.queue = q && !l.aborted && l.remaining ≠ 0

/-- The next record or group of a queue judged: begun, left waiting, or rejected (R28 to R30, R270). -/
def State.judge (s0 : State) (part q : Nat) : State :=
  let n := (s0.launchQueue part q).count
  if n = 0 || !(s0.front part q).isEmpty then s0
  else
    let s := s0.syncRecords part q 1
    let r := s.recordAt part q 0
    if !r.pipe then
      let why := s.reason part r [r] true
      if !s.doneOk part r || why ≠ 0 then (s.reject part r why).consume part q 1
      else if s.dependsMet part r then s.begin' part q [r]
      else s
    else if r.stage ≠ 0 then (s.reject part r (s.reason part r [r] false)).consume part q 1
    else if n < r.stages then s
    else
      let t := s.syncRecords part q r.stages
      let rs := (List.range r.stages).map (t.recordAt part q)
      if !isGroup rs then (t.reject part r (t.reason part r [r] false)).consume part q 1
      else
        let why := fun x => t.reason part x rs true
        if rs.all fun x => t.doneOk part x && why x = 0 then
          if rs.all (t.dependsMet part) then t.begin' part q rs else t
        else
          (rs.foldl (fun (u : State) x => u.reject part x (if why x = 0 then 6 else why x)) t).consume part q r.stages

/-! ### Restores (R35, R205, R262) -/

/-- The byte at which a weave's save area lies in the context object (R263). -/
def areaAt (id : WeaveId) : Nat := 3670016 * id.core + 196608 * id.slot

/-- The saved crew of a partition that is restored next, the oldest save. Every SAVED crew awaits restore from its save on: no rule
says who makes the restore request of R260 (DESIGN CHOICE, log 61). -/
def State.savedCrews (s : State) (part : Nat) : Option Crew :=
  (s.crews.filter fun c => c.part = part && c.state = CrewState.saved).foldl (fun m c => match m with
    | none => some c
    | some b => if c.savedAt < b.savedAt then some c else some b) none

/-- The crews that are halted and restored with a crew: those of its crew index at every stage (R205, R259). -/
def State.unitOf (s : State) (c : Crew) : List Crew :=
  match s.launchOf c with
  | none => [c]
  | some l => if l.record.pipe then s.crews.filter fun x => x.index = c.index && l.groupIds.contains x.launch else [c]

/-- A restored weave: its saving stream is vectored to slot 31 with cause 0xFF and the source area's address (R260). -/
def State.vectorRestored (s : State) (id : WeaveId) (area : Nat) : State :=
  match s.weave? id with
  | none => s
  | some w =>
    let t := s.objSync w.partition (s.pcb w.partition).contextObject area 8
    let byA := bitAt (t.objRead w.partition (t.pcb w.partition).contextObject area 8) 28
    let u := t.onWeave id fun (x : Weave) => { x with
      halted := true, restored := true, split := if byA then .replicate 128 SplitEntry.empty else x.split }
    let info : FaultInfo :=
      { cause := .illegal, access := 0, engine := 0, pc := 0, object := BitVec.ofNat 32 area, generation := BitVec.ofNat 32 (area / 2 ^ 32)
        place := 0, faulters := 0, port := 0 }
    u.enter id (if byA then .a else .c 0) .restored info

/-- A saved crew seated again on a core. -/
def State.restoreCrew (s : State) (c : Crew) (core spadAt : Nat) : State :=
  match s.launchOf c with
  | none => s
  | some l =>
    let c' := { c with
      core, spadAt, state := .restoring, requested := false, live := c.home.length, endedSaved := 0, latch := []
      array := if l.record.gang = 0 then none else (s.arraysFree core).head?
      engines := (s.pcb c.part).engines }
    let order := (List.range 16).filterMap fun i => c.home.find? fun x => x.index = i
    let slots := s.freeSlots core
    let t := (s.seat l c' (order.map (·.index))).acquire core .sy
    let u := { t with crews := t.crews.map fun (x : Crew) => if x.id = c.id then c' else x }
    ((order.zip slots).foldl (fun (v : State) y => v.vectorRestored ⟨core, y.2⟩ (areaAt y.1.place)) u).onPcb c.part fun p =>
      { p.applied with lastPlace := core }

/-- The oldest saved crew, or its whole unit, placed; none when it does not fit (R262). -/
def State.placeSaved (s : State) (c : Crew) : Option State :=
  match s.launchOf c with
  | none => none
  | some l =>
    if l.record.pipe then
      let cs := s.unitOf c
      if cs.all fun x => x.state = CrewState.saved then
        cs.foldl (fun (y : Option State) x => y.bind fun t =>
          (t.launchOf x).bind fun k => (t.fits x.part k.record x.home.length x.core).map fun a => t.restoreCrew x x.core a) (some s)
      else none
    else
      (s.searchOrder c.part).findSome? fun n => (s.fits c.part l.record c.home.length n).map fun a => s.restoreCrew c n a

/-! ### The dispatcher (R35) -/

/-- The queues in the order of a partition's rotation at a priority: from the one after the queue of that priority served last. -/
def State.queueOrder (s : State) (part priority : Nat) : List Nat :=
  (List.range 16).map fun i => (((s.pcb part).lastQueues[priority]?).getD 15 + 1 + i) % 16

/-- The queue whose launch is next: the one held back, else the first in turn of the highest priority that is ready. -/
def State.nextQueue (s : State) (part : Nat) : Option Nat :=
  let ready := fun (q : Nat) => !(s.front part q).isEmpty
  match (List.range 16).find? fun q => ready q && (s.front part q).head?.map (·.id) = (s.pcb part).held with
  | some q => some q
  | none =>
    [3, 2, 1, 0].findSome? fun pr => (s.queueOrder part pr).find? fun q => ready q && (s.launchQueue part q).priority = pr

/-- A crew that runs stops: its gang latch releases and backs out (R229, R260). -/
def State.startHalt (s : State) (id : Nat) : State :=
  let t := s.backOutAll id
  { t with crews := t.crews.map fun (c : Crew) =>
    if c.id = id then { c with state := .halting, haltAt := s.time } else c }

/-- A request for one crew: it begins to halt, or, while it is restoring, will when it runs (R260). -/
def State.requestOne (s : State) (c : Crew) : State :=
  let mark := fun (t : State) => { t with crews := t.crews.map fun (x : Crew) => if x.id = c.id then { x with requested := true } else x }
  match c.state with
  | .run => (mark s).startHalt c.id
  | .restoring => mark s
  | _ => s

/-- Requests for the units of some crews (R259, R205). -/
def State.requestUnits (s : State) (cs : List Crew) : State :=
  (cs.flatMap s.unitOf).foldl (fun (t : State) c => match t.crew? c.id with
    | some x => t.requestOne x
    | none => t) s

/-- The slots of its core that a crew's weaves hold. -/
def State.slotsOf (s : State) (c : Crew) : BitVec 16 :=
  (s.weavesOn c.core).foldl (fun (m : BitVec 16) w => if w.crew = c.id then m ||| (1 <<< w.id.slot) else m) 0

/-- The crews of a partition, not yet asked to halt, that hold a slot whose request bit stands in PREQ: a crew seated in such a slot is
requested at once (R259). -/
def State.requestSeated (s : State) (part : Nat) : State :=
  s.requestUnits (s.crews.filter fun c => c.part = part && !c.requested && (c.state = .run || c.state = .restoring) &&
    decide (s.slotsOf c &&& (s.coreStates.toList.getD c.core CoreState.reset).preqAsked ≠ 0))

/-- What a partition's dispatcher places in its turn (R35). -/
def State.place (s : State) (part : Nat) : State :=
  match s.savedCrews part with
  | some c => (s.placeSaved c).getD s
  | none =>
    let t := (List.range 16).foldl (fun (u : State) q => u.judge part q) s
    match t.nextQueue part with
    | none => t
    | some q =>
      match t.placeCandidate (t.front part q) with
      | some u => u.onPcb part fun p =>
          { p with lastQueues := p.lastQueues.setIfInBounds (s.launchQueue part q).priority q, held := none }
      | none => t.onPcb part fun p => { p with held := (t.front part q).head?.map (·.id) }

/-- A turn of a partition's dispatcher, from stage 2 on (R35, R272): the splits that wait for an empty core take effect (R142), and a
crew seated in a slot that PREQ asks for is requested (R259). -/
def State.dispatch (s : State) (part : Nat) : State :=
  if s.stage.getD 0 < 2 then s else ((s.changeSplits part).place part).requestSeated part

def execCrewDispatch (part : Nat) (s : State) : Host.Outcome State Fault Refusal := .next (s.dispatch part)

/-! ### Producers (R270, R335) -/

/-- Whether a queue takes one more record. -/
def LaunchQueue.hasRoom (q : LaunchQueue) : Bool := decide (q.count < q.entries)

/-- A record appended to a device-fed queue. -/
def State.appendRecord (s : State) (part q x : Nat) : State :=
  let d := s.launchQueue part q
  (s.objWrite part d.ring (d.place d.tail) 256 x).onLaunchQueue part q fun y => { y with tail := (y.tail + 1) % 2 ^ 32 }

/-- The chips that a record's table names; none when the table cannot be read (R335). -/
def State.recordSpan (s : State) (part : Nat) (r : LaunchRec) : Nat :=
  if r.span && s.tableReadable part r.pgt then s.tableChips part r.pgt else 1

def execLaunch (b a d : RegField) (s : State) :=
  run (.launch b a d) s fun w t =>
    let q := (reg w t d).toNat
    let o := (reg w t b).toNat
    let h := handleOf w t.cur.strand a
    let d? := t.seeDesc w.id.core w.partition h
    let bad := fun (c : Cause) => (.error (.fault { t.info w c accOther with
      object := BitVec.ofNat 32 h, place := BitVec.ofNat 128 (o % 2 ^ 48)
      generation := t.recordGeneration w.partition h d? (2 * o / ((d?.map (·.nibs)).getD 2) : Nat) }) : Except Stop State)
    if 15 < q then failing t w .illegal accOther
    else if o % 256 ≠ 0 then bad .align
    else
      let steps := match d? with
        | some x => if x.kind = 1 then (t.checkAt w.id.core w.partition h (some x) .read 256 false o).map (·.2)
            else if x.withdrawn then some .extentGone
            else if x.bytes < o + 256 then some .objBound
            else some .perm
        | none => some .objBound
      match steps with
      | some c => bad c
      | none =>
        let x := t.launchQueue w.partition q
        if !x.enable || !x.device then bad .perm
        else if !x.hasRoom then .error (.wait (.launchRoom q))
        else if t.fenceHeld w.partition w.id.core .sp then .error .stall
        else
          let u := (t.release w.id.core .pk).objSync w.partition h o 256
          let ps := u.objPlaces w.partition h o 256
          if ps.any u.placeDown then bad .farUnavail
          else if ps.any u.poisoned then bad .dataUe
          else
            let x := u.objRead w.partition h o 256
            let r := parseRecord (leBytes 256 x)
            let v := if r.span then (u.objSync w.partition r.pgt 0 0x40).release w.id.core .sp else u
            let n := v.recordSpan w.partition r
            if 1 < n && (v.stage.getD 0 < 3 || Config.freeBool v.tick 1) then .error (.wait (.launchRoom q))
            else .ok ((v.appendRecord w.partition q x).onLaunchQueue w.partition q fun y => { y with owner := w.function })

/-- A host's write of a tail: dropped for a queue that LAUNCH feeds or that accepts no records, clamped past the ring (R270). -/
def State.tailWrite (s : State) (part q : Nat) (tail : BitVec 32) : State :=
  let x := s.launchQueue part q
  if x.device || !x.enable then s
  else
    let n := (tail.toNat + 2 ^ 32 - x.head) % 2 ^ 32
    if n ≤ x.entries then s.onLaunchQueue part q fun y => { y with tail := tail.toNat }
    else (s.onLaunchQueue part q fun y => { y with tail := (y.head + y.entries) % 2 ^ 32 }).sendError part
      { code := 0x28, die := 0, unit := q, ctx := 0, object := x.ring, generation := 0, offset := 0 }

def execLaunchQueueTailWrite (part queue : Nat) (tail : BitVec 32) (s : State) : Host.Outcome State Fault Refusal :=
  .next (s.tailWrite part queue tail)

/-- A copy of a span's record from another chip: appended, or dropped with an error record (R335); its sender waits while
the queue is full. -/
def execLaunchCopyArrival (part queue : Nat) (record : List Byte) (s : State) : Host.Outcome State Fault Refusal :=
  let x := s.launchQueue part queue
  if !x.enable || !x.device then
    .next (s.sendError part { code := 0x29, die := 0, unit := queue, ctx := 0, object := x.ring, generation := 0, offset := 0 })
  else if !x.hasRoom then .next s
  else .next (s.appendRecord part queue (leNat (record.take 256)))

end Sys2Proof.Machine
end

