-- ==== Sys2Proof/Machine/Ends.lean ====
section
/-! DEFINITION. The end of a weave, of a crew and of a launch (R22, R31, R177, R198, R252, R320), and the abort of a launch
(R31, R223). -/

namespace Sys2Proof.Machine

/-- Whether an array still works, or owes an arrival, for a weave (R236). -/
def MatArray.busyFor (a : MatArray) (id : WeaveId) : Bool :=
  (a.queue.any fun o => match o with
    | .mload w .. => decide (w = id)
    | .mmac w .. => decide (w = id)
    | _ => false) || a.done.any fun d => d.weave = id

/-- Whether a weave has nothing left: both streams have ended, its accesses have been performed and its threads have
arrived (R320). -/
def State.weaveDone (s : State) (w : Weave) : Bool :=
  w.aEnded && w.cEnded && !(s.flights.any fun f => f.weave = w.id) && !(s.pending.any fun p => p.issuer.weave = w.id)
    && !(s.threads.any fun t => t.weave = w.id && t.crew = w.crew) && !(s.arrays.any fun a => a.busyFor w.id)

/-- A bundle in which a weave takes part aborts while its generation is open (R190). -/
def State.abortPart (s : State) (part : Nat) : Option (BitVec 32 × BitVec 32) → State
  | none => s
  | some (h, g) =>
    match s.bundle? part h.toNat with
    | some b => if b.opened = g.toNat then s.abortBundle b else s
    | none => s

/-- What a weave that ends unsaved gives up: its view entries, and its open bundle, which aborts (R190, R320). -/
def State.giveUpBundles (s : State) (w : Weave) : State :=
  (w.views.toList.foldl (fun (u : State) v =>
    if v.valid then u.releaseView w.id w.partition v.handle.toNat else u) s).abortPart w.partition w.part

/-- A saved crew discarded: its views are freed, and its open bundles abort (R190, R265). -/
def State.discardSaved (s : State) (c : Crew) : State :=
  let t : State := { s with crews := s.crews.filter fun x => x.id ≠ c.id }
  c.home.foldl (fun (u : State) x =>
    let v := u.abortPart c.part x.part
    x.views.toList.foldl (fun (y : State) e => match y.bundle? c.part e.handle.toNat with
      | some b => if e.valid then y.dropSpilled b else y
      | none => y) v) t

/-- A weave taken out of the machine with what is in transit toward it (R22, R198). -/
def State.removeWeave (s : State) (w : Weave) : State :=
  { s with
    weaves := s.weaves.filter fun x => x.id ≠ w.id
    transits := s.transits.filter fun t => !(t.crew = w.crew && t.index = w.index)
    retries := s.retries.filter fun r => r.weave ≠ w.id
    flights := s.flights.filter fun f => f.weave ≠ w.id
    pending := s.pending.filter fun p => p.issuer.weave ≠ w.id }

/-- The L copies of a cluster end with its last weave (R177). -/
def State.clusterEnd (s : State) (cluster : Nat) : State :=
  if s.weaves.any fun w => clusterOf w.id.core = cluster then s else s.endAllL cluster

/-- A crew's array taken back, its planes cleared, and the poison of its words with them (R224). -/
def State.returnArray (s : State) (c : Crew) : State :=
  match c.array with
  | none => s
  | some i => { s with
    arrays := s.arrays.filter fun a => !(a.core = c.core && a.index = i)
    poison := s.poison.filter fun p => decide (p.1 < planeKey c.core i 0 0) || decide (planeKey c.core i 4 0 ≤ p.1) }

/-- A crew that has ended as saved (R260). -/
def State.crewSaved (s : State) (c : Crew) : State :=
  let slots := c.home.foldl (fun (m : BitVec 16) x => m ||| (1 <<< x.place.slot)) (0 : BitVec 16)
  ({ s with
    crews := s.crews.map fun (x : Crew) => if x.id = c.id then { x with state := .saved, savedAt := s.nextId, array := none } else x
    nextId := s.nextId + 1 }).onCore c.core fun k => { k with preqSaved := k.preqSaved ||| slots }

/-- What an array still owes when its function is reset: each queued MMAC or MLOAD arrives with status bit 28, after the operations
that have completed (R236). -/
def State.abortArray (s : State) (a : MatArray) : State :=
  let owed := a.done.map (fun x => (x.locator, x.status)) ++ a.queue.filterMap fun o => match o with
    | .mload _ l .. => some (l, flagAbort + 2 ^ 32 * 9)
    | .mmac _ l .. => some (l, flagAbort + 2 ^ 32 * 8)
    | _ => none
  owed.foldl (fun t x => t.engineArrive a.core x.1 x.2 .co) (s.setArray { a with queue := [], done := [] })

/-- A crew that has ended for good: it counts toward its launch (R31), also where a launch abort has stopped it; a saved crew that an
abort discards does not (DESIGN CHOICE, log 61). -/
def State.crewEnded (s : State) (c : Crew) : State :=
  ({ s with
    crews := s.crews.filter fun x => x.id ≠ c.id
    flipScopes := s.flipScopes.filter fun x => x.1.1 ≠ c.id + 1
    merged := s.merged.filter fun x => x.1 ≠ c.id + 1
    launches := s.launches.map fun (l : Launch) =>
      if l.id = c.launch then { l with ended := l.ended + 1 } else l }).finishLaunch c.launch

/-- The end of a crew, once its last weave has ended: its stores reach their homes, and its pools return (R22, R260). -/
def State.crewGone (s : State) (id : Nat) : State :=
  match s.crew? id with
  | none => s
  | some c =>
    if c.live ≠ 0 then s
    else
      let t := (s.release c.core .sy).returnArray c
      if c.state = .saving && c.endedSaved ≠ 0 then t.crewSaved c else t.crewEnded c

/-- The end of a weave (R320, R357). -/
def State.endWeave (s : State) (w : Weave) : State :=
  let t := if w.saved then s else s.giveUpBundles w
  let u := t.removeWeave w
  let v := { u with crews := u.crews.map fun (c : Crew) =>
    if c.id = w.crew then { c with live := c.live - 1, endedSaved := c.endedSaved + ofBool w.saved } else c }
  let x := if w.saved then v else v.latchGone w.crew
  (x.crewGone w.crew).clusterEnd (clusterOf w.id.core)

def execWeaveEnd (weave : WeaveId) (s : State) : Host.Outcome State Fault Refusal :=
  .next (match s.weave? weave with
    | some w => if s.weaveDone w then s.endWeave w else s
    | none => s)

/-- A launch, with those of its pipeline group, aborted: nothing more of it is dispatched, its threads stop with status
bit 28, its streams stop, and its saved crews are discarded (R31, R223). -/
def State.abortLaunch (s : State) (l : Launch) : State :=
  let mine := fun (c : Crew) => l.groupIds.contains c.launch
  let ids := (s.crews.filter mine).map (·.id)
  let t : State := { s with
    launches := s.launches.map fun (x : Launch) => if l.groupIds.contains x.id then { x with aborted := true } else x
    threads := s.threads.map fun (x : Thread) => if ids.contains x.crew then x.stop flagAbort none else x
    weaves := s.weaves.map fun (w : Weave) => if ids.contains w.crew then { w with saved := false } else w
    crews := s.crews.map fun (c : Crew) =>
      if mine c && c.state ≠ CrewState.saved then { c with state := .run, requested := false } else c }
  let u0 := (t.weaves.filter fun w => ids.contains w.crew).foldl (fun (v : State) w => v.endStreams w.id) t
  let u := (u0.crews.filter fun c => mine c && c.state = CrewState.saved).foldl State.discardSaved u0
  l.groupIds.foldl (fun (v : State) i => v.finishLaunch i) u

def execLaunchAbort (launch : Nat) (s : State) : Host.Outcome State Fault Refusal :=
  .next (match s.launches.find? fun l => l.id = launch with
    | some l => if l.finished then s else s.abortLaunch l
    | none => s)

end Sys2Proof.Machine
end

