-- ==== Sys2Proof/Machine/System.lean ====
section
/-! DEFINITION. Supervisor members of major 30: object mapping (R345 to R349), MAPGEN (R339, R340), INVAL (R331), PERF (R350),
and pre-emption requests (R259, R260, R352). -/

namespace Sys2Proof.Machine

/-! ### OBJMAP, OBJUNMAP, OBJQ -/

/-- The result of R345: a code over a value. -/
def objectResult (code value : Nat) : DWord := BitVec.ofNat 64 (2 ^ 32 * code + value % 2 ^ 32)

/-- A member of R345: its object register must have a zero high half, and its request only the bits that its table has. -/
def objectBody (b a : RegField) (ok : Nat → Bool) (ignores : Nat → Bool) (f : Weave → State → Nat → Nat → Except Stop State) : Body :=
  fun w t =>
    let x := (reg w t a).toNat
    let q := (reg w t b).toNat
    if !ok q || (!ignores q && 2 ^ 32 ≤ x) then failing t w .illegal accOther
    else f w t x q

/-- Whether the far share puts frame f in far memory (R109). -/
def shareFar (q f : Nat) : Bool := decide (f * q / 64 < (f + 1) * q / 64)

/-- OBJMAP of frame f in a tier (0 by the far share): the state and the result (R347). -/
def State.mapFrame (s : State) (part object f tier : Nat) : State × DWord :=
  match s.objDesc part object with
  | none => (s, objectResult 3 0)
  | some d =>
    let t := s.gather (lineOf (d.extAt f))
    let w := t.extWord d f
    if d.frames ≤ f || extWithdrawn w then (s, objectResult 3 0)
    else if extPresent w then (t, objectResult 1 (extFrame w))
    else
      let far := if tier = 0 then shareFar d.farShare f else tier = 2
      match t.poolTake part far with
      | none => (t, objectResult 2 0)
      | some (u, n) =>
        let at' := frameAddr far n 0
        let v := (List.range 512).foldl (fun (y : State) i => y.reclaim (lineOf at' + i)) u
        let x := (v.memZero at' Config.frameBytes).reclaim (lineOf (d.extAt f))
        let z := x.memWrite (d.extAt f) 8 (mkExt n far true)
        (z.otbInvalidate fun e => e.part = part && e.object = object && e.frame = f, objectResult 0 n)

def execObjmap (b a d : RegField) (s : State) :=
  run (.objmap b a d) s (objectBody b a (fun q => decide (q < 2 ^ 34) && bits q 32 2 ≠ 3) (fun _ => false) fun w t x q =>
    let r := t.mapFrame w.partition x (bits q 0 32) (bits q 32 2)
    flyScal w r.1 d r.2)

/-- Every cached copy of the lines of a frame dropped, with its dirty bytes, those that wait in a port's buffer too (R349, R158). -/
def State.dropFrame (s : State) (at' : Nat) : State :=
  let stays := fun (c : CacheLine) => decide (c.line < lineOf at') || decide (lineOf at' + 512 ≤ c.line)
  { s with
    caches := s.caches.filter stays
    cxl := s.cxl.map fun (p : CxlPort) => { p with buffer := p.buffer.filter stays } }

/-- The member lines of an object that lie in a frame. -/
def State.membersIn (s : State) (part object f : Nat) : List MemberLine :=
  s.members.filter fun m => m.part = part && m.object = object && (framesOf (s.logicalPlaces part object m.line)).contains f

/-- What OBJUNMAP does to the bundles whose lines or manifest a frame holds (R349, R182). A flip that is due is applied before the line's
versions go, so none is left to write into the frame later; the headers of bundles that lose spilled versions are written anew. -/
def State.unmapBundles (s : State) (part object f : Nat) : State :=
  let ms := s.membersIn part object f
  let t := ms.foldl (fun (u : State) m => match u.bundle? part m.handle with
    | some b => u.abortBundle b
    | none => u) s
  let u := ms.foldl (fun (v : State) m => match v.member? part object m.line with
    | some n =>
      let x := v.settle n
      let k := (x.member? part object m.line).getD n
      (x.putMember { k with openV := none, retained := none, spilled := [] }).freeSpill part (k.spilled.map (·.2))
    | none => v) t
  let v := (distinct ((ms.filter fun m => !m.spilled.isEmpty).map (·.handle))).foldl (fun (y : State) h => y.reheader part h) u
  match v.bundle? part object with
  | some b => (v.abortBundle b).releaseBundle b
  | none => v

/-- OBJUNMAP of frame f: the state and the result (R349). -/
def State.unmapFrame (s : State) (part object f : Nat) : State × DWord :=
  match s.objDesc part object with
  | none => (s, objectResult 3 0)
  | some d =>
    let t0 := (s.poolSync part).gather (lineOf (d.extAt f))
    let w := t0.extWord d f
    if d.frames ≤ f then (s, objectResult 3 0)
    else if !extPresent w then (t0, objectResult 1 0)
    else if (t0.poolSearch part (fun x => !extPresent x) (t0.poolSize part) 0).isNone then (t0, objectResult 2 (extFrame w))
    else
      let id : RegionId := ⟨part, object, f / 4⟩
      let t1 := if d.kind = 2 then t0.abandonRetile (t0.regionOf id d) d else t0
      let t2 := (t1.unmapBundles part object f).failTouching part object f
      let t3 := t2.dropFrame (frameAddr (extFar w) (extFrame w) 0)
      let t4 := (t3.reclaim (lineOf (d.extAt f))).memWrite (d.extAt f) 8 (w.toNat - 1)
      let t5 := if d.kind = 2 then t4.touchRegion id d else t4.nextGeneration
      let t6 := t5.otbInvalidate fun e => e.part = part && e.object = object && e.frame = f
      (t6.poolReturn part (extFrame w) (extFar w), objectResult 0 (extFrame w))

/-- Whether an access of a partition to an object has issued and is not yet performed (R162, R349). -/
def State.pendingOn (s : State) (part object : Nat) : Bool :=
  s.pending.any fun p => p.weave.partition = part && p.req.object = object && (p.req.space = .obj || p.req.space = .far)

def execObjunmap (b a d : RegField) (s : State) :=
  run (.objunmap b a d) s (objectBody b a (fun q => decide (q < 2 ^ 32)) (fun _ => false) fun w t x q =>
    if t.pendingOn w.partition x then .error .stall
    else
      let r := t.unmapFrame w.partition x q
      flyScal w r.1 d r.2)

/-- The free frames of a tier in a partition's pool, as it stands at the home. -/
def State.poolFree (s0 : State) (part : Nat) (far : Bool) : Nat :=
  let s := s0.poolSync part
  ((List.range (s.poolSize part)).filter fun i =>
    let w : DWord := BitVec.ofNat 64 (s.poolWord part i)
    extPresent w && extFar w == far).length

/-- The value of OBJQ (R348). -/
def State.objectQuery (s : State) (part object q : Nat) : DWord :=
  let i := bits q 0 32
  match bits q 62 2 with
  | 0 =>
    match s.objDesc part object with
    | some d => if i < d.frames then s.extWord d i else 0
    | none => 0
  | 1 =>
    match s.objDesc part object, s.objWords part object with
    | some _, some w => w.getD i 0
    | _, _ => 0
  | _ => BitVec.ofNat 64 (2 ^ 32 * s.poolFree part true + s.poolFree part false)

def execObjq (b a d : RegField) (s : State) :=
  run (.objq b a d) s (objectBody b a
    (fun q => bits q 32 30 = 0 && bits q 62 2 ≠ 3 && (bits q 62 2 ≠ 1 || decide (bits q 0 32 < 8)))
    (fun q => bits q 62 2 = 2) fun w t x q => whenArrived w t (flyScal w t d (t.objectQuery w.partition x q)))

/-! ### MAPGEN and INVAL -/

/-- Steps 1 to 3 of R110 on an offset, through the issuing core's translations. -/
def State.stepsOneToThree (s : State) (w : Weave) (object o : Nat) : Option Cause :=
  match s.seeDesc w.id.core w.partition object with
  | none => some .objBound
  | some d =>
    if d.withdrawn then some .extentGone
    else if (if d.kind = 2 then d.count else d.size) ≤ o then some .objBound
    else none

def execMapgen (b a d : RegField) (s : State) :=
  run (.mapgen b a d) s fun w t =>
    if a = 0 then writeScal t d (t.mapGen.setWidth 64)
    else
      let h := handleOf w t.cur.strand a
      let o := (reg w t b).toNat
      let bad := fun (c : Cause) => (.error (.fault { t.info w c accOther with
        object := BitVec.ofNat 32 h, place := BitVec.ofNat 128 (o % 2 ^ 48)
        generation := t.recordGeneration w.partition h (t.seeDesc w.id.core w.partition h) o }) : Except Stop State)
      match t.stepsOneToThree w h o, t.seeDesc w.id.core w.partition h with
      | some c, _ => bad c
      | none, none => bad .objBound
      | none, some x =>
        if x.kind ≠ 2 then bad .illegal
        else
          let id : RegionId := ⟨w.partition, h, o / x.regionElems⟩
          if (t.regionOf id x).state = .retiling then .error .stall
          else
            let u := t.touchRegion id x
            writeScal u d (u.mapGen.setWidth 64)

def execInval (b a : RegField) (s : State) :=
  run (.inval b a) s fun w t =>
    let x := (reg w t a).toNat
    let r := (reg w t b).toNat
    let first := bits r 0 32
    let n := bits r 32 32
    if 2 ^ 32 ≤ x then failing t w .illegal accOther
    else
      .ok (t.otbInvalidate fun e => e.part = w.partition && (decide (x = 0) || decide (e.object = x))
        && (decide (n = 0) || (decide (first ≤ e.frame) && decide (e.frame < first + n))))

/-! ### PERF -/

/-- The cc that a weave's C-stream has spent in waits, those that still run included (R350). -/
def Weave.waited (w : Weave) (time : Nat) : Nat := w.cWaited + (w.split.toList.map fun x => x.waited time).sum

/-- That counter cleared: a wait that runs counts from now on. -/
def Weave.clearWaited (w : Weave) (time : Nat) : Weave :=
  { w with
    cWaited := 0
    split := w.split.map fun x => { x with wait := x.wait.map fun r => { r with counted := time } } }

/-- The value of a PERF counter (R350). -/
def State.counter (s : State) (w : Weave) (sel : Nat) : Nat :=
  let k := s.coreStates.toList.getD w.id.core CoreState.reset
  match sel with
  | 0 => k.specMiss
  | 1 => s.dieCorrected.toList.getD (dieOf w.id.core) 0
  | 2 => w.aIssued
  | 3 => w.cIssued
  | 4 => k.l1Miss
  | 5 => k.retryCount
  | 6 => k.remapCount
  | 7 => s.changesDone
  | _ => w.waited s.time

/-- A PERF counter cleared. -/
def State.clearCounter (s : State) (id : WeaveId) (sel : Nat) : State :=
  match sel with
  | 0 => s.onCore id.core fun k => { k with specMiss := 0 }
  | 1 => { s with dieCorrected := s.dieCorrected.setIfInBounds (dieOf id.core) 0 }
  | 2 => s.onWeave id fun w => { w with aIssued := 0 }
  | 3 => s.onWeave id fun w => { w with cIssued := 0 }
  | 4 => s.onCore id.core fun k => { k with l1Miss := 0 }
  | 5 => s.onCore id.core fun k => { k with retryCount := 0 }
  | 6 => s.onCore id.core fun k => { k with remapCount := 0 }
  | 7 => { s with changesDone := 0 }
  | _ => s.onWeave id fun w => w.clearWaited s.time

def execPerf (a d : RegField) (s : State) :=
  run (.perf a d) s fun w t =>
    let v := (reg w t a).toNat
    let sel := bits v 0 8
    if bits v 8 55 ≠ 0 || 8 < sel then failing t w .illegal accOther
    else
      let x := Nat.min (t.counter ((t.weave? w.id).getD w) sel) (2 ^ 64 - 1)
      writeScal (if bitAt v 63 then t.clearCounter w.id sel else t) d (BitVec.ofNat 64 x)

/-! ### Pre-emption requests (R259, R260) -/

/-- The crews of a partition that hold named slots of a core, each with the unit it belongs to (R259). -/
def State.crewsNamed (s : State) (part core mask : Nat) : List Crew :=
  (s.crewsOn core).filter fun c => c.part = part && (s.weavesOn core).any fun w => w.crew = c.id && bitAt mask w.id.slot

/-- Requests for the crews that hold named slots of a core (R259). -/
def State.requestSlots (s : State) (part core mask : Nat) : State :=
  s.requestUnits (s.crewsNamed part core mask)

/-- The named slots that hold a crew of a partition. -/
def State.slotsNamed (s : State) (part core mask : Nat) : Nat :=
  ((List.range 16).filter fun k => bitAt mask k && (s.weavesOn core).any fun w => w.id.slot = k && w.partition = part).foldl
    (fun m k => m + 2 ^ k) 0

def execPreempt (a d : RegField) (s : State) :=
  run (.preempt a d) s fun w t =>
    let v := (reg w t a).toNat
    let core := bits v 16 9
    let mask := bits v 0 16
    if 2 ^ 25 ≤ v || 383 < core then failing t w .illegal accOther
    else if !t.hasCore core || !t.grantedCore w.partition core then failing t w .perm accOther
    else writeScal (t.requestSlots w.partition core mask) d (BitVec.ofNat 64 (t.slotsNamed w.partition core mask))

end Sys2Proof.Machine
end

