-- ==== Sys2Proof/Machine/Save.lean ====
section
/-! DEFINITION. The halt of a crew, SAVESPL and RSTSPL, and the context save area (R259 to R264, R355, R357). -/

namespace Sys2Proof.Machine

/-! ### The halt (R260) -/

/-- Whether a stream is in a handler and does not wait: the halt takes effect when it returns (R253). -/
def Weave.inHandler (w : Weave) : Bool :=
  (w.aMode = .supervisor && !w.aEnded && w.aWait.isNone) ||
    (w.cMode = .supervisor && ((w.entry w.cHand).kind = .ready))

/-- The fragment that a halt vectors: the handler's, else the lowest ready one, else the lowest of all. -/
def Weave.haltEntry (w : Weave) : Option Nat :=
  let es := (List.range 128).filter fun e => (w.entry e).isFragment
  if w.cMode = .supervisor && es.contains w.cHand then some w.cHand
  else match es.find? fun e => (w.entry e).kind = .ready && !(w.entry e).done with
    | some e => some e
    | none => es.head?

/-- A weave vectored to slot 31 with cause 0x00: its C-stream, or its A-stream when no fragment remains (R260). -/
def State.haltWeave (s : State) (id : WeaveId) : State :=
  match s.weave? id with
  | none => s
  | some w =>
    let info := fun (pc : BitVec 32) => ({ cause := .illegal, access := 0, engine := 0, pc, object := 0, generation := 0, place := 0, faulters := 0, port := 0 } : FaultInfo)
    match w.haltEntry with
    | some e =>
      let t := s.onWeave id fun x => { x with halted := true, stash := some (x.entry e) }
      t.enter id (.c e) .preempted (info (w.entry e).addr)
    | none =>
      if w.aEnded then s
      else (s.onWeave id fun x => { x with halted := true, aStash := x.aWait }).enter id .a .preempted (info w.aPc)

/-- A crew halted: every stream has stopped issue, and each weave is vectored, with the mask that its writes of EM0 to EM2 leave (R260,
R64); the request bits of its slots clear (R259). -/
def State.haltCrew (s : State) (c : Crew) : State :=
  let ws := s.weaves.filter fun w => w.crew = c.id
  if c.state ≠ .halting || ws.any (fun w => w.inHandler || (w.haltEntry.any fun e => s.maskFlies w.id (.c e) none)) then s
  else
    let t := (ws.foldl (fun (u : State) w => u.haltWeave w.id) s).onCore c.core fun k => { k with preqAsked := k.preqAsked &&& ~~~(s.slotsOf c) }
    { t with crews := t.crews.map fun (x : Crew) =>
      if x.id = c.id then { x with state := .halted, requested := false, home := [], endedSaved := 0 } else x }

def execCrewHalted (crew : Nat) (s : State) : Host.Outcome State Fault Refusal :=
  .next (match s.crew? crew with
    | some c => s.haltCrew c
    | none => s)

/-! ### Records and waits as the area holds them (R264) -/

/-- The causes of R249. -/
def causes : List Cause :=
  [.illegal, .stream, .priv, .regBound, .objBound, .firstTouch, .perm, .farUnavail, .dataUe, .bundleOutside, .portWatch,
   .align, .prefixMisuse, .gangMismatch, .extentGone, .queueMisuse, .viewExpired, .trap]

/-- A fault from its 64-byte record (R248). -/
def recordInfo (x : Nat) : FaultInfo :=
  { cause := (causes.find? fun c => c.code = bits x 0 8).getD .illegal
    access := bits x 12 4, engine := bits x 16 4, pc := BitVec.ofNat 32 (bits x 32 32), object := BitVec.ofNat 32 (bits x 64 32)
    generation := BitVec.ofNat 32 (bits x 96 32), place := BitVec.ofNat 128 (bits x 128 128)
    faulters := BitVec.ofNat 96 (bits x 256 96), port := BitVec.ofNat 8 (bits x 456 8) }

/-- A wait as sixteen bytes: 0 none, 1 a wait that reissues its instruction, 2 a barrier with its locator and phase. -/
def waitWord : Option WaitRec → Nat
  | none => 0
  | some r => match r.on with
    | .barrier o p => 2 + 2 ^ 4 * ofBool p + 2 ^ 8 * o
    | _ => 1

/-- The wait that sixteen bytes name; a wait of kind 1 is judged again by the instruction itself. -/
def wordWait (x time : Nat) (pc : BitVec 32) : Option WaitRec :=
  if bits x 0 4 = 2 then some ⟨.barrier (bits x 8 20) (bitAt x 4), time, pc, time⟩ else none

/-! ### The area (R263, R264) -/

/-- The gang leader: the lowest weave that GANG names, in a crew with an array (R262). -/
def State.leads (s : State) (w : Weave) : Bool :=
  (s.arrayOf w).isSome && (List.range 16).find? (w.gang.members.getLsbD ·) = some w.index

/-- The sizes of items 1 to 10 for n lane registers, depth d and so many ports. -/
def itemSizes (n d ports : Nat) (leader : Bool) : List Nat :=
  [128, 640, 384 + 384 * n, 4480, 4 * (128 + 384 * d), 3200 * ports, 128, 128, 640] ++ (if leader then [118656] else [])

/-- The byte at which item k begins. -/
def itemAt (sizes : List Nat) (k : Nat) : Nat := (sizes.take (k - 1)).sum

/-- The stream that a halt or a restore has vectored. -/
def Weave.savior (w : Weave) : Strand := if w.cEnded then .a else .c w.cHand

/-- The entry of the split table as the area keeps it (R40). -/
def SplitEntry.word (x : SplitEntry) : Nat :=
  let kind := match x.kind with
    | .free => 0
    | .ready => 1
    | .parked => 2
    | .waiting => 3
    | .join => 4
  x.mask.toNat + 2 ^ 96 * x.owned.toNat + 2 ^ 192 * x.addr.toNat + 2 ^ 224 * kind + 2 ^ 232 * x.link.getD 0xFF

/-- An entry of the split table from its 32 bytes; a fragment without a wait record is ready, and one that stays
at its EXIT issues the EXIT again, to the same effect. -/
def wordEntry (x : Nat) (wait : Option WaitRec) : SplitEntry :=
  let link := bits x 232 8
  let kind := match bits x 224 8 with
    | 1 => SplitKind.ready
    | 2 => .parked
    | 3 => if wait.isSome then .waiting else .ready
    | 4 => .join
    | _ => .free
  if kind = .free then SplitEntry.empty
  else
    { kind, addr := BitVec.ofNat 32 (bits x 192 32), owned := BitVec.ofNat 96 (bits x 96 96), mask := BitVec.ofNat 96 (bits x 0 96)
      link := if link = 0xFF then none else some (link % 128), wait := if kind = .waiting then wait else none
      done := false }

/-! ### The split area (R40, R264) -/

/-- Whether an entry lies in the window. -/
def Weave.inWindow (w : Weave) (e : Nat) : Bool := decide (w.splitBase ≤ e) && decide (e < w.splitBase + 16)

/-- The window moved to a base. -/
def Weave.withBase (w : Weave) (base : Nat) : Weave := { w with splitBase := base }

/-- The byte of the context object at which a weave's split area holds entry e: in item 4 of its slot's area. -/
def Weave.splitPlace (w : Weave) (e : Nat) : Nat :=
  areaAt w.id + itemAt (itemSizes w.nregs (w.queue 0).depth w.ports.length false) 4 + 384 + 32 * e

/-- Whether a weave's split area is mapped and open; where it is not, the entries stay with the weave (log 55). -/
def State.splitOpen (s : State) (w : Weave) : Bool :=
  (s.rangeSteps w.partition (s.pcb w.partition).contextObject .both false (w.splitPlace 0) 4096).isNone

/-- A weave's split area brought home before it is read. -/
def State.syncSplit (s : State) (w : Weave) : State :=
  if s.splitOpen w then s.objSync w.partition (s.pcb w.partition).contextObject (w.splitPlace 0) 4096 else s

/-- The sixteen entries of a window as the split area holds them; one whose bytes are those last written is unchanged. -/
def State.splitIn (s : State) (w : Weave) (base : Nat) : Weave :=
  if !s.splitOpen w then w
  else (List.range 16).foldl (fun (x : Weave) i =>
    let e := base + i
    let b := s.objRead w.partition (s.pcb w.partition).contextObject (w.splitPlace e) 32
    if b = (x.entry e).word then x else x.setEntry e (wordEntry b (x.entry e).wait)) w

/-- The entries of a weave that must be written to its split area: those outside the window that have changed, or that the window has
left, since the weave stood as `old`; all of them for a weave that has begun since. -/
def Weave.splitDirty (w : Weave) (old : Option Weave) : List Nat :=
  (List.range 128).filter fun e => !w.inWindow e && (match old with
    | none => true
    | some v => v.inWindow e || decide (v.entry e ≠ w.entry e))

/-- The split areas of every weave, written where an entry that lives there has changed since a step began (R40). What a weave has saved
stays as SAVESPL left it, and a weave that RSTSPL has not restored yet leaves the area alone; once restored, all its entries are new to
the area (R262, R264). -/
def State.splitThrough (s before : State) : State :=
  s.weaves.foldl (fun (t : State) w =>
    let old := (before.weave? w.id).filter fun v => v.crew = w.crew && !v.restored
    let es := w.splitDirty old
    if w.saved || w.restored || es.isEmpty || !t.splitOpen w then t
    else es.foldl (fun (u : State) e =>
      u.objWrite w.partition (u.pcb w.partition).contextObject (w.splitPlace e) 32 (w.entry e).word) t) s

/-- The weave as its user program stands: the vectored fragment with the record's PC and entry mask, and its own kind and
wait; the A-stream's wait where it was vectored (R357). -/
def State.userWeave (s : State) (w : Weave) : Weave :=
  match w.savior with
  | .a =>
    let at' := w.recordAt 0
    { w with aPc := BitVec.ofNat 32 (s.sramRead w.id.core (at' + 4) 4), aWait := w.aStash, aMode := .user }
  | .c e =>
    let at' := w.recordAt 1
    let y := w.stash.getD (w.entry e)
    { (w.setEntry e { y with
        addr := BitVec.ofNat 32 (s.sramRead w.id.core (at' + 4) 4)
        mask := BitVec.ofNat 96 (s.sramRead w.id.core (at' + 0x2C) 12) &&& y.owned }) with cMode := .user }

/-- Item 1. -/
def State.headerItem (s : State) (w : Weave) (sizes : List Nat) (spad : Option Crew) : List Byte :=
  let byA := w.savior = .a
  let w0 := 1 + 2 ^ 8 * w.nregs + ((w.ports.map fun p => 2 ^ (16 + portCode p.1)).sum) + 2 ^ 21 * w.qcfg.toNat
    + 2 ^ 23 * ofBool (sizes.length = 10) + 2 ^ 24 * w.index + 2 ^ 28 * ofBool byA + 2 ^ 29 * ofBool w.aEnded
    + 2 ^ 32 * (w.ctxid.toNat % 2 ^ 32)
  let places := (List.range 9).flatMap fun k => leBytes 2 (if k + 1 < sizes.length then itemAt sizes (k + 2) / 128 else 0)
  let res := match spad with
    | some c => c.spadAt + 2 ^ 32 * c.spadBytes
    | none => 0
  padded 128 (padded 0x20 (leBytes 8 w0 ++ places) ++ leBytes 8 s.time ++ leBytes 8 res)

/-- Item 2, from the weave as its program stands. -/
def aItem (w u : Weave) : List Byte :=
  padded 512 (u.aRegs.toList.flatMap fun x => leBytes 8 x.toNat)
    ++ leBytes 8 (u.aPc.toNat + 2 ^ 32 * ofBool w.aPend.isSome) ++ leBytes 16 (waitWord u.aWait) ++ leBytes 8 u.mdefA.toNat
    ++ padded 96 (match w.aPend with
      | some i => leBytes 64 (recordWord i.cause.code u .a i)
      | none => [])

/-- Item 3. -/
def cItem (w u : Weave) : List Byte :=
  padded 256 ((List.range 32).flatMap fun k => leBytes 8 ((u.scal (.c u.cHand) k).toNat))
    ++ padded 128 (leBytes 8 (ofBool w.cPend.isSome) ++ (match w.cPend with
      | some (e, i) => leBytes 64 (recordWord i.cause.code u (.c e) i)
      | none => []))
    ++ u.vRegs.flatMap rowImage

/-- Item 4. -/
def tableItem (u : Weave) : List Byte :=
  padded 96 ((List.range 8).flatMap fun k => leBytes 12 (u.pred k).toNat)
    ++ padded 32 (u.xRegs.toList.flatMap fun x => [x.base.setWidth 8, x.bound.setWidth 8])
    ++ padded 256 ((List.range 16).flatMap fun k => leBytes 16 (waitWord (u.entry (u.splitBase + k)).wait))
    ++ u.split.toList.flatMap fun x => leBytes 32 x.word

/-- One queue of item 5: the slots in order, the head's entry in the slot that the head index names (log 28); a scalar entry lies in
the first 8 bytes of its slot. -/
def queueItem (q : Queue) : List Byte :=
  let es := q.entries
  let mask := fun (p : QEntry → Bool) => ((es.zipIdx).map fun x => 2 ^ x.2 * ofBool (p x.1)).sum
  let head := es.length + 2 ^ 8 * q.head + 2 ^ 32 * mask (·.complete) + 2 ^ 48 * mask fun e => match e.data with
    | .scalar _ => true
    | .vector _ => false
  padded 128 (leBytes 8 head) ++ (List.range q.depth).flatMap fun slot =>
    padded 384 (match (es[(slot + q.depth - q.head) % q.depth]?.map (·.data) : Option QData) with
      | some (.vector v) => rowImage v
      | some (.scalar x) => leBytes 8 x.toNat
      | none => [])

/-- Item 6, in the order W, E, N, S, D. -/
def portItem (u : Weave) : List Byte :=
  ([.w, .e, .n, .s, .d] : List Port).flatMap fun p => match u.port? p with
    | some f => f.image
    | none => []

/-- Items 7 and 8. -/
def barrierItem (u : Weave) : List Byte :=
  padded 128 (u.recs.toList.map fun r => BitVec.ofNat 8 (ofBool r.arrived + 2 * ofBool r.phase))
def viewItem (u : Weave) : List Byte :=
  padded 128 (u.views.toList.flatMap fun v =>
    leBytes 16 (v.handle.toNat + 2 ^ 32 * v.generation.toNat + 2 ^ 64 * ofBool v.valid + 2 ^ 65 * ofBool v.expired))

/-- Item 9. -/
def State.controlItem (s : State) (u : Weave) : List Byte :=
  padded 640 (((List.range 20).flatMap fun n => leBytes 8 (s.ctrl u (.c u.cHand) n).toNat)
    ++ u.gens.toList.flatMap fun g => leBytes 4 g.toNat)

/-- The items of a weave. -/
def State.saveItems (s : State) (w : Weave) (spad : Option Crew) : List (List Byte) :=
  let u := s.userWeave w
  let leader := s.leads w
  let sizes := itemSizes w.nregs (w.queue 0).depth w.ports.length leader
  [s.headerItem w sizes spad, aItem w u, cItem w u, tableItem u, u.queues.toList.flatMap queueItem, portItem u, barrierItem u,
   viewItem u, s.controlItem u] ++
    (match s.arrayOf w with
     | some a => if leader then [a.image] else []
     | none => [])

/-! ### SAVESPL (R357) -/

/-- Whether a weave saves the crew's scratchpad: weave 0 (R262). -/
def Weave.keepsSpad (w : Weave) : Bool := w.index = 0

/-- The offset of a core's scratchpad image in the context object (R263). -/
def imageAt (core : Nat) : Nat := 3670016 * core + 3145728

/-- Whether SAVESPL must still wait: for accesses in flight, for the crew's threads and array, and for pushes toward it
(R260). -/
def State.saveWaits (s : State) (w : Weave) : Bool :=
  (s.flights.any fun f => f.weave = w.id) || (s.pending.any fun p => p.issuer.weave = w.id) ||
    (s.threads.any fun t => t.crew = w.crew) || (s.transits.any fun t => t.crew = w.crew) ||
    (match s.arrayOf w with
     | some a => !a.queue.isEmpty || !a.done.isEmpty
     | none => false)

/-- Bytes written to the context object, with the poison of scratchpad words carried along. -/
def State.saveSpad (s : State) (c : Crew) : State :=
  let ctx := (s.pcb c.part).contextObject
  let at' := imageAt c.core + c.spadAt
  let t := s.objWrite c.part ctx at' c.spadBytes (leNat (s.sramBytes c.core c.spadAt c.spadBytes))
  if s.poison.isEmpty then t
  else
    let bad := (List.range c.spadBytes).filter fun i => s.poisonAt (sramKey c.core (c.spadAt + i))
    let keys := bad.flatMap fun i => (t.objPlaces c.part ctx (at' + i) 1).map fun p => (p.home, 1)
    { t with poison := t.poison ++ keys }

/-- What is kept beside the area (R262). -/
def State.savedWeave (s : State) (w : Weave) : SavedWeave :=
  let u := s.userWeave w
  { index := w.index, place := w.id, part := w.part, session := w.session, views := w.views
    waits := (List.range 128).filterMap fun e =>
      if w.splitBase ≤ e && e < w.splitBase + 16 then none else (u.entry e).wait.map fun r => (e, r)
    refills := (List.range 4).flatMap fun q => ((w.queue q).entries.zipIdx).filterMap fun x =>
      if x.1.complete then none else some (q, x.2, x.1.refill, x.1.kept) }

/-- The entries of item 4 that SAVESPL writes: the window's own, and the vectored fragment's, which goes back to its user's state. The
others live in the area already (R264). -/
def Weave.savedEntries (w : Weave) : List Nat := (List.range 128).filter fun e => w.inWindow e || decide (w.savior = .c e)

/-- The bytes of the items written to a weave's area (R264). -/
def State.writeItems (s : State) (w : Weave) (part : Nat) (bytes : List Byte) : State :=
  let ctx := (s.pcb part).contextObject
  let table := w.splitPlace 0 - areaAt w.id
  let put := fun (t : State) (at' n : Nat) => t.objWrite part ctx (areaAt w.id + at') n (leNat ((bytes.drop at').take n))
  let t := w.savedEntries.foldl (fun (u : State) e => put u (table + 32 * e) 32) (put s 0 table)
  put t (table + 4096) (bytes.length - (table + 4096))

/-- The weave's area written (R262 to R264). -/
def State.writeArea (s : State) (w : Weave) (c : Crew) : State :=
  let keeps := w.keepsSpad
  let items := s.saveItems w (if keeps then some c else none)
  let t := s.writeItems w c.part items.flatten
  let u := if keeps then t.saveSpad c else t
  { u with
    weaves := u.weaves.map fun (x : Weave) => if x.id = w.id then { x with saved := true } else x
    flights := u.flights.filter fun f => f.weave ≠ w.id
    crews := u.crews.map fun (x : Crew) =>
      if x.id = c.id then { x with home := x.home.filter (fun h => h.index ≠ w.index) ++ [s.savedWeave w] } else x }

/-- A crew ended because its save or its restore failed (R263): its weaves stop, and the launch carries bit 27. -/
def State.endCrew (s : State) (c : Crew) (code : Nat) (w : Weave) : State :=
  let ids := (s.weaves.filter fun x => x.crew = c.id).map (·.id)
  let t := { s with
    weaves := s.weaves.map fun (x : Weave) => if x.crew = c.id then { x with saved := false } else x
    crews := s.crews.map fun (x : Crew) => if x.id = c.id then { x with state := .run, requested := false } else x }
  let u := ids.foldl (fun (v : State) i => v.endStreams i) (t.markFaulted c.id)
  u.sendError c.part { code, die := dieOf w.id.core, unit := w.id.core, ctx := w.ctxid.toNat, object := (s.pcb c.part).contextObject
                       generation := 0, offset := areaAt w.id }

/-- Whether the bytes that a weave saves can be written (R263). -/
def State.areaOpen (s : State) (w : Weave) (c : Crew) (n : Nat) : Bool :=
  let ctx := (s.pcb c.part).contextObject
  (s.rangeSteps c.part ctx .write false (areaAt w.id) n).isNone &&
    (!w.keepsSpad || c.spadBytes = 0 || (s.rangeSteps c.part ctx .write false (imageAt c.core + c.spadAt) c.spadBytes).isNone)

def execSavespl (s : State) :=
  run .savespl s fun w t =>
    match t.crew? w.crew with
    | none => failing t w .illegal accOther
    | some c =>
      if !w.halted || w.restored || t.cur.strand ≠ w.savior then failing t w .illegal accOther
      else
        let u := { t with crews := t.crews.map fun (x : Crew) => if x.id = c.id then { x with state := .saving } else x }
        if u.saveWaits w then
          -- the routine waits at its scoreboard, the crew already saving
          .ok (u.onMe fun _ => w)
        else
          let n := (itemSizes w.nregs (w.queue 0).depth w.ports.length (u.leads w)).sum
          if u.areaOpen w c n then .ok (u.writeArea w c) else .ok (u.endCrew c 0x22 w)

/-! ### RSTSPL (R355) -/

/-- The queue that its image names. -/
def imageQueue (b : List Byte) (depth ticket q : Nat) (refills : List (Nat × Nat × Option (BitVec 32) × List LaneReg)) : Queue :=
  let h := leNat (b.take 8)
  let head := bits h 8 5 % depth
  ⟨depth, (List.range (Nat.min (bits h 0 5) depth)).map (fun k =>
    let at' := 128 + 384 * ((head + k) % depth)
    let data := if bitAt h (48 + k) then QData.scalar (BitVec.ofNat 64 (leNat ((b.drop at').take 8))) else .vector (imageRow (b.drop at'))
    let kept := refills.find? fun x => x.1 = q && x.2.1 = k
    ⟨ticket + k, data, bitAt h (32 + k), kept.bind fun x => x.2.2.1, (kept.map fun x => x.2.2.2).getD []⟩), head⟩

/-- A weave reloaded from its area (R264, R355): items 2 to 9; the dispatch values and the supervisor bank stay. A PC whose bit 0 is set
in the area stays as it was read (DESIGN CHOICE, log 28: R90 makes every PC even and no rule says what a restore does with an odd one).
The rotation of the fragments starts anew at entry 0, with no taken fragment first (DESIGN CHOICE, log 65). -/
def reloadWeave (w : Weave) (b : List Byte) (time ticket : Nat) (kept : Option SavedWeave) (ports : List (Port × PortFifo)) : Weave :=
  let h := leNat (b.take 8)
  let sizes := itemSizes w.nregs (w.queue 0).depth w.ports.length false
  let item := fun (k : Nat) => b.drop (itemAt sizes k)
  let num := fun (l : List Byte) (at' n : Nat) => leNat ((l.drop at').take n)
  let a := item 2
  let c := item 3
  let t := item 4
  let ctl := item 9
  let reg := fun (n : Nat) => num ctl (8 * n) 8
  let byA := bitAt h 28
  let aPc := BitVec.ofNat 32 (num a 512 4)
  let base := bits (reg 9) 0 7
  let dead := fun (k : Nat) (handle : BitVec 32) => ((kept.bind fun y => y.views[k]?).map fun v => v.dead && decide (v.handle = handle)).getD false
  let outside := fun (e : Nat) => (kept.bind fun k => k.waits.find? fun x => x.1 = e).map (·.2)
  let wait := fun (e : Nat) (pc : BitVec 32) =>
    if base ≤ e && e < base + 16 then wordWait (num t (128 + 16 * (e - base)) 16) time pc
    else (outside e).bind fun r => wordWait (waitWord (some r)) time pc
  let entry := fun (e : Nat) =>
    let x := num t (384 + 32 * e) 32
    wordEntry x (wait e (BitVec.ofNat 32 (bits x 192 32)))
  { w with
    aRegs := Vector.ofFn fun k => if k.val = 0 then 0 else BitVec.ofNat 64 (num a (8 * k.val) 8)
    aPc, aMode := .user, aEnded := bitAt h 29 || w.aEnded
    aWait := wordWait (num a 520 16) time aPc
    aPend := if bitAt (num a 516 1) 0 then some (recordInfo (num a 544 64)) else none
    sRegs := Vector.ofFn fun k => if k.val = 0 then 0 else BitVec.ofNat 64 (num c (8 * k.val) 8)
    vRegs := (List.range w.nregs).map fun k => imageRow (c.drop (384 + 384 * k))
    pRegs := Vector.ofFn fun k => BitVec.ofNat 96 (num t (12 * k.val) 12)
    xRegs := Vector.ofFn fun k => ⟨BitVec.ofNat 7 (num t (96 + 2 * k.val) 1), BitVec.ofNat 7 (num t (97 + 2 * k.val) 1)⟩
    queues := Vector.ofFn fun q =>
      let d := (w.queue q.val).depth
      imageQueue ((item 5).drop ((128 + 384 * d) * q.val)) d (ticket + 16 * q.val) q.val ((kept.map (·.refills)).getD [])
    ports
    split := if byA then .replicate 128 SplitEntry.empty else Vector.ofFn fun e => entry e.val
    cMode := .user
    cPend := if bitAt (num c 256 1) 0 then some (num c (264 + 0x38) 1, recordInfo (num c 264 64)) else none
    stash := none, aStash := none
    mdefA := BitVec.ofNat 64 (num a 536 8), mdefC := BitVec.ofNat 64 (reg 0), fpctl := BitVec.ofNat 64 (reg 1)
    gang := ⟨BitVec.ofNat 3 (bits (reg 2) 16 3), BitVec.ofNat 16 (reg 2)⟩
    pair := ⟨bitAt (reg 3) 16, BitVec.ofNat 4 (bits (reg 3) 12 4), BitVec.ofNat 9 (reg 3)⟩
    breg := BitVec.ofNat 32 (reg 4)
    views := Vector.ofFn fun k =>
      let x := num (item 8) (16 * k.val) 16
      ⟨BitVec.ofNat 32 x, BitVec.ofNat 32 (bits x 32 32), bitAt x 64, bitAt x 65, bitAt x 64 && (bitAt x 65 || dead k.val (BitVec.ofNat 32 x))⟩
    mprom := BitVec.ofNat 7 (reg 6), chktol := BitVec.ofNat 32 (reg 7)
    chkinj := ⟨bitAt (reg 8) 16, BitVec.ofNat 8 (bits (reg 8) 8 8), BitVec.ofNat 8 (reg 8)⟩
    splitBase := base, fltm := BitVec.ofNat 96 (bits (reg 10) 0 32 + 2 ^ 32 * bits (reg 11) 0 32 + 2 ^ 64 * bits (reg 12) 0 32)
    hndlr := BitVec.ofNat 64 (reg 14), pwatch := BitVec.ofNat 32 (reg 18)
    gens := Vector.ofFn fun l => BitVec.ofNat 32 (num ctl (160 + 4 * l.val) 4)
    recs := Vector.ofFn fun j => let x := num (item 7) j.val 1; ⟨bitAt x 0, bitAt x 1⟩
    part := kept.bind (·.part), session := (kept.map (·.session)).getD 0, supJoins := 0
    aIssued := 0, cIssued := 0, cWaited := 0
    halted := false, saved := false, restored := false }

/-- The FIFOs of item 6; none when an image is not one (R206). -/
def imagePorts (declared : List Port) (b : List Byte) : Option (List (Port × PortFifo)) :=
  declared.zipIdx.mapM fun x => (imageFifo (b.drop (portImageBytes * x.2))).map fun f => (x.1, f)

/-- BREG is cleared where the generation has aborted while the weave was away (R190). -/
def State.checkBreg (s : State) (w : Weave) : Weave :=
  match w.part with
  | none => w
  | some (h, g) =>
    match s.bundle? w.partition h.toNat with
    | some b => if g.toNat ∈ b.aborted then { w with breg := 0 } else w
    | none => { w with breg := 0 }

/-- The scratchpad bytes of the source core's image copied into the crew's reservation (R262). -/
def State.loadSpad (s : State) (c : Crew) (source at' n : Nat) : State :=
  let ctx := (s.pcb c.part).contextObject
  let t := s.objSync c.part ctx (imageAt source + at') n
  let u := t.sramStore c.core c.spadAt (leBytes n (t.objRead c.part ctx (imageAt source + at') n))
  if s.poison.isEmpty then u
  else
    let bad := (List.range n).filter fun i => (s.objPlaces c.part ctx (imageAt source + at' + i) 1).any s.poisoned
    { u with poison := u.poison ++ bad.map fun i => (sramKey c.core (c.spadAt + i), 1) }

/-- A stream with a pending fault is vectored for it before it issues anything (R261). -/
def State.vectorPending (s : State) (id : WeaveId) : State :=
  match s.weave? id with
  | none => s
  | some w =>
    let t := match w.aPend with
      | some i => (s.onWeave id fun x => { x with aPend := none }).vector id .a i
      | none => s
    match w.cPend with
    | some (e, i) => (t.onWeave id fun x => { x with cPend := none }).vector id (.c e) i
    | none => t

/-- A crew runs again once every weave has been restored, and halts if a request waits (R260). -/
def State.crewRestored (s : State) (id : Nat) : State :=
  if s.weaves.any fun w => w.crew = id && w.restored then s
  else
    let t := { s with crews := s.crews.map fun (c : Crew) => if c.id = id then { c with state := .run, home := [] } else c }
    match t.crew? id with
    | some c => if c.requested then t.startHalt id else t
    | none => t

/-- A failed restore: an error record with code 0x2A, and the fault, which ends the weave (R355, R253). -/
def State.restoreFails (s : State) (w : Weave) (offset : Nat) : Except Stop State :=
  .ok ((s.sendError w.partition { code := 0x2A, die := dieOf w.id.core, unit := w.id.core, ctx := w.ctxid.toNat
                                  object := (s.pcb w.partition).contextObject, generation := 0, offset }).vector w.id s.cur.strand
    (s.info w .illegal accOther))

def execRstspl (a : RegField) (s : State) :=
  run (.rstspl a) s fun w t =>
    let o := (reg w t a).toNat
    let st := t.cur.strand
    let cause := t.sramRead w.id.core (w.recordAt (Strand.number st)) 1
    let part := w.partition
    let ctx := (t.pcb part).contextObject
    match t.crew? w.crew with
    | none => failing t w .illegal accOther
    | some c =>
      if !w.restored || cause ≠ 0xFF || st ≠ w.savior then failing t w .illegal accOther
      else if 384 ≤ o / 3670016 || 3145728 ≤ o % 3670016 || o % 3670016 % 196608 ≠ 0 then failing t w .align accOther
      else
        match t.rangeSteps part ctx .read false o 128 with
        | some f => failing t w f.2 accOther
        | none =>
          let u := t.objSync part ctx o 128
          let h := u.objRead part ctx o 0x40
          let ports := ((w.ports.map fun p => 2 ^ portCode p.1).sum)
          let size := (itemSizes w.nregs (w.queue 0).depth w.ports.length (bitAt h 23)).sum
          if bitAt h 28 ≠ decide (st = .a) then failing t w .illegal accOther
          else if bits h 8 8 ≠ w.nregs || bits h 16 5 ≠ ports || bits h 21 2 ≠ w.qcfg.toNat then u.restoreFails w o
          else if t.threads.any fun x => x.crew = w.crew then .error .stall
          else if bits h 24 4 ≠ 0 && t.weaves.any fun x => x.crew = w.crew && x.keepsSpad && x.restored then .error .stall
          else
            match t.rangeSteps part ctx .read false o size with
            | some f => failing t w f.2 accOther
            | none =>
              let v := u.objSync part ctx o size
              let b := leBytes size (v.objRead part ctx o size)
              let sizes := itemSizes w.nregs (w.queue 0).depth w.ports.length true
              let order := ([.w, .e, .n, .s, .d] : List Port).filter fun p => (w.port? p).isSome
              if bitAt h 23 && (v.arrayOf w).isSome && !imageOk (b.drop (itemAt sizes 10)) then failing t w .illegal accOther
              else match imagePorts order (b.drop (itemAt sizes 6)) with
              | none => failing t w .illegal accOther
              | some fs =>
                let res := bits h (8 * 0x28) 64
                let x := if bits h 24 4 = 0 then v.loadSpad c (o / 3670016) (bits res 0 20) (Nat.min (bits res 32 20) c.spadBytes) else v
                let y := match bitAt h 23, x.arrayOf w with
                  | true, some m => x.setArray (m.restore (b.drop (itemAt sizes 10)))
                  | _, _ => x
                let kept := c.home.find? fun k => k.index = w.index
                let z := { y with nextId := y.nextId + 64 }
                let w' := z.checkBreg (reloadWeave w b z.time y.nextId kept fs)
                .ok (((z.onMe fun _ => w').vectorPending w.id).crewRestored w.crew)

end Sys2Proof.Machine
end

