-- ==== Sys2Proof/Machine/Shake.lean ====
section
/-! DEFINITION. SHAKE256, the function that R273 names for measurements, and SHAKE128, on which the signatures of R274 rest (FIPS 202;
PRESUMED, log 8): Keccak-f[1600] over 25 lanes of 64 bits, lane (x, y) at place x + 5y, with rates of 136 and 168 bytes. -/

namespace Sys2Proof.Machine

/-- A 64-bit number rotated left. -/
def rotate64 (a n : Nat) : Nat := (a <<< n ||| a >>> (64 - n)) % 2 ^ 64

/-- The rotations of the 25 lanes. -/
def keccakRotations : List Nat :=
  [0, 1, 62, 28, 27, 36, 44, 6, 55, 20, 3, 10, 43, 25, 39, 41, 45, 15, 21, 8, 18, 2, 61, 56, 14]

/-- The constants of the 24 rounds. -/
def keccakConstants : List Nat :=
  [0x1, 0x8082, 0x800000000000808A, 0x8000000080008000, 0x808B, 0x80000001, 0x8000000080008081, 0x8000000000008009, 0x8A, 0x88,
   0x80008009, 0x8000000A, 0x8000808B, 0x800000000000008B, 0x8000000000008089, 0x8000000000008003, 0x8000000000008002,
   0x8000000000000080, 0x800A, 0x800000008000000A, 0x8000000080008081, 0x8000000000008080, 0x80000001, 0x8000000080008008]

/-- One round. -/
def keccakRound (a : List Nat) (rc : Nat) : List Nat :=
  let c := (List.range 5).map fun x => (List.range 5).foldl (fun n y => n ^^^ a.getD (x + 5 * y) 0) 0
  let d := (List.range 5).map fun x => c.getD ((x + 4) % 5) 0 ^^^ rotate64 (c.getD ((x + 1) % 5) 0) 1
  let b := (List.range 25).map fun i =>
    let x := (i % 5 + 3 * (i / 5)) % 5
    let j := x + 5 * (i % 5)
    rotate64 (a.getD j 0 ^^^ d.getD x 0) (keccakRotations.getD j 0)
  (List.range 25).map fun i =>
    let row := 5 * (i / 5)
    b.getD i 0 ^^^ ((2 ^ 64 - 1 ^^^ b.getD (row + (i + 1) % 5) 0) &&& b.getD (row + (i + 2) % 5) 0) ^^^ (if i = 0 then rc else 0)

/-- The permutation. -/
def keccak (a : List Nat) : List Nat := keccakConstants.foldl keccakRound a

/-- A message with its padding, to a whole number of blocks of the rate. -/
def shakePad (rate : Nat) (bs : List Byte) : List Byte :=
  let n := rate - bs.length % rate
  if n = 1 then bs ++ [0x9F] else bs ++ [0x1F] ++ List.replicate (n - 2) 0 ++ [0x80]

/-- One block absorbed. -/
def shakeBlock (rate : Nat) (a : List Nat) (bs : List Byte) : List Nat :=
  keccak ((List.range 25).map fun i => a.getD i 0 ^^^ (if i < rate / 8 then leNat ((bs.drop (8 * i)).take 8) else 0))

/-- The sponge of a rate with 256 bits of output, the first byte lowest. -/
def shake (rate : Nat) (bs : List Byte) : BitVec 256 :=
  let p := shakePad rate bs
  let a := (List.range (p.length / rate)).foldl (fun a k => shakeBlock rate a ((p.drop (rate * k)).take rate)) (List.replicate 25 0)
  BitVec.ofNat 256 (a.getD 0 0 + 2 ^ 64 * a.getD 1 0 + 2 ^ 128 * a.getD 2 0 + 2 ^ 192 * a.getD 3 0)

def shake256 (bs : List Byte) : BitVec 256 := shake 136 bs
def shake128 (bs : List Byte) : BitVec 256 := shake 168 bs

end Sys2Proof.Machine
end

