-- ==== Sys2Proof/Machine/Xmss.lean ====
section
/-! DEFINITION. The signature of a report (R274): parameter set XMSS-SHAKE_20_256 of RFC 8391, with n = 32, w = 16, 67 chains and a
tree of height 20 over SHAKE128 (PRESUMED from that document, log 8). The key's secrets are free. -/

namespace Sys2Proof.Machine.Xmss

/-- A number as n bytes, the highest first. -/
def toBytes (x n : Nat) : List Byte := (leBytes n x).reverse

/-- The 32 bytes of a hash. -/
def hash (m : List Byte) : List Byte := leBytes 32 (shake128 m).toNat

/-- The keyed functions of RFC 8391: F, H, the message hash and the PRF, told apart by a number. -/
def keyed (k : Nat) (key m : List Byte) : List Byte := hash (toBytes k 32 ++ key ++ m)
def prf (key m : List Byte) : List Byte := keyed 3 key m

/-- The public seed. -/
def seed : List Byte := leBytes 32 (Config.publicSeed 0).toNat

/-- A hash address: its type, three words, and the key or mask that it asks for. -/
def address (type a b c mask : Nat) : List Byte :=
  toBytes 0 12 ++ toBytes type 4 ++ toBytes a 4 ++ toBytes b 4 ++ toBytes c 4 ++ toBytes mask 4

/-- Bytes exclusive-or bytes. -/
def xor (a b : List Byte) : List Byte := List.zipWith (· ^^^ ·) a b

/-- A value of chain i of a leaf, moved on by so many steps from the chain's start. -/
def chain (leaf i : Nat) (x : List Byte) : Nat → List Byte
  | 0 => x
  | n + 1 => keyed 0 (prf seed (address 0 leaf i n 0)) (xor (chain leaf i x n) (prf seed (address 0 leaf i n 1)))

/-- Two nodes hashed under an address. -/
def join (type a b c : Nat) (left right : List Byte) : List Byte :=
  keyed 1 (prf seed (address type a b c 0))
    (xor left (prf seed (address type a b c 1)) ++ xor right (prf seed (address type a b c 2)))

/-- The start of a chain. -/
def secret (leaf i : Nat) : List Byte := leBytes 32 (Config.chainSecret leaf i).toNat

/-- One level of the tree over a leaf's 67 public values; an odd last one moves up. -/
def pairs (leaf height : Nat) : Nat → List (List Byte) → List (List Byte)
  | i, x :: y :: r => join 1 leaf height i x y :: pairs leaf height (i + 1) r
  | _, r => r

/-- A leaf: the root of the tree over its public values, which has seven levels. -/
def leafNode (leaf : Nat) : List Byte :=
  ((List.range 7).foldl (fun v h => pairs leaf h 0 v) ((List.range 67).map fun i => chain leaf i (secret leaf i) 15)).headD []

/-- Node k of a height of the tree. -/
def node : Nat → Nat → List Byte
  | 0, k => leafNode k
  | h + 1, k => join 2 0 h k (node h (2 * k)) (node h (2 * k + 1))

/-- The 67 digits of a message hash: 64 nibbles, the high one of each byte first, and three of the checksum. -/
def digits (m : List Byte) : List Nat :=
  let ns := m.flatMap fun b => [b.toNat / 16, b.toNat % 16]
  let sum := (ns.map fun n => 15 - n).sum
  ns ++ [sum / 256 % 16, sum / 16 % 16, sum % 16]

/-- The 2,820 bytes of the signature of a message under an index: the index, the random value, the chains, and the nodes beside the path
to the root. -/
@[irreducible] def signature (index : Nat) (m : List Byte) : List Byte :=
  let r := prf (leBytes 32 (Config.prfSecret 0).toNat) (toBytes index 32)
  let h := keyed 2 (r ++ node 20 0 ++ toBytes index 32) m
  toBytes index 4 ++ r ++ ((digits h).zipIdx.flatMap fun x => chain index x.2 (secret index x.2) x.1)
    ++ (List.range 20).flatMap fun j => node j (index / 2 ^ j ^^^ 1)

end Sys2Proof.Machine.Xmss
end

