-- ==== Sys2Proof/Machine/Host.lean ====
section
/-! DEFINITION. The host and supervisor software outside the streams: registers of the partition control blocks (R141, R142,
R157, R259, R267, R269, R270), windows (R266 to R268, R271, R275), start-up, attestation and power (R272 to R276), and the
reset of a virtual function (R265). -/

namespace Sys2Proof.Machine

/-! ### CSRAM, PREQ, limits, FTMO -/

/-- An error record that names a unit and no object. -/
def State.unitError (s : State) (part code die unit : Nat) : State :=
  s.sendError part { code, die, unit, ctx := 0, object := 0, generation := 0, offset := 0 }

/-- CSRAM written: a split within the limit is kept as a request; any other is rejected with code 0x24 (R141, R142). -/
def State.writeCsram (s : State) (part core : Nat) (value : DWord) : State :=
  let units := bits value.toNat 0 4
  if !s.grantedCore part core then s
  else if 7 < units || (s.pcb part).spadUnits < units then s.unitError part 0x24 (dieOf core) core
  else s.onCore core fun k => { k with units }

def execCsramWrite (part core : Nat) (value : DWord) (s : State) : Host.Outcome State Fault Refusal :=
  .next (s.writeCsram part core value)

def execCsramSplitChange (core : Nat) (s : State) : Host.Outcome State Fault Refusal := .next (s.changeSplit core)

/-- PREQ written: its request bits are kept, those that stand are requests, and saved bits are cleared (R259). A 0 written over a request
does not take back what a crew has been asked (DESIGN CHOICE, log 31). -/
def State.writePreq (s : State) (part core : Nat) (value : DWord) : State :=
  if !s.grantedCore part core then s
  else
    (s.onCore core fun k => { k with
      preqAsked := value.setWidth 16, preqSaved := k.preqSaved &&& ~~~(value.extractLsb' 32 16) }).requestSlots part core
      (bits value.toNat 0 16)

def execPreqWrite (part core : Nat) (value : DWord) (s : State) : Host.Outcome State Fault Refusal :=
  .next (s.writePreq part core value)

/-- Whether the fields of LIM0 lie in their ranges (R269). -/
def limitsOk (v : Nat) : Bool :=
  decide (bits v 33 6 ≤ 32) && decide (bits v 20 13 ≤ 4096) && decide (bits v 12 8 ≤ 64) && decide (bits v 4 8 ≤ 128)
    && decide (bits v 0 4 ≤ 7)

/-- LIM0 or LIM1 written; a raised limit is in force at once, a lowered one from the next dispatch on (R269). -/
def State.writeLimit (s : State) (part : Nat) (second : Bool) (value : DWord) : State :=
  if second then s.onPcb part fun p => { p with lim1 := value &&& 0xFFFFFFFF }.raised
  else if limitsOk value.toNat then s.onPcb part fun p => { p with lim0 := value &&& 0x7FFFFFFFFF }.raised
  else s.unitError part 0x27 0 0

def execLimitWrite (part : Nat) (second : Bool) (value : DWord) (s : State) : Host.Outcome State Fault Refusal :=
  .next (s.writeLimit part second value)

/-- FTMO written: a timeout outside its range is rejected and keeps the field's value; a 1 clears down once the link is up, and the
dirty lines that the port held are written back (R157, R158). -/
def State.writeFtmo (s : State) (port : Nat) (value : DWord) : State :=
  let t := bits value.toNat 0 22
  let u := s.onCxl port fun c => { c with
    timeout := if 1 ≤ t && t ≤ 4000000 then t else c.timeout
    down := c.down && !(bitAt value.toNat 22 && c.up) }
  if s.portDown port && !u.portDown port then u.drainPort port else u

def execFtmoWrite (port : Nat) (value : DWord) (s : State) : Host.Outcome State Fault Refusal :=
  .next (s.writeFtmo port value)

/-! ### Registers without behaviour of their own -/

/-- Word k of a bit vector of words replaced. -/
def putWord64 {n : Nat} (v : BitVec n) (k : Nat) (x : DWord) : BitVec n :=
  (v &&& ~~~((BitVec.allOnes 64).setWidth n <<< (64 * k))) ||| (x.setWidth n <<< (64 * k))

/-- The descriptor's first word written (R270). -/
def LaunchQueue.control (q : LaunchQueue) (v : Nat) : LaunchQueue :=
  { q with enable := bitAt v 39, device := bitAt v 38, priority := bits v 36 2, size := bits v 32 4, ring := bits v 0 32 }

/-- An entry of the schedule: bit 5 is set in entry 63 and clear in the others (R153). -/
def slotEntry (i : Nat) (value : DWord) : BitVec 8 :=
  (if i = 63 then 0x20 else 0) ||| (value.setWidth 8 &&& 0x1F)

/-- A slice map that is about to be edited is kept, under its generation, for the requests hashed under it (R152). -/
def SliceMap.keepOld (m : SliceMap) : SliceMap :=
  if m.older.any fun x => x.1 = m.generation then m else { m with older := (m.generation, m.entries) :: m.older }

/-- A map published under a new generation: what the map named until now is kept under the old one, whether its entries were edited before
the generation or are edited after it (R152). -/
def SliceMap.publish (m : SliceMap) (generation : BitVec 16) : SliceMap :=
  let kept := if m.older.contains (m.generation, m.entries) then m.older else (m.generation, m.entries) :: m.older
  { m with generation, older := kept.filter fun x => x.1 ≠ generation }

/-- A die's slice map changed. -/
def State.onSliceMap (s : State) (die : Nat) (f : SliceMap → SliceMap) : State :=
  { s with sliceMaps := if h : die < 4 then s.sliceMaps.set die (f s.sliceMaps[die]) else s.sliceMaps }

/-- A register written (R153, R152, R267, R269, R270). -/
def State.writeReg (s : State) (reg : RegName) (value : DWord) : State :=
  let v := value.toNat
  match reg with
  | .scheduleEntry i => { s with scheduleEntries := s.scheduleEntries.setIfInBounds i (slotEntry i value) }
  | .vfMap fn => { s with vfMap := s.vfMap.setIfInBounds fn (value.setWidth 8 &&& 0x8F) }
  | .apert fn => { s with aperts := s.aperts.setIfInBounds fn (value &&& 0x3FFFFFFFFFFF) }
  | .objectTable p => s.onPcb p fun x => { x with tableBase := bits v 6 46 * 64 }
  | .objectEntries p => s.onPcb p fun x => { x with tableEntries := bits v 0 32 }
  | .errorRing p => s.onPcb p fun x => { x with ringObject := bits v 0 32 }
  | .errorHead p => s.onPcb p fun x => { x with ringHead := bits v 0 16 }
  | .threshold p => s.onPcb p fun x => { x with threshold := bits v 0 32 }
  | .contextObject p => s.onPcb p fun x => { x with contextObject := bits v 0 32 }
  | .framePool p => s.onPcb p fun x => { x with poolObject := bits v 0 32 }
  | .grantedCores p k => s.onPcb p fun x => { x with granted := putWord64 x.granted k value }
  | .queueControl p q => s.onLaunchQueue p q fun x => x.control v
  | .sliceMap die e => s.onSliceMap die fun m => { m.keepOld with entries := updateAt (fun _ => v) e m.entries }
  | .sliceGeneration die => s.onSliceMap die fun m => m.publish (value.setWidth 16)
  | .hostGrant fn => { s with hostGrant := (fn, v) :: s.hostGrant.filter fun x => x.1 ≠ fn }
  | .handlerVector => { s with fwHndlr := value &&& 0xFFFFFFFFFFFFFFFE }

def execRegisterWrite (reg : RegName) (value : DWord) (s : State) : Host.Outcome State Fault Refusal :=
  .next (s.writeReg reg value)

/-! ### What the windows show (R267, R269 to R271, R275) -/

/-- PREQ as it reads. -/
def State.preqWord (s : State) (part core : Nat) : DWord :=
  let slots := fun (p : Crew → Bool) => ((List.range 16).filter fun k => (s.weavesOn core).any fun w =>
    w.id.slot = k && ((s.crew? w.crew).map fun c => c.part = part && p c).getD false).foldl (fun m k => m + 2 ^ k) 0
  let k := if s.grantedCore part core then s.coreStates.toList.getD core CoreState.reset else CoreState.reset
  BitVec.ofNat 64 (2 ^ 32 * k.preqSaved.toNat + 2 ^ 16 * slots (fun c => c.state = CrewState.halted || c.state = CrewState.saving)
    + k.preqAsked.toNat)

/-- CSRAM as it reads. -/
def State.csramWord (s : State) (part core : Nat) : DWord :=
  let k := s.coreStates.toList.getD core CoreState.reset
  if s.grantedCore part core then BitVec.ofNat 64 (k.units + 2 ^ 8 * k.active) else 0

/-- The two words of a launch queue's descriptor. -/
def LaunchQueue.word0 (q : LaunchQueue) : DWord :=
  BitVec.ofNat 64 (q.ring + 2 ^ 32 * q.size + 2 ^ 36 * q.priority + 2 ^ 38 * ofBool q.device + 2 ^ 39 * ofBool q.enable)
def LaunchQueue.word1 (q : LaunchQueue) : DWord := BitVec.ofNat 64 (q.head + 2 ^ 32 * q.tail)

/-- The word at an offset of a partition control block; offsets that R269 does not list read as any value. -/
def State.pcbWord (s : State) (part off : Nat) : DWord :=
  let p := s.pcb part
  if off = 0 then BitVec.ofNat 64 p.tableBase
  else if off = 0x08 then BitVec.ofNat 64 p.tableEntries
  else if off = 0x10 then p.lim0
  else if off = 0x18 then p.lim1
  else if off = 0x20 then BitVec.ofNat 64 p.ringObject
  else if off = 0x28 then BitVec.ofNat 64 (p.ringHead + 2 ^ 16 * p.ringTail + 2 ^ 32 * p.overflow)
  else if off = 0x30 then BitVec.ofNat 64 p.threshold
  else if off = 0x40 then BitVec.ofNat 64 p.contextObject
  else if off = 0x48 then BitVec.ofNat 64 p.poolObject
  else if 0x80 ≤ off && off < 0xB0 then p.granted.extractLsb' (8 * (off - 0x80)) 64
  else if 0x100 ≤ off && off < 0x300 then
    let q := s.launchQueue part ((off - 0x100) / 32)
    if off % 32 = 0 then q.word0 else if off % 32 = 8 then q.word1 else Config.freeDWord s.tick (2 ^ 20 + off)
  else if 0x1000 ≤ off && off < 0x1C00 then s.csramWord part ((off - 0x1000) / 8)
  else if 0x2000 ≤ off && off < 0x2C00 then s.preqWord part ((off - 0x2000) / 8)
  else Config.freeDWord s.tick (2 ^ 20 + off)

/-- The arrays of a core in service (R224). -/
def State.arrayCount (s : State) (core : Nat) : Nat :=
  if s.hasCore core then 2 - (s.arraysOut.filter fun x => x.core = core && x.retired).length else 0

/-- The spare columns left in the module (R271). -/
def State.sparesLeft (s : State) : Nat := 4 * 2 * popBits 384 s.coresPresent.toNat - ((s.arraysOut.map fun x => x.used.length).sum)

/-- The fabric link ports that the module reports: those it has, and from stage 3 on those of them that trained (R271, R272). -/
def State.fabricReported (s : State) : Nat :=
  if s.stage.getD 0 < 3 then s.fabricPorts.toNat
  else ((s.fabric.toList.zipIdx).map fun x => 2 ^ x.2 * ofBool (x.1.trained && s.fabricPorts.getLsbD x.2)).sum

/-- The word at an offset of the configuration block (R271). -/
def State.configWord (s : State) (off : Nat) : DWord :=
  if off = 0 then BitVec.ofNat 64 (s.chipId.toNat + 2 ^ 16 * s.dies.toNat + 2 ^ 20 * s.cxlPorts.toNat + 2 ^ 24 * s.fabricReported
    + 2 ^ 40 * s.stage.getD 0 + 2 ^ 43 * s.stageError.toNat)
  else if off = 8 then s.firmware
  else if 0x40 ≤ off && off < 0x70 then s.coresPresent.extractLsb' (8 * (off - 0x40)) 64
  else if 0x80 ≤ off && off < 0xE0 then
    BitVec.ofNat 64 (((List.range 32).map fun i => 4 ^ i * s.arrayCount (4 * (off - 0x80) + i)).sum)
  else if 0x100 ≤ off && off < 0x140 then s.channels.extractLsb' (8 * (off - 0x100)) 64
  else if off = 0x140 then BitVec.ofNat 64 (s.sparesLeft % 65536)
  else Config.freeDWord s.tick (2 ^ 21 + off)

/-- The word at an offset of the port status region (R275, R157). -/
def State.portWord (s : State) (off : Nat) : DWord :=
  if off < 0x80 then
    match s.fabric[off / 8]? with
    | some f => BitVec.ofNat 64 (ofBool f.trained + 2 ^ 16 * f.peerChip.toNat + 2 ^ 32 * f.peerPort.toNat)
    | none => 0
  else
    match (if 0x100 ≤ off then s.cxl[(off - 0x100) / 16]? else none) with
    | some c => if !s.cxlPorts.getLsbD ((off - 0x100) / 16) then 0 else if off % 16 = 0 then BitVec.ofNat 64 (ofBool c.up + 2 ^ 32 * c.capacity)
        else BitVec.ofNat 64 (c.timeout + 2 ^ 22 * ofBool c.down)
    | none => Config.freeDWord s.tick (2 ^ 22 + off)

/-- Eight bytes from a list of them. -/
def bytesWord (bs : List Byte) : DWord := BitVec.ofNat 64 (leNat bs)

/-- The word at an offset of window 0 of the physical function, or of a virtual function of a partition (R267). -/
def State.windowWord (s : State) (fn : Option Nat) (part off : Nat) : DWord :=
  match fn with
  | none =>
    if off < 0x1000 then s.configWord off
    else if 0x2000 ≤ off && off < 0x2040 then bytesWord ((s.scheduleEntries.toList.drop (off - 0x2000)).take 8)
    else if 0x3000 ≤ off && off < 0x3100 then bytesWord ((s.vfMap.toList.drop (off - 0x3000)).take 8)
    else if 0x100000 ≤ off && off < 0x200000 then s.pcbWord ((off - 0x100000) / 0x10000) (off % 0x10000)
    else if 0x200000 ≤ off && off < 0x201000 then s.portWord (off - 0x200000)
    else Config.freeDWord s.tick (2 ^ 23 + off)
  | some v =>
    if off < 0x10000 then s.pcbWord part off
    else if off < 0x11000 then s.configWord (off - 0x10000)
    else if off = 0x12000 then s.aperts.toList.getD v 0
    else Config.freeDWord s.tick (2 ^ 23 + off)

/-- A word of a partition control block written: all of it by the physical function, and what R267 opens by a virtual one. -/
def State.writePcb (s : State) (fn : Option Nat) (part off : Nat) (x : DWord) : State :=
  let pf := fn.isNone
  if 0x1000 ≤ off && off < 0x1C00 then s.writeCsram part ((off - 0x1000) / 8) x
  else if 0x2000 ≤ off && off < 0x2C00 then s.writePreq part ((off - 0x2000) / 8) x
  else if off = 0x28 then
    if pf then s.onPcb part fun p => { p with ringHead := bits x.toNat 0 16, ringTail := bits x.toNat 16 16, overflow := bits x.toNat 32 32 }
    else s.writeReg (.errorHead part) x
  else if 0x100 ≤ off && off < 0x300 && off % 32 = 8 then
    let q := (off - 0x100) / 32
    let t := s.tailWrite part q (x.extractLsb' 32 32)
    match fn with
    | some v => if (t.launchQueue part q).device then t else t.onLaunchQueue part q fun y => { y with owner := v }
    | none => t
  else if !pf then s
  else if off = 0 then s.writeReg (.objectTable part) x
  else if off = 0x08 then s.writeReg (.objectEntries part) x
  else if off = 0x10 then s.writeLimit part false x
  else if off = 0x18 then s.writeLimit part true x
  else if off = 0x20 then s.writeReg (.errorRing part) x
  else if off = 0x30 then s.writeReg (.threshold part) x
  else if off = 0x40 then s.writeReg (.contextObject part) x
  else if off = 0x48 then s.writeReg (.framePool part) x
  else if 0x80 ≤ off && off < 0xB0 then s.writeReg (.grantedCores part ((off - 0x80) / 8)) x
  else if 0x100 ≤ off && off < 0x300 && off % 32 = 0 then s.writeReg (.queueControl part ((off - 0x100) / 32)) x
  else s

/-- Eight register bytes written one by one. -/
def State.writeBytes (s : State) (f : Nat → RegName) (x : DWord) : State :=
  (List.range 8).foldl (fun (t : State) i => t.writeReg (f i) (BitVec.ofNat 64 (bits x.toNat (8 * i) 8))) s

/-- A word of window 0 written (R267); the configuration block and the port status are read-only, FTMO apart. -/
def State.writeWindow (s : State) (fn : Option Nat) (part off : Nat) (x : DWord) : State :=
  match fn with
  | none =>
    if 0x2000 ≤ off && off < 0x2040 then s.writeBytes (fun i => .scheduleEntry (off - 0x2000 + i)) x
    else if 0x3000 ≤ off && off < 0x3100 then s.writeBytes (fun i => .vfMap (off - 0x3000 + i)) x
    else if 0x100000 ≤ off && off < 0x200000 then s.writePcb none ((off - 0x100000) / 0x10000) (off % 0x10000) x
    else if 0x200100 ≤ off && off < 0x200140 && off % 16 = 8 then s.writeFtmo ((off - 0x200100) / 16) x
    else s
  | some v =>
    if off < 0x10000 then s.writePcb (some v) part off x
    else if off = 0x12000 then s.writeReg (.apert v) x
    else s

/-- A word as a write of fewer bytes leaves it. -/
def mergeWord (old new : DWord) (at' n : Nat) : DWord :=
  bytesWord ((List.range 8).map fun i =>
    if at' ≤ i && i < at' + n then BitVec.ofNat 8 (bits new.toNat (8 * (i - at')) 8) else BitVec.ofNat 8 (bits old.toNat (8 * i) 8))

/-- The bits of a word of window 0 that a narrower write leaves as they are: not PREQ's saved bits nor FTMO's down, which a write of 1
acts on (R157, R259). -/
def keptBits (fn : Option Nat) (off : Nat) : DWord :=
  let inPreq := fun (o : Nat) => decide (0x2000 ≤ o) && decide (o < 0x2C00)
  match fn with
  | none =>
    if 0x100000 ≤ off && off < 0x200000 && inPreq (off % 0x10000) then 0xFFFF
    else if 0x200100 ≤ off && off < 0x200140 && off % 16 = 8 then 0xFFFFFFFFFFBFFFFF
    else 0xFFFFFFFFFFFFFFFF
  | some _ => if inPreq off then 0xFFFF else 0xFFFFFFFFFFFFFFFF

/-- All ones in n bytes: what a failing read returns (R266, R267). -/
def allOnesBytes (n : Nat) : DWord := BitVec.ofNat 64 (2 ^ (8 * n) - 1)

/-- An access of window 0 (R267). -/
def State.windowZero (s : State) (fn : Option Nat) (part off n : Nat) (store : Option DWord) : State :=
  let w0 := off / 8 * 8
  match store with
  | none =>
    let byte := fun (i : Nat) => BitVec.ofNat 8 (bits (s.windowWord fn part ((off + i) / 8 * 8)).toNat (8 * ((off + i) % 8)) 8)
    { s with hostReply := bytesWord ((List.range n).map byte) }
  | some x =>
    let k := Nat.min n (8 - off % 8)
    let old := fun (y : State) (w : Nat) => y.windowWord fn part w &&& keptBits fn w
    let t := s.writeWindow fn part w0 (mergeWord (old s w0) x (off % 8) k)
    if k = n then t
    else t.writeWindow fn part (w0 + 8) (mergeWord (old t (w0 + 8)) (BitVec.ofNat 64 (x.toNat / 2 ^ (8 * k))) 0 (n - k))

/-- Places read or written by the host at their homes (R268). -/
def State.hostAccess (s : State) (ps : List Place) (store : Option DWord) : State :=
  match store with
  | none => let t := s.eachPlaceLine ps State.gather; { t with hostReply := BitVec.ofNat 64 (t.homeNat ps) }
  | some x => (s.homePut ps x.toNat).clearPoison [⟨0, 0, ps⟩]

/-- The generation of the record of a window access to byte `off` of an object (R258, R248): a line's open generation where its bundle
refuses the access, else the layout generation of a tensor's region. -/
def State.accessGeneration (s : State) (part object off : Nat) (c : Cause) : Nat :=
  if c = .bundleOutside then
    ((s.member? part object (off / 128)).bind fun m => (s.bundle? part m.handle).map (·.opened)).getD 0
  else
    let d? := s.objDesc part object
    (s.recordGeneration part object d? (2 * off / ((d?.map (·.nibs)).getD 2) : Nat)).toNat

/-- A window access that fails its checks: a read returns all ones, a write is dropped, and an error record is sent (R267). -/
def State.accessFails (s : State) (part object off n : Nat) (c : Cause) : State :=
  { s.sendError part { code := c.code, die := 0, unit := 0, ctx := 0, object, generation := s.accessGeneration part object off c
                       offset := off } with
    hostReply := allOnesBytes n }

/-- The member lines, with the bits of their bytes, that lie among n bytes at an address. -/
def State.membersAt (s : State) (address n : Nat) : List (MemberLine × BitVec 128) :=
  if s.members.isEmpty then []
  else (s.members.map fun m => (m, (s.logicalPlaces m.part m.object m.line).foldl (fun (b : BitVec 128) p =>
    if address ≤ p.home && p.home < address + n then b ||| (1 <<< (p.logical % 128)) else b) 0)).filter fun x => x.2 ≠ 0

/-- An access of window 2 of the physical function: HBM by device-physical address (R267). A store to a member line of a bundle is an
unbundled one (R187). -/
def State.physAccess (s : State) (off n : Nat) (store : Option DWord) : State :=
  let ps := (List.range n).map fun i => (⟨off + i, off + i, none, none, 0, 0, none, false, false⟩ : Place)
  match store with
  | none => s.hostAccess ps none
  | some _ =>
    let ms := (s.membersAt off n).map (·.1)
    let t := ms.foldl (fun (u : State) m => u.settleLine m.part m.object m.line) s
    match ms.find? fun m => t.barred m.part m.object m.line with
    | some m => t.accessFails m.part m.object (128 * m.line) n .bundleOutside
    | none => t.hostAccess ps store

/-- An access of window 2 of a virtual function: the object that APERT names, after the checks of R110 (R267). -/
def State.objectAccess (s : State) (fn part off n : Nat) (store : Option DWord) : State :=
  let ap := (s.aperts.toList.getD fn 0).toNat
  let object := bits ap 0 32
  let at' := bits ap 32 14 * 2 ^ 34 + off
  let d? := s.objDesc part object
  let nibs := (d?.map (·.nibs)).getD 2
  let step := match s.checkAt none part object d? (if store.isSome then .write else .read) n false (2 * at' / nibs : Nat) with
    | some (k, c) => if k ≤ 3 then some c else if 2 * at' % nibs ≠ 0 then some .align else some c
    | none => if 2 * at' % nibs ≠ 0 then some .align else none
  match step, d? with
  | some c, _ => s.accessFails part object at' n c
  | none, none => s.accessFails part object at' n .objBound
  | none, some d =>
    let ps := s.placesAt none part object d (2 * at' / nibs) n
    if ps.any (·.busy) then s
    else if ps.any s.placeDown then s.accessFails part object at' n .farUnavail
    else
      match store with
      | none => if ps.any s.poisoned then s.accessFails part object at' n .dataUe else s.hostAccess ps none
      | some x =>
        let t := s.settleLine part object (at' / 128)
        if t.barred part object (at' / 128) then t.accessFails part object at' n .bundleOutside else t.hostAccess ps (some x)

/-- Whether the host link is up: it goes down with the power of the dies (R276). -/
def State.linkUp (s : State) : Bool := s.powered

/-- Whether a window is available: window 0 from stage 1 on, and the memory behind window 2 from stage 2 on (R272). -/
def State.windowOpen (s : State) (window : Nat) : Bool := decide ((if window = 0 then 1 else 2) ≤ s.stage.getD 0)

/-- The bytes of a function's window, for the windows that it has (R267). -/
def windowSize (fn : Option Nat) (window : Nat) : Nat :=
  match window, fn with
  | 0, none => 2 ^ 22
  | 0, some _ => 2 ^ 17
  | 2, none => 2 ^ 40
  | 2, some _ => 2 ^ 34
  | _, _ => 0

/-- Whether n bytes at an offset of window 0 take in a byte of a launch queue's tail. -/
def tailOffset (fn : Option Nat) (off n : Nat) : Bool :=
  let inTail := fun (o : Nat) => decide (0x100 ≤ o) && decide (o < 0x300) && decide (o % 32 < 16) && decide (12 < o % 32 + n)
  match fn with
  | none => decide (0x100000 ≤ off) && decide (off < 0x200000) && inTail (off % 0x10000)
  | some _ => inTail off

/-- An access of a window that is not available yet: a read returns any value, and a write is dropped (DESIGN CHOICE, log 32), but a
tail write is kept (R272). -/
def State.earlyAccess (s : State) (fn : Option Nat) (part window off n : Nat) (store : Option DWord) : State :=
  match store with
  | none => { s with hostReply := Config.freeDWord s.tick (2 ^ 25 + off) &&& allOnesBytes n }
  | some _ => if window = 0 && s.stage.isSome && tailOffset fn off n then s.windowZero fn part off n store else s

/-- A host access through a window (R266 to R268): n bytes, n at most 8; nothing answers while the link is down (R276), and nothing past
the end of a window or at a number that the function has no window of (R267). -/
def execHostWindowAccess (fn : Option Nat) (window offset bytes : Nat) (store : Option DWord) (s : State) :
    Host.Outcome State Fault Refusal :=
  let n := Nat.min bytes 8
  let map := (fn.map fun v => s.vfMap.toList.getD v 0).getD 0x80
  let part := map.toNat % 16
  .next (if !s.linkUp || windowSize fn window < offset + n then s
    else if !map.getLsbD 7 then { s with hostReply := allOnesBytes n }
    else if !s.windowOpen window then s.earlyAccess fn part window offset n store
    else if window = 0 then s.windowZero fn part offset n store
    else match fn with
      | none => s.physAccess offset n store
      | some v => s.objectAccess v part offset n store)

/-- A configuration request: before stage 0 it is answered with Configuration Request Retry Status; what its registers hold
is not stated (R272). -/
def execPcieConfigRequest (request : Nat) (s : State) : Host.Outcome State Fault Refusal :=
  .next (if !s.linkUp then s
    else if s.stage.isNone then { s with hostRetry := true }
    else { s with hostRetry := false, hostReply := Config.freeDWord s.tick (2 ^ 24 + request) })

/-! ### Start-up, measurement, attestation (R272 to R274) -/

/-- The module without power: what hardware, firmware and non-volatile storage keep (R272, R274). -/
def State.unpowered (s : State) : State :=
  { State.reset with
    schedule := s.schedule, tick := s.tick, nextId := s.nextId, rr := s.rr, hostReply := s.hostReply
    chipId := s.chipId, dies := s.dies, cxlPorts := s.cxlPorts, fabricPorts := s.fabricPorts, firmware := s.firmware, coresPresent := s.coresPresent
    arraysOut := s.arraysOut, channels := s.channels, fwHndlr := s.fwHndlr, nextSignature := s.nextSignature
    hostMem := s.hostMem, hostGrant := s.hostGrant }

def execPowerGood (s : State) : Host.Outcome State Fault Refusal :=
  .next (if s.powered then s else { s.unpowered with powered := true })

/-- A component measured: its digest is extended into its slot and logged (R273). -/
def State.measure (s : State) (c : Component) : State :=
  if 8 ≤ c.slot then s
  else
    let d := shake256 c.image
    let bytes := fun (x : BitVec 256) => leBytes 32 x.toNat
    { s with
      slots := s.slots.setIfInBounds c.slot (shake256 (bytes (s.slots.toList.getD c.slot 0) ++ bytes d))
      log := s.log ++ [(c.slot, c.kind, d)] }

/-- The fabric link ports trained at stage 3: each that the module has trains or fails, and one that trains finds its peer (R272, R275;
log 31). -/
def State.trainPorts (s : State) : State :=
  { s with fabric := Vector.ofFn fun k =>
      if s.fabricPorts.getLsbD k.val && !Config.freeBool s.tick (16 + k.val) then
        let peer := Config.freeDWord s.tick (2 ^ 26 + k.val)
        ⟨true, peer.extractLsb' 16 16, peer.extractLsb' 32 4⟩
      else ⟨false, 0, 0⟩ }

/-- The next start stage, or a stage that fails; die 0's supervisor core runs no firmware that has not been measured, and TIME starts
at stage 2 (R272, R273, R137). -/
def execStartStageReached (stage : Nat) (error : BitVec 8) (components : List Component) (s : State) :
    Host.Outcome State Fault Refusal :=
  let next := (s.stage.map (· + 1)).getD 0
  let measured := components.any fun c => decide (c.slot < 8)
  .next (if !s.powered || stage ≠ next || 3 < stage || s.stageError ≠ 0 || (stage = 1 && error = 0 && !measured) then s
    else
      let t := components.foldl State.measure s
      if error ≠ 0 then { t with stageError := error }
      else
        let u := if stage = 3 then t.trainPorts else t
        { u with stage := some stage, time := if stage = 2 then 0 else u.time, linksAt := if stage = 3 then u.time else u.linksAt })

/-- The bytes that a report's signature covers (R274). -/
def reportBytes (nonce : BitVec 256) (s : State) : List Byte :=
  leBytes 32 nonce.toNat ++ s.slots.toList.flatMap (fun x => leBytes 32 x.toNat)
    ++ s.log.flatMap (fun e => leBytes 8 e.1 ++ leBytes 8 e.2.1 ++ leBytes 32 e.2.2.toNat) ++ leBytes 8 s.nextSignature

def execAttestationReport (mailbox : Nat) (nonce : BitVec 256) (s : State) : Host.Outcome State Fault Refusal :=
  .next (if s.stage.isNone then s
    else
      let left := decide (s.nextSignature < 2 ^ 20)
      { s with
        reports := s.reports ++ [⟨mailbox, nonce, s.slots.toList, s.log, s.nextSignature,
          if left then some (BitVec.ofNat 22560 (leNat (Xmss.signature s.nextSignature (reportBytes nonce s)))) else none⟩]
        nextSignature := if left then s.nextSignature + 1 else s.nextSignature })

/-! ### Power (R276) -/

def execPowerLimitSet (watts : Nat) (s : State) : Host.Outcome State Fault Refusal :=
  .next (if 1500 ≤ watts && watts ≤ 3400 && s.stage.isSome then { s with powerLimit := watts } else s)

/-- Throttling changes timing only: the idle cc before an MMAC and the clock's step (R276). -/
def execPowerThrottle (idle clockStep : Nat) (s : State) : Host.Outcome State Fault Refusal :=
  .next (if s.stage.isSome then { s with idleCycles := idle, clockStep } else s)

/-- The error record of a thermal shutdown; its code and the unit that it names are not stated (log 33). -/
def State.heatRecord (s : State) : ErrorInfo :=
  { code := (Config.freeDWord s.tick (2 ^ 27)).toNat % 256, die := 0, unit := (Config.freeDWord s.tick (2 ^ 27 + 1)).toNat % 2 ^ 16
    ctx := 0, object := 0, generation := 0, offset := 0 }

/-- At 105 °C Mirog sends an error record and the dies lose their power; the host sees the link go down (R276, R258). The record goes to
partition 0's ring, whose memory is lost with the power, and stays with Mirog, under the TIME at which it was sent (log 33). -/
def execThermalShutdown (s : State) : Host.Outcome State Fault Refusal :=
  .next (if s.powered then { (s.sendError 0 s.heatRecord).unpowered with shutdown := some (s.heatRecord, s.time) } else s)

/-! ### Reset of a virtual function (R265) -/

/-- The threads of a function stop and arrive with status bit 28 (R223). -/
def State.resetThreads (s : State) (fn : Nat) : State :=
  let mine := s.threads.filter fun t => t.fn = fn
  mine.foldl (fun (t : State) x => (t.setThread (x.stop flagAbort none)).arrivalEvent x.id) s

/-- The arrays of a function's crews stop: what they still owe arrives with status bit 28 (R236). -/
def State.resetArrays (s : State) (fn : Nat) : State :=
  (s.crews.filter fun c => c.fn = fn).foldl (fun (t : State) c =>
    match c.array.bind fun i => t.array? c.core i with
    | some a => t.abortArray a
    | none => t) s

/-- The bundles that are open or committing, in which a weave of a function takes part or has closed, abort (R190, R195, R265). -/
def State.resetBundles (s : State) (fn : Nat) : State :=
  (s.bundles.filter fun b => b.owners.contains fn).foldl State.abortBundle s

/-- The weaves of a function end: bundles abort, views are freed, entries and pushes toward them are discarded. -/
def State.resetWeaves (s : State) (fn : Nat) : State :=
  (s.weaves.filter fun w => w.function = fn).foldl (fun (t : State) w => (t.giveUpBundles w).removeWeave w) s

/-- The crews of a function, their arrays with them; what their cores' caches hold dirty reaches its home before the completion
objects flip (R268). -/
def State.resetCrews (s : State) (fn : Nat) : State :=
  let saved := (s.crews.filter fun c => c.fn = fn && c.state = CrewState.saved).foldl State.discardSaved s
  (saved.crews.filter fun c => c.fn = fn).foldl (fun (t : State) c =>
    let u := (t.release c.core .sy).returnArray c
    ({ u with crews := u.crews.filter fun x => x.id ≠ c.id } : State).clusterEnd (clusterOf c.core)) saved

/-- The pins of a function released (R195). -/
def State.resetPins (s : State) (fn : Nat) : State :=
  (s.bundles.filter fun b => b.pin.isSome && b.pinOwner = fn).foldl (fun (t : State) b => (t.unpinBundle b.part b.handle).2) s

/-- The launches of a function complete with bit 28. -/
def State.resetLaunches (s : State) (fn : Nat) : State :=
  let ids := (s.launches.filter fun l => l.fn = fn && !l.finished).map (·.id)
  let t : State := { s with launches := s.launches.map fun (l : Launch) =>
    if l.fn = fn && !l.finished then { l with aborted := true } else l }
  ids.foldl (fun (u : State) i => u.finishLaunch i) t

def execVfReset (fn : Nat) (s : State) : Host.Outcome State Fault Refusal :=
  let t := ((s.resetThreads fn).resetArrays fn).resetBundles fn
  .next ((((t.resetWeaves fn).resetCrews fn).resetPins fn).resetLaunches fn)

/-! ### Errors found in memory (R257) -/

/-- A correctable error, counted for its partition and its die; each multiple of the threshold makes a record due. -/
def execCorrectableError (part die : Nat) (s : State) : Host.Outcome State Fault Refusal :=
  let t := s.onPcb part fun p =>
    let n := p.corrected + 1
    { p with corrected := n, due := if p.threshold ≠ 0 && n % p.threshold = 0 then p.due + 1 else p.due }
  .next { t with dieCorrected := t.dieCorrected.setIfInBounds die (t.dieCorrected.toList.getD die 0 + 1) }

def execCorrectableThreshold (part : Nat) (s : State) : Host.Outcome State Fault Refusal :=
  .next (if (s.pcb part).due = 0 then s
    else (s.onPcb part fun p => { p with due := p.due - 1 }).unitError part 0x20 0 0)

/-- The die and the unit that an error record names for an address: the core of scratchpad and planes, else the memory's unit (R258;
log 34). -/
def errorSite (address : Nat) : Nat × Nat :=
  if isHost address then (0, 0)
  else if 2 ^ 62 ≤ address then (dieOf ((address - 2 ^ 62) / 2 ^ 19), (address - 2 ^ 62) / 2 ^ 19)
  else if 2 ^ 61 ≤ address then (dieOf ((address - 2 ^ 61) / 2 ^ 20), (address - 2 ^ 61) / 2 ^ 20)
  else (homeDie address, unitOf address)

/-- An uncorrectable error in a line's open version: the bundle aborts unless it has committed, and then the version is poisoned until
its flip carries the poison to its line (R189, R190). -/
def State.hitOpen (s : State) (m : MemberLine) (bad : BitVec 128) : State :=
  match m.openV, s.bundle? m.part m.handle with
  | some v, some b =>
    if b.committed < v.generation then s.abortBundle b
    else s.putMember { m with openV := some { v with bad := v.bad ||| bad } }
  | _, _ => s

/-- An uncorrectable error: the word is poisoned wherever it is held, and a record is sent (R257). Which of a line's versions is hit is
open. -/
def execUncorrectableError (part address bytes : Nat) (s : State) : Host.Outcome State Fault Refusal :=
  let n := Nat.max 1 (Nat.min bytes 8)
  let ms := s.membersAt address n
  let opened := ms.filter fun x => x.1.openV.isSome
  let kept := ms.filter fun x => x.1.retained.isSome
  let t := if Config.freeBool s.tick 2 && !opened.isEmpty then opened.foldl (fun (u : State) x => u.hitOpen x.1 x.2) s
    else if Config.freeBool s.tick 5 && !kept.isEmpty then
      kept.foldl (fun (u : State) x => u.putMember { x.1 with retained := x.1.retained.map fun v => { v with bad := v.bad ||| x.2 } }) s
    else { s with poison := s.poison ++ [(address, n)] }
  .next (t.sendError part { code := 0x09, die := (errorSite address).1, unit := (errorSite address).2, ctx := 0, object := 0
                            generation := 0, offset := 0 })

end Sys2Proof.Machine
end

