-- ==== Sys2Proof/Machine/Fabric.lean ====
section
/-! DEFINITION. What the caches, their homes, the CXL ports, the translation walkers and the bundle homes do on their own
(R129 to R131, R149 to R159, R176 to R178, R189, R255). -/

namespace Sys2Proof.Machine

/-! ### Requests at a home (R149 to R152) -/

/-- Every frame that an object of some partition maps: the partition, the object and the frame's index. -/
def State.mappedFrames (s : State) : List (Nat × Nat × Nat) :=
  (List.range 16).flatMap fun p => (List.range (s.pcb p).tableEntries).flatMap fun o =>
    match s.objDesc p o with
    | none => []
    | some d => ((List.range d.frames).filter fun f => extPresent (s.extWord d f)).map fun f => (p, o, f)

/-- The region tag that a fill of a line carries: that of the tensor object that maps it (R130). -/
def State.tagOfLine (s : State) (line : Nat) : Option (RegionId × Nat) :=
  s.mappedFrames.findSome? fun x =>
    match s.objDesc x.1 x.2.1 with
    | none => none
    | some d =>
      let w := s.extWord d x.2.2
      let base := frameAddr (extFar w) (extFrame w) 0
      if d.kind = 2 && lineOf base ≤ line && line < lineOf base + 512 then
        some (⟨x.1, x.2.1, x.2.2 / 4⟩, x.2.2 % 4 * Config.frameBytes + 128 * line - base)
      else none

/-- Whether a holder's request of die scope is answered RETRY: another cluster has an L copy (R176). -/
def State.refused (s : State) (h : Holder) (line : Nat) : Bool :=
  (s.tracked line).any fun c => c.state = .l && c.holder ≠ h

/-- Whether a line belongs to a region that retiles, in its old frames or in its new ones: the home answers a request for it without
giving a copy (R127). -/
def State.lineMoving (s : State) (line : Nat) : Bool :=
  s.regions.any fun r => r.state = .retiling &&
    (r.newFrames.any fun f => frameOf (128 * line) = f && !isFar (128 * line) && !isHost (128 * line)) ||
  (s.tagOfLine line).any fun x => s.regionMoving x.1

/-- Whether a holder may have a copy of a line: a sector copy stands in the slice of its own sector that R147 names, and not in the
home; an RDC bank keeps lines of other dies. -/
def State.mayHold (s : State) (h : Holder) (line : Nat) : Bool :=
  match h with
  | .l1 _ => false
  | .cluster _ => true
  | .slice d n => d = homeDie (128 * line) && n % 16 = s.homeSlice line % 16 && n / 16 ≠ s.homeSlice line / 16 &&
      (s.sliceMap d).entries.contains n
  | .bank d n => d ≠ homeDie (128 * line) && n = sliceHash line % 16

/-- A read that the directory serves (R149); a cluster's read of a line of another die goes through its die's RDC bank, which requests
the line and keeps it (R147). A core that waits without allocating is given no copy. -/
def State.serveRead (s : State) (h : Holder) (line : Nat) (early : Bool) : State :=
  if s.refused h line || (s.lineAt h line).isSome || s.lineMoving line || !s.mayHold h line then s
  else
    let tag := s.tagOfLine line
    let t := match bankOf h line with
      | none => s
      | some b =>
        let u := s.dropStale b line
        if u.has b line then u else u.homeRead b line tag early
    t.homeRead h line tag early

/-- A holder's request answered RETRY, which it may make again 32 cc later (R151). -/
def State.refuseHolder (s : State) (h : Holder) (line : Nat) : State :=
  { s with homeRetries := (h, line, s.time) :: s.homeRetries.filter fun x => !(x.1 = h && x.2.1 = line) }

/-- Whether a holder was answered RETRY for a line less than 32 cc ago. -/
def State.tooSoon (s : State) (h : Holder) (line : Nat) : Bool :=
  s.homeRetries.any fun x => x.1 = h && x.2.1 = line && decide (s.time < x.2.2 + 32)

/-- The core whose slice maps hash a holder's requests: a cluster's first; sector copies and RDC banks hash under the newest maps
(DEDUCED, log 41). -/
def hashedBy : Holder → Option Nat
  | .cluster c => some (4 * c)
  | _ => none

/-- A request hashed under an older map that meets a retired slice is answered REMAP: the requester hashes again under the current
generation, and asks anew (R152). -/
def State.remapHolder (s : State) (h : Holder) (line : Nat) : Option State :=
  (hashedBy h).bind fun core => if s.hasCore core && s.remapped core line then some (s.adoptMap core (homeDie (128 * line))) else none

/-- Whether a line's home slice has to fetch it for a read: it does not hold the line, and no owner, no forwarder and no RDC bank of
the requester's die supplies it (R149, R151). -/
def State.sliceMisses (s : State) (h : Holder) (line : Nat) : Bool :=
  !(s.resident.any fun x => x.die = homeDie (128 * line) && x.slice = s.homeSlice line && x.line = line) &&
    !((s.dir? none line).any fun e => e.state = .m || e.state = .e || e.state = .f) &&
    !((bankOf h line).any fun b => s.has b line)

/-- A read from a holder: it joins a pending fill of up to twelve waiters, starts one where the slice misses, which takes a way at
once, or is served; a thirteenth is answered RETRY, and its holder asks again no sooner than 32 cc later (R149, R151, R152). -/
def State.readRequest (s : State) (h : Holder) (line : Nat) : State :=
  if s.tooSoon h line || !s.mayHold h line then s
  else
    let t := { s with homeRetries := s.homeRetries.filter fun x => !(x.1 = h && x.2.1 = line) }
    match t.remapHolder h line with
    | some u => u
    | none =>
      match s.fills.find? fun f => f.line = line with
      | some f =>
        if f.waiters.any fun x => x.1 = h then t
        else if f.waiters.length < 12 then t.joinFill h line false
        else s.refuseHolder h line
      | none =>
        if s.sliceMisses h line then
          let u := t.settleHome line .ca
          { u with fills := u.fills ++ [⟨line, [(h, false)]⟩] }
        else t.serveRead h line false

def execHomeReadRequest (holder : Holder) (line : Nat) (s : State) : Host.Outcome State Fault Refusal :=
  .next (s.readRequest holder line)

/-- An ownership request of a cluster, a sector copy or an RDC bank: every other holder is invalidated (R149). -/
def State.ownRequest (s : State) (h : Holder) (line : Nat) : State :=
  if s.refused h line || ((s.lineAt h line).map (·.state)) = some .l || s.lineMoving line || !s.mayHold h line then s
  else match s.remapHolder h line with
    | some u => u
    | none => s.homeOwn h line (s.tagOfLine line) false

def execHomeOwnershipRequest (holder : Holder) (line : Nat) (s : State) : Host.Outcome State Fault Refusal :=
  .next (s.ownRequest holder line)

/-- A fill arrives, the line is valid in the way that it took, and its waiters are served in arrival order (R151). -/
def execSliceFillArrival (line : Nat) (s : State) : Host.Outcome State Fault Refusal :=
  .next (match s.fills.find? fun f => f.line = line with
    | none => s
    | some f => f.waiters.foldl (fun (t : State) x => t.serveRead x.1 line x.2)
        { s with fills := s.fills.filter fun x => x.line ≠ line })

/-- A refused access may be reissued 32 cc after it was refused (R151, R176). -/
def execRetryReissue (weave : WeaveId) (strand : Strand) (s : State) : Host.Outcome State Fault Refusal :=
  .next { s with retries := s.retries.map fun (r : RetryRec) =>
    if r.weave = weave && r.strand = strand && decide (r.last + 32 ≤ s.time) then { r with ready := true } else r }

/-- A request of a core that was hashed under an older map meets a retired slice: the core counts the REMAP and hashes again under the
current generation (R152, R350). -/
def execRemapReply (core die line : Nat) (s : State) : Host.Outcome State Fault Refusal :=
  .next (if s.hasCore core && die = homeDie (128 * line) && s.remapped core line then s.adoptMap core die else s)

/-! ### Write-backs and the ends of copies -/

/-- A dirty line written back, merged byte by byte at its home; L copies give up their bytes when they end (R130, R177, R178). -/
def execWriteBackMerge (holder : Holder) (line : Nat) (s : State) : Host.Outcome State Fault Refusal :=
  .next (match s.lineAt holder line with
    | some c => if c.state = .l then s else s.writeBack holder line
    | none => s)

/-- An L copy unused for 65,536 cc ends (R177). -/
def execLCopyIdleExpiry (cluster line : Nat) (s : State) : Host.Outcome State Fault Refusal :=
  .next (match s.lineAt (.cluster cluster) line with
    | some c => if c.state = .l && decide (c.last + 65536 ≤ s.time) then s.endL cluster line else s
    | none => s)

/-- After 4,096 cc of RETRY answers the home recalls every L copy of the line (R177). -/
def execLCopyRetryRecall (line : Nat) (s : State) : Host.Outcome State Fault Refusal :=
  let late := fun (since : Nat) => decide (since + 4096 ≤ s.time)
  let waits := fun (x : Option (Nat × Nat × Nat)) => x.any fun r => decide (r.1 = line) && late r.2.1
  .next (if s.retries.any (fun r => r.line = line && late r.since) || s.threads.any (fun th => waits th.refused)
      || s.pending.any (fun p => waits p.refused) then s.endLineL line
    else s)

/-- A walk of an L1 or a cluster cache: the dirty bytes of lines with an older stamp go home (R130). -/
def State.walkLines (s : State) (h : Holder) : State :=
  ((s.caches.filter fun c => c.holder = h && c.stamp ≠ s.mapGen).map (·.line)).foldl (fun t l => t.writeBack h l) s

def execStaleLineWalk (holder : Holder) (s : State) : Host.Outcome State Fault Refusal :=
  .next (match holder with
    | .l1 _ | .cluster _ => s.walkLines holder
    | _ => s)

/-- A translation dropped for want of room. -/
def State.evictOtb (s : State) (owner : Holder) (part object frame : Nat) : State :=
  s.otbInvalidate fun e => e.owner = owner && e.part = part && e.object = object && e.frame = frame

def execBankWake (holder : Holder) (s : State) : Host.Outcome State Fault Refusal := .next (s.wakeBank holder)

/-- A bank enters retention sleep and records the counter (R131). -/
def execRetentionSleepEntry (holder : Holder) (s : State) : Host.Outcome State Fault Refusal :=
  .next (if s.sleeping.any fun x => x.1 = holder then s else { s with sleeping := (holder, s.mapGen) :: s.sleeping })

/-- One half of a copy no longer held (R156). -/
def CacheLine.withoutHalf (c : CacheLine) (k : Nat) : CacheLine :=
  let gone := fun (x : LineState) => if x = .l || x = .plain then x else .s
  { c with halves := c.halves &&& ~~~((1 : BitVec 2) <<< k)
           state := if k = 0 then gone c.state else c.state, upper := if k = 1 then gone c.upper else c.upper }

/-- The host recalls one 64-byte half of a line that is kept coherent with it: it is written back if dirty, and is no longer held; the
other half keeps its state (R156). -/
def State.snoop (s : State) (half : Nat) : State :=
  let line := half / 2
  let k := half % 2
  if s.lineHeld line || !lineOutside line then s
  else
    let mask : BitVec 128 := (0xFFFFFFFFFFFFFFFF : BitVec 128) <<< (64 * k)
    let copies := s.caches.filter fun c => c.line = line
    -- the copies that the home tracks come home before the bytes of the L1s above them
    ((copies.filter fun c => c.state ≠ .plain) ++ copies.filter fun c => c.state = .plain).foldl (fun (t : State) c =>
      let u := t.mergeBytes (t.mergeMoves { c with dirty := c.dirty &&& mask })
      let rest := { c with dirty := c.dirty &&& ~~~mask }.withoutHalf k
      if rest.halves = 0 then u.dropLine c.holder line else u.putLine rest) s

def execBackInvalidateSnoop (half : Nat) (s : State) : Host.Outcome State Fault Refusal := .next (s.snoop half)

def execTranslationWalk (core part object frame : Nat) (s : State) : Host.Outcome State Fault Refusal :=
  .next (match s.objDesc part object with
    | some d => if frame < d.frames then s.walk core part object frame else s
    | none => s)

/-! ### CXL ports (R157 to R159) -/

/-- The lanes of a flight whose accesses target a port. -/
def Flight.lanesOn (f : Flight) (port : Nat) : LaneMask :=
  f.lanesAt.zipIdx.foldl (fun (m : LaneMask) x => if x.1.bind portOf = some port then m ||| (1 <<< x.2) else m) 0

/-- Whether a flight has had no completion within its port's timeout (R157); 1 µs is 3,300 cc. -/
def State.overdue (s : State) (f : Flight) (port : Nat) : Bool :=
  !f.certain && f.lanesOn port ≠ 0 && decide (f.since + 3300 * ((s.cxl.toList[port]?).map (·.timeout)).getD 0 ≤ s.time)

/-- The mapped far frames that a test names. -/
def State.farFrames (s : State) (p : Nat → Bool) : List (Nat × Nat × Nat) :=
  s.mappedFrames.filter fun x =>
    match s.objDesc x.1 x.2.1 with
    | some d => let w := s.extWord d x.2.2; extFar w && p (extFrame w)
    | none => false

/-- One error record of a port for each partition concerned, and for partition 0 where none is. -/
def State.tellParts (s : State) (code port : Nat) (hit : List (Nat × Nat × Nat)) : State :=
  let parts := distinct (hit.map (·.1))
  (if parts.isEmpty then [0] else parts).foldl (fun (y : State) p => y.unitError p code port port) s

/-- A port sets down: every access outstanding to it is lost, and, with the first failure, an error record goes to each partition that
maps a frame behind it (R158, R258). -/
def State.setDown (s : State) (port : Nat) : State :=
  let u := s.onCxl port fun c => { c with down := true }
  let t := { u with flights := u.flights.map fun (f : Flight) => if f.certain then f else { f with lost := f.lost ||| f.lanesOn port } }
  if s.portDown port || 4 ≤ port then t else t.tellParts 0x26 port (s.farFrames fun f => f % 4 = port)

/-- Whether the module has a CXL port; one that it does not have carries no link and attaches no memory (R2). -/
def State.hasPort (s : State) (port : Nat) : Bool := s.cxlPorts.getLsbD port

/-- An access that has had no completion sets its port down (R158). -/
def execFarPortTimeout (port : Nat) (s : State) : Host.Outcome State Fault Refusal :=
  .next (if s.hasPort port && s.flights.any fun f => s.overdue f port then s.setDown port else s)

def execCxlLinkDown (port : Nat) (s : State) : Host.Outcome State Fault Refusal :=
  .next (if s.hasPort port then (s.onCxl port fun c => { c with up := false }).setDown port else s)

/-- A link that returns replays nothing; down stays until software clears it (R158). -/
def execCxlLinkUp (port : Nat) (s : State) : Host.Outcome State Fault Refusal :=
  .next (if s.hasPort port then s.onCxl port fun c => { c with up := true } else s)

/-- Whether a far frame lies in an extent: frame f lies behind port f mod 4 (R146). -/
def inExtent (port first count frame : Nat) : Bool :=
  frame % 4 = port && decide (first ≤ frame / 4) && decide (frame / 4 < first + count)

/-- Whether a line lies in an extent. -/
def lineInExtent (port first count line : Nat) : Bool := isFar (128 * line) && inExtent port first count (frameOf (128 * line))

/-- The frames that the four ports have attached. -/
def State.attached (s : State) : Nat := (s.cxl.toList.map (·.capacity)).sum

/-- An extent granted: its frames are the port's frames first to first + count − 1 (R159); the ports attach no more than 8 TB (R1). -/
def execExtentGrant (port first count : Nat) (s : State) : Host.Outcome State Fault Refusal :=
  .next (if !s.hasPort port || Config.farFrames < s.attached + count then s
    else s.onCxl port fun c => { c with granted := (first, count) :: c.granted, capacity := c.capacity + count })

/-- Every dirty line of an extent written back. -/
def State.writeExtent (s : State) (port first count : Nat) : State :=
  (s.caches.filter fun c => lineInExtent port first count c.line).foldl (fun (t : State) c => t.writeBack c.holder c.line) s

/-- The fabric manager asks for an extent: the device begins to write back (R159). While the port is down it cannot write back, and the
request is not taken (DESIGN CHOICE, log 35). -/
def execExtentReleaseRequest (port first count : Nat) (s : State) : Host.Outcome State Fault Refusal :=
  .next (match s.cxl.toList[port]? with
    | some c =>
      if c.granted.contains (first, count) && !c.releasing.contains (first, count) && !c.down then
        (s.writeExtent port first count).onCxl port fun x => { x with releasing := (first, count) :: x.releasing }
      else s
    | none => s)

/-- Whether a spill frame's code names a frame of an extent. -/
def codeInExtent (port first count code : Nat) : Bool := code % 2 = 1 && inExtent port first count (code / 2)

/-- The spilled versions of a member line that live in an extent moved to other frames; none where there is no room. -/
def State.moveSpilled (s : State) (port first count : Nat) (m : MemberLine) : Option State :=
  let out := m.spilled.filter fun x => codeInExtent port first count x.2
  out.foldl (fun (y : Option State) x => y.bind fun t =>
    (t.spillFrame m.part fun code => !codeInExtent port first count code).bind fun r =>
      (r.1.member? m.part m.object m.line).map fun n =>
        r.1.putMember { n with spilled := n.spilled.map fun z => if z = x then (z.1, r.2) else z }) (some s)

/-- Every dirty line is home and no retention copy lives in the extent: the device acknowledges (R159). -/
def execExtentReleaseAck (port first count : Nat) (s : State) : Host.Outcome State Fault Refusal :=
  .next (match s.cxl.toList[port]? with
    | some c =>
      if !c.releasing.contains (first, count) || c.down then s
      else
        match s.members.foldl (fun (y : Option State) m => y.bind fun t => t.moveSpilled port first count m)
            (some (s.writeExtent port first count)) with
        | none => s
        | some t => t.onCxl port fun x => { x with
            granted := x.granted.erase (first, count), releasing := x.releasing.erase (first, count), capacity := x.capacity - count }
    | none => s)

/-- The withdrawn bits set for one mapped frame of a removed extent: its entry's, and its object's (R108, R109). -/
def State.withdraw (s : State) (x : Nat × Nat × Nat) : State :=
  match s.objDesc x.1 x.2.1 with
  | none => s
  | some d =>
    let entry := (s.pcb x.1).entry x.2.1
    let set := fun (t : State) (a b : Nat) =>
      let v := t.memRead a 8
      t.memWrite a 8 (if bitAt v b then v else v + 2 ^ b)
    let t := (s.reclaim (lineOf (d.extAt x.2.2))).reclaim (lineOf entry)
    (set (set t (d.extAt x.2.2) 2) entry 11).otbInvalidate fun e => e.part = x.1 && e.object = x.2.1

/-- A forced removal: dirty lines are discarded, withdrawn bits set, and each partition concerned is told (R159). -/
def execExtentForcedRemoval (port first count : Nat) (s : State) : Host.Outcome State Fault Refusal :=
  .next (match s.cxl.toList[port]? with
    | none => s
    | some c =>
      if !c.granted.contains (first, count) then s
      else
        let hit := s.farFrames (inExtent port first count)
        let t : State := { s with
          caches := s.caches.filter fun l => !lineInExtent port first count l.line
          resident := s.resident.filter fun l => !lineInExtent port first count l.line
          dirs := s.dirs.filter fun l => !lineInExtent port first count l.line
          members := s.members.map fun (m : MemberLine) =>
            { m with spilled := m.spilled.filter fun x => !codeInExtent port first count x.2 } }
        let u := (s.members.filter fun m => m.spilled.any fun x => codeInExtent port first count x.2).foldl
          (fun (y : State) m => y.reheader m.part m.handle) t
        let v := (hit.foldl State.withdraw u).tellParts 0x25 port hit
        v.onCxl port fun x => { x with
          buffer := x.buffer.filter fun l => !lineInExtent port first count l.line
          granted := x.granted.erase (first, count), releasing := x.releasing.erase (first, count), capacity := x.capacity - count })

/-! ### Bundles at their homes (R189) -/

/-- A member home reports that its open versions are complete; with this module's report the coordinator commits. -/
def execBundleMemberReport (part handle : Nat) (s : State) : Host.Outcome State Fault Refusal :=
  .next (match s.bundle? part handle with
    | some b => s.commit b
    | none => s)

/-- A line of a bundle settled: the flip applied, or the open version of an aborted generation discarded. -/
def State.settleOf (s : State) (part handle object line : Nat) : State :=
  match s.member? part object line with
  | some m => if m.handle = handle then s.settle m else s
  | none => s

def execBundleFlip (part handle object line : Nat) (s : State) : Host.Outcome State Fault Refusal :=
  .next (s.settleOf part handle object line)

/-- A home that asks the coordinator applies a committed flip at once (R189). -/
def execCoordinatorQuery (part handle object line : Nat) (s : State) : Host.Outcome State Fault Refusal :=
  .next (s.settleOf part handle object line)

/-- The drain point of an ACQP (R174). -/
def execAcqpDrain (flight : Nat) (s : State) : Host.Outcome State Fault Refusal :=
  .next (match s.flights.find? fun f => f.id = flight with
    | none => s
    | some f =>
      match f.dest with
      | .drain core scope =>
        if s.drainHeld f core scope then s else
        ({ s with flights := s.flights.filter fun x => x.id ≠ flight } : State).drain f.weave.core core scope
      | _ => s)

end Sys2Proof.Machine
end

