-- ==== Sys2Proof/Machine/Wake.lean ====
section
/-! DEFINITION. What happens to a stream without its issuing: data that return or fail (R56, R63, R158, R257, R261, R362),
waits that end (R44, R170, R181, R204, R383), entries that land in a port FIFO (R200, R202), and the split table's window
and parking (R40, R41). -/

namespace Sys2Proof.Machine

/-! ### Who may go on (R250, R253, R260) -/

/-- The state of a weave's crew. -/
def State.crewState (s : State) (w : Weave) : CrewState := ((s.crew? w.crew).map (·.state)).getD .run

/-- Whether a halt keeps a strand from issuing: in HALTING the strands in user mode, in a weave vectored by a halt or a
restore all but the one vectored. -/
def State.issueHeld (s : State) (w : Weave) (st : Strand) : Bool :=
  ((w.halted || w.restored) && decide (st ≠ w.savior)) || (s.crewState w = .halting && w.mode st = .user)

/-- Whether a halt keeps a strand's wait: every wait in HALTING, else as for issue. -/
def State.waitHeld (s : State) (w : Weave) (st : Strand) : Bool := s.crewState w = .halting || s.issueHeld w st

/-- A weave and strand act, at a PC, in a 4-byte instruction without a prefix. -/
def State.actAs (s : State) (id : WeaveId) (st : Strand) (pc : BitVec 32) : State := { s with cur := ⟨id, st, pc, 4, none, .now⟩ }

/-- The wait record of a strand. -/
def Weave.waitOf (w : Weave) : Strand → Option WaitRec
  | .a => w.aWait
  | .c e => if (w.entry e).kind = .waiting then (w.entry e).wait else none

/-! ### Wakes -/

/-- Whether the condition of a wait holds that ends by the instruction's issue anew (R44). -/
def State.waitMet (s : State) (w : Weave) (st : Strand) : WaitOn → Bool
  | .queueHead q n => decide (n ≤ (w.queue q).completeFromHead)
  | .queueRoom q => (w.queue q).hasRoom
  | .gather qi n qd => decide (n ≤ (w.queue qi).completeFromHead) && (w.queue qd).hasRoom
  | .scatter qv qi n => decide (1 ≤ (w.queue qv).completeFromHead) && decide (n ≤ (w.queue qi).completeFromHead)
  | .portIn p => w.popUnmet st p = 0
  | .portOut p => s.pushUnmet w st p = 0
  | .launchRoom q => (s.launchQueue w.partition q).hasRoom
  | .again => true
  | _ => false

/-- The wake of a WAITV that issued in a mode, if its word differs now, or the fault that ends the wait (R181). The word is read afresh
when the wait is judged: one that differed meanwhile and is equal again leaves the wait standing (DESIGN CHOICE, log 62: R181 wakes the
stream once a differing store has been performed and does not say what d then takes). -/
def State.wakeWord (s : State) (w : Weave) (st : Strand) (r : WaitRec) (object o : Nat) (a : Attrs) (c : Word) (d : Nat) (m : Mode) :
    Option State :=
  let t := s.actAs w.id st r.pc
  let g : Agent := { t.agentOf w st with sup := decide (m = .supervisor) }
  let q := t.waitvReq w a object (BitVec.ofNat 64 o)
  match t.observeWord g a q with
  | .ok (u0, x) =>
    let u := u0.waitvRun t g a q
    if x = c || t.fenceHeld w.partition w.id.core a.scope then none
    else some ((u.onMe fun y =>
      (((y.endWait st u.time).setPc st (r.pc + 4)).setPhysical st d (x.setWidth 64)).countIssue st).acquire w.id.core a.scope)
  | .error (.fault i) => some ((t.onMe fun y => y.endWait st t.time).vector w.id st i)
  | .error _ => none

/-- A wait judged: the state in which it has ended, if its condition holds (R44). A gang's members and the two sides of an
XSHUF go on when the latch closes or the partner issues. -/
def State.wake (s : State) (w : Weave) (st : Strand) (r : WaitRec) : Option State :=
  match r.on with
  | .barrier o phase =>
    if s.phaseAt w.id.core (s.crewSpad w + o) = phase then none
    else some ((s.onWeave w.id fun x => (x.endWait st s.time).setPc st (r.pc + 4)).barComplete w.id o)
  | .completion a want target =>
    if s.phaseAt w.id.core a ≠ want || s.fenceHeld w.partition w.id.core (s.flipScope w.id.core a) then none
    else some ((s.onWeave w.id fun x => ((x.endWait st s.time).setPc st target).countIssue st).acquire w.id.core
      (s.flipScope w.id.core a))
  | .word object o a c d m => s.wakeWord w st r object o a c d m
  | .gang | .shuffle .. => none
  | on => if s.waitMet w st on then some (s.onWeave w.id fun x => x.endWait st s.time) else none

/-- A strand's wait, judged now. -/
def State.wakeNow (s : State) (id : WeaveId) (st : Strand) : Option State :=
  (s.weave? id).bind fun w => if s.waitHeld w st then none else (w.waitOf st).bind fun r => s.wake w st r

def execWaitWake (weave : WeaveId) (strand : Strand) (s : State) : Host.Outcome State Fault Refusal :=
  .next ((s.wakeNow weave strand).getD s)

/-! ### Watchdogs (R204, R383) -/

/-- Whether a wait has lasted PWATCH.limit × 64 cc. -/
def State.waitExpired (s : State) (w : Weave) (r : WaitRec) : Bool :=
  w.pwatch ≠ 0 && decide (r.since + 64 * w.pwatch.toNat ≤ s.time)

/-- The PORT_WATCH of a strand whose wait has lasted too long, with its faulters' mask and port code. -/
def State.watchFault (s : State) (w : Weave) (st : Strand) (r : WaitRec) (access : Nat) (m : LaneMask) (port : Nat) : State :=
  let t := s.actAs w.id st r.pc
  let i := { t.info w .portWatch access with faulters := m, port := BitVec.ofNat 8 port }
  (t.onMe fun x => x.endWait st t.time).vector w.id st i

def execWaitWatchdog (weave : WeaveId) (strand : Strand) (s : State) : Host.Outcome State Fault Refusal :=
  .next (match s.weave? weave with
    | none => s
    | some w =>
      match w.waitOf strand with
      | some r =>
        match r.on with
        | .completion .. =>
          if s.waitExpired w r && !s.waitHeld w strand then s.watchFault w strand r accOther (w.act strand) 0 else s
        | _ => s
      | none => s)

/-- The lanes whose condition a port wait has not met, if there are any, with the port's code; every lane of ACT for an XSHUF; none for
other waits (R204). -/
def State.portUnmet (s : State) (w : Weave) (st : Strand) : WaitOn → Option (LaneMask × Nat)
  | .portIn p => if w.popUnmet st p = 0 then none else some (w.popUnmet st p, portCode p)
  | .portOut p => if s.pushUnmet w st p = 0 then none else some (s.pushUnmet w st p, portCode p)
  | .shuffle .. => some (w.act st, 0)
  | _ => none

def execPortWatch (weave : WeaveId) (entry : Nat) (s : State) : Host.Outcome State Fault Refusal :=
  .next (match s.weave? weave with
    | none => s
    | some w =>
      match w.waitOf (.c entry) with
      | none => s
      | some r =>
        match s.portUnmet w (.c entry) r.on with
        | some (m, p) =>
          if s.waitExpired w r && !s.waitHeld w (.c entry) then s.watchFault w (.c entry) r accPort m p else s
        | none => s)

/-! ### Entries that land (R200, R202) -/

/-- The oldest push in transit toward a FIFO, landed. -/
def State.land (s : State) (w : Weave) (p : Port) : State :=
  match s.transits.find? fun t => t.crew = w.crew && t.index = w.index && t.port = p with
  | none => s
  | some t =>
    ({ s with transits := s.transits.erase t } : State).onWeave w.id fun x =>
      x.onPort p fun f => (lanesOf t.lanes).foldl (fun (g : PortFifo) l => g.push l (laneAt t.data l)) f

/-- Whether the oldest push in transit toward a FIFO may land: one that crosses a die edge needs a slot of its partition on the bridge
(R202, R153). -/
def State.mayLand (s : State) (w : Weave) (p : Port) : Bool := p ≠ .d || s.maySend w.partition

def execPortEntryLand (weave : WeaveId) (port : Port) (s : State) : Host.Outcome State Fault Refusal :=
  .next (match s.weave? weave with
    | some w => if s.mayLand w port then s.land w port else s
    | none => s)

/-! ### The split table (R40, R41) -/

/-- The ready fragments, by entry number; while the C-stream is in supervisor mode the handler's alone (R250). -/
def Weave.readyEntries (w : Weave) : List Nat :=
  (List.range 128).filter fun e => (w.entry e).kind = .ready && !(w.entry e).done && (w.cMode = .user || decide (w.cHand = e))

/-- The window of the lowest ready fragment, where no ready fragment lies in the window (R40). -/
def Weave.nextWindow (w : Weave) : Option Nat :=
  if w.readyEntries.any w.inWindow then none else w.readyEntries.head?.map fun e => 16 * (e / 16)

/-- The window moved, if it must, and its entries read in from the split area (R40); those of the old window are written back at the end
of the step. -/
def State.swapWindow (s : State) (w : Weave) : Option State :=
  let t := s.syncSplit w
  w.nextWindow.map fun base => t.onWeave w.id fun x => (t.splitIn x base).withBase base

def execSplitWindowSwap (weave : WeaveId) (s : State) : Host.Outcome State Fault Refusal :=
  .next (((s.weave? weave).bind s.swapWindow).getD s)

/-- Whether a ready fragment is about to issue the instruction at its current join's address (R41): the PC is equal, and lies in the code
object in which the join was made, the handler's or the program's. -/
def Weave.atJoin (w : Weave) (e : Nat) : Bool :=
  (w.entry e).kind = .ready && !(w.entry e).done &&
    (w.entry e).link.any fun j => decide ((w.entry j).addr = (w.entry e).addr) && w.supJoins.getLsbD j == decide (w.cMode = .supervisor)

/-- A fragment at its join parks there. -/
def Weave.parkAtJoin (w : Weave) (e : Nat) : Weave := if w.atJoin e then w.park e else w

def execFragmentPark (weave : WeaveId) (entry : Nat) (s : State) : Host.Outcome State Fault Refusal :=
  .next (match s.weave? weave with
    | some w => if s.issueHeld w (.c entry) || s.maskFlies weave (.c entry) none then s else s.onWeave weave fun x => x.parkAtJoin entry
    | none => s)

/-! ### Data that return (R63, R54, R362) -/

/-- Whether the data of a flight can arrive whole: none is poisoned, and no lane's port went down while it was outstanding (R158). -/
def Flight.arrives (f : Flight) : Bool := f.bad = 0 && f.lost = 0

/-- The result of a load written to its destination; queue entries, the arrays' rows and what is performed at the home have turns of
their own. -/
def State.returnData (s : State) (f : Flight) : State :=
  let write := fun (g : Weave → Weave) => (s.dropFlight f.id).onWeave f.weave g
  match f.dest with
  | .scal d x => write fun w => w.setPhysical f.strand d x
  | .scal2 d e x y => write fun w => (w.setPhysical f.strand d x).setPhysical f.strand e y
  | .lanes d m v => write fun w => w.setLanes d m (laneAt v)
  | .coord d op => if s.coordHeld f.weave op then s else (s.dropFlight f.id).answer f.weave f.strand d op
  | .queue .. | .array .. | .drain .. | .accept _ => s

def execLoadDataReturn (flight : Nat) (s : State) : Host.Outcome State Fault Refusal :=
  .next (match s.flights.find? fun f => f.id = flight with
    | some f => if f.arrives then s.returnData f else s
    | none => s)

/-- The data of a reserved entry in all its lanes (R54). -/
def State.fillEntry (s : State) (f : Flight) : State :=
  match f.dest with
  | .queue q ticket v => (s.dropFlight f.id).onWeave f.weave fun w =>
      w.onQueue q fun u => u.onEntry ticket fun e => { e with data := .vector v, complete := true }
  | _ => s

def execQueueEntryComplete (flight : Nat) (s : State) : Host.Outcome State Fault Refusal :=
  .next (match s.flights.find? fun f => f.id = flight with
    | some f => if f.arrives then s.fillEntry f else s
    | none => s)

/-! ### Data that fail -/

/-- The lanes of a flight that are lost and whose port's timeout has run out (R158). -/
def State.overdueLanes (s : State) (f : Flight) : LaneMask :=
  (List.range 4).foldl (fun (m : LaneMask) p => if s.overdue f p then m ||| (f.lost &&& f.lanesOn p) else m) 0

/-- The failure of a flight: of poisoned data, or of a port that is down. -/
def execDataFailure (flight : Nat) (poisoned : Bool) (lanes : LaneMask) (s : State) : Host.Outcome State Fault Refusal :=
  .next (match s.flights.find? fun f => f.id = flight with
    | none => s
    | some f =>
      let m := if poisoned then f.bad else s.overdueLanes f
      if lanes = 0 || m ≠ lanes || s.faultHeld f m then s else s.dataFault f (if poisoned then .dataUe else .farUnavail) m)

end Sys2Proof.Machine
end

