-- ==== Sys2Proof/Machine/Fetch.lean ====
section
/-! DEFINITION. Instruction fetch (R27, R89 to R91, R110, R250), prefixes (R99, R105 steps 1, 3 and 4), what keeps a decoded
instruction from issuing (R63), and the choice of a fragment (R43). -/

namespace Sys2Proof

/-- Whether a word can follow a prefix: a 32-bit word of a class in R96 (R105 step 4). -/
def InstrWord.takesPrefix (x : InstrWord) : Bool :=
  match x with
  | .short _ => false
  | .long v => ((decodeLong v).bind Instr.accessClass).isSome

/-- The instructions that act as a release, or hand on what the stream has done: they follow every access of the stream that has
issued (R165, R166, R169 to R173, R181, R186). -/
def Instr.publishes (i : Instr) : Bool :=
  match i with
  | .launch .. | .qpush .. | .ldq .. | .gthq .. | .fence .. | .acqp .. | .bar .. | .bara .. | .binit ..
  | .waitv .. | .bopen .. | .bjoin .. | .bclose .. | .babort .. | .bview .. | .brel .. | .bpin .. | .mload .. | .mmac .. | .mread ..
  | .msave .. | .mrstr .. | .mgang | .objmap .. | .objunmap .. | .mapgen .. | .inval .. | .preempt .. | .savespl | .rstspl .. => true
  | _ => false

/-- The instructions whose request always goes to a home beyond the core: a controlling slice, a bundle's coordinator, the frame pool, the
object table, a launch queue's ring, the context object. They wait for a slot of their partition (R153). -/
def Instr.asksHome (i : Instr) : Bool :=
  match i with
  | .layq .. | .laypin .. | .layadv .. | .bopen .. | .bjoin .. | .bclose .. | .babort .. | .bview .. | .brel .. | .bpin .. | .bstat ..
  | .objmap .. | .objunmap .. | .objq .. | .launch .. | .savespl | .rstspl .. => true
  | _ => false

/-- The instructions that read objects or descriptors in scratchpad: they follow the accesses of scratchpad of their stream (R163). -/
def Instr.readsSpad (i : Instr) : Bool :=
  match i with
  | .wait .. | .yield .. | .tcopy .. | .tcopys .. | .nmx .. | .scan .. | .ckpt .. | .cred .. | .cbcst .. => true
  | _ => false

end Sys2Proof

namespace Sys2Proof.Machine

/-! ### Fetch -/

/-- Where a strand fetches: the code object, the byte at which PC 0 lies, and where the segment ends before the object's
end (R27, R89); in supervisor mode the whole handler code object (R250). -/
structure Segment where
  object : Nat
  base : Nat
  stop : Option Nat
deriving DecidableEq, Repr, Inhabited

/-- The segment of a strand. -/
def State.segment (s : State) (w : Weave) (st : Strand) : Segment :=
  match w.mode st with
  | .supervisor => ⟨bits w.hndlr.toNat 32 32, 0, none⟩
  | .user =>
    let r := (((s.crew? w.crew).bind s.launchOf).map (·.record)).getD default
    match st with
    | .a => ⟨r.code, 0, some r.cseg⟩
    | .c _ => ⟨r.code, r.cseg, none⟩

/-- A byte as its home has it: in a tracked copy that holds it dirty, else in memory (log 19). -/
def State.newest (s : State) (a : Nat) : Byte :=
  match (s.tracked (lineOf a)).find? fun c => c.dirty.getLsbD (a % 128) with
  | some c => c.data.getD (a % 128) 0
  | none => s.memByte a

/-- A halfword as its home has it. -/
def State.newestHalf (s : State) (a : Nat) : BitVec 16 := s.newest (a + 1) ++ s.newest a

/-- The values that a halfword has: as it stands at its home and, for each L1 that keeps bytes of it dirty, as its core has written it
(R91; log 19). -/
def State.codeValues (s : State) (a : Nat) : List (BitVec 16) :=
  distinct (s.newestHalf a :: (s.caches.filter fun c => c.state = .plain && c.line = lineOf a &&
      (c.dirty.getLsbD (a % 128) || c.dirty.getLsbD (a % 128 + 1))).map fun c =>
    let b := fun (i : Nat) => if c.dirty.getLsbD ((a + i) % 128) then c.data.getD ((a + i) % 128) 0 else s.newest (a + i)
    b 1 ++ b 0)

/-- Whether a line lies in the code object of a launch of which a crew is resident (R91). -/
def State.codeLine (s : State) (line : Nat) : Bool :=
  s.crews.any fun c => c.state ≠ .saved && match s.launchOf c with
    | none => false
    | some l =>
      match s.objDesc l.part l.record.code with
      | none => false
      | some d => (List.range d.frames).any fun f =>
          let x := s.extWord d f
          let base := lineOf (frameAddr (extFar x) (extFrame x) 0)
          extPresent x && decide (base ≤ line) && decide (line < base + 512)

/-- The lines in which two memories differ; n bounds the cells of both. -/
def cellLines : Nat → List Host.Cell → List Host.Cell → List Nat
  | 0, _, _ => []
  | _, [], ys => ys.map fun y => lineOf y.1
  | _, xs, [] => xs.map fun x => lineOf x.1
  | n + 1, x :: xs, y :: ys =>
    if x.1 < y.1 then lineOf x.1 :: cellLines n xs (y :: ys)
    else if y.1 < x.1 then lineOf y.1 :: cellLines n (x :: xs) ys
    else if x.2 = y.2 then cellLines n xs ys
    else lineOf x.1 :: cellLines n xs ys

/-- The lines whose newest bytes may differ in two states: those of changed cells, and those of copies that changed. -/
def State.changedLines (before s : State) : List Nat :=
  distinct (cellLines (before.mem.length + s.mem.length) before.mem s.mem ++
    ((s.caches.filter fun c => c.dirty ≠ 0 && !before.caches.contains c) ++
      before.caches.filter fun c => c.dirty ≠ 0 && !s.caches.contains c).map (·.line))

/-- What the code of resident launches held before a write is kept, halfword by halfword, at the end of the step that writes it: each
fetch afterwards may bring it (R91). It goes when the halfword is written while no crew of the launch is resident. -/
def State.keepCode (s before : State) : State :=
  if s.crews.isEmpty && s.codeWas.isEmpty then s
  else
    let lines := before.changedLines s
    let gone := fun (a : Nat) => (before.codeValues a).filter fun v => !(s.codeValues a).contains v
    let was := (lines.filter s.codeLine).flatMap fun n => (List.range 64).flatMap fun k =>
      (gone (128 * n + 2 * k)).map fun v => (128 * n + 2 * k, v)
    let stays := s.codeWas.filter fun x => s.codeLine (lineOf x.1) || !(lines.contains (lineOf x.1) && !(gone x.1).isEmpty)
    { s with codeWas := was ++ stays }

/-- The halfword that a fetch brings: one of the values that it has, or that it had before a write while crews of the launch were
resident, as each fetch chooses afresh (R91; log 19). -/
def State.codeHalf (s : State) (a : Nat) : BitVec 16 :=
  match (s.codeValues a).tail ++ (s.codeWas.filter fun x => x.1 = a).map (·.2) with
  | [] => s.newestHalf a
  | h :: r => (s.newestHalf a :: h :: r).getD ((Config.freeDWord s.tick a).toNat % (r.length + 2)) 0

/-- The halfword at a PC of a segment, or the cause of the fetch's fault (R90, R110). -/
def State.half (s : State) (part : Nat) (g : Segment) (pc : Nat) : Except Cause (BitVec 16) :=
  let o := g.base + pc
  let d? := s.objDesc part g.object
  match s.checkAt none part g.object d? .fetch 2 (g.stop.any fun e => decide (e < o + 2)) o with
  | some x => .error x.2
  | none =>
    match d? with
    | none => .error .objBound
    | some d =>
      let ps := s.placesAt none part g.object d o 2
      if ps.any s.placeDown then .error .farUnavail
      else if ps.any s.poisoned then .error .dataUe
      else .ok (s.codeHalf ((ps.head?.map (·.home)).getD 0))

/-- The word at a PC of a segment (R89). -/
def State.wordAt (s : State) (part : Nat) (g : Segment) (pc : Nat) : Except Cause InstrWord :=
  match s.half part g pc with
  | .error c => .error c
  | .ok lo =>
    if lo.getLsbD 0 then
      match s.half part g (pc + 2) with
      | .error c => .error c
      | .ok hi => .ok (.long (hi ++ lo))
    else .ok (.short lo)

/-- The word that a strand fetches at a PC. -/
def State.fetch (s : State) (w : Weave) (st : Strand) (pc : Nat) : Except Cause InstrWord :=
  s.wordAt w.partition (s.segment w st) pc

/-- Whether the fetch of a word at a PC waits for a slot of the partition (R153): a core's caches hold its line in no copy. A fetch that
fails its checks sends nothing. -/
def State.fetchHeld (s : State) (w : Weave) (st : Strand) (pc : Nat) : Bool :=
  let g := s.segment w st
  !s.maySend w.partition && (match s.fetch w st pc, s.objDesc w.partition g.object with
    | .ok x, some d => (s.placesAt none w.partition g.object d (g.base + pc) x.bytes).any (s.sends w.id.core)
    | _, _ => false)

/-- The fault of a fetch: the record names the acting PC and the code object (R90, R248); `off` is the PC fetched. -/
def State.fetchInfo (s : State) (w : Weave) (c : Cause) (off : Nat) : FaultInfo :=
  let g := s.segment w s.cur.strand
  { s.info w c accFetch with object := BitVec.ofNat 32 g.object, place := BitVec.ofNat 128 ((g.base + off) % 2 ^ 48) }

/-- The acting strand vectored for a fault. -/
def State.vectorMe (s : State) (i : FaultInfo) : State := s.vector s.cur.weave s.cur.strand i

/-! ### Prefixes (R99, R105) -/

/-- A prefix: its own checks and those of its successor's fetch and class; then its attributes stand for the successor, at
the prefix's PC and with the pair's length. `ok` says that the word's own bits are as they must be (R105 step 3). -/
def State.pairUp (s : State) (w : Weave) (a? : Option Attrs) : State :=
  match s.fetch w s.cur.strand (s.cur.pc.toNat + 4) with
  | .error c => s.vectorMe (s.fetchInfo w c (s.cur.pc.toNat + 4))
  | .ok x =>
    match a? with
    | none => s.vectorMe (s.info w .illegal accOther)
    | some a =>
      if x.takesPrefix then { s with cur := { s.cur with bytes := 8, attrs := some a } }
      else s.vectorMe (s.info w .prefixMisuse accOther)

def execPrefixWord (v b : BitVec 1) (c s' p o : BitVec 3) (s : State) : Host.Outcome State Fault Refusal :=
  match s.weave? s.cur.weave with
  | none => .fault .noIssuer
  | some w => .next (s.pairUp w (prefixAttrs v b c s' p o))

/-! ### The scoreboard (R63) -/

/-- The lane registers that an indexed access may name (R51, R52). -/
def Weave.reach (w : Weave) (x : BitVec 2) : List Nat :=
  let r := w.xreg x.toNat
  (List.range (Nat.min r.bound.toNat w.nregs)).filter fun n => decide (r.base.toNat ≤ n)

/-- The registers that an instruction reads or writes, the indexed ones included. -/
def Weave.touched (w : Weave) (st : Strand) (i : Instr) : List Nat × List Nat :=
  let ops := i.operands st.stream
  let scalars := ops.filterMap fun o => match o with
    | .scal n => if n = 0 then none else some (w.physical st n)
    | _ => none
  let lanes := ops.filterMap fun o => match o with
    | .lane n => some n
    | _ => none
  let more := match i with
    | .vldx x .. => w.reach x
    | .vstx _ _ _ x => w.reach x
    | _ => []
  (scalars, lanes ++ more)

/-- The registers, scalar and lane, that results not yet written of a stream will write. -/
def State.awaited (s : State) (id : WeaveId) (st : Stream) : List Nat × List Nat :=
  let fs := s.flights.filter fun f => f.weave = id && f.strand.stream = st
  let ps := s.pending.filter fun p => p.issuer.weave = id && p.issuer.strand.stream = st
  (fs.flatMap (·.dest.scalars) ++ ps.flatMap (·.dests.1), fs.flatMap (·.dest.lanes') ++ ps.flatMap (·.dests.2))

/-- Whether an instruction waits until every access of its stream has been performed: one that publishes, or an access that releases
(R165); one that reads scratchpad waits for those of scratchpad. -/
def State.awaitsAccesses (s : State) (w : Weave) (st : Strand) (i : Instr) : Bool :=
  let mine := s.pending.filter fun p => p.issuer.weave = w.id && p.issuer.strand.stream = st.stream
  (!mine.isEmpty && (i.publishes || ((s.attrs? i w).any fun a => releases a.order || a.bundle))) ||
    (i.readsSpad && mine.any fun p => p.req.space = .spd)

/-- Whether an instruction waits for a result of its stream: one for a register that it names, one for the execution mask, under which
every instruction of the C-stream issues (R63, R64), or the accesses that it follows. -/
def State.scoreboarded (s : State) (w : Weave) (st : Strand) (i : Instr) : Bool :=
  let r := w.touched st i
  let late := s.awaited w.id st.stream
  late.1.any r.1.contains || late.2.any r.2.contains || late.1.any (isMask st.stream) || s.awaitsAccesses w st i

/-- The major of an instruction; a 16-bit word stands for a word of major 10, 13 or 14 (R100). -/
def majorOf (i : Instr) : Nat :=
  match encode i with
  | some (.long v) => v.toNat / 2 % 32
  | some (.short _) => 10
  | none => 0

/-- Whether an instruction issues on the core's vector pipes: lane integer, float, conversion, rearrangement and immediate words (R245). -/
def onVectorPipe (i : Instr) : Bool :=
  let m := majorOf i
  (10 ≤ m && m ≤ 15) || (17 ≤ m && m ≤ 19)

/-- Whether an instruction issues on the special-function pipe (R245, R326). -/
def onSfuPipe (i : Instr) : Bool := majorOf i = 16

/-- Whether the pipe that a turn's instruction needs is busy in that cc, and the turn is skipped (R245). Cycles are not modelled (log 7):
it may be busy, by a free choice, after two grants in a row to the two vector pipes, and in the twelve cc of a special-function word. -/
def State.pipeBusy (s : State) (id : WeaveId) (st : Strand) (i : Instr) : Bool :=
  let k := s.coreStates.toList.getD id.core CoreState.reset
  st.stream = .c && ((onVectorPipe i && decide (2 ≤ k.vectorRun)) || (onSfuPipe i && decide (0 < k.sfuTurns))) &&
    Config.freeBool s.tick (1024 + 16 * id.core + id.slot)

/-- A grant of the C front end noted for the pipes. -/
def State.notePipe (s : State) (id : WeaveId) (st : Strand) (i : Instr) : State :=
  match st with
  | .a => s
  | .c _ => s.onCore id.core fun k => { k with
      vectorRun := if onVectorPipe i then Nat.min 2 (k.vectorRun + 1) else 0
      sfuTurns := if onSfuPipe i then 11 else k.sfuTurns - 1 }

/-- What holds a strand whatever it would issue next: a store or atomic that awaits its home's acceptance or is to be performed after it
(R362), an ACQP of its stream on its way (R278), a BCLOSE that the coordinator has not counted
(R292), a line refused less than 32 cc ago (R151). -/
def State.strandBusy (s : State) (id : WeaveId) (st : Strand) : Bool :=
  (s.flights.any fun f => f.weave = id && (match f.dest with
    | .accept _ => decide (f.strand = st) && s.pending.any fun p => decide (p.id = f.id) && decide (p.req.need ≠ .read)
    | .coord _ .bclose => decide (f.strand.stream = st.stream)
    | .drain .. => decide (f.strand.stream = st.stream)
    | _ => false)) ||
  s.retries.any fun r => r.weave = id && r.strand = st && !r.ready

/-! ### What may issue (R21, R43, R250, R260) -/

/-- Whether a strand may be granted a turn: it runs, it does not wait, and nothing holds it. -/
def State.mayIssue (s : State) (w : Weave) (st : Strand) : Bool :=
  !s.issueHeld w st && !s.strandBusy w.id st &&
    match st with
    | .a => !w.aEnded && w.aWait.isNone
    | .c e => (w.entry e).kind = .ready && !(w.entry e).done && w.inWindow e && (w.cMode = .user || decide (w.cHand = e))

/-- The fragments among which a turn chooses, in the order of R43: the taken fragment of a split alone, while it is ready in the window
(R39); else by entry number from the one after the entry that issued last, wrapping at the end of the window. -/
def Weave.rotation (w : Weave) : List Nat :=
  match w.takenFirst.filter fun e => w.readyEntries.contains e && w.inWindow e with
  | some e => [e]
  | none =>
    let es := (List.range 16).map (w.splitBase + ·)
    (es.filter fun e => decide (w.lastEntry < e)) ++ es.filter fun e => decide (e ≤ w.lastEntry)

/-- The strands of a stream in the order in which a turn tries them. -/
def Weave.strands (w : Weave) : Stream → List Strand
  | .a => [.a]
  | .c => w.rotation.map .c

/-- The strand's turn noted, for the choice of the next fragment (R43). Any fragment's turn ends the taken fragment's claim to the next
one, a handler's turn too (DESIGN CHOICE, log 65). -/
def Weave.noteIssue (w : Weave) : Strand → Weave
  | .a => w
  | .c e => { w with lastEntry := e, takenFirst := none }

/-- The strand about to issue, at its PC, with a word of n bytes; the turn says when its access is performed. -/
def State.atIssue (s : State) (w : Weave) (st : Strand) (n : Nat) : State :=
  { s with cur := ⟨w.id, st, w.pc st, n, none, s.cur.moment⟩ }

/-- When the accesses of the acting instruction are performed. -/
def State.atMoment (s : State) (m : Moment) : State := { s with cur := { s.cur with moment := m } }

/-- The first check of steps 5 to 8 of R105 that a word fails whose must-be-zero bits are not all zero. -/
def reservedFault (i : Instr) (w : Weave) (st : Strand) : Cause :=
  if !i.streams.allows st.stream then .stream
  else if i.supervisorOnly && w.mode st = .user then .priv
  else .illegal

end Sys2Proof.Machine
end

