-- ==== Sys2Proof/Machine/Dispatch.lean ====
section
/-! DEFINITION. One arm for each instruction and event: a direct call of its meaning. -/

namespace Sys2Proof.Machine

def exec (i : Instr) (s : State) : Host.Outcome State Fault Refusal :=
  match i with
  | .add b a d => Sys2Proof.Machine.execAdd b a d s
  | .sub b a d => Sys2Proof.Machine.execSub b a d s
  | .mul b a d => Sys2Proof.Machine.execMul b a d s
  | .mulh b a d => Sys2Proof.Machine.execMulh b a d s
  | .divu b a d => Sys2Proof.Machine.execDivu b a d s
  | .remu b a d => Sys2Proof.Machine.execRemu b a d s
  | .and b a d => Sys2Proof.Machine.execAnd b a d s
  | .or b a d => Sys2Proof.Machine.execOr b a d s
  | .xor b a d => Sys2Proof.Machine.execXor b a d s
  | .shl b a d => Sys2Proof.Machine.execShl b a d s
  | .shr b a d => Sys2Proof.Machine.execShr b a d s
  | .sar b a d => Sys2Proof.Machine.execSar b a d s
  | .slt b a d => Sys2Proof.Machine.execSlt b a d s
  | .sltu b a d => Sys2Proof.Machine.execSltu b a d s
  | .min b a d => Sys2Proof.Machine.execMin b a d s
  | .max b a d => Sys2Proof.Machine.execMax b a d s
  | .addi i1 a d => Sys2Proof.Machine.execAddi i1 a d s
  | .andi i1 a d => Sys2Proof.Machine.execAndi i1 a d s
  | .ori i1 a d => Sys2Proof.Machine.execOri i1 a d s
  | .xori i1 a d => Sys2Proof.Machine.execXori i1 a d s
  | .shli i1 a d => Sys2Proof.Machine.execShli i1 a d s
  | .shri i1 a d => Sys2Proof.Machine.execShri i1 a d s
  | .sari i1 a d => Sys2Proof.Machine.execSari i1 a d s
  | .slti i1 a d => Sys2Proof.Machine.execSlti i1 a d s
  | .clz a d => Sys2Proof.Machine.execClz a d s
  | .popc a d => Sys2Proof.Machine.execPopc a d s
  | .sel b a d => Sys2Proof.Machine.execSel b a d s
  | .mfc c d => Sys2Proof.Machine.execMfc c d s
  | .mtc a c => Sys2Proof.Machine.execMtc a c s
  | .clock s1 d => Sys2Proof.Machine.execClock s1 d s
  | .pgq a d => Sys2Proof.Machine.execPgq a d s
  | .movi i1 d => Sys2Proof.Machine.execMovi i1 d s
  | .movk p v d => Sys2Proof.Machine.execMovk p v d s
  | .bra o => Sys2Proof.Machine.execBra o s
  | .call o => Sys2Proof.Machine.execCall o s
  | .bcc o c b a => Sys2Proof.Machine.execBcc o c b a s
  | .jmpr a d => Sys2Proof.Machine.execJmpr a d s
  | .yield o d => Sys2Proof.Machine.execYield o d s
  | .wait d => Sys2Proof.Machine.execWait d s
  | .trap c => Sys2Proof.Machine.execTrap c s
  | .brv o s1 p => Sys2Proof.Machine.execBrv o s1 p s
  | .join o => Sys2Proof.Machine.execJoin o s
  | .vote k p d => Sys2Proof.Machine.execVote k p d s
  | .launch b a d => Sys2Proof.Machine.execLaunch b a d s
  | .vadd p b a d => Sys2Proof.Machine.execVadd p b a d s
  | .vsub p b a d => Sys2Proof.Machine.execVsub p b a d s
  | .vmul p b a d => Sys2Proof.Machine.execVmul p b a d s
  | .vmulh p b a d => Sys2Proof.Machine.execVmulh p b a d s
  | .vmulhu p b a d => Sys2Proof.Machine.execVmulhu p b a d s
  | .vmad p b a d => Sys2Proof.Machine.execVmad p b a d s
  | .vand p b a d => Sys2Proof.Machine.execVand p b a d s
  | .vor p b a d => Sys2Proof.Machine.execVor p b a d s
  | .vxor p b a d => Sys2Proof.Machine.execVxor p b a d s
  | .vshl p b a d => Sys2Proof.Machine.execVshl p b a d s
  | .vshr p b a d => Sys2Proof.Machine.execVshr p b a d s
  | .vsar p b a d => Sys2Proof.Machine.execVsar p b a d s
  | .vmin p b a d => Sys2Proof.Machine.execVmin p b a d s
  | .vmax p b a d => Sys2Proof.Machine.execVmax p b a d s
  | .vadds p b a d => Sys2Proof.Machine.execVadds p b a d s
  | .vsubs p b a d => Sys2Proof.Machine.execVsubs p b a d s
  | .vaddI16 p b a d => Sys2Proof.Machine.execVaddI16 p b a d s
  | .vsubI16 p b a d => Sys2Proof.Machine.execVsubI16 p b a d s
  | .vmulI16 p b a d => Sys2Proof.Machine.execVmulI16 p b a d s
  | .vmulhI16 p b a d => Sys2Proof.Machine.execVmulhI16 p b a d s
  | .vmulhuI16 p b a d => Sys2Proof.Machine.execVmulhuI16 p b a d s
  | .vmadI16 p b a d => Sys2Proof.Machine.execVmadI16 p b a d s
  | .vandI16 p b a d => Sys2Proof.Machine.execVandI16 p b a d s
  | .vorI16 p b a d => Sys2Proof.Machine.execVorI16 p b a d s
  | .vxorI16 p b a d => Sys2Proof.Machine.execVxorI16 p b a d s
  | .vshlI16 p b a d => Sys2Proof.Machine.execVshlI16 p b a d s
  | .vshrI16 p b a d => Sys2Proof.Machine.execVshrI16 p b a d s
  | .vsarI16 p b a d => Sys2Proof.Machine.execVsarI16 p b a d s
  | .vminI16 p b a d => Sys2Proof.Machine.execVminI16 p b a d s
  | .vmaxI16 p b a d => Sys2Proof.Machine.execVmaxI16 p b a d s
  | .vaddsI16 p b a d => Sys2Proof.Machine.execVaddsI16 p b a d s
  | .vsubsI16 p b a d => Sys2Proof.Machine.execVsubsI16 p b a d s
  | .vaddI8 p b a d => Sys2Proof.Machine.execVaddI8 p b a d s
  | .vsubI8 p b a d => Sys2Proof.Machine.execVsubI8 p b a d s
  | .vmulI8 p b a d => Sys2Proof.Machine.execVmulI8 p b a d s
  | .vmulhI8 p b a d => Sys2Proof.Machine.execVmulhI8 p b a d s
  | .vmulhuI8 p b a d => Sys2Proof.Machine.execVmulhuI8 p b a d s
  | .vmadI8 p b a d => Sys2Proof.Machine.execVmadI8 p b a d s
  | .vandI8 p b a d => Sys2Proof.Machine.execVandI8 p b a d s
  | .vorI8 p b a d => Sys2Proof.Machine.execVorI8 p b a d s
  | .vxorI8 p b a d => Sys2Proof.Machine.execVxorI8 p b a d s
  | .vshlI8 p b a d => Sys2Proof.Machine.execVshlI8 p b a d s
  | .vshrI8 p b a d => Sys2Proof.Machine.execVshrI8 p b a d s
  | .vsarI8 p b a d => Sys2Proof.Machine.execVsarI8 p b a d s
  | .vminI8 p b a d => Sys2Proof.Machine.execVminI8 p b a d s
  | .vmaxI8 p b a d => Sys2Proof.Machine.execVmaxI8 p b a d s
  | .vaddsI8 p b a d => Sys2Proof.Machine.execVaddsI8 p b a d s
  | .vsubsI8 p b a d => Sys2Proof.Machine.execVsubsI8 p b a d s
  | .vcmp p b a c k => Sys2Proof.Machine.execVcmp p b a c k s
  | .vsel p b k d => Sys2Proof.Machine.execVsel p b k d s
  | .vabs p b d => Sys2Proof.Machine.execVabs p b d s
  | .vclz p b d => Sys2Proof.Machine.execVclz p b d s
  | .vpopc p b d => Sys2Proof.Machine.execVpopc p b d s
  | .vdot4 p b a d => Sys2Proof.Machine.execVdot4 p b a d s
  | .vmov p b d => Sys2Proof.Machine.execVmov p b d s
  | .vext p b s1 w i1 d => Sys2Proof.Machine.execVext p b s1 w i1 d s
  | .vins p b w i1 d => Sys2Proof.Machine.execVins p b w i1 d s
  | .vbcst a d => Sys2Proof.Machine.execVbcst a d s
  | .vminu p b a d => Sys2Proof.Machine.execVminu p b a d s
  | .vmaxu p b a d => Sys2Proof.Machine.execVmaxu p b a d s
  | .fadd p b a d => Sys2Proof.Machine.execFadd p b a d s
  | .fsub p b a d => Sys2Proof.Machine.execFsub p b a d s
  | .fmul p b a d => Sys2Proof.Machine.execFmul p b a d s
  | .fma p b a d => Sys2Proof.Machine.execFma p b a d s
  | .fnma p b a d => Sys2Proof.Machine.execFnma p b a d s
  | .fmin p b a d => Sys2Proof.Machine.execFmin p b a d s
  | .fmax p b a d => Sys2Proof.Machine.execFmax p b a d s
  | .fcmp p b a c k => Sys2Proof.Machine.execFcmp p b a c k s
  | .fabs p b d => Sys2Proof.Machine.execFabs p b d s
  | .fneg p b d => Sys2Proof.Machine.execFneg p b d s
  | .fsign p b a d => Sys2Proof.Machine.execFsign p b a d s
  | .fscale p b a d => Sys2Proof.Machine.execFscale p b a d s
  | .frnd p b m d => Sys2Proof.Machine.execFrnd p b m d s
  | .fclass p b d => Sys2Proof.Machine.execFclass p b d s
  | .faddF16 p b a d => Sys2Proof.Machine.execFaddF16 p b a d s
  | .fsubF16 p b a d => Sys2Proof.Machine.execFsubF16 p b a d s
  | .fmulF16 p b a d => Sys2Proof.Machine.execFmulF16 p b a d s
  | .fmaF16 p b a d => Sys2Proof.Machine.execFmaF16 p b a d s
  | .fminF16 p b a d => Sys2Proof.Machine.execFminF16 p b a d s
  | .fmaxF16 p b a d => Sys2Proof.Machine.execFmaxF16 p b a d s
  | .fcmpF16 p b a c k => Sys2Proof.Machine.execFcmpF16 p b a c k s
  | .fdot2F16 p b a d => Sys2Proof.Machine.execFdot2F16 p b a d s
  | .faddBf16 p b a d => Sys2Proof.Machine.execFaddBf16 p b a d s
  | .fsubBf16 p b a d => Sys2Proof.Machine.execFsubBf16 p b a d s
  | .fmulBf16 p b a d => Sys2Proof.Machine.execFmulBf16 p b a d s
  | .fmaBf16 p b a d => Sys2Proof.Machine.execFmaBf16 p b a d s
  | .fminBf16 p b a d => Sys2Proof.Machine.execFminBf16 p b a d s
  | .fmaxBf16 p b a d => Sys2Proof.Machine.execFmaxBf16 p b a d s
  | .fcmpBf16 p b a c k => Sys2Proof.Machine.execFcmpBf16 p b a c k s
  | .fdot2Bf16 p b a d => Sys2Proof.Machine.execFdot2Bf16 p b a d s
  | .frcp p b d => Sys2Proof.Machine.execFrcp p b d s
  | .frsq p b d => Sys2Proof.Machine.execFrsq p b d s
  | .fsqrt p b d => Sys2Proof.Machine.execFsqrt p b d s
  | .fdiv p b a d => Sys2Proof.Machine.execFdiv p b a d s
  | .fexp2 p b d => Sys2Proof.Machine.execFexp2 p b d s
  | .flog2 p b d => Sys2Proof.Machine.execFlog2 p b d s
  | .fsin p b d => Sys2Proof.Machine.execFsin p b d s
  | .fcos p b d => Sys2Proof.Machine.execFcos p b d s
  | .ftanh p b d => Sys2Proof.Machine.execFtanh p b d s
  | .fcvt s1 t j a d => Sys2Proof.Machine.execFcvt s1 t j a d s
  | .qblk k b a d => Sys2Proof.Machine.execQblk k b a d s
  | .dqblk k b a d => Sys2Proof.Machine.execDqblk k b a d s
  | .zipW2 a d => Sys2Proof.Machine.execZipW2 a d s
  | .zipW3 a d => Sys2Proof.Machine.execZipW3 a d s
  | .zipW4 a d => Sys2Proof.Machine.execZipW4 a d s
  | .unzipW2 a d => Sys2Proof.Machine.execUnzipW2 a d s
  | .unzipW3 a d => Sys2Proof.Machine.execUnzipW3 a d s
  | .unzipW4 a d => Sys2Proof.Machine.execUnzipW4 a d s
  | .vperm p b a d => Sys2Proof.Machine.execVperm p b a d s
  | .vred k o a d => Sys2Proof.Machine.execVred k o a d s
  | .vscan k o a d => Sys2Proof.Machine.execVscan k o a d s
  | .vcmpr k a d => Sys2Proof.Machine.execVcmpr k a d s
  | .vaddi i1 a d => Sys2Proof.Machine.execVaddi i1 a d s
  | .vandi i1 a d => Sys2Proof.Machine.execVandi i1 a d s
  | .vori i1 a d => Sys2Proof.Machine.execVori i1 a d s
  | .vxori i1 a d => Sys2Proof.Machine.execVxori i1 a d s
  | .vshli i1 a d => Sys2Proof.Machine.execVshli i1 a d s
  | .vshri i1 a d => Sys2Proof.Machine.execVshri i1 a d s
  | .vsari i1 a d => Sys2Proof.Machine.execVsari i1 a d s
  | .vmovi i1 d => Sys2Proof.Machine.execVmovi i1 d s
  | .vcmpi i1 a c k => Sys2Proof.Machine.execVcmpi i1 a c k s
  | .vldx x a d => Sys2Proof.Machine.execVldx x a d s
  | .vstx p b a x => Sys2Proof.Machine.execVstx p b a x s
  | .setx a x => Sys2Proof.Machine.execSetx a x s
  | .qpush a k q => Sys2Proof.Machine.execQpush a k q s
  | .qpop k q d => Sys2Proof.Machine.execQpop k q d s
  | .qpeek k q d => Sys2Proof.Machine.execQpeek k q d s
  | .qstat q d => Sys2Proof.Machine.execQstat q d s
  | .npush p b n => Sys2Proof.Machine.execNpush p b n s
  | .npop n d => Sys2Proof.Machine.execNpop n d s
  | .npeek n d => Sys2Proof.Machine.execNpeek n d s
  | .npoll n k p => Sys2Proof.Machine.execNpoll n k p s
  | .nsave n a => Sys2Proof.Machine.execNsave n a s
  | .nload n a => Sys2Proof.Machine.execNload n a s
  | .xshuf a d => Sys2Proof.Machine.execXshuf a d s
  | .lds f w e c h d => Sys2Proof.Machine.execLds f w e c h d s
  | .sts f w c h d => Sys2Proof.Machine.execSts f w c h d s
  | .ldc f c h d => Sys2Proof.Machine.execLdc f c h d s
  | .stc f c h d => Sys2Proof.Machine.execStc f c h d s
  | .ldq f w e c h q => Sys2Proof.Machine.execLdq f w e c h q s
  | .stq f w c h q => Sys2Proof.Machine.execStq f w c h q s
  | .pref f c h => Sys2Proof.Machine.execPref f c h s
  | .vld f w e c h d => Sys2Proof.Machine.execVld f w e c h d s
  | .vst f w c h d => Sys2Proof.Machine.execVst f w c h d s
  | .sld f w e c h d => Sys2Proof.Machine.execSld f w e c h d s
  | .sst f w c h d => Sys2Proof.Machine.execSst f w c h d s
  | .gthq w s1 c b a i1 q => Sys2Proof.Machine.execGthq w s1 c b a i1 q s
  | .sctq w s1 c b a i1 q => Sys2Proof.Machine.execSctq w s1 c b a i1 q s
  | .vgth w s1 c b a d => Sys2Proof.Machine.execVgth w s1 c b a d s
  | .vsct w s1 c b a d => Sys2Proof.Machine.execVsct w s1 c b a d s
  | .amo o w b a d => Sys2Proof.Machine.execAmo o w b a d s
  | .vamo o b a d => Sys2Proof.Machine.execVamo o b a d s
  | .cas w b a d => Sys2Proof.Machine.execCas w b a d s
  | .vcas b a d => Sys2Proof.Machine.execVcas b a d s
  | .fence s1 o => Sys2Proof.Machine.execFence s1 o s
  | .acqp a s1 => Sys2Proof.Machine.execAcqp a s1 s
  | .bar d => Sys2Proof.Machine.execBar d s
  | .binit a d => Sys2Proof.Machine.execBinit a d s
  | .bara d => Sys2Proof.Machine.execBara d s
  | .barw d => Sys2Proof.Machine.execBarw d s
  | .waitv b a d => Sys2Proof.Machine.execWaitv b a d s
  | .bopen b a d => Sys2Proof.Machine.execBopen b a d s
  | .bjoin a d => Sys2Proof.Machine.execBjoin a d s
  | .bclose d => Sys2Proof.Machine.execBclose d s
  | .babort a => Sys2Proof.Machine.execBabort a s
  | .bview a d => Sys2Proof.Machine.execBview a d s
  | .brel a => Sys2Proof.Machine.execBrel a s
  | .bstat a d => Sys2Proof.Machine.execBstat a d s
  | .bpin a d => Sys2Proof.Machine.execBpin a d s
  | .layq b a d => Sys2Proof.Machine.execLayq b a d s
  | .laypin b a d => Sys2Proof.Machine.execLaypin b a d s
  | .layadv b a d => Sys2Proof.Machine.execLayadv b a d s
  | .mload k b a d => Sys2Proof.Machine.execMload k b a d s
  | .mmac e b a d => Sys2Proof.Machine.execMmac e b a d s
  | .mread p a d => Sys2Proof.Machine.execMread p a d s
  | .msave a => Sys2Proof.Machine.execMsave a s
  | .mrstr a => Sys2Proof.Machine.execMrstr a s
  | .tcopy l k x a d => Sys2Proof.Machine.execTcopy l k x a d s
  | .tcopys x a d => Sys2Proof.Machine.execTcopys x a d s
  | .nmx o a d => Sys2Proof.Machine.execNmx o a d s
  | .scan c a d => Sys2Proof.Machine.execScan c a d s
  | .ckpt a d => Sys2Proof.Machine.execCkpt a d s
  | .cred o a d => Sys2Proof.Machine.execCred o a d s
  | .cbcst a d => Sys2Proof.Machine.execCbcst a d s
  | .objmap b a d => Sys2Proof.Machine.execObjmap b a d s
  | .objunmap b a d => Sys2Proof.Machine.execObjunmap b a d s
  | .objq b a d => Sys2Proof.Machine.execObjq b a d s
  | .mapgen b a d => Sys2Proof.Machine.execMapgen b a d s
  | .inval b a => Sys2Proof.Machine.execInval b a s
  | .rstspl a => Sys2Proof.Machine.execRstspl a s
  | .perf a d => Sys2Proof.Machine.execPerf a d s
  | .preempt a d => Sys2Proof.Machine.execPreempt a d s
  | .prefixWord v b c s1 p o => Sys2Proof.Machine.execPrefixWord v b c s1 p o s
  | .vaddN b d => Sys2Proof.Machine.execVaddN b d s
  | .vsubN b d => Sys2Proof.Machine.execVsubN b d s
  | .vmulN b d => Sys2Proof.Machine.execVmulN b d s
  | .vandN b d => Sys2Proof.Machine.execVandN b d s
  | .vorN b d => Sys2Proof.Machine.execVorN b d s
  | .vxorN b d => Sys2Proof.Machine.execVxorN b d s
  | .vshlN b d => Sys2Proof.Machine.execVshlN b d s
  | .vshrN b d => Sys2Proof.Machine.execVshrN b d s
  | .vsarN b d => Sys2Proof.Machine.execVsarN b d s
  | .vminN b d => Sys2Proof.Machine.execVminN b d s
  | .vmaxN b d => Sys2Proof.Machine.execVmaxN b d s
  | .vmovN b d => Sys2Proof.Machine.execVmovN b d s
  | .faddN b d => Sys2Proof.Machine.execFaddN b d s
  | .fsubN b d => Sys2Proof.Machine.execFsubN b d s
  | .fmulN b d => Sys2Proof.Machine.execFmulN b d s
  | .fmaxN b d => Sys2Proof.Machine.execFmaxN b d s
  | .ret => Sys2Proof.Machine.execRet s
  | .exit => Sys2Proof.Machine.execExit s
  | .nop => Sys2Proof.Machine.execNop s
  | .rte => Sys2Proof.Machine.execRte s
  | .brk => Sys2Proof.Machine.execBrk s
  | .mgang => Sys2Proof.Machine.execMgang s
  | .mswap => Sys2Proof.Machine.execMswap s
  | .mzero => Sys2Proof.Machine.execMzero s
  | .savespl => Sys2Proof.Machine.execSavespl s
  | .launchQueueTailWrite part queue tail => Sys2Proof.Machine.execLaunchQueueTailWrite part queue tail s
  | .preqWrite part core value => Sys2Proof.Machine.execPreqWrite part core value s
  | .csramWrite part core value => Sys2Proof.Machine.execCsramWrite part core value s
  | .csramSplitChange core => Sys2Proof.Machine.execCsramSplitChange core s
  | .limitWrite part second value => Sys2Proof.Machine.execLimitWrite part second value s
  | .ftmoWrite port value => Sys2Proof.Machine.execFtmoWrite port value s
  | .registerWrite reg value => Sys2Proof.Machine.execRegisterWrite reg value s
  | .hostWindowAccess fn window offset bytes store => Sys2Proof.Machine.execHostWindowAccess fn window offset bytes store s
  | .attestationReport mailbox nonce => Sys2Proof.Machine.execAttestationReport mailbox nonce s
  | .powerLimitSet watts => Sys2Proof.Machine.execPowerLimitSet watts s
  | .thermalShutdown => Sys2Proof.Machine.execThermalShutdown s
  | .powerGood => Sys2Proof.Machine.execPowerGood s
  | .startStageReached stage error components => Sys2Proof.Machine.execStartStageReached stage error components s
  | .vfReset fn => Sys2Proof.Machine.execVfReset fn s
  | .crewDispatch part => Sys2Proof.Machine.execCrewDispatch part s
  | .weaveEnd weave => Sys2Proof.Machine.execWeaveEnd weave s
  | .crewHalted crew => Sys2Proof.Machine.execCrewHalted crew s
  | .splitWindowSwap weave => Sys2Proof.Machine.execSplitWindowSwap weave s
  | .fragmentPark weave entry => Sys2Proof.Machine.execFragmentPark weave entry s
  | .waitWake weave strand => Sys2Proof.Machine.execWaitWake weave strand s
  | .waitWatchdog weave strand => Sys2Proof.Machine.execWaitWatchdog weave strand s
  | .portWatch weave entry => Sys2Proof.Machine.execPortWatch weave entry s
  | .portEntryLand weave port => Sys2Proof.Machine.execPortEntryLand weave port s
  | .queueEntryComplete flight => Sys2Proof.Machine.execQueueEntryComplete flight s
  | .loadDataReturn flight => Sys2Proof.Machine.execLoadDataReturn flight s
  | .dataFailure flight poisoned lanes => Sys2Proof.Machine.execDataFailure flight poisoned lanes s
  | .farPortTimeout port => Sys2Proof.Machine.execFarPortTimeout port s
  | .cxlLinkDown port => Sys2Proof.Machine.execCxlLinkDown port s
  | .extentGrant port first count => Sys2Proof.Machine.execExtentGrant port first count s
  | .extentReleaseRequest port first count => Sys2Proof.Machine.execExtentReleaseRequest port first count s
  | .extentForcedRemoval port first count => Sys2Proof.Machine.execExtentForcedRemoval port first count s
  | .backInvalidateSnoop half => Sys2Proof.Machine.execBackInvalidateSnoop half s
  | .homeReadRequest holder line => Sys2Proof.Machine.execHomeReadRequest holder line s
  | .homeOwnershipRequest holder line => Sys2Proof.Machine.execHomeOwnershipRequest holder line s
  | .sliceFillArrival line => Sys2Proof.Machine.execSliceFillArrival line s
  | .retryReissue weave strand => Sys2Proof.Machine.execRetryReissue weave strand s
  | .remapReply core die line => Sys2Proof.Machine.execRemapReply core die line s
  | .writeBackMerge holder line => Sys2Proof.Machine.execWriteBackMerge holder line s
  | .lCopyIdleExpiry cluster line => Sys2Proof.Machine.execLCopyIdleExpiry cluster line s
  | .lCopyRetryRecall line => Sys2Proof.Machine.execLCopyRetryRecall line s
  | .staleLineWalk holder => Sys2Proof.Machine.execStaleLineWalk holder s
  | .bankWake holder => Sys2Proof.Machine.execBankWake holder s
  | .monitorWindowEnd => Sys2Proof.Machine.execMonitorWindowEnd s
  | .sectionCopy region => Sys2Proof.Machine.execSectionCopy region s
  | .busySectionRelease region => Sys2Proof.Machine.execBusySectionRelease region s
  | .translationWalk core part object frame => Sys2Proof.Machine.execTranslationWalk core part object frame s
  | .bundleMemberReport part handle => Sys2Proof.Machine.execBundleMemberReport part handle s
  | .bundleFlip part handle object line => Sys2Proof.Machine.execBundleFlip part handle object line s
  | .coordinatorQuery part handle object line => Sys2Proof.Machine.execCoordinatorQuery part handle object line s
  | .engineGranule thread granule => Sys2Proof.Machine.execEngineGranule thread granule s
  | .engineArrival thread => Sys2Proof.Machine.execEngineArrival thread s
  | .collectiveMatchTimeout thread => Sys2Proof.Machine.execCollectiveMatchTimeout thread s
  | .memberWithdrawn part => Sys2Proof.Machine.execMemberWithdrawn part s
  | .gangLatchClose crew => Sys2Proof.Machine.execGangLatchClose crew s
  | .gangLatchTimeout crew => Sys2Proof.Machine.execGangLatchTimeout crew s
  | .arrayQueuePerform core array => Sys2Proof.Machine.execArrayQueuePerform core array s
  | .matrixArrival core array => Sys2Proof.Machine.execMatrixArrival core array s
  | .acqpDrain flight => Sys2Proof.Machine.execAcqpDrain flight s
  | .correctableError part die => Sys2Proof.Machine.execCorrectableError part die s
  | .correctableThreshold part => Sys2Proof.Machine.execCorrectableThreshold part s
  | .uncorrectableError part address bytes => Sys2Proof.Machine.execUncorrectableError part address bytes s
  | .launchAbort launch => Sys2Proof.Machine.execLaunchAbort launch s
  | .cxlLinkUp port => Sys2Proof.Machine.execCxlLinkUp port s
  | .retentionSleepEntry holder => Sys2Proof.Machine.execRetentionSleepEntry holder s
  | .extentReleaseAck port first count => Sys2Proof.Machine.execExtentReleaseAck port first count s
  | .powerThrottle idle clockStep => Sys2Proof.Machine.execPowerThrottle idle clockStep s
  | .launchCopyArrival part queue record => Sys2Proof.Machine.execLaunchCopyArrival part queue record s
  | .pcieConfigRequest request => Sys2Proof.Machine.execPcieConfigRequest request s
  | .columnSubstitution core array column => Sys2Proof.Machine.execColumnSubstitution core array column s

end Sys2Proof.Machine
end

