-- ==== Sys2Proof/Machine/Turn.lean ====
section
/-! DEFINITION. A turn of a strand, from fetch to effect (R43, R63, R99, R105), the front ends' rotation (R245), and the
turns of the schedule (log 4). -/

namespace Sys2Proof.Machine

noncomputable section

/-! ### One strand -/

/-- A fetched word that is not a prefix, issued by the acting strand under the attributes of its prefix, if any: none where the scoreboard
holds it (R63), the pipe that it needs is busy (R245), or its request has no slot (R153). A word that fails a check is not held; one whose
access is not of the kind that may be left for later performs it now (log 6). -/
def State.runWord (s : State) (x : InstrWord) : Option (Host.Outcome State Fault Refusal) :=
  match s.weave? s.cur.weave with
  | none => none
  | some w =>
    match x.decode with
    | .unassigned => some (.next (s.vectorMe (s.info w .illegal accOther)))
    | .reserved (.prefixWord ..) => some (.next (s.pairUp w none))
    | .reserved i => some (.next (s.vectorMe (s.infoOf i w (reservedFault i w s.cur.strand) accOther)))
    | .instr i =>
      if (s.decodeFault i w).isNone && (s.scoreboarded w s.cur.strand i || s.pipeBusy w.id s.cur.strand i
          || (i.asksHome && !s.maySend w.partition)) then none
      else some (exec i ((if i.leaves.isSome then s else s.atMoment .now).notePipe w.id s.cur.strand i))

/-- The successor of a prefix that has passed its checks, at the prefix's PC (R99). -/
def State.runPair (s : State) (w : Weave) (st : Strand) : Option (Host.Outcome State Fault Refusal) :=
  if s.fetchHeld w st ((w.pc st).toNat + 4) then none
  else
    match s.fetch w st ((w.pc st).toNat + 4) with
    | .error _ => none
    | .ok y => s.runWord y

/-- A turn of a strand: its word is fetched, checked and issued; none where the scoreboard holds it, or its fetch waits for a slot. -/
def State.attempt (s : State) (w : Weave) (st : Strand) : Option (Host.Outcome State Fault Refusal) :=
  let t := s.onWeave w.id fun y => y.noteIssue st
  if s.fetchHeld w st (w.pc st).toNat then none else
  match s.fetch w st (w.pc st).toNat with
  | .error c =>
    let u := t.atIssue w st 4
    some (.next (u.vectorMe (u.fetchInfo w c (w.pc st).toNat)))
  | .ok x =>
    let u := t.atIssue w st x.bytes
    if x.bytes = 2 && st = .a then some (.next (u.vectorMe (u.info w .illegal accOther)))
    else
      match x.decode with
      | .instr (.prefixWord v b c k p o) =>
        match exec (.prefixWord v b c k p o) u with
        | .next y => if y.cur.attrs.isSome then y.runPair w st else some (.next y)
        | other => some other
      | _ => u.runWord x

/-- A strand that may issue: a fragment at its join parks there (R41), another strand issues. -/
def State.tryStrand (s : State) (w : Weave) (st : Strand) : Option (Host.Outcome State Fault Refusal) :=
  if !s.mayIssue w st then none
  else
    match st with
    | .a => s.attempt w .a
    | .c e => if w.atJoin e then if s.maskFlies w.id (.c e) none then none else some (.next (s.onWeave w.id fun y => y.park e)) else s.attempt w (.c e)

/-- The strands of a stream tried in their order (R43); where none is ready in the window, the window moves (R40). -/
def State.tryStream (s : State) (w : Weave) (st : Stream) : Option (Host.Outcome State Fault Refusal) :=
  match (w.strands st).findSome? fun x => s.tryStrand w x with
  | some r => some r
  | none => if st = .c then (s.swapWindow w).map .next else none

/-! ### The front ends (R245) -/

/-- The slots in the order in which a front end offers its turn. -/
def slotOrder (last : Nat) : List Nat := (List.range 16).map fun k => (last + 1 + k) % 16

/-- The slot that a front end granted last. -/
def State.lastSlot (s : State) (core : Nat) (st : Stream) : Nat :=
  let k := s.coreStates.toList.getD core CoreState.reset
  match st with
  | .a => k.lastA
  | .c => k.lastC

/-- A grant noted. -/
def State.noteSlot (s : State) (id : WeaveId) (st : Stream) : State :=
  s.onCore id.core fun k => match st with
    | .a => { k with lastA := id.slot }
    | .c => { k with lastC := id.slot }

/-- An issue slot granted to a stream of a weave. -/
def State.grantSlot (s : State) (id : WeaveId) (st : Stream) : Option (Host.Outcome State Fault Refusal) :=
  (s.weave? id).bind fun w => (s.noteSlot id st).tryStream w st

/-- The first slot in rotation whose stream can take a front end's turn, with what the turn does. -/
def State.pick (s : State) (core : Nat) (st : Stream) : Option (Nat × Host.Outcome State Fault Refusal) :=
  (slotOrder (s.lastSlot core st)).findSome? fun k => (s.grantSlot ⟨core, k⟩ st).map fun r => (k, r)

/-- A turn of a core's front end; it passes where no stream can take it. -/
def State.offer (s : State) (core : Nat) (st : Stream) : Host.Outcome State Fault Refusal :=
  ((s.pick core st).map (·.2)).getD (.next s)

/-- A turn of a core's front end that a schedule means for one weave: the turn passes where the rotation gives it to another. -/
def State.issueTo (s : State) (id : WeaveId) (st : Stream) : Host.Outcome State Fault Refusal :=
  match s.pick id.core st with
  | some (k, r) => if k = id.slot then r else .next s
  | none => .next s

/-! ### Turns without a schedule (log 4) -/

/-- What becomes of a flight that is due: its data return, its entry completes, its request drains, or it fails. -/
def State.settleFlight (s : State) (f : Flight) : Option State :=
  if f.bad ≠ 0 then if s.faultHeld f f.bad then none else some (s.dataFault f .dataUe f.bad)
  else if s.overdueLanes f ≠ 0 then
    if s.faultHeld f (s.overdueLanes f) then none else some (s.dataFault f .farUnavail (s.overdueLanes f))
  else if !f.arrives then none
  else
    match f.dest with
    | .array .. => none
    | .queue .. => some (s.fillEntry f)
    | .drain core scope => if s.drainHeld f core scope then none else some ((s.dropFlight f.id).drain f.weave.core core scope)
    | .accept _ => none
    | .coord _ op => if s.coordHeld f.weave op then none else some (s.returnData f)
    | _ => some (s.returnData f)

/-- An access that was left for later, performed: its instruction's effect, with the weave as it stood when it issued (R162). -/
def State.perform (s : State) (p : Pending) : Host.Outcome State Fault Refusal :=
  if (s.weave? p.issuer.weave).isNone || s.refusedNow p.refused then .next s
  else exec p.instr { s with cur := { p.issuer with moment := .due p.id p.since p.weave } }

/-- The first of some accesses that can be performed now, performed; the others' homes have answered. -/
def State.performSome (s : State) : List Pending → State × Bool
  | [] => (s, false)
  | p :: r =>
    match s.perform p with
    | .next t => if t.pending.any fun x => x.id = p.id then t.performSome r else (t, true)
    | _ => s.performSome r

/-- The strands of a weave that wait. -/
def Weave.waiting (w : Weave) : List Strand :=
  (.a :: (List.range 128).map .c).filter fun st => (w.waitOf st).isSome

/-- What happens when the schedule is empty and no flight is due: the oldest access left for later that can be performed, else a wait that
can end, else a push that lands, else a refused line asked for again, else the next front end's turn. -/
def State.idleTurn (s0 : State) : Host.Outcome State Fault Refusal :=
  let r := s0.performSome s0.pending
  let s := r.1
  if r.2 then .next s
  else
    match s.weaves.findSome? fun w => w.waiting.findSome? fun st => s.wakeNow w.id st with
    | some t => .next t
    | none =>
      match s.weaves.findSome? fun w => (s.transits.find? fun t => t.crew = w.crew && t.index = w.index && s.mayLand w t.port).map fun t =>
          s.land w t.port with
      | some t => .next t
      | none =>
        if s.retries.any fun r => !r.ready && decide (r.last + 32 ≤ s.time) then
          .next { s with retries := s.retries.map fun (r : RetryRec) => { r with ready := r.ready || decide (r.last + 32 ≤ s.time) } }
        else
          let t : State := { s with rr := (s.rr + 1) % (2 * Config.cores) }
          t.offer (s.rr / 2) (if s.rr % 2 = 0 then .a else .c)

/-- What happens when the schedule is empty: the oldest due flight, else the machine's own turn. -/
def State.idle (s : State) : Host.Outcome State Fault Refusal :=
  match s.flights.findSome? s.settleFlight with
  | some t => .next t
  | none => s.idleTurn

/-! ### Turns -/

/-- The time passed over in a turn (R16, log 7): TIME counts from stage 2, and every monitor window that it passes ends (R137). -/
def State.pass (s : State) (n : Nat) : State :=
  if 2 ≤ s.stage.getD 0 then ({ s with time := s.time + n } : State).windowsEnd (n / Config.windowCycles + 1) else s

/-- The machine at the start of a step: the turn taken off the schedule, and time gone by. -/
def State.tickOver (s : State) : State :=
  let n := match s.schedule.head? with
    | some (.pass n) => n
    | _ => Config.stepCycles s.tick
  (({ s with tick := s.tick + 1, schedule := s.schedule.tail } : State).pass n).atMoment .now

/-- A turn taken; one that cannot be taken passes with nothing done. -/
def runTurn (turn : Option Turn) (s : State) : Host.Outcome State Fault Refusal :=
  match turn with
  | none => s.idle
  | some (.event i) => if i.isEvent then exec i s else .next s
  | some (.issue id st) => s.issueTo id st
  | some (.postpone id st) => (s.atMoment .later).issueTo id st
  | some (.offer core st) => s.offer core st
  | some (.perform n) => ((s.pending.find? fun p => p.id = n).map s.perform).getD (.next s)
  | some (.pass _) => .next s
  | some (.evict h line) => .next (s.evict h line)
  | some (.evictOtb o part object frame) => .next (s.evictOtb o part object frame)
  | some (.peersReady thread) => .next (s.peersReady thread)
  | some (.scout id a object o) => .next (s.scout id a object o)

/-- The end of a step: what changed in split entries that live in memory is written there (R40), and what code held before a write is
kept (R91). -/
def State.endStep (before : State) : Host.Outcome State Fault Refusal → Host.Outcome State Fault Refusal
  | .next t => .next ((t.splitThrough before).keepCode before)
  | r => r

end

end Sys2Proof.Machine
end

