-- ==== Sys2Proof/Machine/Step.lean ====
section
/-! DEFINITION. The step, and the placing of one instruction where the next step fetches it (log 20). -/

namespace Sys2Proof.Machine

noncomputable section

/-- One step: the first turn of the schedule is taken, or the machine's own turn where the schedule is empty. -/
def step (s : State) : Host.Outcome State Fault Refusal := s.endStep (runTurn s.schedule.head? s.tickOver)

/-- The stream that can issue an instruction, the A-stream where both can. -/
def fetchStream (i : Option Instr) : Stream :=
  match i with
  | some i => if i.streams.allows .a then .a else .c
  | none => .a

/-- The launch record whose code object is object 1: its A segment is the first 4,096 bytes for a word of the A-stream, and
empty for one of the C-stream. -/
def fetchRecord (st : Stream) : LaunchRec :=
  { (default : LaunchRec) with code := 1, cseg := (if st = .a then 4096 else 0), grid := 1, weaves := 1, regs := 64 }

/-- The launch of that record on partition 0. -/
def fetchLaunch (st : Stream) (id : Nat) : Launch :=
  { (default : Launch) with id, record := fetchRecord st, span := 1, neighbours := List.replicate 6 0, share := 1, next := 1 }

/-- Its crew of one weave on core 0. -/
def fetchCrew (id launch : Nat) : Crew :=
  { id, launch, index := 0, size := 1, gangSize := 0, core := 0, part := 0, fn := 0, spadAt := 0, spadBytes := 0, bars := 0, engines := 0
    array := none, state := .run, requested := false, haltAt := 0, live := 1, endedSaved := 0, latch := [], home := [], savedAt := 0
    faulted := false }

/-- Its weave, in supervisor mode for an instruction of supervisor software; the handler code object is object 1 too. -/
def fetchWeave (st : Stream) (sup : Bool) (crew launch : Nat) : Weave :=
  let w := newWeave (fetchLaunch st launch) (fetchCrew crew launch) 0 0 0 0x100000000
  let m := if sup then Mode.supervisor else .user
  match st with
  | .a => { w with aMode := m }
  | .c => { w with cMode := m }

/-- The code object: entry 1 of partition 0's table at address 0, its extent list at 0x1000, and its frame 1. -/
def State.withCode (s : State) (code : List Byte) : State :=
  let t := s.memStore 0x40 (leBytes 8 (1 + 2 ^ 8 + 2 ^ 10) ++ leBytes 8 8192 ++ leBytes 16 0 ++ leBytes 8 0x1000 ++ leBytes 24 0)
  let u := (t.memStore 0x1000 (leBytes 8 (mkExt 1 false true))).memStore 0x10000 code
  { u.onPcb 0 fun p => { p with tableBase := 0, tableEntries := 2 } with
    caches := u.caches.filter fun c => c.line ≠ 0x200
    poison := u.poison.filter fun x => decide (0x10004 ≤ x.1) || decide (x.1 + x.2 ≤ 0x10000) }

/-- A resident weave at weave slot 0 of core 0, whose front ends granted slot 15 last, with a schedule that offers it the next issue slot,
a slot of the shared paths for its partition, and the code bytes of one instruction where it fetches. -/
def State.withFetchWord (s : State) (nbits w : Nat) : State :=
  let i := decodeTableWord nbits w
  let st := fetchStream i
  let sup := (i.map Instr.supervisorOnly).getD false
  let id : WeaveId := ⟨0, 0⟩
  let t := s.withCode (tableBytes nbits w)
  { t with
    weaves := fetchWeave st sup s.nextId (s.nextId + 1) :: t.weaves.filter fun x => x.id ≠ id
    crews := fetchCrew s.nextId (s.nextId + 1) :: t.crews
    launches := fetchLaunch st (s.nextId + 1) :: t.launches
    flights := t.flights.filter fun f => f.weave ≠ id
    pending := t.pending.filter fun p => p.issuer.weave ≠ id
    retries := t.retries.filter fun r => r.weave ≠ id
    codeWas := t.codeWas.filter fun x => decide (x.1 < 0x10000) || decide (0x10004 ≤ x.1)
    coreStates := t.coreStates.setIfInBounds 0 { t.coreStates.toList.getD 0 CoreState.reset with
      lastA := 15, lastC := 15, vectorRun := 0, sfuTurns := 0 }
    scheduleEntries := t.scheduleEntries.setIfInBounds 0 0x10
    nextId := s.nextId + 2
    schedule := [.issue id st] }

end

end Sys2Proof.Machine
end

