-- ==== Sys2Proof/Safety.lean ====
section
/-! DEFINITION. What the statements are made of: when an instruction may act, what it keeps, the canonical form of the
memories, and the shapes in which the families give their results. -/

namespace Sys2Proof

/-- Bit 0 of a word's first halfword, which tells the length of an instruction (R89). -/
def InstrWord.lengthBit : InstrWord → Bool
  | .short w => w.getLsbD 0
  | .long w => w.getLsbD 0

/-- A strand that names the A-stream or an entry of the split table. -/
def Strand.inTable : Strand → Bool
  | .a => true
  | .c e => decide (e < 128)

end Sys2Proof

namespace Sys2Proof.Machine

/-! ### The memories -/

/-- The four memories are in canonical form (Bits.lean). -/
abbrev State.MemOk (s : State) : Prop :=
  Memory.wf (some Config.unwrittenByte) s.mem = true ∧ Memory.wf none s.spad = true ∧
    Memory.wf none s.store = true ∧ Memory.wf none s.hostMem = true

/-- Every byte of HBM and far memory, of every core's SRAM (scratchpad and supervisor store) and of host memory reads alike. -/
def SameMemory (s t : State) : Prop :=
  (∀ a, t.memByte a = s.memByte a) ∧ (∀ core a, t.sramByte core a = s.sramByte core a) ∧
    ∀ fn a, t.hostByte fn a = s.hostByte fn a

/-- The weaves that do not act are as before. -/
def SameOthers (s t : State) : Prop := ∀ id, id ≠ s.cur.weave → t.weave? id = s.weave? id

/-- Everything outside the resident weaves and the list of refused lines is as before. -/
def SameElse (s t : State) : Prop := { t with weaves := s.weaves, retries := s.retries } = s

/-! ### Acting -/

/-- Resident weave w acts, instruction i passes the checks of R105 (steps 6 to 9) on the acting strand, and its access, if it makes one,
is performed as it issues (R162; log 6). -/
def State.Ready (s : State) (i : Instr) (w : Weave) : Prop :=
  s.weave? s.cur.weave = some w ∧ s.decodeFault i w = none ∧ s.cur.moment = .now

/-- Nothing hinders the access of instruction i: no access that weave w's acting stream issued before waits to be performed (R163), a
release or an acquire that i makes has nothing to send or a slot to send it in (R153), and where i is bundled BREG admits it (R186). -/
def State.Unhindered (s : State) (i : Instr) (w : Weave) : Prop :=
  let a := s.issued.attrsOf i w
  (∀ p ∈ s.pending, p.issuer.weave = s.cur.weave → p.issuer.strand.stream ≠ s.cur.strand.stream) ∧
    (a.order ≠ .rlx → s.issued.fenceHeld w.partition w.id.core a.scope = false) ∧
    (a.bundle = true → s.issued.mayStore w.partition w.breg w.part = true)

/-- What an instruction that writes registers of its own weave alone leaves behind: the acting weave is w', its PC has moved
past the instruction, and nothing outside it has changed. -/
def State.WritesOnly (s t : State) (w' : Weave) : Prop :=
  t.weave? s.cur.weave = some w' ∧ w'.pc s.cur.strand = s.cur.pc + BitVec.ofNat 32 s.cur.bytes ∧
    SameOthers s t ∧ SameElse s t ∧ SameMemory s t

/-- A weave outside its scalar registers, its split table, its PC and its issue counters. -/
def Weave.sameButScalars (w w' : Weave) : Prop :=
  { w' with aRegs := w.aRegs, aBank := w.aBank, sRegs := w.sRegs, sBank := w.sBank, split := w.split, aPc := w.aPc
            aIssued := w.aIssued, cIssued := w.cIssued } = w

/-- A weave outside its lane registers, its generators, its split table, its PC and its issue counters. -/
def Weave.sameButLanes (w w' : Weave) : Prop :=
  { w' with vRegs := w.vRegs, gens := w.gens, split := w.split, aPc := w.aPc, aIssued := w.aIssued
            cIssued := w.cIssued } = w

/-- A weave outside its predicates, its split table, its PC and its issue counters. -/
def Weave.sameButPreds (w w' : Weave) : Prop :=
  { w' with pRegs := w.pRegs, split := w.split, aPc := w.aPc, aIssued := w.aIssued, cIssued := w.cIssued } = w

/-- The entries of the split table are as before, but for the PC of the acting strand. -/
def Weave.sameEntries (st : Strand) (w w' : Weave) : Prop :=
  ∀ e, { w'.entry e with addr := (w.entry e).addr } = w.entry e ∧ (st ≠ .c e → w'.entry e = w.entry e)

/-- The bytes of n bytes of a number at an address, lowest first; none elsewhere. -/
def bytesAt (at' n x y : Nat) : Option Byte :=
  if at' ≤ y ∧ y < at' + n then some (BitVec.ofNat 8 (x / 2 ^ (8 * (y - at')))) else none

/-- t is s with some bytes of one core's SRAM replaced, below the end of its supervisor store, and nothing else changed but
poison, of which none appears. -/
def State.StoresOnly (s t : State) (core : Nat) (byte : Nat → Option Byte) : Prop :=
  (∀ y b, y < 0x82000 → byte y = some b → t.sramByte core y = b) ∧
  (∀ c y, y < 0x82000 → (c ≠ core ∨ byte y = none) → t.sramByte c y = s.sramByte c y) ∧
  { t with spad := s.spad, store := s.store, poison := s.poison } = s ∧ ∀ x ∈ t.poison, x ∈ s.poison

end Sys2Proof.Machine

namespace Sys2Proof

/-! ### The destinations of the register members -/

/-- The scalar register that a member writes, where that is all it does to its weave. -/
def Instr.scalarDest : Instr → Option RegField
  | .add _ _ d | .sub _ _ d | .mul _ _ d | .mulh _ _ d | .divu _ _ d | .remu _ _ d | .and _ _ d | .or _ _ d => some d
  | .xor _ _ d | .shl _ _ d | .shr _ _ d | .sar _ _ d | .slt _ _ d | .sltu _ _ d | .min _ _ d | .max _ _ d => some d
  | .addi _ _ d | .andi _ _ d | .ori _ _ d | .xori _ _ d | .shli _ _ d | .shri _ _ d | .sari _ _ d | .slti _ _ d => some d
  | .clz _ d | .popc _ d | .sel _ _ d | .clock _ d | .movi _ d | .movk _ _ d | .vote _ _ d | .qstat _ d => some d
  | _ => none

/-- The lane register that a member writes in the lanes of ACT, where that and the draws are all it does to its weave. -/
def Instr.laneDest : Instr → Option RegField
  | .vadd _ _ _ d | .vsub _ _ _ d | .vmul _ _ _ d | .vmulh _ _ _ d | .vmulhu _ _ _ d | .vmad _ _ _ d => some d
  | .vand _ _ _ d | .vor _ _ _ d | .vxor _ _ _ d | .vshl _ _ _ d | .vshr _ _ _ d | .vsar _ _ _ d => some d
  | .vmin _ _ _ d | .vmax _ _ _ d | .vadds _ _ _ d | .vsubs _ _ _ d => some d
  | .vaddI16 _ _ _ d | .vsubI16 _ _ _ d | .vmulI16 _ _ _ d | .vmulhI16 _ _ _ d | .vmulhuI16 _ _ _ d => some d
  | .vmadI16 _ _ _ d | .vandI16 _ _ _ d | .vorI16 _ _ _ d | .vxorI16 _ _ _ d | .vshlI16 _ _ _ d => some d
  | .vshrI16 _ _ _ d | .vsarI16 _ _ _ d | .vminI16 _ _ _ d | .vmaxI16 _ _ _ d | .vaddsI16 _ _ _ d | .vsubsI16 _ _ _ d => some d
  | .vaddI8 _ _ _ d | .vsubI8 _ _ _ d | .vmulI8 _ _ _ d | .vmulhI8 _ _ _ d | .vmulhuI8 _ _ _ d => some d
  | .vmadI8 _ _ _ d | .vandI8 _ _ _ d | .vorI8 _ _ _ d | .vxorI8 _ _ _ d | .vshlI8 _ _ _ d => some d
  | .vshrI8 _ _ _ d | .vsarI8 _ _ _ d | .vminI8 _ _ _ d | .vmaxI8 _ _ _ d | .vaddsI8 _ _ _ d | .vsubsI8 _ _ _ d => some d
  | .vsel _ _ _ d | .vabs _ _ d | .vclz _ _ d | .vpopc _ _ d | .vdot4 _ _ _ d | .vmov _ _ d | .vext _ _ _ _ _ d => some d
  | .vins _ _ _ _ d | .vbcst _ d | .vminu _ _ _ d | .vmaxu _ _ _ d => some d
  | .vaddi _ _ d | .vandi _ _ d | .vori _ _ d | .vxori _ _ d | .vshli _ _ d | .vshri _ _ d | .vsari _ _ d | .vmovi _ d => some d
  | .fadd _ _ _ d | .fsub _ _ _ d | .fmul _ _ _ d | .fma _ _ _ d | .fnma _ _ _ d | .fmin _ _ _ d | .fmax _ _ _ d => some d
  | .fabs _ _ d | .fneg _ _ d | .fsign _ _ _ d | .fscale _ _ _ d | .frnd _ _ _ d | .fclass _ _ d => some d
  | .faddF16 _ _ _ d | .fsubF16 _ _ _ d | .fmulF16 _ _ _ d | .fmaF16 _ _ _ d | .fminF16 _ _ _ d | .fmaxF16 _ _ _ d => some d
  | .faddBf16 _ _ _ d | .fsubBf16 _ _ _ d | .fmulBf16 _ _ _ d | .fmaBf16 _ _ _ d | .fminBf16 _ _ _ d => some d
  | .fmaxBf16 _ _ _ d | .fdot2F16 _ _ _ d | .fdot2Bf16 _ _ _ d => some d
  | .frcp _ _ d | .frsq _ _ d | .fsqrt _ _ d | .fdiv _ _ _ d | .fexp2 _ _ d | .flog2 _ _ d | .fsin _ _ d => some d
  | .fcos _ _ d | .ftanh _ _ d | .fcvt _ _ _ _ d | .dqblk _ _ _ d | .vperm _ _ _ d | .vred _ _ _ d | .vscan _ _ _ d => some d
  | .vaddN _ d | .vsubN _ d | .vmulN _ d | .vandN _ d | .vorN _ d | .vxorN _ d | .vshlN _ d | .vshrN _ d => some d
  | .vsarN _ d | .vminN _ d | .vmaxN _ d | .vmovN _ d | .faddN _ d | .fsubN _ d | .fmulN _ d | .fmaxN _ d => some d
  | _ => none

end Sys2Proof

namespace Sys2Proof.Machine

/-! ### The shapes of results -/

/-- Member i gives scalar register d a value of the acting strand's scalar registers, and does nothing else. -/
def ScalarResult (i : Instr) (d : RegField) (f : (RegField → DWord) → DWord) : Prop :=
  ∀ s w, s.Ready i w →
    exec i s = .next (s.issued.onMe fun v => v.setScal s.cur.strand d.toNat (f fun n => w.scal s.cur.strand n.toNat))

/-- Member i gives lane register d, in each lane of ACT, a function of that lane of a, of b under its pattern and of d. -/
def LaneResult (i : Instr) (p : BitVec 4) (b a d : RegField) (f : Word → Word → Word → Word) : Prop :=
  ∀ s w, s.Ready i w →
    exec i s = .next (s.issued.onMe fun v => v.setLanes d.toNat (w.act s.cur.strand) fun l =>
      f (laneAt (w.lane a.toNat) l) (w.pat s.cur.strand p b.toNat l) (laneAt (w.lane d.toNat) l))

/-- f acts on the elements of n bits of its words apart from one another (R68). -/
def Elementwise (n : Nat) (op : BitVec n → BitVec n → BitVec n → BitVec n) (f : Word → Word → Word → Word) : Prop :=
  ∀ x y z k, k < 32 / n → (f x y z).extractLsb' (n * k) n =
    op (x.extractLsb' (n * k) n) (y.extractLsb' (n * k) n) (z.extractLsb' (n * k) n)

/-- As `LaneResult`, element by element. -/
def PackedResult (n : Nat) (i : Instr) (p : BitVec 4) (b a d : RegField) (op : BitVec n → BitVec n → BitVec n → BitVec n) : Prop :=
  ∃ f, Elementwise n op f ∧ LaneResult i p b a d f

/-- The nearest integer of n bits, signed, to an exact result (R86). -/
def nearest (n : Nat) (x : Int) : BitVec n := BitVec.ofInt n (max (-(2 ^ (n - 1) : Nat)) (min ((2 ^ (n - 1) : Nat) - 1) x))

/-- Member i gives lane register d, in each lane l of ACT, the value f w l, and the generators of those lanes advance k
times where FPCTL names the stochastic mode (R73). -/
def DrawnResult (i : Instr) (d : RegField) (k : Nat) (f : Strand → Weave → Nat → Word) : Prop :=
  ∀ s w, s.Ready i w →
    exec i s = .next (s.issued.onMe fun v =>
      (v.setLanes d.toNat (w.act s.cur.strand) (f s.cur.strand w)).advance (w.act s.cur.strand) k)

/-- What member fn of majors 10 to 12 makes of elements of n bits: a, b under its pattern, and d (R372). -/
def integerOp (fn n : Nat) (x y z : BitVec n) : BitVec n :=
  match fn with
  | 0 => BitVec.ofNat n (x.toNat + y.toNat)
  | 1 => BitVec.ofInt n (x.toInt - y.toInt)
  | 2 => BitVec.ofNat n (x.toNat * y.toNat)
  | 3 => BitVec.ofInt n (x.toInt * y.toInt / 2 ^ n)
  | 4 => BitVec.ofNat n (x.toNat * y.toNat / 2 ^ n)
  | 5 => BitVec.ofNat n (x.toNat * y.toNat + z.toNat)
  | 6 => x &&& y
  | 7 => x ||| y
  | 8 => x ^^^ y
  | 9 => BitVec.ofNat n (x.toNat * 2 ^ y.toNat)
  | 10 => BitVec.ofNat n (x.toNat / 2 ^ y.toNat)
  | 11 => BitVec.ofInt n (x.toInt / 2 ^ y.toNat)
  | 12 => BitVec.ofInt n (min x.toInt y.toInt)
  | 13 => BitVec.ofInt n (max x.toInt y.toInt)
  | 14 => nearest n (x.toInt + y.toInt)
  | _ => nearest n (x.toInt - y.toInt)

/-- The number that a float value is, unless it is a NaN or an infinity. -/
def Fp.value : Fp → Option ℚ
  | .fin neg m e => some ((if neg then -1 else 1) * m * (2 : ℚ) ^ e)
  | _ => none

/-- The whole number n of units to which a magnitude of t units rounds (R72, R73); u are the bits drawn. -/
def RoundsTo (md : Rounding) (neg : Bool) (u : Nat) (t : ℝ) (n : Nat) : Prop :=
  match md with
  | .rne => |t - n| ≤ 1 / 2 ∧ (|t - n| = 1 / 2 → n % 2 = 0)
  | .rtz => n = ⌊t⌋₊
  | .rup => n = if neg then ⌊t⌋₊ else ⌈t⌉₊
  | .rdn => n = if neg then ⌈t⌉₊ else ⌊t⌋₊
  | .stochastic => n = ⌊t + u / 65536⌋₊

/-- A magnitude before rounding stands for a real number: exactly, or below it by less than one unit and with at least 43
bits, so that the rounding of the one is the rounding of the other. -/
def Exact.StandsFor (x : Exact) (r : ℝ) : Prop :=
  0 < x.m ∧ (x.m : ℝ) * 2 ^ x.e ≤ r ∧ r < (x.m + 1 : ℝ) * 2 ^ x.e ∧
    (x.inexact = true ↔ r ≠ (x.m : ℝ) * 2 ^ x.e) ∧ (x.inexact = true → 2 ^ 42 ≤ x.m)

/-- Element j of a lane word as a float of a format, after DAZ (R68, R74). -/
def elemOf (f : Fmt) (md : FpMode) (x : Word) (j : Nat) : Fp := f.read md (x.toNat / 2 ^ (f.width * j) % 2 ^ f.width)

/-- Member i gives every element of d the value of op on that element of a, of b under its pattern and of d, written in
format f, with one draw an element where the flag is set (R69, R73). -/
def FloatResult (i : Instr) (f : Fmt) (p : BitVec 4) (b a d : RegField) (draws : Bool) (op : FpMode → Fp → Fp → Fp → Fp) : Prop :=
  ∃ g : Strand → Weave → Nat → Word, DrawnResult i d (if draws then 32 / f.width else 0) g ∧
    ∀ st w l j, j < 32 / f.width →
      let md := fpMode w.fpctl
      (g st w l).toNat / 2 ^ (f.width * j) % 2 ^ f.width =
        f.write md (op md (elemOf f md (laneAt (w.lane a.toNat) l) j) (elemOf f md (w.pat st p b.toNat l) j)
          (elemOf f md (laneAt (w.lane d.toNat) l) j)) (w.draw l j)

/-- Member i writes predicate k, in the lanes of ACT, with a test of each lane. -/
def PredResult (i : Instr) (k : BitVec 3) (f : Strand → Weave → Nat → Bool) : Prop :=
  ∀ s w, s.Ready i w →
    exec i s = .next (s.issued.onMe fun v => v.setPred k.toNat (w.act s.cur.strand) (maskOf (f s.cur.strand w)))

/-- Member i takes a fault of a cause with access code, when its condition holds. -/
def FaultsWhen (i : Instr) (cond : State → Weave → Prop) (info : State → Weave → FaultInfo) : Prop :=
  ∀ s w, s.Ready i w → cond s w → exec i s = .next (s.vector s.cur.weave s.cur.strand (info s w))

end Sys2Proof.Machine
end

