-- ==== Sys2Proof/Certificates/Slice0/Obligations.lean ====
section
/-! DEFINITION. The statements for the provers. Each says in its docstring which rules of spec/ it formalises; the parts of a
statement stand before it under Rules. -/

open Sys2Proof Sys2Proof.Machine

/-! ### Scalar members -/

/-- R279: what each of the sixteen members of major 1 writes, on 64-bit operands, and that it writes nothing else. -/
def Rules.ScalarArithmetic : Prop := ∀ b a d : RegField,
  ScalarResult (.add b a d) d (fun r => BitVec.ofNat 64 ((r a).toNat + (r b).toNat)) ∧
  ScalarResult (.sub b a d) d (fun r => BitVec.ofInt 64 ((r a).toInt - (r b).toInt)) ∧
  ScalarResult (.mul b a d) d (fun r => BitVec.ofNat 64 ((r a).toNat * (r b).toNat)) ∧
  ScalarResult (.mulh b a d) d (fun r => BitVec.ofInt 64 ((r a).toInt * (r b).toInt / 2 ^ 64)) ∧
  ScalarResult (.divu b a d) d (fun r =>
    if (r b).toNat = 0 then 0xFFFFFFFFFFFFFFFF else BitVec.ofNat 64 ((r a).toNat / (r b).toNat)) ∧
  ScalarResult (.remu b a d) d (fun r => if (r b).toNat = 0 then r a else BitVec.ofNat 64 ((r a).toNat % (r b).toNat)) ∧
  ScalarResult (.and b a d) d (fun r => r a &&& r b) ∧
  ScalarResult (.or b a d) d (fun r => r a ||| r b) ∧
  ScalarResult (.xor b a d) d (fun r => r a ^^^ r b) ∧
  ScalarResult (.shl b a d) d (fun r => BitVec.ofNat 64 ((r a).toNat * 2 ^ (r b).toNat)) ∧
  ScalarResult (.shr b a d) d (fun r => BitVec.ofNat 64 ((r a).toNat / 2 ^ (r b).toNat)) ∧
  ScalarResult (.sar b a d) d (fun r => BitVec.ofInt 64 ((r a).toInt / 2 ^ (r b).toNat)) ∧
  ScalarResult (.slt b a d) d (fun r => if (r a).toInt < (r b).toInt then 1 else 0) ∧
  ScalarResult (.sltu b a d) d (fun r => if (r a).toNat < (r b).toNat then 1 else 0) ∧
  ScalarResult (.min b a d) d (fun r => BitVec.ofInt 64 (min (r a).toInt (r b).toInt)) ∧
  ScalarResult (.max b a d) d (fun r => BitVec.ofInt 64 (max (r a).toInt (r b).toInt))

/-- R280: what each of the eight members of major 2 writes; the immediate is signed, and an amount of a shift is not. -/
def Rules.ScalarImmediates : Prop := ∀ (i : BitVec 10) (a d : RegField),
  ScalarResult (.addi i a d) d (fun r => BitVec.ofInt 64 ((r a).toInt + i.toInt)) ∧
  ScalarResult (.andi i a d) d (fun r => r a &&& BitVec.ofInt 64 i.toInt) ∧
  ScalarResult (.ori i a d) d (fun r => r a ||| BitVec.ofInt 64 i.toInt) ∧
  ScalarResult (.xori i a d) d (fun r => r a ^^^ BitVec.ofInt 64 i.toInt) ∧
  ScalarResult (.shli i a d) d (fun r => BitVec.ofNat 64 ((r a).toNat * 2 ^ i.toNat)) ∧
  ScalarResult (.shri i a d) d (fun r => BitVec.ofNat 64 ((r a).toNat / 2 ^ i.toNat)) ∧
  ScalarResult (.sari i a d) d (fun r => BitVec.ofInt 64 ((r a).toInt / 2 ^ i.toNat)) ∧
  ScalarResult (.slti i a d) d (fun r => if (r a).toInt < i.toInt then 1 else 0)

/-- R279, R280: the word of each member of majors 1 and 2, the streams and modes it is legal in, and the register fields it may
hold; a function of major 2 from 8 on is no member. -/
def Rules.ScalarForms : Prop := ∀ (b a d : RegField) (imm : BitVec 10),
  let small := fun (f : RegField) => f.toNat < 32
  let anywhere := fun (i : Instr) => i.streams.allows .a = true ∧ i.streams.allows .c = true ∧ i.supervisorOnly = false ∧
    i.wellFormed .a = true
  (∀ k i, [Instr.add b a d, .sub b a d, .mul b a d, .mulh b a d, .divu b a d, .remu b a d, .and b a d, .or b a d, .xor b a d,
      .shl b a d, .shr b a d, .sar b a d, .slt b a d, .sltu b a d, .min b a d, .max b a d][k]? = some i →
    encode i = some (.long (BitVec.ofNat 4 k ++ (0 : BitVec 4) ++ b ++ a ++ d ++ (0x03 : BitVec 6))) ∧ anywhere i ∧
      (i.wellFormed .c = true ↔ small b ∧ small a ∧ small d)) ∧
  ∀ k i, [Instr.addi imm a d, .andi imm a d, .ori imm a d, .xori imm a d, .shli imm a d, .shri imm a d, .sari imm a d,
      .slti imm a d][k]? = some i →
    encode i = some (.long (BitVec.ofNat 4 k ++ imm ++ a ++ d ++ (0x05 : BitVec 6))) ∧ anywhere i ∧
      (i.wellFormed .c = true ↔ small a ∧ small d) ∧
      ∀ fn : BitVec 4, 8 ≤ fn.toNat → (InstrWord.long (fn ++ imm ++ a ++ d ++ (0x05 : BitVec 6))).decode = .unassigned

/-- The scalar members of majors 1 and 2: words, results, and nothing else written. -/
def Obligations.ScalarArithmetic : Prop := Rules.ScalarArithmetic ∧ Rules.ScalarImmediates ∧ Rules.ScalarForms

/-- R318, R360, R343, R317: the other members that write one scalar register and do nothing else. -/
def Rules.ScalarMiscellany : Prop := ∀ b a d : RegField,
  ScalarResult (.clz a d) d (fun r =>
    BitVec.ofNat 64 (if (r a).toNat = 0 then 64 else 63 - Nat.log2 (r a).toNat)) ∧
  ScalarResult (.popc a d) d (fun r => BitVec.ofNat 64 ((List.range 64).filter fun k => (r a).getLsbD k).length) ∧
  ScalarResult (.sel b a d) d (fun r => if (r d).toNat ≠ 0 then r a else r b) ∧
  (∀ i : BitVec 20, ScalarResult (.movi i d) d fun _ => BitVec.ofInt 64 i.toInt) ∧
  (∀ (p : BitVec 2) (v : BitVec 16) (s : State) (w : Weave), s.Ready (.movk p v d) w →
    ∃ x : DWord, exec (.movk p v d) s = .next (s.issued.onMe fun u => u.setScal s.cur.strand d.toNat x) ∧
      ∀ k, k < 64 → x.getLsbD k =
        if k / 16 = p.toNat then v.getLsbD (k % 16) else (w.scal s.cur.strand d.toNat).getLsbD k) ∧
  (∀ (s : State) (w : Weave), s.Ready (.clock 0 d) w → exec (.clock 0 d) s =
    .next (s.issued.onMe fun u => u.setScal s.cur.strand d.toNat (BitVec.ofNat 64 s.time))) ∧
  (∀ (s : State) (w : Weave), s.Ready (.clock 1 d) w → exec (.clock 1 d) s =
    .next (s.issued.onMe fun u => u.setScal s.cur.strand d.toNat (BitVec.ofNat 64 (s.time / 3300))))

/-- R23, R351: PGQ returns the values of its table, and a selector above 17 faults ILLEGAL. -/
def Rules.GroupQueries : Prop := ∀ (a d : RegField) (s : State) (w : Weave) (c : Crew) (l : Launch),
  s.Ready (.pgq a d) w → s.crew? w.crew = some c → s.launches.find? (fun x => x.id = c.launch) = some l →
  let n := (w.scal s.cur.strand a.toNat).toNat
  let fixed := [w.index, c.size, c.index, l.share, l.first, l.record.grid, l.rank, l.span, l.record.stage, c.gangSize,
    w.id.core, w.id.core / 96].map (BitVec.ofNat 64)
  (∀ v, n < 12 → fixed[n]? = some v →
    exec (.pgq a d) s = .next (s.issued.onMe fun u => u.setScal s.cur.strand d.toNat v)) ∧
  (∀ v, 12 ≤ n → n ≤ 17 → l.neighbours[n - 12]? = some v →
    exec (.pgq a d) s = .next (s.issued.onMe fun u => u.setScal s.cur.strand d.toNat v)) ∧
  (17 < n → exec (.pgq a d) s =
    .next (s.vector s.cur.weave s.cur.strand (s.info w .illegal accOther)))

/-- CLZ, POPC, SEL, MOVI, MOVK, CLOCK and PGQ. -/
def Obligations.ScalarMembers : Prop := Rules.ScalarMiscellany ∧ Rules.GroupQueries

/-- R48, R42, R251: how a scalar register is read and written: a0 and s0, EM0 to EM2, and the supervisor bank. -/
def Rules.ScalarRegisters : Prop := ∀ (w : Weave) (x : DWord),
  (∀ st, w.scal st 0 = 0 ∧ w.setScal st 0 x = w) ∧
  (∀ n, n < 64 → n ≠ 0 → (n < 56 ∨ w.aMode = .user) →
    (w.setScal .a n x).aRegs[n]? = some x ∧ (w.setScal .a n x).scal .a n = x ∧
    { w.setScal .a n x with aRegs := w.aRegs } = w ∧
    ∀ k, k ≠ n → (w.setScal .a n x).aRegs[k]? = w.aRegs[k]?) ∧
  (∀ n, 56 ≤ n → n < 64 → w.aMode = .supervisor →
    (w.setScal .a n x).aBank[n - 56]? = some x ∧ (w.setScal .a n x).scal .a n = x ∧
    { w.setScal .a n x with aBank := w.aBank } = w ∧
    ∀ k, k ≠ n - 56 → (w.setScal .a n x).aBank[k]? = w.aBank[k]?) ∧
  (∀ e n, n < 29 → n ≠ 0 → (n < 20 ∨ n = 28 ∨ w.cMode = .user) →
    (w.setScal (.c e) n x).sRegs[n]? = some x ∧ (w.setScal (.c e) n x).scal (.c e) n = x ∧
    { w.setScal (.c e) n x with sRegs := w.sRegs } = w ∧
    ∀ k, k ≠ n → (w.setScal (.c e) n x).sRegs[k]? = w.sRegs[k]?) ∧
  (∀ e n, 20 ≤ n → n < 28 → w.cMode = .supervisor →
    (w.setScal (.c e) n x).sBank[n - 20]? = some x ∧ (w.setScal (.c e) n x).scal (.c e) n = x ∧
    { w.setScal (.c e) n x with sBank := w.sBank } = w ∧
    ∀ k, k ≠ n - 20 → (w.setScal (.c e) n x).sBank[k]? = w.sBank[k]?) ∧
  ∀ e n, e < 128 → 29 ≤ n → n < 32 →
    (∀ l, l < 64 → (w.scal (.c e) n).getLsbD l = (decide (l < 32) && (w.entry e).mask.getLsbD (32 * (n - 29) + l))) ∧
    (∀ l, l < 96 → ((w.setScal (.c e) n x).entry e).mask.getLsbD l =
      if l / 32 = n - 29 then x.getLsbD (l % 32) && (w.entry e).owned.getLsbD l else (w.entry e).mask.getLsbD l) ∧
    w.setScal (.c e) n x =
      w.setEntry e { w.entry e with mask := ((w.setScal (.c e) n x).entry e).mask }

/-- R50, R48: a lane register or a predicate is written in the lanes of the mask alone, a write to p7 is discarded, and a
fragment's PC, mask and the registers of other numbers stay. -/
def Rules.LaneAndPredicateWrites : Prop := ∀ (w : Weave) (m : LaneMask),
  (∀ n (f : Nat → Word), n < w.vRegs.length →
    (∀ l, l < 96 → laneAt ((w.setLanes n m f).lane n) l = if m.getLsbD l then f l else laneAt (w.lane n) l) ∧
    (∀ k, k ≠ n → (w.setLanes n m f).lane k = w.lane k) ∧
    (w.setLanes n m f).vRegs.length = w.vRegs.length ∧ { w.setLanes n m f with vRegs := w.vRegs } = w) ∧
  (∀ k (p : LaneMask), k < 7 →
    (∀ l, l < 96 → ((w.setPred k m p).pred k).getLsbD l = if m.getLsbD l then p.getLsbD l else (w.pred k).getLsbD l) ∧
    (∀ j, j ≠ k → (w.setPred k m p).pred j = w.pred j) ∧ { w.setPred k m p with pRegs := w.pRegs } = w) ∧
  (∀ p : LaneMask, w.setPred 7 m p = w) ∧ w.pred 7 = BitVec.allOnes 96

/-- How scalar, lane and predicate registers are read and written. -/
def Obligations.RegisterWrites : Prop := Rules.ScalarRegisters ∧ Rules.LaneAndPredicateWrites

/-- R60, R61, R62, R341: what MFC reads from each control register, and the order of its checks. -/
def Rules.ControlReads : Prop := ∀ (c d : RegField) (s : State) (w : Weave), s.Ready (.mfc c d) w →
  let low := fun (n x : Nat) => BitVec.ofNat 64 (x % 2 ^ n)
  let views := fun (f : ViewEntry → Bool) => ((List.range 4).map fun k => if f w.views[k]! then 2 ^ k else 0).sum
  let value : List (Nat × DWord) := [
    (0, if s.cur.strand.stream = .a then w.mdefA else w.mdefC), (1, w.fpctl),
    (2, low 64 (w.gang.size.toNat * 2 ^ 16 + w.gang.members.toNat)),
    (3, low 64 ((if w.pair.valid then 2 ^ 16 else 0) + w.pair.weave.toNat * 2 ^ 12 + w.pair.core.toNat)),
    (4, low 32 w.breg.toNat), (5, low 64 (views (·.valid) + 16 * views (·.expired))), (6, low 7 w.mprom.toNat),
    (7, low 32 w.chktol.toNat),
    (8, low 64 ((if w.chkinj.arm then 2 ^ 16 else 0) + w.chkinj.column.toNat * 2 ^ 8 + w.chkinj.row.toNat)),
    (9, low 64 w.splitBase), (10, low 32 w.fltm.toNat), (11, low 32 (w.fltm.toNat / 2 ^ 32)),
    (12, low 32 (w.fltm.toNat / 2 ^ 64)), (13, low 20 w.fltrec.toNat), (14, w.hndlr), (15, low 32 w.pgt.toNat),
    (16, w.ctxid), (17, low 64 s.time), (18, low 32 w.pwatch.toNat), (19, low 2 w.qcfg.toNat)]
  let supervisor := c.toNat = 8 ∨ c.toNat = 13 ∨ c.toNat = 14
  (∀ x, (c.toNat, x) ∈ value → (supervisor → w.mode s.cur.strand = .supervisor) →
    exec (.mfc c d) s = .next (s.issued.onMe fun u => u.setScal s.cur.strand d.toNat x)) ∧
  (20 ≤ c.toNat → exec (.mfc c d) s =
    .next (s.vector s.cur.weave s.cur.strand (s.info w .illegal accOther))) ∧
  (supervisor → w.mode s.cur.strand = .user → exec (.mfc c d) s =
    .next (s.vector s.cur.weave s.cur.strand (s.info w .priv accOther)))

/-- R60, R61, R241: the order in which MTC is checked, and that it otherwise writes the register; members of the weave that stand at the
gang latch keep the CHKINJ that they issued with, and note that it has been written since. -/
def Rules.ControlWriteChecks : Prop := ∀ (a c : RegField) (s : State) (w : Weave), s.Ready (.mtc a c) w →
  let v := w.scal s.cur.strand a.toNat
  let faults := fun (e : Cause) => exec (.mtc a c) s =
    .next (s.vector s.cur.weave s.cur.strand (s.info w e accOther))
  if 20 ≤ c.toNat then faults .illegal
  else if (c.toNat = 8 ∨ c.toNat = 13 ∨ c.toNat = 14) ∧ w.mode s.cur.strand = .user then faults .priv
  else if s.cur.strand = .a ∧ c.toNat ∈ [1, 2, 3, 6, 7, 8, 10, 11, 12] then faults .stream
  else if c.toNat ∈ [9, 15, 16, 17, 19] then faults .illegal
  else if ctrlAccepts w c.toNat v = false then faults .illegal
  else
    let t := s.issued.onMe fun u => u.setCtrl s.cur.strand c.toNat v
    exec (.mtc a c) s = .next (if c.toNat ≠ 8 then t else { t with crews := t.crews.map fun k =>
      { k with latch := k.latch.map fun y => if y.weave = s.cur.weave then { y with renewed := true } else y } })

/-- R62: the values that MTC rejects, register by register. -/
def Rules.ControlCodes : Prop := ∀ (w : Weave) (v : DWord),
  let field := fun (hi lo : Nat) => v.toNat / 2 ^ lo % 2 ^ (hi - lo + 1)
  (ctrlAccepts w 0 v = true ↔ field 2 0 ≤ 4 ∧ field 5 3 ≠ 7 ∧ field 8 6 ≤ 3 ∧ field 11 9 ≤ 3) ∧
  (ctrlAccepts w 1 v = true ↔ field 2 0 ≤ 4) ∧
  (w.index < 16 → (ctrlAccepts w 2 v = true ↔ 2 ≤ field 18 16 ∧ field 18 16 ≤ 6 ∧ v.getLsbD w.index = true ∧
    ((List.range 16).filter fun k => v.getLsbD k).length = field 18 16)) ∧
  (ctrlAccepts w 3 v = true ↔ field 8 0 ≤ 383) ∧
  (ctrlAccepts w 6 v = true ↔ field 6 0 ≠ 0 ∧ field 6 0 ≤ 64) ∧
  (ctrlAccepts w 7 v = true ↔ field 31 0 ≤ 0x7F800000 ∨ field 31 0 = 0x80000000) ∧
  (ctrlAccepts w 8 v = true ↔ field 15 8 ≤ 95 ∧ field 7 0 ≤ 95) ∧
  ∀ n, n ∈ [4, 5, 10, 11, 12, 13, 14, 18] → ctrlAccepts w n v = true

/-- R62, R73: what a write leaves in each control register; bits marked zero ignore it, and W1C bits clear. -/
def Rules.ControlWrites : Prop := ∀ (w : Weave) (st : Strand) (v : DWord),
  let field := fun (hi lo : Nat) => v.toNat / 2 ^ lo % 2 ^ (hi - lo + 1)
  let d := fun (n : Nat) => w.setCtrl st n v
  let seeded := fun (l : Nat) => BitVec.ofNat 32 (field 63 32) ^^^ BitVec.ofNat 32 ((w.id.slot * 96 + l + 1) * 0x9E3779B9)
  ((d 0).mdef st = BitVec.ofNat 64 (field 13 0) ∧ { d 0 with mdefA := w.mdefA, mdefC := w.mdefC } = w ∧
    (st = .a → (d 0).mdefC = w.mdefC) ∧ (st ≠ .a → (d 0).mdefA = w.mdefA)) ∧
  ((d 1).fpctl = BitVec.ofNat 64 (field 63 32 * 2 ^ 32 + field 4 0) ∧ { d 1 with fpctl := w.fpctl, gens := w.gens } = w ∧
    ∀ l, (h : l < 96) → (d 1).gens[l] = if seeded l = 0 then 1 else seeded l) ∧
  d 2 = { w with gang := ⟨BitVec.ofNat 3 (field 18 16), BitVec.ofNat 16 (field 15 0)⟩ } ∧
  d 3 = { w with pair := ⟨v.getLsbD 16, BitVec.ofNat 4 (field 15 12), BitVec.ofNat 9 (field 8 0)⟩ } ∧
  d 4 = { w with breg := BitVec.ofNat 32 (field 31 0) } ∧
  (∀ k, (h : k < 4) → (d 5).views[k] = { w.views[k] with expired := w.views[k].expired && !v.getLsbD (4 + k) }) ∧
  { d 5 with views := w.views } = w ∧
  d 6 = { w with mprom := BitVec.ofNat 7 (field 6 0) } ∧ d 7 = { w with chktol := BitVec.ofNat 32 (field 31 0) } ∧
  d 8 = { w with chkinj := ⟨v.getLsbD 16, BitVec.ofNat 8 (field 15 8), BitVec.ofNat 8 (field 7 0)⟩ } ∧
  (∀ k, k < 3 → (∀ l, l < 96 → (d (10 + k)).fltm.getLsbD l =
      (w.fltm.getLsbD l && !(l / 32 == k && v.getLsbD (l % 32)))) ∧ { d (10 + k) with fltm := w.fltm } = w) ∧
  d 13 = { w with fltrec := BitVec.ofNat 20 (field 19 0) } ∧ d 14 = { w with hndlr := BitVec.ofNat 64 (v.toNat / 2 * 2) } ∧
  d 18 = { w with pwatch := BitVec.ofNat 32 (field 31 0) }

/-! ### Control flow -/

/-- MFC and MTC, register by register. -/
def Obligations.ControlRegisters : Prop := Rules.ControlReads ∧ Rules.ControlWriteChecks ∧ Rules.ControlCodes ∧ Rules.ControlWrites

/-- R301, R101, R332, R354, R13: where BRA, CALL, JMPR, RET and NOP leave the PC and the link register, and when a jump faults. -/
def Rules.Jumps : Prop := ∀ (s : State) (w : Weave),
  let st := s.cur.strand
  let link : Nat := if st = .a then 63 else 28
  let next : DWord := BitVec.ofNat 64 ((s.cur.pc.toNat + 4) % 2 ^ 32)
  let at' := fun (pc : BitVec 32) (t : State) => t.onMe fun u => u.setPc st pc
  let faults := fun (i : Instr) (c : Cause) (access : Nat) => exec i s =
    .next (s.vector s.cur.weave st (s.info w c access))
  (∀ o, s.Ready (.bra o) w →
    exec (.bra o) s = .next (at' (BitVec.ofInt 32 (s.cur.pc.toNat + 2 * o.toInt)) s.issued)) ∧
  (∀ o, s.Ready (.call o) w → exec (.call o) s =
    .next (at' (BitVec.ofInt 32 (s.cur.pc.toNat + 2 * o.toInt)) (s.issued.onMe fun u => u.setScal st link next))) ∧
  (s.Ready .nop w → exec .nop s = .next s.issued) ∧
  (∀ a d, s.Ready (.jmpr a d) w →
    let t := w.scal st a.toNat
    if t.toNat % 2 = 1 then faults (.jmpr a d) .align accOther
    else if 2 ^ 32 ≤ t.toNat then faults (.jmpr a d) .objBound accFetch
    else exec (.jmpr a d) s =
      .next (at' (BitVec.ofNat 32 t.toNat) (s.issued.onMe fun u => u.setScal st d.toNat next))) ∧
  (s.Ready .ret w →
    let t := w.scal st link
    if t.toNat % 2 = 1 then faults .ret .align accOther
    else if 2 ^ 32 ≤ t.toNat then faults .ret .objBound accFetch
    else exec .ret s = .next (at' (BitVec.ofNat 32 t.toNat) s.issued))

/-- R290: whether BCC takes its branch, condition by condition, and where the PC stands after it. -/
def Rules.ConditionalBranch : Prop :=
  ∀ (o : BitVec 11) (c : BitVec 3) (b a : RegField) (s : State) (w : Weave), s.Ready (.bcc o c b a) w →
  let x := w.scal s.cur.strand a.toNat
  let y := w.scal s.cur.strand b.toNat
  let acting := fun (l : Nat) => (w.act s.cur.strand).getLsbD l = true
  let holds := fun (l : Nat) => (w.pred a.toNat).getLsbD l = true
  let take : Prop := match c.toNat with
    | 0 => x = y
    | 1 => x ≠ y
    | 2 => x.toInt < y.toInt
    | 3 => y.toInt ≤ x.toInt
    | 4 => x.toNat < y.toNat
    | 5 => y.toNat ≤ x.toNat
    | 6 => ∃ l, acting l ∧ holds l
    | _ => ∀ l, acting l → holds l
  (take → exec (.bcc o c b a) s = .next (s.issued.onMe fun u =>
    u.setPc s.cur.strand (BitVec.ofInt 32 (s.cur.pc.toNat + 2 * o.toInt)))) ∧
  (¬take → exec (.bcc o c b a) s = .next s.issued)

/-- R306, R39: BRV moves the fragment, falls through or splits it; the taken lanes keep the entry and issue first, and
inactive owned lanes go with the others. Without a free entry a split faults ILLEGAL. -/
def Rules.VectorBranch : Prop :=
  ∀ (o : BitVec 14) (sense : BitVec 1) (p : BitVec 3) (e : Nat) (s : State) (w : Weave),
  s.Ready (.brv o sense p) w → s.cur.strand = .c e →
  let i : Instr := .brv o sense p
  let x := w.entry e
  let takes := fun (l : Nat) => x.mask.getLsbD l = true ∧ (w.pred p.toNat).getLsbD l = (sense == 0)
  let target := BitVec.ofInt 32 (s.cur.pc.toNat + 2 * o.toInt)
  ((∃ l, takes l) → (∀ l, x.mask.getLsbD l = true → takes l) →
    exec i s = .next (s.issued.onMe fun u => u.setPc (.c e) target)) ∧
  ((∀ l, ¬takes l) → exec i s = .next s.issued) ∧
  ((∃ l, takes l) → (∃ l, x.mask.getLsbD l = true ∧ ¬takes l) →
    ((∀ k, k < 128 → (w.entry k).kind ≠ .free) → exec i s =
      .next (s.vector s.cur.weave (.c e) (s.info w .illegal accOther))) ∧
    ∀ f, f < 128 → (w.entry f).kind = .free → (∀ k, k < f → (w.entry k).kind ≠ .free) →
      ∃ m : LaneMask, (∀ l, m.getLsbD l = true ↔ takes l) ∧ exec i s = .next (s.issued.onMe fun u =>
        { (u.setEntry f ⟨.ready, s.cur.pc + 4, (u.entry e).owned &&& ~~~m, (u.entry e).mask &&& ~~~m, (u.entry e).link,
            none, false⟩).setEntry e { u.entry e with addr := target, mask := m, owned := m } with takenFirst := some e }))

/-- R333, R41: JOIN takes the lowest free entry for a join that expects the fragment's owned lanes, and links the fragment
to it; with 128 live entries it faults ILLEGAL. That a join remembers the mode it was made in is the model's choice (log 22). -/
def Rules.Joins : Prop := ∀ (o : BitVec 18) (e : Nat) (s : State) (w : Weave),
  s.Ready (.join o) w → s.cur.strand = .c e →
  ((∀ k, k < 128 → (w.entry k).kind ≠ .free) → exec (.join o) s =
    .next (s.vector s.cur.weave (.c e) (s.info w .illegal accOther))) ∧
  ∀ j, j < 128 → (w.entry j).kind = .free → (∀ k, k < j → (w.entry k).kind ≠ .free) →
    ∃ handlers : BitVec 128, (∀ k, k < 128 → handlers.getLsbD k = if k = j then decide (w.cMode = .supervisor) else w.supJoins.getLsbD k) ∧
      exec (.join o) s = .next (s.issued.onMe fun u =>
        { (u.setEntry j ⟨.join, BitVec.ofInt 32 (s.cur.pc.toNat + 2 * o.toInt), (u.entry e).owned, 0, (u.entry e).link, none,
          false⟩).setEntry e { u.entry e with link := some j } with supJoins := handlers })

/-- BRA, CALL, JMPR, RET, NOP, BCC, BRV and JOIN: where the PC goes, splits and join entries. -/
def Obligations.JumpsAndDivergence : Prop := Rules.Jumps ∧ Rules.ConditionalBranch ∧ Rules.VectorBranch ∧ Rules.Joins

/-- R379: the results of VOTE's four kinds. -/
def Rules.Votes : Prop := ∀ (k p : BitVec 3) (d : RegField) (s : State) (w : Weave), s.Ready (.vote k p d) w →
  let acting := (List.range 96).filter fun l => (w.act s.cur.strand).getLsbD l
  let with' := acting.filter fun l => (w.pred p.toNat).getLsbD l
  let value : Nat := match k.toNat with
    | 0 => if with' ≠ [] then 1 else 0
    | 1 => if with' = acting then 1 else 0
    | 2 => with'.length
    | _ => if with' = acting ∨ with' = [] then 1 else 0
  exec (.vote k p d) s = .next (s.issued.onMe fun u => u.setScal s.cur.strand d.toNat (BitVec.ofNat 64 value))

/-- R320, R41, R252: EXIT ends the A-stream; it removes the exiting lanes from a fragment and from every join entry on its link chain;
the rest parks at the nearest, or stays at the EXIT, and each join of the chain fuses if what is parked on it is now what it expects; in
supervisor mode EXIT stops the weave. -/
def Rules.Exits : Prop := ∀ (s : State) (w : Weave), s.Ready .exit w →
  (w.mode s.cur.strand = .supervisor → exec .exit s = .next (s.issued.stopWeave s.cur.weave)) ∧
  (w.mode s.cur.strand = .user → s.cur.strand = .a →
    exec .exit s = .next (s.issued.onMe fun u => { u with aEnded := true })) ∧
  ∀ e, w.mode s.cur.strand = .user → s.cur.strand = .c e → e < 128 →
    exec .exit s = .next (s.issued.onMe fun u => u.exitLanes e s.cur.pc) ∧
    ∀ (u : Weave) (joins : List Nat), let x := u.entry e
      let rest := x.owned &&& ~~~x.mask
      joins.length ≤ 128 → x.link = joins.head? → (∀ k j, joins[k]? = some j → (u.entry j).link = joins[k + 1]?) →
      ∃ v : Weave, { v with split := u.split } = u ∧ u.exitLanes e s.cur.pc = joins.foldl Weave.fuse v ∧
        ∀ k, k < 128 → v.entry k =
          if k = e then
            (if rest = 0 then SplitEntry.empty
             else if joins = [] then { x with owned := rest, mask := 0, addr := s.cur.pc, done := true }
             else { x with kind := .parked, owned := rest, mask := 0 })
          else if k ∈ joins then { u.entry k with owned := (u.entry k).owned &&& ~~~x.mask } else u.entry k

/-- R383, R384, R45, R153: WAIT completes at once when the phase of its object is the awaited one, and moves on; YIELD continues
at its target when the phase is not p; otherwise each waits at its own PC. A completion whose acquire has to send stays as it is until a
slot names the partition. -/
def Rules.PhaseWaits : Prop := ∀ (d : RegField) (s : State) (w : Weave),
  let st := s.cur.strand
  let v := (w.scal st d.toNat).toNat
  let locator := v % 2 ^ 20
  let place := (s.issued.agentOf w st).spad locator
  let phase := (s.issued.sramByte w.id.core place).getLsbD 0
  let named := bitAt v 32
  let inside := (s.issued.agentOf w st).reserved locator 32
  let held := s.issued.fenceHeld w.partition w.id.core (s.issued.flipScope w.id.core place)
  let acquired := s.issued.acquire w.id.core (s.issued.flipScope w.id.core place)
  let wrong := fun (i : Instr) (c : Cause) => exec i s = .next (s.vector s.cur.weave st
    { s.info w c accOther with place := BitVec.ofNat 128 locator })
  (s.Ready (.wait d) w → inside = true → locator % 32 = 0 →
    (phase = named → exec (.wait d) s = .next (if held then s else acquired.onMe fun u => u.setPc st (s.cur.pc + 4))) ∧
    (phase ≠ named → exec (.wait d) s = .next (s.issued.startWait (.completion place named (s.cur.pc + 4))))) ∧
  (∀ o, s.Ready (.yield o d) w → inside = true → locator % 32 = 0 →
    let target := BitVec.ofInt 32 (s.cur.pc.toNat + 2 * o.toInt)
    (phase ≠ named → exec (.yield o d) s = .next (if held then s else acquired.onMe fun u => u.setPc st target)) ∧
    (phase = named → exec (.yield o d) s = .next (s.issued.startWait (.completion place (!named) target)))) ∧
  ∀ i, i = .wait d ∨ (∃ o, i = .yield o d) → s.Ready i w →
    (inside = false → wrong i .objBound) ∧ (inside = true → locator % 32 ≠ 0 → wrong i .align)

/-! ### Lane members -/

/-- VOTE, EXIT, WAIT and YIELD. -/
def Obligations.VotesExitsWaits : Prop := Rules.Votes ∧ Rules.Exits ∧ Rules.PhaseWaits

/-- R58: the lane of b that each lane receives under each pattern; pattern 15 faults ILLEGAL, and pattern 14 names s1 to the scoreboard. -/
def Obligations.Patterns : Prop := ∀ (w : Weave) (st : Strand) (b l : Nat), l < 96 →
  let g := 8 * (l / 8)
  let t := l % 8
  let low := (w.scal st 1).toNat % 128
  let src : List Nat := [l, l ^^^ 1, l ^^^ 2, l ^^^ 4, l ^^^ 8, l ^^^ 16, if 96 ≤ l ^^^ 32 then l else l ^^^ 32,
    g + (t + 7) % 8, g + (t + 1) % 8, 95 - l, 32 * (l / 32) + 31 - l % 32, g, 0, 95, if low < 96 then low else 0]
  (∀ (p : BitVec 4) (k : Nat), src[p.toNat]? = some k → w.pat st p b l = laneAt (w.lane b) k ∧ k < 96) ∧
  ∀ (f a d : RegField) (e : Nat) (s : State), s.weave? s.cur.weave = some w → s.cur.strand = .c e →
    s.cur.moment = .now → exec (.vadd 15 f a d) s = .next (s.vector s.cur.weave (.c e) (s.info w .illegal accOther)) ∧
    exec (.faddF16 15 f a d) s = .next (s.vector s.cur.weave (.c e) (s.info w .illegal accOther)) ∧
    1 ∈ (w.touched (.c e) (.vadd 14 f a d)).1 ∧ 1 ∈ (w.touched (.c e) (.faddF16 14 f a d)).1

/-- R372, R86, R87 on 32-bit elements: the result of each member of major 10, lane by lane. -/
def Rules.LaneIntegers : Prop := ∀ (p : BitVec 4) (b a d : RegField),
  LaneResult (.vadd p b a d) p b a d (integerOp 0 32) ∧ LaneResult (.vsub p b a d) p b a d (integerOp 1 32) ∧
  LaneResult (.vmul p b a d) p b a d (integerOp 2 32) ∧ LaneResult (.vmulh p b a d) p b a d (integerOp 3 32) ∧
  LaneResult (.vmulhu p b a d) p b a d (integerOp 4 32) ∧ LaneResult (.vmad p b a d) p b a d (integerOp 5 32) ∧
  LaneResult (.vand p b a d) p b a d (integerOp 6 32) ∧ LaneResult (.vor p b a d) p b a d (integerOp 7 32) ∧
  LaneResult (.vxor p b a d) p b a d (integerOp 8 32) ∧ LaneResult (.vshl p b a d) p b a d (integerOp 9 32) ∧
  LaneResult (.vshr p b a d) p b a d (integerOp 10 32) ∧ LaneResult (.vsar p b a d) p b a d (integerOp 11 32) ∧
  LaneResult (.vmin p b a d) p b a d (integerOp 12 32) ∧ LaneResult (.vmax p b a d) p b a d (integerOp 13 32) ∧
  LaneResult (.vadds p b a d) p b a d (integerOp 14 32) ∧ LaneResult (.vsubs p b a d) p b a d (integerOp 15 32)

/-- R372, R68, R86, R87 on 16-bit and 8-bit elements: each element of the result comes from the elements at its place. -/
def Rules.PackedIntegers : Prop := ∀ (p : BitVec 4) (b a d : RegField),
  (PackedResult 16 (.vaddI16 p b a d) p b a d (integerOp 0 16) ∧ PackedResult 16 (.vsubI16 p b a d) p b a d (integerOp 1 16) ∧
  PackedResult 16 (.vmulI16 p b a d) p b a d (integerOp 2 16) ∧ PackedResult 16 (.vmulhI16 p b a d) p b a d (integerOp 3 16) ∧
  PackedResult 16 (.vmulhuI16 p b a d) p b a d (integerOp 4 16) ∧ PackedResult 16 (.vmadI16 p b a d) p b a d (integerOp 5 16) ∧
  PackedResult 16 (.vandI16 p b a d) p b a d (integerOp 6 16) ∧ PackedResult 16 (.vorI16 p b a d) p b a d (integerOp 7 16) ∧
  PackedResult 16 (.vxorI16 p b a d) p b a d (integerOp 8 16) ∧ PackedResult 16 (.vshlI16 p b a d) p b a d (integerOp 9 16) ∧
  PackedResult 16 (.vshrI16 p b a d) p b a d (integerOp 10 16) ∧ PackedResult 16 (.vsarI16 p b a d) p b a d (integerOp 11 16) ∧
  PackedResult 16 (.vminI16 p b a d) p b a d (integerOp 12 16) ∧ PackedResult 16 (.vmaxI16 p b a d) p b a d (integerOp 13 16) ∧
  PackedResult 16 (.vaddsI16 p b a d) p b a d (integerOp 14 16) ∧ PackedResult 16 (.vsubsI16 p b a d) p b a d (integerOp 15 16)) ∧
  PackedResult 8 (.vaddI8 p b a d) p b a d (integerOp 0 8) ∧ PackedResult 8 (.vsubI8 p b a d) p b a d (integerOp 1 8) ∧
  PackedResult 8 (.vmulI8 p b a d) p b a d (integerOp 2 8) ∧ PackedResult 8 (.vmulhI8 p b a d) p b a d (integerOp 3 8) ∧
  PackedResult 8 (.vmulhuI8 p b a d) p b a d (integerOp 4 8) ∧ PackedResult 8 (.vmadI8 p b a d) p b a d (integerOp 5 8) ∧
  PackedResult 8 (.vandI8 p b a d) p b a d (integerOp 6 8) ∧ PackedResult 8 (.vorI8 p b a d) p b a d (integerOp 7 8) ∧
  PackedResult 8 (.vxorI8 p b a d) p b a d (integerOp 8 8) ∧ PackedResult 8 (.vshlI8 p b a d) p b a d (integerOp 9 8) ∧
  PackedResult 8 (.vshrI8 p b a d) p b a d (integerOp 10 8) ∧ PackedResult 8 (.vsarI8 p b a d) p b a d (integerOp 11 8) ∧
  PackedResult 8 (.vminI8 p b a d) p b a d (integerOp 12 8) ∧ PackedResult 8 (.vmaxI8 p b a d) p b a d (integerOp 13 8) ∧
  PackedResult 8 (.vaddsI8 p b a d) p b a d (integerOp 14 8) ∧ PackedResult 8 (.vsubsI8 p b a d) p b a d (integerOp 15 8)

/-- The integer members of majors 10 to 12, on elements of 32, 16 and 8 bits. -/
def Obligations.LaneIntegers : Prop := Rules.LaneIntegers ∧ Rules.PackedIntegers

/-- R371, R370: what each member of major 13 writes in each lane of ACT. -/
def Rules.LaneMiscellany : Prop := ∀ (p : BitVec 4) (b a d : RegField) (k : BitVec 3),
  let byte := fun (x : Word) (i : Nat) => (BitVec.ofNat 8 (x.toNat / 2 ^ (8 * i))).toInt
  (∀ c : BitVec 3, PredResult (.vcmp p b a c k) k fun st w l =>
    let x := laneAt (w.lane a.toNat) l
    let y := w.pat st p b.toNat l
    [decide (x = y), decide (x ≠ y), decide (x.toInt < y.toInt), decide (x.toInt ≤ y.toInt), decide (y.toInt < x.toInt),
      decide (y.toInt ≤ x.toInt), decide (x.toNat < y.toNat), decide (y.toNat ≤ x.toNat)][c.toNat]!) ∧
  DrawnResult (.vsel p b k d) d 0 (fun st w l =>
    if (w.pred k.toNat).getLsbD l then w.pat st p b.toNat l else laneAt (w.lane d.toNat) l) ∧
  LaneResult (.vabs p b d) p b 0 d (fun _ y _ => BitVec.ofNat 32 y.toInt.natAbs) ∧
  LaneResult (.vclz p b d) p b 0 d (fun _ y _ => BitVec.ofNat 32 (if y.toNat = 0 then 32 else 31 - Nat.log2 y.toNat)) ∧
  LaneResult (.vpopc p b d) p b 0 d (fun _ y _ => BitVec.ofNat 32 ((List.range 32).filter fun j => y.getLsbD j).length) ∧
  LaneResult (.vdot4 p b a d) p b a d (fun x y z => BitVec.ofInt 32
    (z.toInt + byte x 0 * byte y 0 + byte x 1 * byte y 1 + byte x 2 * byte y 2 + byte x 3 * byte y 3)) ∧
  LaneResult (.vmov p b d) p b 0 d (fun _ y _ => y) ∧
  (∀ (i : BitVec 2), LaneResult (.vext p b 0 0 i d) p b 0 d (fun _ y _ => BitVec.ofNat 32 (y.toNat / 2 ^ (8 * i.toNat) % 2 ^ 8)) ∧
    LaneResult (.vext p b 1 0 i d) p b 0 d (fun _ y _ => BitVec.ofInt 32 (byte y i.toNat)) ∧
    LaneResult (.vext p b 0 1 i d) p b 0 d (fun _ y _ => BitVec.ofNat 32 (y.toNat / 2 ^ (16 * i.toNat) % 2 ^ 16)) ∧
    LaneResult (.vext p b 1 1 i d) p b 0 d (fun _ y _ =>
      BitVec.ofInt 32 (BitVec.ofNat 16 (y.toNat / 2 ^ (16 * i.toNat))).toInt)) ∧
  (∀ (i : BitVec 2) (wd : BitVec 1), ∃ f : Word → Word → Word, LaneResult (.vins p b wd i d) p b 0 d (fun _ y z => f y z) ∧
    let e := if wd = 0 then 8 else 16
    ∀ y z j, e * i.toNat + e ≤ 32 → j < 32 → (f y z).getLsbD j =
      if j / e = i.toNat then y.getLsbD (j % e) else z.getLsbD j) ∧
  DrawnResult (.vbcst a d) d 0 (fun st w _ => BitVec.ofNat 32 (w.scal st a.toNat).toNat) ∧
  LaneResult (.vminu p b a d) p b a d (fun x y _ => BitVec.ofNat 32 (min x.toNat y.toNat)) ∧
  LaneResult (.vmaxu p b a d) p b a d (fun x y _ => BitVec.ofNat 32 (max x.toNat y.toNat))

/-- R373: what each member of major 19 writes; the immediate is signed, and an amount of a shift is not. -/
def Rules.LaneImmediates : Prop := ∀ (i : BitVec 10) (a d : RegField),
  LaneResult (.vaddi i a d) 0 0 a d (fun x _ _ => BitVec.ofInt 32 (x.toInt + i.toInt)) ∧
  LaneResult (.vandi i a d) 0 0 a d (fun x _ _ => x &&& BitVec.ofInt 32 i.toInt) ∧
  LaneResult (.vori i a d) 0 0 a d (fun x _ _ => x ||| BitVec.ofInt 32 i.toInt) ∧
  LaneResult (.vxori i a d) 0 0 a d (fun x _ _ => x ^^^ BitVec.ofInt 32 i.toInt) ∧
  LaneResult (.vshli i a d) 0 0 a d (fun x _ _ => BitVec.ofNat 32 (x.toNat * 2 ^ i.toNat)) ∧
  LaneResult (.vshri i a d) 0 0 a d (fun x _ _ => BitVec.ofNat 32 (x.toNat / 2 ^ i.toNat)) ∧
  LaneResult (.vsari i a d) 0 0 a d (fun x _ _ => BitVec.ofInt 32 (x.toInt / 2 ^ i.toNat)) ∧
  LaneResult (.vmovi i d) 0 0 0 d (fun _ _ _ => BitVec.ofInt 32 i.toInt) ∧
  ∀ c k : BitVec 3, PredResult (.vcmpi i a c k) k fun _ w l =>
    let x := laneAt (w.lane a.toNat) l
    let y : Word := BitVec.ofInt 32 i.toInt
    [decide (x = y), decide (x ≠ y), decide (x.toInt < y.toInt), decide (x.toInt ≤ y.toInt), decide (y.toInt < x.toInt),
      decide (y.toInt ≤ x.toInt), decide (x.toNat < y.toNat), decide (y.toNat ≤ x.toNat)][c.toNat]!

/-- R100: on every state a 16-bit word does what its 32-bit equivalent does, with pattern 0 and d as its a operand; and the
results, lane by lane. -/
def Rules.ShortForms : Prop := ∀ (b : BitVec 5) (d : RegField) (s : State),
  let b' : RegField := BitVec.ofNat 6 b.toNat
  let result := fun (i j : Instr) (draws : Nat) (f : Weave → Nat → Word → Word → Word) => exec i s = exec j s ∧
    ∀ w, s.Ready j w → exec i s = .next (s.issued.onMe fun v =>
      (v.setLanes d.toNat (w.act s.cur.strand) fun l =>
        f w l (laneAt (w.lane d.toNat) l) (laneAt (w.lane b.toNat) l)).advance (w.act s.cur.strand) draws)
  let integer := fun (i j : Instr) (fn : Nat) => result i j 0 fun _ _ x y => integerOp fn 32 x y 0
  let float := fun (i j : Instr) (draws : Nat) (op : FpMode → Fp → Fp → Fp) => result i j draws fun w l x y =>
    let md := fpMode w.fpctl
    BitVec.ofNat 32 (fp32.write md (op md (fp32.read md x.toNat) (fp32.read md y.toNat)) (w.draw l 0))
  integer (.vaddN b d) (.vadd 0 b' d d) 0 ∧ integer (.vsubN b d) (.vsub 0 b' d d) 1 ∧
  integer (.vmulN b d) (.vmul 0 b' d d) 2 ∧ integer (.vandN b d) (.vand 0 b' d d) 6 ∧
  integer (.vorN b d) (.vor 0 b' d d) 7 ∧ integer (.vxorN b d) (.vxor 0 b' d d) 8 ∧
  integer (.vshlN b d) (.vshl 0 b' d d) 9 ∧ integer (.vshrN b d) (.vshr 0 b' d d) 10 ∧
  integer (.vsarN b d) (.vsar 0 b' d d) 11 ∧ integer (.vminN b d) (.vmin 0 b' d d) 12 ∧
  integer (.vmaxN b d) (.vmax 0 b' d d) 13 ∧ result (.vmovN b d) (.vmov 0 b' d) 0 (fun _ _ _ y => y) ∧
  float (.faddN b d) (.fadd 0 b' d d) 1 (fun md x y => sumExact md.round [x, y]) ∧
  float (.fsubN b d) (.fsub 0 b' d d) 1 (fun md x y => sumExact md.round [x, y.neg]) ∧
  float (.fmulN b d) (.fmul 0 b' d d) 1 (fun _ x y => x.mul y) ∧ float (.fmaxN b d) (.fmax 0 b' d d) 0 (fun _ x y => x.max y)

/-- The other lane members, the immediate forms and the 16-bit forms. -/
def Obligations.LaneMembers : Prop := Rules.LaneMiscellany ∧ Rules.LaneImmediates ∧ Rules.ShortForms

/-- R369, R380, R375: ZIP and UNZIP of groups of registers, VPERM, and the packing of VCMPR. -/
def Rules.Rearrangements : Prop := ∀ (p : BitVec 4) (b a d : RegField) (k : BitVec 3),
  let elem := fun (w : Weave) (e : Nat) => laneAt (w.lane (a.toNat + e / 96)) (e % 96)
  let group := fun (i : Instr) (n : Nat) (src : Nat → Nat) => ∀ s w, s.Ready i w →
    ∃ g : Weave → Weave, exec i s = .next (s.issued.onMe g) ∧ ∀ u, u.vRegs.length = w.vRegs.length →
      (∀ e, e < 96 * n → (w.act s.cur.strand).getLsbD (e % 96) = true →
        laneAt ((g u).lane (d.toNat + e / 96)) (e % 96) = elem w (src e)) ∧
      (∀ r l, l < 96 → (r < d.toNat ∨ d.toNat + n ≤ r ∨ (w.act s.cur.strand).getLsbD l = false) →
        laneAt ((g u).lane r) l = laneAt (u.lane r) l) ∧ { g u with vRegs := u.vRegs } = u
  -- zip: element e of the result is element e div n of register e mod n of the group
  group (.zipW2 a d) 2 (fun e => 96 * (e % 2) + e / 2) ∧ group (.zipW3 a d) 3 (fun e => 96 * (e % 3) + e / 3) ∧
  group (.zipW4 a d) 4 (fun e => 96 * (e % 4) + e / 4) ∧
  -- unzip: the inverse
  group (.unzipW2 a d) 2 (fun e => 2 * (e % 96) + e / 96) ∧ group (.unzipW3 a d) 3 (fun e => 3 * (e % 96) + e / 96) ∧
  group (.unzipW4 a d) 4 (fun e => 4 * (e % 96) + e / 96) ∧
  DrawnResult (.vperm p b a d) d 0 (fun st w l =>
    if (w.pat st p b.toNat l).toNat < 96 then laneAt (w.lane a.toNat) (w.pat st p b.toNat l).toNat else 0) ∧
  ∀ s w, s.Ready (.vcmpr k a d) w →
    let chosen := (List.range 96).filter fun l => (w.act s.cur.strand).getLsbD l && (w.pred k.toNat).getLsbD l
    ∃ g : Weave → Weave, exec (.vcmpr k a d) s = .next (s.issued.onMe g) ∧ ∀ u, u.vRegs.length = w.vRegs.length →
      (∀ j l, chosen[j]? = some l → laneAt ((g u).lane d.toNat) j = laneAt (w.lane a.toNat) l) ∧
      (∀ r j, j < 96 → (r ≠ d.toNat ∨ chosen.length ≤ j) → laneAt ((g u).lane r) j = laneAt (u.lane r) j) ∧
      { g u with vRegs := u.vRegs } = u

/-! ### Floats -/

/-- R66, R74, R62: what the bits of each format stand for, what DAZ reads, and the modes that FPCTL names. -/
def Rules.FloatFormats : Prop :=
  (∀ f, f ∈ [fp32, fp16, bf16, e4m3, e5m2] → ∀ x, x < 2 ^ f.width →
    let neg := decide (2 ^ (f.width - 1) ≤ x)
    let ex := x / 2 ^ f.fracBits % 2 ^ f.expBits
    let fr := x % 2 ^ f.fracBits
    (if f ≠ e4m3 ∧ ex = 2 ^ f.expBits - 1 then f.decode x = (if fr = 0 then .inf neg else .nan)
      else if f = e4m3 ∧ x % 128 = 127 then f.decode x = .nan
      else (f.decode x).sign = neg ∧ (f.decode x).value = some ((if neg then -1 else 1 : ℚ) *
        ((if ex = 0 then fr else 2 ^ f.fracBits + fr : Nat) : ℚ) * 2 ^ (((max ex 1 : Nat) : Int) - f.bias - f.fracBits))) ∧
    ∀ md : FpMode, if md.daz = true ∧ f ≠ e4m3 ∧ f ≠ e5m2 ∧ ex = 0 ∧ fr ≠ 0
      then (f.read md x).value = some 0 ∧ (f.read md x).sign = neg else f.read md x = f.decode x) ∧
  ∀ v : DWord, (fpMode v).ftz = v.getLsbD 3 ∧ (fpMode v).daz = v.getLsbD 4 ∧
    ∀ k r, (k, r) ∈ [(0, Rounding.rne), (1, .rtz), (2, .rup), (3, .rdn), (4, .stochastic)] → v.toNat % 8 = k → (fpMode v).round = r

/-- R69, R72, R73, R74: a result is rounded once: to the nearest unit that the mode asks for, to the format's subnormals or
zero below its normals, to an infinity or the largest finite value beyond it, and to a zero of its sign under FTZ. -/
def Rules.FloatRounding : Prop := ∀ f, f ∈ [fp32, fp16, bf16, e4m3, e5m2] →
  ∀ (md : FpMode) (neg : Bool) (x : Exact) (u n : Nat) (r : ℝ), u < 65536 → x.StandsFor r →
  let q := max (Int.log 2 r - f.fracBits) (1 - (f.bias : Int) - f.fracBits)
  let top : Nat := if f = e4m3 then 14 else 2 ^ (f.fracBits + 1) - 1
  let qtop : Int := (if f = e4m3 then 15 else 2 ^ f.expBits - 2 : Nat) - (f.bias : Int) - f.fracBits
  let sign : ℚ := if neg then -1 else 1
  let y := f.decode (f.round md neg x u)
  RoundsTo md.round neg u (r / 2 ^ q) n →
  y.sign = neg ∧
  ((n : ℚ) * 2 ^ q ≤ (top : ℚ) * 2 ^ qtop →
    y.value = some (if md.ftz = true ∧ f ≠ e4m3 ∧ f ≠ e5m2 ∧ n < 2 ^ f.fracBits then 0 else sign * n * 2 ^ q)) ∧
  ((top : ℚ) * 2 ^ qtop < (n : ℚ) * 2 ^ q →
    let infinite := f ≠ e4m3 ∧ (md.round = .rne ∨ md.round = .stochastic ∨
      (md.round = .rup ∧ neg = false) ∨ (md.round = .rdn ∧ neg = true))
    (infinite → y = .inf neg) ∧ (¬infinite → y.value = some (sign * top * 2 ^ qtop)))

/-- The float formats: values, classes, and the rounding of exact results. -/
def Obligations.FloatFormats : Prop := Rules.FloatFormats ∧ Rules.FloatRounding

/-- R69, R70, R71, R324: exact sums and products, invalid operations, the sign of a zero sum, minimum and maximum, and
comparisons. -/
def Rules.FloatArithmetic : Prop :=
  (∀ (a b : Bool) (m n : Nat) (e k : Int), (Fp.mul (.fin a m e) (.fin b n k)).sign = (a != b) ∧
    (Fp.mul (.fin a m e) (.fin b n k)).value = some (((if a then -1 else 1 : ℚ) * m * 2 ^ e) * ((if b then -1 else 1 : ℚ) * n * 2 ^ k))) ∧
  (∀ x, Fp.mul .nan x = .nan ∧ Fp.mul x .nan = .nan) ∧
  (∀ (a b : Bool) (m : Nat) (e : Int), Fp.mul (.inf a) (.inf b) = .inf (a != b) ∧
    Fp.mul (.inf a) (.fin b m e) = (if m = 0 then .nan else .inf (a != b)) ∧
    Fp.mul (.fin a m e) (.inf b) = (if m = 0 then .nan else .inf (a != b))) ∧
  (∀ (md : Rounding) (xs : List Fp), xs ≠ [] →
    (.nan ∈ xs → sumExact md xs = .nan) ∧ (.inf true ∈ xs → .inf false ∈ xs → sumExact md xs = .nan) ∧
    (∀ s, .nan ∉ xs → .inf s ∈ xs → .inf (!s) ∉ xs → sumExact md xs = .inf s) ∧
    ∀ vs : List ℚ, xs.map Fp.value = vs.map some → (sumExact md xs).value = some vs.sum ∧
      (vs.sum ≠ 0 → (sumExact md xs).sign = decide (vs.sum < 0)) ∧
      (vs.sum = 0 → (∀ s, (∀ x ∈ xs, x.sign = s) → (sumExact md xs).sign = s) ∧
        ((∃ x ∈ xs, x.sign = true) → (∃ x ∈ xs, x.sign = false) → (sumExact md xs).sign = decide (md = .rdn)))) ∧
  (∀ x : Fp, Fp.min .nan x = x ∧ Fp.min x .nan = x ∧ Fp.max .nan x = x ∧ Fp.max x .nan = x) ∧
  (∀ (x y : Fp) (v w : ℚ), x.value = some v → y.value = some w →
    (v < w → x.min y = x ∧ y.min x = x ∧ x.max y = y ∧ y.max x = y) ∧
    (v = w → x.sign = true → y.sign = false → x.min y = x ∧ y.min x = x ∧ x.max y = y ∧ y.max x = y) ∧
    floatCond 0 x y = decide (v = w) ∧ floatCond 1 x y = decide (v ≠ w) ∧ floatCond 2 x y = decide (v < w) ∧
    floatCond 3 x y = decide (v ≤ w) ∧ floatCond 4 x y = decide (w < v) ∧ floatCond 5 x y = decide (w ≤ v) ∧
    floatCond 6 x y = false ∧ floatCond 7 x y = true ∧
    floatCond 2 (.inf true) y = true ∧ floatCond 4 (.inf false) y = true ∧ (∀ s, floatCond 0 (.inf s) y = false) ∧
    Fp.min (.inf true) y = .inf true ∧ Fp.max (.inf false) y = .inf false ∧ Fp.min (.inf false) y = y ∧ Fp.max (.inf true) y = y) ∧
  ∀ x y : Fp, x = .nan ∨ y = .nan → ∀ c, c < 8 → floatCond c x y = decide (c = 1 ∨ c = 6)

/-- R321, R322, R323, R324, R328: the members of major 14 that write one value a lane, and FCMP. -/
def Rules.FloatMembers : Prop := ∀ (p : BitVec 4) (b a d : RegField),
  FloatResult (.fadd p b a d) fp32 p b a d true (fun md x y _ => sumExact md.round [x, y]) ∧
  FloatResult (.fsub p b a d) fp32 p b a d true (fun md x y _ => sumExact md.round [x, y.neg]) ∧
  FloatResult (.fmul p b a d) fp32 p b a d true (fun _ x y _ => x.mul y) ∧
  FloatResult (.fma p b a d) fp32 p b a d true (fun md x y z => sumExact md.round [x.mul y, z]) ∧
  FloatResult (.fnma p b a d) fp32 p b a d true (fun md x y z => sumExact md.round [z, (x.mul y).neg]) ∧
  FloatResult (.fmin p b a d) fp32 p b a d false (fun _ x y _ => x.min y) ∧
  FloatResult (.fmax p b a d) fp32 p b a d false (fun _ x y _ => x.max y) ∧
  FloatResult (.fabs p b d) fp32 p b 0 d true (fun _ _ y _ => y.abs) ∧
  FloatResult (.fneg p b d) fp32 p b 0 d true (fun _ _ y _ => y.neg) ∧
  FloatResult (.fsign p b a d) fp32 p b a d true (fun _ x y _ =>
    if x = .nan ∨ y = .nan then .nan else if y.sign then x.abs.neg else x.abs) ∧
  DrawnResult (.fscale p b a d) d 1 (fun st w l =>
    let md := fpMode w.fpctl
    let n := (w.pat st p b.toNat l).toInt
    BitVec.ofNat 32 (fp32.write md (match fp32.read md (laneAt (w.lane a.toNat) l).toNat with
      | .fin neg m e => .fin neg m (e + n)
      | v => v) (w.draw l 0))) ∧
  LaneResult (.fclass p b d) p b 0 d (fun _ y _ =>
    let neg := 2 ^ 31 ≤ y.toNat
    let ex := y.toNat / 2 ^ 23 % 256
    let fr := y.toNat % 2 ^ 23
    if ex = 255 then (if fr = 0 then (if neg then 0x001 else 0x080) else if fr < 2 ^ 22 then 0x100 else 0x200)
    else if ex = 0 then (if fr = 0 then (if neg then 0x008 else 0x010) else if neg then 0x004 else 0x020)
    else if neg then 0x002 else 0x040) ∧
  ∀ c k : BitVec 3, PredResult (.fcmp p b a c k) k fun st w l =>
    let md := fpMode w.fpctl
    floatCond c.toNat (fp32.read md (laneAt (w.lane a.toNat) l).toNat) (fp32.read md (w.pat st p b.toNat l).toNat)

/-- R328, R73: FRND rounds to a whole number under its own mode or the captured one; large values, infinities and zeros stay,
and a generator advances only under stochastic rounding. -/
def Rules.RoundToIntegral : Prop := ∀ (p : BitVec 4) (b d : RegField) (m : BitVec 3) (s : State) (w : Weave),
  s.Ready (.frnd p b m d) w →
  let md := fpMode w.fpctl
  let act := w.act s.cur.strand
  let mode := if m = 5 then md.round else [Rounding.rne, .rtz, .rup, .rdn, .stochastic].getD m.toNat .rne
  ∃ g : Nat → Word, exec (.frnd p b m d) s = .next (s.issued.onMe fun v =>
      let x := v.setLanes d.toNat act g
      if mode = .stochastic then x.advanceBy act 1 else x) ∧
    ∀ l, let y := w.pat s.cur.strand p b.toNat l
      match fp32.read md y.toNat with
      | .nan => g l = 0x7FC00000
      | .inf _ => g l = y
      | .fin neg k e => (0 ≤ e → g l = y) ∧ (e < 0 → ∀ n, RoundsTo mode neg (w.draw l 0) ((k : ℝ) * 2 ^ e) n →
          (fp32.decode (g l).toNat).sign = neg ∧ (fp32.decode (g l).toNat).value = some ((if neg then -1 else 1 : ℚ) * n))

/-- R321, R322, R324, R327 on two elements a lane: the members of major 15. -/
def Rules.PackedFloatMembers : Prop := ∀ (p : BitVec 4) (b a d : RegField),
  (FloatResult (.faddF16 p b a d) fp16 p b a d true (fun md x y _ => sumExact md.round [x, y]) ∧
  FloatResult (.fsubF16 p b a d) fp16 p b a d true (fun md x y _ => sumExact md.round [x, y.neg]) ∧
  FloatResult (.fmulF16 p b a d) fp16 p b a d true (fun _ x y _ => x.mul y) ∧
  FloatResult (.fmaF16 p b a d) fp16 p b a d true (fun md x y z => sumExact md.round [x.mul y, z]) ∧
  FloatResult (.fminF16 p b a d) fp16 p b a d false (fun _ x y _ => x.min y) ∧
  FloatResult (.fmaxF16 p b a d) fp16 p b a d false (fun _ x y _ => x.max y)) ∧
  (FloatResult (.faddBf16 p b a d) bf16 p b a d true (fun md x y _ => sumExact md.round [x, y]) ∧
  FloatResult (.fsubBf16 p b a d) bf16 p b a d true (fun md x y _ => sumExact md.round [x, y.neg]) ∧
  FloatResult (.fmulBf16 p b a d) bf16 p b a d true (fun _ x y _ => x.mul y) ∧
  FloatResult (.fmaBf16 p b a d) bf16 p b a d true (fun md x y z => sumExact md.round [x.mul y, z]) ∧
  FloatResult (.fminBf16 p b a d) bf16 p b a d false (fun _ x y _ => x.min y) ∧
  FloatResult (.fmaxBf16 p b a d) bf16 p b a d false (fun _ x y _ => x.max y)) ∧
  (∀ f i, (f, i) ∈ [(fp16, Instr.fdot2F16 p b a d), (bf16, .fdot2Bf16 p b a d)] → DrawnResult i d 1 fun st w l =>
    let md := fpMode w.fpctl
    let x := fun j => elemOf f md (laneAt (w.lane a.toNat) l) j
    let y := fun j => elemOf f md (w.pat st p b.toNat l) j
    BitVec.ofNat 32 (fp32.write md (sumExact md.round
      [fp32.read md (laneAt (w.lane d.toNat) l).toNat, (x 0).mul (y 0), (x 1).mul (y 1)]) (w.draw l 0))) ∧
  ∀ (c k : BitVec 3) f i, (f, i) ∈ [(fp16, Instr.fcmpF16 p b a c k), (bf16, .fcmpBf16 p b a c k)] → ∀ s w, s.Ready i w →
    let md := fpMode w.fpctl
    let act := w.act s.cur.strand
    let test := fun j l => floatCond c.toNat (elemOf f md (laneAt (w.lane a.toNat) l) j)
      (elemOf f md (w.pat s.cur.strand p b.toNat l) j)
    exec i s = .next (s.issued.onMe fun v =>
      (v.setPred k.toNat act (maskOf (test 0))).setPred (k.toNat + 1) act (maskOf (test 1)))

/-- The float members: exact operations rounded once. -/
def Obligations.FloatMembers : Prop := Rules.FloatArithmetic ∧ Rules.FloatMembers ∧ Rules.PackedFloatMembers

/-- R325, R326: FRCP, FDIV, FSQRT and FRSQ round the exact quotient or root once, and give the table's values on zeros,
infinities, negative operands and NaNs. -/
def Rules.QuotientsAndRoots : Prop := ∀ (p : BitVec 4) (b a d : RegField),
  let operand := fun (w : Weave) (x : Word) => fp32.read (fpMode w.fpctl) x.toNat
  DrawnResult (.frcp p b d) d 1 (fun st w l => BitVec.ofNat 32
    (fdivBits (fpMode w.fpctl) (w.draw l 0) (.fin false 1 0) (operand w (w.pat st p b.toNat l)))) ∧
  DrawnResult (.fdiv p b a d) d 1 (fun st w l => BitVec.ofNat 32 (fdivBits (fpMode w.fpctl) (w.draw l 0)
    (operand w (laneAt (w.lane a.toNat) l)) (operand w (w.pat st p b.toNat l)))) ∧
  DrawnResult (.fsqrt p b d) d 1 (fun st w l => BitVec.ofNat 32
    (fsqrtBits (fpMode w.fpctl) (w.draw l 0) (operand w (w.pat st p b.toNat l)))) ∧
  DrawnResult (.frsq p b d) d 1 (fun st w l => BitVec.ofNat 32
    (frsqBits (fpMode w.fpctl) (w.draw l 0) (operand w (w.pat st p b.toNat l)))) ∧
  ∀ (md : FpMode) (u : Nat) (s t : Bool) (m n : Nat) (e k : Int), 0 < m → 0 < n → m < 2 ^ 24 → n < 2 ^ 24 →
    (∃ x : Exact, x.StandsFor ((m : ℝ) * 2 ^ e / ((n : ℝ) * 2 ^ k)) ∧
      fdivBits md u (.fin s m e) (.fin t n k) = fp32.round md (s != t) x u) ∧
    (∃ x : Exact, x.StandsFor (Real.sqrt ((m : ℝ) * 2 ^ e)) ∧ fsqrtBits md u (.fin false m e) = fp32.round md false x u) ∧
    (∃ x : Exact, x.StandsFor (1 / Real.sqrt ((m : ℝ) * 2 ^ e)) ∧ frsqBits md u (.fin false m e) = fp32.round md false x u) ∧
    fdivBits md u (.fin s m e) (.fin t 0 k) = (if s = t then 0x7F800000 else 0xFF800000) ∧
    fdivBits md u (.fin s 0 e) (.fin t 0 k) = 0x7FC00000 ∧ fdivBits md u (.inf s) (.inf t) = 0x7FC00000 ∧
    fdivBits md u (.fin s m e) (.inf t) = (if s = t then 0 else 0x80000000) ∧
    fdivBits md u (.inf s) (.fin t n k) = (if s = t then 0x7F800000 else 0xFF800000) ∧
    fdivBits md u .nan (.fin t n k) = 0x7FC00000 ∧ fdivBits md u (.fin s m e) .nan = 0x7FC00000 ∧
    fsqrtBits md u (.fin true m e) = 0x7FC00000 ∧ fsqrtBits md u .nan = 0x7FC00000 ∧
    fsqrtBits md u (.fin t 0 e) = (if t then 0x80000000 else 0) ∧
    fsqrtBits md u (.inf t) = (if t then 0x7FC00000 else 0x7F800000) ∧
    frsqBits md u (.fin true m e) = 0x7FC00000 ∧ frsqBits md u .nan = 0x7FC00000 ∧
    frsqBits md u (.fin t 0 e) = (if t then 0xFF800000 else 0x7F800000) ∧
    frsqBits md u (.inf t) = (if t then 0x7FC00000 else 0)

/-- R325, R326: the other members of major 16 write in each lane of ACT, and draw once a lane; the table's values on zeros,
infinities, negative operands, NaNs and the arguments whose result is exact. Elsewhere the value is the model's enclosure of
the exact result (log 9). -/
def Rules.SpecialFunctions : Prop := ∀ (p : BitVec 4) (b d : RegField),
  (∀ i fn f, (i, fn, f) ∈ [(Instr.fexp2 p b d, 4, fexp2Bits), (.flog2 p b d, 5, flog2Bits), (.fsin p b d, 6, fsinBits),
      (.fcos p b d, 7, fcosBits), (.ftanh p b d, 8, ftanhBits)] →
    DrawnResult i d 1 fun st w l =>
      let md := fpMode w.fpctl
      let y := fp32.read md (w.pat st p b.toNat l).toNat
      BitVec.ofNat 32 (f md (w.draw l 0) y (sfuTag fn md (w.draw l 0) y))) ∧
  (∀ f, f ∈ [fexp2Bits, flog2Bits, fsinBits, fcosBits, ftanhBits] → ∀ md u tag, f md u .nan tag = 0x7FC00000) ∧
  ∀ (md : FpMode) (u tag : Nat) (neg : Bool) (m : Nat) (e : Int), 0 < m → u < 65536 →
    fexp2Bits md u (.inf neg) tag = (if neg then 0 else 0x7F800000) ∧
    fexp2Bits md u (.fin neg 0 e) tag = 0x3F800000 ∧
    flog2Bits md u (.inf neg) tag = (if neg then 0x7FC00000 else 0x7F800000) ∧
    flog2Bits md u (.fin neg 0 e) tag = 0xFF800000 ∧ flog2Bits md u (.fin true m e) tag = 0x7FC00000 ∧
    flog2Bits md u (.fin false 1 0) tag = 0 ∧
    fsinBits md u (.inf neg) tag = 0x7FC00000 ∧ fsinBits md u (.fin neg 0 e) tag = (if neg then 0x80000000 else 0) ∧
    fcosBits md u (.inf neg) tag = 0x7FC00000 ∧ fcosBits md u (.fin neg 0 e) tag = 0x3F800000 ∧
    ftanhBits md u (.inf neg) tag = (if neg then 0xBF800000 else 0x3F800000) ∧
    ftanhBits md u (.fin neg 0 e) tag = (if neg then 0x80000000 else 0) ∧
    (∀ k : Int, -126 ≤ k → k ≤ 127 → flog2Bits md u (.fin false 1 k) tag = fp32.round md (k < 0) ⟨k.natAbs, 0, false⟩ u) ∧
    ∀ k : Nat, k ≤ 127 → fexp2Bits md u (.fin false k 0) tag = fp32.round md false ⟨1, k, false⟩ u

/-- Quotients, roots and the special functions. -/
def Obligations.SpecialFunctions : Prop := Rules.QuotientsAndRoots ∧ Rules.SpecialFunctions

/-- R84, R85, R73: FCVT converts the elements of its part in order, keeps the other elements of a narrowing, and draws once
an element unless both formats are integers; how one element is converted. -/
def Rules.Conversions : Prop :=
  (∀ (src dst j : BitVec 3) (a d : RegField), ∃ g : Strand → Weave → Nat → Word,
    let x := Elem.ofCode src.toNat
    let y := Elem.ofCode dst.toNat
    let ns := 32 / x.width
    let nd := 32 / y.width
    DrawnResult (.fcvt src dst j a d) d (if 5 ≤ src.toNat ∧ 5 ≤ dst.toNat then 0 else min ns nd) g ∧
    ∀ st w l, j.toNat < max ns nd / min ns nd → ∀ k, k < nd →
      let elem := fun i => (laneAt (w.lane a.toNat) l).toNat / 2 ^ (x.width * i) % 2 ^ x.width
      (g st w l).toNat / 2 ^ (y.width * k) % 2 ^ y.width =
        if nd ≤ ns then convert x y (fpMode w.fpctl) (w.draw l k) (elem (j.toNat * nd + k))
        else if k / ns = j.toNat then convert x y (fpMode w.fpctl) (w.draw l (k % ns)) (elem (k % ns))
        else (laneAt (w.lane d.toNat) l).toNat / 2 ^ (y.width * k) % 2 ^ y.width) ∧
  (∀ c : Nat, c < 8 → (Elem.ofCode c) = [Elem.flt fp32, .flt fp16, .flt bf16, .flt e4m3, .flt e5m2, .int 32, .int 8, .int 4][c]!) ∧
  ∀ (md : FpMode) (u x : Nat) (n k : Nat) (f g : Fmt), n ∈ [4, 8, 32] → k ∈ [4, 8, 32] →
    convert (.flt f) (.flt g) md u x = g.write md (f.read md x) u ∧
    (x < 2 ^ n → convert (.int n) (.flt g) md u x =
      g.write md (.fin (decide (2 ^ (n - 1) ≤ x)) (BitVec.ofNat n x).toInt.natAbs 0) u) ∧
    (x < 2 ^ n → convert (.int n) (.int k) md u x = (nearest k (BitVec.ofNat n x).toInt).toNat) ∧
    (f.read md x = .nan → convert (.flt f) (.int k) md u x = 0) ∧
    (∀ neg, f.read md x = .inf neg → convert (.flt f) (.int k) md u x = if neg then 2 ^ (k - 1) else 2 ^ (k - 1) - 1) ∧
    ∀ neg m e v, u < 65536 → f.read md x = .fin neg m e → RoundsTo md.round neg u ((m : ℝ) * 2 ^ e) v →
      convert (.flt f) (.int k) md u x = (nearest k (if neg then -(v : Int) else v)).toNat

/-- FRND and FCVT. -/
def Obligations.Conversions : Prop := Rules.RoundToIntegral ∧ Rules.Conversions

/-- R80: the block that QBLK makes of 32 values: its exponent, the sub-shifts of its groups, and its payloads. -/
def Rules.BlockQuantisation : Prop := ∀ (m : Nat) (md : FpMode) (draw : Nat → Nat) (xs : List Fp),
  m ∈ [7, 3, 1] → xs.length = 32 → (∀ i, draw i < 65536) →
  let b := quantise m md draw xs
  b.payload.length = 32 ∧
  ((.nan ∈ xs ∨ .inf true ∈ xs ∨ .inf false ∈ xs) → b = ⟨List.replicate 32 0, 0xFF⟩) ∧
  ∀ vs : List ℚ, xs.map Fp.value = vs.map some →
    ((∀ v ∈ vs, v = 0) → b = ⟨List.replicate 32 0, 0⟩) ∧
    ∀ top ∈ vs, top ≠ 0 → (∀ v ∈ vs, |v| ≤ |top|) →
      let e := max 1 (Int.log 2 |top| + 127)
      ∃ sigma : Nat → Nat, b.scale = e.toNat + sigma 0 * 2 ^ 8 + sigma 1 * 2 ^ 10 + sigma 2 * 2 ^ 12 + sigma 3 * 2 ^ 14 ∧
        (∀ k, k < 4 → let fits := fun (n : Nat) => ∀ j v, j / 8 = k → vs[j]? = some v → |v| < (2 : ℚ) ^ (e - 127 - n)
          sigma k ≤ 3 ∧ (sigma k ≠ 0 → fits (sigma k)) ∧ ∀ n, sigma k < n → n ≤ 3 → ¬fits n) ∧
        ∀ (i : Nat) (v : ℚ) (x : Fp) (n : Nat), vs[i]? = some v → xs[i]? = some x →
          RoundsTo md.round x.sign (draw i) (|(v : ℝ)| * 2 ^ ((m : Int) - 1 - (e - 127 - sigma (i / 8)))) n →
            let big := min n (2 ^ m - 1)
            b.payload[i]? = some ((if x.sign = true ∧ big ≠ 0 then 2 ^ m else 0) + big)

/-- R80, R78, R73: QBLK replaces the payload and the scale of every block with an active lane, reads inactive lanes of such a
block as +0, draws for each of its elements, and leaves the rest of the registers; where a block's words lie. -/
def Rules.BlockStores : Prop :=
  (∀ (k : BitVec 2) (b a d : RegField) (s : State) (w : Weave), s.Ready (.qblk k b a d) w →
    let md := fpMode w.fpctl
    let act := w.act s.cur.strand
    let blocks := [0, 1, 2].filter fun g => (List.range 32).any fun i => act.getLsbD (32 * g + i)
    let value := fun l => if act.getLsbD l then fp32.read md (laneAt (w.lane a.toNat) l).toNat else .fin false 0 0
    let block := fun g => quantise [7, 3, 1][k.toNat]! md (fun i => w.draw (32 * g + i) 0)
      ((List.range 32).map fun i => value (32 * g + i))
    exec (.qblk k b a d) s = .next (s.issued.onMe fun x =>
      (blocks.foldl (fun u g => u.putBlock k.toNat d.toNat b.toNat g (block g)) x).advance
        (maskOf fun l => blocks.contains (l / 32)) 1)) ∧
  ∀ (kind d b g : Nat) (w : Weave) (x : SxBlock), kind < 3 → g < 3 → d ≠ b → d < w.vRegs.length → b < w.vRegs.length →
    let n := [8, 4, 2][kind]!
    let per := 32 / n
    let v := w.putBlock kind d b g x
    { v with vRegs := w.vRegs } = w ∧ (∀ r, r ≠ d → r ≠ b → v.lane r = w.lane r) ∧
    (x.scale < 2 ^ 16 → (laneAt (v.lane b) (g / 2)).toNat / 2 ^ (16 * (g % 2)) % 2 ^ 16 = x.scale) ∧
    (∀ i, i < 32 → (∀ y ∈ x.payload, y < 2 ^ n) →
      (laneAt (v.lane d) (n * g + i / per)).toNat / 2 ^ (n * (i % per)) % 2 ^ n = x.payload.getD i 0) ∧
    (∀ l, l < 96 → (l < n * g ∨ n * g + n ≤ l) → laneAt (v.lane d) l = laneAt (w.lane d) l) ∧
    ∀ l h, l < 96 → h < 2 → (l ≠ g / 2 ∨ h ≠ g % 2) →
      (laneAt (v.lane b) l).toNat / 2 ^ (16 * h) % 2 ^ 16 = (laneAt (w.lane b) l).toNat / 2 ^ (16 * h) % 2 ^ 16

/-- R77, R78, R74: DQBLK writes the value of each element of a block, with FTZ; a scale exponent of 0xFF makes it a NaN. -/
def Rules.BlockValues : Prop := ∀ (k : BitVec 2) (b a d : RegField), k.toNat < 3 →
  ∃ v : Weave → Nat → Fp,
    DrawnResult (.dqblk k b a d) d 0 (fun _ w l =>
      BitVec.ofNat 32 (fp32.write { fpMode w.fpctl with round := .rne } (v w l) 0)) ∧
    ∀ w l, l < 96 →
      let m : Nat := [7, 3, 1][k.toNat]!
      let n := m + 1
      let g := l / 32
      let i := l % 32
      let scale := (laneAt (w.lane b.toNat) (g / 2)).toNat / 2 ^ (16 * (g % 2)) % 2 ^ 16
      let payload : Nat := (laneAt (w.lane a.toNat) (n * g + i / (32 / n))).toNat / 2 ^ (n * (i % (32 / n))) % 2 ^ n
      let e : Nat := scale % 256
      let sigma : Nat := scale / 2 ^ (8 + 2 * (i / 8)) % 4
      let neg := decide (2 ^ m < payload)
      (e = 255 → v w l = .nan) ∧ (e ≠ 255 → (v w l).sign = neg ∧
        (v w l).value = some ((if neg then -1 else 1 : ℚ) * ((payload % 2 ^ m : Nat) : ℚ) *
          (2 : ℚ) ^ (((e : Nat) : Int) - 127 - ((sigma : Nat) : Int) - (((m : Nat) : Int) - 1))))

/-- QBLK and DQBLK. -/
def Obligations.BlockFormats : Prop := Rules.BlockQuantisation ∧ Rules.BlockStores ∧ Rules.BlockValues

/-- R381, R382, R73: VRED combines the elements of the active lanes in ascending order, VSCAN gives each lane the value after
its own; stochastic rounding is read as RNE. That what a lone or a lowest lane shows is a result, with the canonical NaN and FTZ, and that
a chain of several lanes goes on with its first element as DAZ reads it, is the model's reading (log 21). -/
def Rules.Reductions : Prop := ∀ (k : BitVec 2) (o : BitVec 3) (a d : RegField) (w : Weave),
  let md : FpMode := { fpMode w.fpctl with round := if (fpMode w.fpctl).round = .stochastic then .rne else (fpMode w.fpctl).round }
  let intOp := fun (x y : Word) => match o.toNat with
    | 0 => BitVec.ofNat 32 (x.toNat + y.toNat)
    | 1 => BitVec.ofInt 32 (min x.toInt y.toInt)
    | 2 => BitVec.ofInt 32 (max x.toInt y.toInt)
    | 3 => BitVec.ofNat 32 (min x.toNat y.toNat)
    | 4 => BitVec.ofNat 32 (max x.toNat y.toNat)
    | 5 => x &&& y
    | 6 => x ||| y
    | _ => x ^^^ y
  let floatOp := fun (x y : Word) =>
    let f := fp32.read md x.toNat
    let g := fp32.read md y.toNat
    BitVec.ofNat 32 (fp32.write md (match o.toNat with
      | 0 => sumExact md.round [f, g]
      | 1 => f.min g
      | _ => f.max g) 0)
  let first := fun (lone : Bool) (x : Word) => if k = 0 then x else
    let m := { md with ftz := md.ftz && lone }
    BitVec.ofNat 32 (fp32.write m (fp32.read m x.toNat) 0)
  let chain := fun (lone : Bool) (lanes : List Nat) => match lanes with
    | [] => 0
    | l :: r => r.foldl (fun acc j => (if k = 0 then intOp else floatOp) acc (laneAt (w.lane a.toNat) j))
        (first lone (laneAt (w.lane a.toNat) l))
  ∀ s : State, let acting := (List.range 96).filter fun l => (w.act s.cur.strand).getLsbD l
    let lone := decide (acting.length = 1)
    (s.Ready (.vred k o a d) w → exec (.vred k o a d) s = .next (s.issued.onMe fun v =>
      v.setLanes d.toNat (w.act s.cur.strand) fun _ => chain lone acting)) ∧
    (s.Ready (.vscan k o a d) w → exec (.vscan k o a d) s = .next (s.issued.onMe fun v =>
      v.setLanes d.toNat (w.act s.cur.strand) fun l =>
        let below := acting.filter (· ≤ l)
        chain (decide (below.length = 1)) below))

/-! ### Indexed registers, queues and ports -/

/-- R51, R52: SETX, VLDX and VSTX; a lane of ACT whose register is out of the bound or of the allocation faults REG_BOUND with
the failing lanes, before any write. -/
def Rules.IndexedRegisters : Prop :=
  ∀ (p : BitVec 4) (b a d : RegField) (x : BitVec 2) (s : State) (w : Weave),
  let st := s.cur.strand
  let xr := w.xreg x.toNat
  let index := fun l => xr.base.toNat + (laneAt (w.lane a.toNat) l).toNat
  let acting := fun l => (w.act st).getLsbD l
  let good := fun l => decide (index l < xr.bound.toNat) && decide (index l < w.vRegs.length)
  let v := (w.scal st a.toNat).toNat
  (s.Ready (.setx a x) w → exec (.setx a x) s = .next (s.issued.onMe fun u =>
    { u with xRegs := u.xRegs.setIfInBounds x.toNat ⟨BitVec.ofNat 7 (v % 128), BitVec.ofNat 7 (v / 256 % 128)⟩ })) ∧
  (s.Ready (.vldx x a d) w → (∀ l, acting l = true → good l = true) → exec (.vldx x a d) s = .next (s.issued.onMe fun u =>
    u.setLanes d.toNat (w.act st) fun l => laneAt (w.lane (index l)) l)) ∧
  (s.Ready (.vstx p b a x) w → (∀ l, acting l = true → good l = true) →
    ∃ g : Weave → Weave, exec (.vstx p b a x) s = .next (s.issued.onMe g) ∧ ∀ u : Weave, u.vRegs.length = w.vRegs.length →
      { g u with vRegs := u.vRegs } = u ∧ ∀ r l, l < 96 → laneAt ((g u).lane r) l =
        if acting l = true ∧ index l = r then w.pat st p b.toNat l else laneAt (u.lane r) l) ∧
  ∀ i, i = .vldx x a d ∨ i = .vstx p b a x → s.Ready i w → (∃ l, l < 96 ∧ acting l = true ∧ good l = false) →
    exec i s = .next (s.vector s.cur.weave st
      { s.info w .regBound accOther with faulters := maskOf fun l => acting l && !good l })

/-- Zips, permutations, indexed registers, reductions and scans. -/
def Obligations.Rearrangements : Prop := Rules.Rearrangements ∧ Rules.IndexedRegisters ∧ Rules.Reductions

/-- R53, R54, R55: QPUSH, QPOP, QPEEK and QSTAT: what enters and leaves a queue, which direction is misuse, when a stream
waits, and what QSTAT counts. -/
def Obligations.Queues : Prop := ∀ (k : BitVec 1) (q : BitVec 2) (a d : RegField) (s : State) (w : Weave),
  let st := s.cur.strand
  let queue := w.queue q.toNat
  let forth := (st = .a ∧ q.toNat < 2) ∨ (st ≠ .a ∧ 2 ≤ q.toNat)
  let misuse := fun (i : Instr) => exec i s =
    .next (s.vector s.cur.weave st (s.info w .queueMisuse accQueue))
  let source : QData := if st ≠ .a ∧ k = 0 then .vector (w.lane a.toNat) else .scalar (w.scal st a.toNat)
  (s.Ready (.qpush a k q) w →
    (¬forth → misuse (.qpush a k q)) ∧
    (forth → queue.depth ≤ queue.entries.length →
      exec (.qpush a k q) s = .next (s.startWait (.queueRoom q.toNat))) ∧
    (forth → queue.entries.length < queue.depth → exec (.qpush a k q) s =
      .next (State.onMe { s.issued with nextId := s.nextId + 1 } fun u => u.onQueue q.toNat fun x =>
        { x with entries := x.entries ++ [⟨s.nextId, source, true, none, []⟩] }))) ∧
  (∀ i remove, (i, remove) ∈ [(Instr.qpop k q d, true), (.qpeek k q d, false)] → s.Ready i w →
    let popped := if remove then s.issued.onMe (fun u => u.onQueue q.toNat fun x =>
        { x with entries := x.entries.tail, head := (x.head + 1) % x.depth }) else s.issued
    (forth → misuse i) ∧
    (¬forth → (∀ e, queue.entries.head? = some e → e.complete = false) →
      exec i s = .next (s.startWait (.queueHead q.toNat 1))) ∧
    ∀ e, ¬forth → queue.entries.head? = some e → e.complete = true →
      (∀ v, st ≠ .a → k = 0 → e.data = .vector v → exec i s =
        .next (popped.onMe fun u => u.setLanes d.toNat (w.act st) fun l => laneAt v l)) ∧
      (∀ v, st ≠ .a → k = 0 → e.data = .scalar v → exec i s = .next (popped.onMe fun u =>
        u.setLanes d.toNat (w.act st) fun l => BitVec.ofNat 32 (if l = 0 then v.toNat else if l = 1 then v.toNat / 2 ^ 32 else 0))) ∧
      (∀ v, st = .a ∨ k = 1 → e.data = .vector v → misuse i) ∧
      ∀ v, st = .a ∨ k = 1 → e.data = .scalar v → exec i s =
        .next (popped.onMe fun u => u.setScal st d.toNat v)) ∧
  (s.Ready (.qstat q d) w →
    let scalarHead := match queue.entries.head?.map (fun e => (e.data, e.complete)) with
      | some (QData.scalar _, true) => 1
      | _ => 0
    exec (.qstat q d) s = .next (s.issued.onMe fun u => u.setScal st d.toNat (BitVec.ofNat 64
      (queue.entries.length % 32 + (queue.entries.takeWhile (·.complete)).length % 32 * 2 ^ 8 + scalarHead * 2 ^ 16))))

/-- R196, R198, R200, R173: an NPUSH with a partner whose FIFOs have room puts the patterned values of ACT in transit to the
partner's lanes (to an ended partner it completes with nothing sent), after its release; without room it waits, and where its release has
to send it stays as it is until a slot names the partition (R153). -/
def Rules.PortPushes : Prop := ∀ (p : BitVec 4) (b : RegField) (n : BitVec 3) (s : State) (w : Weave) (x : Partner),
  let i : Instr := .npush p b n
  let st := s.cur.strand
  let port := [Port.w, .e, .n, .s, .d].getD n.toNat .d
  let acting := fun l => (w.act st).getLsbD l
  let lands := [Port.e, .w, .s, .n, .d].getD n.toNat .d
  let target := fun l => if n = 0 then (l + 95) % 96 else if n = 1 then (l + 1) % 96 else l
  let attrs := s.issued.attrsOf i w
  let releases := attrs.order = .rel ∨ attrs.order = .ar ∨ attrs.order = .sc
  let ordered := if releases then s.issued.release w.id.core attrs.scope else s.issued
  let held := releases ∧ s.issued.fenceHeld w.partition w.id.core attrs.scope = true
  s.Ready i w → s.issued.partner w port = some x →
  (lands ∉ x.record.ports → exec i s = .next (s.vector s.cur.weave st (s.info w .illegal accPort))) ∧
  (lands ∈ x.record.ports →
    ((∃ l, l < 96 ∧ acting l = true ∧ s.issued.portRoom x lands (target l) = false) →
      exec i s = .next (s.startWait (.portOut port))) ∧
    ((∀ l, l < 96 → acting l = true → s.issued.portRoom x lands (target l) = true) → held → exec i s = .next s) ∧
    ((∀ l, l < 96 → acting l = true → s.issued.portRoom x lands (target l) = true) → ¬held →
      (s.issued.whereabouts x = .ended → exec i s = .next ordered) ∧
      (s.issued.whereabouts x ≠ .ended → w.act st = 0 → exec i s = .next ordered) ∧
      (s.issued.whereabouts x ≠ .ended → w.act st ≠ 0 → ∃ t : Transit,
        exec i s = .next { ordered with transits := ordered.transits ++ [t] } ∧
        t.source = w.id ∧ t.crew = x.crew ∧ t.index = x.index ∧ t.port = lands ∧
        (∀ j, j < 96 → (t.lanes.getLsbD j = true ↔ ∃ l, l < 96 ∧ acting l = true ∧ target l = j)) ∧
        ∀ l, l < 96 → laneAt t.data (target l) = w.pat st p b.toNat l)))

/-- R200, R201, R173: NPOP and NPEEK take the head of every FIFO of ACT at once, or wait; NPOP removes it and its acquire
follows; NPOLL answers whether each lane has an entry, or room, and never waits. -/
def Rules.PortPops : Prop := ∀ (n : BitVec 3) (d : RegField) (s : State) (w : Weave) (f : PortFifo),
  let st := s.cur.strand
  let port := [Port.w, .e, .n, .s, .d].getD n.toNat .d
  let acting := fun l => (w.act st).getLsbD l
  let heads := fun (u : Weave) => u.setLanes d.toNat (w.act st) fun l => (f.lanes[l]?.getD []).headD 0
  w.port? port = some f → (s.issued.partner w port).isSome = true →
  (∀ i, i = .npop n d ∨ i = .npeek n d → s.Ready i w →
    (∃ l, l < 96 ∧ acting l = true ∧ f.lanes[l]? = some []) → exec i s = .next (s.startWait (.portIn port))) ∧
  ((∀ l, l < 96 → acting l = true → f.lanes[l]? ≠ some []) →
    (s.Ready (.npeek n d) w → exec (.npeek n d) s = .next (s.issued.onMe heads)) ∧
    (s.Ready (.npop n d) w →
      let attrs := s.issued.attrsOf (.npop n d) w
      let acquires := attrs.order = .acq ∨ attrs.order = .ar ∨ attrs.order = .sc
      ∃ g : Weave → Weave,
        exec (.npop n d) s = .next
          (if acquires ∧ s.issued.fenceHeld w.partition w.id.core attrs.scope = true then s
            else (if acquires then (s.issued.onMe g).acquire w.id.core attrs.scope else s.issued.onMe g).onMe heads) ∧
        ∀ u : Weave, { g u with ports := u.ports } = u ∧ (∀ q, q ≠ port → (g u).port? q = u.port? q) ∧
          (u.port? port = some f → ∃ f', (g u).port? port = some f' ∧ ∀ l, l < 96 →
            f'.lanes[l]? = some (if acting l then (f.lanes[l]?.getD []).tail else f.lanes[l]?.getD [])))) ∧
  ∀ k : BitVec 3, (s.Ready (.npoll n 0 k) w → exec (.npoll n 0 k) s = .next (s.issued.onMe fun u =>
      u.setPred k.toNat (w.act st) (maskOf fun l => !(f.lanes[l]?.getD []).isEmpty))) ∧
    ∀ x, s.Ready (.npoll n 1 k) w → s.issued.partner w port = some x →
      [Port.e, .w, .s, .n, .d].getD n.toNat .d ∈ x.record.ports → exec (.npoll n 1 k) s = .next (s.issued.onMe fun u =>
        u.setPred k.toNat (w.act st) (maskOf fun l => s.issued.portRoom x ([Port.e, .w, .s, .n, .d].getD n.toNat .d)
          (if n = 0 then (l + 95) % 96 else if n = 1 then (l + 1) % 96 else l)))

/-- R206: NSAVE writes the image of an inbound FIFO into scratchpad, NLOAD reads one back, and an NLOAD of the image that an
NSAVE wrote gives the FIFO back. -/
def Rules.PortImages : Prop := ∀ (n : BitVec 3) (a : RegField) (s : State) (w : Weave) (f : PortFifo),
  let st := s.cur.strand
  let port := [Port.w, .e, .n, .s, .d].getD n.toNat .d
  let at' := (w.scal st a.toNat).toNat
  let place := (s.issued.agentOf w st).spad at'
  w.port? port = some f → s.issued.spadInside (s.issued.agentOf w st) at' 3200 = true → at' % 128 = 0 →
  (s.Ready (.nsave n a) w → (∀ l, l < 96 → s.issued.inTransit w.crew w.index port l = 0) →
    (exec (.nsave n a) s = .next (s.issued.sramStore w.id.core place f.image)) ∧ f.image.length = 3200 ∧
    ∀ k l, k < 8 → l < 96 → ((f.image.drop (384 * k + 4 * l)).take 4 =
      natBytes 4 ((((f.lanes[l]?.getD []).getD k 0 : Word)).toNat)) ∧
      f.image[3072 + l]? = some (BitVec.ofNat 8 (f.lanes[l]?.getD []).length)) ∧
  (s.Ready (.nload n a) w → ∀ g : PortFifo, (∀ l, l < 96 → (g.lanes[l]?.getD []).length ≤ 8) →
    s.issued.sramBytes w.id.core place 3200 = g.image →
    exec (.nload n a) s = .next (s.issued.onMe fun u => u.onPort port fun _ => g))

/-- R207: XSHUF waits for its partner with its mask and register, as long as no fragment of the partner waits for it or a halt keeps the
partner's waits (R260); the later of the two exchanges the lanes active on both sides and releases the other. -/
def Rules.Shuffles : Prop := ∀ (a d : RegField) (s : State) (w : Weave), s.Ready (.xshuf a d) w →
  let i : Instr := .xshuf a d
  let core := w.pair.core.toNat
  let act := w.act s.cur.strand
  let faults := fun (c : Cause) => exec i s = .next (s.vector s.cur.weave s.cur.strand (s.info w c accPort))
  let allowed := w.pair.valid = true ∧ core / 4 ≠ w.id.core / 4 ∧ core / 96 = w.id.core / 96 ∧ s.hasCore core = true
  (¬allowed → faults .illegal) ∧ (allowed → s.grantedCore w.partition core = false → faults .perm) ∧
  (allowed → s.grantedCore w.partition core = true →
    let waits := exec i s = .next (s.startWait (.shuffle d act (w.lane a.toNat) w.pair))
    (s.weave? ⟨core, w.pair.weave.toNat⟩ = none → waits) ∧
    ∀ o, s.weave? ⟨core, w.pair.weave.toNat⟩ = some o →
      (s.waitsOpen o = false → waits) ∧
      ((∀ e, e < 128 → (o.entry e).wait = none) → waits) ∧
      ∀ e x m v p since pc n, s.waitsOpen o = true → e < 128 →
      p.valid = true → p.core.toNat = w.id.core → p.weave.toNat = w.id.slot →
      (o.entry e).wait = some ⟨.shuffle x m v p, since, pc, n⟩ → (∀ k, k < e → (o.entry k).wait = none) →
      exec i s = .next ((s.issued.onMe fun u => u.setLanes d.toNat (act &&& m) (laneAt v)).onWeave o.id fun u =>
        let y := u.setLanes x.toNat (m &&& act) (laneAt (w.lane a.toNat))
        { y.setEntry e { y.entry e with kind := .ready, wait := none, addr := (y.entry e).addr + 4 } with
          cIssued := y.cIssued + 1 }))

/-! ### Memory -/

/-- The members of the neighbour ports, and XSHUF between two weaves. -/
def Obligations.Ports : Prop := Rules.PortPushes ∧ Rules.PortPops ∧ Rules.PortImages ∧ Rules.Shuffles

/-- R110: of the lanes of an access, the lowest-numbered step that any lane fails decides the cause, and the faulters' mask
holds the lanes that fail that step, or is the mask of a scalar form; a failing access has no effect. -/
def Rules.AccessChecks : Prop := ∀ (s : State) (g : Agent) (a : Attrs) (q : Req) (w : Weave) (id : WeaveId)
    (v : Nat → Nat) (f : Nat → Nat → Option Nat),
  (∀ l ∈ q.lanes, l.1 < 96) →
  let step := fun (l : Nat × Bool × Int) => s.checkLane g q (s.seeDesc g.core g.part q.object) l.2.1 l.2.2
  ((∀ l ∈ q.lanes, step l = none) → s.checkReq g q = .ok ()) ∧
  ∀ (n : Nat) (c : Cause) (l : Nat × Bool × Int), l ∈ q.lanes → step l = some (n, c) →
    (∀ k ∈ q.lanes, ∀ m d, step k = some (m, d) → n < m ∨ (n = m ∧ c = d)) →
    ∃ m : LaneMask, (∀ j, j < 96 → (m.getLsbD j = true ↔ ∃ k ∈ q.lanes, k.1 = j ∧ ∃ d, step k = some (n, d))) ∧
      let stop : Stop := .fault { q.info with cause := c, faulters := q.mask.getD m }
      s.checkReq g q = .error stop ∧ s.load id g a q = .error stop ∧ s.store' w g a q v = .error stop ∧
        s.atomic w g a q f = .error stop

/-- R110, R111, R112, R239, R337: the steps of the checks for one lane: of an object, of scratchpad and of host memory. -/
def Rules.LaneChecks : Prop := ∀ (s : State) (g : Agent) (q : Req) (bad : Bool) (off : Int),
  (q.space = .spd → ∀ d, s.checkLane g q d bad off =
    if off < 0 ∨ s.spadInside g off.toNat q.width = false then some (3, .objBound)
    else if off.toNat % q.width ≠ 0 then some (4, .align) else none) ∧
  (q.space = .hst → ∀ d, s.checkLane g q d bad off =
    if bad = true ∨ off < 0 then some (3, .objBound)
    else if off.toNat % q.width ≠ 0 then some (4, .align)
    else if s.granted g.fn < off.toNat + q.width then some (5, .perm) else none) ∧
  (q.space = .obj ∨ q.space = .far → s.checkLane g q none bad off = some (1, .objBound) ∧ ∀ d : ObjDesc,
    let count := if d.kind = 2 then d.count else d.size
    let span := if d.kind = 2 then 2 * q.width / d.nibs else q.width
    0 < q.width → (d.kind = 2 → 0 < d.nibs) →
    s.checkLane g q (some d) bad off =
      if d.withdrawn = true then some (2, .extentGone)
      else if bad = true ∨ off < 0 ∨ (count : Int) < off + max 1 span then some (3, .objBound)
      else if (d.kind = 2 ∧ 2 * q.width < d.nibs) ∨ off.toNat % max 1 span ≠ 0 then some (4, .align)
      else if s.permits g.part q.object d q.need = false then some (5, .perm)
      else
        let frames := framesOf (s.placesAt g.core g.part q.object d off.toNat q.width)
        if ∃ f ∈ frames, extPresent (s.seeExt g.core g.part q.object d f) = false then some (6, .firstTouch)
        else if ∃ f ∈ frames, extWithdrawn (s.seeExt g.core g.part q.object d f) = true then some (7, .extentGone)
        else none)

/-- The checks that an access makes, in order, and the lanes that they name. -/
def Obligations.AccessChecks : Prop := Rules.AccessChecks ∧ Rules.LaneChecks

/-- R8, R112, R337: what an access asks for whose lanes follow one another from the start that an M-format word names: a byte or element
offset, or the place of four coordinates, one of which may lie at or above its extent. -/
def Rules.AsksRow (t : State) (w : Weave) (st : Strand) (a : Attrs) (object n : Nat) (f : BitVec 1) (c : Nat) (lanes : List Nat) (need : Need)
    (q : Req) : Prop :=
  let d? := t.seeDesc w.id.core w.partition object
  let high := fun r => (w.scal st r).toNat / 2 ^ 32
  let low := fun r => (w.scal st r).toNat % 2 ^ 32
  let start : Bool × Int := if f = 0 then (false, ((w.scal st c).toNat : Int)) else match d? with
    | none => (false, 0)
    | some x =>
      let e : Nat × Nat × Nat × Nat := if x.kind = 2 then (x.d0, x.d1, x.d2, x.d3) else (1, 1, 1, x.size)
      (decide (e.1 ≤ high c ∨ e.2.1 ≤ high (c + 1) ∨ e.2.2.1 ≤ low c ∨ e.2.2.2 ≤ low (c + 1)),
        (((high c * e.2.1 + high (c + 1)) * e.2.2.1 + low c) * e.2.2.2 + low (c + 1) : Nat))
  let step : Nat → Nat := fun l => match d? with
    | some x => if a.space = .obj ∨ a.space = .far then l * (2 * n) / x.nibs else l * n
    | none => l * n
  q.space = a.space ∧ q.object = object ∧ q.width = n ∧ q.need = need ∧ q.mask = none ∧
    q.lanes = lanes.map fun l => (l, start.1, start.2 + step l)

/-- R114: what a gather or scatter asks for: a word in each lane at the base and its index; one of 2^48 or more lies past every object. -/
def Rules.AsksIndexed (a : Attrs) (object : Nat) (index : Nat → Int) (lanes : List Nat) (need : Need) (q : Req) : Prop :=
  q.space = a.space ∧ q.object = object ∧ q.width = 4 ∧ q.need = need ∧ q.mask = none ∧
    q.lanes = lanes.map fun l => (l, decide (2 ^ 48 ≤ index l), index l)

/-- R337, R361, R336: a scalar load of its n bytes, in any space: it faults, waits or is refused as its access is, or its
result is on its way to its register, extended as the word says. -/
def Rules.ScalarLoads : Prop :=
  ∀ (f : BitVec 1) (wd : BitVec 2) (e : BitVec 1) (c h d : RegField) (i : Instr) (s : State) (w : Weave),
  i = .lds f wd e c h d ∨ i = .sld f wd e c h d → s.Ready i w →
  let st := s.cur.strand
  let t := s.issued
  let n := 2 ^ wd.toNat
  let a := t.attrsOf i w
  let object := (w.scal st h.toNat).toNat
  let extended := fun (x : Nat) => if e = 1 then BitVec.ofInt 64 (BitVec.ofNat (8 * n) x).toInt else BitVec.ofNat 64 (x % 2 ^ (8 * n))
  (a.space = .hst → object ≠ 0 → exec i s = .next (s.vector s.cur.weave st (s.info w .illegal accLoad))) ∧
  ((a.space = .hst → object = 0) →
    let q := t.reqRow w a object (w.offset st f c.toNat) [0] n .read (some (w.act st)) accLoad
    (∀ x, t.load w.id (t.agentOf w st) a q = .error x → (∀ y, x ≠ .postpone y) → exec i s = .next (s.stopped x)) ∧
    ∀ r, t.load w.id (t.agentOf w st) a q = .ok r → exec i s = .next (r.state.fly q.info (.scal d.toNat (extended (r.value 0)))
      r.lanesAt (if r.bad = 0 then 0 else BitVec.allOnes 96) (neverFails a r.bad)))

/-- R337, R363, R336, R112: LDC and STC in any space: two halves of 8 bytes, one after the other; after the checks of both their start must
be a multiple of twice their width (ALIGN), which is 16 bytes or the elements that 16 bytes hold; then the two registers are on their way,
or the two halves are stored together. -/
def Rules.PairAccesses : Prop := ∀ (f : BitVec 1) (c h d : RegField) (s : State) (w : Weave),
  let st := s.cur.strand
  let t := s.issued
  let object := (w.scal st h.toNat).toNat
  let g := t.agentOf w st
  let off := w.offset st f c.toNat
  let d? := t.seeDesc w.id.core w.partition object
  let twice := fun (sp : Space) => match d? with
    | some x => if sp = .obj ∨ sp = .far then 32 / x.nibs else 16
    | none => 16
  let pair := fun (i : Instr) (need : Need) (access : Nat) (performed : Attrs → Req → Prop) => s.Ready i w →
    let a := t.attrsOf i w
    let q := t.reqRow w a object off [0, 1] 8 need (some (w.act st)) access
    (a.space = .hst → object ≠ 0 → exec i s = .next (s.vector s.cur.weave st (s.info w .illegal access))) ∧
    ((a.space = .hst → object = 0) →
      (∀ x, t.checkReq g q = .error x → exec i s = .next (s.stopped x)) ∧
      (t.checkReq g q = .ok () → (off.start d?).2 % (twice a.space : Nat) ≠ 0 →
        exec i s = .next (s.vector s.cur.weave st { q.info with cause := .align, faulters := w.act st })) ∧
      (t.checkReq g q = .ok () → (off.start d?).2 % (twice a.space : Nat) = 0 → performed a q))
  let ldc : Instr := .ldc f c h d
  let stc : Instr := .stc f c h d
  pair ldc .read accLoad (fun a q =>
    (∀ x, t.load w.id g a q = .error x → (∀ y, x ≠ .postpone y) → exec ldc s = .next (s.stopped x)) ∧
    ∀ r, t.load w.id g a q = .ok r → exec ldc s = .next (r.state.fly q.info
      (.scal2 d.toNat (d.toNat + 1) (BitVec.ofNat 64 (r.value 0)) (BitVec.ofNat 64 (r.value 1))) r.lanesAt r.bad (neverFails a r.bad))) ∧
  pair stc .write accStore (fun a q =>
    let done := t.store' w g a q fun l => (w.scal st (d.toNat + l)).toNat
    (∀ x, done = .error x → (∀ y, x ≠ .postpone y) → exec stc s = .next (s.stopped x)) ∧
    (∀ y, done = .error (.postpone y) → exec stc s = .next (t.leave stc w y)) ∧ ∀ u, done = .ok u → exec stc s = .next u)

/-- R8, R112, R114, R338, R362, R376, R377: VLD, VGTH, VST and VSCT in any space, in either form: each faults, waits or is refused as its
access of the lanes of ACT is; else its lanes are on their way to their register, extended as the word says, or are stored. -/
def Rules.LaneAccesses : Prop := ∀ (f : BitVec 1) (wd : BitVec 2) (e sg : BitVec 1) (sc : BitVec 2) (a b c h d : RegField) (s : State) (w : Weave),
  let st := s.cur.strand
  let t := s.issued
  let g := t.agentOf w st
  let n := 2 ^ wd.toNat
  let acting := (List.range 96).filter fun l => (w.act st).getLsbD l
  let index : Nat → Int := fun l => (w.scal st (a.toNat + 1)).toNat +
    laneIndex wd sg (laneAt (w.lane b.toNat) l) (laneAt (w.lane (b.toNat + 1)) l) * (2 ^ sc.toNat : Nat)
  let begins := fun (i : Instr) (handle : RegField) (access : Nat) (performed : Attrs → Nat → Prop) => s.Ready i w →
    let at' := t.attrsOf i w
    let object := (w.scal st handle.toNat).toNat
    (at'.space = .hst → object ≠ 0 → acting ≠ [] → exec i s = .next (s.vector s.cur.weave st (s.info w .illegal access))) ∧
    ((at'.space = .hst → object = 0 ∨ acting = []) → performed at' object)
  let loads := fun (i : Instr) (conv : Nat → Word) (at' : Attrs) (q : Req) =>
    (∀ x, t.load w.id g at' q = .error x → (∀ y, x ≠ .postpone y) → exec i s = .next (s.stopped x)) ∧
    ∀ x, t.load w.id g at' q = .ok x → ∃ v : LaneReg, (∀ l ∈ acting, laneAt v l = conv (x.value l)) ∧
      exec i s = .next (x.state.fly q.info (.lanes d.toNat (w.act st) v) x.lanesAt x.bad (neverFails at' x.bad))
  let stores := fun (i : Instr) (value : Nat → Nat) (at' : Attrs) (q : Req) =>
    let done := t.store' w g at' q value
    (∀ x, done = .error x → (∀ y, x ≠ .postpone y) → exec i s = .next (s.stopped x)) ∧
    (∀ y, done = .error (.postpone y) → exec i s = .next (t.leave i w y)) ∧ ∀ u, done = .ok u → exec i s = .next u
  let wide := fun x : Nat => if e = 1 then BitVec.ofInt 32 (BitVec.ofNat (8 * n) x).toInt else BitVec.ofNat 32 (x % 2 ^ (8 * n))
  begins (.vld f wd e c h d) h accLoad (fun at' object => ∃ q, Rules.AsksRow t w st at' object n f c.toNat acting .read q ∧
    loads (.vld f wd e c h d) wide at' q) ∧
  begins (.vgth wd sg sc b a d) a accGather (fun at' object => ∃ q, Rules.AsksIndexed at' object index acting .read q ∧
    loads (.vgth wd sg sc b a d) (BitVec.ofNat 32) at' q) ∧
  begins (.vst f wd c h d) h accStore (fun at' object => ∃ q, Rules.AsksRow t w st at' object n f c.toNat acting .write q ∧
    stores (.vst f wd c h d) (fun l => (laneAt (w.lane d.toNat) l).toNat % 2 ^ (8 * n)) at' q) ∧
  begins (.vsct wd sg sc b a d) a accScatter (fun at' object => ∃ q, Rules.AsksIndexed at' object index acting .write q ∧
    stores (.vsct wd sg sc b a d) (fun l => (laneAt (w.lane d.toNat) l).toNat) at' q)

/-- R239, R337, R338, R376: loads of the scratchpad at a place inside the reservation and aligned complete at once, where no earlier access
of the stream is still to be performed and their acquire has nothing to send without a slot: their bytes, lowest address in the lowest bits,
are on their way to the registers, with the acquire of their order made. -/
def Rules.ScratchpadLoads : Prop :=
  ∀ (wd : BitVec 2) (e : BitVec 1) (c h d : RegField) (s : State) (w : Weave),
  let st := s.cur.strand
  let t := s.issued
  let g := t.agentOf w st
  let n := 2 ^ wd.toNat
  let addr := (w.scal st c.toNat).toNat
  let value := fun (at' k : Nat) => leNat ((List.range k).map fun j => t.sramByte w.id.core (g.spad at' + j))
  let wide := fun (r k x : Nat) => if e = 1 then BitVec.ofInt r (BitVec.ofNat (8 * k) x).toInt else BitVec.ofNat r x
  let after := fun (i : Instr) => let a := t.attrsOf i w
    if a.order = .acq ∨ a.order = .ar ∨ a.order = .sc then t.acquire w.id.core a.scope else t
  let good := fun (at' k : Nat) => t.spadInside g at' k = true ∧ at' % k = 0
  let completes := fun (i : Instr) (dest : Dest) => s.Ready i w → (t.attrsOf i w).space = .spd → s.Unhindered i w →
    ∃ info bad certain, exec i s = .next ((after i).fly info dest [] bad certain) ∧ (s.poison = [] → bad = 0 ∧ certain = true)
  let act := w.act st
  (good addr n → completes (.lds 0 wd e c h d) (.scal d.toNat (wide 64 n (value addr n))) ∧
    completes (.sld 0 wd e c h d) (.scal d.toNat (wide 64 n (value addr n)))) ∧
  (good addr 8 → addr % 16 = 0 → t.spadInside g (addr + 8) 8 = true →
    completes (.ldc 0 c h d) (.scal2 d.toNat (d.toNat + 1) (BitVec.ofNat 64 (value addr 8)) (BitVec.ofNat 64 (value (addr + 8) 8)))) ∧
  ((∀ l, l < 96 → act.getLsbD l = true → good (addr + l * n) n) → ∃ v : LaneReg,
    completes (.vld 0 wd e c h d) (.lanes d.toNat act v) ∧
    ∀ l, l < 96 → act.getLsbD l = true → laneAt v l = wide 32 n (value (addr + l * n) n)) ∧
  ∀ (sg : BitVec 1) (sc : BitVec 2) (b a : RegField),
    let index := fun l => (w.scal st (a.toNat + 1)).toNat +
      laneIndex wd sg (laneAt (w.lane b.toNat) l) (laneAt (w.lane (b.toNat + 1)) l) * 2 ^ sc.toNat
    (∀ l, l < 96 → act.getLsbD l = true → 0 ≤ index l ∧ good (index l).toNat 4) → ∃ v : LaneReg,
      completes (.vgth wd sg sc b a d) (.lanes d.toNat act v) ∧
      ∀ l, l < 96 → act.getLsbD l = true → laneAt v l = BitVec.ofNat 32 (value (index l).toNat 4)

/-- R338, R330, R54, R56: LDQ and GTHQ from scratchpad complete where their queue has room, with GTHQ's index vectors at the head of its
own queue: they reserve the entry at the tail, GTHQ removes its index vectors, and all 96 lanes are on their way. One whose data failed
completes anew and refills the entry that it holds. A queue of the wrong direction is misuse, and without room or indexes they wait. -/
def Rules.QueueLoads : Prop :=
  ∀ (wd : BitVec 2) (e : BitVec 1) (c h : RegField) (qd : BitVec 2) (s : State) (w : Weave), s.cur.strand = .a →
  let t := s.issued
  let g := t.agentOf w .a
  let n := 2 ^ wd.toNat
  let addr := (w.scal .a c.toNat).toNat
  let queue := w.queue qd.toNat
  let value := fun (at' k : Nat) => leNat ((List.range k).map fun j => t.sramByte w.id.core (g.spad at' + j))
  let wide := fun (k x : Nat) => if e = 1 then BitVec.ofInt 32 (BitVec.ofNat (8 * k) x).toInt else BitVec.ofNat 32 x
  let after := fun (i : Instr) => let a := t.attrsOf i w
    if a.order = .acq ∨ a.order = .ar ∨ a.order = .sc then t.acquire w.id.core a.scope else t
  let good := fun (at' k : Nat) => t.spadInside g at' k = true ∧ at' % k = 0
  let reserved := fun (u : State) (kept : List LaneReg) =>
    State.onMe { u with nextId := s.nextId + 1 } fun x => x.onQueue qd.toNat fun y =>
    { y with entries := y.entries ++ [⟨s.nextId, .vector LaneReg.zero, false, none, kept⟩] }
  let refilled := fun (u : State) (x : QEntry) => u.onMe fun u => u.onQueue qd.toNat fun y =>
    { y with entries := y.entries.map fun z => if z.ticket = x.ticket then { z with refill := none } else z }
  let completes := fun (i : Instr) (u : State) (ticket : Nat) (lane : Nat → Word) =>
    ∃ (v : LaneReg) (info : FaultInfo) (bad : LaneMask) (certain : Bool),
      exec i s = .next (u.fly info (.queue qd.toNat ticket v) [] bad certain) ∧
      (∀ l, l < 96 → laneAt v l = lane l) ∧ (s.poison = [] → bad = 0 ∧ certain = true)
  let none' : Prop := ∀ x ∈ queue.entries, x.refill ≠ some s.cur.pc
  let held := fun (x : QEntry) => queue.entries.find? (fun y => y.refill = some s.cur.pc) = some x
  let misuse := fun (i : Instr) => exec i s = .next (s.vector s.cur.weave .a (s.info w .queueMisuse accQueue))
  let ldq : Instr := .ldq 0 wd e c h qd
  (s.Ready ldq w → s.Unhindered ldq w → qd.toNat < 2 → (t.attrsOf ldq w).space = .spd → (∀ l, l < 96 → good (addr + l * n) n) →
    (none' → queue.entries.length < queue.depth →
      completes ldq (reserved (after ldq) []) s.nextId fun l => wide n (value (addr + l * n) n)) ∧
    ∀ x, held x → completes ldq (refilled (after ldq) x) x.ticket fun l => wide n (value (addr + l * n) n)) ∧
  (s.Ready ldq w → (2 ≤ qd.toNat → misuse ldq) ∧
    (qd.toNat < 2 → none' → queue.depth ≤ queue.entries.length → exec ldq s = .next (s.startWait (.queueRoom qd.toNat)))) ∧
  ∀ (sg : BitVec 1) (sc : BitVec 2) (b a : RegField) (qi : BitVec 2) (idx : List LaneReg),
    let i : Instr := .gthq wd sg sc b a qi qd
    let k := if wd = 3 then 2 else 1
    let heads := (w.queue qi.toNat).entries.take k
    let index := fun l => (w.scal .a b.toNat).toNat +
      laneIndex wd sg (laneAt (idx.getD 0 LaneReg.zero) l) (laneAt (idx.getD 1 LaneReg.zero) l) * 2 ^ sc.toNat
    s.Ready i w →
    (s.Unhindered i w → qd.toNat < 2 → 2 ≤ qi.toNat → (t.attrsOf i w).space = .spd → (∀ l, l < 96 → 0 ≤ index l ∧ good (index l).toNat 4) →
      (none' → queue.entries.length < queue.depth →
        idx.length = k → heads.map (·.data) = idx.map QData.vector → (∀ y ∈ heads, y.complete = true) →
        completes i (reserved ((after i).onMe fun u => u.onQueue qi.toNat fun y =>
          { y with entries := y.entries.drop k, head := (y.head + k) % y.depth }) idx) s.nextId
          fun l => BitVec.ofNat 32 (value (index l).toNat 4)) ∧
      ∀ x, held x → x.kept = idx → completes i (refilled (after i) x) x.ticket
        fun l => BitVec.ofNat 32 (value (index l).toNat 4)) ∧
    (2 ≤ qd.toNat ∨ qi.toNat < 2 → misuse i) ∧
    (qd.toNat < 2 → 2 ≤ qi.toNat → none' →
      queue.depth ≤ queue.entries.length ∨ ((w.queue qi.toNat).entries.takeWhile (·.complete)).length < k →
      exec i s = .next (s.startWait (.gather qi.toNat k qd.toNat)))

/-- R362, R361, R363: a store of a scalar register, in any space: it faults, waits or is refused as its access is, it awaits its home's
acceptance, or it is performed with the low bytes of its register. -/
def Rules.ScalarStores : Prop :=
  ∀ (f : BitVec 1) (wd : BitVec 2) (c h d : RegField) (i : Instr) (s : State) (w : Weave),
  i = .sts f wd c h d ∨ i = .sst f wd c h d → s.Ready i w →
  let st := s.cur.strand
  let t := s.issued
  let n := 2 ^ wd.toNat
  let a := t.attrsOf i w
  let object := (w.scal st h.toNat).toNat
  (a.space = .hst → object ≠ 0 → exec i s = .next (s.vector s.cur.weave st (s.info w .illegal accStore))) ∧
  ((a.space = .hst → object = 0) →
    let q := t.reqRow w a object (w.offset st f c.toNat) [0] n .write (some (w.act st)) accStore
    let done := t.store' w (t.agentOf w st) a q fun _ => (w.scal st d.toNat).toNat % 2 ^ (8 * n)
    (∀ x, done = .error x → (∀ y, x ≠ .postpone y) → exec i s = .next (s.stopped x)) ∧
    (∀ y, done = .error (.postpone y) → exec i s = .next (t.leave i w y)) ∧ ∀ u, done = .ok u → exec i s = .next u)

/-- LDS, LDC, SLD, STS, STC and SST, in any space. -/
def Obligations.ScalarAccesses : Prop := Rules.ScalarLoads ∧ Rules.ScalarStores ∧ Rules.PairAccesses

/-- R148, R156, R160, R161, R163, R166: a stream meets its own stores: whatever the caches hold, with any policy and at any scope, a
load of the bytes that a store has just written, with the same attributes, gives the value stored. Where nothing is cached before, a
store changes no other byte, neither at a home nor in a copy that it brings in, and none of any SRAM. (Of plain bytes: byte objects
and host memory.) -/
def Obligations.OwnStores : Prop := ∀ (s u : State) (w : Weave) (id : WeaveId) (g : Agent) (a : Attrs) (q : Req) (o n x : Nat),
  n ∈ [1, 2, 4, 8] → q.width = n → q.lanes = [(0, false, (o : Int))] →
  q.space = .hst ∨ ((q.space = .obj ∨ q.space = .far) ∧ ∃ d, s.objDesc g.part q.object = some d ∧ d.kind ≠ 2) →
  s.cur.moment = .now → a.order = .rlx → a.bundle = false → a.view = false → s.otb = [] → s.members = [] →
  (∀ c ∈ s.caches, c.tag = none ∧ c.data.length = 128) → s.store' w g a q (fun _ => x) = .ok u →
  (∀ r, u.load id g a { q with need := .read } = .ok r → r.value 0 = x % 2 ^ (8 * n)) ∧
  (s.caches = [] → ∀ d, s.descOf g q = some d →
    let stored := (s.lanesAt g q d).flatMap fun l => l.places.map (·.home)
    (∀ y, y ∉ stored → u.homeByte y = s.homeByte y ∧
      ∀ c ∈ u.caches, c.line = y / 128 → c.data.getD (y % 128) 0 = s.homeByte y) ∧
    ∀ core y, u.sramByte core y = s.sramByte core y)

/-- R239, R362, R363, R376, R114, R364, R377: stores to the scratchpad at aligned places inside the reservation complete, where nothing
hinders them (that a bundled one which BREG admits is an ordinary store is the model's choice, log 65):
the low bytes of the registers, lowest first, the highest lane winning, and every other byte of every SRAM as before; a
store from a queue also removes the entries it consumed. -/
def Rules.ScratchpadStores : Prop :=
  ∀ (wd : BitVec 2) (c h d : RegField) (s : State) (w : Weave),
  let st := s.cur.strand
  let t := s.issued
  let g := t.agentOf w st
  let n := 2 ^ wd.toNat
  let addr := (w.scal st c.toNat).toNat
  let before := fun (i : Instr) => let a := t.attrsOf i w
    if a.order = .rel ∨ a.order = .ar ∨ a.order = .sc then t.release w.id.core a.scope else t
  let good := fun (at' k : Nat) => t.spadInside g at' k = true ∧ at' % k = 0 ∧ g.spad at' + k ≤ 0x82000
  let stores := fun (i : Instr) (pop : Weave → Weave) (byte : Nat → Option Byte) => s.Ready i w →
    (t.attrsOf i w).space = .spd → s.Unhindered i w → ∃ u, exec i s = .next u ∧ ∃ v, (before i).StoresOnly v w.id.core byte ∧ u = v.onMe pop
  let acting := (List.range 96).filter fun l => (w.act st).getLsbD l
  let lanes := fun (ls : List Nat) (place value : Nat → Nat) (k y : Nat) =>
    ls.reverse.findSome? fun l => bytesAt (g.spad (place l)) k (value l) y
  (good addr n → ∀ i, i = .sts 0 wd c h d ∨ i = .sst 0 wd c h d →
    stores i id (bytesAt (g.spad addr) n (w.scal st d.toNat).toNat)) ∧
  (good addr 8 → good (addr + 8) 8 → addr % 16 = 0 → stores (.stc 0 c h d) id fun y =>
    (bytesAt (g.spad addr) 8 (w.scal st d.toNat).toNat y).or
      (bytesAt (g.spad (addr + 8)) 8 (w.scal st (d.toNat + 1)).toNat y)) ∧
  ((∀ l ∈ acting, good (addr + l * n) n) → stores (.vst 0 wd c h d) id
    (lanes acting (fun l => addr + l * n) (fun l => (laneAt (w.lane d.toNat) l).toNat) n)) ∧
  (∀ (sg : BitVec 1) (sc : BitVec 2) (b a : RegField),
    let index := fun l => (w.scal st (a.toNat + 1)).toNat +
      laneIndex wd sg (laneAt (w.lane b.toNat) l) (laneAt (w.lane (b.toNat + 1)) l) * 2 ^ sc.toNat
    (∀ l ∈ acting, 0 ≤ index l ∧ good (index l).toNat 4) → stores (.vsct wd sg sc b a d) id
      (lanes acting (fun l => (index l).toNat) (fun l => (laneAt (w.lane d.toNat) l).toNat) 4)) ∧
  ∀ (q : BitVec 2) (x : QEntry) (v : LaneReg), 2 ≤ q.toNat → (w.queue q.toNat).entries.head? = some x → x.complete = true →
    x.data = .vector v → (st = .a →
    ((∀ l, l < 96 → good (addr + l * n) n) → stores (.stq 0 wd c h q)
      (fun u => u.onQueue q.toNat fun y => { y with entries := y.entries.tail, head := (y.head + 1) % y.depth })
      (lanes (List.range 96) (fun l => addr + l * n) (fun l => (laneAt v l).toNat) n)) ∧
    ∀ (sg : BitVec 1) (sc : BitVec 2) (b a : RegField) (qi : BitVec 2) (idx : List LaneReg),
      let k := if wd = 3 then 2 else 1
      let heads := (w.queue qi.toNat).entries.take k
      let index := fun l => (w.scal .a b.toNat).toNat +
        laneIndex wd sg (laneAt (idx.getD 0 LaneReg.zero) l) (laneAt (idx.getD 1 LaneReg.zero) l) * 2 ^ sc.toNat
      2 ≤ qi.toNat → idx.length = k → heads.map (·.data) = idx.map QData.vector → (∀ y ∈ heads, y.complete = true) →
      (∀ l, l < 96 → 0 ≤ index l ∧ good (index l).toNat 4) → stores (.sctq wd sg sc b a qi q)
        (fun u => (u.onQueue q.toNat fun y => { y with entries := y.entries.tail, head := (y.head + 1) % y.depth }).onQueue qi.toNat
          fun y => { y with entries := y.entries.drop k, head := (y.head + k) % y.depth })
        (lanes (List.range 96) (fun l => (index l).toNat) (fun l => (laneAt v l).toNat) 4))

/-- Loads and stores of lanes in any space, and loads and stores in scratchpad. -/
def Obligations.ScratchpadAccesses : Prop := Rules.LaneAccesses ∧ Rules.ScratchpadLoads ∧ Rules.ScratchpadStores

/-- R282, R175: what each atomic operation writes for an old value and an operand of n bytes. -/
def Rules.AtomicOperations : Prop := ∀ (md : FpMode) (n : Nat) (x y : Nat), n = 4 ∨ n = 8 → x < 2 ^ (8 * n) → y < 2 ^ (8 * n) →
  let sg := fun (v : Nat) => (BitVec.ofNat (8 * n) v).toInt
  amoOp 0 n md x y = (x + y) % 2 ^ (8 * n) ∧ sg (amoOp 1 n md x y) = min (sg x) (sg y) ∧
  sg (amoOp 2 n md x y) = max (sg x) (sg y) ∧ amoOp 3 n md x y = min x y ∧ amoOp 4 n md x y = max x y ∧
  amoOp 5 n md x y = x &&& y ∧ amoOp 6 n md x y = x ||| y ∧ amoOp 7 n md x y = x ^^^ y ∧ amoOp 8 n md x y = y ∧
  amoOp 9 n md x y = (
    let m : FpMode := { md with round := if md.round = .stochastic then .rne else md.round }
    fp32.write m (sumExact m.round [fp32.read m x, fp32.read m y]) 0)

/-- R281, R282, R312, R313, R180, R374 in any space: AMO, CAS, VAMO and VCAS ask for the location at the offset in their register, a lane
form for one in each lane of ACT; a .fadd of a tensor whose elements are not f32 faults ILLEGAL; else each faults, waits or is refused as
its access is, or is performed, and what it read is on its way to the register. -/
def Rules.Atomics : Prop := ∀ (o : BitVec 4) (wd : BitVec 2) (b a d : RegField) (s : State) (w : Weave),
  let st := s.cur.strand
  let t := s.issued
  let g := t.agentOf w st
  let n := if wd = 0 then 4 else 8
  let md := fpMode w.fpctl
  let acting := (List.range 96).filter fun l => (w.act st).getLsbD l
  let object := (w.scal st a.toNat).toNat
  let odd := fun (at' : Attrs) => o = 9 ∧ (at'.space = .obj ∨ at'.space = .far) ∧
    ∃ x, t.seeDesc w.id.core w.partition object = some x ∧ x.kind = 2 ∧ x.type ≠ 0
  let performs := fun (i : Instr) (adds : Bool) (needed : Prop) (width : Nat) (lanes : List (Nat × Bool × Int)) (f : Nat → Nat → Option Nat)
      (returns : (Nat → Nat) → Dest → Prop) => s.Ready i w →
    let at' := t.attrsOf i w
    (needed → adds = true → odd at' → ∃ x : FaultInfo, x.cause = .illegal ∧ x.access = accAtomic ∧ x.object = BitVec.ofNat 32 object ∧
      exec i s = .next (s.vector s.cur.weave st x)) ∧
    (at'.space = .hst → object ≠ 0 → needed → exec i s = .next (s.vector s.cur.weave st (s.info w .illegal accAtomic))) ∧
    (¬(needed ∧ adds = true ∧ odd at') → ¬(at'.space = .hst ∧ object ≠ 0 ∧ needed) → ∃ q : Req,
      q.space = at'.space ∧ q.object = object ∧ q.width = width ∧ q.need = .both ∧ q.mask = some (w.act st) ∧ q.lanes = lanes ∧
      let done := t.atomic w g at' q f
      (∀ x, done = .error x → (∀ y, x ≠ .postpone y) → exec i s = .next (s.stopped x)) ∧
      (∀ y, done = .error (.postpone y) → exec i s = .next (t.leave i w y)) ∧
      ∀ u read, done = .ok (u, read) → ∃ dest,
        returns (fun l => ((read.find? fun x => x.1 = l).map (·.2)).getD 0) dest ∧ exec i s = .next (u.fly q.info dest [] 0 true))
  let one := fun (i : Instr) (adds : Bool) (f : Nat → Option Nat) =>
    performs i adds True n [(0, false, ((w.scal st b.toNat).toNat : Int))] (fun _ old => f old)
      (fun old dest => dest = .scal d.toNat (BitVec.ofNat 64 (old 0)))
  let each := fun (i : Instr) (adds : Bool) (f : Nat → Nat → Option Nat) =>
    performs i adds (acting ≠ []) 4 (acting.map fun l => (l, false, ((laneAt (w.lane b.toNat) l).toNat : Int))) f
      (fun old dest => ∃ v : LaneReg, dest = .lanes d.toNat (w.act st) v ∧ ∀ l ∈ acting, laneAt v l = BitVec.ofNat 32 (old l))
  one (.amo o wd b a d) true (fun old => some (amoOp o.toNat n md old ((w.scal st d.toNat).toNat % 2 ^ (8 * n)))) ∧
  one (.cas wd b a d) false (fun old =>
    if old = (w.scal st d.toNat).toNat % 2 ^ (8 * n) then some ((w.scal st (d.toNat + 1)).toNat % 2 ^ (8 * n)) else none) ∧
  each (.vamo o b a d) true (fun l old => some (amoOp o.toNat 4 md old (laneAt (w.lane d.toNat) l).toNat)) ∧
  each (.vcas b a d) false (fun l old =>
    if old = (laneAt (w.lane d.toNat) l).toNat then some (laneAt (w.lane (d.toNat + 1)) l).toNat else none)

/-- R281, R282, R312, R313, R180, R374 in the scratchpad: atomics at aligned places inside the reservation complete: each
reads the value before it, in lane order, writes its own, marks nothing else, and returns what it read. -/
def Rules.ScratchpadAtomics : Prop :=
  ∀ (o : BitVec 4) (wd : BitVec 2) (b a d : RegField) (s : State) (w : Weave), s.poison = [] →
  let st := s.cur.strand
  let t := s.issued
  let g := t.agentOf w st
  let n := if wd = 0 then 4 else 8
  let md := fpMode w.fpctl
  let value := fun (at' k : Nat) => leNat ((List.range k).map fun j => t.sramByte w.id.core (g.spad at' + j))
  let good := fun (at' k : Nat) => t.spadInside g at' k = true ∧ at' % k = 0 ∧ g.spad at' + k ≤ 0x82000
  let performs := fun (i : Instr) (dest : Dest) (byte : Nat → Option Byte) => s.Ready i w → (t.attrsOf i w).space = .spd → s.Unhindered i w →
    let at' := t.attrsOf i w
    let before := if at'.order = .rel ∨ at'.order = .ar ∨ at'.order = .sc then t.release w.id.core at'.scope else t
    ∃ u info, before.StoresOnly u w.id.core byte ∧ exec i s = .next
      ((if at'.order = .acq ∨ at'.order = .ar ∨ at'.order = .sc then u.acquire w.id.core at'.scope else u).fly info dest [] 0 true)
  let addr := (w.scal st b.toNat).toNat
  let x := (w.scal st d.toNat).toNat % 2 ^ (8 * n)
  let x' := (w.scal st (d.toNat + 1)).toNat % 2 ^ (8 * n)
  let old := value addr n
  let acting := (List.range 96).filter fun l => (w.act st).getLsbD l
  let place := fun l => (laneAt (w.lane b.toNat) l).toNat
  let chain := fun (f : Nat → Nat → Nat) (at' : Nat) (ls : List Nat) =>
    (ls.filter fun l => place l = at').foldl (fun v l => f l v) (value at' 4)
  let swap := fun l v => if v = (laneAt (w.lane d.toNat) l).toNat then (laneAt (w.lane (d.toNat + 1)) l).toNat else v
  let add := fun l v => amoOp o.toNat 4 md v (laneAt (w.lane d.toNat) l).toNat
  (good addr n →
    performs (.amo o wd b a d) (.scal d.toNat (BitVec.ofNat 64 old)) (bytesAt (g.spad addr) n (amoOp o.toNat n md old x)) ∧
    performs (.cas wd b a d) (.scal d.toNat (BitVec.ofNat 64 old))
      (fun y => if old = x then bytesAt (g.spad addr) n x' y else none)) ∧
  ((∀ l ∈ acting, good (place l) 4) → ∀ i f, (i, f) ∈ [(Instr.vamo o b a d, add), (.vcas b a d, swap)] → ∃ v : LaneReg,
    performs i (.lanes d.toNat (w.act st) v) (fun y =>
      acting.findSome? fun l => bytesAt (g.spad (place l)) 4 (chain f (place l) acting) y) ∧
    ∀ l ∈ acting, laneAt v l = BitVec.ofNat 32 (chain f (place l) (acting.filter (· < l))))

/-- AMO, VAMO, CAS and VCAS. -/
def Obligations.Atomics : Prop := Rules.AtomicOperations ∧ Rules.Atomics ∧ Rules.ScratchpadAtomics

/-- R8, R112, R114, R330, R338, R362, R364: LDQ, GTHQ, STQ and SCTQ in any space, in either form, where their queues let them act: each
faults, waits or is refused as its access of all 96 lanes is. Else a load reserves its entry, or refills the one that it holds, GTHQ takes
its index vectors, and the lanes are on their way; a store is performed and what it consumed leaves its queues. -/
def Rules.QueueAccesses : Prop := ∀ (f : BitVec 1) (wd : BitVec 2) (e sg : BitVec 1) (sc : BitVec 2) (b a c h : RegField) (qi q : BitVec 2)
    (s : State) (w : Weave), s.cur.strand = .a →
  let t := s.issued
  let g := t.agentOf w .a
  let n := 2 ^ wd.toNat
  let k := if wd = 3 then 2 else 1
  let queue := w.queue q.toNat
  let heads := (w.queue qi.toNat).entries.take k
  let index : List LaneReg → Nat → Int := fun idx l => (w.scal .a b.toNat).toNat +
    laneIndex wd sg (laneAt (idx.getD 0 LaneReg.zero) l) (laneAt (idx.getD 1 LaneReg.zero) l) * (2 ^ sc.toNat : Nat)
  let none' : Prop := ∀ x ∈ queue.entries, x.refill ≠ some s.cur.pc
  let held := fun (x : QEntry) => queue.entries.find? (fun y => y.refill = some s.cur.pc) = some x
  let drop := fun (m k : Nat) (u : Weave) => u.onQueue m fun y => { y with entries := y.entries.drop k, head := (y.head + k) % y.depth }
  let handled := fun (i : Instr) (handle : RegField) (access : Nat) (performed : Attrs → Nat → Prop) => s.Ready i w →
    let at' := t.attrsOf i w
    let object := (w.scal .a handle.toNat).toNat
    (at'.space = .hst → object ≠ 0 → exec i s = .next (s.vector s.cur.weave .a (s.info w .illegal access))) ∧
    ((at'.space = .hst → object = 0) → performed at' object)
  -- a load whose entry is x, or a new one with the index vectors kept
  let loads := fun (i : Instr) (conv : Nat → Word) (took : Weave → Weave) (x? : Option QEntry) (kept : List LaneReg) (at' : Attrs) (r : Req) =>
    (∀ x, t.load w.id g at' r = .error x → (∀ y, x ≠ .postpone y) → exec i s = .next (s.stopped x)) ∧
    ∀ x, t.load w.id g at' r = .ok x → ∃ v : LaneReg, (∀ l, l < 96 → laneAt v l = conv (x.value l)) ∧
      let into := match x? with
        | some y => (x.state.onMe fun u => u.onQueue q.toNat fun z =>
            { z with entries := z.entries.map fun (m : QEntry) => if m.ticket = y.ticket then { m with refill := none } else m }, y.ticket)
        | none => (State.onMe { x.state.onMe took with nextId := x.state.nextId + 1 } fun u => u.onQueue q.toNat fun z =>
            { z with entries := z.entries ++ [(⟨x.state.nextId, .vector LaneReg.zero, false, none, kept⟩ : QEntry)] }, x.state.nextId)
      exec i s = .next (into.1.fly r.info (.queue q.toNat into.2 v) x.lanesAt x.bad (neverFails at' x.bad))
  let stores := fun (i : Instr) (value : Nat → Nat) (took : Weave → Weave) (at' : Attrs) (r : Req) =>
    let done := t.store' w g at' r value
    (∀ x, done = .error x → (∀ y, x ≠ .postpone y) → exec i s = .next (s.stopped x)) ∧
    (∀ y, done = .error (.postpone y) → exec i s = .next (t.leave i w y)) ∧ ∀ u, done = .ok u → exec i s = .next (u.onMe took)
  let vectors := fun (idx : List LaneReg) => idx.length = k ∧ heads.map (·.data) = idx.map QData.vector ∧ ∀ y ∈ heads, y.complete = true
  let wide := fun x : Nat => if e = 1 then BitVec.ofInt 32 (BitVec.ofNat (8 * n) x).toInt else BitVec.ofNat 32 (x % 2 ^ (8 * n))
  let ldq : Instr := .ldq f wd e c h q
  let gthq : Instr := .gthq wd sg sc b a qi q
  (q.toNat < 2 → ∀ x?, (x? = none ∧ none' ∧ queue.entries.length < queue.depth) ∨ (∃ x, x? = some x ∧ held x) →
    handled ldq h accLoad (fun at' object => ∃ r, Rules.AsksRow t w .a at' object n f c.toNat (List.range 96) .read r ∧
      loads ldq wide id x? [] at' r)) ∧
  (q.toNat < 2 → 2 ≤ qi.toNat → ∀ x? idx, (x? = none ∧ none' ∧ queue.entries.length < queue.depth ∧ vectors idx) ∨
      (∃ x, x? = some x ∧ held x ∧ x.kept = idx) →
    handled gthq a accGather (fun at' object => ∃ r, Rules.AsksIndexed at' object (index idx) (List.range 96) .read r ∧
      loads gthq (BitVec.ofNat 32) (drop qi.toNat k) x? idx at' r)) ∧
  ∀ x v, 2 ≤ q.toNat → queue.entries.head? = some x → x.complete = true → x.data = .vector v →
    handled (.stq f wd c h q) h accStore (fun at' object => ∃ r, Rules.AsksRow t w .a at' object n f c.toNat (List.range 96) .write r ∧
      stores (.stq f wd c h q) (fun l => (laneAt v l).toNat % 2 ^ (8 * n)) (drop q.toNat 1) at' r) ∧
    (2 ≤ qi.toNat → ∀ idx, vectors idx → handled (.sctq wd sg sc b a qi q) a accScatter (fun at' object => ∃ r,
      Rules.AsksIndexed at' object (index idx) (List.range 96) .write r ∧
      stores (.sctq wd sg sc b a qi q) (fun l => (laneAt v l).toNat) (fun u => drop qi.toNat k (drop q.toNat 1 u)) at' r))

/-- R353, R113, R153: a prefetch completes always: it writes no register, puts nothing in flight, stops nothing and sends no run. Where a
check of its object, of its offset or of the right to read fails it is dropped and counted; where its line's region moves, its port is down
or no slot names its partition it is dropped; else it reads its line, or is dropped for want of a miss resource. What is counted, that a
prefetch of host memory with a handle other than 0 is, and that the line is read at weave scope, is the model's reading (log 48). -/
def Rules.Prefetches : Prop := ∀ (f : BitVec 1) (c h : RegField) (s : State) (w : Weave), s.Ready (.pref f c h) w →
  let t := s.issued
  let a := t.attrsOf (.pref f c h) w
  let object := (w.scal s.cur.strand h.toNat).toNat
  let off := w.offset s.cur.strand f c.toNat
  let counted := t.onCore w.id.core fun k => { k with specMiss := k.specMiss + 1 }
  let place := t.prefPlace w s.cur.strand a object off
  (∃ u, exec (.pref f c h) s = .next u ∧ u.weaves = t.weaves ∧ u.flights = t.flights ∧ u.spad = t.spad ∧ u.tracks = t.tracks) ∧
  (place = none → exec (.pref f c h) s = .next counted) ∧
  (a.space = .hst → ∀ o, off = .at' o → object ≠ 0 ∨ t.granted w.function ≤ o.toNat → exec (.pref f c h) s = .next counted) ∧
  (a.space ≠ .hst → (t.seeDesc w.id.core w.partition object = none → exec (.pref f c h) s = .next counted) ∧
    ∀ d, t.seeDesc w.id.core w.partition object = some d →
      d.withdrawn = true ∨ (off.start (some d)).1 = true ∨ (off.start (some d)).2 < 0 ∨
        ((if d.kind = 2 then d.count else d.size : Nat) : Int) ≤ (off.start (some d)).2 ∨
        t.permits w.partition object d .read = false → exec (.pref f c h) s = .next counted) ∧
  ∀ p, place = some p →
    (p.moving = true ∨ t.placeDown p = true ∨ t.maySend w.partition = false → exec (.pref f c h) s = .next t) ∧
    let walked := if a.space = .hst then t else t.walk w.id.core w.partition object p.frame
    (exec (.pref f c h) s = .next t ∨
      ∃ u, walked.loadLine w.id.core { a with scope := .wv } false p = .ok u ∧ exec (.pref f c h) s = .next u)

/-! ### Synchronisation -/

/-- LDQ, GTHQ, STQ and SCTQ in any space, LDQ and GTHQ in scratchpad, and PREF. -/
def Obligations.QueueLoads : Prop := Rules.QueueAccesses ∧ Rules.QueueLoads ∧ Rules.Prefetches

/-- R167, R170, R174, R278, R153: FENCE releases and acquires as its order says; ACQP checks the victim core, waits for its drain
point, and there writes back and invalidates the victim's L1, ends its cluster's L copies from die scope on, and acquires. Each stays as it
is while it has lines to send and no slot names its partition. -/
def Rules.FencesAndDrains : Prop := ∀ (sc o : BitVec 3) (a : RegField) (s : State) (w : Weave) (scope : Scope),
  scope.code = sc.toNat →
  let t := s.issued
  let v := (w.scal s.cur.strand a.toNat).toNat
  let held := fun (x : State) (part core : Nat) => x.fenceHeld part core scope = true
  let faults := fun (c : Cause) => exec (.acqp a sc) s =
    .next (s.vector s.cur.weave s.cur.strand (s.info w c accOther))
  (s.Ready (.fence sc o) w →
    let u := if o = 2 ∨ o = 3 ∨ o = 4 then t.release w.id.core scope else t
    (held t w.partition w.id.core → exec (.fence sc o) s = .next s) ∧
    (¬held t w.partition w.id.core →
      exec (.fence sc o) s = .next (if o = 1 ∨ o = 3 ∨ o = 4 then u.acquire w.id.core scope else u))) ∧
  (s.Ready (.acqp a sc) w →
    (383 < v → faults .illegal) ∧
    (v ≤ 383 → t.hasCore v = false ∨ t.grantedCore w.partition v = false → faults .perm) ∧
    (v ≤ 383 → t.hasCore v = true → t.grantedCore w.partition v = true →
      ∃ info, exec (.acqp a sc) s = .next (t.fly info (.drain v scope) [] 0 true))) ∧
  ∀ (f : Flight) (core : Nat), s.flights.find? (fun x => x.id = f.id) = some f → f.dest = .drain core scope →
    let u : State := { s with flights := s.flights.filter fun x => x.id ≠ f.id }
    let waits := ∃ x, s.weave? f.weave = some x ∧ (held s x.partition core ∨ held s x.partition f.weave.core)
    (waits → exec (.acqpDrain f.id) s = .next s) ∧
    (¬waits → exec (.acqpDrain f.id) s =
      .next (((u.flushL1 core scope).acquireCaches core scope).acquire f.weave.core scope))

/-- R285 to R288, R216: an arrival takes one from the pending count, stopping at 0, and with the last one and no bytes
pending the phase inverts and the count reloads; BARA goes on, BAR goes on where its own arrival flips the object and waits
otherwise, BARW goes on unless its record's phase stands, and a locator out of place faults. -/
def Rules.Barriers : Prop := ∀ (d : RegField) (s : State) (w : Weave) (c : Crew), s.crew? w.crew = some c →
  let t := s.issued
  let core := w.id.core
  let o := (w.scal s.cur.strand d.toNat).toNat % 2 ^ 20
  let a := c.spadAt + o
  let j := o / 32
  let r := t.release core .co
  let number := fun (u : State) (k n : Nat) => u.sramRead core (a + k) n
  let phase := fun (u : State) => (u.sramByte core a).getLsbD 0
  let flips : Prop := number r 4 2 ≤ 1 ∧ number r 8 8 = 0
  let record := fun (u : State) (x : BarrierRec) =>
    u.onWeave w.id fun v => { v with recs := v.recs.setIfInBounds j x }
  let arrived := fun (u : State) =>
    (flips → phase u = !phase r ∧ number u 4 2 = number r 2 2) ∧
    (¬flips → phase u = phase r ∧ number u 4 2 = number r 4 2 - 1) ∧
    (∀ k y, (k, y) ∈ [(core, a), (core, a + 4), (core, a + 5)] ∨ u.sramByte k y = r.sramByte k y) ∧
    u.weave? w.id = (r.weave? w.id).map fun v => { v with recs := v.recs.setIfInBounds j ⟨true, phase t⟩ }
  let faults := fun (i : Instr) (e : Cause) => s.Ready i w → exec i s = .next (s.vector s.cur.weave s.cur.strand
    { s.info w e accOther with place := BitVec.ofNat 128 o })
  (∀ i, i = .bar d ∨ i = .bara d ∨ i = .barw d →
    (o % 32 ≠ 0 → faults i .align) ∧ (o % 32 = 0 → c.bars ≤ j → faults i .objBound)) ∧
  (o % 32 = 0 → j < c.bars → a + 32 ≤ 0x82000 →
    (s.Ready (.bara d) w → ∃ u, exec (.bara d) s = .next u ∧ arrived u) ∧
    (s.Ready (.bar d) w → ∃ u, arrived u ∧
      (flips → exec (.bar d) s = .next ((record u ⟨false, phase t⟩).acquire core .co)) ∧
      (¬flips → exec (.bar d) s = .next (u.startWait (.barrier o (phase t))))) ∧
    (s.Ready (.barw d) w → ∀ x : BarrierRec, w.recs[j]? = some x →
      (x.arrived = false → exec (.barw d) s = .next (t.acquire core .co)) ∧
      (x.arrived = true → phase t ≠ x.phase → exec (.barw d) s = .next ((record t ⟨false, x.phase⟩).acquire core .co)) ∧
      (x.arrived = true → phase t = x.phase → exec (.barw d) s = .next (t.startWait (.barrier o x.phase)))))

/-- R293, R294: BINIT writes the object with its count pending and expected, phase 0 and every other field 0, clears the
barrier's records in every weave of the crew, and changes no other byte; its faults, in order. -/
def Rules.BarrierSetup : Prop := ∀ (a d : RegField) (s : State) (w : Weave) (c : Crew),
  s.Ready (.binit a d) w → s.crew? w.crew = some c →
  let t := s.issued
  let core := w.id.core
  let o := (w.scal s.cur.strand d.toNat).toNat % 2 ^ 20
  let at' := c.spadAt + o
  let n := (w.scal s.cur.strand a.toNat).toNat
  let faults := fun (e : Cause) (place : Nat) => exec (.binit a d) s = .next (s.vector s.cur.weave s.cur.strand
    { s.info w e accOther with place := BitVec.ofNat 128 place })
  (c.spadBytes < o + 32 → faults .objBound o) ∧
  (o + 32 ≤ c.spadBytes → o % 32 ≠ 0 → faults .align o) ∧
  (o + 32 ≤ c.spadBytes → o % 32 = 0 → n = 0 ∨ 65535 < n → faults .illegal 0) ∧
  (o + 32 ≤ c.spadBytes → o % 32 = 0 → at' + 32 ≤ 0x82000 → 1 ≤ n → n ≤ 65535 → ∃ u, exec (.binit a d) s = .next u ∧
    (∀ k y, y < 0x82000 → u.sramByte k y = if k = core ∧ at' ≤ y ∧ y < at' + 32 then
      BitVec.ofNat 8 ((2 ^ 16 * n + 2 ^ 32 * n) / 2 ^ (8 * (y - at'))) else s.sramByte k y) ∧
    u.weaves = t.weaves.map fun x => if x.crew = w.crew ∧ o / 32 < c.bars then
      { x with recs := x.recs.setIfInBounds (o / 32) ⟨false, false⟩ } else x)

/-- BAR, BARA, BARW and BINIT. -/
def Obligations.Barriers : Prop := Rules.Barriers ∧ Rules.BarrierSetup

/-- R181, R121, R153: WAITV faults or stalls as its access does; it writes the word it observes, with an acquire of its scope, where the
word differs from its comparand, and waits where it does not; while the acquire has lines to send and no slot names the partition it stays
as it is. In scratchpad it observes four aligned bytes of its crew. -/
def Rules.WordWaits : Prop := ∀ (b a d : RegField) (s : State) (w : Weave) (at' : Attrs),
  let i : Instr := .waitv b a d
  let st := s.cur.strand
  let t := s.issued
  let g := t.agentOf w st
  let object := (w.scal st a.toNat).toNat
  let o := w.scal st b.toNat
  let c : Word := (w.scal st d.toNat).setWidth 32
  let held := t.fenceHeld w.partition w.id.core at'.scope = true
  let waits := exec i s = .next (s.startWait (.word object o.toNat at' c (w.physical st d.toNat) (w.mode st)))
  let ends := fun (u : State) (x : Word) => (u.acquire w.id.core at'.scope).onMe fun v => v.setScal st d.toNat (x.setWidth 64)
  s.Ready i w → waitvAttrs i (w.mdef st) = some at' →
  (at'.space = .hst → object ≠ 0 → exec i s = .next (s.vector s.cur.weave st (s.info w .illegal accLoad))) ∧
  ((at'.space = .hst → object = 0) →
    let q := t.waitvReq w at' object o
    let seen := t.observeWord g at' q
    (∀ e, seen = .error e → (∀ y, e ≠ .postpone y) → exec i s = .next (s.stopped e)) ∧
    (∀ u x, seen = .ok (u, x) → held → exec i s = .next s) ∧
    (∀ u x, seen = .ok (u, x) → ¬held → x ≠ c → exec i s = .next (ends (u.waitvRun t g at' q) x)) ∧
    ∀ u, seen = .ok (u, c) → ¬held → waits) ∧
  (at'.space = .spd → ¬held → s.poison = [] → t.spadInside g o.toNat 4 = true → o.toNat % 4 = 0 →
    let x : Word := BitVec.ofNat 32 (leNat ((List.range 4).map fun k => t.sramByte w.id.core (g.spad o.toNat + k)))
    (x ≠ c → exec i s = .next (ends t x)) ∧ (x = c → waits))

/-! ### Bundles -/

/-- FENCE, ACQP with its drain, and WAITV. -/
def Obligations.FencesAndWaits : Prop := Rules.FencesAndDrains ∧ Rules.WordWaits

/-- R193, R110, R182: the checks that every bundle member makes on its manifest, in order, and the fault they raise. -/
def Rules.ManifestChecks : Prop := ∀ (b a d : RegField) (s : State) (w : Weave),
  let t := s.issued
  let h := (w.scal s.cur.strand a.toNat).toNat
  let faults := fun (i : Instr) (c : Cause) => s.Ready i w → exec i s = .next (s.vector s.cur.weave s.cur.strand
    { s.info w c accLayout with object := BitVec.ofNat 32 h })
  let good := fun (x : ObjDesc) => x.kind = 3 ∧ x.withdrawn = false ∧ 64 ≤ x.size ∧ x.readable = true
  let checks := fun (i : Instr) (write : Bool) =>
    (t.seeDesc w.id.core w.partition h = none → faults i .objBound) ∧
    ∀ x, t.seeDesc w.id.core w.partition h = some x →
      (x.kind ≠ 3 → faults i .objBound) ∧
      (x.kind = 3 → x.withdrawn = true → faults i .extentGone) ∧
      (x.kind = 3 → x.withdrawn = false → x.size < 64 → faults i .objBound) ∧
      (x.kind = 3 → x.withdrawn = false → 64 ≤ x.size → x.readable = false ∨ (write = true ∧ x.writable = false) →
        faults i .perm) ∧
      (good x → (write = true → x.writable = true) → t.manifestFault w h write = none)
  checks (.bjoin a d) true ∧ checks (.babort a) true ∧ checks (.bview a d) false ∧ checks (.brel a) false ∧
    checks (.bstat a d) false ∧
    (1 ≤ (w.scal s.cur.strand b.toNat).toNat → (w.scal s.cur.strand b.toNat).toNat ≤ 65535 → checks (.bopen b a d) true) ∧
    ((w.scal s.cur.strand d.toNat).toNat < 2 ^ 33 → checks (.bpin a d) true)

/-- R296, R298, R244: BOPEN and BJOIN ask the bundle's coordinator, whose answer comes as a load's data do; the faults of a count out of
range and of a weave that takes part already. -/
def Rules.BundleOpening : Prop := ∀ (b a d : RegField) (s : State) (w : Weave),
  let t := s.issued
  let h := (w.scal s.cur.strand a.toNat).toNat
  let n := (w.scal s.cur.strand b.toNat).toNat
  let asks := fun (i : Instr) (op : CoordOp) => exec i s = .next (t.fly (s.info w .illegal accOther) (.coord d.toNat op) [] 0 true)
  t.manifestFault w h true = none →
  (s.Ready (.bopen b a d) w → n = 0 ∨ 65535 < n → exec (.bopen b a d) s =
    .next (s.vector s.cur.weave s.cur.strand (s.info w .illegal accLayout))) ∧
  (∀ i, i = .bjoin a d ∨ (i = .bopen b a d ∧ 1 ≤ n ∧ n ≤ 65535) → s.Ready i w → w.breg ≠ 0 →
    exec i s = .next (s.vector s.cur.weave s.cur.strand { s.info w .bundleOutside accLayout with
      object := BitVec.ofNat 32 h
      generation := BitVec.ofNat 32 (((t.bundle? w.partition w.breg.toNat).map (·.opened)).getD 0) })) ∧
  (s.Ready (.bopen b a d) w → 1 ≤ n → n ≤ 65535 → w.breg = 0 → asks (.bopen b a d) (.bopen h n)) ∧
  (s.Ready (.bjoin a d) w → w.breg = 0 → asks (.bjoin a d) (.bjoin h))

/-- R194, R292, R296, R298, R244: the coordinator's answer to BOPEN and BJOIN, in one: the generation that opens is one more than the last,
the counts at the coordinator, the participation record and BREG, and the result code with its generation in the register. -/
def Rules.OpeningAnswers : Prop := ∀ (s : State) (id : WeaveId) (st : Strand) (d h n : Nat) (w : Weave), s.weave? id = some w →
  let gives := fun (op : CoordOp) (u : State) (code gen : Nat) => s.answer id st d op =
    u.onWeave id fun v => v.setPhysical st d (BitVec.ofNat 64 (2 ^ 32 * code + gen % 2 ^ 32))
  let takesPart := fun (u : State) (gen : Nat) => u.onWeave id fun v =>
    { v with part := some (BitVec.ofNat 32 h, BitVec.ofNat 32 gen), breg := BitVec.ofNat 32 h }
  let bopen : CoordOp := .bopen h n
  let bjoin : CoordOp := .bjoin h
  (let u := s.objSync w.partition h 0 64
    let opening := fun (x : Bundle) => gives bopen (takesPart (u.putBundle { x with
      state := .opened, opened := x.opened + 1, participants := n, joined := 1, closed := 0, chips := 1
      reported := false, owners := [w.function] }) (x.opened + 1)) 0 (x.opened + 1)
    (∀ x, u.bundle? w.partition h = some x →
      (x.state = .opened ∨ x.state = .committing → ∃ g, gives bopen u 1 g) ∧
      (x.state = .committed ∨ x.state = .aborted → x.opened = 0xFFFFFFFE → ∃ g, gives bopen u 2 g) ∧
      (x.state = .committed ∨ x.state = .aborted → x.opened ≠ 0xFFFFFFFE → opening x)) ∧
    (u.bundle? w.partition h = none →
      let room := u.bundles.length < 4096 ∧ (u.bundles.filter fun x => x.part = w.partition).length < (u.pcb w.partition).bundlesNow ∧
        u.objRead w.partition h 0 64 = 0
      (¬room → ∃ g, gives bopen u 2 g) ∧
      (room → ∀ k, k < 4096 → (∀ x ∈ u.bundles, x.index ≠ k) → (∀ j, j < k → ∃ x ∈ u.bundles, x.index = j) →
        opening { part := w.partition, handle := h, index := k, coordinator := u.chipId.toNat, state := .committed, opened := 0
                  committed := 0, participants := 0, joined := 0, closed := 0, chips := 0, pin := none, pinOwner := 0
                  members := [], reported := false, aborted := [], owners := [] }))) ∧
  ((∀ x, s.bundle? w.partition h = some x → x.state ≠ .opened) → ∃ g, gives bjoin s 1 g) ∧
  ∀ x, s.bundle? w.partition h = some x → x.state = .opened →
    (w.part = some (BitVec.ofNat 32 h, BitVec.ofNat 32 x.opened) → gives bjoin (takesPart s x.opened) 0 x.opened) ∧
    (w.part ≠ some (BitVec.ofNat 32 h, BitVec.ofNat 32 x.opened) →
      (x.joined = x.participants → ∃ g, gives bjoin s 3 g) ∧
      (x.joined ≠ x.participants → gives bjoin
        (takesPart (s.putBundle { x with joined := x.joined + 1, owners := w.function :: x.owners }) x.opened) 0 x.opened))

/-- BOPEN and BJOIN, and the checks of a manifest. -/
def Obligations.BundleOpening : Prop := Rules.ManifestChecks ∧ Rules.BundleOpening ∧ Rules.OpeningAnswers

/-- R189, R190, R292, R284, R244: BCLOSE asks the coordinator, whose answer counts the close, the last one making the bundle committing,
and ends the participation with the result in the register; the report that makes the open generation the committed one, or aborts where
an open version has an uncorrectable error, and BABORT, which discards open versions and clears every participant's BREG. -/
def Rules.BundleClosing : Prop := ∀ (a d : RegField) (s : State) (w : Weave),
  let t := s.issued
  let h := (w.scal s.cur.strand a.toNat).toNat
  let asks := exec (.bclose d) s = .next (t.fly (s.info w .illegal accOther) (.coord d.toNat .bclose) [] 0 true)
  (s.Ready (.bclose d) w → (w.part = none → asks) ∧ ∀ m g, w.part = some (m, g) →
    (∀ c, t.manifestFault w m.toNat true = some c → exec (.bclose d) s = .next (s.vector s.cur.weave s.cur.strand
      { s.info w c accLayout with object := m })) ∧
    (t.manifestFault w m.toNat true = none → asks)) ∧
  (∀ (id : WeaveId) (st : Strand) (n : Nat) (v : Weave), s.weave? id = some v →
    let gives := fun (u : State) (code : Nat) (gen : BitVec 32) => s.answer id st n .bclose = (u.onWeave id fun y =>
      { y with part := none, breg := 0, session := y.session + 1 }).onWeave id fun y =>
        y.setPhysical st n (BitVec.ofNat 64 (2 ^ 32 * code + gen.toNat))
    (v.part = none → gives s 1 0) ∧ ∀ m g, v.part = some (m, g) →
      (s.bundle? v.partition m.toNat = none → gives s 2 g) ∧
      ∀ x, s.bundle? v.partition m.toNat = some x →
        (g.toNat ∈ x.aborted → gives s 2 g) ∧
        (g.toNat ∉ x.aborted → gives ((s.release id.core .sp).putBundle { x with
          closed := x.closed + 1, state := if x.closed + 1 = x.participants then .committing else x.state }) 0 g)) ∧
  (s.Ready (.babort a) w → t.manifestFault w h true = none →
    ((∀ x, t.bundle? w.partition h = some x → x.state = .committed ∨ x.state = .aborted) → exec (.babort a) s = .next t) ∧
    ∀ x, t.bundle? w.partition h = some x → x.state = .opened ∨ x.state = .committing → ∃ u : State,
      exec (.babort a) s = .next (u.putBundle { x with state := .aborted, aborted := x.opened :: x.aborted, reported := false }) ∧
      { u with weaves := t.weaves, members := t.members } = t ∧
      (u.members = t.members.map fun m => if m.part = x.part ∧ m.handle = x.handle ∧
        m.openV.map (·.generation) = some x.opened then { m with openV := none } else m) ∧
      u.weaves = t.weaves.map fun v => if v.part = some (BitVec.ofNat 32 x.handle, BitVec.ofNat 32 x.opened) ∧
        v.ctxid.toNat / 256 % 16 = x.part then { v with breg := 0 } else v) ∧
  ∀ part m x, s.bundle? part m = some x → x.state = .committing →
    let sound : Prop := ∀ y ∈ s.members, y.part = x.part → y.handle = x.handle → ∀ v, y.openV = some v →
      v.generation = x.opened → v.bad = 0
    (sound → exec (.bundleMemberReport part m) s =
      .next (s.putBundle { x with state := .committed, committed := x.opened, reported := true })) ∧
    (¬sound → exec (.bundleMemberReport part m) s = .next (s.abortBundle x))

/-- R308, R310, R303, R191: BVIEW fixes the lowest free view entry at its generation, as an acquire at span scope, or answers
why not; BREL frees the entries of its handle; BSTAT reads the state, the pin and the committed generation. -/
def Rules.Views : Prop := ∀ (a d : RegField) (s : State) (w : Weave),
  let t := s.issued
  let h := (w.scal s.cur.strand a.toNat).toNat
  let request := (w.scal s.cur.strand d.toNat).toNat % 2 ^ 32
  let put := fun (u : State) (x : Nat) => u.fly (s.info w .illegal accOther) (.scal d.toNat (BitVec.ofNat 64 x)) [] 0 true
  let names := fun (v : ViewEntry) => v.valid = true ∧ v.handle.toNat = h
  let bundle := t.bundle? w.partition h
  let committed := (bundle.map (·.committed)).getD 0
  let g := if request = 0xFFFFFFFF then committed else request
  let u := (bundle.map fun b => t.settleBundle b g).getD t
  let held := ∀ b, u.bundle? w.partition h = some b → ∀ m ∈ u.membersOf b, (m.versionAt g).isSome = true
  t.manifestFault w h false = none →
  (s.Ready (.bview a d) w →
    (∀ v, w.views.toList.find? (fun v => v.valid && v.handle.toNat = h) = some v →
      exec (.bview a d) s = .next (put t (2 ^ 32 + v.generation.toNat))) ∧
    ((∀ v ∈ w.views.toList, ¬names v) →
      ((∀ v ∈ w.views.toList, v.valid = true) → exec (.bview a d) s = .next (put t (2 * 2 ^ 32))) ∧
      ∀ k, (hk : k < 4) → w.views[k].valid = false → (∀ j, (hj : j < k) → w.views[j].valid = true) →
        (committed < g ∨ ¬held → exec (.bview a d) s = .next (put t (3 * 2 ^ 32))) ∧
        (g ≤ committed → held → u.fenceHeld w.partition w.id.core .sp = true → exec (.bview a d) s = .next s) ∧
        (g ≤ committed → held → u.fenceHeld w.partition w.id.core .sp = false → exec (.bview a d) s = .next (put ((u.onMe fun x => { x with
          views := x.views.set k ⟨BitVec.ofNat 32 h, BitVec.ofNat 32 g, true, false, false⟩ }).acquire w.id.core .sp) (g % 2 ^ 32))))) ∧
  (s.Ready (.brel a) w → ∃ r, exec (.brel a) s = .next r ∧
    (r.weave? w.id).map (·.views.toList) = some (w.views.toList.map fun v =>
      if v.valid = true ∧ v.handle.toNat = h then { v with valid := false, expired := false, dead := false } else v) ∧
    (bundle = none → r.members = t.members)) ∧
  (s.Ready (.bstat a d) w →
    (bundle = none → exec (.bstat a d) s = .next (put t 0)) ∧
    ∀ b, bundle = some b → exec (.bstat a d) s = .next (put t (b.committed % 2 ^ 32 + 2 ^ 32 * (match b.state with
      | .committed => 0
      | .opened => 1
      | .committing => 2
      | .aborted => 3) + (if b.pin.isSome then 2 ^ 34 else 0))))

/-- R300, R194, R244: BPIN asks the coordinator with what d holds; the conditions of the answer in the order in which they decide, and the
unpin. -/
def Rules.Pins : Prop := ∀ (a d : RegField) (s : State) (w : Weave), s.Ready (.bpin a d) w →
  let t := s.issued
  let h := (w.scal s.cur.strand a.toNat).toNat
  let ask := w.scal s.cur.strand d.toNat
  (2 ^ 33 ≤ ask.toNat → exec (.bpin a d) s = .next (s.vector s.cur.weave s.cur.strand (s.info w .illegal accLayout))) ∧
  (ask.toNat < 2 ^ 33 → t.manifestFault w h true = none →
    exec (.bpin a d) s = .next (t.fly (s.info w .illegal accOther) (.coord d.toNat (.bpin h ask)) [] 0 true)) ∧
  ∀ (id : WeaveId) (st : Strand) (n m : Nat) (v : DWord) (x : Weave), s.weave? id = some x → v.toNat < 2 ^ 33 →
    let g := v.toNat % 2 ^ 32
    let gives := fun (u : State) (code gen : Nat) => s.answer id st n (.bpin m v) =
      u.onWeave id fun y => y.setPhysical st n (BitVec.ofNat 64 (2 ^ 32 * code + gen % 2 ^ 32))
    (2 ^ 32 ≤ v.toNat →
      (s.bundle? x.partition m = none → gives s 1 g) ∧
      ∀ b, s.bundle? x.partition m = some b →
        let u := s.settleBundle b g
        if b.pin = some g then gives s 0 g
        else if g = 0 then gives s 1 g
        else if b.committed < g ∨ ∃ y ∈ u.membersOf b, y.versionAt g = none then gives s 1 g
        else if b.pin.isSome then gives s 2 g
        else match u.spillFor b g with
          | none => gives s 3 g
          | some r => gives (r.putBundle { b with pin := some g, pinOwner := x.function }) 0 g) ∧
    (v.toNat < 2 ^ 32 →
      (s.bundle? x.partition m = none → gives s 0 0) ∧
      ∀ b, s.bundle? x.partition m = some b →
        let y : Bundle := { b with pin := none }
        gives (((s.putBundle y).dropSpilled y).putBundle y) 0 (b.pin.getD 0))

/-! ### Matrix arrays -/

/-- BVIEW, BREL, BSTAT and BPIN. -/
def Obligations.ViewsAndPins : Prop := Rules.Views ∧ Rules.Pins

/-- R229, R228: a member that issues a gang instruction arrives at its crew's latch and waits at its PC; where a weave that its GANG names
has ended, the members that its GANG names fault at once, and a crew without an array faults ILLEGAL. -/
def Rules.GangArrivals : Prop := ∀ (e : BitVec 1) (b a d : RegField) (s : State) (w : Weave) (c : Crew) (k : Nat),
  s.crew? w.crew = some c → s.cur.strand = .c k →
  let t := s.issued
  let st := s.cur.strand
  let pair := (w.scal st b.toNat, w.scal st (b.toNat + 1))
  ∀ i v o f n, (i, v, o, f, n) ∈ [(Instr.mgang, LaneReg.zero, (0 : DWord), ((0 : DWord), (0 : DWord)), 0), (.mswap, LaneReg.zero, 0, (0, 0), 0),
    (.mzero, LaneReg.zero, 0, (0, 0), 0), (.mmac e b a d, w.lane a.toNat, w.scal st d.toNat, pair, 8)] → s.Ready i w →
  let latch := c.latch ++ [⟨w.id, k, s.cur.pc, w.act st, i, w.gang, o, f, v, w.mprom, w.chktol, w.chkinj, false, s.time⟩]
  let u := ((t.onMe fun _ => w).startWait .gang).setLatch c.id latch
  let gone := fun (g : GangReg) => ∃ j, j < 16 ∧ g.members.getLsbD j = true ∧ u.member c.id j = none
  (t.arrayOf w = none → exec i s = .next (s.vector s.cur.weave st { s.info w .illegal accGang with engine := n })) ∧
  (t.arrayOf w ≠ none → (∀ x ∈ c.latch, ¬gone x.gang) →
    (¬gone w.gang → exec i s = .next u) ∧
    (gone w.gang → exec i s = .next (u.latchFault c.id (latch.filter fun y => w.gang.members.getLsbD (u.indexOf y)) .gangMismatch 0)))

/-- R229, R230, R235, R241: with every weave there that an arrival's GANG names, and room in the queue, the latch closes for them:
disagreement and the MMAC's checks fault every member; otherwise one operation enters the queue and the members go on, an MMAC clearing the
injections that its members issued with unless CHKINJ has been written since, a MGANG releasing and acquiring at core scope. A wait for a
missing member that lasts too long faults every waiting member of the gang. That the latch closes for the first arrival whose own GANG is
complete, and for the arrivals of the weaves that it names alone, is the model's reading (log 52). -/
def Rules.GangClosing : Prop := ∀ (s : State) (c : Crew) (n : Nat) (m : MatArray) (pre post : List Arrival) (x lead : Arrival)
    (rest : List Arrival),
  s.crew? c.id = some c → c.array = some n → s.array? c.core n = some m → c.latch = pre ++ x :: post →
  let full := fun (y : Arrival) => ∀ k, k < 16 → y.gang.members.getLsbD k = true → ∃ z ∈ c.latch, s.indexOf z = k
  let named := fun (y : Arrival) => c.latch.filter fun z => y.gang.members.getLsbD (s.indexOf z)
  let late := fun (y : Arrival) => ¬full y ∧ ∃ w, s.weave? y.weave = some w ∧ w.pwatch ≠ 0 ∧ y.since + 64 * w.pwatch.toNat < s.time
  ((∀ y ∈ pre, ¬full y) → full x → s.inOrder (named x) = lead :: rest → m.queue.length < 8 →
    let ms := lead :: rest
    let faults := fun (cause : Cause) (at' : Nat) => exec (.gangLatchClose c.id) s = .next (s.latchFault c.id ms cause at')
    let agree := ∀ y ∈ ms, y.gang = lead.gang ∧ s.ownsAll y = true ∧ gangCode y.instr = gangCode lead.instr
    let released := fun (u : State) => (ms.foldl (fun (v : State) y => v.onWeave y.weave fun w =>
      { w.setEntry y.entry { w.entry y.entry with kind := .ready, wait := none, addr := y.pc + 4 } with
        cIssued := w.cIssued + 1, cWaited := w.cWaited + (((w.entry y.entry).wait.map fun r => s.time - r.counted).getD 0)
        chkinj := if gangCode y.instr = 3 ∧ y.chkinj.arm = true ∧ y.renewed = false then { w.chkinj with arm := false } else w.chkinj }) u).setLatch c.id
          (c.latch.filter fun y => !ms.contains y)
    let queued := fun (op : ArrayOp) => released (s.setArray { m with queue := m.queue ++ [op] })
    (¬agree → faults .gangMismatch 0) ∧
    (agree →
      (lead.instr = .mgang → exec (.gangLatchClose c.id) s = .next (((queued .mgang).release c.core .co).acquire c.core .co)) ∧
      (lead.instr = .mswap → exec (.gangLatchClose c.id) s = .next (queued .mswap)) ∧
      (lead.instr = .mzero → exec (.gangLatchClose c.id) s = .next (queued .mzero)) ∧
      ∀ e b a d, lead.instr = .mmac e b a d →
        ((∃ y ∈ ms, y.format ≠ lead.format ∨ y.operation ≠ lead.operation ∨ ∃ e' b' a' d', y.instr = .mmac e' b' a' d' ∧ e' ≠ e) →
          faults .gangMismatch 0) ∧
        ((∀ y ∈ ms, y.format = lead.format ∧ y.operation = lead.operation ∧ ∃ b' a' d', y.instr = .mmac e b' a' d') →
          (∀ cause at', s.mmacFault m lead ms.length = some (cause, at') → faults cause at') ∧
          (s.mmacFault m lead ms.length = none → exec (.gangLatchClose c.id) s = .next (queued (s.closingOp lead ms)))))) ∧
  ((∀ y ∈ pre, ¬late y) → late x → exec (.gangLatchTimeout c.id) s = .next (s.latchFault c.id (named x) .gangMismatch 0)) ∧
  ((∀ y ∈ c.latch, ¬late y) → exec (.gangLatchTimeout c.id) s = .next s)

/-- Members of a gang: arrivals, the latch that closes, and its timeout. -/
def Obligations.Gangs : Prop := Rules.GangArrivals ∧ Rules.GangClosing

/-- R230, R236, R237: the array performs its queue from the front: MSWAP exchanges the planes, MZERO clears the result planes
and counters, MGANG changes nothing, MREAD takes its row, MLOAD decodes its tile into the shadow plane; the oldest completed
operation arrives at its object. -/
def Rules.ArrayQueue : Prop := ∀ (s : State) (core n : Nat) (m : MatArray), s.array? core n = some m →
  let runs := exec (.arrayQueuePerform core n) s
  (m.queue = [] → runs = .next s) ∧
  (∀ r, m.queue = .mswap :: r → runs = .next (s.setArray { m with active := !m.active, queue := r })) ∧
  (∀ r, m.queue = .mgang :: r → runs = .next (s.setArray { m with queue := r })) ∧
  (∀ r, m.queue = .mzero :: r →
    let zeroed : MatArray := { m with
      acc := .replicate 96 LaneReg.zero, fp := .replicate 96 LaneReg.zero, counters := .replicate 96 0, queue := r }
    ∃ p, runs = .next { (s.setArray zeroed) with poison := p } ∧ ∀ x ∈ p, x ∈ s.poison) ∧
  (∀ f row plane r, m.queue = .mread f row plane :: r → s.poison = [] →
    let y := if plane = 2 then m.promote row else m
    let taken := fun (x : Flight) => match decide (x.id = f), x.dest with
      | true, .array d act => { x with
          dest := .lanes d act ((if plane = 1 then y.acc else y.fp)[row]?.getD LaneReg.zero), bad := 0, certain := true }
      | _, _ => x
    runs = .next { (s.setArray { y with queue := r } : State) with flights := s.flights.map taken }) ∧
  (∀ w locator base tile scales format bl mode r, m.queue = .mload w locator base tile scales format bl mode :: r →
    s.poison = [] →
    let bytes := (List.range (tileBytes format)).map fun i => s.sramByte core (base + swizzled mode (tile + i))
    let extra := (List.range (weightScales format bl)).map fun i => s.sramByte core (base + scales + i)
    let p := decodePlane format bl bytes extra
    let status := (if p.nanSum then 2 ^ 25 else 0) + 2 ^ 32 * 9 + 2 ^ 36 * (tileBytes format + weightScales format bl)
    runs = .next (s.setArray { m with
      plane0 := if m.active then p else m.plane0, plane1 := if m.active then m.plane1 else p, queue := r
      done := m.done ++ [⟨w, locator, status⟩] })) ∧
  (∀ w locator row0 far format rows scales bad mprom tol inject r,
    m.queue = .mmac w locator row0 far format rows scales bad mprom tol inject :: r → ∃ u y, runs = .next u ∧
      y = s.mmacRows m (mmacOf m format far scales inject tol) row0 mprom rows bad ∧
      u.array? core n = some { y.1 with queue := r, done := m.done ++ [⟨w, locator, Nat.min y.2.1 0xFFFF + 2 ^ 16 * y.2.2.1 +
        y.2.2.2 + 2 ^ 32 * 8 + 2 ^ 36 * (rows.length * formatRows (format % 16))⟩] }) ∧
  (m.done = [] → exec (.matrixArrival core n) s = .next s) ∧
  ∀ x r, m.done = x :: r →
    exec (.matrixArrival core n) s = .next ((s.setArray { m with done := r }).engineArrive core x.locator x.status .co)

/-- R231, R232, R234, R230: a row of an integer MMAC without saturation adds to every column, modulo 2^32, the sum over all
K of activation times weight, whichever end the chain starts from, and its check never mismatches on a plane that MLOAD
decoded. -/
def Obligations.IntegerMatrixRows : Prop := ∀ (a : MatArray) (m : Mmac) (tile scales : List Byte) (r n : Nat) (x : Nat → Int),
  m.aFormat < 2 → m.plane = decodePlane m.aFormat 0 tile scales → m.inject = [] → m.sat = false → m.target ≠ 1 →
  (m.transpose = true → m.aFormat = 0) → r < 96 → n < 96 →
  let y := a.intRow m r x fun _ => false
  laneAt (y.array.accRow r) n = BitVec.ofInt 32 ((laneAt (a.accRow r) n).toInt +
    ((List.range (96 * m.q)).map fun k => x k * m.intW k n).sum) ∧
  y.mismatch = false ∧ y.flags = 0 ∧ { y.array with acc := a.acc } = a ∧ ∀ j, j ≠ r → y.array.accRow j = a.accRow j

/-- R230, R237, R238, R264, R342: MLOAD and MREAD enter the array's queue when their checks pass, in order, and wait for
room; MSAVE writes the array's image and MRSTR reads it back, when the queue is empty and the planes' tags name formats. The ILLEGAL of a
tag above 8 (log 46), the places of the tags (log 18) and that OBJ_BOUND is judged before ALIGN (log 37) are the model's reading. -/
def Rules.ArrayAccess : Prop := ∀ (k p : BitVec 2) (b a d : RegField) (s : State) (w : Weave) (m : MatArray),
  let st := s.cur.strand
  let t := s.issued
  let g := t.agentOf w st
  let faults := fun (i : Instr) (c : Cause) (access engine at' : Nat) => exec i s = .next (s.vector s.cur.weave st
    { s.info w c access with engine, place := BitVec.ofNat 128 at' })
  t.arrayOf w = some m →
  (s.Ready (.mload k b a d) w →
    let f0 := (w.scal st b.toNat).toNat
    let format := f0 / 2 ^ 4 % 2 ^ 4
    let bl := f0 / 2 ^ 10 % 2 ^ 2
    let scales := (w.scal st (b.toNat + 1)).toNat / 2 ^ 32 % 2 ^ 20
    let tile := (w.scal st a.toNat).toNat % 2 ^ 20
    let object := (w.scal st d.toNat).toNat % 2 ^ 20
    let i : Instr := .mload k b a d
    if 8 < format ∨ blockOk format bl = false then faults i .illegal accEngine 9 0
    else if g.reserved object 32 = false then faults i .objBound accEngine 9 object
    else if object % 32 ≠ 0 then faults i .align accEngine 9 object
    else if tile % 16 ≠ 0 then faults i .align accEngine 9 tile
    else if g.reserved tile (tileBytes format) = false then faults i .objBound accEngine 9 tile
    else if weightScales format bl ≠ 0 ∧ g.reserved scales (weightScales format bl) = false then faults i .objBound accEngine 9 scales
    else if 8 ≤ m.queue.length ∨ t.threadRoom g.part g.core (t.engineLimit w) = false then exec i s = .next s
    else exec i s = .next ((t.release w.id.core .co).enqueue m
      (.mload w.id (g.spad object) (if g.sup then 0 else g.spadAt) tile scales format bl k.toNat))) ∧
  (s.Ready (.mread p a d) w →
    let row := (w.scal st a.toNat).toNat % 2 ^ 7
    (95 < row → faults (.mread p a d) .illegal accOther 0 0) ∧
    (row ≤ 95 → 8 ≤ m.queue.length → exec (.mread p a d) s = .next s) ∧
    (row ≤ 95 → m.queue.length < 8 → ∃ info, exec (.mread p a d) s =
      .next ((t.fly info (.array d.toNat (w.act st)) [] 0 false).enqueue m (.mread s.nextId row p.toNat)))) ∧
  let at' := (w.scal st a.toNat).toNat
  let inside := g.reserved at' 118656
  (∀ i, i = .msave a ∨ i = .mrstr a → s.Ready i w →
    (inside = false → faults i .objBound accOther 0 at') ∧ (inside = true → at' % 128 ≠ 0 → faults i .align accOther 0 at') ∧
    (inside = true → at' % 128 = 0 → m.queue ≠ [] → exec i s = .next s)) ∧
  (inside = true → at' % 128 = 0 → m.queue = [] →
    (s.Ready (.msave a) w → exec (.msave a) s = .next (t.sramStore w.id.core (g.spad at') m.image)) ∧
    (s.Ready (.mrstr a) w → ∀ x : MatArray, t.sramBytes w.id.core (g.spad at') 118656 = x.image →
      (∀ r, r < 96 → x.counter r < 256 ∧ (x.counter r ≠ 0 → ∀ l, l < 96 → (laneAt (x.accRow r) l).toNat % 64 = 0)) →
      (∀ q, q = x.plane0 ∨ q = x.plane1 → q.format ≤ 8 ∧ q.blockLen < 4 ∧ q.q = formatQ q.format ∧
        q.tile.length = tileBytes q.format ∧ q.scales.length = weightScales q.format q.blockLen ∧
        q.tile.length + q.scales.length ≤ 18432 ∧ q.rs.length = 96 * q.q ∧ q.ra.length = 96 * q.q ∧
        q.cs.length = (if q.q = 1 then 96 else 0) ∧ q.ca.length = (if q.q = 1 then 96 else 0)) →
      exec (.mrstr a) s = .next (t.setArray { x with core := m.core, index := m.index, queue := [], done := m.done })) ∧
    (s.Ready (.mrstr a) w → 8 < (t.sramByte w.id.core (g.spad at' + 96128)).toNat ∨ 8 < (t.sramByte w.id.core (g.spad at' + 118528)).toNat →
      exec (.mrstr a) s = .next (s.vector s.cur.weave st (s.info w .illegal accOther))))

/-! ### Layouts and regions -/

/-- The matrix arrays: their queue, their arrivals, and MLOAD, MREAD, MSAVE and MRSTR. -/
def Obligations.Arrays : Prop := Rules.ArrayQueue ∧ Rules.ArrayAccess

/-- R117, R119: the shapes of the tiles, the slot of an element under each kind of layout, and that each eligible layout
gives every element of a region a slot of its own. -/
def Rules.LayoutSlots : Prop := ∀ l h c i : Nat,
  (∀ k x, [(4, 4), (8, 8), (16, 16), (32, 32), (4, 32), (32, 4), (8, 16), (16, 8)][k]? = some x → tileShape k = x) ∧
  (layoutDefined l = true ↔ l = 0 ∨ l = 1 ∨ ∃ shape order, shape < 8 ∧ order < 2 ∧ l = 2 + 4 * shape + 32 * order) ∧
  slot 0 h c i = i ∧ slot 1 h c i = i % c * h + i / c ∧
  (∀ shape order, shape < 8 → order < 2 → l = 2 + 4 * shape + 32 * order →
    let th := (tileShape shape).1
    let tw := (tileShape shape).2
    let row := i / c
    let col := i % c
    let tile := if order = 0 then row / th * (c / tw) + col / tw else col / tw * (h / th) + row / th
    slot l h c i = tile * (th * tw) + row % th * tw + col % tw) ∧
  (layoutDefined l = true → (2 ≤ l → h % (tileShape (l / 4 % 8)).1 = 0 ∧ c % (tileShape (l / 4 % 8)).2 = 0) → i < h * c →
    slot l h c i < h * c ∧ unslot l h c (slot l h c i) = i)

/-- R132 to R135: the checks of the layout members, what LAYQ reports of a region, and the result and the effect of LAYPIN
and LAYADV on a region in each state; each result returns as a load's data do. Which row decides where two of R135's meet, what an unpin
takes back, and that LAYADV keeps a waiting LAYPIN as a pending pin, are the model's reading (log 39). -/
def Rules.LayoutMembers : Prop := ∀ (b a d : RegField) (s : State) (w : Weave),
  let st := s.cur.strand
  let t := s.issued
  let h := (w.scal st a.toNat).toNat
  let o := (w.scal st b.toNat).toNat
  let v := (w.scal st d.toNat).toNat
  let put := fun (u : State) (x : Nat) => Host.Outcome.next (φ := Fault) (ρ := Refusal)
    (u.fly (s.info w .illegal accOther) (.scal d.toNat (BitVec.ofNat 64 x)) [] 0 true)
  let reaches := fun (i : Instr) => s.Ready i w ∧ (i = .layq b a d ∨ (i = .laypin b a d ∧ v < 2 ^ 9 ∧ layoutDefined (v % 256) = true) ∨
    (i = .layadv b a d ∧ v < 2 ^ 8 ∧ layoutDefined v = true))
  (∀ i, (i = .laypin b a d ∧ (2 ^ 9 ≤ v ∨ layoutDefined (v % 256) = false)) ∨
      (i = .layadv b a d ∧ (2 ^ 8 ≤ v ∨ layoutDefined v = false)) → s.Ready i w →
    exec i s = .next (s.vector s.cur.weave st (s.info w .illegal accLayout))) ∧
  (∀ i c, reaches i → t.regionFault w h o = some c → exec i s = .next (s.vector s.cur.weave st
    { s.info w c accLayout with object := BitVec.ofNat 32 h, place := BitVec.ofNat 128 (o % 2 ^ 48)
                                generation := t.recordGeneration w.partition h (t.seeDesc w.id.core w.partition h) o })) ∧
  ∀ x, t.regionFault w h o = none → t.objDesc w.partition h = some x →
    (x.kind ≠ 2 → (reaches (.layq b a d) → exec (.layq b a d) s = put t 0x8000) ∧
      (reaches (.laypin b a d) → exec (.laypin b a d) s = put t (if 2 ^ 8 ≤ v then 2 else 3)) ∧
      (reaches (.layadv b a d) → exec (.layadv b a d) s = put t 2)) ∧
    (x.kind = 2 →
      let k := o / (262144 * 2 / x.nibs)
      let r := t.regionOf ⟨w.partition, h, k⟩ x
      let pending := r.pinPending.isSome = true ∨ ∃ n, r.request = some (n, true)
      let code := v % 256
      let mine := (r.request.map (·.2)).getD false
      let settled : Region := { r with contest := none, target := r.layout }
      let fixed : Region := { settled with streak := none, rivals := [], state := .pinned, request := none, pinPending := none }
      let back : Region := { r with
        streak := none, rivals := [], pinPending := none, request := if mine then none else r.request
        target := if mine then r.contest.getD r.layout else r.target }
      (reaches (.layq b a d) → r.layout < 256 → r.target < 256 → ∃ y : DWord, exec (.layq b a d) s = put t y.toNat ∧
        y.extractLsb' 0 8 = BitVec.ofNat 8 r.layout ∧
        y.extractLsb' 8 2 = BitVec.ofNat 2 (match r.state with
          | .stable => 0
          | .retiling => 1
          | .pinned => 2
          | .contested => 3) ∧
        (y.getLsbD 10 = true ↔ pending) ∧ y.extractLsb' 11 3 = 0 ∧ (y.getLsbD 14 = true ↔ t.movable x k = false) ∧
        y.getLsbD 15 = false ∧ y.extractLsb' 16 16 = r.generation.setWidth 16 ∧
        y.extractLsb' 32 16 = BitVec.ofNat 16 (min 0xFFFF ((r.lastChange.map fun n => t.window - n).getD 0xFFFF)) ∧
        (r.state ≠ .retiling → y.extractLsb' 48 16 = 0) ∧
        (r.state = .retiling → y.extractLsb' 48 8 =
            BitVec.ofNat 8 ((List.range 64).filter fun j => r.done.getLsbD j).length ∧
          y.extractLsb' 56 8 = BitVec.ofNat 8 r.target)) ∧
      (reaches (.laypin b a d) →
        (v < 2 ^ 8 →
          (r.state = .pinned → exec (.laypin b a d) s = put (t.setRegion { back with state := .stable }) 3) ∧
          (r.state ≠ .pinned → pending → exec (.laypin b a d) s = put (t.setRegion back) 3) ∧
          (r.state ≠ .pinned → ¬pending → exec (.laypin b a d) s = put (t.setRegion r) 3)) ∧
        (2 ^ 8 ≤ v →
          (r.state = .retiling → exec (.laypin b a d) s = put (t.setRegion { r with pinPending := some code }) 1) ∧
          (r.state ≠ .retiling →
            (code = r.layout → exec (.laypin b a d) s = put (t.setRegion fixed) 0) ∧
            (code ≠ r.layout → x.eligible k code = true → t.movable x k = true → exec (.laypin b a d) s =
              put (t.setRegion { r with target := code, request := some (code, true), pinPending := none }) 1) ∧
            (code ≠ r.layout → x.eligible k code = false ∨ t.movable x k = false →
              exec (.laypin b a d) s = put (t.setRegion fixed) 2)))) ∧
      (reaches (.layadv b a d) →
        (r.state = .pinned ∨ r.state = .retiling ∨ t.movable x k = false →
          exec (.layadv b a d) s = put (t.setRegion r) 2) ∧
        (r.state = .stable ∨ r.state = .contested → t.movable x k = true →
          (code = r.layout → exec (.layadv b a d) s = put (t.setRegion { settled with state := .stable }) 0) ∧
          (code ≠ r.layout → x.eligible k code = true →
            exec (.layadv b a d) s = put (t.setRegion { settled with
              state := .stable, request := some (code, false)
              pinPending := (r.request.bind fun x => if x.2 then some x.1 else none).or r.pinPending }) 1) ∧
          (code ≠ r.layout → x.eligible k code = false → exec (.layadv b a d) s = put (t.setRegion r) 2))))

/-! ### Supervisor members -/

/-- The slots of a layout, and LAYQ, LAYPIN and LAYADV. -/
def Obligations.Layouts : Prop := Rules.LayoutSlots ∧ Rules.LayoutMembers

/-- R345, R347, R349, R348: what OBJMAP, OBJUNMAP and OBJQ answer, in the order in which their conditions decide, and what
mapping and unmapping a frame do; an unmap waits for accesses that use the old translation; requests out of form fault ILLEGAL. (Addresses
of extent entries count modulo stacked memory's 2^40: log 63.) -/
def Rules.ObjectMapping : Prop := ∀ (b a d : RegField) (s : State) (w : Weave),
  let t := s.issued
  let x := (w.scal s.cur.strand a.toNat).toNat
  let q := (w.scal s.cur.strand b.toNat).toNat
  let part := w.partition
  let put := fun (u : State) (v : Nat) => Host.Outcome.next
    (u.fly (s.info w .illegal accOther) (.scal d.toNat (BitVec.ofNat 64 v)) [] 0 true)
  let illegal := fun (i : Instr) => exec i s = .next (s.vector s.cur.weave s.cur.strand (s.info w .illegal accOther))
  let f := q % 2 ^ 32
  let at8 := fun (o : ObjDesc) => (o.list + 8 * f) % 2 ^ 40
  let entry := fun (u : State) (o : ObjDesc) => u.gather (lineOf (at8 o))
  let forget := fun (u : State) => u.otbInvalidate fun e => e.part = part && e.object = x && e.frame = f
  (s.Ready (.objmap b a d) w →
    (2 ^ 32 ≤ x ∨ 2 ^ 34 ≤ q ∨ q / 2 ^ 32 = 3 → illegal (.objmap b a d)) ∧
    (x < 2 ^ 32 → q < 3 * 2 ^ 32 →
      (t.objDesc part x = none → exec (.objmap b a d) s = put t (3 * 2 ^ 32)) ∧
      ∀ o, t.objDesc part x = some o →
        let y := entry t o
        let far := if q < 2 ^ 32 then decide (f * o.farShare / 64 < (f + 1) * o.farShare / 64) else q / 2 ^ 32 == 2
        (o.frames ≤ f ∨ extWithdrawn (y.extWord o f) = true → exec (.objmap b a d) s = put t (3 * 2 ^ 32)) ∧
        (f < o.frames → extWithdrawn (y.extWord o f) = false →
          (extPresent (y.extWord o f) = true →
            exec (.objmap b a d) s = put y (2 ^ 32 + extFrame (y.extWord o f) % 2 ^ 32)) ∧
          (extPresent (y.extWord o f) = false →
            (y.poolTake part far = none → exec (.objmap b a d) s = put y (2 * 2 ^ 32)) ∧
            ∀ u n, y.poolTake part far = some (u, n) →
              let cleared := ((List.range 512).foldl (fun (z : State) k => z.reclaim (lineOf (frameAddr far n 0) + k)) u).memZero
                (frameAddr far n 0) 65536
              exec (.objmap b a d) s = put (forget ((cleared.reclaim (lineOf (at8 o))).memWrite (at8 o) 8
                (n % 2 ^ 32 * 2 ^ 16 + (if far then 2 else 0) + 1))) (n % 2 ^ 32))))) ∧
  (s.Ready (.objunmap b a d) w →
    let awaited : Prop := ∃ p ∈ s.pending, p.weave.partition = part ∧ p.req.object = x ∧ (p.req.space = .obj ∨ p.req.space = .far)
    (2 ^ 32 ≤ x ∨ 2 ^ 32 ≤ q → illegal (.objunmap b a d)) ∧
    (x < 2 ^ 32 → q < 2 ^ 32 → awaited → exec (.objunmap b a d) s = .next s) ∧
    (x < 2 ^ 32 → q < 2 ^ 32 → ¬awaited →
      (t.objDesc part x = none → exec (.objunmap b a d) s = put t (3 * 2 ^ 32)) ∧
      ∀ o, t.objDesc part x = some o →
        let y := entry (t.poolSync part) o
        let e := y.extWord o f
        let id : RegionId := ⟨part, x, f / 4⟩
        (o.frames ≤ f → exec (.objunmap b a d) s = put t (3 * 2 ^ 32)) ∧
        (f < o.frames → extPresent e = false → exec (.objunmap b a d) s = put y (2 ^ 32)) ∧
        (f < o.frames → extPresent e = true →
          let full := y.poolSearch part (fun z => !extPresent z) (y.poolSize part) 0 = none
          (full → exec (.objunmap b a d) s = put y (2 * 2 ^ 32 + extFrame e % 2 ^ 32)) ∧
          (¬full →
            let stopped := if o.kind = 2 then y.abandonRetile (y.regionOf id o) o else y
            let dropped := ((stopped.unmapBundles part x f).failTouching part x f).dropFrame (frameAddr (extFar e) (extFrame e) 0)
            let absent := (dropped.reclaim (lineOf (at8 o))).memWrite (at8 o) 8 (e.toNat - 1)
            let counted := if o.kind = 2 then absent.touchRegion id o else absent.nextGeneration
            exec (.objunmap b a d) s =
              put ((forget counted).poolReturn part (extFrame e) (extFar e)) (extFrame e % 2 ^ 32))))) ∧
  (s.Ready (.objq b a d) w →
    let select := q / 2 ^ 62
    (select = 3 ∨ q / 2 ^ 32 % 2 ^ 30 ≠ 0 ∨ (select ≠ 2 ∧ 2 ^ 32 ≤ x) ∨ (select = 1 ∧ 8 ≤ f) → illegal (.objq b a d)) ∧
    (q / 2 ^ 32 % 2 ^ 30 = 0 → select = 2 ∨ x < 2 ^ 32 →
      (select = 0 → exec (.objq b a d) s = put t (match t.objDesc part x with
        | some o => if f < o.frames then (t.extWord o f).toNat else 0
        | none => 0)) ∧
      (select = 1 → f < 8 → exec (.objq b a d) s = put t (match t.objDesc part x, t.objWords part x with
        | some _, some l => (l.getD f 0).toNat
        | _, _ => 0)) ∧
      (select = 2 → exec (.objq b a d) s =
        put t ((2 ^ 32 * t.poolFree part true + t.poolFree part false) % 2 ^ 64))))

/-- R340, R331, R350, R352: MAPGEN, INVAL, PERF and PREEMPT: their checks, what they read, and what they leave. That PERF counts itself in
counters 2 and 3, that counter 8 counts waits that still run (log 24), and that a counter stops at 2^64 - 1 (log 50), is the model's
reading. -/
def Rules.ModuleControl : Prop := ∀ (b a d : RegField) (s : State) (w : Weave),
  let st := s.cur.strand
  let t := s.issued
  let x := (w.scal st a.toNat).toNat
  let y := (w.scal st b.toNat).toNat
  let put := fun (u : State) (v : Nat) => Host.Outcome.next (u.onMe fun z => z.setScal st d.toNat (BitVec.ofNat 64 v))
  let stops := fun (i : Instr) (c : Cause) => exec i s = .next (s.vector s.cur.weave st (s.info w c accOther))
  (s.Ready (.mapgen b a d) w →
    (a = 0 → exec (.mapgen b a d) s = put t t.mapGen.toNat) ∧
    let names := fun (c : Cause) => { s.info w c accOther with
      object := BitVec.ofNat 32 x, place := BitVec.ofNat 128 (y % 2 ^ 48)
      generation := t.recordGeneration w.partition x (t.seeDesc w.id.core w.partition x) y }
    (a ≠ 0 → ∀ c, t.stepsOneToThree w x y = some c → exec (.mapgen b a d) s = .next (s.vector s.cur.weave st (names c))) ∧
    (a ≠ 0 → ∀ o, t.stepsOneToThree w x y = none → t.seeDesc w.id.core w.partition x = some o →
      let r := t.regionOf ⟨w.partition, x, y / o.regionElems⟩ o
      (o.kind ≠ 2 → exec (.mapgen b a d) s = .next (s.vector s.cur.weave st (names .illegal))) ∧
      (o.kind = 2 → r.state = .retiling → exec (.mapgen b a d) s = .next s) ∧
      (o.kind = 2 → r.state ≠ .retiling →
        let u := t.touchRegion ⟨w.partition, x, y / o.regionElems⟩ o
        exec (.mapgen b a d) s = put u u.mapGen.toNat))) ∧
  (s.Ready (.inval b a) w →
    (2 ^ 32 ≤ x → stops (.inval b a) .illegal) ∧
    (x < 2 ^ 32 → ∃ l, exec (.inval b a) s = .next { t with otb := l } ∧ ∀ e, e ∈ l ↔ e ∈ t.otb ∧
      ¬(e.part = w.partition ∧ (x = 0 ∨ e.object = x) ∧
        (y / 2 ^ 32 = 0 ∨ (y % 2 ^ 32 ≤ e.frame ∧ e.frame < y % 2 ^ 32 + y / 2 ^ 32))))) ∧
  (s.Ready (.perf a d) w →
    let k := t.coreStates.toList.getD w.id.core CoreState.reset
    let core := fun (f : CoreState → CoreState) => t.onCore w.id.core f
    let weave := fun (f : Weave → Weave) => t.onWeave w.id f
    let table : List (Nat × Nat × State) := [
      (0, k.specMiss, core fun c => { c with specMiss := 0 }),
      (1, t.dieCorrected.toList.getD (w.id.core / 96) 0,
        { t with dieCorrected := t.dieCorrected.setIfInBounds (w.id.core / 96) 0 }),
      (2, if st = .a then w.aIssued + 1 else w.aIssued, weave fun v => { v with aIssued := 0 }),
      (3, if st = .a then w.cIssued else w.cIssued + 1, weave fun v => { v with cIssued := 0 }),
      (4, k.l1Miss, core fun c => { c with l1Miss := 0 }), (5, k.retryCount, core fun c => { c with retryCount := 0 }),
      (6, k.remapCount, core fun c => { c with remapCount := 0 }), (7, t.changesDone, { t with changesDone := 0 }),
      (8, w.cWaited + (w.split.toList.map fun y => (y.wait.map fun r => s.time - r.counted).getD 0).sum, weave fun v => { v with
        cWaited := 0, split := v.split.map fun y => { y with wait := y.wait.map fun r => { r with counted := s.time } } })]
    (8 < x % 2 ^ 8 ∨ x / 2 ^ 8 % 2 ^ 55 ≠ 0 → stops (.perf a d) .illegal) ∧
    (x / 2 ^ 8 % 2 ^ 55 = 0 → ∀ n v u, (n, v, u) ∈ table → x % 2 ^ 8 = n →
      exec (.perf a d) s = put (if 2 ^ 63 ≤ x then u else t) (min v (2 ^ 64 - 1)))) ∧
  (s.Ready (.preempt a d) w →
    let core := x / 2 ^ 16
    (2 ^ 25 ≤ x ∨ 383 < core → stops (.preempt a d) .illegal) ∧
    (x < 2 ^ 25 → core ≤ 383 → t.hasCore core = false ∨ t.grantedCore w.partition core = false → stops (.preempt a d) .perm) ∧
    (x < 2 ^ 25 → core ≤ 383 → t.hasCore core = true → t.grantedCore w.partition core = true → ∃ m : BitVec 64,
      (∀ k, k < 64 → (m.getLsbD k = true ↔ k < 16 ∧ x.testBit k = true ∧
        ∃ v ∈ t.weaves, v.id = ⟨core, k⟩ ∧ v.partition = w.partition)) ∧
      exec (.preempt a d) s = put (t.requestSlots w.partition core (x % 2 ^ 16)) m.toNat))

/-! ### Saving and restoring a weave -/

/-- OBJMAP, OBJUNMAP, OBJQ, MAPGEN, INVAL, PERF and PREEMPT. -/
def Obligations.ObjectControl : Prop := Rules.ObjectMapping ∧ Rules.ModuleControl

/-- R259, R260, R357, R263: a halting crew halts once no weave of it is in a handler and, which is the model's choice (log 29), no load of
a mask that the halt would record is on its way, and its request bits of PREQ clear; SAVESPL faults out of its place, makes the crew SAVING,
waits for what is outstanding, and writes the weave's area, or ends the crew where the area cannot be written. -/
def Rules.ContextSave : Prop := ∀ (s : State) (w : Weave) (c : Crew),
  (s.crew? c.id = some c →
    let busy := fun (x : Weave) => x.inHandler = true ∨ ∃ e, x.haltEntry = some e ∧ s.maskFlies x.id (.c e) none = true
    (c.state = .halting → (∀ x ∈ s.weaves, x.crew = c.id → ¬busy x) → exec (.crewHalted c.id) s =
      let t := ((s.weaves.filter fun x => x.crew = c.id).foldl (fun (u : State) x => u.haltWeave x.id) s).onCore c.core fun k =>
        { k with preqAsked := k.preqAsked &&& ~~~(s.slotsOf c) }
      .next { t with crews := t.crews.map fun x =>
        if x.id = c.id then { x with state := .halted, requested := false, home := [], endedSaved := 0 } else x }) ∧
    (c.state ≠ .halting ∨ (∃ x ∈ s.weaves, x.crew = c.id ∧ busy x) → exec (.crewHalted c.id) s = .next s)) ∧
  (s.Ready .savespl w → s.crew? w.crew = some c →
    let t := s.issued
    let mine := w.halted = true ∧ w.restored = false ∧ s.cur.strand = if w.cEnded then .a else .c w.cHand
    let u : State := { t with crews := t.crews.map fun x => if x.id = c.id then { x with state := .saving } else x }
    let n := 128 + 640 + (384 + 384 * w.nregs) + 4480 + 4 * (128 + 384 * (w.queue 0).depth) + 3200 * w.ports.length +
      128 + 128 + 640 + if u.leads w then 118656 else 0
    (¬mine → exec .savespl s = .next (s.vector s.cur.weave s.cur.strand (s.info w .illegal accOther))) ∧
    (mine → u.saveWaits w = true → exec .savespl s = .next (u.onMe fun _ => w)) ∧
    (mine → u.saveWaits w = false →
      (u.areaOpen w c n = true → exec .savespl s = .next (u.writeArea w c)) ∧
      (u.areaOpen w c n = false → exec .savespl s = .next (u.endCrew c 0x22 w))))

/-- R262, R264, R357: what the items that SAVESPL writes hold, by their bytes, and that a weave reloaded from them has the
registers, the predicates and the index registers that its program had. -/
def Obligations.ContextImages : Prop := ∀ (s : State) (w v : Weave) (x : Option Crew) (time ticket : Nat)
    (kept : Option SavedWeave) (ports : List (Port × PortFifo)),
  (w.cEnded = true → w.cMode = .user) →
  let u := s.userWeave w
  let b := (s.saveItems w x).flatten
  let number := fun (at' n : Nat) => leNat ((b.drop at').take n)
  let lanes := 768 + 384
  let table := lanes + 384 * w.nregs
  (∀ k, (h : k < 64) → number (128 + 8 * k) 8 = (u.aRegs[k]).toNat) ∧ number 640 4 = u.aPc.toNat ∧
  (∀ k, k < 32 → number (768 + 8 * k) 8 = (u.scal (.c u.cHand) k).toNat) ∧
  (∀ r l, r < w.nregs → l < 96 → number (lanes + 384 * r + 4 * l) 4 = (laneAt (u.lane r) l).toNat) ∧
  (∀ k, k < 8 → number (table + 12 * k) 12 = (u.pred k).toNat) ∧
  (∀ k, k < 4 → number (table + 96 + 2 * k) 1 = (u.xreg k).base.toNat ∧ number (table + 97 + 2 * k) 1 = (u.xreg k).bound.toNat) ∧
  (∀ e, e < 128 → number (table + 384 + 32 * e) 12 = (u.entry e).mask.toNat ∧
    number (table + 384 + 32 * e + 12) 12 = (u.entry e).owned.toNat ∧
    number (table + 384 + 32 * e + 24) 4 = (u.entry e).addr.toNat) ∧
  (v.nregs = w.nregs → (v.queue 0).depth = (w.queue 0).depth → v.ports.length = w.ports.length →
    let y := reloadWeave v b time ticket kept ports
    y.aMode = .user ∧ y.cMode = .user ∧ y.aPc = u.aPc ∧ y.restored = false ∧
    (∀ k, 1 ≤ k → k < 64 → y.scal .a k = u.aRegs[k]?.getD 0) ∧
    (∀ e k, k < 29 → y.scal (.c e) k = u.scal (.c u.cHand) k) ∧
    (∀ r l, r < w.nregs → l < 96 → laneAt (y.lane r) l = laneAt (u.lane r) l) ∧
    (∀ k, k < 8 → y.pred k = u.pred k) ∧ (∀ k, k < 4 → y.xreg k = u.xreg k))

/-- R355, R261: RSTSPL faults out of its place, with an offset that is no area's, in the stream that did not save the area, with a header
of another launch (an error record besides), or with an image that is none; it waits for the crew's threads and for weave 0; and it
reloads the weave from its area. -/
def Rules.ContextRestore : Prop := ∀ (a : RegField) (s : State) (w : Weave) (c : Crew),
  s.Ready (.rstspl a) w → s.crew? w.crew = some c →
  let i : Instr := .rstspl a
  let st := s.cur.strand
  let t := s.issued
  let o := (w.scal st a.toNat).toNat
  let part := w.partition
  let ctx := (t.pcb part).contextObject
  let stream := if st = .a then 0 else 1
  let mine := w.restored = true ∧ t.sramRead w.id.core (w.fltrec.toNat + 64 * stream) 1 = 0xFF ∧
    st = if w.cEnded then .a else .c w.cHand
  let area := o / 3670016 < 384 ∧ o % 3670016 < 3145728 ∧ o % 3670016 % 196608 = 0
  let faults := fun (e : Cause) => exec i s = .next (s.vector s.cur.weave st (s.info w e accOther))
  let u := t.objSync part ctx o 128
  let h := u.objRead part ctx o 0x40
  let own := h.testBit 28 = decide (st = .a)
  let suits := h / 2 ^ 8 % 2 ^ 8 = w.nregs ∧ h / 2 ^ 16 % 2 ^ 5 = ((w.ports.map fun p => 2 ^ portCode p.1).sum) ∧
    h / 2 ^ 21 % 2 ^ 2 = w.qcfg.toNat
  let size := (itemSizes w.nregs (w.queue 0).depth w.ports.length (h.testBit 23)).sum
  let v := u.objSync part ctx o size
  let b := leBytes size (v.objRead part ctx o size)
  let later := h / 2 ^ 24 % 2 ^ 4 ≠ 0 ∧ ∃ x ∈ t.weaves, x.crew = w.crew ∧ x.index = 0 ∧ x.restored = true
  let item6 := 128 + 640 + (384 + 384 * w.nregs) + 4480 + 4 * (128 + 384 * (w.queue 0).depth)
  let item10 := item6 + 3200 * w.ports.length + 128 + 128 + 640
  let tagged := h.testBit 23 = true → (v.arrayOf w).isSome = true →
    (b.getD (item10 + 96128) 0).toNat ≤ 8 ∧ (b.getD (item10 + 118528) 0).toNat ≤ 8
  let images := imagePorts (([.w, .e, .n, .s, .d] : List Port).filter fun p => (w.port? p).isSome) (b.drop item6)
  (¬mine → faults .illegal) ∧ (mine → ¬area → faults .align) ∧
  (mine → area → ∀ x, t.rangeSteps part ctx .read false o 128 = some x → faults x.2) ∧
  (mine → area → t.rangeSteps part ctx .read false o 128 = none → ¬own → faults .illegal) ∧
  (mine → area → t.rangeSteps part ctx .read false o 128 = none → own →
    (¬suits → exec i s = .next ((u.sendError part { code := 0x2A, die := w.id.core / 96, unit := w.id.core, ctx := w.ctxid.toNat
                                                    object := ctx, generation := 0, offset := o }).vector w.id st
      (s.info w .illegal accOther))) ∧
    (suits → (∃ x ∈ t.threads, x.crew = w.crew) → exec i s = .next s) ∧
    (suits → (∀ x ∈ t.threads, x.crew ≠ w.crew) → later → exec i s = .next s) ∧
    (suits → (∀ x ∈ t.threads, x.crew ≠ w.crew) → ¬later →
      (∀ x, t.rangeSteps part ctx .read false o size = some x → faults x.2) ∧
      (t.rangeSteps part ctx .read false o size = none → ¬tagged → faults .illegal) ∧
      (t.rangeSteps part ctx .read false o size = none → tagged → images = none → faults .illegal) ∧
      (t.rangeSteps part ctx .read false o size = none → tagged → ∀ fs, images = some fs →
        (b.getD 644 0).getLsbD 0 = false → (b.getD (768 + 256) 0).getLsbD 0 = false →
        ∃ r y z time ticket, exec i s = .next r ∧ r.weave? w.id = some y ∧
          z = reloadWeave w b time ticket (c.home.find? fun k => k.index = w.index) fs ∧
          y.aRegs = z.aRegs ∧ y.sRegs = z.sRegs ∧ y.vRegs = z.vRegs ∧ y.pRegs = z.pRegs ∧ y.xRegs = z.xRegs ∧ y.aPc = z.aPc ∧
          y.queues = z.queues ∧ y.ports = z.ports ∧ y.aMode = .user ∧ y.cMode = .user)))

/-! ### Prefixes, launches and ends -/

/-- The halt of a crew, SAVESPL and RSTSPL. -/
def Obligations.ContextSwitches : Prop := Rules.ContextSave ∧ Rules.ContextRestore

/-- R99, R105, R9: a prefix whose successor takes one gives it the prefix's attributes, at the prefix's PC and with the length
of the pair; a fetch fault of the successor, undefined codes, and a successor outside the classes fault, in that order. -/
def Rules.Prefixes : Prop := ∀ (v b : BitVec 1) (c k p o : BitVec 3) (s : State) (w : Weave),
  s.weave? s.cur.weave = some w →
  let i : Instr := .prefixWord v b c k p o
  let next := s.fetch w s.cur.strand (s.cur.pc.toNat + 4)
  let defined := o.toNat ≤ 4 ∧ p.toNat ≤ 6 ∧ k.toNat ≤ 3 ∧ c.toNat ≤ 3
  let faults := fun (f : FaultInfo) => exec i s = .next (s.vector s.cur.weave s.cur.strand f)
  (∀ e, next = .error e → faults (s.fetchInfo w e (s.cur.pc.toNat + 4))) ∧
  ∀ x, next = .ok x →
    (¬defined → faults (s.info w .illegal accOther)) ∧
    (defined → x.takesPrefix = false → faults (s.info w .prefixMisuse accOther)) ∧
    (defined → x.takesPrefix = true → ∃ a : Attrs, Order.ofCode o = some a.order ∧ Scope.ofCode p = some a.scope ∧
      Space.ofCode k = some a.space ∧ CachePolicy.ofCode c = some a.cache ∧ a.bundle = (b == 1) ∧ a.view = (v == 1) ∧
      exec i s = .next { s with cur := { s.cur with bytes := 8, attrs := some a } })

/-- R335, R33, R153: LAUNCH's checks in order, its wait for room, and the record appended at the tail of its queue after a release
at package scope, and at span scope for a record with copies; while the release has lines to send and no slot names the partition it stays
as it is. That the queue's owner becomes the launching function is the model's reading (log 11). -/
def Rules.Launching : Prop := ∀ (b a d : RegField) (s : State) (w : Weave), s.Ready (.launch b a d) w →
  let i : Instr := .launch b a d
  let st := s.cur.strand
  let t := s.issued
  let q := (w.scal st d.toNat).toNat
  let o := (w.scal st b.toNat).toNat
  let h := (w.scal st a.toNat).toNat
  let part := w.partition
  let queue := t.launchQueue part q
  let d? := t.seeDesc w.id.core part h
  let faults := fun (c : Cause) => exec i s = .next (s.vector s.cur.weave st
    { s.info w c accOther with
      object := BitVec.ofNat 32 h, place := BitVec.ofNat 128 (o % 2 ^ 48)
      generation := t.recordGeneration part h d? (2 * o / ((d?.map (·.nibs)).getD 2) : Nat) })
  (15 < q → exec i s = .next (s.vector s.cur.weave st (s.info w .illegal accOther))) ∧
  (q ≤ 15 → o % 256 ≠ 0 → faults .align) ∧
  (q ≤ 15 → o % 256 = 0 →
    (t.seeDesc w.id.core part h = none → faults .objBound) ∧
    ∀ x, t.seeDesc w.id.core part h = some x →
      (x.kind ≠ 1 → faults (if x.withdrawn then .extentGone
        else if x.bytes < o + 256 then .objBound else .perm)) ∧
      (x.kind = 1 → ∀ n c, t.checkAt w.id.core part h (some x) .read 256 false o = some (n, c) → faults c) ∧
      (x.kind = 1 → t.checkAt w.id.core part h (some x) .read 256 false o = none →
        (queue.enable = false ∨ queue.device = false → faults .perm) ∧
        (queue.enable = true → queue.device = true →
          (2 ^ queue.size ≤ (queue.tail + 2 ^ 32 - queue.head) % 2 ^ 32 → exec i s = .next (s.startWait (.launchRoom q))) ∧
          ((queue.tail + 2 ^ 32 - queue.head) % 2 ^ 32 < 2 ^ queue.size → t.fenceHeld part w.id.core .sp = true →
            exec i s = .next s) ∧
          ((queue.tail + 2 ^ 32 - queue.head) % 2 ^ 32 < 2 ^ queue.size → t.fenceHeld part w.id.core .sp = false →
            let u := (t.release w.id.core .pk).objSync part h o 256
            let ps := u.objPlaces part h o 256
            ps.any u.placeDown = false → ps.any u.poisoned = false →
            let bytes := u.objRead part h o 256
            let r := parseRecord (leBytes 256 bytes)
            let v := if r.span then (u.objSync part r.pgt 0 0x40).release w.id.core .sp else u
            (r.span = false → exec i s = .next ((u.appendRecord part q bytes).onLaunchQueue part q fun y =>
              { y with owner := w.function })) ∧
            (r.span = true → v.recordSpan part r ≤ 1 → exec i s = .next ((v.appendRecord part q bytes).onLaunchQueue part q
              fun y => { y with owner := w.function }))))))

/-- R16, R22, R62, R247: what the registers of a weave hold when it is dispatched. -/
def Obligations.DispatchRegisters : Prop := ∀ (l : Launch) (c : Crew) (index core slot : Nat) (hndlr : DWord),
  slot < 16 → core < 384 → l.fn < 256 → l.part < 16 →
  let w := newWeave l c index core slot hndlr
  (∀ k, 1 ≤ k → k < 64 → w.scal .a k = BitVec.ofNat 64 (l.record.args.getD (k - 1) 0)) ∧
  (∀ k, k < 29 → w.scal (.c 0) k = 0) ∧ (∀ k, 29 ≤ k → k < 32 → w.scal (.c 0) k = 0xFFFFFFFF) ∧
  (∀ k l, laneAt (w.lane k) l = 0) ∧ w.vRegs.length = l.record.regs ∧
  (∀ k, k < 7 → w.pred k = 0) ∧ w.pred 7 = BitVec.allOnes 96 ∧ (fpMode w.fpctl).round = .rne ∧ w.fpctl = 0 ∧
  (∀ q, q < 4 → (w.queue q).entries = [] ∧ (w.queue q).depth = 4 * 2 ^ l.record.qdepth) ∧
  (∀ p f, w.port? p = some f → p ∈ l.record.ports ∧ ∀ n, n < 96 → f.lanes[n]? = some []) ∧
  w.aMode = .user ∧ w.cMode = .user ∧ w.aPc = 0 ∧ (w.entry 0).addr = 0 ∧ (w.entry 0).owned = BitVec.allOnes 96 ∧
  (∀ e, 1 ≤ e → e < 128 → (w.entry e).kind = .free) ∧ w.breg = 0 ∧ w.pair.valid = false ∧ w.mprom = 64 ∧
  w.fltrec.toNat = 0x80000 + 512 * slot ∧ w.hndlr = hndlr ∧
  w.ctxid.toNat = l.fn + 2 ^ 8 * l.part + 2 ^ 12 * slot + 2 ^ 16 * core ∧
  ∀ n, (h : n < 96) → w.gens[n] = (let x : Word := BitVec.ofNat 32 ((slot * 96 + n + 1) * 0x9E3779B9); if x = 0 then 1 else x)

/-- R270, R335: a tail write moves the tail of an enabled queue that the host feeds, no further than the ring holds; a copy of a
record from another chip is appended, waits, or is dropped with an error record. That a tail write to a queue that accepts no records is
dropped is the model's reading (log 27). -/
def Rules.LaunchQueues : Prop := ∀ (part q : Nat) (tail : BitVec 32) (record : List Byte) (s : State),
  let x := s.launchQueue part q
  let room := (x.tail + 2 ^ 32 - x.head) % 2 ^ 32 < 2 ^ x.size
  let error := fun (u : State) (code : Nat) => u.sendError part
    { code, die := 0, unit := q, ctx := 0, object := x.ring, generation := 0, offset := 0 }
  (x.device = true ∨ x.enable = false → exec (.launchQueueTailWrite part q tail) s = .next s) ∧
  (x.device = false → x.enable = true →
    ((tail.toNat + 2 ^ 32 - x.head) % 2 ^ 32 ≤ 2 ^ x.size → exec (.launchQueueTailWrite part q tail) s =
      .next (s.onLaunchQueue part q fun y => { y with tail := tail.toNat })) ∧
    (2 ^ x.size < (tail.toNat + 2 ^ 32 - x.head) % 2 ^ 32 → exec (.launchQueueTailWrite part q tail) s =
      .next (error (s.onLaunchQueue part q fun y => { y with tail := (y.head + 2 ^ y.size) % 2 ^ 32 }) 0x28))) ∧
  (x.device = false ∨ x.enable = false → exec (.launchCopyArrival part q record) s = .next (error s 0x29)) ∧
  (x.device = true → x.enable = true →
    (¬room → exec (.launchCopyArrival part q record) s = .next s) ∧
    (room → exec (.launchCopyArrival part q record) s = .next
      ((s.objWrite part x.ring (256 * (x.tail % 2 ^ x.size)) 256 (leNat (record.take 256))).onLaunchQueue part q
        fun y => { y with tail := (y.tail + 1) % 2 ^ 32 })))

/-- LAUNCH, tail writes and copied records. -/
def Obligations.Launching : Prop := Rules.Launching ∧ Rules.LaunchQueues

/-- R35, R142, R262, R259, R320, R31, R223: the dispatcher does nothing before stage 2; then the splits that wait for an empty core
take effect, saved crews are restored first, else the queues are judged and the next crew is placed, and a crew seated in a slot that PREQ
asks for is requested; a weave ends once nothing of it is outstanding; an abort stops a launch that has not finished. -/
def Obligations.DispatchAndEnds : Prop := ∀ (part : Nat) (s : State) (w : Weave) (l : Launch),
  (s.stage.getD 0 < 2 → exec (.crewDispatch part) s = .next s) ∧
  (2 ≤ s.stage.getD 0 →
    let v := s.changeSplits part
    let seats := fun (t : State) => exec (.crewDispatch part) s = .next (t.requestSeated part)
    (∀ c, v.savedCrews part = some c → seats ((v.placeSaved c).getD v)) ∧
    (v.savedCrews part = none →
      let t := (List.range 16).foldl (fun (u : State) q => u.judge part q) v
      (t.nextQueue part = none → seats t) ∧
      ∀ q, t.nextQueue part = some q →
        (∀ u, t.placeCandidate (t.front part q) = some u → seats (u.onPcb part fun p =>
          { p with lastQueues := p.lastQueues.setIfInBounds (v.launchQueue part q).priority q, held := none })) ∧
        (t.placeCandidate (t.front part q) = none → seats (t.onPcb part fun p => { p with held := (t.front part q).head?.map (·.id) })))) ∧
  (s.weave? w.id = some w →
    let done := w.aEnded = true ∧ (∀ e, e < 128 → (w.entry e).isFragment = false) ∧
      (∀ f ∈ s.flights, f.weave ≠ w.id) ∧ (∀ p ∈ s.pending, p.issuer.weave ≠ w.id) ∧
      (∀ t ∈ s.threads, ¬(t.weave = w.id ∧ t.crew = w.crew)) ∧ ∀ a ∈ s.arrays, a.busyFor w.id = false
    (done → exec (.weaveEnd w.id) s = .next (s.endWeave w)) ∧ (¬done → exec (.weaveEnd w.id) s = .next s)) ∧
  (s.launches.find? (fun x => x.id = l.id) = some l →
    exec (.launchAbort l.id) s = .next (if l.finished then s else s.abortLaunch l))

/-! ### Engines -/

/-- R211, R212, R171, R214, R153, R223: an engine command checks its locator, its descriptor and its operands, waits for a thread, and
for a slot of its partition where it reads an index tensor or its release sends, and then forks one thread with every granule to do, after
the release of an .rel command; a copy's bytes are added to word 1 of its object; a collective's tag is counted; and an uncorrectable error
in the index tensor of a bundled command aborts its bundle. -/
def Obligations.EngineCommands : Prop :=
  ∀ (l ix : BitVec 1) (k c o2 : BitVec 2) (o3 : BitVec 3) (a d : RegField) (s : State) (w : Weave),
  let st := s.cur.strand
  let t := s.issued
  let g := t.agentOf w st
  let locator := (w.scal st d.toNat).toNat % 2 ^ 20
  let at' := (w.scal st a.toNat).toNat
  ∀ i kind bundles index f, (i, kind, bundles, index, f) ∈ ([
      (.tcopy l k ix a d, 1, l == 1, ix, fun x => x.tcopy (l == 0) k.toNat ix), (.tcopys ix a d, 2, true, ix, fun x => x.tcopys ix),
      (.nmx o3 a d, 3, true, 0, fun x => x.nmx o3.toNat), (.scan c a d, 4, false, 0, fun x => x.scan c.toNat),
      (.ckpt a d, 5, false, 0, Issue.ckpt), (.cred o2 a d, 6, false, 0, fun x => x.cred o2.toNat),
      (.cbcst a d, 7, false, 0, Issue.cbcst)] :
      List (Instr × Nat × Bool × BitVec 1 × (Issue → Cmd EngineOp))) →
  s.Ready i w →
  let attrs := t.attrsOf i w
  let x : Issue := ⟨w, g, attrs, t, fun n => t.sramRead w.id.core (g.spad at' + 8 * n) 8⟩
  let faults := fun (e : Cause) (object place generation : Nat) => exec i s = .next (s.vector s.cur.weave st
    { s.info w e accEngine with
      engine := kind, object := BitVec.ofNat 32 object, generation := BitVec.ofNat 32 generation, place := BitVec.ofNat 128 place })
  (g.reserved locator 32 = false → faults .objBound 0 locator 0) ∧
  (g.reserved locator 32 = true → locator % 32 ≠ 0 → faults .align 0 locator 0) ∧
  (g.reserved locator 32 = true → locator % 32 = 0 →
    (g.reserved at' 64 = false → faults .objBound 0 at' 0) ∧
    (g.reserved at' 64 = true → at' % 64 ≠ 0 → faults .align 0 at' 0) ∧
    (g.reserved at' 64 = true → at' % 64 = 0 →
      (∀ e, f x = .error e → faults e.cause e.object e.place e.generation) ∧
      ∀ op, f x = .ok op →
        let sends := attrs.order = .rel ∨ attrs.order = .ar ∨ attrs.order = .sc
        let held := (index = 1 ∧ t.maySend g.part = false) ∨ (sends ∧ t.fenceHeld g.part g.core attrs.scope = true)
        (held ∨ t.threadRoom g.part g.core (t.engineLimit w) = false → exec i s = .next s) ∧
        (¬held → t.threadRoom g.part g.core (t.engineLimit w) = true → ∃ (th : Thread) (u : State), exec i s = .next u ∧
          u.threads = t.threads ++ [th] ∧ th.op = op ∧ th.kind = kind ∧ th.weave = w.id ∧ th.crew = w.crew ∧
          th.todo = List.range op.granules ∧ th.bytes = 0 ∧ th.locator = g.spad locator ∧ th.scope = attrs.scope ∧
          th.fpctl = w.fpctl ∧ th.session = w.session ∧ (th.stopped = true ↔ th.flags ≠ 0) ∧ (index = 0 → th.flags = 0) ∧
          (th.bundle = if bundles && attrs.bundle && attrs.space != .hst then w.part else none) ∧
          (∀ tag n span rank op' type src dst s0 d0 m, op = .cred op' type src dst s0 d0 m tag n span rank →
            u.tagNumber g.part tag = n + 1 ∧ (th.matched = true ↔ span ≤ 1)) ∧
          let v := if sends then t.release g.core attrs.scope else t
          (th.flags ≠ 2 ^ 26 ∨ th.bundle = none → u.weaves = v.weaves ∧ u.members = v.members ∧ u.bundles = v.bundles) ∧
          (∀ b x, th.flags = 2 ^ 26 → th.bundle = some b → u.bundle? g.part b.1.toNat = some x → x.opened = b.2.toNat →
            x.state ≠ .opened ∧ x.state ≠ .committing) ∧ (∀ core y, (u.sramByte core y = if op.counts = true ∧ core = g.core then
              (bytesAt (g.spad locator + 8) 8 (v.bytesAt g.core (g.spad locator) + op.size) y).getD (v.sramByte core y)
            else v.sramByte core y) ∨ 0x82000 ≤ y))))

/-- R213, R344, R358, R365: what the fields of a descriptor name, for the commands whose operands are flat and for TCOPY. -/
def Rules.EngineDescriptors : Prop := ∀ (x : Issue) (load : Bool) (mode op cmp : Nat) (ix : BitVec 1) (y : EngineOp),
  let lo := fun k => x.word k % 2 ^ 32
  let hi := fun k => x.word k / 2 ^ 32
  (∀ k, x.word k < 2 ^ 64) →
  (x.nmx op = .ok y → ∃ type, x.word 3 ≠ 0 ∧ y = .nmx op type (lo 0) (hi 0) (x.word 1) (x.word 2) (x.word 3)
    (BitVec.ofNat 32 (lo 4)) (BitVec.ofNat 32 (hi 4)) (x.word 5 % 2 ^ 20) ∧ y.size = x.word 3 * typeBytes type ∧
    (x.host = false → ∃ d, x.s.objDesc x.g.part (lo 0) = some d ∧ d.kind = 2 ∧ d.type = type ∧ (type = 0 ∨ type = 2))) ∧
  (x.scan cmp = .ok y → ∃ type, x.word 3 ≠ 0 ∧ y = .scan cmp type (x.word 0) (x.word 1) (x.word 3) (BitVec.ofNat 32 (x.word 4))
    (x.word 5 % 2 ^ 20) (x.word 5 / 2 ^ 32 % 2 ^ 20) ∧ x.word 5 % 2 ^ 20 % 16 = 0) ∧
  (x.tcopy load mode ix = .ok y → ∃ (d : ObjDesc) (starts : List Nat), x.s.objDesc x.g.part (lo 0) = some d ∧ d.kind = 2 ∧
    let rows := x.word 3 / 2 ^ 32 % 2 ^ 16
    let rowBytes := lo 3 * d.nibs / 2
    y = .tcopy load mode (lo 0) starts rowBytes (x.word 4 % 2 ^ 20) (x.word 4 / 2 ^ 32 % 2 ^ 20) ∧ rows ≠ 0 ∧ lo 3 ≠ 0 ∧
    starts.length = rows ∧ rowBytes ≤ x.word 4 / 2 ^ 32 % 2 ^ 20 ∧
    (ix = 0 → ∀ t e, starts[t]? = some e → ∃ c : Nat × Nat × Nat × Nat,
      (c = if x.word 3 / 2 ^ 48 = 0 then (hi 1 + t, hi 2, lo 1, lo 2) else if x.word 3 / 2 ^ 48 = 1 then (hi 1, hi 2 + t, lo 1, lo 2)
        else (hi 1, hi 2, lo 1 + t, lo 2)) ∧
      c.1 < d.d0 ∧ c.2.1 < d.d1 ∧ c.2.2.1 < d.d2 ∧ c.2.2.2 + lo 3 ≤ d.d3 ∧
      e = ((c.1 * d.d1 + c.2.1) * d.d2 + c.2.2.1) * d.d3 + c.2.2.2))

/-- R214, R218, R223, R188, R190, R176, R220, R153: a granule of a thread is performed whole or not at all: it is dropped where the thread
has stopped, has not met its peers or has done it, where an earlier pair of its channel is still to come, and where the partition has no
slot to send in, or a line has refused the thread less than 32 cc ago; it stops a thread whose bundle is no longer open, and the bundle
aborts; it stays to do where it is held; and a failure stops the thread with its status bits and the lowest unit that failed, an
uncorrectable error aborting the bundle. -/
def Rules.EngineGranules : Prop := ∀ (k : Nat) (s : State) (th : Thread),
  s.threads.find? (fun x => x.id = th.id) = some th →
  let runs := exec (.engineGranule th.id k) s
  let may := th.stopped = false ∧ th.matched = true ∧ k ∈ th.todo ∧ s.granuleDue th k = true
  let live := ∀ b, th.bundle = some b → s.bundleLive th b = true
  let unit := k * (match th.op with
    | .ckpt .. => 2
    | _ => 1)
  (¬may → runs = .next s) ∧
  (may → ¬live → runs = .next ((s.setThread { th with
    flags := th.flags ||| (2 ^ 27 ||| 2 ^ 28), failed := some unit, stopped := true }).abortFor th)) ∧
  (may → live →
    (∀ line, s.performGranule th k = .error (.hold line) → runs = .next (s.setThread { th with
      refused := line.map fun l => refusedAgain th.refused l s.time })) ∧
    (∀ f, s.performGranule th k = .error (.fails f) →
      let t := s.setThread { th with flags := th.flags ||| f, failed := some unit, stopped := true }
      runs = .next (if f = 2 ^ 26 then t.abortFor th else t)) ∧
    ∀ t th', s.performGranule th k = .ok (t, th') →
      let n := th.op.granule k
      let u := t.setThread { th' with todo := th'.todo.filter (· ≠ k), bytes := th'.bytes + n, refused := none }
      runs = .next (if th.op.counts then u.subtractBytes th.core th.locator n th.scope else u))

/-- R143: a swizzle mode permutes the chunks of every row and is its own inverse. R220: which elements SCAN keeps. R222: how
a collective combines two elements of i32. R219: .dotp; and .copy, whose element as a result of its format, a NaN canonical, DAZ and FTZ
applied, is the model's reading (log 60). -/
def Rules.EngineElements : Prop := ∀ (mode a cmp type threshold x y : Nat), mode < 4 → x < 2 ^ 32 → y < 2 ^ 32 →
  threshold < 2 ^ 32 →
  let sg := fun (v : Nat) => (BitVec.ofNat 32 v).toInt
  swizzled mode (swizzled mode a) = a ∧ swizzled mode a / 128 = a / 128 ∧ swizzled mode a % 16 = a % 16 ∧
  swizzled mode a % 128 / 16 = (a % 128 / 16) ^^^ (a / 128 % 2 ^ mode) ∧ swizzled 0 a = a ∧
  (scanKeeps 5 0 threshold x = true ↔ sg threshold < sg x) ∧ (scanKeeps 5 1 threshold x = true ↔ sg threshold ≤ sg x) ∧
  (scanKeeps 5 2 threshold x = true ↔ |sg threshold| < |sg x|) ∧
  (type = 0 ∨ type = 1 ∨ type = 2 → ∀ v t : ℚ, ((typeFmt type).decode x).value = some v →
    ((typeFmt type).decode threshold).value = some t →
    (scanKeeps type 0 threshold x = true ↔ t < v) ∧ (scanKeeps type 1 threshold x = true ↔ t ≤ v) ∧
    (scanKeeps type 2 threshold x = true ↔ |t| < |v|)) ∧
  (type = 0 ∨ type = 1 ∨ type = 2 → (typeFmt type).decode x = .nan → cmp < 3 → scanKeeps type cmp threshold x = false) ∧
  ∀ md, combine 0 5 md x y = (x + y) % 2 ^ 32 ∧ sg (combine 1 5 md x y) = min (sg x) (sg y) ∧
    sg (combine 2 5 md x y) = max (sg x) (sg y) ∧
    ∀ alpha lambda f ws v, nmxElem 2 f md alpha lambda x y = f.write md (f.read md y) 0 ∧ dotWord f md [] [] = 0 ∧
      (ws.length = v.length → dotWord f md (ws ++ [x]) (v ++ [y]) = fp32.write md (sumExact md.round
        [fp32.read md (dotWord f md ws v), (f.read md x).mul (f.read md y)]) 0)

/-- The descriptors of the engines, and what their elements become. -/
def Obligations.EngineWork : Prop := Rules.EngineDescriptors ∧ Rules.EngineElements

/-- R216, R217, R223, R315: a thread that has ended arrives once: the bytes it never performed leave word 1, its status is
written or merged into word 2, and an arrival is counted; the merging, field by field; unmatched collectives time out, one issued
before stage 3 from stage 3 on (R272), and a withdrawn member stops them. -/
def Rules.EngineArrivals : Prop := ∀ (s : State) (th : Thread) (old new : Nat),
  let f := fun (x lo n : Nat) => x / 2 ^ lo % 2 ^ n
  let m := mergeStatus old new
  let bad := fun (x : Nat) => f x 26 4 ≠ 0
  f m 0 16 = min 0xFFFF (f old 0 16 + f new 0 16) ∧ f m 16 8 = (if f old 0 16 = 0 then f new 16 8 else f old 16 8) ∧
  f m 24 6 = f old 24 6 ||| f new 24 6 ∧ f m 30 2 = 0 ∧ f m 32 4 = (if f old 32 4 = f new 32 4 then f old 32 4 else 0xF) ∧
  (bad new → ¬bad old → f m 36 28 = f new 36 28) ∧ (bad old → f m 36 28 = f old 36 28) ∧
  (¬bad new → ¬bad old → f m 36 28 = min (2 ^ 28 - 1) (f old 36 28 + f new 36 28)) ∧
  (s.threads.find? (fun x => x.id = th.id) = some th →
    let ended := th.stopped = true ∨ (th.matched = true ∧ th.todo = [])
    let t : State := { s with threads := s.threads.filter fun x => x.id ≠ th.id }
    let lost := (th.todo.map th.op.granule).sum
    let u := if th.op.counts = true ∧ lost ≠ 0 then t.sramWrite th.core (th.locator + 8) 8 (t.bytesAt th.core th.locator - lost) else t
    let v := u.engineArrive th.core th.locator th.status th.scope
    (¬ended → exec (.engineArrival th.id) s = .next s) ∧
    (ended → (∀ a b c x y z p, th.op ≠ .ckpt a b c x y z p) → exec (.engineArrival th.id) s = .next v) ∧
    ∀ a b c x y z p, ended → th.op = .ckpt a b c x y z p → exec (.engineArrival th.id) s = .next (match v.bundle? th.part a with
      | some bundle => v.dropSpilled bundle
      | none => v)) ∧
  exec (.collectiveMatchTimeout th.id) s = .next { s with threads := s.threads.map fun x =>
    if x.id = th.id ∧ x.matched = false ∧ x.op.collective = true ∧ 3 ≤ s.stage.getD 0 ∧ max x.since s.linksAt + 330000000 ≤ s.time then x.stop (2 ^ 27) none else x } ∧
  exec (.memberWithdrawn th.part) s = .next { s with threads := s.threads.map fun x =>
    if x.part = th.part ∧ x.op.collective = true then x.stop (2 ^ 29) none else x }

/-! ### Registers that the host and supervisor software write -/

/-- Granules performed whole or not at all, and arrivals. -/
def Obligations.EngineThreads : Prop := Rules.EngineGranules ∧ Rules.EngineArrivals

/-- R141, R142: a CSRAM write within the partition's limit is a request, and any other is rejected with an error record; the
split changes when no crew is resident, the L1 giving up its lines and the scratchpad its contents. That a write for a core not granted
to the partition is dropped, and that the old split stays while the L1 must keep dirty lines of a port that is down, are the model's
choices (log 31). -/
def Rules.CoreSplits : Prop := ∀ (part core : Nat) (v : DWord) (s : State),
  let units := v.toNat % 16
  let limit := (s.pcb part).lim0.toNat % 16
  let k := s.coreStates.toList.getD core CoreState.reset
  let write := exec (.csramWrite part core v) s
  let change := exec (.csramSplitChange core) s
  (s.grantedCore part core = false → write = .next s) ∧
  (s.grantedCore part core = true → units ≤ 7 → units ≤ limit → write = .next (s.onCore core fun x => { x with units })) ∧
  (s.grantedCore part core = true → 7 < units ∨ limit < units → write = .next (s.sendError part
    { code := 0x24, die := core / 96, unit := core, ctx := 0, object := 0, generation := 0, offset := 0 })) ∧
  ((∃ c ∈ s.crews, c.core = core ∧ c.state ≠ .saved) ∨ k.units = k.active → change = .next s) ∧
  ((∀ c ∈ s.crews, c.core = core → c.state = .saved) → k.units ≠ k.active → core < 384 →
    (∃ c ∈ (s.clearL1 core).caches, c.holder = .l1 core) → change = .next (s.clearL1 core)) ∧
  ((∀ c ∈ s.crews, c.core = core → c.state = .saved) → k.units ≠ k.active → core < 384 →
    (∀ c ∈ (s.clearL1 core).caches, c.holder ≠ .l1 core) → ∃ t, change = .next t ∧
    (t.coreStates.toList.getD core CoreState.reset).active = k.units ∧ t.caches = (s.clearL1 core).caches ∧
    t.mem = (s.clearL1 core).mem ∧
    (∀ x ∈ t.spad, x.1 < 2 ^ 19 * core ∨ 2 ^ 19 * (core + 1) ≤ x.1) ∧
    ∀ x, x.1 < 2 ^ 19 * core ∨ 2 ^ 19 * (core + 1) ≤ x.1 → (x ∈ t.spad ↔ x ∈ (s.clearL1 core).spad))

/-- R259, R269, R157, R158: PREQ keeps its request bits, requests the crews of the named slots and clears saved bits (that a write
for a core not granted to the partition is dropped, and that a 0 written takes back no request, are the model's choices, log 31); a limit
word within its ranges is kept, a raised limit in force at once and a lowered one from the next dispatch on, and any other is rejected with
an error record; FTMO keeps a timeout in its range and re-arms a port whose link is up, and the
dirty lines that a port held while it was down are written back. -/
def Rules.ControlBlockWrites : Prop := ∀ (part core port : Nat) (v : DWord) (s : State),
  let f := fun lo n => v.toNat / 2 ^ lo % 2 ^ n
  let inRange := f 0 4 ≤ 7 ∧ f 4 8 ≤ 128 ∧ f 12 8 ≤ 64 ∧ f 20 13 ≤ 4096 ∧ f 33 6 ≤ 32
  let preq := exec (.preqWrite part core v) s
  (s.grantedCore part core = false → preq = .next s) ∧
  (s.grantedCore part core = true → preq = .next ((s.onCore core fun k =>
    { k with
      preqAsked := v.extractLsb' 0 16
      preqSaved := k.preqSaved &&& ~~~(v.extractLsb' 32 16) }).requestSlots part core (f 0 16))) ∧
  (inRange → exec (.limitWrite part false v) s = .next (s.onPcb part fun p =>
    { p with lim0 := BitVec.ofNat 64 (f 0 39), bundlesNow := max p.bundlesNow (f 20 13), retentionNow := max p.retentionNow p.retention })) ∧
  (¬inRange → exec (.limitWrite part false v) s = .next (s.sendError part
    { code := 0x27, die := 0, unit := 0, ctx := 0, object := 0, generation := 0, offset := 0 })) ∧
  exec (.limitWrite part true v) s = .next (s.onPcb part fun p =>
    { p with lim1 := BitVec.ofNat 64 (f 0 32), bundlesNow := max p.bundlesNow p.bundles, retentionNow := max p.retentionNow (f 0 32) }) ∧
  let t := s.onCxl port fun c => { c with
    timeout := if f 0 22 = 0 ∨ 4000000 < f 0 22 then c.timeout else f 0 22
    down := c.down && !(v.getLsbD 22 && c.up) }
  exec (.ftmoWrite port v) s = .next (if s.portDown port = true ∧ t.portDown port = false then t.drainPort port else t)

/-- R153, R152, R257, R258, R263, R266, R267, R269, R270: what a write of a plain register keeps, field by field. -/
def Rules.PlainRegisterWrites : Prop := ∀ (n k : Nat) (v : DWord) (s : State),
  let f := fun lo w => v.toNat / 2 ^ lo % 2 ^ w
  let write := fun (r : RegName) => exec (.registerWrite r v) s
  let entry := BitVec.ofNat 8 (f 0 5 + if n = 63 then 32 else 0)
  write (.scheduleEntry n) = .next { s with scheduleEntries := s.scheduleEntries.setIfInBounds n entry } ∧
  write (.vfMap n) = .next { s with vfMap := s.vfMap.setIfInBounds n (BitVec.ofNat 8 (f 0 4 + 128 * f 7 1)) } ∧
  write (.apert n) = .next { s with aperts := s.aperts.setIfInBounds n (BitVec.ofNat 64 (f 0 46)) } ∧
  write (.objectTable n) = .next (s.onPcb n fun p => { p with tableBase := 64 * f 6 46 }) ∧
  write (.objectEntries n) = .next (s.onPcb n fun p => { p with tableEntries := f 0 32 }) ∧
  write (.errorRing n) = .next (s.onPcb n fun p => { p with ringObject := f 0 32 }) ∧
  write (.errorHead n) = .next (s.onPcb n fun p => { p with ringHead := f 0 16 }) ∧
  write (.threshold n) = .next (s.onPcb n fun p => { p with threshold := f 0 32 }) ∧
  write (.contextObject n) = .next (s.onPcb n fun p => { p with contextObject := f 0 32 }) ∧
  write (.framePool n) = .next (s.onPcb n fun p => { p with poolObject := f 0 32 }) ∧
  (k < 6 → ∃ g : BitVec 384 → BitVec 384, write (.grantedCores n k) = .next (s.onPcb n fun p => { p with granted := g p.granted }) ∧ ∀ (m : BitVec 384) i,
    (g m).getLsbD i = if i / 64 = k then v.getLsbD (i % 64) else m.getLsbD i) ∧
  write (.queueControl n k) = .next (s.onLaunchQueue n k fun q => { q with
    enable := v.getLsbD 39, device := v.getLsbD 38, priority := f 36 2, size := f 32 4, ring := f 0 32 }) ∧
  (∃ t, write (.sliceMap n k) = .next t ∧ (∀ d e, n < 4 → (t.sliceMaps.toList.getD d SliceMap.reset).entries.getD e 0 =
    if d = n ∧ e = k ∧ k < (s.sliceMaps.toList.getD n SliceMap.reset).entries.length then v.toNat
      else (s.sliceMaps.toList.getD d SliceMap.reset).entries.getD e 0) ∧
    ∀ d, (t.sliceMaps.toList.getD d SliceMap.reset).generation = (s.sliceMaps.toList.getD d SliceMap.reset).generation) ∧
  (∃ t, write (.sliceGeneration n) = .next t ∧ ∀ d, (t.sliceMaps.toList.getD d SliceMap.reset).generation =
    (if d = n ∧ n < 4 then BitVec.ofNat 16 (f 0 16) else (s.sliceMaps.toList.getD d SliceMap.reset).generation) ∧
    let m := s.sliceMaps.toList.getD d SliceMap.reset
    (d = n → n < 4 → m.generation ≠ BitVec.ofNat 16 (f 0 16) →
      (m.generation, m.entries) ∈ (t.sliceMaps.toList.getD d SliceMap.reset).older)) ∧
  (∃ t, write (.hostGrant n) = .next t ∧ ∀ fn, t.hostGrant.lookup fn = if fn = n then some v.toNat else s.hostGrant.lookup fn) ∧
  write .handlerVector = .next { s with fwHndlr := BitVec.ofNat 64 (2 * f 1 63) }

/-- Registers that the host and supervisor software write. -/
def Obligations.HostRegisters : Prop := Rules.CoreSplits ∧ Rules.ControlBlockWrites ∧ Rules.PlainRegisterWrites

/-- R266, R267, R271, R272, R276: nothing answers without power, past a window's end, or at a number that the function has no window of;
an access of a function without a valid binding reads ones and writes nothing; window 0 opens at stage 1 and window 2 at stage 2, and that
before this a write is dropped, a tail write apart, and a read returns any value is the model's choice (log 32); then they read and write
the window's words; device-physical bytes are read at their homes; an access of the object that APERT names makes the checks of R110, and
one that fails reads ones and writes nothing, with an error record, whose fields that R258 leaves open are the model's (log 31). -/
def Rules.HostWindows : Prop := ∀ (fn : Nat) (window offset n request : Nat) (x : DWord) (s : State),
  1 ≤ n → n ≤ 8 →
  let run := fun (f : Option Nat) (w : Nat) (store : Option DWord) => exec (.hostWindowAccess f w offset n store) s
  let map := s.vfMap.toList.getD fn 0
  let part := map.toNat % 16
  let ones := BitVec.ofNat 64 (2 ^ (8 * n) - 1)
  (s.powered = false → (∀ f store, run f window store = .next s) ∧ exec (.pcieConfigRequest request) s = .next s) ∧
  (∀ (f : Option Nat) store, ¬(window = 0 ∧ offset + n ≤ (if f = none then 2 ^ 22 else 2 ^ 17)) →
    ¬(window = 2 ∧ offset + n ≤ (if f = none then 2 ^ 40 else 2 ^ 34)) → run f window store = .next s) ∧
  (s.powered = true → map.getLsbD 7 = false → (window = 0 ∧ offset + n ≤ 2 ^ 17) ∨ (window = 2 ∧ offset + n ≤ 2 ^ 34) →
    ∀ store, run (some fn) window store = .next { s with hostReply := ones }) ∧
  (s.powered = true → offset + n ≤ 2 ^ 40 → s.stage.getD 0 < 2 → (∃ y, run none 2 none = .next { s with hostReply := y }) ∧
    (∀ y, run none 2 (some y) = .next s)) ∧
  (s.powered = true → offset + n ≤ 2 ^ 22 → s.stage.getD 0 = 0 → (∃ y, run none 0 none = .next { s with hostReply := y }) ∧
    (offset < 0x100000 → ∀ y, run none 0 (some y) = .next s)) ∧
  (s.powered = true → offset + n ≤ 2 ^ 17 → 1 ≤ s.stage.getD 0 → (map.getLsbD 7 = true → ∀ w, s.windowWord (some fn) part (offset / 8 * 8) = w → offset % 8 + n ≤ 8 →
    run (some fn) 0 none = .next { s with hostReply := BitVec.ofNat 64 (w.toNat / 2 ^ (8 * (offset % 8)) % 2 ^ (8 * n)) }) ∧
  (map.getLsbD 7 = true → offset % 8 = 0 → n = 8 → run (some fn) 0 (some x) = .next (s.writeWindow (some fn) part offset x))) ∧
  (s.powered = true → offset + n ≤ 2 ^ 22 → 1 ≤ s.stage.getD 0 → (∀ w, s.windowWord none 0 (offset / 8 * 8) = w → offset % 8 + n ≤ 8 →
    run none 0 none = .next { s with hostReply := BitVec.ofNat 64 (w.toNat / 2 ^ (8 * (offset % 8)) % 2 ^ (8 * n)) }) ∧
  (offset % 8 = 0 → n = 8 → run none 0 (some x) = .next (s.writeWindow none 0 offset x))) ∧
  (s.powered = true → offset + n ≤ 2 ^ 40 → 2 ≤ s.stage.getD 0 → ∃ t, run none 2 none = .next t ∧ ∀ k, k < n → t.hostReply.toNat / 2 ^ (8 * k) % 256 = (t.homeByte (offset + k)).toNat) ∧
  (s.powered = true → offset + n ≤ 2 ^ 34 → 2 ≤ s.stage.getD 0 → (map.getLsbD 7 = true →
    let ap := (s.aperts.toList.getD fn 0).toNat
    let object := ap % 2 ^ 32
    let at' := ap / 2 ^ 32 % 2 ^ 14 * 2 ^ 34 + offset
    let fails := fun (f : Cause) (store : Option DWord) => run (some fn) 2 store = .next
      { s.sendError part { code := f.code, die := 0, unit := 0, ctx := 0, object, generation := 0, offset := at' } with
        hostReply := ones }
    ∀ store : Option DWord,
    (s.objDesc part object = none → fails .objBound store) ∧
    ∀ d, s.objDesc part object = some d → d.kind = 1 → d.nibs = 2 →
      (∀ k f, s.checkAt none part object (some d) (if store.isSome then .write else .read) n false at' = some (k, f) → fails f store) ∧
      (s.checkAt none part object (some d) .read n false at' = none → store = none →
        let ps := s.placesAt none part object d at' n
        ps.any (·.busy) = false →
        (ps.any s.placeDown = true → fails .farUnavail none) ∧
        (ps.any s.placeDown = false → ps.any s.poisoned = true → fails .dataUe none) ∧
        (ps.any s.placeDown = false → ps.any s.poisoned = false → ∃ t : State, run (some fn) 2 none =
          .next { t with hostReply := BitVec.ofNat 64 (t.homeNat ps) })))) ∧
  (s.powered = true → s.stage = none → exec (.pcieConfigRequest request) s = .next { s with hostRetry := true }) ∧
  (s.powered = true → s.stage ≠ none → ∃ y, exec (.pcieConfigRequest request) s = .next { s with hostRetry := false, hostReply := y })

/-- R267, R269, R270, R259, R141, R271, R275: the words that the windows show, and which of them a virtual function writes; that a
write of an offset that no rule lists is dropped is the model's choice (log 31). -/
def Rules.WindowWords : Prop := ∀ (part core q off : Nat) (fn : Nat) (x : DWord) (s : State), part < 16 → core < 384 → q < 16 →
  let p := s.pcb part
  let block := fun (o : Nat) => s.windowWord none part (0x100000 + 0x10000 * part + o)
  let y := s.launchQueue part q
  let vf := fun (o : Nat) => s.writeWindow (some fn) part o x
  (∀ o, o < 0x10000 → block o = s.windowWord (some fn) part o) ∧ block 0 = BitVec.ofNat 64 p.tableBase ∧
  block 8 = BitVec.ofNat 64 p.tableEntries ∧ block 0x10 = p.lim0 ∧ block 0x18 = p.lim1 ∧
  block 0x28 = BitVec.ofNat 64 (p.ringHead + 2 ^ 16 * p.ringTail + 2 ^ 32 * p.overflow) ∧
  (s.grantedCore part core = true → block (0x1000 + 8 * core) = BitVec.ofNat 64
    ((s.coreStates.toList.getD core CoreState.reset).units + 2 ^ 8 * (s.coreStates.toList.getD core CoreState.reset).active)) ∧
  (s.grantedCore part core = true → (block (0x2000 + 8 * core)).extractLsb' 0 16 =
    (s.coreStates.toList.getD core CoreState.reset).preqAsked) ∧
  block (0x100 + 32 * q + 8) = BitVec.ofNat 64 (y.head + 2 ^ 32 * y.tail) ∧
  (∀ k, k < 6 → block (0x80 + 8 * k) = p.granted.extractLsb' (64 * k) 64) ∧
  (∀ o, o < 0x1000 → s.windowWord none part o = s.windowWord (some fn) part (0x10000 + o)) ∧
  s.windowWord none part 8 = s.firmware ∧
  (∃ ports, s.windowWord none part 0 = BitVec.ofNat 64 (s.chipId.toNat + 2 ^ 16 * s.dies.toNat + 2 ^ 20 * s.cxlPorts.toNat +
      2 ^ 24 * ports + 2 ^ 40 * s.stage.getD 0 + 2 ^ 43 * s.stageError.toNat) ∧ ports < 2 ^ 16 ∧
    ∀ k f, s.fabric[k]? = some f → ports.testBit k = (s.fabricPorts.getLsbD k && (decide (s.stage.getD 0 < 3) || f.trained))) ∧
  (∀ k, k < 6 → s.windowWord none part (0x40 + 8 * k) = s.coresPresent.extractLsb' (64 * k) 64) ∧
  (∀ k, k < 8 → s.windowWord none part (0x100 + 8 * k) = s.channels.extractLsb' (64 * k) 64) ∧
  (∀ f, s.fabric[off]? = some f → s.windowWord none part (0x200000 + 8 * off) =
    BitVec.ofNat 64 ((if f.trained then 1 else 0) + 2 ^ 16 * f.peerChip.toNat + 2 ^ 32 * f.peerPort.toNat)) ∧
  (∀ c, s.cxl[off]? = some c → s.cxlPorts.getLsbD off = true → s.windowWord none part (0x200100 + 16 * off) =
      BitVec.ofNat 64 ((if c.up then 1 else 0) + 2 ^ 32 * c.capacity) ∧
    s.windowWord none part (0x200108 + 16 * off) = BitVec.ofNat 64 (c.timeout + if c.down then 2 ^ 22 else 0)) ∧
  vf (0x1000 + 8 * core) = s.writeCsram part core x ∧ vf (0x2000 + 8 * core) = s.writePreq part core x ∧
  s.writeWindow none part (0x100000 + 0x10000 * part + 0x28) x = s.onPcb part (fun p => { p with
    ringHead := x.toNat % 2 ^ 16, ringTail := x.toNat / 2 ^ 16 % 2 ^ 16, overflow := x.toNat / 2 ^ 32 }) ∧
  vf 0x28 = s.writeReg (.errorHead part) x ∧ vf 0x12000 = s.writeReg (.apert fn) x ∧
  (∀ o, o < 0x10000 → o ≠ 0x28 → ¬(0x100 ≤ o ∧ o < 0x300 ∧ o % 32 = 8) → ¬(0x1000 ≤ o ∧ o < 0x1C00) →
    ¬(0x2000 ≤ o ∧ o < 0x2C00) → vf o = s) ∧
  (∀ o, 0x10000 ≤ o → o ≠ 0x12000 → vf o = s) ∧ (∀ o, o < 0x2000 → s.writeWindow none part o x = s)

/-! ### Power, start-up, measurement, errors -/

/-- The host's windows and the words they show. -/
def Obligations.HostWindows : Prop := Rules.HostWindows ∧ Rules.WindowWords

/-- R272, R276, R2: power-good leaves a module in no stage, with nothing resident, no memory contents and cleared measurements, and
changes nothing on a module that has power; a thermal shutdown sends an error record, which stays with the TIME at which it was sent,
and removes the power; what the module has of cores, channels and ports stays; a power limit lies between 1,500 and 3,400 W; throttling
changes no value. What power-good keeps and resets, where that record goes, and that a limit outside the range is not taken are the
model's readings (log 33). -/
def Rules.PowerStates : Prop := ∀ (watts idle clock : Nat) (s : State),
  let off := fun (t : State) => t.stage = none ∧ t.stageError = 0 ∧ t.weaves = [] ∧ t.crews = [] ∧ t.launches = [] ∧
    t.flights = [] ∧ t.pending = [] ∧ t.dirs = [] ∧ t.resident = [] ∧ t.threads = [] ∧ t.arrays = [] ∧ t.mem = [] ∧ t.spad = [] ∧ t.caches = [] ∧ t.bundles = [] ∧
    t.regions = [] ∧ t.mapGen = 0 ∧ t.pcbs = .replicate 16 Pcb.reset ∧ t.coreStates = .replicate 384 CoreState.reset ∧
    t.scheduleEntries = State.reset.scheduleEntries ∧ t.vfMap = .replicate 256 0 ∧ t.cxl = .replicate 4 CxlPort.reset ∧
    t.slots = .replicate 8 0 ∧ t.log = [] ∧ t.nextSignature = s.nextSignature ∧ t.arraysOut = s.arraysOut ∧
    t.coresPresent = s.coresPresent ∧ t.channels = s.channels ∧ t.fabricPorts = s.fabricPorts ∧ t.hostMem = s.hostMem
  (s.powered = true → exec .powerGood s = .next s ∧ ∃ t, exec .thermalShutdown s = .next t ∧ t.powered = false ∧
    (∃ r : ErrorInfo, t.shutdown = some (r, s.time) ∧ r.ctx = 0 ∧ r.object = 0 ∧ r.offset = 0) ∧ off t) ∧
  (s.powered = false → exec .thermalShutdown s = .next s ∧ ∃ t, exec .powerGood s = .next t ∧ t.powered = true ∧ off t) ∧
  exec (.powerLimitSet watts) s =
    .next { s with powerLimit := if 1500 ≤ watts ∧ watts ≤ 3400 ∧ s.stage ≠ none then watts else s.powerLimit } ∧
  (s.stage ≠ none → exec (.powerThrottle idle clock) s = .next { s with idleCycles := idle, clockStep := clock })

/-- R272, R273, R274, R275, R137: stages are reached in order and only without an error, stage 1 with measured firmware only; each
component is measured before its stage is recorded; at stage 3 only ports that the module has are trained; TIME starts at stage 2; every
answered report takes the next signature index, until they are spent. -/
def Rules.StartUp : Prop := ∀ (stage mailbox : Nat) (error : BitVec 8) (cs : List Component) (nonce : BitVec 256) (s : State),
  let next := match s.stage with
    | none => 0
    | some k => k + 1
  let run := exec (.startStageReached stage error cs) s
  let may := s.powered = true ∧ stage = next ∧ stage ≤ 3 ∧ s.stageError = 0 ∧
    (stage = 1 → error = 0 → ∃ c ∈ cs, c.slot < 8)
  (¬may → run = .next s) ∧
  (may → ∃ t, run = .next t ∧ t.log = s.log ++ ((cs.filter fun c => c.slot < 8).map fun c =>
      (c.slot, c.kind, shake256 c.image)) ∧
    (error ≠ 0 → t.stage = s.stage ∧ t.stageError = error ∧ t.time = s.time) ∧
    (error = 0 → t.stage = some stage ∧ t.stageError = 0 ∧ (t.time = if stage = 2 then 0 else s.time) ∧
      (stage = 3 → ∀ k f, t.fabric[k]? = some f → f.trained = true → s.fabricPorts.getLsbD k = true) ∧
      (stage ≠ 3 → t.fabric = s.fabric)) ∧
    (∀ c, cs = [c] → c.slot < 8 → ∀ k, k < 8 → t.slots.toList[k]? = if k = c.slot then
      (s.slots.toList[k]?).map fun m => shake256 (leBytes 32 m.toNat ++ leBytes 32 (shake256 c.image).toNat)
      else s.slots.toList[k]?)) ∧
  let report := exec (.attestationReport mailbox nonce) s
  (s.stage = none → report = .next s) ∧
  (s.stage ≠ none → ∃ (t : State) (r : Report), report = .next t ∧ t.reports = s.reports ++ [r] ∧ r.mailbox = mailbox ∧
    r.nonce = nonce ∧ r.slots = s.slots.toList ∧ r.log = s.log ∧ r.index = s.nextSignature ∧
    (s.nextSignature < 1048576 → r.signature.isSome = true ∧ t.nextSignature = s.nextSignature + 1) ∧
    (1048576 ≤ s.nextSignature → r.signature = none ∧ t.nextSignature = s.nextSignature))

/-- Power, start-up stages, measurement and attestation. -/
def Obligations.PowerAndStart : Prop := Rules.PowerStates ∧ Rules.StartUp

/-- R257, R258, R189, R190: a correctable error is counted, and each multiple of a threshold that is not 0 makes a record due, which
one event sends; an uncorrectable error poisons the word where it is held, at its home, in a retained version or in an open one, whose
bundle aborts unless it has committed, and sends one record. Which of a line's versions is hit is free (log 34). -/
def Rules.FoundErrors : Prop := ∀ (part die address bytes : Nat) (s : State), part < 16 → die < 4 →
  let p := s.pcb part
  let n := p.corrected + 1
  let record := fun (t : State) (code die unit : Nat) =>
    t.sendError part { code, die, unit, ctx := 0, object := 0, generation := 0, offset := 0 }
  (∃ t : State, exec (.correctableError part die) s = .next t ∧ t.pcb part = { p with
      corrected := n, due := p.due + if p.threshold ≠ 0 ∧ p.threshold ∣ n then 1 else 0 } ∧
    (∀ q, q ≠ part → t.pcb q = s.pcb q) ∧
    ∀ d, t.dieCorrected.toList.getD d 0 = s.dieCorrected.toList.getD d 0 + if d = die then 1 else 0) ∧
  (p.due = 0 → exec (.correctableThreshold part) s = .next s) ∧
  (p.due ≠ 0 → exec (.correctableThreshold part) s =
    .next (record (s.onPcb part fun x => { x with due := p.due - 1 }) 0x20 0 0)) ∧
  let size := max 1 (min bytes 8)
  let hits := s.membersAt address size
  (∃ (t : State) (d u : Nat), exec (.uncorrectableError part address bytes) s = .next (record t 0x09 d u) ∧
    (t = { s with poison := s.poison ++ [(address, size)] } ∨
      ((∃ x ∈ hits, x.1.openV ≠ none) ∧
        t = (hits.filter fun x => x.1.openV.isSome).foldl (fun (y : State) x => y.hitOpen x.1 x.2) s) ∨
      ((∃ x ∈ hits, x.1.retained ≠ none) ∧ t = (hits.filter fun x => x.1.retained.isSome).foldl (fun (y : State) x =>
        y.putMember { x.1 with retained := x.1.retained.map fun v => { v with bad := v.bad ||| x.2 } }) s))) ∧
  ∀ (m : MemberLine) (v : Version) (b : Bundle) (bad : BitVec 128), m.openV = some v → s.bundle? m.part m.handle = some b →
    s.hitOpen m bad = if b.committed < v.generation then s.abortBundle b
      else s.putMember { m with openV := some { v with bad := v.bad ||| bad } }

/-- R224: a column is substituted while its array has spares left, and a fifth substitution takes the array out of service. -/
def Rules.ColumnSpares : Prop := ∀ (core array column : Nat) (s : State), core < 384 → array < 2 → column < 96 →
  let x := s.spares core array
  ∃ t, exec (.columnSubstitution core array column) s = .next t ∧
    t.spares core array = (if x.used.length < 4 then { x with used := x.used ++ [column] } else { x with retired := true }) ∧
    (∀ c a, (c, a) ≠ (core, array) → t.spares c a = s.spares c a) ∧
    t = { s with arraysOut := t.arraysOut }

/-- R265: a reset of a virtual function leaves no weave, crew or thread of it and nothing in flight for one, and its launches have
finished or been aborted; the weaves of the other functions keep their registers, queues and split tables; the VF map, the apertures,
the regions, TIME and the cores' own registers stay. -/
def Rules.FunctionReset : Prop := ∀ (fn : Nat) (s : State),
  ∃ t : State, exec (.vfReset fn) s = .next t ∧ (∀ w ∈ t.weaves, w.function ≠ fn) ∧ (∀ c ∈ t.crews, c.fn ≠ fn) ∧
    (∀ x ∈ t.threads, x.fn ≠ fn) ∧ (∀ f ∈ t.flights, ∀ w ∈ s.weaves, w.function = fn → f.weave ≠ w.id) ∧
    (∀ l ∈ t.launches, l.fn = fn → l.finished = true ∨ l.aborted = true) ∧
    (∀ w ∈ s.weaves, (∀ x ∈ s.weaves, x.function = fn → x.id ≠ w.id) → ∃ y ∈ t.weaves, y.id = w.id ∧ y.aRegs = w.aRegs ∧
      y.sRegs = w.sRegs ∧ y.vRegs = w.vRegs ∧ y.queues = w.queues ∧ y.split = w.split) ∧
    t.vfMap = s.vfMap ∧ t.aperts = s.aperts ∧ t.regions = s.regions ∧ t.time = s.time ∧ t.coreStates = s.coreStates

/-! ### Waits, landings, data that return -/

/-- Errors found in memory, column spares, and the reset of a virtual function. -/
def Obligations.ErrorsAndResets : Prop := Rules.FoundErrors ∧ Rules.ColumnSpares ∧ Rules.FunctionReset

/-- R44, R170, R181, R56, R204: a wait that its crew does not hold ends when its condition holds, and not before: a strand that waited for
a queue, a port or a launch queue issues its instruction anew, and a barrier, a completion object and a word move it on, with their
acquires, for which no slot may be missing (R153); a word is read as the mode saw it that waits, and that it is read afresh at the wake,
which observes the WAITV's one run, is the model's choice (log 62). -/
def Rules.Wakes : Prop := ∀ (id : WeaveId) (st : Strand) (s : State) (w : Weave) (r : WaitRec),
  s.weave? id = some w → w.waitOf st = some r →
  let run := exec (.waitWake id st) s
  let complete := fun (q n : Nat) => n ≤ (w.queue q).entries.length ∧ ∀ e ∈ (w.queue q).entries.take n, e.complete = true
  let room := fun (q : Nat) => (w.queue q).entries.length < (w.queue q).depth
  let again := run = .next (s.onWeave id fun x => x.endWait st s.time)
  let judged := fun (p : Prop) => (p → again) ∧ (¬p → run = .next s)
  let moved := fun (pc : BitVec 32) => s.onWeave id fun x => (x.endWait st s.time).setPc st pc
  (s.waitHeld w st = true → run = .next s) ∧
  (s.waitHeld w st = false →
    (∀ q n, r.on = .queueHead q n → judged (complete q n)) ∧
    (∀ q, r.on = .queueRoom q → judged (room q)) ∧
    (∀ q n d, r.on = .gather q n d → judged (complete q n ∧ room d)) ∧
    (∀ v q n, r.on = .scatter v q n → judged (complete v 1 ∧ complete q n)) ∧
    (∀ p f, r.on = .portIn p → w.port? p = some f →
      judged (∀ l, l < 96 → (w.act st).getLsbD l = true → f.lane l ≠ [])) ∧
    (∀ p x, r.on = .portOut p → s.partner w p = some x →
      judged (∀ l, l < 96 → (w.act st).getLsbD l = true → s.portRoom x (landsIn p) (targetLane p l) = true)) ∧
    (∀ q, r.on = .launchRoom q → let y := s.launchQueue w.partition q
      judged ((y.tail + 2 ^ 32 - y.head) % 2 ^ 32 < 2 ^ y.size)) ∧
    (r.on = .again → again) ∧
    (∀ o phase, r.on = .barrier o phase → let now := (s.sramByte id.core (s.crewSpad w + o)).getLsbD 0
      (now = phase → run = .next s) ∧
      (now ≠ phase → run = .next (((moved (r.pc + 4)).onWeave id fun x =>
        x.setRec (o / 32) { x.barRec (o / 32) with arrived := false }).acquire id.core .co))) ∧
    (∀ a want target, r.on = .completion a want target → let now := (s.sramByte id.core a).getLsbD 0
      (now ≠ want → run = .next s) ∧
      (now = want → (s.fenceHeld w.partition id.core (s.flipScope id.core a) = true → run = .next s) ∧
        (s.fenceHeld w.partition id.core (s.flipScope id.core a) = false →
          run = .next (((moved target).onWeave id fun x => x.countIssue st).acquire id.core (s.flipScope id.core a))))) ∧
    (r.on = .gang ∨ (∃ n d v p, r.on = .shuffle n d v p) → run = .next s) ∧
    (∀ object o a c d m, r.on = .word object o a c d m →
      let t := s.actAs id st r.pc
      let g : Agent := { t.agentOf w st with sup := decide (m = .supervisor) }
      let q := t.waitvReq w a object (BitVec.ofNat 64 o)
      let seen := t.observeWord g a q
      (∀ u, seen = .ok (u, c) → run = .next s) ∧
      (∀ u, seen = .ok u → t.fenceHeld w.partition id.core a.scope = true → run = .next s) ∧
      (∀ e, seen = .error e → (∀ i, e ≠ .fault i) → run = .next s) ∧
      (∀ i, seen = .error (.fault i) → run = .next ((t.onMe fun y => y.endWait st t.time).vector id st i)) ∧
      ∀ u0 x, seen = .ok (u0, x) → x ≠ c → t.fenceHeld w.partition id.core a.scope = false → let u := u0.waitvRun t g a q
      run = .next ((u.onMe fun y =>
        (((y.endWait st u.time).setPc st (r.pc + 4)).setPhysical st d (x.setWidth 64)).countIssue st).acquire id.core a.scope)))

/-- R204, R383: a wait of a port or an exchange, and a wait for a completion object, that has lasted PWATCH.limit × 64 cc ends
with PORT_WATCH, its mask the lanes whose condition is unmet, or every lane of ACT for an exchange; one of limit 0 never does. -/
def Rules.Watchdogs : Prop := ∀ (id : WeaveId) (st : Strand) (e : Nat) (s : State) (w : Weave) (r : WaitRec),
  s.weave? id = some w →
  let expired := w.pwatch ≠ 0 ∧ r.since + 64 * w.pwatch.toNat ≤ s.time
  let ends := fun (st : Strand) (access port : Nat) (m : LaneMask) =>
    let t := s.actAs id st r.pc
    Host.Outcome.next (φ := Fault) (ρ := Refusal) ((t.onMe fun x => x.endWait st t.time).vector id st
      { t.info w .portWatch access with faulters := m, port := BitVec.ofNat 8 port })
  (w.waitOf st = some r → ∀ a want target, r.on = .completion a want target →
    (expired → s.waitHeld w st = false → exec (.waitWatchdog id st) s = ends st accOther 0 (w.act st)) ∧
    (¬expired ∨ s.waitHeld w st = true → exec (.waitWatchdog id st) s = .next s)) ∧
  (w.waitOf (.c e) = some r →
    let run := exec (.portWatch id e) s
    let act := (w.entry e).mask
    let judged := fun (port : Nat) (unmet : Nat → Prop) => ∃ m : LaneMask,
      (∀ l, l < 96 → (m.getLsbD l = true ↔ act.getLsbD l = true ∧ unmet l)) ∧
      (expired → s.waitHeld w (.c e) = false → m ≠ 0 → run = ends (.c e) accPort port m) ∧
      (¬expired ∨ s.waitHeld w (.c e) = true ∨ m = 0 → run = .next s)
    (∀ p f, r.on = .portIn p → w.port? p = some f → judged (portCode p) fun l => f.lane l = []) ∧
    (∀ p x, r.on = .portOut p → s.partner w p = some x →
      judged (portCode p) fun l => s.portRoom x (landsIn p) (targetLane p l) = false) ∧
    (∀ n d v p, r.on = .shuffle n d v p → (expired → s.waitHeld w (.c e) = false → run = ends (.c e) accPort 0 act) ∧
      (¬expired ∨ s.waitHeld w (.c e) = true → run = .next s)))

/-- Waits end when their condition holds, or by their watchdog. -/
def Obligations.WakesAndWatchdogs : Prop := Rules.Wakes ∧ Rules.Watchdogs

/-- R200, R202, R153: the oldest push in transit toward a FIFO lands: each of its lanes takes its word at its tail, and no other; one that
crosses a die edge stays in transit while no slot names the partition. -/
def Rules.Landings : Prop := ∀ (id : WeaveId) (p : Port) (s : State) (w : Weave), s.weave? id = some w →
  let mine := fun (t : Transit) => t.crew = w.crew ∧ t.index = w.index ∧ t.port = p
  ((∀ t ∈ s.transits, ¬mine t) ∨ (p = .d ∧ s.maySend w.partition = false) → exec (.portEntryLand id p) s = .next s) ∧
  ((p = .d → s.maySend w.partition = true) → ∀ l1 t l2, s.transits = l1 ++ t :: l2 → mine t → (∀ x ∈ l1, ¬mine x) → ∀ f, w.port? p = some f →
    ∃ (u : State) (v : Weave) (g : PortFifo), exec (.portEntryLand id p) s = .next u ∧ u.transits.length + 1 = s.transits.length ∧
      u.weave? id = some v ∧ v.port? p = some g ∧ (∀ q, q ≠ p → v.port? q = w.port? q) ∧ v.queues = w.queues ∧ v.vRegs = w.vRegs ∧
      ∀ l, l < 96 → g.lane l = if t.lanes.getLsbD l then f.lane l ++ [laneAt t.data l] else f.lane l)

/-- R40, R41: where no fragment of the window is ready the window moves to that of the lowest ready fragment, whose entries are read in
from the split area where the weave has one; a fragment parks
at the address of its current join, and the fragments parked there fuse when they own what it expects. That a join made in a handler is
met in the handler's code and one made in the program in the program's, each in its own mode, is the model's reading (log 22). -/
def Rules.SplitEvents : Prop := ∀ (id : WeaveId) (e : Nat) (s : State) (w : Weave), s.weave? id = some w →
  let ready := fun (k : Nat) => k < 128 ∧ (w.entry k).kind = .ready ∧ (w.entry k).done = false
  let inside := fun (k : Nat) => w.splitBase ≤ k ∧ k < w.splitBase + 16
  let becomes := fun (i : Instr) (v : Weave) => ∃ t : State, exec i s = .next t ∧ t.weave? id = some v ∧ t = { s with weaves := t.weaves }
  (w.cMode = .user → (∃ k, ready k ∧ inside k) ∨ (∀ k, ¬ready k) → becomes (.splitWindowSwap id) w) ∧
  (w.cMode = .user → ∀ k, ready k → (∀ n, ready n → ¬inside n ∧ k ≤ n) →
    (s.splitOpen w = false → becomes (.splitWindowSwap id) { w with splitBase := 16 * (k / 16) }) ∧
    let t := s.syncSplit w
    ∃ v : Weave, exec (.splitWindowSwap id) s = .next (t.onWeave id fun _ => v) ∧ v.splitBase = 16 * (k / 16) ∧
      ∀ n, n < 128 → v.entry n = (
        let b := t.objRead w.partition (t.pcb w.partition).contextObject (w.splitPlace n) 32
        if n / 16 = k / 16 ∧ s.splitOpen w = true ∧ b ≠ (w.entry n).word then wordEntry b (w.entry n).wait else w.entry n)) ∧
  let x := w.entry e
  ∀ j, e < 128 → j < 128 → j ≠ e → x.kind = .ready → x.done = false → x.link = some j → (w.entry j).kind = .join →
    let held := s.issueHeld w (.c e) = true ∨ s.maskFlies id (.c e) none = true
    let met := (w.entry j).addr = x.addr ∧ w.supJoins.getLsbD j = decide (w.cMode = .supervisor)
    (held ∨ ¬met → becomes (.fragmentPark id e) w) ∧
    (¬held → met →
      (∀ k, k < 128 → k ≠ e → ¬((w.entry k).kind = .parked ∧ (w.entry k).link = some j)) →
      (x.owned ≠ (w.entry j).owned → becomes (.fragmentPark id e) (w.setEntry e { x with kind := .parked })) ∧
      (x.owned = (w.entry j).owned → ∃ v : Weave, becomes (.fragmentPark id e) v ∧ (v.entry j).kind = .free ∧
        v.entry e = ⟨.ready, (w.entry j).addr, x.owned, x.mask, (w.entry j).link, none, false⟩))

/-- R63, R54, R158, R244, R257: the data of a load arrive whole where no lane of them is poisoned or was outstanding to a port when it
went down, and write its destination or fill the entry it reserved; the coordinator's answer makes its change and writes its result in
one. -/
def Rules.ReturnedData : Prop := ∀ (s : State) (f : Flight),
  s.flights.find? (fun x => x.id = f.id) = some f →
  let t := s.dropFlight f.id
  let arrives := f.bad = 0 ∧ f.lost = 0
  let data := exec (.loadDataReturn f.id) s
  let entry := exec (.queueEntryComplete f.id) s
  (¬arrives → data = .next s ∧ entry = .next s) ∧
  (arrives →
    (∀ d x, f.dest = .scal d x → data = .next (t.onWeave f.weave fun w => w.setPhysical f.strand d x)) ∧
    (∀ d e x y, f.dest = .scal2 d e x y → data = .next (t.onWeave f.weave fun w =>
      (w.setPhysical f.strand d x).setPhysical f.strand e y)) ∧
    (∀ d m v, f.dest = .lanes d m v → data = .next (t.onWeave f.weave fun w => w.setLanes d m (laneAt v))) ∧
    (∀ d op, f.dest = .coord d op → (s.coordHeld f.weave op = true → data = .next s) ∧
      (s.coordHeld f.weave op = false → data = .next (t.answer f.weave f.strand d op))) ∧
    (∀ m, f.dest = .accept m → data = .next s) ∧
    ∀ q n v, f.dest = .queue q n v → entry = .next (t.onWeave f.weave fun w => w.onQueue q fun u =>
      { u with entries := u.entries.map fun e => if e.ticket = n then { e with data := .vector v, complete := true } else e }))

/-- R56, R64, R158, R248, R257, R261, R252: a failure that arrives with the data writes nothing, leaves an entry reserved and incomplete,
and vectors the strand that issued the access, or is kept pending where its crew is halting, has halted or saves; its lanes are those that
failed; it waits for a result that writes the mask of its fragment, and in a weave that has been stopped it reaches no stream. That an
A-stream at its EXIT is vectored all the same, and that the first of several pending faults is the one kept, are the model's readings (log
23). -/
def Rules.FailedData : Prop := ∀ (s : State) (f : Flight) (w : Weave) (c : Crew) (poisoned : Bool) (m : LaneMask),
  s.flights.find? (fun x => x.id = f.id) = some f → s.weave? f.weave = some w → s.crew? w.crew = some c →
  let t := s.dropFlight f.id
  let overdue := fun (p : Nat) => p < 4 ∧ f.certain = false ∧
    f.since + 3300 * ((s.cxl.toList[p]?).map (·.timeout)).getD 0 ≤ s.time
  let run := exec (.dataFailure f.id poisoned m) s
  let due := m ≠ 0 ∧ if poisoned then m = f.bad else ∀ l, l < 96 →
    (m.getLsbD l = true ↔ f.lost.getLsbD l = true ∧ ∃ p, overdue p ∧ (f.lanesOn p).getLsbD l = true)
  let dest : Dest := match (s.pending.find? fun p => p.id = f.id).bind (·.slot) with
    | some (q, n) => .queue q n LaneReg.zero
    | none => f.dest
  let kept := fun (u : State) => u.onWeave f.weave fun x => match dest with
    | .queue q n _ => x.onQueue q fun y => { y with entries := y.entries.map fun e =>
        if e.ticket = n then { e with refill := some f.info.pc } else e }
    | _ => x
  let cause : Cause := if poisoned then .dataUe else .farUnavail
  let pends := c.state = .halting ∨ c.state = .halted ∨ c.state = .saving
  (¬due ∨ s.faultHeld f m = true → run = .next s) ∧
  (due → s.faultHeld f m = false → w.stopped = true → run = .next (kept t)) ∧
  (due → s.faultHeld f m = false → w.stopped = false → ∀ e, f.strand = .c e → (w.entry e).isFragment = true →
    (w.entry e).owned &&& m ≠ 0 →
    ∃ i : FaultInfo, i.cause = cause ∧ i.pc = f.info.pc ∧ i.object = f.info.object ∧ i.place = f.info.place ∧
      (∀ d k v, dest = .lanes d k v → i.faulters = m) ∧ (∀ d x, dest = .scal d x → i.faulters = f.info.faulters) ∧
      (¬pends → run = .next ((kept t).vector f.weave (.c e) i)) ∧
      (pends → run = .next ((kept t).onWeave f.weave fun x => { x with cPend := x.cPend.or (some (e, i)) }))) ∧
  (due → s.faultHeld f m = false → w.stopped = false → f.strand = .a → ∃ i : FaultInfo, i.cause = cause ∧ i.pc = f.info.pc ∧
    (¬pends → run = .next (((kept t).onWeave f.weave fun x => { x with aEnded := false }).vector f.weave .a i)) ∧
    (pends → run = .next ((kept t).onWeave f.weave fun x => { x with aPend := x.aPend.or (some i) })) ∧
    ∀ q n v, dest = .queue q n v → i.faulters = m ∧ i.port.toNat = (w.queue q).indexOf n % 256)

/-! ### Caches and homes -/

/-- Entries that land, fragments that park and fuse, data that return or fail. -/
def Obligations.StreamEvents : Prop := Rules.Landings ∧ Rules.SplitEvents ∧ Rules.ReturnedData ∧ Rules.FailedData

/-- R149, R150, R151, R127, R147, R152: a read joins a fill that is pending, up to twelve waiters, and a thirteenth is answered RETRY and
may come again 32 cc later; one that misses in the home slice starts a fill, which takes a way at once; the directory serves it with E where
it has no entry for the line and with F where it has one, M and E falling to S and the forwarder before it to S, a remote cluster through
the RDC bank of its die, and gives no copy while the line's region retiles; an ownership request ends every other copy but that of the RDC
bank through which a remote cluster owns; a request hashed to a slice that has retired is answered REMAP. That every read from another
cluster gets no copy while an L copy stands, and which core's map a cluster's request is hashed by, are the model's readings (log 41). -/
def Rules.HomeRequests : Prop := ∀ (h : Holder) (line : Nat) (s : State),
  let refused := ∃ c ∈ s.tracked line, c.state = .l ∧ c.holder ≠ h
  let moving := s.lineMoving line = true
  let granted := fun (t : State) (st : LineState) => ∃ c : CacheLine, t.lineAt h line = some c ∧ c.state = st ∧ c.upper = st ∧
    c.dirty = 0 ∧ c.halves = 3 ∧ c.stamp = s.mapGen ∧ ∀ i, i < 128 → c.data[i]? = some (t.memByte (128 * line + i))
  let recorded := fun (t : State) (tr : Option Nat) (st : LineState) => ∃ e : DirEntry, t.dir? tr line = some e ∧ h ∈ e.holders ∧
    e.state = st
  let clean := ∀ c ∈ s.tracked line, c.dirty = 0
  let serves := fun (t : State) => ∀ tr, trackerOf h line = some tr → ∃ st : LineState, (st = .e ∨ st = .f) ∧
    (clean → st = if s.dir? tr line = none then .e else .f) ∧ granted t st ∧ recorded t tr st ∧
    (∀ c ∈ t.tracked line, c.holder ≠ h → c.state ≠ .m ∧ c.state ≠ .e ∧ (trackerOf c.holder line = some tr → c.state ≠ .f)) ∧
    (∀ b, bankOf h line = some b → (t.lineAt b line).isSome = true) ∧ (clean → t.mem = s.mem)
  let room := s.lineHeld line = false ∧ s.occupancy h < s.capacity h ∧ ∀ b, bankOf h line = some b →
    s.occupancy b < s.capacity b ∧ ∀ c, s.lineAt b line = some c → s.lineStale c = false
  let read := exec (.homeReadRequest h line) s
  let own := exec (.homeOwnershipRequest h line) s
  let early := ∃ x ∈ s.homeRetries, x.1 = h ∧ x.2.1 = line ∧ s.time < x.2.2 + 32
  let t0 : State := { s with homeRetries := s.homeRetries.filter fun x => !(x.1 = h && x.2.1 = line) }
  let home : Holder := .slice (homeDie (128 * line)) (s.homeSlice line)
  (s.mayHold h line = false → read = .next s ∧ own = .next s) ∧
  (s.mayHold h line = true → (early → read = .next s) ∧ (¬early → ∀ u, t0.remapHolder h line = some u → read = .next u) ∧
    (¬early → t0.remapHolder h line = none →
      (∀ f, s.fills.find? (fun x => x.line = line) = some f →
        ((∃ y ∈ f.waiters, y.1 = h) → read = .next t0) ∧
        ((∀ y ∈ f.waiters, y.1 ≠ h) → f.waiters.length < 12 → ∃ t, read = .next t ∧ t = { t0 with fills := t.fills } ∧
          t.fills.find? (fun x => x.line = line) = some { f with waiters := f.waiters ++ [(h, false)] }) ∧
        ((∀ y ∈ f.waiters, y.1 ≠ h) → 12 ≤ f.waiters.length →
          read = .next { s with homeRetries := (h, line, s.time) :: t0.homeRetries })) ∧
      ((∀ f ∈ s.fills, f.line ≠ line) →
        (t0.sliceMisses h line = true → ∃ t : State, read = .next t ∧ t.fills = s.fills ++ [⟨line, [(h, false)]⟩] ∧
          (s.occupancy home < s.capacity home → t = { t0 with fills := t.fills, resident := t.resident } ∧
            ∃ x ∈ t.resident, x.die = homeDie (128 * line) ∧ x.slice = s.homeSlice line ∧ x.line = line)) ∧
        (t0.sliceMisses h line = false → (refused ∨ moving ∨ (s.lineAt h line).isSome = true → read = .next t0) ∧
          (¬refused → ¬moving → s.lineAt h line = none → room → ∃ t, read = .next t ∧ serves t)))) ∧
    (∀ f b, s.fills.find? (fun x => x.line = line) = some f → f.waiters = [(h, b)] → ¬refused → ¬moving → s.lineAt h line = none →
      room → ∃ t : State, exec (.sliceFillArrival line) s = .next t ∧ serves t ∧ ∀ x ∈ t.fills, x.line ≠ line) ∧
    (refused ∨ moving ∨ (∃ c, s.lineAt h line = some c ∧ c.state = .l) → own = .next s) ∧
    (¬refused → ¬moving → (s.tracked line).all (fun c => c.state ≠ .l) = true →
      (∀ u, s.remapHolder h line = some u → own = .next u) ∧
      (s.remapHolder h line = none → room → ∃ t, own = .next t ∧ granted t .m ∧
        (∀ tr, trackerOf h line = some tr → t.dir? tr line = some ⟨tr, line, .m, [h], none⟩) ∧
        ∀ c ∈ t.tracked line, c.holder = h ∨ bankOf h line = some c.holder))) ∧
  ((∀ f ∈ s.fills, f.line ≠ line) → exec (.sliceFillArrival line) s = .next s)

/-- R151, R176, R152, R350: a refused access may be asked for again 32 cc after it was refused; a request that was hashed under an
older map and meets a retired slice is counted at its core, which hashes under the current generation from then on. -/
def Rules.Replies : Prop := ∀ (id : WeaveId) (st : Strand) (core die line : Nat) (s : State),
  (∃ t, exec (.retryReissue id st) s = .next t ∧ t = { s with retries := t.retries } ∧ t.retries.length = s.retries.length ∧
    ∀ (k : Nat) (h : k < s.retries.length) (r : RetryRec), r = s.retries[k] → t.retries[k]? =
      some { r with ready := r.ready || decide (r.weave = id ∧ r.strand = st ∧ r.last + 32 ≤ s.time) }) ∧
  let map := s.sliceMaps.toList.getD die SliceMap.reset
  let seen := s.mapSeen core die
  let retired := die = homeDie (128 * line) ∧ seen ≠ map.generation ∧
    ∃ x ∈ map.older, x.1 = seen ∧ sliceIn x.2 line ∉ map.entries
  (s.hasCore core = true → retired → exec (.remapReply core die line) s = .next (s.onCore core fun k =>
    { k with remapCount := k.remapCount + 1, mapsSeen := k.mapsSeen.setIfInBounds die map.generation })) ∧
  (s.hasCore core = false ∨ ¬retired → exec (.remapReply core die line) s = .next s)

/-- R130, R156, R158, R177, R178: a write-back merges the dirty bytes of a line, byte by byte, and leaves it clean; a line of a
port that is down goes to the port's buffer while it has room, and else stays; an L copy ends after 65,536 cc without use, and every L
copy of a line after 4,096 cc of refusals; a walk leaves no older line dirty; a snoop takes one half of a line that is kept coherent
with the host. -/
def Obligations.WriteBacks : Prop := ∀ (h : Holder) (line k : Nat) (s : State) (c : CacheLine), s.lineAt h line = some c →
  let held := ∃ p, portOf (128 * line) = some p ∧ s.portDown p = true
  let outside := isHost (128 * line) = true ∨ (isFar (128 * line) = true ∧ Config.sharedFar (frameOf (128 * line)) = true)
  let merged := fun (t : State) (d : BitVec 128) => s.MemOk → c.tag = none → (∀ x ∈ s.caches, x.line = line → x.holder ≠ h → x.dirty = 0) →
    ∀ a, t.memByte a = if a / 128 = line ∧ d.getLsbD (a % 128) = true then c.data.getD (a % 128) 0 else s.memByte a
  let late : Prop := (∃ r ∈ s.retries, r.line = line ∧ r.since + 4096 ≤ s.time) ∨
    (∃ th ∈ s.threads, ∃ since last, th.refused = some (line, since, last) ∧ since + 4096 ≤ s.time) ∨
    ∃ p ∈ s.pending, ∃ since last, p.refused = some (line, since, last) ∧ since + 4096 ≤ s.time
  let half := 2 * line + k % 2
  let mine := fun (i : Nat) => i / 64 = k % 2
  (c.state = .l ∨ c.dirty = 0 → exec (.writeBackMerge h line) s = .next s) ∧
  (c.state ≠ .l → c.dirty ≠ 0 → ∀ p x, portOf (128 * line) = some p → s.portDown p = true → s.cxl.toList[p]? = some x →
    (4096 ≤ x.buffer.length → exec (.writeBackMerge h line) s = .next s) ∧
    (x.buffer.length < 4096 → ∃ t, exec (.writeBackMerge h line) s = .next t ∧ t.lineAt h line = some { c with dirty := 0 } ∧
      t.cxl.toList[p]? = some { x with buffer := x.buffer ++ [c] } ∧ t.mem = s.mem)) ∧
  (¬held → c.state ≠ .l → ∃ t, exec (.writeBackMerge h line) s = .next t ∧ t.lineAt h line = some { c with dirty := 0 } ∧
    merged t c.dirty) ∧
  (h = .cluster k → let run := exec (.lCopyIdleExpiry k line) s
    (¬held → c.state = .l → c.last + 65536 ≤ s.time → ∃ t, run = .next t ∧ t.lineAt h line = none ∧ merged t c.dirty) ∧
    (c.state ≠ .l ∨ s.time < c.last + 65536 → run = .next s)) ∧
  ((late → ¬held → ∃ t, exec (.lCopyRetryRecall line) s = .next t ∧ ∀ x ∈ t.tracked line, x.state ≠ .l) ∧
    (¬late → exec (.lCopyRetryRecall line) s = .next s)) ∧
  ((∃ i, h = .l1 i ∨ h = .cluster i) → ∃ t, exec (.staleLineWalk h) s = .next t ∧ (∃ x, t.lineAt h line = some x ∧
    (c.stamp ≠ s.mapGen → ¬held → x = { c with dirty := 0 })) ∧ t.mapGen = s.mapGen) ∧
  ((held ∨ ¬outside → exec (.backInvalidateSnoop half) s = .next s) ∧
    (¬held → outside → ∃ t, exec (.backInvalidateSnoop half) s = .next t ∧
      (∀ x ∈ t.caches, x.line = line → x.halves.getLsbD (k % 2) = false) ∧
      (s.caches.filter (fun x => x.line = line) = [c] →
        (∀ d : BitVec 128, (∀ i, i < 128 → (d.getLsbD i = true ↔ c.dirty.getLsbD i = true ∧ mine i)) → merged t d) ∧
        ∀ x, t.lineAt h line = some x → ∀ i, i < 128 → (x.dirty.getLsbD i = true ↔ c.dirty.getLsbD i = true ∧ ¬mine i))))

/-- R131, R158, R255, R256: a bank that sleeps records the counter; one that wakes with the counter more than 16,384 ahead of its
record keeps no line, dirty lines of a port that is down apart; a walk fills both buffers with the fields as they stand at their homes
and with the layout generation of the frame's region. -/
def Rules.BanksAndWalks : Prop := ∀ (h : Holder) (core part object frame : Nat) (s : State),
  ((∀ x ∈ s.sleeping, x.1 ≠ h) → exec (.bankWake h) s = .next s ∧
    exec (.retentionSleepEntry h) s = .next { s with sleeping := (h, s.mapGen) :: s.sleeping }) ∧
  ((∃ x ∈ s.sleeping, x.1 = h) → exec (.retentionSleepEntry h) s = .next s) ∧
  (∀ g, s.sleeping.find? (fun x => x.1 = h) = some (h, g) → ∃ t, exec (.bankWake h) s = .next t ∧ (∀ x ∈ t.sleeping, x.1 ≠ h) ∧
    (16384 < (s.mapGen - g).toNat → (∀ c ∈ s.caches, c.holder = h → s.lineHeld c.line = false) → ∀ c ∈ t.caches, c.holder ≠ h) ∧
    ((s.mapGen - g).toNat ≤ 16384 → t = { s with sleeping := t.sleeping })) ∧
  let walk := exec (.translationWalk core part object frame) s
  (s.objDesc part object = none → walk = .next s) ∧
  ∀ d, s.objDesc part object = some d →
    (d.frames ≤ frame ∨ (s.otbFind core part object (some frame)).isSome = true → walk = .next s) ∧
    (frame < d.frames → s.otbFind core part object (some frame) = none → ∃ (t : State) (e : OtbEntry), walk = .next t ∧
      t = { s with otb := t.otb } ∧ t.otbFind core part object (some frame) = some e ∧ e ∈ t.otb ∧
      { e with owner := .cluster (clusterOf core) } ∈ t.otb ∧ s.objWords part object = some e.words ∧ e.extent = s.extWord d frame ∧
        e.generation = (s.regionOf ⟨part, object, frame / 4⟩ d).generation)

/-! ### Far memory, re-tiling, flips -/

/-- Requests at the homes, replies, banks and translation walks. -/
def Obligations.Homes : Prop := Rules.HomeRequests ∧ Rules.Replies ∧ Rules.BanksAndWalks

/-- R157, R158, R258, R2: a port sets down when its link goes or an access has had no completion within its timeout: every access
outstanding to it is lost, and, unless it was down before, one error record goes to each partition that maps a frame behind it, or to
partition 0 where none does (which partitions are told is the model's reading, log 35); a link that returns replays nothing and leaves down
set; a port that the module does not have does nothing. -/
def Rules.FarPorts : Prop := ∀ (p : Nat) (s : State), p < 4 →
  let overdue := ∃ f ∈ s.flights, f.certain = false ∧ f.lanesOn p ≠ 0 ∧
    f.since + 3300 * ((s.cxl.toList[p]?).map (·.timeout)).getD 0 ≤ s.time
  let parts := distinct ((s.farFrames fun f => f % 4 = p).map (·.1))
  let downs := fun (g : CxlPort → CxlPort) =>
    let t : State := { s.onCxl p g with flights := s.flights.map fun f =>
      if f.certain then f else { f with lost := f.lost ||| f.lanesOn p } }
    if s.portDown p = true then t
    else (if parts = [] then [0] else parts).foldl (fun (u : State) q => u.sendError q
      { code := 0x26, die := p, unit := p, ctx := 0, object := 0, generation := 0, offset := 0 }) t
  let present := s.cxlPorts.getLsbD p = true
  (¬present → exec (.cxlLinkDown p) s = .next s ∧ exec (.farPortTimeout p) s = .next s ∧ exec (.cxlLinkUp p) s = .next s) ∧
  (present → exec (.cxlLinkDown p) s = .next (downs fun c => { c with up := false, down := true }) ∧
    (overdue → exec (.farPortTimeout p) s = .next (downs fun c => { c with down := true })) ∧
    (¬overdue → exec (.farPortTimeout p) s = .next s) ∧
    exec (.cxlLinkUp p) s = .next (s.onCxl p fun c => { c with up := true }))

/-- R159, R146, R1, R2: a granted extent joins the capacity of a port that the module has, as long as the ports together attach no more
than 8 TB; a request for
it back begins its write-back, and is not taken while the port is down (the model's choice, log 35); it is given back once no version
lives in it. -/
def Rules.Extents : Prop := ∀ (p first count : Nat) (s : State) (c : CxlPort), s.cxl.toList[p]? = some c →
  let port := fun (t : State) => (t.cxl.toList[p]?).getD CxlPort.reset
  let inside := fun (line : Nat) => isFar (128 * line) = true ∧ frameOf (128 * line) % 4 = p ∧
    first ≤ frameOf (128 * line) / 4 ∧ frameOf (128 * line) / 4 < first + count
  let total := (s.cxl.toList.map (·.capacity)).sum
  let ack := exec (.extentReleaseAck p first count) s
  (s.cxlPorts.getLsbD p = true → total + count ≤ Config.farFrames → exec (.extentGrant p first count) s = .next (s.onCxl p fun x => { x with
    granted := (first, count) :: x.granted, capacity := x.capacity + count })) ∧
  (s.cxlPorts.getLsbD p = false ∨ Config.farFrames < total + count → exec (.extentGrant p first count) s = .next s) ∧
  ((first, count) ∉ c.granted ∨ (first, count) ∈ c.releasing ∨ c.down = true →
    exec (.extentReleaseRequest p first count) s = .next s) ∧
  ((first, count) ∈ c.granted → (first, count) ∉ c.releasing → c.down = false →
    ∃ t : State, exec (.extentReleaseRequest p first count) s = .next t ∧
      (port t).releasing = (first, count) :: c.releasing ∧ (port t).granted = c.granted ∧
      ∀ h l x, t.lineAt h l = some x → inside l → x.dirty = 0) ∧
  ((first, count) ∉ c.releasing ∨ c.down = true → ack = .next s) ∧
  ((first, count) ∈ c.releasing → c.down = false →
    (∀ m ∈ s.members, ∀ x ∈ m.spilled, codeInExtent p first count x.2 = false) →
    ∃ t : State, ack = .next t ∧ (port t).granted = c.granted.erase (first, count) ∧
      (port t).releasing = c.releasing.erase (first, count) ∧ (port t).capacity = c.capacity - count ∧
      ∀ h l x, t.lineAt h l = some x → inside l → x.dirty = 0)

/-- R159, R108, R109, R258: a forced removal takes the extent away, its lines and the versions in it with it, and withdraws each mapped
frame of it: the frame's entry and its object carry the withdrawn bit from then on. Which partitions are told is the model's reading (log
35); addresses of entries count modulo stacked memory's 2^40 (log 63). -/
def Rules.ForcedRemovals : Prop := ∀ (p first count : Nat) (s : State) (c : CxlPort), s.cxl.toList[p]? = some c →
  let port := fun (t : State) => (t.cxl.toList[p]?).getD CxlPort.reset
  let inside := fun (line : Nat) => isFar (128 * line) = true ∧ frameOf (128 * line) % 4 = p ∧
    first ≤ frameOf (128 * line) / 4 ∧ frameOf (128 * line) / 4 < first + count
  let force := exec (.extentForcedRemoval p first count) s
  ((first, count) ∉ c.granted → force = .next s) ∧
  ((first, count) ∈ c.granted → ∃ t u : State, force = .next t ∧ (port t).granted = c.granted.erase (first, count) ∧
    (port t).releasing = c.releasing.erase (first, count) ∧ (port t).capacity = c.capacity - count ∧
    (∀ x ∈ t.caches, ¬inside x.line) ∧ (∀ x ∈ (port t).buffer, ¬inside x.line) ∧
    (∀ m ∈ u.members, ∀ x ∈ m.spilled, codeInExtent p first count x.2 = false) ∧
    ((∀ m ∈ s.members, ∀ x ∈ m.spilled, codeInExtent p first count x.2 = false) →
      u = { s with caches := u.caches, resident := u.resident, dirs := u.dirs }) ∧
    let hit := s.farFrames (inExtent p first count)
    let parts := distinct (hit.map (·.1))
    t = ((if parts = [] then [0] else parts).foldl (fun (y : State) q => y.sendError q
      { code := 0x25, die := p, unit := p, ctx := 0, object := 0, generation := 0, offset := 0 }) (hit.foldl State.withdraw u)).onCxl p
        fun _ => port t) ∧
  ∀ (n : Nat × Nat × Nat) (d : ObjDesc), s.objDesc n.1 n.2.1 = some d → s.MemOk → s.caches = [] →
    (∀ a b, ((s.pcb n.1).tableBase + 64 * n.2.1) % 2 ^ 40 ≤ a → a < ((s.pcb n.1).tableBase + 64 * n.2.1) % 2 ^ 40 + 64 →
      (d.list + 8 * n.2.2) % 2 ^ 40 ≤ b → b < (d.list + 8 * n.2.2) % 2 ^ 40 + 8 → a ≠ b) →
    (s.withdraw n).objDesc n.1 n.2.1 = some { d with withdrawn := true } ∧
      extWithdrawn ((s.withdraw n).extWord d n.2.2) = true

/-- CXL ports and extents. -/
def Obligations.FarMemory : Prop := Rules.FarPorts ∧ Rules.Extents ∧ Rules.ForcedRemovals

/-- R122, R123: the candidate layout of a region has the lowest score over its families, ties going to the current layout and
then to the lower code; the compromise of a contest is the largest eligible square tile of order 0, else row-major. -/
def Rules.LayoutScores : Prop := ∀ (d : ObjDesc) (k current : Nat) (fs : List Family),
  let b := bestOf d k current fs
  (b = current ∨ (b < 64 ∧ d.eligible k b = true)) ∧ scoreOf d k fs b ≤ scoreOf d k fs current ∧
  (scoreOf d k fs b = scoreOf d k fs current → b = current) ∧
  (∀ c, c < 64 → d.eligible k c = true → scoreOf d k fs b ≤ scoreOf d k fs c ∧
    (scoreOf d k fs c = scoreOf d k fs b → b = current ∨ b ≤ c)) ∧
  (∀ c, c = compromise d k → (c = 0x0E ∨ c = 0x0A ∨ c = 0x06 ∨ c = 0x02 → d.eligible k c = true) ∧
    (c = 0x0E ∨ c = 0x0A ∨ c = 0x06 ∨ c = 0x02 ∨ c = 0) ∧
    ∀ x, x = 0x0E ∨ x = 0x0A ∨ x = 0x06 ∨ x = 0x02 → d.eligible k x = true → x ≤ c)

/-- R121, R123, R124, R137: a window ends once TIME has reached its end, and not before; then the budget lapses, each region that is kept or
tracked has its turn, in that order, which is the model's choice (log 39), and the monitors of the regions that can move start afresh. -/
def Rules.WindowEnds : Prop := ∀ s : State,
  let t : State := { s with window := s.window + 1, claimed := 0 }
  let fresh := (s.tracks.filter fun x => s.regions.all fun r => r.id ≠ x.region).filterMap fun x =>
    (t.objDesc x.region.part x.region.object).map fun d => t.newRegion x.region d
  let u := (s.regions ++ fresh).foldl State.windowRegion t
  (s.time < 3300 * (s.window + 1) → exec .monitorWindowEnd s = .next s) ∧
  (3300 * (s.window + 1) ≤ s.time → ∃ ts : List Track, exec .monitorWindowEnd s = .next { u with tracks := ts } ∧
    ∀ x, x ∈ ts ↔ ∃ y ∈ u.tracks, x = { y with total := 0, families := [] } ∧
      ∃ d, u.objDesc y.region.part y.region.object = some d ∧ u.movable d y.region.region = true)

/-- R123, R124: a region's turn at the end of a window. A stable region that is tracked and can move counts the windows in which one best
candidate has scored at most 70 percent of its layout, and those in which two families of 25 percent each have had differing best
candidates; the fourth begins a contest, or asks for a change where 64 windows have passed since the last. Without a monitor the streaks are
zero. A contest ends after 1,024 windows. A change that waits, and a contest whose target is not the layout, start where the region may
move, has rested eight windows (64 for a contest), is within the budget, has no L copy and no side-tag, and finds its frames. That the
contest begins where both conditions hold is the model's reading (log 39). -/
def Rules.RegionTurns : Prop := ∀ (s : State) (r : Region) (d : ObjDesc), s.objDesc r.id.part r.id.object = some d →
  let k := r.id.region
  let turn := s.windowRegion r
  let rested := fun (n : Nat) => ∀ m, r.lastChange = some m → n ≤ s.window - m
  let still : Region := { r with streak := none, rivals := [] }
  let fs := (d.regionFrames k).map fun f => extFrame (s.extWord d f)
  let may := s.movable d k = true ∧ rested 8 ∧ s.regionHeld r.id d = false ∧
    s.claimed + 524288 ≤ 1088000 * popBits 512 s.channels.toNat / 512
  let starts := fun (x : Region) (code : Nat) (pin : Bool) =>
    (x.state = .retiling ∨ ¬may ∨ (s.setRegion x).takeSites r.id.part fs = none → turn = s.setRegion x) ∧
    (x.state ≠ .retiling → may → ∀ u new, (s.setRegion x).takeSites r.id.part fs = some (u, new) → ∃ y : Region,
      turn.region? r.id = some y ∧ y.state = .retiling ∧ y.from' = x.state ∧ y.target = code ∧ y.newFrames = new ∧ y.done = 0 ∧
      y.layout = x.layout ∧ y.generation = x.generation ∧ y.request = none ∧ y.contest = x.contest ∧
      y.pinPending = (if pin then some code else x.pinPending) ∧ turn.claimed = u.claimed + 524288 ∧ turn.mem = u.mem)
  let becomes := fun (x : Region) =>
    let waits := x.request = none ∧ ¬(x.state = .contested ∧ ∃ c, x.contest = some c ∧ c ≠ x.layout ∧ rested 64)
    (waits → turn = s.setRegion x) ∧ (∀ code pin, x.request = some (code, pin) → starts x code pin) ∧
    ∀ c, x.request = none → x.state = .contested → x.contest = some c → c ≠ x.layout → rested 64 → starts x c false
  let tracked := fun (t : Track) => s.tracks.find? (fun x => x.region = r.id) = some t
  (r.state = .stable → (∀ t, tracked t → s.movable d k = false) → becomes still) ∧
  (∀ t, r.state = .stable → tracked t → s.movable d k = true →
    let best := bestOf d k r.layout t.families
    let gains := best ≠ r.layout ∧ 10 * scoreOf d k t.families best ≤ 7 * scoreOf d k t.families r.layout
    let big := fun (f : Family) => f ∈ t.families ∧ t.total ≠ 0 ∧ t.total ≤ 4 * f.bytes
    ∃ (streak : Option (Nat × Nat)) (rivals : List ((Int × Int) × Nat)),
      (¬gains → streak = none) ∧
      (gains → ∃ n, streak = some (best, n) ∧ ∀ c m, r.streak = some (c, m) → n = if c = best then m + 1 else 1) ∧
      (gains → r.streak = none → streak = some (best, 1)) ∧
      (∀ x, x ∈ rivals ↔ ∃ f g : Family, big f ∧ big g ∧ f.stride < g.stride ∧ bestOf d k r.layout [f] ≠ bestOf d k r.layout [g] ∧
        x = ((f.stride, g.stride), ((r.rivals.find? fun y => y.1 = (f.stride, g.stride)).map (·.2)).getD 0 + 1)) ∧
      let contest := ∃ x ∈ rivals, 4 ≤ x.2
      (contest → becomes { r with
        state := .contested, target := compromise d k, contest := some (compromise d k), contestSince := s.window, rivals := []
        streak := if r.request.isSome then r.streak else none }) ∧
      (¬contest → r.request.isSome = true → becomes { r with rivals }) ∧
      (¬contest → r.request = none →
        let due := ∃ n, streak = some (best, n) ∧ 4 ≤ n ∧ rested 64
        (due → becomes { r with streak, rivals, request := some (best, false) }) ∧ (¬due → becomes { r with streak, rivals }))) ∧
  (r.state = .contested → (1024 ≤ s.window - r.contestSince →
      becomes { still with state := .stable, contest := none, target := r.layout }) ∧
    (s.window - r.contestSince < 1024 → becomes r)) ∧
  (r.state = .retiling ∨ r.state = .pinned → becomes still)

/-- R125, R126, R128, R129, R120: the next section of a retiling region is copied, every element keeping its value at its new
place, and, which is the model's reading of R125 and R126 (log 40), is busy until it is let go; with the last section the layout, the
generation and the counter of changes move on, and a contest whose compromise completed lasts anew. -/
def Rules.SectionCopies : Prop := ∀ (id : RegionId) (s : State) (r : Region) (d : ObjDesc),
  s.region? id = some r → s.objDesc id.part id.object = some d →
  let run := exec (.sectionCopy id) s
  let n := sectionCount d id.region
  (r.state ≠ .retiling → run = .next s) ∧
  (∀ sec, r.state = .retiling → sec < n → n ≤ 64 → r.done.getLsbD sec = false → (∀ k, k < sec → r.done.getLsbD k = true) →
    ∃ (t : State) (r' : Region), run = .next t ∧
      r' = { r with done := r'.done, busy := none } ∧ (∀ k, k < 64 → (r'.done.getLsbD k = true ↔ r.done.getLsbD k = true ∨ k = sec)) ∧
      (sec + 1 ≠ n → t.region? id = some { r' with busy := some sec } ∧
        let places := fun (x : Region) (e : Nat) => (s.setRegion x).elemPlaces none id.part id.object d (id.region * d.regionElems + e)
        let moves := fun (e : Nat) => e < d.elemsOf id.region ∧ sectionOf d e = sec
        let old := places { r with busy := none }
        let new := places r'
        s.MemOk → s.caches = [] → s.poison = [] →
        (∀ e, moves e → (old e).map (·.half.isSome) = (new e).map (·.half.isSome)) →
        (∀ e f, moves e → moves f → ∀ x ∈ old e, ∀ y ∈ new f, x.home ≠ y.home) →
        (∀ e f, moves e → moves f → ∀ x ∈ new e, ∀ y ∈ new f, x.half.isSome = y.half.isSome ∧
          (e ≠ f → (x.home, x.half) ≠ (y.home, y.half))) →
        (∀ e, moves e → ((new e).map fun x => (x.home, x.half)).Nodup) →
        ∀ e, moves e → t.homeNat (new e) = s.homeNat (old e)) ∧
      (sec + 1 = n → t.changesDone = s.changesDone + 1 ∧ t.mapGen = s.mapGen + 1 ∧ ∃ x, t.region? id = some x ∧
        x.layout = r.target ∧ x.previous = r.layout ∧ x.generation = t.mapGen ∧ x.done = 0 ∧ x.busy = none ∧ x.newFrames = [] ∧
        x.lastChange = some s.window ∧ (x.state = if r.pinPending.isSome then .pinned else r.from') ∧
        x.contest = (if r.pinPending.isSome then none else r.contest) ∧ x.target = x.contest.getD r.target ∧
        x.contestSince = if r.from' = .contested ∧ r.contest = some r.target then s.window else r.contestSince)) ∧
  exec (.busySectionRelease id) s = .next (s.setRegion { r with busy := none })

/-- The choice of a layout, the end of a window, and the copy of a section. -/
def Obligations.Retiling : Prop := Rules.LayoutScores ∧ Rules.WindowEnds ∧ Rules.RegionTurns ∧ Rules.SectionCopies

/-- R185, R187, R189: a flip, or a home's query, makes the open version of a committed generation current and the old current
the retained one; the open version of an aborted generation is discarded; one that is neither stays open. -/
def Rules.Flips : Prop := ∀ (part handle object line : Nat) (s : State) (m : MemberLine) (v : Version) (b : Bundle),
  ∀ i, i = .bundleFlip part handle object line ∨ i = .coordinatorQuery part handle object line →
  (s.member? part object line = none → exec i s = .next s) ∧
  (s.member? part object line = some m →
    (m.handle ≠ handle ∨ m.openV = none → exec i s = .next s) ∧
    (m.handle = handle → m.openV = some v → s.bundle? part handle = some b →
      let becomes := fun (x : MemberLine) => ∃ t : State, exec i s = .next t ∧ t.member? part object line = some x
      (v.generation ∈ b.aborted → becomes { m with openV := none }) ∧
      (v.generation ∉ b.aborted → b.committed < v.generation → exec i s = .next s) ∧
      (v.generation ∉ b.aborted → v.generation ≤ b.committed → s.caches = [] →
        becomes { m with
          current := v.generation, openV := none
          retained := some ⟨m.current, s.currentBytes m, s.badPlaces (s.logicalPlaces part object line)⟩ } ∧
        (s.MemOk → ∀ ps, ps = s.logicalPlaces part object line → ps.length = 128 → (∀ x ∈ ps, x.half = none) →
          (ps.map (·.home)).Nodup → v.data.length = 128 → ∃ t : State, exec i s = .next t ∧ leBytes 128 (t.homeNat ps) = v.data))))

/-! ### Encodings and the step -/

/-- BCLOSE, BABORT, commits and flips. -/
def Obligations.BundleClosing : Prop := Rules.BundleClosing ∧ Rules.Flips

/-- R89 to R104: every member's word decodes to the member with every operand at every value that its fields hold, bit 0 of
its first halfword gives its length, and it is read back from the bytes that code stores, whatever follows them. -/
def Rules.EncodeThenDecode : Prop := ∀ (i : Instr) (x : InstrWord) (rest : List Byte), encode i = some x →
  x.decode = .instr i ∧ (x.lengthBit = true ↔ x.bytes = 4) ∧ decodeBytes (x.toBytes ++ rest) = .ok (i, rest)

/-- R89, R105: no two words decode to one member, and a byte sequence that decodes to a member begins with that member's word:
no bit of a word is ignored. -/
def Rules.DecodeThenEncode : Prop := ∀ (x y : InstrWord) (i : Instr) (bs rest : List Byte),
  (x.decode = .instr i → encode i = some x) ∧ (x.decode = .instr i → y.decode = .instr i → x = y) ∧
  (decodeBytes bs = .ok (i, rest) → ∃ z, encode i = some z ∧ bs = z.toBytes ++ rest)

/-- Decoding and encoding agree for every member, bit for bit. -/
def Obligations.EncodingRoundTrip : Prop := Rules.EncodeThenDecode ∧ Rules.DecodeThenEncode

/-- The spec's own encodings of some members, and a word of major 0. -/
def Obligations.DecodedWords : Prop :=
  (InstrWord.long 0x0000A743).decode = .instr (.add 0 10 29) ∧
  (InstrWord.long 0x0004C305).decode = .instr (.addi 1 12 12) ∧
  (InstrWord.long 0x20185107).decode = .instr (.sel 6 5 4) ∧
  (InstrWord.long 0x80000013).decode = .instr .brk ∧
  (InstrWord.long 0x20000013).decode = .instr .exit ∧ (InstrWord.long 0x70000013).decode = .instr .rte ∧
  (InstrWord.long 0x60100013).decode = .instr (.trap 0x100) ∧ (InstrWord.short 0x1D00).decode = .instr (.vaddN 3 40) ∧
  (InstrWord.long 1).decode = .unassigned

/-- R13, R40, R41, R43, R63, R89, R90, R99, R105, R153, R245: a turn that the rotation gives to a stream of a weave, every slot before it
having nothing to issue, fetches the word at the PC of the first of its strands that can issue, and takes the step that exec takes for
the member it decodes to, the prefix's attributes with it, once the scoreboard, the pipe that it needs and a slot of its partition let it;
a word that decodes to none faults. What a step adds after that is
`endStep` (Rules.Turns). -/
def Rules.StepRunsDecoded : Prop :=
  ∀ (s : State) (id : WeaveId) (sm : Stream) (turns : List Turn) (w : Weave) (p1 p2 : List Nat) (l1 l2 : List Strand) (st : Strand),
  let r0 := s.tickOver
  s.schedule = .issue id sm :: turns → slotOrder (r0.lastSlot id.core sm) = p1 ++ id.slot :: p2 →
  (∀ k ∈ p1, r0.grantSlot ⟨id.core, k⟩ sm = none) → r0.weave? id = some w → w.strands sm = l1 ++ st :: l2 →
  let r := r0.noteSlot id sm
  (∀ x ∈ l1, r.tryStrand w x = none) → r.mayIssue w st = true → (∀ e, st = .c e → w.atJoin e = false) →
  r.fetchHeld w st (w.pc st).toNat = false →
  let v := w.noteIssue st
  let at' := fun (n : Nat) => (r.onWeave id fun y => y.noteIssue st).atIssue w st n
  let word := r.fetch w st (w.pc st).toNat
  let stops := fun (n : Nat) (f : State → FaultInfo) => step s = s.endStep (.next ((at' n).vector id st (f (at' n))))
  let free := fun (t : State) (i : Instr) => t.decodeFault i v ≠ none ∨ (t.scoreboarded v st i = false ∧
    t.pipeBusy id st i = false ∧ (i.asksHome = true → t.maySend w.partition = true))
  (∀ c, word = .error c → stops 4 fun t => t.fetchInfo w c (w.pc st).toNat) ∧
  ∀ x, word = .ok x →
    (st = .a → x.bytes = 2 → stops 2 fun t => t.info w .illegal accOther) ∧
    ((st = .a → x.bytes = 4) →
      (x.decode = .unassigned → stops x.bytes fun t => t.info v .illegal accOther) ∧
      (∀ i, x.decode = .reserved i → (∀ a b c d e f, i ≠ .prefixWord a b c d e f) →
        stops x.bytes fun t => t.infoOf i v (reservedFault i v st) accOther) ∧
      ∀ i, x.decode = .instr i →
        ((∀ a b c d e f, i ≠ .prefixWord a b c d e f) →
          (free (at' x.bytes) i → step s = s.endStep (exec i ((at' x.bytes).notePipe id st i)))) ∧
        ∀ u a, (∃ a b c d e f, i = .prefixWord a b c d e f) → exec i (at' x.bytes) = .next u → u.cur.attrs = some a →
          ∀ y j, u.fetchHeld w st ((w.pc st).toNat + 4) = false → u.fetch w st ((w.pc st).toNat + 4) = .ok y → y.decode = .instr j →
            (∀ a b c d e f, j ≠ .prefixWord a b c d e f) → free u j →
            step s = s.endStep (exec j (u.notePipe id st j)))

/-- R16, R137, R40, R91 and log 4: what a turn of the schedule is: an event's own effect once time has gone by, the effect of an
instruction whose access was left for later (R162, log 6), with its weave as it stood and no sooner than 32 cc after a line refused it
(R176), the passing of time, or
nothing where the turn cannot be taken. Every step takes one turn off the schedule. TIME counts from stage 2, and every window that it
passes ends. At its end a step writes the split entries that live in memory and keeps what code held; where no such entry has changed,
it changes nothing else. -/
def Rules.Turns : Prop := ∀ (s t : State) (turns : List Turn) (i : Instr) (n : Nat) (id : WeaveId) (sm : Stream),
  let cc := fun (u : Turn) => match u with
    | .pass k => k
    | _ => Config.stepCycles s.tick
  (s.schedule = .event i :: turns → (i.isEvent = true → step s = s.endStep (exec i s.tickOver)) ∧
    (i.isEvent = false → step s = s.endStep (.next s.tickOver))) ∧
  (s.schedule = .pass n :: turns → step s = s.endStep (.next s.tickOver)) ∧
  (s.schedule = .issue id sm :: turns → (s.tickOver.weave? id = none → step s = s.endStep (.next s.tickOver)) ∧
    ∀ k r, s.tickOver.pick id.core sm = some (k, r) → k ≠ id.slot → step s = s.endStep (.next s.tickOver)) ∧
  (s.schedule = .perform n :: turns →
    ((∀ p ∈ s.tickOver.pending, p.id ≠ n) → step s = s.endStep (.next s.tickOver)) ∧
    ∀ p, s.tickOver.pending.find? (fun p => p.id = n) = some p →
      let early := ∃ line since last, p.refused = some (line, since, last) ∧ s.tickOver.time < last + 32
      (early → step s = s.endStep (.next s.tickOver)) ∧ (¬early → (s.tickOver.weave? p.issuer.weave).isSome = true →
      step s = s.endStep (exec p.instr
        { s.tickOver with cur := { p.issuer with moment := .due p.id p.since p.weave } }))) ∧
  s.tickOver.schedule = s.schedule.tail ∧ s.tickOver.tick = s.tick + 1 ∧
  (∀ u, s.schedule = u :: turns → s.tickOver.time = if 2 ≤ s.stage.getD 0 then s.time + cc u else s.time) ∧
  (s.regions = [] → s.tracks = [] → s.tickOver = { s with
    schedule := s.schedule.tail, tick := s.tick + 1, time := s.tickOver.time, window := s.tickOver.window
    claimed := s.tickOver.claimed, cur := { s.cur with moment := .now } }) ∧
  (2 ≤ s.stage.getD 0 → s.time < 3300 * (s.window + 1) → s.tickOver.time < 3300 * (s.tickOver.window + 1)) ∧
  ((∀ w ∈ t.weaves, w.saved = true ∨ w.restored = true ∨ t.splitOpen w = false ∨
      w.splitDirty ((s.weave? w.id).filter fun v => v.crew = w.crew && !v.restored) = []) →
    ∃ c, s.endStep (.next t) = .next { t with codeWas := c })

/-! ### Faults -/

/-- A step runs the decoded instruction, and a turn's event. -/
def Obligations.StepRunsDecoded : Prop := Rules.StepRunsDecoded ∧ Rules.Turns

/-- R105 steps 6 to 9, R93, R246, R248: the first check that an instruction fails decides its fault, which has no other effect; its
record names the instruction and its engine, and its mask is ACT in the C-stream and zero in the A-stream. -/
def Rules.ChecksInOrder : Prop := ∀ (i : Instr) (s : State) (w : Weave), s.weave? s.cur.weave = some w →
  i.isEvent = false → (∀ a b c d e f, i ≠ .prefixWord a b c d e f) → s.cur.moment = .now →
  let st := s.cur.strand
  let legal := i.streams.allows st.stream = true
  let allowed := i.supervisorOnly = false ∨ w.mode st = .supervisor
  let formed := i.wellFormed st.stream = true ∧ s.codesSuit i w = true
  let bound := (i.operands st.stream).all (Opnd.inBound w.nregs) = true
  let faults := fun (c : Cause) => ∃ f : FaultInfo, exec i s = .next (s.vector s.cur.weave st f) ∧ f.cause = c ∧ f.pc = s.cur.pc ∧
    f.object = 0 ∧ f.generation = 0 ∧ f.place = 0 ∧ f.engine = i.engineKind ∧ (st = .a → f.faulters = 0) ∧
    ∀ e, st = .c e → f.faulters = (w.entry e).mask
  (¬legal → faults .stream) ∧ (legal → ¬allowed → faults .priv) ∧ (legal → allowed → ¬formed → faults .illegal) ∧
  (legal → allowed → formed → ¬bound → faults .regBound) ∧ (s.Ready i w ↔ legal ∧ allowed ∧ formed ∧ bound)

/-- The checks of a word in order, and prefixes. -/
def Obligations.DecodeChecks : Prop := Rules.ChecksInOrder ∧ Rules.Prefixes

/-- R102, R229, R246, R248, R249, R250, R251: a fault in user mode writes the 64-byte record of its stream, and its stream alone
enters supervisor mode at the slot of the cause, its arrival at a gang latch withdrawn; its registers, the other stream and the rest of
memory are as before. -/
def Rules.FaultEntry : Prop := ∀ (s : State) (id : WeaveId) (st : Strand) (w : Weave) (f : FaultInfo),
  s.weave? id = some w → w.mode st = .user → st.inTable = true → w.fltrec.toNat + 128 ≤ 0x82000 → f.access < 16 → f.engine < 16 →
  let n := Strand.number st
  let t := s.vector id st f
  let at' := w.fltrec.toNat + 64 * n
  let field := fun (lo width : Nat) => t.sramRead id.core at' 64 / 2 ^ lo % 2 ^ width
  ∃ v : Weave, t.weave? id = some v ∧ v.mode st = .supervisor ∧
    (v.pc st).toNat = (w.hndlr.toNat % 2 ^ 32 / 2 * 2 + 2048 * n + 64 * f.cause.code) % 2 ^ 32 ∧
    field 0 8 = f.cause.code ∧ field 8 1 = n ∧ field 12 4 = f.access ∧ field 16 4 = f.engine ∧ field 32 32 = f.pc.toNat ∧
    field 64 32 = f.object.toNat ∧ field 96 32 = f.generation.toNat ∧ field 128 128 = f.place.toNat ∧
    field 256 96 = f.faulters.toNat ∧ field 352 96 = (w.act st).toNat ∧ (∀ e, st = .c e → field 448 8 = e) ∧
    field 456 8 = f.port.toNat ∧
    (∀ core y, y < 0x82000 → core ≠ id.core ∨ y < at' ∨ at' + 64 ≤ y → t.sramByte core y = s.sramByte core y) ∧
    t = { s with weaves := t.weaves, crews := t.crews, spad := t.spad, store := t.store, poison := t.poison } ∧
    t.crews = s.crews.map (fun c => { c with latch := c.latch.filter fun a => !(a.weave = id && st = .c a.entry) }) ∧
    (∀ x, x ≠ id → t.weave? x = s.weave? x) ∧ v.aRegs = w.aRegs ∧ v.sRegs = w.sRegs ∧ v.vRegs = w.vRegs ∧ v.pRegs = w.pRegs ∧
    v.aBank = w.aBank ∧ v.sBank = w.sBank ∧ v.queues = w.queues ∧ v.ports = w.ports ∧
    (st = .a → v.split = w.split ∧ v.cMode = w.cMode ∧ v.fltm = w.fltm ∧ v.aWait = none) ∧
    ∀ e, st = .c e → v.aPc = w.aPc ∧ v.aMode = w.aMode ∧ v.aWait = w.aWait ∧ v.fltm = f.faulters ∧ v.cHand = e ∧
      v.entry e = { w.entry e with addr := v.pc st, kind := .ready, wait := none } ∧ ∀ k, k ≠ e → v.entry k = w.entry k

/-- R253, R252, R31, R258: a fault in supervisor mode ends its weave, every fragment of both streams with it; its launch's
status carries bit 27 from then on, and one error record with code 0x21 is sent. -/
def Rules.DoubleFaults : Prop := ∀ (s : State) (id : WeaveId) (st : Strand) (w : Weave) (f : FaultInfo),
  s.weave? id = some w → w.mode st = .supervisor → w.saved = false →
  let object := f.object.toNat
  let generation := f.generation.toNat
  let offset := f.linear.getD f.place.toNat % 2 ^ 48
  ∃ t v, s.vector id st f = t.sendError w.partition
      { code := 0x21, die := id.core / 96, unit := id.core, ctx := w.ctxid.toNat, object, generation, offset } ∧
    t.weave? id = some v ∧ v.aEnded = true ∧ v.stopped = true ∧ v.aWait = none ∧ (∀ e, v.entry e = ⟨.free, 0, 0, 0, none, none, false⟩) ∧
    (∀ x, x ≠ id → t.weave? x = s.weave? x) ∧ v.aRegs = w.aRegs ∧ v.vRegs = w.vRegs ∧
    (∀ c, s.crew? w.crew = some c → ∀ l ∈ t.launches, l.id = c.launch → l.faulted = true) ∧
    SameMemory s t ∧ t.threads = s.threads ∧ t.flights = s.flights

/-- R367: TRAP vectors its stream with the record PC of the word after it and its code in the generation field. R304: BRK does so
with its own PC and 0x1000. Neither has another effect. -/
def Rules.Traps : Prop := ∀ (c : BitVec 12) (s : State) (w : Weave),
  let takes := fun (i : Instr) (pc : BitVec 32) (code : Nat) => s.Ready i w →
    exec i s = .next (s.vector s.cur.weave s.cur.strand
      { cause := .trap, access := accOther, engine := 0, pc := pc, object := 0, generation := BitVec.ofNat 32 code, place := 0,
        faulters := w.act s.cur.strand, port := 0 })
  takes (.trap c) (s.cur.pc + 4) c.toNat ∧ takes .brk s.cur.pc 0x1000

/-- R252, R356: RTE returns its stream to user mode at the record's PC, with the entry mask within the owned lanes; a record of
a pre-emption or a restore faults ILLEGAL, and one whose PC has bit 0 set faults ALIGN; in user mode it faults PRIV. -/
def Rules.Returns : Prop := ∀ (s : State) (w : Weave),
  let st := s.cur.strand
  let record := s.sramRead w.id.core (w.fltrec.toNat + 64 * Strand.number st) 64
  let field := fun (lo width : Nat) => record / 2 ^ lo % 2 ^ width
  let cause := field 0 8
  let faults := fun (c : Cause) => exec .rte s = .next (s.vector s.cur.weave st (s.info w c accOther))
  (s.weave? s.cur.weave = some w → w.mode st = .user → s.cur.moment = .now → faults .priv) ∧
  (s.Ready .rte w → st.inTable = true →
    w.mode st = .supervisor ∧ (cause = 0x00 ∨ cause = 0xFF → faults .illegal) ∧
    (cause ≠ 0x00 → cause ≠ 0xFF → field 32 1 = 1 → faults .align) ∧
    (cause ≠ 0x00 → cause ≠ 0xFF → field 32 1 = 0 → ∃ (t : State) (v : Weave), exec .rte s = .next t ∧
      t.weave? s.cur.weave = some v ∧ v.mode st = .user ∧ v.pc st = BitVec.ofNat 32 (field 32 32) ∧ v.fltm = w.fltm ∧
      v.aRegs = w.aRegs ∧ v.sRegs = w.sRegs ∧ v.vRegs = w.vRegs ∧ v.pRegs = w.pRegs ∧ SameOthers s t ∧ SameElse s t ∧
      SameMemory s t ∧ (st = .a → v.split = w.split ∧ v.cMode = w.cMode) ∧
      ∀ e, st = .c e → v.aMode = w.aMode ∧ v.aPc = w.aPc ∧
        v.entry e = { w.entry e with addr := v.pc st, mask := BitVec.ofNat 96 (field 352 96) &&& (w.entry e).owned } ∧
        ∀ k, k ≠ e → v.entry k = w.entry k))

/-! ### Frames, reset, the memories' form -/

/-- Taking a fault, the double fault, TRAP, BRK and RTE. -/
def Obligations.FaultsAndReturns : Prop := Rules.FaultEntry ∧ Rules.DoubleFaults ∧ Rules.Traps ∧ Rules.Returns

/-- R47, R50, R251, R42, R73: what a member that writes one scalar register or one lane register leaves: every other register, every
weave but its own, and every byte of memory; its PC moves past it. EM is part of its fragment's mask. -/
def Obligations.RegisterFrames : Prop := ∀ (i : Instr) (d : RegField) (s : State) (w : Weave),
  s.Ready i w → s.cur.strand.inTable = true →
  let st := s.cur.strand
  (i.scalarDest = some d → ∃ t v, exec i s = .next t ∧ s.WritesOnly t v ∧ w.sameButScalars v ∧
    (∀ x k, (x.stream ≠ st.stream ∨ (k ≠ d.toNat ∧ (x = st ∨ k < 29))) → v.scal x k = w.scal x k) ∧
    (w.mode st = .user → v.aBank = w.aBank ∧ v.sBank = w.sBank) ∧
    (st = .a ∨ d.toNat < 29 → Weave.sameEntries st w v) ∧
    ∀ e, { v.entry e with addr := (w.entry e).addr, mask := (w.entry e).mask } = w.entry e ∧ (st ≠ .c e → v.entry e = w.entry e)) ∧
  (i.laneDest = some d → ∃ t v, exec i s = .next t ∧ s.WritesOnly t v ∧ w.sameButLanes v ∧ Weave.sameEntries st w v ∧
    (∀ k l, (k ≠ d.toNat ∨ (w.act st).getLsbD l = false) → laneAt (v.lane k) l = laneAt (w.lane k) l) ∧
    ∀ l (h : l < 96), (w.act st).getLsbD l = false → v.gens[l] = w.gens[l])

/-- R141, R153, R157, R259, R267, R269, R270, R271, R272: what the registers of the module hold after reset. That no stage is reached, that
the caches are empty, and that the map generation and the owners of the launch queues are 0, is the model's choice where no rule gives a
value (log 1). -/
def Obligations.ResetValues : Prop :=
  let s := State.reset
  s.stage = none ∧ s.mapGen = 0 ∧ s.weaves = [] ∧ s.crews = [] ∧ s.bundles = [] ∧ s.caches = [] ∧
  (∀ k, k < 384 → ∃ c, s.coreStates.toList[k]? = some c ∧ c.units = 0 ∧ c.active = 0 ∧ c.preqAsked = 0 ∧
    c.preqSaved = 0) ∧
  (∀ i, i < 64 → s.scheduleEntries.toList[i]? = some (if i = 63 then 0x20 else 0)) ∧
  (∀ p, p < 4 → ∃ c, s.cxl.toList[p]? = some c ∧ c.timeout = 10000 ∧ c.down = false) ∧
  (∀ p, p < 16 → (s.pcb p).lim0 = 0 ∧ (s.pcb p).lim1 = 0 ∧
    ∀ q, q < 16 → s.launchQueue p q = { enable := false, device := false, priority := 0, size := 4, ring := 0, tail := 0, head := 0, owner := 0 }) ∧
  (∀ f, f < 256 → s.aperts.toList[f]? = some 0) ∧ (∀ k, k < 8 → s.slots.toList[k]? = some 0) ∧ s.MemOk

/-- Every step keeps the canonical form of the four memories: equal memories are equal lists. -/
def Obligations.StepKeepsMemoryForm : Prop := ∀ s t : State, s.MemOk → step s = .next t → t.MemOk

/-- Log 4: every state has a next state: no instruction and no event stops the machine. -/
def Obligations.StepAnswers : Prop := ∀ s : State, ∃ t, step s = .next t
end

