-- ==== Sys2Proof/Laws/State.lean ====
section
/-! SUPPORT. One lemma for each field and each update of the state and of a weave: what an update leaves alone. -/

namespace Sys2Proof.Machine

/-! ### onWeave -/

@[simp] theorem State.onWeave_cur (s : State) (id : WeaveId) (f : Weave → Weave) : (s.onWeave id f).cur = s.cur := rfl
@[simp] theorem State.onWeave_schedule (s : State) (id : WeaveId) (f : Weave → Weave) : (s.onWeave id f).schedule = s.schedule := rfl
@[simp] theorem State.onWeave_tick (s : State) (id : WeaveId) (f : Weave → Weave) : (s.onWeave id f).tick = s.tick := rfl
@[simp] theorem State.onWeave_nextId (s : State) (id : WeaveId) (f : Weave → Weave) : (s.onWeave id f).nextId = s.nextId := rfl
@[simp] theorem State.onWeave_rr (s : State) (id : WeaveId) (f : Weave → Weave) : (s.onWeave id f).rr = s.rr := rfl
@[simp] theorem State.onWeave_hostReply (s : State) (id : WeaveId) (f : Weave → Weave) : (s.onWeave id f).hostReply = s.hostReply := rfl
@[simp] theorem State.onWeave_hostRetry (s : State) (id : WeaveId) (f : Weave → Weave) : (s.onWeave id f).hostRetry = s.hostRetry := rfl
@[simp] theorem State.onWeave_codeWas (s : State) (id : WeaveId) (f : Weave → Weave) : (s.onWeave id f).codeWas = s.codeWas := rfl
@[simp] theorem State.onWeave_time (s : State) (id : WeaveId) (f : Weave → Weave) : (s.onWeave id f).time = s.time := rfl
@[simp] theorem State.onWeave_powered (s : State) (id : WeaveId) (f : Weave → Weave) : (s.onWeave id f).powered = s.powered := rfl
@[simp] theorem State.onWeave_stage (s : State) (id : WeaveId) (f : Weave → Weave) : (s.onWeave id f).stage = s.stage := rfl
@[simp] theorem State.onWeave_stageError (s : State) (id : WeaveId) (f : Weave → Weave) : (s.onWeave id f).stageError = s.stageError := rfl
@[simp] theorem State.onWeave_linksAt (s : State) (id : WeaveId) (f : Weave → Weave) : (s.onWeave id f).linksAt = s.linksAt := rfl
@[simp] theorem State.onWeave_chipId (s : State) (id : WeaveId) (f : Weave → Weave) : (s.onWeave id f).chipId = s.chipId := rfl
@[simp] theorem State.onWeave_dies (s : State) (id : WeaveId) (f : Weave → Weave) : (s.onWeave id f).dies = s.dies := rfl
@[simp] theorem State.onWeave_cxlPorts (s : State) (id : WeaveId) (f : Weave → Weave) : (s.onWeave id f).cxlPorts = s.cxlPorts := rfl
@[simp] theorem State.onWeave_fabricPorts (s : State) (id : WeaveId) (f : Weave → Weave) : (s.onWeave id f).fabricPorts = s.fabricPorts := rfl
@[simp] theorem State.onWeave_firmware (s : State) (id : WeaveId) (f : Weave → Weave) : (s.onWeave id f).firmware = s.firmware := rfl
@[simp] theorem State.onWeave_coresPresent (s : State) (id : WeaveId) (f : Weave → Weave) : (s.onWeave id f).coresPresent = s.coresPresent := rfl
@[simp] theorem State.onWeave_arraysOut (s : State) (id : WeaveId) (f : Weave → Weave) : (s.onWeave id f).arraysOut = s.arraysOut := rfl
@[simp] theorem State.onWeave_channels (s : State) (id : WeaveId) (f : Weave → Weave) : (s.onWeave id f).channels = s.channels := rfl
@[simp] theorem State.onWeave_scheduleEntries (s : State) (id : WeaveId) (f : Weave → Weave) : (s.onWeave id f).scheduleEntries = s.scheduleEntries := rfl
@[simp] theorem State.onWeave_vfMap (s : State) (id : WeaveId) (f : Weave → Weave) : (s.onWeave id f).vfMap = s.vfMap := rfl
@[simp] theorem State.onWeave_aperts (s : State) (id : WeaveId) (f : Weave → Weave) : (s.onWeave id f).aperts = s.aperts := rfl
@[simp] theorem State.onWeave_fabric (s : State) (id : WeaveId) (f : Weave → Weave) : (s.onWeave id f).fabric = s.fabric := rfl
@[simp] theorem State.onWeave_slots (s : State) (id : WeaveId) (f : Weave → Weave) : (s.onWeave id f).slots = s.slots := rfl
@[simp] theorem State.onWeave_log (s : State) (id : WeaveId) (f : Weave → Weave) : (s.onWeave id f).log = s.log := rfl
@[simp] theorem State.onWeave_nextSignature (s : State) (id : WeaveId) (f : Weave → Weave) : (s.onWeave id f).nextSignature = s.nextSignature := rfl
@[simp] theorem State.onWeave_reports (s : State) (id : WeaveId) (f : Weave → Weave) : (s.onWeave id f).reports = s.reports := rfl
@[simp] theorem State.onWeave_shutdown (s : State) (id : WeaveId) (f : Weave → Weave) : (s.onWeave id f).shutdown = s.shutdown := rfl
@[simp] theorem State.onWeave_powerLimit (s : State) (id : WeaveId) (f : Weave → Weave) : (s.onWeave id f).powerLimit = s.powerLimit := rfl
@[simp] theorem State.onWeave_idleCycles (s : State) (id : WeaveId) (f : Weave → Weave) : (s.onWeave id f).idleCycles = s.idleCycles := rfl
@[simp] theorem State.onWeave_clockStep (s : State) (id : WeaveId) (f : Weave → Weave) : (s.onWeave id f).clockStep = s.clockStep := rfl
@[simp] theorem State.onWeave_fwHndlr (s : State) (id : WeaveId) (f : Weave → Weave) : (s.onWeave id f).fwHndlr = s.fwHndlr := rfl
@[simp] theorem State.onWeave_changesDone (s : State) (id : WeaveId) (f : Weave → Weave) : (s.onWeave id f).changesDone = s.changesDone := rfl
@[simp] theorem State.onWeave_dieCorrected (s : State) (id : WeaveId) (f : Weave → Weave) : (s.onWeave id f).dieCorrected = s.dieCorrected := rfl
@[simp] theorem State.onWeave_pcbs (s : State) (id : WeaveId) (f : Weave → Weave) : (s.onWeave id f).pcbs = s.pcbs := rfl
@[simp] theorem State.onWeave_launches (s : State) (id : WeaveId) (f : Weave → Weave) : (s.onWeave id f).launches = s.launches := rfl
@[simp] theorem State.onWeave_crews (s : State) (id : WeaveId) (f : Weave → Weave) : (s.onWeave id f).crews = s.crews := rfl
@[simp] theorem State.onWeave_coreStates (s : State) (id : WeaveId) (f : Weave → Weave) : (s.onWeave id f).coreStates = s.coreStates := rfl
@[simp] theorem State.onWeave_flights (s : State) (id : WeaveId) (f : Weave → Weave) : (s.onWeave id f).flights = s.flights := rfl
@[simp] theorem State.onWeave_pending (s : State) (id : WeaveId) (f : Weave → Weave) : (s.onWeave id f).pending = s.pending := rfl
@[simp] theorem State.onWeave_transits (s : State) (id : WeaveId) (f : Weave → Weave) : (s.onWeave id f).transits = s.transits := rfl
@[simp] theorem State.onWeave_arrays (s : State) (id : WeaveId) (f : Weave → Weave) : (s.onWeave id f).arrays = s.arrays := rfl
@[simp] theorem State.onWeave_threads (s : State) (id : WeaveId) (f : Weave → Weave) : (s.onWeave id f).threads = s.threads := rfl
@[simp] theorem State.onWeave_tagCounts (s : State) (id : WeaveId) (f : Weave → Weave) : (s.onWeave id f).tagCounts = s.tagCounts := rfl
@[simp] theorem State.onWeave_flipScopes (s : State) (id : WeaveId) (f : Weave → Weave) : (s.onWeave id f).flipScopes = s.flipScopes := rfl
@[simp] theorem State.onWeave_merged (s : State) (id : WeaveId) (f : Weave → Weave) : (s.onWeave id f).merged = s.merged := rfl
@[simp] theorem State.onWeave_mem (s : State) (id : WeaveId) (f : Weave → Weave) : (s.onWeave id f).mem = s.mem := rfl
@[simp] theorem State.onWeave_spad (s : State) (id : WeaveId) (f : Weave → Weave) : (s.onWeave id f).spad = s.spad := rfl
@[simp] theorem State.onWeave_store (s : State) (id : WeaveId) (f : Weave → Weave) : (s.onWeave id f).store = s.store := rfl
@[simp] theorem State.onWeave_hostMem (s : State) (id : WeaveId) (f : Weave → Weave) : (s.onWeave id f).hostMem = s.hostMem := rfl
@[simp] theorem State.onWeave_hostGrant (s : State) (id : WeaveId) (f : Weave → Weave) : (s.onWeave id f).hostGrant = s.hostGrant := rfl
@[simp] theorem State.onWeave_poison (s : State) (id : WeaveId) (f : Weave → Weave) : (s.onWeave id f).poison = s.poison := rfl
@[simp] theorem State.onWeave_caches (s : State) (id : WeaveId) (f : Weave → Weave) : (s.onWeave id f).caches = s.caches := rfl
@[simp] theorem State.onWeave_dirs (s : State) (id : WeaveId) (f : Weave → Weave) : (s.onWeave id f).dirs = s.dirs := rfl
@[simp] theorem State.onWeave_resident (s : State) (id : WeaveId) (f : Weave → Weave) : (s.onWeave id f).resident = s.resident := rfl
@[simp] theorem State.onWeave_fills (s : State) (id : WeaveId) (f : Weave → Weave) : (s.onWeave id f).fills = s.fills := rfl
@[simp] theorem State.onWeave_retries (s : State) (id : WeaveId) (f : Weave → Weave) : (s.onWeave id f).retries = s.retries := rfl
@[simp] theorem State.onWeave_homeRetries (s : State) (id : WeaveId) (f : Weave → Weave) : (s.onWeave id f).homeRetries = s.homeRetries := rfl
@[simp] theorem State.onWeave_sleeping (s : State) (id : WeaveId) (f : Weave → Weave) : (s.onWeave id f).sleeping = s.sleeping := rfl
@[simp] theorem State.onWeave_sliceMaps (s : State) (id : WeaveId) (f : Weave → Weave) : (s.onWeave id f).sliceMaps = s.sliceMaps := rfl
@[simp] theorem State.onWeave_otb (s : State) (id : WeaveId) (f : Weave → Weave) : (s.onWeave id f).otb = s.otb := rfl
@[simp] theorem State.onWeave_cxl (s : State) (id : WeaveId) (f : Weave → Weave) : (s.onWeave id f).cxl = s.cxl := rfl
@[simp] theorem State.onWeave_mapGen (s : State) (id : WeaveId) (f : Weave → Weave) : (s.onWeave id f).mapGen = s.mapGen := rfl
@[simp] theorem State.onWeave_baseGen (s : State) (id : WeaveId) (f : Weave → Weave) : (s.onWeave id f).baseGen = s.baseGen := rfl
@[simp] theorem State.onWeave_regions (s : State) (id : WeaveId) (f : Weave → Weave) : (s.onWeave id f).regions = s.regions := rfl
@[simp] theorem State.onWeave_tracks (s : State) (id : WeaveId) (f : Weave → Weave) : (s.onWeave id f).tracks = s.tracks := rfl
@[simp] theorem State.onWeave_claimed (s : State) (id : WeaveId) (f : Weave → Weave) : (s.onWeave id f).claimed = s.claimed := rfl
@[simp] theorem State.onWeave_window (s : State) (id : WeaveId) (f : Weave → Weave) : (s.onWeave id f).window = s.window := rfl
@[simp] theorem State.onWeave_bundles (s : State) (id : WeaveId) (f : Weave → Weave) : (s.onWeave id f).bundles = s.bundles := rfl
@[simp] theorem State.onWeave_members (s : State) (id : WeaveId) (f : Weave → Weave) : (s.onWeave id f).members = s.members := rfl

/-! ### onMe -/

@[simp] theorem State.onMe_cur (s : State) (f : Weave → Weave) : (s.onMe f).cur = s.cur := rfl
@[simp] theorem State.onMe_schedule (s : State) (f : Weave → Weave) : (s.onMe f).schedule = s.schedule := rfl
@[simp] theorem State.onMe_tick (s : State) (f : Weave → Weave) : (s.onMe f).tick = s.tick := rfl
@[simp] theorem State.onMe_nextId (s : State) (f : Weave → Weave) : (s.onMe f).nextId = s.nextId := rfl
@[simp] theorem State.onMe_rr (s : State) (f : Weave → Weave) : (s.onMe f).rr = s.rr := rfl
@[simp] theorem State.onMe_hostReply (s : State) (f : Weave → Weave) : (s.onMe f).hostReply = s.hostReply := rfl
@[simp] theorem State.onMe_hostRetry (s : State) (f : Weave → Weave) : (s.onMe f).hostRetry = s.hostRetry := rfl
@[simp] theorem State.onMe_codeWas (s : State) (f : Weave → Weave) : (s.onMe f).codeWas = s.codeWas := rfl
@[simp] theorem State.onMe_time (s : State) (f : Weave → Weave) : (s.onMe f).time = s.time := rfl
@[simp] theorem State.onMe_powered (s : State) (f : Weave → Weave) : (s.onMe f).powered = s.powered := rfl
@[simp] theorem State.onMe_stage (s : State) (f : Weave → Weave) : (s.onMe f).stage = s.stage := rfl
@[simp] theorem State.onMe_stageError (s : State) (f : Weave → Weave) : (s.onMe f).stageError = s.stageError := rfl
@[simp] theorem State.onMe_linksAt (s : State) (f : Weave → Weave) : (s.onMe f).linksAt = s.linksAt := rfl
@[simp] theorem State.onMe_chipId (s : State) (f : Weave → Weave) : (s.onMe f).chipId = s.chipId := rfl
@[simp] theorem State.onMe_dies (s : State) (f : Weave → Weave) : (s.onMe f).dies = s.dies := rfl
@[simp] theorem State.onMe_cxlPorts (s : State) (f : Weave → Weave) : (s.onMe f).cxlPorts = s.cxlPorts := rfl
@[simp] theorem State.onMe_fabricPorts (s : State) (f : Weave → Weave) : (s.onMe f).fabricPorts = s.fabricPorts := rfl
@[simp] theorem State.onMe_firmware (s : State) (f : Weave → Weave) : (s.onMe f).firmware = s.firmware := rfl
@[simp] theorem State.onMe_coresPresent (s : State) (f : Weave → Weave) : (s.onMe f).coresPresent = s.coresPresent := rfl
@[simp] theorem State.onMe_arraysOut (s : State) (f : Weave → Weave) : (s.onMe f).arraysOut = s.arraysOut := rfl
@[simp] theorem State.onMe_channels (s : State) (f : Weave → Weave) : (s.onMe f).channels = s.channels := rfl
@[simp] theorem State.onMe_scheduleEntries (s : State) (f : Weave → Weave) : (s.onMe f).scheduleEntries = s.scheduleEntries := rfl
@[simp] theorem State.onMe_vfMap (s : State) (f : Weave → Weave) : (s.onMe f).vfMap = s.vfMap := rfl
@[simp] theorem State.onMe_aperts (s : State) (f : Weave → Weave) : (s.onMe f).aperts = s.aperts := rfl
@[simp] theorem State.onMe_fabric (s : State) (f : Weave → Weave) : (s.onMe f).fabric = s.fabric := rfl
@[simp] theorem State.onMe_slots (s : State) (f : Weave → Weave) : (s.onMe f).slots = s.slots := rfl
@[simp] theorem State.onMe_log (s : State) (f : Weave → Weave) : (s.onMe f).log = s.log := rfl
@[simp] theorem State.onMe_nextSignature (s : State) (f : Weave → Weave) : (s.onMe f).nextSignature = s.nextSignature := rfl
@[simp] theorem State.onMe_reports (s : State) (f : Weave → Weave) : (s.onMe f).reports = s.reports := rfl
@[simp] theorem State.onMe_shutdown (s : State) (f : Weave → Weave) : (s.onMe f).shutdown = s.shutdown := rfl
@[simp] theorem State.onMe_powerLimit (s : State) (f : Weave → Weave) : (s.onMe f).powerLimit = s.powerLimit := rfl
@[simp] theorem State.onMe_idleCycles (s : State) (f : Weave → Weave) : (s.onMe f).idleCycles = s.idleCycles := rfl
@[simp] theorem State.onMe_clockStep (s : State) (f : Weave → Weave) : (s.onMe f).clockStep = s.clockStep := rfl
@[simp] theorem State.onMe_fwHndlr (s : State) (f : Weave → Weave) : (s.onMe f).fwHndlr = s.fwHndlr := rfl
@[simp] theorem State.onMe_changesDone (s : State) (f : Weave → Weave) : (s.onMe f).changesDone = s.changesDone := rfl
@[simp] theorem State.onMe_dieCorrected (s : State) (f : Weave → Weave) : (s.onMe f).dieCorrected = s.dieCorrected := rfl
@[simp] theorem State.onMe_pcbs (s : State) (f : Weave → Weave) : (s.onMe f).pcbs = s.pcbs := rfl
@[simp] theorem State.onMe_launches (s : State) (f : Weave → Weave) : (s.onMe f).launches = s.launches := rfl
@[simp] theorem State.onMe_crews (s : State) (f : Weave → Weave) : (s.onMe f).crews = s.crews := rfl
@[simp] theorem State.onMe_coreStates (s : State) (f : Weave → Weave) : (s.onMe f).coreStates = s.coreStates := rfl
@[simp] theorem State.onMe_flights (s : State) (f : Weave → Weave) : (s.onMe f).flights = s.flights := rfl
@[simp] theorem State.onMe_pending (s : State) (f : Weave → Weave) : (s.onMe f).pending = s.pending := rfl
@[simp] theorem State.onMe_transits (s : State) (f : Weave → Weave) : (s.onMe f).transits = s.transits := rfl
@[simp] theorem State.onMe_arrays (s : State) (f : Weave → Weave) : (s.onMe f).arrays = s.arrays := rfl
@[simp] theorem State.onMe_threads (s : State) (f : Weave → Weave) : (s.onMe f).threads = s.threads := rfl
@[simp] theorem State.onMe_tagCounts (s : State) (f : Weave → Weave) : (s.onMe f).tagCounts = s.tagCounts := rfl
@[simp] theorem State.onMe_flipScopes (s : State) (f : Weave → Weave) : (s.onMe f).flipScopes = s.flipScopes := rfl
@[simp] theorem State.onMe_merged (s : State) (f : Weave → Weave) : (s.onMe f).merged = s.merged := rfl
@[simp] theorem State.onMe_mem (s : State) (f : Weave → Weave) : (s.onMe f).mem = s.mem := rfl
@[simp] theorem State.onMe_spad (s : State) (f : Weave → Weave) : (s.onMe f).spad = s.spad := rfl
@[simp] theorem State.onMe_store (s : State) (f : Weave → Weave) : (s.onMe f).store = s.store := rfl
@[simp] theorem State.onMe_hostMem (s : State) (f : Weave → Weave) : (s.onMe f).hostMem = s.hostMem := rfl
@[simp] theorem State.onMe_hostGrant (s : State) (f : Weave → Weave) : (s.onMe f).hostGrant = s.hostGrant := rfl
@[simp] theorem State.onMe_poison (s : State) (f : Weave → Weave) : (s.onMe f).poison = s.poison := rfl
@[simp] theorem State.onMe_caches (s : State) (f : Weave → Weave) : (s.onMe f).caches = s.caches := rfl
@[simp] theorem State.onMe_dirs (s : State) (f : Weave → Weave) : (s.onMe f).dirs = s.dirs := rfl
@[simp] theorem State.onMe_resident (s : State) (f : Weave → Weave) : (s.onMe f).resident = s.resident := rfl
@[simp] theorem State.onMe_fills (s : State) (f : Weave → Weave) : (s.onMe f).fills = s.fills := rfl
@[simp] theorem State.onMe_retries (s : State) (f : Weave → Weave) : (s.onMe f).retries = s.retries := rfl
@[simp] theorem State.onMe_homeRetries (s : State) (f : Weave → Weave) : (s.onMe f).homeRetries = s.homeRetries := rfl
@[simp] theorem State.onMe_sleeping (s : State) (f : Weave → Weave) : (s.onMe f).sleeping = s.sleeping := rfl
@[simp] theorem State.onMe_sliceMaps (s : State) (f : Weave → Weave) : (s.onMe f).sliceMaps = s.sliceMaps := rfl
@[simp] theorem State.onMe_otb (s : State) (f : Weave → Weave) : (s.onMe f).otb = s.otb := rfl
@[simp] theorem State.onMe_cxl (s : State) (f : Weave → Weave) : (s.onMe f).cxl = s.cxl := rfl
@[simp] theorem State.onMe_mapGen (s : State) (f : Weave → Weave) : (s.onMe f).mapGen = s.mapGen := rfl
@[simp] theorem State.onMe_baseGen (s : State) (f : Weave → Weave) : (s.onMe f).baseGen = s.baseGen := rfl
@[simp] theorem State.onMe_regions (s : State) (f : Weave → Weave) : (s.onMe f).regions = s.regions := rfl
@[simp] theorem State.onMe_tracks (s : State) (f : Weave → Weave) : (s.onMe f).tracks = s.tracks := rfl
@[simp] theorem State.onMe_claimed (s : State) (f : Weave → Weave) : (s.onMe f).claimed = s.claimed := rfl
@[simp] theorem State.onMe_window (s : State) (f : Weave → Weave) : (s.onMe f).window = s.window := rfl
@[simp] theorem State.onMe_bundles (s : State) (f : Weave → Weave) : (s.onMe f).bundles = s.bundles := rfl
@[simp] theorem State.onMe_members (s : State) (f : Weave → Weave) : (s.onMe f).members = s.members := rfl

/-! ### clearRefusal -/

@[simp] theorem State.clearRefusal_cur (s : State)  : (s.clearRefusal).cur = s.cur := rfl
@[simp] theorem State.clearRefusal_schedule (s : State)  : (s.clearRefusal).schedule = s.schedule := rfl
@[simp] theorem State.clearRefusal_tick (s : State)  : (s.clearRefusal).tick = s.tick := rfl
@[simp] theorem State.clearRefusal_nextId (s : State)  : (s.clearRefusal).nextId = s.nextId := rfl
@[simp] theorem State.clearRefusal_rr (s : State)  : (s.clearRefusal).rr = s.rr := rfl
@[simp] theorem State.clearRefusal_hostReply (s : State)  : (s.clearRefusal).hostReply = s.hostReply := rfl
@[simp] theorem State.clearRefusal_hostRetry (s : State)  : (s.clearRefusal).hostRetry = s.hostRetry := rfl
@[simp] theorem State.clearRefusal_codeWas (s : State)  : (s.clearRefusal).codeWas = s.codeWas := rfl
@[simp] theorem State.clearRefusal_time (s : State)  : (s.clearRefusal).time = s.time := rfl
@[simp] theorem State.clearRefusal_powered (s : State)  : (s.clearRefusal).powered = s.powered := rfl
@[simp] theorem State.clearRefusal_stage (s : State)  : (s.clearRefusal).stage = s.stage := rfl
@[simp] theorem State.clearRefusal_stageError (s : State)  : (s.clearRefusal).stageError = s.stageError := rfl
@[simp] theorem State.clearRefusal_linksAt (s : State)  : (s.clearRefusal).linksAt = s.linksAt := rfl
@[simp] theorem State.clearRefusal_chipId (s : State)  : (s.clearRefusal).chipId = s.chipId := rfl
@[simp] theorem State.clearRefusal_dies (s : State)  : (s.clearRefusal).dies = s.dies := rfl
@[simp] theorem State.clearRefusal_cxlPorts (s : State)  : (s.clearRefusal).cxlPorts = s.cxlPorts := rfl
@[simp] theorem State.clearRefusal_fabricPorts (s : State)  : (s.clearRefusal).fabricPorts = s.fabricPorts := rfl
@[simp] theorem State.clearRefusal_firmware (s : State)  : (s.clearRefusal).firmware = s.firmware := rfl
@[simp] theorem State.clearRefusal_coresPresent (s : State)  : (s.clearRefusal).coresPresent = s.coresPresent := rfl
@[simp] theorem State.clearRefusal_arraysOut (s : State)  : (s.clearRefusal).arraysOut = s.arraysOut := rfl
@[simp] theorem State.clearRefusal_channels (s : State)  : (s.clearRefusal).channels = s.channels := rfl
@[simp] theorem State.clearRefusal_scheduleEntries (s : State)  : (s.clearRefusal).scheduleEntries = s.scheduleEntries := rfl
@[simp] theorem State.clearRefusal_vfMap (s : State)  : (s.clearRefusal).vfMap = s.vfMap := rfl
@[simp] theorem State.clearRefusal_aperts (s : State)  : (s.clearRefusal).aperts = s.aperts := rfl
@[simp] theorem State.clearRefusal_fabric (s : State)  : (s.clearRefusal).fabric = s.fabric := rfl
@[simp] theorem State.clearRefusal_slots (s : State)  : (s.clearRefusal).slots = s.slots := rfl
@[simp] theorem State.clearRefusal_log (s : State)  : (s.clearRefusal).log = s.log := rfl
@[simp] theorem State.clearRefusal_nextSignature (s : State)  : (s.clearRefusal).nextSignature = s.nextSignature := rfl
@[simp] theorem State.clearRefusal_reports (s : State)  : (s.clearRefusal).reports = s.reports := rfl
@[simp] theorem State.clearRefusal_shutdown (s : State)  : (s.clearRefusal).shutdown = s.shutdown := rfl
@[simp] theorem State.clearRefusal_powerLimit (s : State)  : (s.clearRefusal).powerLimit = s.powerLimit := rfl
@[simp] theorem State.clearRefusal_idleCycles (s : State)  : (s.clearRefusal).idleCycles = s.idleCycles := rfl
@[simp] theorem State.clearRefusal_clockStep (s : State)  : (s.clearRefusal).clockStep = s.clockStep := rfl
@[simp] theorem State.clearRefusal_fwHndlr (s : State)  : (s.clearRefusal).fwHndlr = s.fwHndlr := rfl
@[simp] theorem State.clearRefusal_changesDone (s : State)  : (s.clearRefusal).changesDone = s.changesDone := rfl
@[simp] theorem State.clearRefusal_dieCorrected (s : State)  : (s.clearRefusal).dieCorrected = s.dieCorrected := rfl
@[simp] theorem State.clearRefusal_pcbs (s : State)  : (s.clearRefusal).pcbs = s.pcbs := rfl
@[simp] theorem State.clearRefusal_launches (s : State)  : (s.clearRefusal).launches = s.launches := rfl
@[simp] theorem State.clearRefusal_crews (s : State)  : (s.clearRefusal).crews = s.crews := rfl
@[simp] theorem State.clearRefusal_weaves (s : State)  : (s.clearRefusal).weaves = s.weaves := rfl
@[simp] theorem State.clearRefusal_coreStates (s : State)  : (s.clearRefusal).coreStates = s.coreStates := rfl
@[simp] theorem State.clearRefusal_flights (s : State)  : (s.clearRefusal).flights = s.flights := rfl
@[simp] theorem State.clearRefusal_pending (s : State)  : (s.clearRefusal).pending = s.pending := rfl
@[simp] theorem State.clearRefusal_transits (s : State)  : (s.clearRefusal).transits = s.transits := rfl
@[simp] theorem State.clearRefusal_arrays (s : State)  : (s.clearRefusal).arrays = s.arrays := rfl
@[simp] theorem State.clearRefusal_threads (s : State)  : (s.clearRefusal).threads = s.threads := rfl
@[simp] theorem State.clearRefusal_tagCounts (s : State)  : (s.clearRefusal).tagCounts = s.tagCounts := rfl
@[simp] theorem State.clearRefusal_flipScopes (s : State)  : (s.clearRefusal).flipScopes = s.flipScopes := rfl
@[simp] theorem State.clearRefusal_merged (s : State)  : (s.clearRefusal).merged = s.merged := rfl
@[simp] theorem State.clearRefusal_mem (s : State)  : (s.clearRefusal).mem = s.mem := rfl
@[simp] theorem State.clearRefusal_spad (s : State)  : (s.clearRefusal).spad = s.spad := rfl
@[simp] theorem State.clearRefusal_store (s : State)  : (s.clearRefusal).store = s.store := rfl
@[simp] theorem State.clearRefusal_hostMem (s : State)  : (s.clearRefusal).hostMem = s.hostMem := rfl
@[simp] theorem State.clearRefusal_hostGrant (s : State)  : (s.clearRefusal).hostGrant = s.hostGrant := rfl
@[simp] theorem State.clearRefusal_poison (s : State)  : (s.clearRefusal).poison = s.poison := rfl
@[simp] theorem State.clearRefusal_caches (s : State)  : (s.clearRefusal).caches = s.caches := rfl
@[simp] theorem State.clearRefusal_dirs (s : State)  : (s.clearRefusal).dirs = s.dirs := rfl
@[simp] theorem State.clearRefusal_resident (s : State)  : (s.clearRefusal).resident = s.resident := rfl
@[simp] theorem State.clearRefusal_fills (s : State)  : (s.clearRefusal).fills = s.fills := rfl
@[simp] theorem State.clearRefusal_homeRetries (s : State)  : (s.clearRefusal).homeRetries = s.homeRetries := rfl
@[simp] theorem State.clearRefusal_sleeping (s : State)  : (s.clearRefusal).sleeping = s.sleeping := rfl
@[simp] theorem State.clearRefusal_sliceMaps (s : State)  : (s.clearRefusal).sliceMaps = s.sliceMaps := rfl
@[simp] theorem State.clearRefusal_otb (s : State)  : (s.clearRefusal).otb = s.otb := rfl
@[simp] theorem State.clearRefusal_cxl (s : State)  : (s.clearRefusal).cxl = s.cxl := rfl
@[simp] theorem State.clearRefusal_mapGen (s : State)  : (s.clearRefusal).mapGen = s.mapGen := rfl
@[simp] theorem State.clearRefusal_baseGen (s : State)  : (s.clearRefusal).baseGen = s.baseGen := rfl
@[simp] theorem State.clearRefusal_regions (s : State)  : (s.clearRefusal).regions = s.regions := rfl
@[simp] theorem State.clearRefusal_tracks (s : State)  : (s.clearRefusal).tracks = s.tracks := rfl
@[simp] theorem State.clearRefusal_claimed (s : State)  : (s.clearRefusal).claimed = s.claimed := rfl
@[simp] theorem State.clearRefusal_window (s : State)  : (s.clearRefusal).window = s.window := rfl
@[simp] theorem State.clearRefusal_bundles (s : State)  : (s.clearRefusal).bundles = s.bundles := rfl
@[simp] theorem State.clearRefusal_members (s : State)  : (s.clearRefusal).members = s.members := rfl

/-! ### issued -/

@[simp] theorem State.issued_cur (s : State)  : (s.issued).cur = s.cur := rfl
@[simp] theorem State.issued_schedule (s : State)  : (s.issued).schedule = s.schedule := rfl
@[simp] theorem State.issued_tick (s : State)  : (s.issued).tick = s.tick := rfl
@[simp] theorem State.issued_nextId (s : State)  : (s.issued).nextId = s.nextId := rfl
@[simp] theorem State.issued_rr (s : State)  : (s.issued).rr = s.rr := rfl
@[simp] theorem State.issued_hostReply (s : State)  : (s.issued).hostReply = s.hostReply := rfl
@[simp] theorem State.issued_hostRetry (s : State)  : (s.issued).hostRetry = s.hostRetry := rfl
@[simp] theorem State.issued_codeWas (s : State)  : (s.issued).codeWas = s.codeWas := rfl
@[simp] theorem State.issued_time (s : State)  : (s.issued).time = s.time := rfl
@[simp] theorem State.issued_powered (s : State)  : (s.issued).powered = s.powered := rfl
@[simp] theorem State.issued_stage (s : State)  : (s.issued).stage = s.stage := rfl
@[simp] theorem State.issued_stageError (s : State)  : (s.issued).stageError = s.stageError := rfl
@[simp] theorem State.issued_linksAt (s : State)  : (s.issued).linksAt = s.linksAt := rfl
@[simp] theorem State.issued_chipId (s : State)  : (s.issued).chipId = s.chipId := rfl
@[simp] theorem State.issued_dies (s : State)  : (s.issued).dies = s.dies := rfl
@[simp] theorem State.issued_cxlPorts (s : State)  : (s.issued).cxlPorts = s.cxlPorts := rfl
@[simp] theorem State.issued_fabricPorts (s : State)  : (s.issued).fabricPorts = s.fabricPorts := rfl
@[simp] theorem State.issued_firmware (s : State)  : (s.issued).firmware = s.firmware := rfl
@[simp] theorem State.issued_coresPresent (s : State)  : (s.issued).coresPresent = s.coresPresent := rfl
@[simp] theorem State.issued_arraysOut (s : State)  : (s.issued).arraysOut = s.arraysOut := rfl
@[simp] theorem State.issued_channels (s : State)  : (s.issued).channels = s.channels := rfl
@[simp] theorem State.issued_scheduleEntries (s : State)  : (s.issued).scheduleEntries = s.scheduleEntries := rfl
@[simp] theorem State.issued_vfMap (s : State)  : (s.issued).vfMap = s.vfMap := rfl
@[simp] theorem State.issued_aperts (s : State)  : (s.issued).aperts = s.aperts := rfl
@[simp] theorem State.issued_fabric (s : State)  : (s.issued).fabric = s.fabric := rfl
@[simp] theorem State.issued_slots (s : State)  : (s.issued).slots = s.slots := rfl
@[simp] theorem State.issued_log (s : State)  : (s.issued).log = s.log := rfl
@[simp] theorem State.issued_nextSignature (s : State)  : (s.issued).nextSignature = s.nextSignature := rfl
@[simp] theorem State.issued_reports (s : State)  : (s.issued).reports = s.reports := rfl
@[simp] theorem State.issued_shutdown (s : State)  : (s.issued).shutdown = s.shutdown := rfl
@[simp] theorem State.issued_powerLimit (s : State)  : (s.issued).powerLimit = s.powerLimit := rfl
@[simp] theorem State.issued_idleCycles (s : State)  : (s.issued).idleCycles = s.idleCycles := rfl
@[simp] theorem State.issued_clockStep (s : State)  : (s.issued).clockStep = s.clockStep := rfl
@[simp] theorem State.issued_fwHndlr (s : State)  : (s.issued).fwHndlr = s.fwHndlr := rfl
@[simp] theorem State.issued_changesDone (s : State)  : (s.issued).changesDone = s.changesDone := rfl
@[simp] theorem State.issued_dieCorrected (s : State)  : (s.issued).dieCorrected = s.dieCorrected := rfl
@[simp] theorem State.issued_pcbs (s : State)  : (s.issued).pcbs = s.pcbs := rfl
@[simp] theorem State.issued_launches (s : State)  : (s.issued).launches = s.launches := rfl
@[simp] theorem State.issued_crews (s : State)  : (s.issued).crews = s.crews := rfl
@[simp] theorem State.issued_coreStates (s : State)  : (s.issued).coreStates = s.coreStates := rfl
@[simp] theorem State.issued_flights (s : State)  : (s.issued).flights = s.flights := rfl
@[simp] theorem State.issued_pending (s : State)  : (s.issued).pending = s.pending := rfl
@[simp] theorem State.issued_transits (s : State)  : (s.issued).transits = s.transits := rfl
@[simp] theorem State.issued_arrays (s : State)  : (s.issued).arrays = s.arrays := rfl
@[simp] theorem State.issued_threads (s : State)  : (s.issued).threads = s.threads := rfl
@[simp] theorem State.issued_tagCounts (s : State)  : (s.issued).tagCounts = s.tagCounts := rfl
@[simp] theorem State.issued_flipScopes (s : State)  : (s.issued).flipScopes = s.flipScopes := rfl
@[simp] theorem State.issued_merged (s : State)  : (s.issued).merged = s.merged := rfl
@[simp] theorem State.issued_mem (s : State)  : (s.issued).mem = s.mem := rfl
@[simp] theorem State.issued_spad (s : State)  : (s.issued).spad = s.spad := rfl
@[simp] theorem State.issued_store (s : State)  : (s.issued).store = s.store := rfl
@[simp] theorem State.issued_hostMem (s : State)  : (s.issued).hostMem = s.hostMem := rfl
@[simp] theorem State.issued_hostGrant (s : State)  : (s.issued).hostGrant = s.hostGrant := rfl
@[simp] theorem State.issued_poison (s : State)  : (s.issued).poison = s.poison := rfl
@[simp] theorem State.issued_caches (s : State)  : (s.issued).caches = s.caches := rfl
@[simp] theorem State.issued_dirs (s : State)  : (s.issued).dirs = s.dirs := rfl
@[simp] theorem State.issued_resident (s : State)  : (s.issued).resident = s.resident := rfl
@[simp] theorem State.issued_fills (s : State)  : (s.issued).fills = s.fills := rfl
@[simp] theorem State.issued_homeRetries (s : State)  : (s.issued).homeRetries = s.homeRetries := rfl
@[simp] theorem State.issued_sleeping (s : State)  : (s.issued).sleeping = s.sleeping := rfl
@[simp] theorem State.issued_sliceMaps (s : State)  : (s.issued).sliceMaps = s.sliceMaps := rfl
@[simp] theorem State.issued_otb (s : State)  : (s.issued).otb = s.otb := rfl
@[simp] theorem State.issued_cxl (s : State)  : (s.issued).cxl = s.cxl := rfl
@[simp] theorem State.issued_mapGen (s : State)  : (s.issued).mapGen = s.mapGen := rfl
@[simp] theorem State.issued_baseGen (s : State)  : (s.issued).baseGen = s.baseGen := rfl
@[simp] theorem State.issued_regions (s : State)  : (s.issued).regions = s.regions := rfl
@[simp] theorem State.issued_tracks (s : State)  : (s.issued).tracks = s.tracks := rfl
@[simp] theorem State.issued_claimed (s : State)  : (s.issued).claimed = s.claimed := rfl
@[simp] theorem State.issued_window (s : State)  : (s.issued).window = s.window := rfl
@[simp] theorem State.issued_bundles (s : State)  : (s.issued).bundles = s.bundles := rfl
@[simp] theorem State.issued_members (s : State)  : (s.issued).members = s.members := rfl

/-! ### onCore -/

@[simp] theorem State.onCore_cur (s : State) (c : Nat) (f : CoreState → CoreState) : (s.onCore c f).cur = s.cur := rfl
@[simp] theorem State.onCore_schedule (s : State) (c : Nat) (f : CoreState → CoreState) : (s.onCore c f).schedule = s.schedule := rfl
@[simp] theorem State.onCore_tick (s : State) (c : Nat) (f : CoreState → CoreState) : (s.onCore c f).tick = s.tick := rfl
@[simp] theorem State.onCore_nextId (s : State) (c : Nat) (f : CoreState → CoreState) : (s.onCore c f).nextId = s.nextId := rfl
@[simp] theorem State.onCore_rr (s : State) (c : Nat) (f : CoreState → CoreState) : (s.onCore c f).rr = s.rr := rfl
@[simp] theorem State.onCore_hostReply (s : State) (c : Nat) (f : CoreState → CoreState) : (s.onCore c f).hostReply = s.hostReply := rfl
@[simp] theorem State.onCore_hostRetry (s : State) (c : Nat) (f : CoreState → CoreState) : (s.onCore c f).hostRetry = s.hostRetry := rfl
@[simp] theorem State.onCore_codeWas (s : State) (c : Nat) (f : CoreState → CoreState) : (s.onCore c f).codeWas = s.codeWas := rfl
@[simp] theorem State.onCore_time (s : State) (c : Nat) (f : CoreState → CoreState) : (s.onCore c f).time = s.time := rfl
@[simp] theorem State.onCore_powered (s : State) (c : Nat) (f : CoreState → CoreState) : (s.onCore c f).powered = s.powered := rfl
@[simp] theorem State.onCore_stage (s : State) (c : Nat) (f : CoreState → CoreState) : (s.onCore c f).stage = s.stage := rfl
@[simp] theorem State.onCore_stageError (s : State) (c : Nat) (f : CoreState → CoreState) : (s.onCore c f).stageError = s.stageError := rfl
@[simp] theorem State.onCore_linksAt (s : State) (c : Nat) (f : CoreState → CoreState) : (s.onCore c f).linksAt = s.linksAt := rfl
@[simp] theorem State.onCore_chipId (s : State) (c : Nat) (f : CoreState → CoreState) : (s.onCore c f).chipId = s.chipId := rfl
@[simp] theorem State.onCore_dies (s : State) (c : Nat) (f : CoreState → CoreState) : (s.onCore c f).dies = s.dies := rfl
@[simp] theorem State.onCore_cxlPorts (s : State) (c : Nat) (f : CoreState → CoreState) : (s.onCore c f).cxlPorts = s.cxlPorts := rfl
@[simp] theorem State.onCore_fabricPorts (s : State) (c : Nat) (f : CoreState → CoreState) : (s.onCore c f).fabricPorts = s.fabricPorts := rfl
@[simp] theorem State.onCore_firmware (s : State) (c : Nat) (f : CoreState → CoreState) : (s.onCore c f).firmware = s.firmware := rfl
@[simp] theorem State.onCore_coresPresent (s : State) (c : Nat) (f : CoreState → CoreState) : (s.onCore c f).coresPresent = s.coresPresent := rfl
@[simp] theorem State.onCore_arraysOut (s : State) (c : Nat) (f : CoreState → CoreState) : (s.onCore c f).arraysOut = s.arraysOut := rfl
@[simp] theorem State.onCore_channels (s : State) (c : Nat) (f : CoreState → CoreState) : (s.onCore c f).channels = s.channels := rfl
@[simp] theorem State.onCore_scheduleEntries (s : State) (c : Nat) (f : CoreState → CoreState) : (s.onCore c f).scheduleEntries = s.scheduleEntries := rfl
@[simp] theorem State.onCore_vfMap (s : State) (c : Nat) (f : CoreState → CoreState) : (s.onCore c f).vfMap = s.vfMap := rfl
@[simp] theorem State.onCore_aperts (s : State) (c : Nat) (f : CoreState → CoreState) : (s.onCore c f).aperts = s.aperts := rfl
@[simp] theorem State.onCore_fabric (s : State) (c : Nat) (f : CoreState → CoreState) : (s.onCore c f).fabric = s.fabric := rfl
@[simp] theorem State.onCore_slots (s : State) (c : Nat) (f : CoreState → CoreState) : (s.onCore c f).slots = s.slots := rfl
@[simp] theorem State.onCore_log (s : State) (c : Nat) (f : CoreState → CoreState) : (s.onCore c f).log = s.log := rfl
@[simp] theorem State.onCore_nextSignature (s : State) (c : Nat) (f : CoreState → CoreState) : (s.onCore c f).nextSignature = s.nextSignature := rfl
@[simp] theorem State.onCore_reports (s : State) (c : Nat) (f : CoreState → CoreState) : (s.onCore c f).reports = s.reports := rfl
@[simp] theorem State.onCore_shutdown (s : State) (c : Nat) (f : CoreState → CoreState) : (s.onCore c f).shutdown = s.shutdown := rfl
@[simp] theorem State.onCore_powerLimit (s : State) (c : Nat) (f : CoreState → CoreState) : (s.onCore c f).powerLimit = s.powerLimit := rfl
@[simp] theorem State.onCore_idleCycles (s : State) (c : Nat) (f : CoreState → CoreState) : (s.onCore c f).idleCycles = s.idleCycles := rfl
@[simp] theorem State.onCore_clockStep (s : State) (c : Nat) (f : CoreState → CoreState) : (s.onCore c f).clockStep = s.clockStep := rfl
@[simp] theorem State.onCore_fwHndlr (s : State) (c : Nat) (f : CoreState → CoreState) : (s.onCore c f).fwHndlr = s.fwHndlr := rfl
@[simp] theorem State.onCore_changesDone (s : State) (c : Nat) (f : CoreState → CoreState) : (s.onCore c f).changesDone = s.changesDone := rfl
@[simp] theorem State.onCore_dieCorrected (s : State) (c : Nat) (f : CoreState → CoreState) : (s.onCore c f).dieCorrected = s.dieCorrected := rfl
@[simp] theorem State.onCore_pcbs (s : State) (c : Nat) (f : CoreState → CoreState) : (s.onCore c f).pcbs = s.pcbs := rfl
@[simp] theorem State.onCore_launches (s : State) (c : Nat) (f : CoreState → CoreState) : (s.onCore c f).launches = s.launches := rfl
@[simp] theorem State.onCore_crews (s : State) (c : Nat) (f : CoreState → CoreState) : (s.onCore c f).crews = s.crews := rfl
@[simp] theorem State.onCore_weaves (s : State) (c : Nat) (f : CoreState → CoreState) : (s.onCore c f).weaves = s.weaves := rfl
@[simp] theorem State.onCore_flights (s : State) (c : Nat) (f : CoreState → CoreState) : (s.onCore c f).flights = s.flights := rfl
@[simp] theorem State.onCore_pending (s : State) (c : Nat) (f : CoreState → CoreState) : (s.onCore c f).pending = s.pending := rfl
@[simp] theorem State.onCore_transits (s : State) (c : Nat) (f : CoreState → CoreState) : (s.onCore c f).transits = s.transits := rfl
@[simp] theorem State.onCore_arrays (s : State) (c : Nat) (f : CoreState → CoreState) : (s.onCore c f).arrays = s.arrays := rfl
@[simp] theorem State.onCore_threads (s : State) (c : Nat) (f : CoreState → CoreState) : (s.onCore c f).threads = s.threads := rfl
@[simp] theorem State.onCore_tagCounts (s : State) (c : Nat) (f : CoreState → CoreState) : (s.onCore c f).tagCounts = s.tagCounts := rfl
@[simp] theorem State.onCore_flipScopes (s : State) (c : Nat) (f : CoreState → CoreState) : (s.onCore c f).flipScopes = s.flipScopes := rfl
@[simp] theorem State.onCore_merged (s : State) (c : Nat) (f : CoreState → CoreState) : (s.onCore c f).merged = s.merged := rfl
@[simp] theorem State.onCore_mem (s : State) (c : Nat) (f : CoreState → CoreState) : (s.onCore c f).mem = s.mem := rfl
@[simp] theorem State.onCore_spad (s : State) (c : Nat) (f : CoreState → CoreState) : (s.onCore c f).spad = s.spad := rfl
@[simp] theorem State.onCore_store (s : State) (c : Nat) (f : CoreState → CoreState) : (s.onCore c f).store = s.store := rfl
@[simp] theorem State.onCore_hostMem (s : State) (c : Nat) (f : CoreState → CoreState) : (s.onCore c f).hostMem = s.hostMem := rfl
@[simp] theorem State.onCore_hostGrant (s : State) (c : Nat) (f : CoreState → CoreState) : (s.onCore c f).hostGrant = s.hostGrant := rfl
@[simp] theorem State.onCore_poison (s : State) (c : Nat) (f : CoreState → CoreState) : (s.onCore c f).poison = s.poison := rfl
@[simp] theorem State.onCore_caches (s : State) (c : Nat) (f : CoreState → CoreState) : (s.onCore c f).caches = s.caches := rfl
@[simp] theorem State.onCore_dirs (s : State) (c : Nat) (f : CoreState → CoreState) : (s.onCore c f).dirs = s.dirs := rfl
@[simp] theorem State.onCore_resident (s : State) (c : Nat) (f : CoreState → CoreState) : (s.onCore c f).resident = s.resident := rfl
@[simp] theorem State.onCore_fills (s : State) (c : Nat) (f : CoreState → CoreState) : (s.onCore c f).fills = s.fills := rfl
@[simp] theorem State.onCore_retries (s : State) (c : Nat) (f : CoreState → CoreState) : (s.onCore c f).retries = s.retries := rfl
@[simp] theorem State.onCore_homeRetries (s : State) (c : Nat) (f : CoreState → CoreState) : (s.onCore c f).homeRetries = s.homeRetries := rfl
@[simp] theorem State.onCore_sleeping (s : State) (c : Nat) (f : CoreState → CoreState) : (s.onCore c f).sleeping = s.sleeping := rfl
@[simp] theorem State.onCore_sliceMaps (s : State) (c : Nat) (f : CoreState → CoreState) : (s.onCore c f).sliceMaps = s.sliceMaps := rfl
@[simp] theorem State.onCore_otb (s : State) (c : Nat) (f : CoreState → CoreState) : (s.onCore c f).otb = s.otb := rfl
@[simp] theorem State.onCore_cxl (s : State) (c : Nat) (f : CoreState → CoreState) : (s.onCore c f).cxl = s.cxl := rfl
@[simp] theorem State.onCore_mapGen (s : State) (c : Nat) (f : CoreState → CoreState) : (s.onCore c f).mapGen = s.mapGen := rfl
@[simp] theorem State.onCore_baseGen (s : State) (c : Nat) (f : CoreState → CoreState) : (s.onCore c f).baseGen = s.baseGen := rfl
@[simp] theorem State.onCore_regions (s : State) (c : Nat) (f : CoreState → CoreState) : (s.onCore c f).regions = s.regions := rfl
@[simp] theorem State.onCore_tracks (s : State) (c : Nat) (f : CoreState → CoreState) : (s.onCore c f).tracks = s.tracks := rfl
@[simp] theorem State.onCore_claimed (s : State) (c : Nat) (f : CoreState → CoreState) : (s.onCore c f).claimed = s.claimed := rfl
@[simp] theorem State.onCore_window (s : State) (c : Nat) (f : CoreState → CoreState) : (s.onCore c f).window = s.window := rfl
@[simp] theorem State.onCore_bundles (s : State) (c : Nat) (f : CoreState → CoreState) : (s.onCore c f).bundles = s.bundles := rfl
@[simp] theorem State.onCore_members (s : State) (c : Nat) (f : CoreState → CoreState) : (s.onCore c f).members = s.members := rfl

/-! ### onPcb -/

@[simp] theorem State.onPcb_cur (s : State) (p : Nat) (f : Pcb → Pcb) : (s.onPcb p f).cur = s.cur := rfl
@[simp] theorem State.onPcb_schedule (s : State) (p : Nat) (f : Pcb → Pcb) : (s.onPcb p f).schedule = s.schedule := rfl
@[simp] theorem State.onPcb_tick (s : State) (p : Nat) (f : Pcb → Pcb) : (s.onPcb p f).tick = s.tick := rfl
@[simp] theorem State.onPcb_nextId (s : State) (p : Nat) (f : Pcb → Pcb) : (s.onPcb p f).nextId = s.nextId := rfl
@[simp] theorem State.onPcb_rr (s : State) (p : Nat) (f : Pcb → Pcb) : (s.onPcb p f).rr = s.rr := rfl
@[simp] theorem State.onPcb_hostReply (s : State) (p : Nat) (f : Pcb → Pcb) : (s.onPcb p f).hostReply = s.hostReply := rfl
@[simp] theorem State.onPcb_hostRetry (s : State) (p : Nat) (f : Pcb → Pcb) : (s.onPcb p f).hostRetry = s.hostRetry := rfl
@[simp] theorem State.onPcb_codeWas (s : State) (p : Nat) (f : Pcb → Pcb) : (s.onPcb p f).codeWas = s.codeWas := rfl
@[simp] theorem State.onPcb_time (s : State) (p : Nat) (f : Pcb → Pcb) : (s.onPcb p f).time = s.time := rfl
@[simp] theorem State.onPcb_powered (s : State) (p : Nat) (f : Pcb → Pcb) : (s.onPcb p f).powered = s.powered := rfl
@[simp] theorem State.onPcb_stage (s : State) (p : Nat) (f : Pcb → Pcb) : (s.onPcb p f).stage = s.stage := rfl
@[simp] theorem State.onPcb_stageError (s : State) (p : Nat) (f : Pcb → Pcb) : (s.onPcb p f).stageError = s.stageError := rfl
@[simp] theorem State.onPcb_linksAt (s : State) (p : Nat) (f : Pcb → Pcb) : (s.onPcb p f).linksAt = s.linksAt := rfl
@[simp] theorem State.onPcb_chipId (s : State) (p : Nat) (f : Pcb → Pcb) : (s.onPcb p f).chipId = s.chipId := rfl
@[simp] theorem State.onPcb_dies (s : State) (p : Nat) (f : Pcb → Pcb) : (s.onPcb p f).dies = s.dies := rfl
@[simp] theorem State.onPcb_cxlPorts (s : State) (p : Nat) (f : Pcb → Pcb) : (s.onPcb p f).cxlPorts = s.cxlPorts := rfl
@[simp] theorem State.onPcb_fabricPorts (s : State) (p : Nat) (f : Pcb → Pcb) : (s.onPcb p f).fabricPorts = s.fabricPorts := rfl
@[simp] theorem State.onPcb_firmware (s : State) (p : Nat) (f : Pcb → Pcb) : (s.onPcb p f).firmware = s.firmware := rfl
@[simp] theorem State.onPcb_coresPresent (s : State) (p : Nat) (f : Pcb → Pcb) : (s.onPcb p f).coresPresent = s.coresPresent := rfl
@[simp] theorem State.onPcb_arraysOut (s : State) (p : Nat) (f : Pcb → Pcb) : (s.onPcb p f).arraysOut = s.arraysOut := rfl
@[simp] theorem State.onPcb_channels (s : State) (p : Nat) (f : Pcb → Pcb) : (s.onPcb p f).channels = s.channels := rfl
@[simp] theorem State.onPcb_scheduleEntries (s : State) (p : Nat) (f : Pcb → Pcb) : (s.onPcb p f).scheduleEntries = s.scheduleEntries := rfl
@[simp] theorem State.onPcb_vfMap (s : State) (p : Nat) (f : Pcb → Pcb) : (s.onPcb p f).vfMap = s.vfMap := rfl
@[simp] theorem State.onPcb_aperts (s : State) (p : Nat) (f : Pcb → Pcb) : (s.onPcb p f).aperts = s.aperts := rfl
@[simp] theorem State.onPcb_fabric (s : State) (p : Nat) (f : Pcb → Pcb) : (s.onPcb p f).fabric = s.fabric := rfl
@[simp] theorem State.onPcb_slots (s : State) (p : Nat) (f : Pcb → Pcb) : (s.onPcb p f).slots = s.slots := rfl
@[simp] theorem State.onPcb_log (s : State) (p : Nat) (f : Pcb → Pcb) : (s.onPcb p f).log = s.log := rfl
@[simp] theorem State.onPcb_nextSignature (s : State) (p : Nat) (f : Pcb → Pcb) : (s.onPcb p f).nextSignature = s.nextSignature := rfl
@[simp] theorem State.onPcb_reports (s : State) (p : Nat) (f : Pcb → Pcb) : (s.onPcb p f).reports = s.reports := rfl
@[simp] theorem State.onPcb_shutdown (s : State) (p : Nat) (f : Pcb → Pcb) : (s.onPcb p f).shutdown = s.shutdown := rfl
@[simp] theorem State.onPcb_powerLimit (s : State) (p : Nat) (f : Pcb → Pcb) : (s.onPcb p f).powerLimit = s.powerLimit := rfl
@[simp] theorem State.onPcb_idleCycles (s : State) (p : Nat) (f : Pcb → Pcb) : (s.onPcb p f).idleCycles = s.idleCycles := rfl
@[simp] theorem State.onPcb_clockStep (s : State) (p : Nat) (f : Pcb → Pcb) : (s.onPcb p f).clockStep = s.clockStep := rfl
@[simp] theorem State.onPcb_fwHndlr (s : State) (p : Nat) (f : Pcb → Pcb) : (s.onPcb p f).fwHndlr = s.fwHndlr := rfl
@[simp] theorem State.onPcb_changesDone (s : State) (p : Nat) (f : Pcb → Pcb) : (s.onPcb p f).changesDone = s.changesDone := rfl
@[simp] theorem State.onPcb_dieCorrected (s : State) (p : Nat) (f : Pcb → Pcb) : (s.onPcb p f).dieCorrected = s.dieCorrected := rfl
@[simp] theorem State.onPcb_launches (s : State) (p : Nat) (f : Pcb → Pcb) : (s.onPcb p f).launches = s.launches := rfl
@[simp] theorem State.onPcb_crews (s : State) (p : Nat) (f : Pcb → Pcb) : (s.onPcb p f).crews = s.crews := rfl
@[simp] theorem State.onPcb_weaves (s : State) (p : Nat) (f : Pcb → Pcb) : (s.onPcb p f).weaves = s.weaves := rfl
@[simp] theorem State.onPcb_coreStates (s : State) (p : Nat) (f : Pcb → Pcb) : (s.onPcb p f).coreStates = s.coreStates := rfl
@[simp] theorem State.onPcb_flights (s : State) (p : Nat) (f : Pcb → Pcb) : (s.onPcb p f).flights = s.flights := rfl
@[simp] theorem State.onPcb_pending (s : State) (p : Nat) (f : Pcb → Pcb) : (s.onPcb p f).pending = s.pending := rfl
@[simp] theorem State.onPcb_transits (s : State) (p : Nat) (f : Pcb → Pcb) : (s.onPcb p f).transits = s.transits := rfl
@[simp] theorem State.onPcb_arrays (s : State) (p : Nat) (f : Pcb → Pcb) : (s.onPcb p f).arrays = s.arrays := rfl
@[simp] theorem State.onPcb_threads (s : State) (p : Nat) (f : Pcb → Pcb) : (s.onPcb p f).threads = s.threads := rfl
@[simp] theorem State.onPcb_tagCounts (s : State) (p : Nat) (f : Pcb → Pcb) : (s.onPcb p f).tagCounts = s.tagCounts := rfl
@[simp] theorem State.onPcb_flipScopes (s : State) (p : Nat) (f : Pcb → Pcb) : (s.onPcb p f).flipScopes = s.flipScopes := rfl
@[simp] theorem State.onPcb_merged (s : State) (p : Nat) (f : Pcb → Pcb) : (s.onPcb p f).merged = s.merged := rfl
@[simp] theorem State.onPcb_mem (s : State) (p : Nat) (f : Pcb → Pcb) : (s.onPcb p f).mem = s.mem := rfl
@[simp] theorem State.onPcb_spad (s : State) (p : Nat) (f : Pcb → Pcb) : (s.onPcb p f).spad = s.spad := rfl
@[simp] theorem State.onPcb_store (s : State) (p : Nat) (f : Pcb → Pcb) : (s.onPcb p f).store = s.store := rfl
@[simp] theorem State.onPcb_hostMem (s : State) (p : Nat) (f : Pcb → Pcb) : (s.onPcb p f).hostMem = s.hostMem := rfl
@[simp] theorem State.onPcb_hostGrant (s : State) (p : Nat) (f : Pcb → Pcb) : (s.onPcb p f).hostGrant = s.hostGrant := rfl
@[simp] theorem State.onPcb_poison (s : State) (p : Nat) (f : Pcb → Pcb) : (s.onPcb p f).poison = s.poison := rfl
@[simp] theorem State.onPcb_caches (s : State) (p : Nat) (f : Pcb → Pcb) : (s.onPcb p f).caches = s.caches := rfl
@[simp] theorem State.onPcb_dirs (s : State) (p : Nat) (f : Pcb → Pcb) : (s.onPcb p f).dirs = s.dirs := rfl
@[simp] theorem State.onPcb_resident (s : State) (p : Nat) (f : Pcb → Pcb) : (s.onPcb p f).resident = s.resident := rfl
@[simp] theorem State.onPcb_fills (s : State) (p : Nat) (f : Pcb → Pcb) : (s.onPcb p f).fills = s.fills := rfl
@[simp] theorem State.onPcb_retries (s : State) (p : Nat) (f : Pcb → Pcb) : (s.onPcb p f).retries = s.retries := rfl
@[simp] theorem State.onPcb_homeRetries (s : State) (p : Nat) (f : Pcb → Pcb) : (s.onPcb p f).homeRetries = s.homeRetries := rfl
@[simp] theorem State.onPcb_sleeping (s : State) (p : Nat) (f : Pcb → Pcb) : (s.onPcb p f).sleeping = s.sleeping := rfl
@[simp] theorem State.onPcb_sliceMaps (s : State) (p : Nat) (f : Pcb → Pcb) : (s.onPcb p f).sliceMaps = s.sliceMaps := rfl
@[simp] theorem State.onPcb_otb (s : State) (p : Nat) (f : Pcb → Pcb) : (s.onPcb p f).otb = s.otb := rfl
@[simp] theorem State.onPcb_cxl (s : State) (p : Nat) (f : Pcb → Pcb) : (s.onPcb p f).cxl = s.cxl := rfl
@[simp] theorem State.onPcb_mapGen (s : State) (p : Nat) (f : Pcb → Pcb) : (s.onPcb p f).mapGen = s.mapGen := rfl
@[simp] theorem State.onPcb_baseGen (s : State) (p : Nat) (f : Pcb → Pcb) : (s.onPcb p f).baseGen = s.baseGen := rfl
@[simp] theorem State.onPcb_regions (s : State) (p : Nat) (f : Pcb → Pcb) : (s.onPcb p f).regions = s.regions := rfl
@[simp] theorem State.onPcb_tracks (s : State) (p : Nat) (f : Pcb → Pcb) : (s.onPcb p f).tracks = s.tracks := rfl
@[simp] theorem State.onPcb_claimed (s : State) (p : Nat) (f : Pcb → Pcb) : (s.onPcb p f).claimed = s.claimed := rfl
@[simp] theorem State.onPcb_window (s : State) (p : Nat) (f : Pcb → Pcb) : (s.onPcb p f).window = s.window := rfl
@[simp] theorem State.onPcb_bundles (s : State) (p : Nat) (f : Pcb → Pcb) : (s.onPcb p f).bundles = s.bundles := rfl
@[simp] theorem State.onPcb_members (s : State) (p : Nat) (f : Pcb → Pcb) : (s.onPcb p f).members = s.members := rfl

/-! ### memSet -/

theorem State.memSet_same (s : State) (a : Nat) (b : Byte) :
    { s.memSet a b with mem := s.mem, hostMem := s.hostMem } = s := by
  unfold State.memSet; split <;> rfl

@[simp] theorem State.memSet_cur (s : State) (a : Nat) (b : Byte) : (s.memSet a b).cur = s.cur := by
  have h := congrArg State.cur (s.memSet_same a b); exact h
@[simp] theorem State.memSet_schedule (s : State) (a : Nat) (b : Byte) : (s.memSet a b).schedule = s.schedule := by
  have h := congrArg State.schedule (s.memSet_same a b); exact h
@[simp] theorem State.memSet_tick (s : State) (a : Nat) (b : Byte) : (s.memSet a b).tick = s.tick := by
  have h := congrArg State.tick (s.memSet_same a b); exact h
@[simp] theorem State.memSet_nextId (s : State) (a : Nat) (b : Byte) : (s.memSet a b).nextId = s.nextId := by
  have h := congrArg State.nextId (s.memSet_same a b); exact h
@[simp] theorem State.memSet_rr (s : State) (a : Nat) (b : Byte) : (s.memSet a b).rr = s.rr := by
  have h := congrArg State.rr (s.memSet_same a b); exact h
@[simp] theorem State.memSet_hostReply (s : State) (a : Nat) (b : Byte) : (s.memSet a b).hostReply = s.hostReply := by
  have h := congrArg State.hostReply (s.memSet_same a b); exact h
@[simp] theorem State.memSet_hostRetry (s : State) (a : Nat) (b : Byte) : (s.memSet a b).hostRetry = s.hostRetry := by
  have h := congrArg State.hostRetry (s.memSet_same a b); exact h
@[simp] theorem State.memSet_codeWas (s : State) (a : Nat) (b : Byte) : (s.memSet a b).codeWas = s.codeWas := by
  have h := congrArg State.codeWas (s.memSet_same a b); exact h
@[simp] theorem State.memSet_time (s : State) (a : Nat) (b : Byte) : (s.memSet a b).time = s.time := by
  have h := congrArg State.time (s.memSet_same a b); exact h
@[simp] theorem State.memSet_powered (s : State) (a : Nat) (b : Byte) : (s.memSet a b).powered = s.powered := by
  have h := congrArg State.powered (s.memSet_same a b); exact h
@[simp] theorem State.memSet_stage (s : State) (a : Nat) (b : Byte) : (s.memSet a b).stage = s.stage := by
  have h := congrArg State.stage (s.memSet_same a b); exact h
@[simp] theorem State.memSet_stageError (s : State) (a : Nat) (b : Byte) : (s.memSet a b).stageError = s.stageError := by
  have h := congrArg State.stageError (s.memSet_same a b); exact h
@[simp] theorem State.memSet_linksAt (s : State) (a : Nat) (b : Byte) : (s.memSet a b).linksAt = s.linksAt := by
  have h := congrArg State.linksAt (s.memSet_same a b); exact h
@[simp] theorem State.memSet_chipId (s : State) (a : Nat) (b : Byte) : (s.memSet a b).chipId = s.chipId := by
  have h := congrArg State.chipId (s.memSet_same a b); exact h
@[simp] theorem State.memSet_dies (s : State) (a : Nat) (b : Byte) : (s.memSet a b).dies = s.dies := by
  have h := congrArg State.dies (s.memSet_same a b); exact h
@[simp] theorem State.memSet_cxlPorts (s : State) (a : Nat) (b : Byte) : (s.memSet a b).cxlPorts = s.cxlPorts := by
  have h := congrArg State.cxlPorts (s.memSet_same a b); exact h
@[simp] theorem State.memSet_fabricPorts (s : State) (a : Nat) (b : Byte) : (s.memSet a b).fabricPorts = s.fabricPorts := by
  have h := congrArg State.fabricPorts (s.memSet_same a b); exact h
@[simp] theorem State.memSet_firmware (s : State) (a : Nat) (b : Byte) : (s.memSet a b).firmware = s.firmware := by
  have h := congrArg State.firmware (s.memSet_same a b); exact h
@[simp] theorem State.memSet_coresPresent (s : State) (a : Nat) (b : Byte) : (s.memSet a b).coresPresent = s.coresPresent := by
  have h := congrArg State.coresPresent (s.memSet_same a b); exact h
@[simp] theorem State.memSet_arraysOut (s : State) (a : Nat) (b : Byte) : (s.memSet a b).arraysOut = s.arraysOut := by
  have h := congrArg State.arraysOut (s.memSet_same a b); exact h
@[simp] theorem State.memSet_channels (s : State) (a : Nat) (b : Byte) : (s.memSet a b).channels = s.channels := by
  have h := congrArg State.channels (s.memSet_same a b); exact h
@[simp] theorem State.memSet_scheduleEntries (s : State) (a : Nat) (b : Byte) : (s.memSet a b).scheduleEntries = s.scheduleEntries := by
  have h := congrArg State.scheduleEntries (s.memSet_same a b); exact h
@[simp] theorem State.memSet_vfMap (s : State) (a : Nat) (b : Byte) : (s.memSet a b).vfMap = s.vfMap := by
  have h := congrArg State.vfMap (s.memSet_same a b); exact h
@[simp] theorem State.memSet_aperts (s : State) (a : Nat) (b : Byte) : (s.memSet a b).aperts = s.aperts := by
  have h := congrArg State.aperts (s.memSet_same a b); exact h
@[simp] theorem State.memSet_fabric (s : State) (a : Nat) (b : Byte) : (s.memSet a b).fabric = s.fabric := by
  have h := congrArg State.fabric (s.memSet_same a b); exact h
@[simp] theorem State.memSet_slots (s : State) (a : Nat) (b : Byte) : (s.memSet a b).slots = s.slots := by
  have h := congrArg State.slots (s.memSet_same a b); exact h
@[simp] theorem State.memSet_log (s : State) (a : Nat) (b : Byte) : (s.memSet a b).log = s.log := by
  have h := congrArg State.log (s.memSet_same a b); exact h
@[simp] theorem State.memSet_nextSignature (s : State) (a : Nat) (b : Byte) : (s.memSet a b).nextSignature = s.nextSignature := by
  have h := congrArg State.nextSignature (s.memSet_same a b); exact h
@[simp] theorem State.memSet_reports (s : State) (a : Nat) (b : Byte) : (s.memSet a b).reports = s.reports := by
  have h := congrArg State.reports (s.memSet_same a b); exact h
@[simp] theorem State.memSet_shutdown (s : State) (a : Nat) (b : Byte) : (s.memSet a b).shutdown = s.shutdown := by
  have h := congrArg State.shutdown (s.memSet_same a b); exact h
@[simp] theorem State.memSet_powerLimit (s : State) (a : Nat) (b : Byte) : (s.memSet a b).powerLimit = s.powerLimit := by
  have h := congrArg State.powerLimit (s.memSet_same a b); exact h
@[simp] theorem State.memSet_idleCycles (s : State) (a : Nat) (b : Byte) : (s.memSet a b).idleCycles = s.idleCycles := by
  have h := congrArg State.idleCycles (s.memSet_same a b); exact h
@[simp] theorem State.memSet_clockStep (s : State) (a : Nat) (b : Byte) : (s.memSet a b).clockStep = s.clockStep := by
  have h := congrArg State.clockStep (s.memSet_same a b); exact h
@[simp] theorem State.memSet_fwHndlr (s : State) (a : Nat) (b : Byte) : (s.memSet a b).fwHndlr = s.fwHndlr := by
  have h := congrArg State.fwHndlr (s.memSet_same a b); exact h
@[simp] theorem State.memSet_changesDone (s : State) (a : Nat) (b : Byte) : (s.memSet a b).changesDone = s.changesDone := by
  have h := congrArg State.changesDone (s.memSet_same a b); exact h
@[simp] theorem State.memSet_dieCorrected (s : State) (a : Nat) (b : Byte) : (s.memSet a b).dieCorrected = s.dieCorrected := by
  have h := congrArg State.dieCorrected (s.memSet_same a b); exact h
@[simp] theorem State.memSet_pcbs (s : State) (a : Nat) (b : Byte) : (s.memSet a b).pcbs = s.pcbs := by
  have h := congrArg State.pcbs (s.memSet_same a b); exact h
@[simp] theorem State.memSet_launches (s : State) (a : Nat) (b : Byte) : (s.memSet a b).launches = s.launches := by
  have h := congrArg State.launches (s.memSet_same a b); exact h
@[simp] theorem State.memSet_crews (s : State) (a : Nat) (b : Byte) : (s.memSet a b).crews = s.crews := by
  have h := congrArg State.crews (s.memSet_same a b); exact h
@[simp] theorem State.memSet_weaves (s : State) (a : Nat) (b : Byte) : (s.memSet a b).weaves = s.weaves := by
  have h := congrArg State.weaves (s.memSet_same a b); exact h
@[simp] theorem State.memSet_coreStates (s : State) (a : Nat) (b : Byte) : (s.memSet a b).coreStates = s.coreStates := by
  have h := congrArg State.coreStates (s.memSet_same a b); exact h
@[simp] theorem State.memSet_flights (s : State) (a : Nat) (b : Byte) : (s.memSet a b).flights = s.flights := by
  have h := congrArg State.flights (s.memSet_same a b); exact h
@[simp] theorem State.memSet_pending (s : State) (a : Nat) (b : Byte) : (s.memSet a b).pending = s.pending := by
  have h := congrArg State.pending (s.memSet_same a b); exact h
@[simp] theorem State.memSet_transits (s : State) (a : Nat) (b : Byte) : (s.memSet a b).transits = s.transits := by
  have h := congrArg State.transits (s.memSet_same a b); exact h
@[simp] theorem State.memSet_arrays (s : State) (a : Nat) (b : Byte) : (s.memSet a b).arrays = s.arrays := by
  have h := congrArg State.arrays (s.memSet_same a b); exact h
@[simp] theorem State.memSet_threads (s : State) (a : Nat) (b : Byte) : (s.memSet a b).threads = s.threads := by
  have h := congrArg State.threads (s.memSet_same a b); exact h
@[simp] theorem State.memSet_tagCounts (s : State) (a : Nat) (b : Byte) : (s.memSet a b).tagCounts = s.tagCounts := by
  have h := congrArg State.tagCounts (s.memSet_same a b); exact h
@[simp] theorem State.memSet_flipScopes (s : State) (a : Nat) (b : Byte) : (s.memSet a b).flipScopes = s.flipScopes := by
  have h := congrArg State.flipScopes (s.memSet_same a b); exact h
@[simp] theorem State.memSet_merged (s : State) (a : Nat) (b : Byte) : (s.memSet a b).merged = s.merged := by
  have h := congrArg State.merged (s.memSet_same a b); exact h
@[simp] theorem State.memSet_spad (s : State) (a : Nat) (b : Byte) : (s.memSet a b).spad = s.spad := by
  have h := congrArg State.spad (s.memSet_same a b); exact h
@[simp] theorem State.memSet_store (s : State) (a : Nat) (b : Byte) : (s.memSet a b).store = s.store := by
  have h := congrArg State.store (s.memSet_same a b); exact h
@[simp] theorem State.memSet_hostGrant (s : State) (a : Nat) (b : Byte) : (s.memSet a b).hostGrant = s.hostGrant := by
  have h := congrArg State.hostGrant (s.memSet_same a b); exact h
@[simp] theorem State.memSet_poison (s : State) (a : Nat) (b : Byte) : (s.memSet a b).poison = s.poison := by
  have h := congrArg State.poison (s.memSet_same a b); exact h
@[simp] theorem State.memSet_caches (s : State) (a : Nat) (b : Byte) : (s.memSet a b).caches = s.caches := by
  have h := congrArg State.caches (s.memSet_same a b); exact h
@[simp] theorem State.memSet_dirs (s : State) (a : Nat) (b : Byte) : (s.memSet a b).dirs = s.dirs := by
  have h := congrArg State.dirs (s.memSet_same a b); exact h
@[simp] theorem State.memSet_resident (s : State) (a : Nat) (b : Byte) : (s.memSet a b).resident = s.resident := by
  have h := congrArg State.resident (s.memSet_same a b); exact h
@[simp] theorem State.memSet_fills (s : State) (a : Nat) (b : Byte) : (s.memSet a b).fills = s.fills := by
  have h := congrArg State.fills (s.memSet_same a b); exact h
@[simp] theorem State.memSet_retries (s : State) (a : Nat) (b : Byte) : (s.memSet a b).retries = s.retries := by
  have h := congrArg State.retries (s.memSet_same a b); exact h
@[simp] theorem State.memSet_homeRetries (s : State) (a : Nat) (b : Byte) : (s.memSet a b).homeRetries = s.homeRetries := by
  have h := congrArg State.homeRetries (s.memSet_same a b); exact h
@[simp] theorem State.memSet_sleeping (s : State) (a : Nat) (b : Byte) : (s.memSet a b).sleeping = s.sleeping := by
  have h := congrArg State.sleeping (s.memSet_same a b); exact h
@[simp] theorem State.memSet_sliceMaps (s : State) (a : Nat) (b : Byte) : (s.memSet a b).sliceMaps = s.sliceMaps := by
  have h := congrArg State.sliceMaps (s.memSet_same a b); exact h
@[simp] theorem State.memSet_otb (s : State) (a : Nat) (b : Byte) : (s.memSet a b).otb = s.otb := by
  have h := congrArg State.otb (s.memSet_same a b); exact h
@[simp] theorem State.memSet_cxl (s : State) (a : Nat) (b : Byte) : (s.memSet a b).cxl = s.cxl := by
  have h := congrArg State.cxl (s.memSet_same a b); exact h
@[simp] theorem State.memSet_mapGen (s : State) (a : Nat) (b : Byte) : (s.memSet a b).mapGen = s.mapGen := by
  have h := congrArg State.mapGen (s.memSet_same a b); exact h
@[simp] theorem State.memSet_baseGen (s : State) (a : Nat) (b : Byte) : (s.memSet a b).baseGen = s.baseGen := by
  have h := congrArg State.baseGen (s.memSet_same a b); exact h
@[simp] theorem State.memSet_regions (s : State) (a : Nat) (b : Byte) : (s.memSet a b).regions = s.regions := by
  have h := congrArg State.regions (s.memSet_same a b); exact h
@[simp] theorem State.memSet_tracks (s : State) (a : Nat) (b : Byte) : (s.memSet a b).tracks = s.tracks := by
  have h := congrArg State.tracks (s.memSet_same a b); exact h
@[simp] theorem State.memSet_claimed (s : State) (a : Nat) (b : Byte) : (s.memSet a b).claimed = s.claimed := by
  have h := congrArg State.claimed (s.memSet_same a b); exact h
@[simp] theorem State.memSet_window (s : State) (a : Nat) (b : Byte) : (s.memSet a b).window = s.window := by
  have h := congrArg State.window (s.memSet_same a b); exact h
@[simp] theorem State.memSet_bundles (s : State) (a : Nat) (b : Byte) : (s.memSet a b).bundles = s.bundles := by
  have h := congrArg State.bundles (s.memSet_same a b); exact h
@[simp] theorem State.memSet_members (s : State) (a : Nat) (b : Byte) : (s.memSet a b).members = s.members := by
  have h := congrArg State.members (s.memSet_same a b); exact h

/-! ### atMoment -/

@[simp] theorem State.atMoment_schedule (s : State) (m : Moment) : (s.atMoment m).schedule = s.schedule := rfl
@[simp] theorem State.atMoment_tick (s : State) (m : Moment) : (s.atMoment m).tick = s.tick := rfl
@[simp] theorem State.atMoment_nextId (s : State) (m : Moment) : (s.atMoment m).nextId = s.nextId := rfl
@[simp] theorem State.atMoment_rr (s : State) (m : Moment) : (s.atMoment m).rr = s.rr := rfl
@[simp] theorem State.atMoment_hostReply (s : State) (m : Moment) : (s.atMoment m).hostReply = s.hostReply := rfl
@[simp] theorem State.atMoment_hostRetry (s : State) (m : Moment) : (s.atMoment m).hostRetry = s.hostRetry := rfl
@[simp] theorem State.atMoment_codeWas (s : State) (m : Moment) : (s.atMoment m).codeWas = s.codeWas := rfl
@[simp] theorem State.atMoment_time (s : State) (m : Moment) : (s.atMoment m).time = s.time := rfl
@[simp] theorem State.atMoment_powered (s : State) (m : Moment) : (s.atMoment m).powered = s.powered := rfl
@[simp] theorem State.atMoment_stage (s : State) (m : Moment) : (s.atMoment m).stage = s.stage := rfl
@[simp] theorem State.atMoment_stageError (s : State) (m : Moment) : (s.atMoment m).stageError = s.stageError := rfl
@[simp] theorem State.atMoment_linksAt (s : State) (m : Moment) : (s.atMoment m).linksAt = s.linksAt := rfl
@[simp] theorem State.atMoment_chipId (s : State) (m : Moment) : (s.atMoment m).chipId = s.chipId := rfl
@[simp] theorem State.atMoment_dies (s : State) (m : Moment) : (s.atMoment m).dies = s.dies := rfl
@[simp] theorem State.atMoment_cxlPorts (s : State) (m : Moment) : (s.atMoment m).cxlPorts = s.cxlPorts := rfl
@[simp] theorem State.atMoment_fabricPorts (s : State) (m : Moment) : (s.atMoment m).fabricPorts = s.fabricPorts := rfl
@[simp] theorem State.atMoment_firmware (s : State) (m : Moment) : (s.atMoment m).firmware = s.firmware := rfl
@[simp] theorem State.atMoment_coresPresent (s : State) (m : Moment) : (s.atMoment m).coresPresent = s.coresPresent := rfl
@[simp] theorem State.atMoment_arraysOut (s : State) (m : Moment) : (s.atMoment m).arraysOut = s.arraysOut := rfl
@[simp] theorem State.atMoment_channels (s : State) (m : Moment) : (s.atMoment m).channels = s.channels := rfl
@[simp] theorem State.atMoment_scheduleEntries (s : State) (m : Moment) : (s.atMoment m).scheduleEntries = s.scheduleEntries := rfl
@[simp] theorem State.atMoment_vfMap (s : State) (m : Moment) : (s.atMoment m).vfMap = s.vfMap := rfl
@[simp] theorem State.atMoment_aperts (s : State) (m : Moment) : (s.atMoment m).aperts = s.aperts := rfl
@[simp] theorem State.atMoment_fabric (s : State) (m : Moment) : (s.atMoment m).fabric = s.fabric := rfl
@[simp] theorem State.atMoment_slots (s : State) (m : Moment) : (s.atMoment m).slots = s.slots := rfl
@[simp] theorem State.atMoment_log (s : State) (m : Moment) : (s.atMoment m).log = s.log := rfl
@[simp] theorem State.atMoment_nextSignature (s : State) (m : Moment) : (s.atMoment m).nextSignature = s.nextSignature := rfl
@[simp] theorem State.atMoment_reports (s : State) (m : Moment) : (s.atMoment m).reports = s.reports := rfl
@[simp] theorem State.atMoment_shutdown (s : State) (m : Moment) : (s.atMoment m).shutdown = s.shutdown := rfl
@[simp] theorem State.atMoment_powerLimit (s : State) (m : Moment) : (s.atMoment m).powerLimit = s.powerLimit := rfl
@[simp] theorem State.atMoment_idleCycles (s : State) (m : Moment) : (s.atMoment m).idleCycles = s.idleCycles := rfl
@[simp] theorem State.atMoment_clockStep (s : State) (m : Moment) : (s.atMoment m).clockStep = s.clockStep := rfl
@[simp] theorem State.atMoment_fwHndlr (s : State) (m : Moment) : (s.atMoment m).fwHndlr = s.fwHndlr := rfl
@[simp] theorem State.atMoment_changesDone (s : State) (m : Moment) : (s.atMoment m).changesDone = s.changesDone := rfl
@[simp] theorem State.atMoment_dieCorrected (s : State) (m : Moment) : (s.atMoment m).dieCorrected = s.dieCorrected := rfl
@[simp] theorem State.atMoment_pcbs (s : State) (m : Moment) : (s.atMoment m).pcbs = s.pcbs := rfl
@[simp] theorem State.atMoment_launches (s : State) (m : Moment) : (s.atMoment m).launches = s.launches := rfl
@[simp] theorem State.atMoment_crews (s : State) (m : Moment) : (s.atMoment m).crews = s.crews := rfl
@[simp] theorem State.atMoment_weaves (s : State) (m : Moment) : (s.atMoment m).weaves = s.weaves := rfl
@[simp] theorem State.atMoment_coreStates (s : State) (m : Moment) : (s.atMoment m).coreStates = s.coreStates := rfl
@[simp] theorem State.atMoment_flights (s : State) (m : Moment) : (s.atMoment m).flights = s.flights := rfl
@[simp] theorem State.atMoment_pending (s : State) (m : Moment) : (s.atMoment m).pending = s.pending := rfl
@[simp] theorem State.atMoment_transits (s : State) (m : Moment) : (s.atMoment m).transits = s.transits := rfl
@[simp] theorem State.atMoment_arrays (s : State) (m : Moment) : (s.atMoment m).arrays = s.arrays := rfl
@[simp] theorem State.atMoment_threads (s : State) (m : Moment) : (s.atMoment m).threads = s.threads := rfl
@[simp] theorem State.atMoment_tagCounts (s : State) (m : Moment) : (s.atMoment m).tagCounts = s.tagCounts := rfl
@[simp] theorem State.atMoment_flipScopes (s : State) (m : Moment) : (s.atMoment m).flipScopes = s.flipScopes := rfl
@[simp] theorem State.atMoment_merged (s : State) (m : Moment) : (s.atMoment m).merged = s.merged := rfl
@[simp] theorem State.atMoment_mem (s : State) (m : Moment) : (s.atMoment m).mem = s.mem := rfl
@[simp] theorem State.atMoment_spad (s : State) (m : Moment) : (s.atMoment m).spad = s.spad := rfl
@[simp] theorem State.atMoment_store (s : State) (m : Moment) : (s.atMoment m).store = s.store := rfl
@[simp] theorem State.atMoment_hostMem (s : State) (m : Moment) : (s.atMoment m).hostMem = s.hostMem := rfl
@[simp] theorem State.atMoment_hostGrant (s : State) (m : Moment) : (s.atMoment m).hostGrant = s.hostGrant := rfl
@[simp] theorem State.atMoment_poison (s : State) (m : Moment) : (s.atMoment m).poison = s.poison := rfl
@[simp] theorem State.atMoment_caches (s : State) (m : Moment) : (s.atMoment m).caches = s.caches := rfl
@[simp] theorem State.atMoment_dirs (s : State) (m : Moment) : (s.atMoment m).dirs = s.dirs := rfl
@[simp] theorem State.atMoment_resident (s : State) (m : Moment) : (s.atMoment m).resident = s.resident := rfl
@[simp] theorem State.atMoment_fills (s : State) (m : Moment) : (s.atMoment m).fills = s.fills := rfl
@[simp] theorem State.atMoment_retries (s : State) (m : Moment) : (s.atMoment m).retries = s.retries := rfl
@[simp] theorem State.atMoment_homeRetries (s : State) (m : Moment) : (s.atMoment m).homeRetries = s.homeRetries := rfl
@[simp] theorem State.atMoment_sleeping (s : State) (m : Moment) : (s.atMoment m).sleeping = s.sleeping := rfl
@[simp] theorem State.atMoment_sliceMaps (s : State) (m : Moment) : (s.atMoment m).sliceMaps = s.sliceMaps := rfl
@[simp] theorem State.atMoment_otb (s : State) (m : Moment) : (s.atMoment m).otb = s.otb := rfl
@[simp] theorem State.atMoment_cxl (s : State) (m : Moment) : (s.atMoment m).cxl = s.cxl := rfl
@[simp] theorem State.atMoment_mapGen (s : State) (m : Moment) : (s.atMoment m).mapGen = s.mapGen := rfl
@[simp] theorem State.atMoment_baseGen (s : State) (m : Moment) : (s.atMoment m).baseGen = s.baseGen := rfl
@[simp] theorem State.atMoment_regions (s : State) (m : Moment) : (s.atMoment m).regions = s.regions := rfl
@[simp] theorem State.atMoment_tracks (s : State) (m : Moment) : (s.atMoment m).tracks = s.tracks := rfl
@[simp] theorem State.atMoment_claimed (s : State) (m : Moment) : (s.atMoment m).claimed = s.claimed := rfl
@[simp] theorem State.atMoment_window (s : State) (m : Moment) : (s.atMoment m).window = s.window := rfl
@[simp] theorem State.atMoment_bundles (s : State) (m : Moment) : (s.atMoment m).bundles = s.bundles := rfl
@[simp] theorem State.atMoment_members (s : State) (m : Moment) : (s.atMoment m).members = s.members := rfl

/-! ### dropFlight -/

@[simp] theorem State.dropFlight_cur (s : State) (n : Nat) : (s.dropFlight n).cur = s.cur := rfl
@[simp] theorem State.dropFlight_schedule (s : State) (n : Nat) : (s.dropFlight n).schedule = s.schedule := rfl
@[simp] theorem State.dropFlight_tick (s : State) (n : Nat) : (s.dropFlight n).tick = s.tick := rfl
@[simp] theorem State.dropFlight_nextId (s : State) (n : Nat) : (s.dropFlight n).nextId = s.nextId := rfl
@[simp] theorem State.dropFlight_rr (s : State) (n : Nat) : (s.dropFlight n).rr = s.rr := rfl
@[simp] theorem State.dropFlight_hostReply (s : State) (n : Nat) : (s.dropFlight n).hostReply = s.hostReply := rfl
@[simp] theorem State.dropFlight_hostRetry (s : State) (n : Nat) : (s.dropFlight n).hostRetry = s.hostRetry := rfl
@[simp] theorem State.dropFlight_codeWas (s : State) (n : Nat) : (s.dropFlight n).codeWas = s.codeWas := rfl
@[simp] theorem State.dropFlight_time (s : State) (n : Nat) : (s.dropFlight n).time = s.time := rfl
@[simp] theorem State.dropFlight_powered (s : State) (n : Nat) : (s.dropFlight n).powered = s.powered := rfl
@[simp] theorem State.dropFlight_stage (s : State) (n : Nat) : (s.dropFlight n).stage = s.stage := rfl
@[simp] theorem State.dropFlight_stageError (s : State) (n : Nat) : (s.dropFlight n).stageError = s.stageError := rfl
@[simp] theorem State.dropFlight_linksAt (s : State) (n : Nat) : (s.dropFlight n).linksAt = s.linksAt := rfl
@[simp] theorem State.dropFlight_chipId (s : State) (n : Nat) : (s.dropFlight n).chipId = s.chipId := rfl
@[simp] theorem State.dropFlight_dies (s : State) (n : Nat) : (s.dropFlight n).dies = s.dies := rfl
@[simp] theorem State.dropFlight_cxlPorts (s : State) (n : Nat) : (s.dropFlight n).cxlPorts = s.cxlPorts := rfl
@[simp] theorem State.dropFlight_fabricPorts (s : State) (n : Nat) : (s.dropFlight n).fabricPorts = s.fabricPorts := rfl
@[simp] theorem State.dropFlight_firmware (s : State) (n : Nat) : (s.dropFlight n).firmware = s.firmware := rfl
@[simp] theorem State.dropFlight_coresPresent (s : State) (n : Nat) : (s.dropFlight n).coresPresent = s.coresPresent := rfl
@[simp] theorem State.dropFlight_arraysOut (s : State) (n : Nat) : (s.dropFlight n).arraysOut = s.arraysOut := rfl
@[simp] theorem State.dropFlight_channels (s : State) (n : Nat) : (s.dropFlight n).channels = s.channels := rfl
@[simp] theorem State.dropFlight_scheduleEntries (s : State) (n : Nat) : (s.dropFlight n).scheduleEntries = s.scheduleEntries := rfl
@[simp] theorem State.dropFlight_vfMap (s : State) (n : Nat) : (s.dropFlight n).vfMap = s.vfMap := rfl
@[simp] theorem State.dropFlight_aperts (s : State) (n : Nat) : (s.dropFlight n).aperts = s.aperts := rfl
@[simp] theorem State.dropFlight_fabric (s : State) (n : Nat) : (s.dropFlight n).fabric = s.fabric := rfl
@[simp] theorem State.dropFlight_slots (s : State) (n : Nat) : (s.dropFlight n).slots = s.slots := rfl
@[simp] theorem State.dropFlight_log (s : State) (n : Nat) : (s.dropFlight n).log = s.log := rfl
@[simp] theorem State.dropFlight_nextSignature (s : State) (n : Nat) : (s.dropFlight n).nextSignature = s.nextSignature := rfl
@[simp] theorem State.dropFlight_reports (s : State) (n : Nat) : (s.dropFlight n).reports = s.reports := rfl
@[simp] theorem State.dropFlight_shutdown (s : State) (n : Nat) : (s.dropFlight n).shutdown = s.shutdown := rfl
@[simp] theorem State.dropFlight_powerLimit (s : State) (n : Nat) : (s.dropFlight n).powerLimit = s.powerLimit := rfl
@[simp] theorem State.dropFlight_idleCycles (s : State) (n : Nat) : (s.dropFlight n).idleCycles = s.idleCycles := rfl
@[simp] theorem State.dropFlight_clockStep (s : State) (n : Nat) : (s.dropFlight n).clockStep = s.clockStep := rfl
@[simp] theorem State.dropFlight_fwHndlr (s : State) (n : Nat) : (s.dropFlight n).fwHndlr = s.fwHndlr := rfl
@[simp] theorem State.dropFlight_changesDone (s : State) (n : Nat) : (s.dropFlight n).changesDone = s.changesDone := rfl
@[simp] theorem State.dropFlight_dieCorrected (s : State) (n : Nat) : (s.dropFlight n).dieCorrected = s.dieCorrected := rfl
@[simp] theorem State.dropFlight_pcbs (s : State) (n : Nat) : (s.dropFlight n).pcbs = s.pcbs := rfl
@[simp] theorem State.dropFlight_launches (s : State) (n : Nat) : (s.dropFlight n).launches = s.launches := rfl
@[simp] theorem State.dropFlight_crews (s : State) (n : Nat) : (s.dropFlight n).crews = s.crews := rfl
@[simp] theorem State.dropFlight_weaves (s : State) (n : Nat) : (s.dropFlight n).weaves = s.weaves := rfl
@[simp] theorem State.dropFlight_coreStates (s : State) (n : Nat) : (s.dropFlight n).coreStates = s.coreStates := rfl
@[simp] theorem State.dropFlight_transits (s : State) (n : Nat) : (s.dropFlight n).transits = s.transits := rfl
@[simp] theorem State.dropFlight_arrays (s : State) (n : Nat) : (s.dropFlight n).arrays = s.arrays := rfl
@[simp] theorem State.dropFlight_threads (s : State) (n : Nat) : (s.dropFlight n).threads = s.threads := rfl
@[simp] theorem State.dropFlight_tagCounts (s : State) (n : Nat) : (s.dropFlight n).tagCounts = s.tagCounts := rfl
@[simp] theorem State.dropFlight_flipScopes (s : State) (n : Nat) : (s.dropFlight n).flipScopes = s.flipScopes := rfl
@[simp] theorem State.dropFlight_merged (s : State) (n : Nat) : (s.dropFlight n).merged = s.merged := rfl
@[simp] theorem State.dropFlight_mem (s : State) (n : Nat) : (s.dropFlight n).mem = s.mem := rfl
@[simp] theorem State.dropFlight_spad (s : State) (n : Nat) : (s.dropFlight n).spad = s.spad := rfl
@[simp] theorem State.dropFlight_store (s : State) (n : Nat) : (s.dropFlight n).store = s.store := rfl
@[simp] theorem State.dropFlight_hostMem (s : State) (n : Nat) : (s.dropFlight n).hostMem = s.hostMem := rfl
@[simp] theorem State.dropFlight_hostGrant (s : State) (n : Nat) : (s.dropFlight n).hostGrant = s.hostGrant := rfl
@[simp] theorem State.dropFlight_poison (s : State) (n : Nat) : (s.dropFlight n).poison = s.poison := rfl
@[simp] theorem State.dropFlight_caches (s : State) (n : Nat) : (s.dropFlight n).caches = s.caches := rfl
@[simp] theorem State.dropFlight_dirs (s : State) (n : Nat) : (s.dropFlight n).dirs = s.dirs := rfl
@[simp] theorem State.dropFlight_resident (s : State) (n : Nat) : (s.dropFlight n).resident = s.resident := rfl
@[simp] theorem State.dropFlight_fills (s : State) (n : Nat) : (s.dropFlight n).fills = s.fills := rfl
@[simp] theorem State.dropFlight_retries (s : State) (n : Nat) : (s.dropFlight n).retries = s.retries := rfl
@[simp] theorem State.dropFlight_homeRetries (s : State) (n : Nat) : (s.dropFlight n).homeRetries = s.homeRetries := rfl
@[simp] theorem State.dropFlight_sleeping (s : State) (n : Nat) : (s.dropFlight n).sleeping = s.sleeping := rfl
@[simp] theorem State.dropFlight_sliceMaps (s : State) (n : Nat) : (s.dropFlight n).sliceMaps = s.sliceMaps := rfl
@[simp] theorem State.dropFlight_otb (s : State) (n : Nat) : (s.dropFlight n).otb = s.otb := rfl
@[simp] theorem State.dropFlight_cxl (s : State) (n : Nat) : (s.dropFlight n).cxl = s.cxl := rfl
@[simp] theorem State.dropFlight_mapGen (s : State) (n : Nat) : (s.dropFlight n).mapGen = s.mapGen := rfl
@[simp] theorem State.dropFlight_baseGen (s : State) (n : Nat) : (s.dropFlight n).baseGen = s.baseGen := rfl
@[simp] theorem State.dropFlight_regions (s : State) (n : Nat) : (s.dropFlight n).regions = s.regions := rfl
@[simp] theorem State.dropFlight_tracks (s : State) (n : Nat) : (s.dropFlight n).tracks = s.tracks := rfl
@[simp] theorem State.dropFlight_claimed (s : State) (n : Nat) : (s.dropFlight n).claimed = s.claimed := rfl
@[simp] theorem State.dropFlight_window (s : State) (n : Nat) : (s.dropFlight n).window = s.window := rfl
@[simp] theorem State.dropFlight_bundles (s : State) (n : Nat) : (s.dropFlight n).bundles = s.bundles := rfl
@[simp] theorem State.dropFlight_members (s : State) (n : Nat) : (s.dropFlight n).members = s.members := rfl

/-! ### fly -/

@[simp] theorem State.fly_cur (s : State) (i : FaultInfo) (d : Dest) (l : List (Option Nat)) (m : LaneMask) (c : Bool) : (s.fly i d l m c).cur = s.cur := rfl
@[simp] theorem State.fly_schedule (s : State) (i : FaultInfo) (d : Dest) (l : List (Option Nat)) (m : LaneMask) (c : Bool) : (s.fly i d l m c).schedule = s.schedule := rfl
@[simp] theorem State.fly_tick (s : State) (i : FaultInfo) (d : Dest) (l : List (Option Nat)) (m : LaneMask) (c : Bool) : (s.fly i d l m c).tick = s.tick := rfl
@[simp] theorem State.fly_rr (s : State) (i : FaultInfo) (d : Dest) (l : List (Option Nat)) (m : LaneMask) (c : Bool) : (s.fly i d l m c).rr = s.rr := rfl
@[simp] theorem State.fly_hostReply (s : State) (i : FaultInfo) (d : Dest) (l : List (Option Nat)) (m : LaneMask) (c : Bool) : (s.fly i d l m c).hostReply = s.hostReply := rfl
@[simp] theorem State.fly_hostRetry (s : State) (i : FaultInfo) (d : Dest) (l : List (Option Nat)) (m : LaneMask) (c : Bool) : (s.fly i d l m c).hostRetry = s.hostRetry := rfl
@[simp] theorem State.fly_codeWas (s : State) (i : FaultInfo) (d : Dest) (l : List (Option Nat)) (m : LaneMask) (c : Bool) : (s.fly i d l m c).codeWas = s.codeWas := rfl
@[simp] theorem State.fly_time (s : State) (i : FaultInfo) (d : Dest) (l : List (Option Nat)) (m : LaneMask) (c : Bool) : (s.fly i d l m c).time = s.time := rfl
@[simp] theorem State.fly_powered (s : State) (i : FaultInfo) (d : Dest) (l : List (Option Nat)) (m : LaneMask) (c : Bool) : (s.fly i d l m c).powered = s.powered := rfl
@[simp] theorem State.fly_stage (s : State) (i : FaultInfo) (d : Dest) (l : List (Option Nat)) (m : LaneMask) (c : Bool) : (s.fly i d l m c).stage = s.stage := rfl
@[simp] theorem State.fly_stageError (s : State) (i : FaultInfo) (d : Dest) (l : List (Option Nat)) (m : LaneMask) (c : Bool) : (s.fly i d l m c).stageError = s.stageError := rfl
@[simp] theorem State.fly_linksAt (s : State) (i : FaultInfo) (d : Dest) (l : List (Option Nat)) (m : LaneMask) (c : Bool) : (s.fly i d l m c).linksAt = s.linksAt := rfl
@[simp] theorem State.fly_chipId (s : State) (i : FaultInfo) (d : Dest) (l : List (Option Nat)) (m : LaneMask) (c : Bool) : (s.fly i d l m c).chipId = s.chipId := rfl
@[simp] theorem State.fly_dies (s : State) (i : FaultInfo) (d : Dest) (l : List (Option Nat)) (m : LaneMask) (c : Bool) : (s.fly i d l m c).dies = s.dies := rfl
@[simp] theorem State.fly_cxlPorts (s : State) (i : FaultInfo) (d : Dest) (l : List (Option Nat)) (m : LaneMask) (c : Bool) : (s.fly i d l m c).cxlPorts = s.cxlPorts := rfl
@[simp] theorem State.fly_fabricPorts (s : State) (i : FaultInfo) (d : Dest) (l : List (Option Nat)) (m : LaneMask) (c : Bool) : (s.fly i d l m c).fabricPorts = s.fabricPorts := rfl
@[simp] theorem State.fly_firmware (s : State) (i : FaultInfo) (d : Dest) (l : List (Option Nat)) (m : LaneMask) (c : Bool) : (s.fly i d l m c).firmware = s.firmware := rfl
@[simp] theorem State.fly_coresPresent (s : State) (i : FaultInfo) (d : Dest) (l : List (Option Nat)) (m : LaneMask) (c : Bool) : (s.fly i d l m c).coresPresent = s.coresPresent := rfl
@[simp] theorem State.fly_arraysOut (s : State) (i : FaultInfo) (d : Dest) (l : List (Option Nat)) (m : LaneMask) (c : Bool) : (s.fly i d l m c).arraysOut = s.arraysOut := rfl
@[simp] theorem State.fly_channels (s : State) (i : FaultInfo) (d : Dest) (l : List (Option Nat)) (m : LaneMask) (c : Bool) : (s.fly i d l m c).channels = s.channels := rfl
@[simp] theorem State.fly_scheduleEntries (s : State) (i : FaultInfo) (d : Dest) (l : List (Option Nat)) (m : LaneMask) (c : Bool) : (s.fly i d l m c).scheduleEntries = s.scheduleEntries := rfl
@[simp] theorem State.fly_vfMap (s : State) (i : FaultInfo) (d : Dest) (l : List (Option Nat)) (m : LaneMask) (c : Bool) : (s.fly i d l m c).vfMap = s.vfMap := rfl
@[simp] theorem State.fly_aperts (s : State) (i : FaultInfo) (d : Dest) (l : List (Option Nat)) (m : LaneMask) (c : Bool) : (s.fly i d l m c).aperts = s.aperts := rfl
@[simp] theorem State.fly_fabric (s : State) (i : FaultInfo) (d : Dest) (l : List (Option Nat)) (m : LaneMask) (c : Bool) : (s.fly i d l m c).fabric = s.fabric := rfl
@[simp] theorem State.fly_slots (s : State) (i : FaultInfo) (d : Dest) (l : List (Option Nat)) (m : LaneMask) (c : Bool) : (s.fly i d l m c).slots = s.slots := rfl
@[simp] theorem State.fly_log (s : State) (i : FaultInfo) (d : Dest) (l : List (Option Nat)) (m : LaneMask) (c : Bool) : (s.fly i d l m c).log = s.log := rfl
@[simp] theorem State.fly_nextSignature (s : State) (i : FaultInfo) (d : Dest) (l : List (Option Nat)) (m : LaneMask) (c : Bool) : (s.fly i d l m c).nextSignature = s.nextSignature := rfl
@[simp] theorem State.fly_reports (s : State) (i : FaultInfo) (d : Dest) (l : List (Option Nat)) (m : LaneMask) (c : Bool) : (s.fly i d l m c).reports = s.reports := rfl
@[simp] theorem State.fly_shutdown (s : State) (i : FaultInfo) (d : Dest) (l : List (Option Nat)) (m : LaneMask) (c : Bool) : (s.fly i d l m c).shutdown = s.shutdown := rfl
@[simp] theorem State.fly_powerLimit (s : State) (i : FaultInfo) (d : Dest) (l : List (Option Nat)) (m : LaneMask) (c : Bool) : (s.fly i d l m c).powerLimit = s.powerLimit := rfl
@[simp] theorem State.fly_idleCycles (s : State) (i : FaultInfo) (d : Dest) (l : List (Option Nat)) (m : LaneMask) (c : Bool) : (s.fly i d l m c).idleCycles = s.idleCycles := rfl
@[simp] theorem State.fly_clockStep (s : State) (i : FaultInfo) (d : Dest) (l : List (Option Nat)) (m : LaneMask) (c : Bool) : (s.fly i d l m c).clockStep = s.clockStep := rfl
@[simp] theorem State.fly_fwHndlr (s : State) (i : FaultInfo) (d : Dest) (l : List (Option Nat)) (m : LaneMask) (c : Bool) : (s.fly i d l m c).fwHndlr = s.fwHndlr := rfl
@[simp] theorem State.fly_changesDone (s : State) (i : FaultInfo) (d : Dest) (l : List (Option Nat)) (m : LaneMask) (c : Bool) : (s.fly i d l m c).changesDone = s.changesDone := rfl
@[simp] theorem State.fly_dieCorrected (s : State) (i : FaultInfo) (d : Dest) (l : List (Option Nat)) (m : LaneMask) (c : Bool) : (s.fly i d l m c).dieCorrected = s.dieCorrected := rfl
@[simp] theorem State.fly_pcbs (s : State) (i : FaultInfo) (d : Dest) (l : List (Option Nat)) (m : LaneMask) (c : Bool) : (s.fly i d l m c).pcbs = s.pcbs := rfl
@[simp] theorem State.fly_launches (s : State) (i : FaultInfo) (d : Dest) (l : List (Option Nat)) (m : LaneMask) (c : Bool) : (s.fly i d l m c).launches = s.launches := rfl
@[simp] theorem State.fly_crews (s : State) (i : FaultInfo) (d : Dest) (l : List (Option Nat)) (m : LaneMask) (c : Bool) : (s.fly i d l m c).crews = s.crews := rfl
@[simp] theorem State.fly_weaves (s : State) (i : FaultInfo) (d : Dest) (l : List (Option Nat)) (m : LaneMask) (c : Bool) : (s.fly i d l m c).weaves = s.weaves := rfl
@[simp] theorem State.fly_coreStates (s : State) (i : FaultInfo) (d : Dest) (l : List (Option Nat)) (m : LaneMask) (c : Bool) : (s.fly i d l m c).coreStates = s.coreStates := rfl
@[simp] theorem State.fly_pending (s : State) (i : FaultInfo) (d : Dest) (l : List (Option Nat)) (m : LaneMask) (c : Bool) : (s.fly i d l m c).pending = s.pending := rfl
@[simp] theorem State.fly_transits (s : State) (i : FaultInfo) (d : Dest) (l : List (Option Nat)) (m : LaneMask) (c : Bool) : (s.fly i d l m c).transits = s.transits := rfl
@[simp] theorem State.fly_arrays (s : State) (i : FaultInfo) (d : Dest) (l : List (Option Nat)) (m : LaneMask) (c : Bool) : (s.fly i d l m c).arrays = s.arrays := rfl
@[simp] theorem State.fly_threads (s : State) (i : FaultInfo) (d : Dest) (l : List (Option Nat)) (m : LaneMask) (c : Bool) : (s.fly i d l m c).threads = s.threads := rfl
@[simp] theorem State.fly_tagCounts (s : State) (i : FaultInfo) (d : Dest) (l : List (Option Nat)) (m : LaneMask) (c : Bool) : (s.fly i d l m c).tagCounts = s.tagCounts := rfl
@[simp] theorem State.fly_flipScopes (s : State) (i : FaultInfo) (d : Dest) (l : List (Option Nat)) (m : LaneMask) (c : Bool) : (s.fly i d l m c).flipScopes = s.flipScopes := rfl
@[simp] theorem State.fly_merged (s : State) (i : FaultInfo) (d : Dest) (l : List (Option Nat)) (m : LaneMask) (c : Bool) : (s.fly i d l m c).merged = s.merged := rfl
@[simp] theorem State.fly_mem (s : State) (i : FaultInfo) (d : Dest) (l : List (Option Nat)) (m : LaneMask) (c : Bool) : (s.fly i d l m c).mem = s.mem := rfl
@[simp] theorem State.fly_spad (s : State) (i : FaultInfo) (d : Dest) (l : List (Option Nat)) (m : LaneMask) (c : Bool) : (s.fly i d l m c).spad = s.spad := rfl
@[simp] theorem State.fly_store (s : State) (i : FaultInfo) (d : Dest) (l : List (Option Nat)) (m : LaneMask) (c : Bool) : (s.fly i d l m c).store = s.store := rfl
@[simp] theorem State.fly_hostMem (s : State) (i : FaultInfo) (d : Dest) (l : List (Option Nat)) (m : LaneMask) (c : Bool) : (s.fly i d l m c).hostMem = s.hostMem := rfl
@[simp] theorem State.fly_hostGrant (s : State) (i : FaultInfo) (d : Dest) (l : List (Option Nat)) (m : LaneMask) (c : Bool) : (s.fly i d l m c).hostGrant = s.hostGrant := rfl
@[simp] theorem State.fly_poison (s : State) (i : FaultInfo) (d : Dest) (l : List (Option Nat)) (m : LaneMask) (c : Bool) : (s.fly i d l m c).poison = s.poison := rfl
@[simp] theorem State.fly_caches (s : State) (i : FaultInfo) (d : Dest) (l : List (Option Nat)) (m : LaneMask) (c : Bool) : (s.fly i d l m c).caches = s.caches := rfl
@[simp] theorem State.fly_dirs (s : State) (i : FaultInfo) (d : Dest) (l : List (Option Nat)) (m : LaneMask) (c : Bool) : (s.fly i d l m c).dirs = s.dirs := rfl
@[simp] theorem State.fly_resident (s : State) (i : FaultInfo) (d : Dest) (l : List (Option Nat)) (m : LaneMask) (c : Bool) : (s.fly i d l m c).resident = s.resident := rfl
@[simp] theorem State.fly_fills (s : State) (i : FaultInfo) (d : Dest) (l : List (Option Nat)) (m : LaneMask) (c : Bool) : (s.fly i d l m c).fills = s.fills := rfl
@[simp] theorem State.fly_retries (s : State) (i : FaultInfo) (d : Dest) (l : List (Option Nat)) (m : LaneMask) (c : Bool) : (s.fly i d l m c).retries = s.retries := rfl
@[simp] theorem State.fly_homeRetries (s : State) (i : FaultInfo) (d : Dest) (l : List (Option Nat)) (m : LaneMask) (c : Bool) : (s.fly i d l m c).homeRetries = s.homeRetries := rfl
@[simp] theorem State.fly_sleeping (s : State) (i : FaultInfo) (d : Dest) (l : List (Option Nat)) (m : LaneMask) (c : Bool) : (s.fly i d l m c).sleeping = s.sleeping := rfl
@[simp] theorem State.fly_sliceMaps (s : State) (i : FaultInfo) (d : Dest) (l : List (Option Nat)) (m : LaneMask) (c : Bool) : (s.fly i d l m c).sliceMaps = s.sliceMaps := rfl
@[simp] theorem State.fly_otb (s : State) (i : FaultInfo) (d : Dest) (l : List (Option Nat)) (m : LaneMask) (c : Bool) : (s.fly i d l m c).otb = s.otb := rfl
@[simp] theorem State.fly_cxl (s : State) (i : FaultInfo) (d : Dest) (l : List (Option Nat)) (m : LaneMask) (c : Bool) : (s.fly i d l m c).cxl = s.cxl := rfl
@[simp] theorem State.fly_mapGen (s : State) (i : FaultInfo) (d : Dest) (l : List (Option Nat)) (m : LaneMask) (c : Bool) : (s.fly i d l m c).mapGen = s.mapGen := rfl
@[simp] theorem State.fly_baseGen (s : State) (i : FaultInfo) (d : Dest) (l : List (Option Nat)) (m : LaneMask) (c : Bool) : (s.fly i d l m c).baseGen = s.baseGen := rfl
@[simp] theorem State.fly_regions (s : State) (i : FaultInfo) (d : Dest) (l : List (Option Nat)) (m : LaneMask) (c : Bool) : (s.fly i d l m c).regions = s.regions := rfl
@[simp] theorem State.fly_tracks (s : State) (i : FaultInfo) (d : Dest) (l : List (Option Nat)) (m : LaneMask) (c : Bool) : (s.fly i d l m c).tracks = s.tracks := rfl
@[simp] theorem State.fly_claimed (s : State) (i : FaultInfo) (d : Dest) (l : List (Option Nat)) (m : LaneMask) (c : Bool) : (s.fly i d l m c).claimed = s.claimed := rfl
@[simp] theorem State.fly_window (s : State) (i : FaultInfo) (d : Dest) (l : List (Option Nat)) (m : LaneMask) (c : Bool) : (s.fly i d l m c).window = s.window := rfl
@[simp] theorem State.fly_bundles (s : State) (i : FaultInfo) (d : Dest) (l : List (Option Nat)) (m : LaneMask) (c : Bool) : (s.fly i d l m c).bundles = s.bundles := rfl
@[simp] theorem State.fly_members (s : State) (i : FaultInfo) (d : Dest) (l : List (Option Nat)) (m : LaneMask) (c : Bool) : (s.fly i d l m c).members = s.members := rfl

/-! ### setEntry -/

@[simp] theorem Weave.setEntry_id (w : Weave) (e : Nat) (x : SplitEntry) : (w.setEntry e x).id = w.id := rfl
@[simp] theorem Weave.setEntry_crew (w : Weave) (e : Nat) (x : SplitEntry) : (w.setEntry e x).crew = w.crew := rfl
@[simp] theorem Weave.setEntry_index (w : Weave) (e : Nat) (x : SplitEntry) : (w.setEntry e x).index = w.index := rfl
@[simp] theorem Weave.setEntry_aRegs (w : Weave) (e : Nat) (x : SplitEntry) : (w.setEntry e x).aRegs = w.aRegs := rfl
@[simp] theorem Weave.setEntry_aBank (w : Weave) (e : Nat) (x : SplitEntry) : (w.setEntry e x).aBank = w.aBank := rfl
@[simp] theorem Weave.setEntry_aPc (w : Weave) (e : Nat) (x : SplitEntry) : (w.setEntry e x).aPc = w.aPc := rfl
@[simp] theorem Weave.setEntry_aMode (w : Weave) (e : Nat) (x : SplitEntry) : (w.setEntry e x).aMode = w.aMode := rfl
@[simp] theorem Weave.setEntry_aEnded (w : Weave) (e : Nat) (x : SplitEntry) : (w.setEntry e x).aEnded = w.aEnded := rfl
@[simp] theorem Weave.setEntry_aWait (w : Weave) (e : Nat) (x : SplitEntry) : (w.setEntry e x).aWait = w.aWait := rfl
@[simp] theorem Weave.setEntry_aPend (w : Weave) (e : Nat) (x : SplitEntry) : (w.setEntry e x).aPend = w.aPend := rfl
@[simp] theorem Weave.setEntry_sRegs (w : Weave) (e : Nat) (x : SplitEntry) : (w.setEntry e x).sRegs = w.sRegs := rfl
@[simp] theorem Weave.setEntry_sBank (w : Weave) (e : Nat) (x : SplitEntry) : (w.setEntry e x).sBank = w.sBank := rfl
@[simp] theorem Weave.setEntry_vRegs (w : Weave) (e : Nat) (x : SplitEntry) : (w.setEntry e x).vRegs = w.vRegs := rfl
@[simp] theorem Weave.setEntry_pRegs (w : Weave) (e : Nat) (x : SplitEntry) : (w.setEntry e x).pRegs = w.pRegs := rfl
@[simp] theorem Weave.setEntry_xRegs (w : Weave) (e : Nat) (x : SplitEntry) : (w.setEntry e x).xRegs = w.xRegs := rfl
@[simp] theorem Weave.setEntry_queues (w : Weave) (e : Nat) (x : SplitEntry) : (w.setEntry e x).queues = w.queues := rfl
@[simp] theorem Weave.setEntry_ports (w : Weave) (e : Nat) (x : SplitEntry) : (w.setEntry e x).ports = w.ports := rfl
@[simp] theorem Weave.setEntry_lastEntry (w : Weave) (e : Nat) (x : SplitEntry) : (w.setEntry e x).lastEntry = w.lastEntry := rfl
@[simp] theorem Weave.setEntry_takenFirst (w : Weave) (e : Nat) (x : SplitEntry) : (w.setEntry e x).takenFirst = w.takenFirst := rfl
@[simp] theorem Weave.setEntry_cMode (w : Weave) (e : Nat) (x : SplitEntry) : (w.setEntry e x).cMode = w.cMode := rfl
@[simp] theorem Weave.setEntry_cHand (w : Weave) (e : Nat) (x : SplitEntry) : (w.setEntry e x).cHand = w.cHand := rfl
@[simp] theorem Weave.setEntry_cPend (w : Weave) (e : Nat) (x : SplitEntry) : (w.setEntry e x).cPend = w.cPend := rfl
@[simp] theorem Weave.setEntry_stash (w : Weave) (e : Nat) (x : SplitEntry) : (w.setEntry e x).stash = w.stash := rfl
@[simp] theorem Weave.setEntry_aStash (w : Weave) (e : Nat) (x : SplitEntry) : (w.setEntry e x).aStash = w.aStash := rfl
@[simp] theorem Weave.setEntry_mdefA (w : Weave) (e : Nat) (x : SplitEntry) : (w.setEntry e x).mdefA = w.mdefA := rfl
@[simp] theorem Weave.setEntry_mdefC (w : Weave) (e : Nat) (x : SplitEntry) : (w.setEntry e x).mdefC = w.mdefC := rfl
@[simp] theorem Weave.setEntry_fpctl (w : Weave) (e : Nat) (x : SplitEntry) : (w.setEntry e x).fpctl = w.fpctl := rfl
@[simp] theorem Weave.setEntry_gang (w : Weave) (e : Nat) (x : SplitEntry) : (w.setEntry e x).gang = w.gang := rfl
@[simp] theorem Weave.setEntry_pair (w : Weave) (e : Nat) (x : SplitEntry) : (w.setEntry e x).pair = w.pair := rfl
@[simp] theorem Weave.setEntry_breg (w : Weave) (e : Nat) (x : SplitEntry) : (w.setEntry e x).breg = w.breg := rfl
@[simp] theorem Weave.setEntry_views (w : Weave) (e : Nat) (x : SplitEntry) : (w.setEntry e x).views = w.views := rfl
@[simp] theorem Weave.setEntry_mprom (w : Weave) (e : Nat) (x : SplitEntry) : (w.setEntry e x).mprom = w.mprom := rfl
@[simp] theorem Weave.setEntry_chktol (w : Weave) (e : Nat) (x : SplitEntry) : (w.setEntry e x).chktol = w.chktol := rfl
@[simp] theorem Weave.setEntry_chkinj (w : Weave) (e : Nat) (x : SplitEntry) : (w.setEntry e x).chkinj = w.chkinj := rfl
@[simp] theorem Weave.setEntry_splitBase (w : Weave) (e : Nat) (x : SplitEntry) : (w.setEntry e x).splitBase = w.splitBase := rfl
@[simp] theorem Weave.setEntry_fltm (w : Weave) (e : Nat) (x : SplitEntry) : (w.setEntry e x).fltm = w.fltm := rfl
@[simp] theorem Weave.setEntry_fltrec (w : Weave) (e : Nat) (x : SplitEntry) : (w.setEntry e x).fltrec = w.fltrec := rfl
@[simp] theorem Weave.setEntry_hndlr (w : Weave) (e : Nat) (x : SplitEntry) : (w.setEntry e x).hndlr = w.hndlr := rfl
@[simp] theorem Weave.setEntry_pgt (w : Weave) (e : Nat) (x : SplitEntry) : (w.setEntry e x).pgt = w.pgt := rfl
@[simp] theorem Weave.setEntry_ctxid (w : Weave) (e : Nat) (x : SplitEntry) : (w.setEntry e x).ctxid = w.ctxid := rfl
@[simp] theorem Weave.setEntry_pwatch (w : Weave) (e : Nat) (x : SplitEntry) : (w.setEntry e x).pwatch = w.pwatch := rfl
@[simp] theorem Weave.setEntry_qcfg (w : Weave) (e : Nat) (x : SplitEntry) : (w.setEntry e x).qcfg = w.qcfg := rfl
@[simp] theorem Weave.setEntry_gens (w : Weave) (e : Nat) (x : SplitEntry) : (w.setEntry e x).gens = w.gens := rfl
@[simp] theorem Weave.setEntry_recs (w : Weave) (e : Nat) (x : SplitEntry) : (w.setEntry e x).recs = w.recs := rfl
@[simp] theorem Weave.setEntry_part (w : Weave) (e : Nat) (x : SplitEntry) : (w.setEntry e x).part = w.part := rfl
@[simp] theorem Weave.setEntry_session (w : Weave) (e : Nat) (x : SplitEntry) : (w.setEntry e x).session = w.session := rfl
@[simp] theorem Weave.setEntry_stopped (w : Weave) (e : Nat) (x : SplitEntry) : (w.setEntry e x).stopped = w.stopped := rfl
@[simp] theorem Weave.setEntry_supJoins (w : Weave) (e : Nat) (x : SplitEntry) : (w.setEntry e x).supJoins = w.supJoins := rfl
@[simp] theorem Weave.setEntry_aIssued (w : Weave) (e : Nat) (x : SplitEntry) : (w.setEntry e x).aIssued = w.aIssued := rfl
@[simp] theorem Weave.setEntry_cIssued (w : Weave) (e : Nat) (x : SplitEntry) : (w.setEntry e x).cIssued = w.cIssued := rfl
@[simp] theorem Weave.setEntry_cWaited (w : Weave) (e : Nat) (x : SplitEntry) : (w.setEntry e x).cWaited = w.cWaited := rfl
@[simp] theorem Weave.setEntry_halted (w : Weave) (e : Nat) (x : SplitEntry) : (w.setEntry e x).halted = w.halted := rfl
@[simp] theorem Weave.setEntry_saved (w : Weave) (e : Nat) (x : SplitEntry) : (w.setEntry e x).saved = w.saved := rfl
@[simp] theorem Weave.setEntry_restored (w : Weave) (e : Nat) (x : SplitEntry) : (w.setEntry e x).restored = w.restored := rfl

/-! ### setPc -/

theorem Weave.setPc_same (w : Weave) (st : Strand) (pc : BitVec 32) :
    { w.setPc st pc with split := w.split, aPc := w.aPc } = w := by cases st <;> rfl

@[simp] theorem Weave.setPc_id (w : Weave) (st : Strand) (pc : BitVec 32) : (w.setPc st pc).id = w.id := by
  have h := congrArg Weave.id (w.setPc_same st pc); exact h
@[simp] theorem Weave.setPc_crew (w : Weave) (st : Strand) (pc : BitVec 32) : (w.setPc st pc).crew = w.crew := by
  have h := congrArg Weave.crew (w.setPc_same st pc); exact h
@[simp] theorem Weave.setPc_index (w : Weave) (st : Strand) (pc : BitVec 32) : (w.setPc st pc).index = w.index := by
  have h := congrArg Weave.index (w.setPc_same st pc); exact h
@[simp] theorem Weave.setPc_aRegs (w : Weave) (st : Strand) (pc : BitVec 32) : (w.setPc st pc).aRegs = w.aRegs := by
  have h := congrArg Weave.aRegs (w.setPc_same st pc); exact h
@[simp] theorem Weave.setPc_aBank (w : Weave) (st : Strand) (pc : BitVec 32) : (w.setPc st pc).aBank = w.aBank := by
  have h := congrArg Weave.aBank (w.setPc_same st pc); exact h
@[simp] theorem Weave.setPc_aMode (w : Weave) (st : Strand) (pc : BitVec 32) : (w.setPc st pc).aMode = w.aMode := by
  have h := congrArg Weave.aMode (w.setPc_same st pc); exact h
@[simp] theorem Weave.setPc_aEnded (w : Weave) (st : Strand) (pc : BitVec 32) : (w.setPc st pc).aEnded = w.aEnded := by
  have h := congrArg Weave.aEnded (w.setPc_same st pc); exact h
@[simp] theorem Weave.setPc_aWait (w : Weave) (st : Strand) (pc : BitVec 32) : (w.setPc st pc).aWait = w.aWait := by
  have h := congrArg Weave.aWait (w.setPc_same st pc); exact h
@[simp] theorem Weave.setPc_aPend (w : Weave) (st : Strand) (pc : BitVec 32) : (w.setPc st pc).aPend = w.aPend := by
  have h := congrArg Weave.aPend (w.setPc_same st pc); exact h
@[simp] theorem Weave.setPc_sRegs (w : Weave) (st : Strand) (pc : BitVec 32) : (w.setPc st pc).sRegs = w.sRegs := by
  have h := congrArg Weave.sRegs (w.setPc_same st pc); exact h
@[simp] theorem Weave.setPc_sBank (w : Weave) (st : Strand) (pc : BitVec 32) : (w.setPc st pc).sBank = w.sBank := by
  have h := congrArg Weave.sBank (w.setPc_same st pc); exact h
@[simp] theorem Weave.setPc_vRegs (w : Weave) (st : Strand) (pc : BitVec 32) : (w.setPc st pc).vRegs = w.vRegs := by
  have h := congrArg Weave.vRegs (w.setPc_same st pc); exact h
@[simp] theorem Weave.setPc_pRegs (w : Weave) (st : Strand) (pc : BitVec 32) : (w.setPc st pc).pRegs = w.pRegs := by
  have h := congrArg Weave.pRegs (w.setPc_same st pc); exact h
@[simp] theorem Weave.setPc_xRegs (w : Weave) (st : Strand) (pc : BitVec 32) : (w.setPc st pc).xRegs = w.xRegs := by
  have h := congrArg Weave.xRegs (w.setPc_same st pc); exact h
@[simp] theorem Weave.setPc_queues (w : Weave) (st : Strand) (pc : BitVec 32) : (w.setPc st pc).queues = w.queues := by
  have h := congrArg Weave.queues (w.setPc_same st pc); exact h
@[simp] theorem Weave.setPc_ports (w : Weave) (st : Strand) (pc : BitVec 32) : (w.setPc st pc).ports = w.ports := by
  have h := congrArg Weave.ports (w.setPc_same st pc); exact h
@[simp] theorem Weave.setPc_lastEntry (w : Weave) (st : Strand) (pc : BitVec 32) : (w.setPc st pc).lastEntry = w.lastEntry := by
  have h := congrArg Weave.lastEntry (w.setPc_same st pc); exact h
@[simp] theorem Weave.setPc_takenFirst (w : Weave) (st : Strand) (pc : BitVec 32) : (w.setPc st pc).takenFirst = w.takenFirst := by
  have h := congrArg Weave.takenFirst (w.setPc_same st pc); exact h
@[simp] theorem Weave.setPc_cMode (w : Weave) (st : Strand) (pc : BitVec 32) : (w.setPc st pc).cMode = w.cMode := by
  have h := congrArg Weave.cMode (w.setPc_same st pc); exact h
@[simp] theorem Weave.setPc_cHand (w : Weave) (st : Strand) (pc : BitVec 32) : (w.setPc st pc).cHand = w.cHand := by
  have h := congrArg Weave.cHand (w.setPc_same st pc); exact h
@[simp] theorem Weave.setPc_cPend (w : Weave) (st : Strand) (pc : BitVec 32) : (w.setPc st pc).cPend = w.cPend := by
  have h := congrArg Weave.cPend (w.setPc_same st pc); exact h
@[simp] theorem Weave.setPc_stash (w : Weave) (st : Strand) (pc : BitVec 32) : (w.setPc st pc).stash = w.stash := by
  have h := congrArg Weave.stash (w.setPc_same st pc); exact h
@[simp] theorem Weave.setPc_aStash (w : Weave) (st : Strand) (pc : BitVec 32) : (w.setPc st pc).aStash = w.aStash := by
  have h := congrArg Weave.aStash (w.setPc_same st pc); exact h
@[simp] theorem Weave.setPc_mdefA (w : Weave) (st : Strand) (pc : BitVec 32) : (w.setPc st pc).mdefA = w.mdefA := by
  have h := congrArg Weave.mdefA (w.setPc_same st pc); exact h
@[simp] theorem Weave.setPc_mdefC (w : Weave) (st : Strand) (pc : BitVec 32) : (w.setPc st pc).mdefC = w.mdefC := by
  have h := congrArg Weave.mdefC (w.setPc_same st pc); exact h
@[simp] theorem Weave.setPc_fpctl (w : Weave) (st : Strand) (pc : BitVec 32) : (w.setPc st pc).fpctl = w.fpctl := by
  have h := congrArg Weave.fpctl (w.setPc_same st pc); exact h
@[simp] theorem Weave.setPc_gang (w : Weave) (st : Strand) (pc : BitVec 32) : (w.setPc st pc).gang = w.gang := by
  have h := congrArg Weave.gang (w.setPc_same st pc); exact h
@[simp] theorem Weave.setPc_pair (w : Weave) (st : Strand) (pc : BitVec 32) : (w.setPc st pc).pair = w.pair := by
  have h := congrArg Weave.pair (w.setPc_same st pc); exact h
@[simp] theorem Weave.setPc_breg (w : Weave) (st : Strand) (pc : BitVec 32) : (w.setPc st pc).breg = w.breg := by
  have h := congrArg Weave.breg (w.setPc_same st pc); exact h
@[simp] theorem Weave.setPc_views (w : Weave) (st : Strand) (pc : BitVec 32) : (w.setPc st pc).views = w.views := by
  have h := congrArg Weave.views (w.setPc_same st pc); exact h
@[simp] theorem Weave.setPc_mprom (w : Weave) (st : Strand) (pc : BitVec 32) : (w.setPc st pc).mprom = w.mprom := by
  have h := congrArg Weave.mprom (w.setPc_same st pc); exact h
@[simp] theorem Weave.setPc_chktol (w : Weave) (st : Strand) (pc : BitVec 32) : (w.setPc st pc).chktol = w.chktol := by
  have h := congrArg Weave.chktol (w.setPc_same st pc); exact h
@[simp] theorem Weave.setPc_chkinj (w : Weave) (st : Strand) (pc : BitVec 32) : (w.setPc st pc).chkinj = w.chkinj := by
  have h := congrArg Weave.chkinj (w.setPc_same st pc); exact h
@[simp] theorem Weave.setPc_splitBase (w : Weave) (st : Strand) (pc : BitVec 32) : (w.setPc st pc).splitBase = w.splitBase := by
  have h := congrArg Weave.splitBase (w.setPc_same st pc); exact h
@[simp] theorem Weave.setPc_fltm (w : Weave) (st : Strand) (pc : BitVec 32) : (w.setPc st pc).fltm = w.fltm := by
  have h := congrArg Weave.fltm (w.setPc_same st pc); exact h
@[simp] theorem Weave.setPc_fltrec (w : Weave) (st : Strand) (pc : BitVec 32) : (w.setPc st pc).fltrec = w.fltrec := by
  have h := congrArg Weave.fltrec (w.setPc_same st pc); exact h
@[simp] theorem Weave.setPc_hndlr (w : Weave) (st : Strand) (pc : BitVec 32) : (w.setPc st pc).hndlr = w.hndlr := by
  have h := congrArg Weave.hndlr (w.setPc_same st pc); exact h
@[simp] theorem Weave.setPc_pgt (w : Weave) (st : Strand) (pc : BitVec 32) : (w.setPc st pc).pgt = w.pgt := by
  have h := congrArg Weave.pgt (w.setPc_same st pc); exact h
@[simp] theorem Weave.setPc_ctxid (w : Weave) (st : Strand) (pc : BitVec 32) : (w.setPc st pc).ctxid = w.ctxid := by
  have h := congrArg Weave.ctxid (w.setPc_same st pc); exact h
@[simp] theorem Weave.setPc_pwatch (w : Weave) (st : Strand) (pc : BitVec 32) : (w.setPc st pc).pwatch = w.pwatch := by
  have h := congrArg Weave.pwatch (w.setPc_same st pc); exact h
@[simp] theorem Weave.setPc_qcfg (w : Weave) (st : Strand) (pc : BitVec 32) : (w.setPc st pc).qcfg = w.qcfg := by
  have h := congrArg Weave.qcfg (w.setPc_same st pc); exact h
@[simp] theorem Weave.setPc_gens (w : Weave) (st : Strand) (pc : BitVec 32) : (w.setPc st pc).gens = w.gens := by
  have h := congrArg Weave.gens (w.setPc_same st pc); exact h
@[simp] theorem Weave.setPc_recs (w : Weave) (st : Strand) (pc : BitVec 32) : (w.setPc st pc).recs = w.recs := by
  have h := congrArg Weave.recs (w.setPc_same st pc); exact h
@[simp] theorem Weave.setPc_part (w : Weave) (st : Strand) (pc : BitVec 32) : (w.setPc st pc).part = w.part := by
  have h := congrArg Weave.part (w.setPc_same st pc); exact h
@[simp] theorem Weave.setPc_session (w : Weave) (st : Strand) (pc : BitVec 32) : (w.setPc st pc).session = w.session := by
  have h := congrArg Weave.session (w.setPc_same st pc); exact h
@[simp] theorem Weave.setPc_stopped (w : Weave) (st : Strand) (pc : BitVec 32) : (w.setPc st pc).stopped = w.stopped := by
  have h := congrArg Weave.stopped (w.setPc_same st pc); exact h
@[simp] theorem Weave.setPc_supJoins (w : Weave) (st : Strand) (pc : BitVec 32) : (w.setPc st pc).supJoins = w.supJoins := by
  have h := congrArg Weave.supJoins (w.setPc_same st pc); exact h
@[simp] theorem Weave.setPc_aIssued (w : Weave) (st : Strand) (pc : BitVec 32) : (w.setPc st pc).aIssued = w.aIssued := by
  have h := congrArg Weave.aIssued (w.setPc_same st pc); exact h
@[simp] theorem Weave.setPc_cIssued (w : Weave) (st : Strand) (pc : BitVec 32) : (w.setPc st pc).cIssued = w.cIssued := by
  have h := congrArg Weave.cIssued (w.setPc_same st pc); exact h
@[simp] theorem Weave.setPc_cWaited (w : Weave) (st : Strand) (pc : BitVec 32) : (w.setPc st pc).cWaited = w.cWaited := by
  have h := congrArg Weave.cWaited (w.setPc_same st pc); exact h
@[simp] theorem Weave.setPc_halted (w : Weave) (st : Strand) (pc : BitVec 32) : (w.setPc st pc).halted = w.halted := by
  have h := congrArg Weave.halted (w.setPc_same st pc); exact h
@[simp] theorem Weave.setPc_saved (w : Weave) (st : Strand) (pc : BitVec 32) : (w.setPc st pc).saved = w.saved := by
  have h := congrArg Weave.saved (w.setPc_same st pc); exact h
@[simp] theorem Weave.setPc_restored (w : Weave) (st : Strand) (pc : BitVec 32) : (w.setPc st pc).restored = w.restored := by
  have h := congrArg Weave.restored (w.setPc_same st pc); exact h

/-! ### setMode -/

theorem Weave.setMode_same (w : Weave) (st : Strand) (m : Mode) :
    { w.setMode st m with aMode := w.aMode, cMode := w.cMode } = w := by cases st <;> rfl

@[simp] theorem Weave.setMode_id (w : Weave) (st : Strand) (m : Mode) : (w.setMode st m).id = w.id := by
  have h := congrArg Weave.id (w.setMode_same st m); exact h
@[simp] theorem Weave.setMode_crew (w : Weave) (st : Strand) (m : Mode) : (w.setMode st m).crew = w.crew := by
  have h := congrArg Weave.crew (w.setMode_same st m); exact h
@[simp] theorem Weave.setMode_index (w : Weave) (st : Strand) (m : Mode) : (w.setMode st m).index = w.index := by
  have h := congrArg Weave.index (w.setMode_same st m); exact h
@[simp] theorem Weave.setMode_aRegs (w : Weave) (st : Strand) (m : Mode) : (w.setMode st m).aRegs = w.aRegs := by
  have h := congrArg Weave.aRegs (w.setMode_same st m); exact h
@[simp] theorem Weave.setMode_aBank (w : Weave) (st : Strand) (m : Mode) : (w.setMode st m).aBank = w.aBank := by
  have h := congrArg Weave.aBank (w.setMode_same st m); exact h
@[simp] theorem Weave.setMode_aPc (w : Weave) (st : Strand) (m : Mode) : (w.setMode st m).aPc = w.aPc := by
  have h := congrArg Weave.aPc (w.setMode_same st m); exact h
@[simp] theorem Weave.setMode_aEnded (w : Weave) (st : Strand) (m : Mode) : (w.setMode st m).aEnded = w.aEnded := by
  have h := congrArg Weave.aEnded (w.setMode_same st m); exact h
@[simp] theorem Weave.setMode_aWait (w : Weave) (st : Strand) (m : Mode) : (w.setMode st m).aWait = w.aWait := by
  have h := congrArg Weave.aWait (w.setMode_same st m); exact h
@[simp] theorem Weave.setMode_aPend (w : Weave) (st : Strand) (m : Mode) : (w.setMode st m).aPend = w.aPend := by
  have h := congrArg Weave.aPend (w.setMode_same st m); exact h
@[simp] theorem Weave.setMode_sRegs (w : Weave) (st : Strand) (m : Mode) : (w.setMode st m).sRegs = w.sRegs := by
  have h := congrArg Weave.sRegs (w.setMode_same st m); exact h
@[simp] theorem Weave.setMode_sBank (w : Weave) (st : Strand) (m : Mode) : (w.setMode st m).sBank = w.sBank := by
  have h := congrArg Weave.sBank (w.setMode_same st m); exact h
@[simp] theorem Weave.setMode_vRegs (w : Weave) (st : Strand) (m : Mode) : (w.setMode st m).vRegs = w.vRegs := by
  have h := congrArg Weave.vRegs (w.setMode_same st m); exact h
@[simp] theorem Weave.setMode_pRegs (w : Weave) (st : Strand) (m : Mode) : (w.setMode st m).pRegs = w.pRegs := by
  have h := congrArg Weave.pRegs (w.setMode_same st m); exact h
@[simp] theorem Weave.setMode_xRegs (w : Weave) (st : Strand) (m : Mode) : (w.setMode st m).xRegs = w.xRegs := by
  have h := congrArg Weave.xRegs (w.setMode_same st m); exact h
@[simp] theorem Weave.setMode_queues (w : Weave) (st : Strand) (m : Mode) : (w.setMode st m).queues = w.queues := by
  have h := congrArg Weave.queues (w.setMode_same st m); exact h
@[simp] theorem Weave.setMode_ports (w : Weave) (st : Strand) (m : Mode) : (w.setMode st m).ports = w.ports := by
  have h := congrArg Weave.ports (w.setMode_same st m); exact h
@[simp] theorem Weave.setMode_split (w : Weave) (st : Strand) (m : Mode) : (w.setMode st m).split = w.split := by
  have h := congrArg Weave.split (w.setMode_same st m); exact h
@[simp] theorem Weave.setMode_lastEntry (w : Weave) (st : Strand) (m : Mode) : (w.setMode st m).lastEntry = w.lastEntry := by
  have h := congrArg Weave.lastEntry (w.setMode_same st m); exact h
@[simp] theorem Weave.setMode_takenFirst (w : Weave) (st : Strand) (m : Mode) : (w.setMode st m).takenFirst = w.takenFirst := by
  have h := congrArg Weave.takenFirst (w.setMode_same st m); exact h
@[simp] theorem Weave.setMode_cHand (w : Weave) (st : Strand) (m : Mode) : (w.setMode st m).cHand = w.cHand := by
  have h := congrArg Weave.cHand (w.setMode_same st m); exact h
@[simp] theorem Weave.setMode_cPend (w : Weave) (st : Strand) (m : Mode) : (w.setMode st m).cPend = w.cPend := by
  have h := congrArg Weave.cPend (w.setMode_same st m); exact h
@[simp] theorem Weave.setMode_stash (w : Weave) (st : Strand) (m : Mode) : (w.setMode st m).stash = w.stash := by
  have h := congrArg Weave.stash (w.setMode_same st m); exact h
@[simp] theorem Weave.setMode_aStash (w : Weave) (st : Strand) (m : Mode) : (w.setMode st m).aStash = w.aStash := by
  have h := congrArg Weave.aStash (w.setMode_same st m); exact h
@[simp] theorem Weave.setMode_mdefA (w : Weave) (st : Strand) (m : Mode) : (w.setMode st m).mdefA = w.mdefA := by
  have h := congrArg Weave.mdefA (w.setMode_same st m); exact h
@[simp] theorem Weave.setMode_mdefC (w : Weave) (st : Strand) (m : Mode) : (w.setMode st m).mdefC = w.mdefC := by
  have h := congrArg Weave.mdefC (w.setMode_same st m); exact h
@[simp] theorem Weave.setMode_fpctl (w : Weave) (st : Strand) (m : Mode) : (w.setMode st m).fpctl = w.fpctl := by
  have h := congrArg Weave.fpctl (w.setMode_same st m); exact h
@[simp] theorem Weave.setMode_gang (w : Weave) (st : Strand) (m : Mode) : (w.setMode st m).gang = w.gang := by
  have h := congrArg Weave.gang (w.setMode_same st m); exact h
@[simp] theorem Weave.setMode_pair (w : Weave) (st : Strand) (m : Mode) : (w.setMode st m).pair = w.pair := by
  have h := congrArg Weave.pair (w.setMode_same st m); exact h
@[simp] theorem Weave.setMode_breg (w : Weave) (st : Strand) (m : Mode) : (w.setMode st m).breg = w.breg := by
  have h := congrArg Weave.breg (w.setMode_same st m); exact h
@[simp] theorem Weave.setMode_views (w : Weave) (st : Strand) (m : Mode) : (w.setMode st m).views = w.views := by
  have h := congrArg Weave.views (w.setMode_same st m); exact h
@[simp] theorem Weave.setMode_mprom (w : Weave) (st : Strand) (m : Mode) : (w.setMode st m).mprom = w.mprom := by
  have h := congrArg Weave.mprom (w.setMode_same st m); exact h
@[simp] theorem Weave.setMode_chktol (w : Weave) (st : Strand) (m : Mode) : (w.setMode st m).chktol = w.chktol := by
  have h := congrArg Weave.chktol (w.setMode_same st m); exact h
@[simp] theorem Weave.setMode_chkinj (w : Weave) (st : Strand) (m : Mode) : (w.setMode st m).chkinj = w.chkinj := by
  have h := congrArg Weave.chkinj (w.setMode_same st m); exact h
@[simp] theorem Weave.setMode_splitBase (w : Weave) (st : Strand) (m : Mode) : (w.setMode st m).splitBase = w.splitBase := by
  have h := congrArg Weave.splitBase (w.setMode_same st m); exact h
@[simp] theorem Weave.setMode_fltm (w : Weave) (st : Strand) (m : Mode) : (w.setMode st m).fltm = w.fltm := by
  have h := congrArg Weave.fltm (w.setMode_same st m); exact h
@[simp] theorem Weave.setMode_fltrec (w : Weave) (st : Strand) (m : Mode) : (w.setMode st m).fltrec = w.fltrec := by
  have h := congrArg Weave.fltrec (w.setMode_same st m); exact h
@[simp] theorem Weave.setMode_hndlr (w : Weave) (st : Strand) (m : Mode) : (w.setMode st m).hndlr = w.hndlr := by
  have h := congrArg Weave.hndlr (w.setMode_same st m); exact h
@[simp] theorem Weave.setMode_pgt (w : Weave) (st : Strand) (m : Mode) : (w.setMode st m).pgt = w.pgt := by
  have h := congrArg Weave.pgt (w.setMode_same st m); exact h
@[simp] theorem Weave.setMode_ctxid (w : Weave) (st : Strand) (m : Mode) : (w.setMode st m).ctxid = w.ctxid := by
  have h := congrArg Weave.ctxid (w.setMode_same st m); exact h
@[simp] theorem Weave.setMode_pwatch (w : Weave) (st : Strand) (m : Mode) : (w.setMode st m).pwatch = w.pwatch := by
  have h := congrArg Weave.pwatch (w.setMode_same st m); exact h
@[simp] theorem Weave.setMode_qcfg (w : Weave) (st : Strand) (m : Mode) : (w.setMode st m).qcfg = w.qcfg := by
  have h := congrArg Weave.qcfg (w.setMode_same st m); exact h
@[simp] theorem Weave.setMode_gens (w : Weave) (st : Strand) (m : Mode) : (w.setMode st m).gens = w.gens := by
  have h := congrArg Weave.gens (w.setMode_same st m); exact h
@[simp] theorem Weave.setMode_recs (w : Weave) (st : Strand) (m : Mode) : (w.setMode st m).recs = w.recs := by
  have h := congrArg Weave.recs (w.setMode_same st m); exact h
@[simp] theorem Weave.setMode_part (w : Weave) (st : Strand) (m : Mode) : (w.setMode st m).part = w.part := by
  have h := congrArg Weave.part (w.setMode_same st m); exact h
@[simp] theorem Weave.setMode_session (w : Weave) (st : Strand) (m : Mode) : (w.setMode st m).session = w.session := by
  have h := congrArg Weave.session (w.setMode_same st m); exact h
@[simp] theorem Weave.setMode_stopped (w : Weave) (st : Strand) (m : Mode) : (w.setMode st m).stopped = w.stopped := by
  have h := congrArg Weave.stopped (w.setMode_same st m); exact h
@[simp] theorem Weave.setMode_supJoins (w : Weave) (st : Strand) (m : Mode) : (w.setMode st m).supJoins = w.supJoins := by
  have h := congrArg Weave.supJoins (w.setMode_same st m); exact h
@[simp] theorem Weave.setMode_aIssued (w : Weave) (st : Strand) (m : Mode) : (w.setMode st m).aIssued = w.aIssued := by
  have h := congrArg Weave.aIssued (w.setMode_same st m); exact h
@[simp] theorem Weave.setMode_cIssued (w : Weave) (st : Strand) (m : Mode) : (w.setMode st m).cIssued = w.cIssued := by
  have h := congrArg Weave.cIssued (w.setMode_same st m); exact h
@[simp] theorem Weave.setMode_cWaited (w : Weave) (st : Strand) (m : Mode) : (w.setMode st m).cWaited = w.cWaited := by
  have h := congrArg Weave.cWaited (w.setMode_same st m); exact h
@[simp] theorem Weave.setMode_halted (w : Weave) (st : Strand) (m : Mode) : (w.setMode st m).halted = w.halted := by
  have h := congrArg Weave.halted (w.setMode_same st m); exact h
@[simp] theorem Weave.setMode_saved (w : Weave) (st : Strand) (m : Mode) : (w.setMode st m).saved = w.saved := by
  have h := congrArg Weave.saved (w.setMode_same st m); exact h
@[simp] theorem Weave.setMode_restored (w : Weave) (st : Strand) (m : Mode) : (w.setMode st m).restored = w.restored := by
  have h := congrArg Weave.restored (w.setMode_same st m); exact h

/-! ### countIssue -/

theorem Weave.countIssue_same (w : Weave) (st : Strand) :
    { w.countIssue st with aIssued := w.aIssued, cIssued := w.cIssued } = w := by cases st <;> rfl

@[simp] theorem Weave.countIssue_id (w : Weave) (st : Strand) : (w.countIssue st).id = w.id := by
  have h := congrArg Weave.id (w.countIssue_same st); exact h
@[simp] theorem Weave.countIssue_crew (w : Weave) (st : Strand) : (w.countIssue st).crew = w.crew := by
  have h := congrArg Weave.crew (w.countIssue_same st); exact h
@[simp] theorem Weave.countIssue_index (w : Weave) (st : Strand) : (w.countIssue st).index = w.index := by
  have h := congrArg Weave.index (w.countIssue_same st); exact h
@[simp] theorem Weave.countIssue_aRegs (w : Weave) (st : Strand) : (w.countIssue st).aRegs = w.aRegs := by
  have h := congrArg Weave.aRegs (w.countIssue_same st); exact h
@[simp] theorem Weave.countIssue_aBank (w : Weave) (st : Strand) : (w.countIssue st).aBank = w.aBank := by
  have h := congrArg Weave.aBank (w.countIssue_same st); exact h
@[simp] theorem Weave.countIssue_aPc (w : Weave) (st : Strand) : (w.countIssue st).aPc = w.aPc := by
  have h := congrArg Weave.aPc (w.countIssue_same st); exact h
@[simp] theorem Weave.countIssue_aMode (w : Weave) (st : Strand) : (w.countIssue st).aMode = w.aMode := by
  have h := congrArg Weave.aMode (w.countIssue_same st); exact h
@[simp] theorem Weave.countIssue_aEnded (w : Weave) (st : Strand) : (w.countIssue st).aEnded = w.aEnded := by
  have h := congrArg Weave.aEnded (w.countIssue_same st); exact h
@[simp] theorem Weave.countIssue_aWait (w : Weave) (st : Strand) : (w.countIssue st).aWait = w.aWait := by
  have h := congrArg Weave.aWait (w.countIssue_same st); exact h
@[simp] theorem Weave.countIssue_aPend (w : Weave) (st : Strand) : (w.countIssue st).aPend = w.aPend := by
  have h := congrArg Weave.aPend (w.countIssue_same st); exact h
@[simp] theorem Weave.countIssue_sRegs (w : Weave) (st : Strand) : (w.countIssue st).sRegs = w.sRegs := by
  have h := congrArg Weave.sRegs (w.countIssue_same st); exact h
@[simp] theorem Weave.countIssue_sBank (w : Weave) (st : Strand) : (w.countIssue st).sBank = w.sBank := by
  have h := congrArg Weave.sBank (w.countIssue_same st); exact h
@[simp] theorem Weave.countIssue_vRegs (w : Weave) (st : Strand) : (w.countIssue st).vRegs = w.vRegs := by
  have h := congrArg Weave.vRegs (w.countIssue_same st); exact h
@[simp] theorem Weave.countIssue_pRegs (w : Weave) (st : Strand) : (w.countIssue st).pRegs = w.pRegs := by
  have h := congrArg Weave.pRegs (w.countIssue_same st); exact h
@[simp] theorem Weave.countIssue_xRegs (w : Weave) (st : Strand) : (w.countIssue st).xRegs = w.xRegs := by
  have h := congrArg Weave.xRegs (w.countIssue_same st); exact h
@[simp] theorem Weave.countIssue_queues (w : Weave) (st : Strand) : (w.countIssue st).queues = w.queues := by
  have h := congrArg Weave.queues (w.countIssue_same st); exact h
@[simp] theorem Weave.countIssue_ports (w : Weave) (st : Strand) : (w.countIssue st).ports = w.ports := by
  have h := congrArg Weave.ports (w.countIssue_same st); exact h
@[simp] theorem Weave.countIssue_split (w : Weave) (st : Strand) : (w.countIssue st).split = w.split := by
  have h := congrArg Weave.split (w.countIssue_same st); exact h
@[simp] theorem Weave.countIssue_lastEntry (w : Weave) (st : Strand) : (w.countIssue st).lastEntry = w.lastEntry := by
  have h := congrArg Weave.lastEntry (w.countIssue_same st); exact h
@[simp] theorem Weave.countIssue_takenFirst (w : Weave) (st : Strand) : (w.countIssue st).takenFirst = w.takenFirst := by
  have h := congrArg Weave.takenFirst (w.countIssue_same st); exact h
@[simp] theorem Weave.countIssue_cMode (w : Weave) (st : Strand) : (w.countIssue st).cMode = w.cMode := by
  have h := congrArg Weave.cMode (w.countIssue_same st); exact h
@[simp] theorem Weave.countIssue_cHand (w : Weave) (st : Strand) : (w.countIssue st).cHand = w.cHand := by
  have h := congrArg Weave.cHand (w.countIssue_same st); exact h
@[simp] theorem Weave.countIssue_cPend (w : Weave) (st : Strand) : (w.countIssue st).cPend = w.cPend := by
  have h := congrArg Weave.cPend (w.countIssue_same st); exact h
@[simp] theorem Weave.countIssue_stash (w : Weave) (st : Strand) : (w.countIssue st).stash = w.stash := by
  have h := congrArg Weave.stash (w.countIssue_same st); exact h
@[simp] theorem Weave.countIssue_aStash (w : Weave) (st : Strand) : (w.countIssue st).aStash = w.aStash := by
  have h := congrArg Weave.aStash (w.countIssue_same st); exact h
@[simp] theorem Weave.countIssue_mdefA (w : Weave) (st : Strand) : (w.countIssue st).mdefA = w.mdefA := by
  have h := congrArg Weave.mdefA (w.countIssue_same st); exact h
@[simp] theorem Weave.countIssue_mdefC (w : Weave) (st : Strand) : (w.countIssue st).mdefC = w.mdefC := by
  have h := congrArg Weave.mdefC (w.countIssue_same st); exact h
@[simp] theorem Weave.countIssue_fpctl (w : Weave) (st : Strand) : (w.countIssue st).fpctl = w.fpctl := by
  have h := congrArg Weave.fpctl (w.countIssue_same st); exact h
@[simp] theorem Weave.countIssue_gang (w : Weave) (st : Strand) : (w.countIssue st).gang = w.gang := by
  have h := congrArg Weave.gang (w.countIssue_same st); exact h
@[simp] theorem Weave.countIssue_pair (w : Weave) (st : Strand) : (w.countIssue st).pair = w.pair := by
  have h := congrArg Weave.pair (w.countIssue_same st); exact h
@[simp] theorem Weave.countIssue_breg (w : Weave) (st : Strand) : (w.countIssue st).breg = w.breg := by
  have h := congrArg Weave.breg (w.countIssue_same st); exact h
@[simp] theorem Weave.countIssue_views (w : Weave) (st : Strand) : (w.countIssue st).views = w.views := by
  have h := congrArg Weave.views (w.countIssue_same st); exact h
@[simp] theorem Weave.countIssue_mprom (w : Weave) (st : Strand) : (w.countIssue st).mprom = w.mprom := by
  have h := congrArg Weave.mprom (w.countIssue_same st); exact h
@[simp] theorem Weave.countIssue_chktol (w : Weave) (st : Strand) : (w.countIssue st).chktol = w.chktol := by
  have h := congrArg Weave.chktol (w.countIssue_same st); exact h
@[simp] theorem Weave.countIssue_chkinj (w : Weave) (st : Strand) : (w.countIssue st).chkinj = w.chkinj := by
  have h := congrArg Weave.chkinj (w.countIssue_same st); exact h
@[simp] theorem Weave.countIssue_splitBase (w : Weave) (st : Strand) : (w.countIssue st).splitBase = w.splitBase := by
  have h := congrArg Weave.splitBase (w.countIssue_same st); exact h
@[simp] theorem Weave.countIssue_fltm (w : Weave) (st : Strand) : (w.countIssue st).fltm = w.fltm := by
  have h := congrArg Weave.fltm (w.countIssue_same st); exact h
@[simp] theorem Weave.countIssue_fltrec (w : Weave) (st : Strand) : (w.countIssue st).fltrec = w.fltrec := by
  have h := congrArg Weave.fltrec (w.countIssue_same st); exact h
@[simp] theorem Weave.countIssue_hndlr (w : Weave) (st : Strand) : (w.countIssue st).hndlr = w.hndlr := by
  have h := congrArg Weave.hndlr (w.countIssue_same st); exact h
@[simp] theorem Weave.countIssue_pgt (w : Weave) (st : Strand) : (w.countIssue st).pgt = w.pgt := by
  have h := congrArg Weave.pgt (w.countIssue_same st); exact h
@[simp] theorem Weave.countIssue_ctxid (w : Weave) (st : Strand) : (w.countIssue st).ctxid = w.ctxid := by
  have h := congrArg Weave.ctxid (w.countIssue_same st); exact h
@[simp] theorem Weave.countIssue_pwatch (w : Weave) (st : Strand) : (w.countIssue st).pwatch = w.pwatch := by
  have h := congrArg Weave.pwatch (w.countIssue_same st); exact h
@[simp] theorem Weave.countIssue_qcfg (w : Weave) (st : Strand) : (w.countIssue st).qcfg = w.qcfg := by
  have h := congrArg Weave.qcfg (w.countIssue_same st); exact h
@[simp] theorem Weave.countIssue_gens (w : Weave) (st : Strand) : (w.countIssue st).gens = w.gens := by
  have h := congrArg Weave.gens (w.countIssue_same st); exact h
@[simp] theorem Weave.countIssue_recs (w : Weave) (st : Strand) : (w.countIssue st).recs = w.recs := by
  have h := congrArg Weave.recs (w.countIssue_same st); exact h
@[simp] theorem Weave.countIssue_part (w : Weave) (st : Strand) : (w.countIssue st).part = w.part := by
  have h := congrArg Weave.part (w.countIssue_same st); exact h
@[simp] theorem Weave.countIssue_session (w : Weave) (st : Strand) : (w.countIssue st).session = w.session := by
  have h := congrArg Weave.session (w.countIssue_same st); exact h
@[simp] theorem Weave.countIssue_stopped (w : Weave) (st : Strand) : (w.countIssue st).stopped = w.stopped := by
  have h := congrArg Weave.stopped (w.countIssue_same st); exact h
@[simp] theorem Weave.countIssue_supJoins (w : Weave) (st : Strand) : (w.countIssue st).supJoins = w.supJoins := by
  have h := congrArg Weave.supJoins (w.countIssue_same st); exact h
@[simp] theorem Weave.countIssue_cWaited (w : Weave) (st : Strand) : (w.countIssue st).cWaited = w.cWaited := by
  have h := congrArg Weave.cWaited (w.countIssue_same st); exact h
@[simp] theorem Weave.countIssue_halted (w : Weave) (st : Strand) : (w.countIssue st).halted = w.halted := by
  have h := congrArg Weave.halted (w.countIssue_same st); exact h
@[simp] theorem Weave.countIssue_saved (w : Weave) (st : Strand) : (w.countIssue st).saved = w.saved := by
  have h := congrArg Weave.saved (w.countIssue_same st); exact h
@[simp] theorem Weave.countIssue_restored (w : Weave) (st : Strand) : (w.countIssue st).restored = w.restored := by
  have h := congrArg Weave.restored (w.countIssue_same st); exact h

/-! ### setLanes -/

@[simp] theorem Weave.setLanes_id (w : Weave) (n : Nat) (m : LaneMask) (f : Nat → Word) : (w.setLanes n m f).id = w.id := rfl
@[simp] theorem Weave.setLanes_crew (w : Weave) (n : Nat) (m : LaneMask) (f : Nat → Word) : (w.setLanes n m f).crew = w.crew := rfl
@[simp] theorem Weave.setLanes_index (w : Weave) (n : Nat) (m : LaneMask) (f : Nat → Word) : (w.setLanes n m f).index = w.index := rfl
@[simp] theorem Weave.setLanes_aRegs (w : Weave) (n : Nat) (m : LaneMask) (f : Nat → Word) : (w.setLanes n m f).aRegs = w.aRegs := rfl
@[simp] theorem Weave.setLanes_aBank (w : Weave) (n : Nat) (m : LaneMask) (f : Nat → Word) : (w.setLanes n m f).aBank = w.aBank := rfl
@[simp] theorem Weave.setLanes_aPc (w : Weave) (n : Nat) (m : LaneMask) (f : Nat → Word) : (w.setLanes n m f).aPc = w.aPc := rfl
@[simp] theorem Weave.setLanes_aMode (w : Weave) (n : Nat) (m : LaneMask) (f : Nat → Word) : (w.setLanes n m f).aMode = w.aMode := rfl
@[simp] theorem Weave.setLanes_aEnded (w : Weave) (n : Nat) (m : LaneMask) (f : Nat → Word) : (w.setLanes n m f).aEnded = w.aEnded := rfl
@[simp] theorem Weave.setLanes_aWait (w : Weave) (n : Nat) (m : LaneMask) (f : Nat → Word) : (w.setLanes n m f).aWait = w.aWait := rfl
@[simp] theorem Weave.setLanes_aPend (w : Weave) (n : Nat) (m : LaneMask) (f : Nat → Word) : (w.setLanes n m f).aPend = w.aPend := rfl
@[simp] theorem Weave.setLanes_sRegs (w : Weave) (n : Nat) (m : LaneMask) (f : Nat → Word) : (w.setLanes n m f).sRegs = w.sRegs := rfl
@[simp] theorem Weave.setLanes_sBank (w : Weave) (n : Nat) (m : LaneMask) (f : Nat → Word) : (w.setLanes n m f).sBank = w.sBank := rfl
@[simp] theorem Weave.setLanes_pRegs (w : Weave) (n : Nat) (m : LaneMask) (f : Nat → Word) : (w.setLanes n m f).pRegs = w.pRegs := rfl
@[simp] theorem Weave.setLanes_xRegs (w : Weave) (n : Nat) (m : LaneMask) (f : Nat → Word) : (w.setLanes n m f).xRegs = w.xRegs := rfl
@[simp] theorem Weave.setLanes_queues (w : Weave) (n : Nat) (m : LaneMask) (f : Nat → Word) : (w.setLanes n m f).queues = w.queues := rfl
@[simp] theorem Weave.setLanes_ports (w : Weave) (n : Nat) (m : LaneMask) (f : Nat → Word) : (w.setLanes n m f).ports = w.ports := rfl
@[simp] theorem Weave.setLanes_split (w : Weave) (n : Nat) (m : LaneMask) (f : Nat → Word) : (w.setLanes n m f).split = w.split := rfl
@[simp] theorem Weave.setLanes_lastEntry (w : Weave) (n : Nat) (m : LaneMask) (f : Nat → Word) : (w.setLanes n m f).lastEntry = w.lastEntry := rfl
@[simp] theorem Weave.setLanes_takenFirst (w : Weave) (n : Nat) (m : LaneMask) (f : Nat → Word) : (w.setLanes n m f).takenFirst = w.takenFirst := rfl
@[simp] theorem Weave.setLanes_cMode (w : Weave) (n : Nat) (m : LaneMask) (f : Nat → Word) : (w.setLanes n m f).cMode = w.cMode := rfl
@[simp] theorem Weave.setLanes_cHand (w : Weave) (n : Nat) (m : LaneMask) (f : Nat → Word) : (w.setLanes n m f).cHand = w.cHand := rfl
@[simp] theorem Weave.setLanes_cPend (w : Weave) (n : Nat) (m : LaneMask) (f : Nat → Word) : (w.setLanes n m f).cPend = w.cPend := rfl
@[simp] theorem Weave.setLanes_stash (w : Weave) (n : Nat) (m : LaneMask) (f : Nat → Word) : (w.setLanes n m f).stash = w.stash := rfl
@[simp] theorem Weave.setLanes_aStash (w : Weave) (n : Nat) (m : LaneMask) (f : Nat → Word) : (w.setLanes n m f).aStash = w.aStash := rfl
@[simp] theorem Weave.setLanes_mdefA (w : Weave) (n : Nat) (m : LaneMask) (f : Nat → Word) : (w.setLanes n m f).mdefA = w.mdefA := rfl
@[simp] theorem Weave.setLanes_mdefC (w : Weave) (n : Nat) (m : LaneMask) (f : Nat → Word) : (w.setLanes n m f).mdefC = w.mdefC := rfl
@[simp] theorem Weave.setLanes_fpctl (w : Weave) (n : Nat) (m : LaneMask) (f : Nat → Word) : (w.setLanes n m f).fpctl = w.fpctl := rfl
@[simp] theorem Weave.setLanes_gang (w : Weave) (n : Nat) (m : LaneMask) (f : Nat → Word) : (w.setLanes n m f).gang = w.gang := rfl
@[simp] theorem Weave.setLanes_pair (w : Weave) (n : Nat) (m : LaneMask) (f : Nat → Word) : (w.setLanes n m f).pair = w.pair := rfl
@[simp] theorem Weave.setLanes_breg (w : Weave) (n : Nat) (m : LaneMask) (f : Nat → Word) : (w.setLanes n m f).breg = w.breg := rfl
@[simp] theorem Weave.setLanes_views (w : Weave) (n : Nat) (m : LaneMask) (f : Nat → Word) : (w.setLanes n m f).views = w.views := rfl
@[simp] theorem Weave.setLanes_mprom (w : Weave) (n : Nat) (m : LaneMask) (f : Nat → Word) : (w.setLanes n m f).mprom = w.mprom := rfl
@[simp] theorem Weave.setLanes_chktol (w : Weave) (n : Nat) (m : LaneMask) (f : Nat → Word) : (w.setLanes n m f).chktol = w.chktol := rfl
@[simp] theorem Weave.setLanes_chkinj (w : Weave) (n : Nat) (m : LaneMask) (f : Nat → Word) : (w.setLanes n m f).chkinj = w.chkinj := rfl
@[simp] theorem Weave.setLanes_splitBase (w : Weave) (n : Nat) (m : LaneMask) (f : Nat → Word) : (w.setLanes n m f).splitBase = w.splitBase := rfl
@[simp] theorem Weave.setLanes_fltm (w : Weave) (n : Nat) (m : LaneMask) (f : Nat → Word) : (w.setLanes n m f).fltm = w.fltm := rfl
@[simp] theorem Weave.setLanes_fltrec (w : Weave) (n : Nat) (m : LaneMask) (f : Nat → Word) : (w.setLanes n m f).fltrec = w.fltrec := rfl
@[simp] theorem Weave.setLanes_hndlr (w : Weave) (n : Nat) (m : LaneMask) (f : Nat → Word) : (w.setLanes n m f).hndlr = w.hndlr := rfl
@[simp] theorem Weave.setLanes_pgt (w : Weave) (n : Nat) (m : LaneMask) (f : Nat → Word) : (w.setLanes n m f).pgt = w.pgt := rfl
@[simp] theorem Weave.setLanes_ctxid (w : Weave) (n : Nat) (m : LaneMask) (f : Nat → Word) : (w.setLanes n m f).ctxid = w.ctxid := rfl
@[simp] theorem Weave.setLanes_pwatch (w : Weave) (n : Nat) (m : LaneMask) (f : Nat → Word) : (w.setLanes n m f).pwatch = w.pwatch := rfl
@[simp] theorem Weave.setLanes_qcfg (w : Weave) (n : Nat) (m : LaneMask) (f : Nat → Word) : (w.setLanes n m f).qcfg = w.qcfg := rfl
@[simp] theorem Weave.setLanes_gens (w : Weave) (n : Nat) (m : LaneMask) (f : Nat → Word) : (w.setLanes n m f).gens = w.gens := rfl
@[simp] theorem Weave.setLanes_recs (w : Weave) (n : Nat) (m : LaneMask) (f : Nat → Word) : (w.setLanes n m f).recs = w.recs := rfl
@[simp] theorem Weave.setLanes_part (w : Weave) (n : Nat) (m : LaneMask) (f : Nat → Word) : (w.setLanes n m f).part = w.part := rfl
@[simp] theorem Weave.setLanes_session (w : Weave) (n : Nat) (m : LaneMask) (f : Nat → Word) : (w.setLanes n m f).session = w.session := rfl
@[simp] theorem Weave.setLanes_stopped (w : Weave) (n : Nat) (m : LaneMask) (f : Nat → Word) : (w.setLanes n m f).stopped = w.stopped := rfl
@[simp] theorem Weave.setLanes_supJoins (w : Weave) (n : Nat) (m : LaneMask) (f : Nat → Word) : (w.setLanes n m f).supJoins = w.supJoins := rfl
@[simp] theorem Weave.setLanes_aIssued (w : Weave) (n : Nat) (m : LaneMask) (f : Nat → Word) : (w.setLanes n m f).aIssued = w.aIssued := rfl
@[simp] theorem Weave.setLanes_cIssued (w : Weave) (n : Nat) (m : LaneMask) (f : Nat → Word) : (w.setLanes n m f).cIssued = w.cIssued := rfl
@[simp] theorem Weave.setLanes_cWaited (w : Weave) (n : Nat) (m : LaneMask) (f : Nat → Word) : (w.setLanes n m f).cWaited = w.cWaited := rfl
@[simp] theorem Weave.setLanes_halted (w : Weave) (n : Nat) (m : LaneMask) (f : Nat → Word) : (w.setLanes n m f).halted = w.halted := rfl
@[simp] theorem Weave.setLanes_saved (w : Weave) (n : Nat) (m : LaneMask) (f : Nat → Word) : (w.setLanes n m f).saved = w.saved := rfl
@[simp] theorem Weave.setLanes_restored (w : Weave) (n : Nat) (m : LaneMask) (f : Nat → Word) : (w.setLanes n m f).restored = w.restored := rfl

/-! ### setPred -/

theorem Weave.setPred_same (w : Weave) (k : Nat) (m p : LaneMask) :
    { w.setPred k m p with pRegs := w.pRegs } = w := by
  rw [Weave.setPred]; split <;> rfl

@[simp] theorem Weave.setPred_id (w : Weave) (k : Nat) (m p : LaneMask) : (w.setPred k m p).id = w.id := by
  have h := congrArg Weave.id (w.setPred_same k m p); exact h
@[simp] theorem Weave.setPred_crew (w : Weave) (k : Nat) (m p : LaneMask) : (w.setPred k m p).crew = w.crew := by
  have h := congrArg Weave.crew (w.setPred_same k m p); exact h
@[simp] theorem Weave.setPred_index (w : Weave) (k : Nat) (m p : LaneMask) : (w.setPred k m p).index = w.index := by
  have h := congrArg Weave.index (w.setPred_same k m p); exact h
@[simp] theorem Weave.setPred_aRegs (w : Weave) (k : Nat) (m p : LaneMask) : (w.setPred k m p).aRegs = w.aRegs := by
  have h := congrArg Weave.aRegs (w.setPred_same k m p); exact h
@[simp] theorem Weave.setPred_aBank (w : Weave) (k : Nat) (m p : LaneMask) : (w.setPred k m p).aBank = w.aBank := by
  have h := congrArg Weave.aBank (w.setPred_same k m p); exact h
@[simp] theorem Weave.setPred_aPc (w : Weave) (k : Nat) (m p : LaneMask) : (w.setPred k m p).aPc = w.aPc := by
  have h := congrArg Weave.aPc (w.setPred_same k m p); exact h
@[simp] theorem Weave.setPred_aMode (w : Weave) (k : Nat) (m p : LaneMask) : (w.setPred k m p).aMode = w.aMode := by
  have h := congrArg Weave.aMode (w.setPred_same k m p); exact h
@[simp] theorem Weave.setPred_aEnded (w : Weave) (k : Nat) (m p : LaneMask) : (w.setPred k m p).aEnded = w.aEnded := by
  have h := congrArg Weave.aEnded (w.setPred_same k m p); exact h
@[simp] theorem Weave.setPred_aWait (w : Weave) (k : Nat) (m p : LaneMask) : (w.setPred k m p).aWait = w.aWait := by
  have h := congrArg Weave.aWait (w.setPred_same k m p); exact h
@[simp] theorem Weave.setPred_aPend (w : Weave) (k : Nat) (m p : LaneMask) : (w.setPred k m p).aPend = w.aPend := by
  have h := congrArg Weave.aPend (w.setPred_same k m p); exact h
@[simp] theorem Weave.setPred_sRegs (w : Weave) (k : Nat) (m p : LaneMask) : (w.setPred k m p).sRegs = w.sRegs := by
  have h := congrArg Weave.sRegs (w.setPred_same k m p); exact h
@[simp] theorem Weave.setPred_sBank (w : Weave) (k : Nat) (m p : LaneMask) : (w.setPred k m p).sBank = w.sBank := by
  have h := congrArg Weave.sBank (w.setPred_same k m p); exact h
@[simp] theorem Weave.setPred_vRegs (w : Weave) (k : Nat) (m p : LaneMask) : (w.setPred k m p).vRegs = w.vRegs := by
  have h := congrArg Weave.vRegs (w.setPred_same k m p); exact h
@[simp] theorem Weave.setPred_xRegs (w : Weave) (k : Nat) (m p : LaneMask) : (w.setPred k m p).xRegs = w.xRegs := by
  have h := congrArg Weave.xRegs (w.setPred_same k m p); exact h
@[simp] theorem Weave.setPred_queues (w : Weave) (k : Nat) (m p : LaneMask) : (w.setPred k m p).queues = w.queues := by
  have h := congrArg Weave.queues (w.setPred_same k m p); exact h
@[simp] theorem Weave.setPred_ports (w : Weave) (k : Nat) (m p : LaneMask) : (w.setPred k m p).ports = w.ports := by
  have h := congrArg Weave.ports (w.setPred_same k m p); exact h
@[simp] theorem Weave.setPred_split (w : Weave) (k : Nat) (m p : LaneMask) : (w.setPred k m p).split = w.split := by
  have h := congrArg Weave.split (w.setPred_same k m p); exact h
@[simp] theorem Weave.setPred_lastEntry (w : Weave) (k : Nat) (m p : LaneMask) : (w.setPred k m p).lastEntry = w.lastEntry := by
  have h := congrArg Weave.lastEntry (w.setPred_same k m p); exact h
@[simp] theorem Weave.setPred_takenFirst (w : Weave) (k : Nat) (m p : LaneMask) : (w.setPred k m p).takenFirst = w.takenFirst := by
  have h := congrArg Weave.takenFirst (w.setPred_same k m p); exact h
@[simp] theorem Weave.setPred_cMode (w : Weave) (k : Nat) (m p : LaneMask) : (w.setPred k m p).cMode = w.cMode := by
  have h := congrArg Weave.cMode (w.setPred_same k m p); exact h
@[simp] theorem Weave.setPred_cHand (w : Weave) (k : Nat) (m p : LaneMask) : (w.setPred k m p).cHand = w.cHand := by
  have h := congrArg Weave.cHand (w.setPred_same k m p); exact h
@[simp] theorem Weave.setPred_cPend (w : Weave) (k : Nat) (m p : LaneMask) : (w.setPred k m p).cPend = w.cPend := by
  have h := congrArg Weave.cPend (w.setPred_same k m p); exact h
@[simp] theorem Weave.setPred_stash (w : Weave) (k : Nat) (m p : LaneMask) : (w.setPred k m p).stash = w.stash := by
  have h := congrArg Weave.stash (w.setPred_same k m p); exact h
@[simp] theorem Weave.setPred_aStash (w : Weave) (k : Nat) (m p : LaneMask) : (w.setPred k m p).aStash = w.aStash := by
  have h := congrArg Weave.aStash (w.setPred_same k m p); exact h
@[simp] theorem Weave.setPred_mdefA (w : Weave) (k : Nat) (m p : LaneMask) : (w.setPred k m p).mdefA = w.mdefA := by
  have h := congrArg Weave.mdefA (w.setPred_same k m p); exact h
@[simp] theorem Weave.setPred_mdefC (w : Weave) (k : Nat) (m p : LaneMask) : (w.setPred k m p).mdefC = w.mdefC := by
  have h := congrArg Weave.mdefC (w.setPred_same k m p); exact h
@[simp] theorem Weave.setPred_fpctl (w : Weave) (k : Nat) (m p : LaneMask) : (w.setPred k m p).fpctl = w.fpctl := by
  have h := congrArg Weave.fpctl (w.setPred_same k m p); exact h
@[simp] theorem Weave.setPred_gang (w : Weave) (k : Nat) (m p : LaneMask) : (w.setPred k m p).gang = w.gang := by
  have h := congrArg Weave.gang (w.setPred_same k m p); exact h
@[simp] theorem Weave.setPred_pair (w : Weave) (k : Nat) (m p : LaneMask) : (w.setPred k m p).pair = w.pair := by
  have h := congrArg Weave.pair (w.setPred_same k m p); exact h
@[simp] theorem Weave.setPred_breg (w : Weave) (k : Nat) (m p : LaneMask) : (w.setPred k m p).breg = w.breg := by
  have h := congrArg Weave.breg (w.setPred_same k m p); exact h
@[simp] theorem Weave.setPred_views (w : Weave) (k : Nat) (m p : LaneMask) : (w.setPred k m p).views = w.views := by
  have h := congrArg Weave.views (w.setPred_same k m p); exact h
@[simp] theorem Weave.setPred_mprom (w : Weave) (k : Nat) (m p : LaneMask) : (w.setPred k m p).mprom = w.mprom := by
  have h := congrArg Weave.mprom (w.setPred_same k m p); exact h
@[simp] theorem Weave.setPred_chktol (w : Weave) (k : Nat) (m p : LaneMask) : (w.setPred k m p).chktol = w.chktol := by
  have h := congrArg Weave.chktol (w.setPred_same k m p); exact h
@[simp] theorem Weave.setPred_chkinj (w : Weave) (k : Nat) (m p : LaneMask) : (w.setPred k m p).chkinj = w.chkinj := by
  have h := congrArg Weave.chkinj (w.setPred_same k m p); exact h
@[simp] theorem Weave.setPred_splitBase (w : Weave) (k : Nat) (m p : LaneMask) : (w.setPred k m p).splitBase = w.splitBase := by
  have h := congrArg Weave.splitBase (w.setPred_same k m p); exact h
@[simp] theorem Weave.setPred_fltm (w : Weave) (k : Nat) (m p : LaneMask) : (w.setPred k m p).fltm = w.fltm := by
  have h := congrArg Weave.fltm (w.setPred_same k m p); exact h
@[simp] theorem Weave.setPred_fltrec (w : Weave) (k : Nat) (m p : LaneMask) : (w.setPred k m p).fltrec = w.fltrec := by
  have h := congrArg Weave.fltrec (w.setPred_same k m p); exact h
@[simp] theorem Weave.setPred_hndlr (w : Weave) (k : Nat) (m p : LaneMask) : (w.setPred k m p).hndlr = w.hndlr := by
  have h := congrArg Weave.hndlr (w.setPred_same k m p); exact h
@[simp] theorem Weave.setPred_pgt (w : Weave) (k : Nat) (m p : LaneMask) : (w.setPred k m p).pgt = w.pgt := by
  have h := congrArg Weave.pgt (w.setPred_same k m p); exact h
@[simp] theorem Weave.setPred_ctxid (w : Weave) (k : Nat) (m p : LaneMask) : (w.setPred k m p).ctxid = w.ctxid := by
  have h := congrArg Weave.ctxid (w.setPred_same k m p); exact h
@[simp] theorem Weave.setPred_pwatch (w : Weave) (k : Nat) (m p : LaneMask) : (w.setPred k m p).pwatch = w.pwatch := by
  have h := congrArg Weave.pwatch (w.setPred_same k m p); exact h
@[simp] theorem Weave.setPred_qcfg (w : Weave) (k : Nat) (m p : LaneMask) : (w.setPred k m p).qcfg = w.qcfg := by
  have h := congrArg Weave.qcfg (w.setPred_same k m p); exact h
@[simp] theorem Weave.setPred_gens (w : Weave) (k : Nat) (m p : LaneMask) : (w.setPred k m p).gens = w.gens := by
  have h := congrArg Weave.gens (w.setPred_same k m p); exact h
@[simp] theorem Weave.setPred_recs (w : Weave) (k : Nat) (m p : LaneMask) : (w.setPred k m p).recs = w.recs := by
  have h := congrArg Weave.recs (w.setPred_same k m p); exact h
@[simp] theorem Weave.setPred_part (w : Weave) (k : Nat) (m p : LaneMask) : (w.setPred k m p).part = w.part := by
  have h := congrArg Weave.part (w.setPred_same k m p); exact h
@[simp] theorem Weave.setPred_session (w : Weave) (k : Nat) (m p : LaneMask) : (w.setPred k m p).session = w.session := by
  have h := congrArg Weave.session (w.setPred_same k m p); exact h
@[simp] theorem Weave.setPred_stopped (w : Weave) (k : Nat) (m p : LaneMask) : (w.setPred k m p).stopped = w.stopped := by
  have h := congrArg Weave.stopped (w.setPred_same k m p); exact h
@[simp] theorem Weave.setPred_supJoins (w : Weave) (k : Nat) (m p : LaneMask) : (w.setPred k m p).supJoins = w.supJoins := by
  have h := congrArg Weave.supJoins (w.setPred_same k m p); exact h
@[simp] theorem Weave.setPred_aIssued (w : Weave) (k : Nat) (m p : LaneMask) : (w.setPred k m p).aIssued = w.aIssued := by
  have h := congrArg Weave.aIssued (w.setPred_same k m p); exact h
@[simp] theorem Weave.setPred_cIssued (w : Weave) (k : Nat) (m p : LaneMask) : (w.setPred k m p).cIssued = w.cIssued := by
  have h := congrArg Weave.cIssued (w.setPred_same k m p); exact h
@[simp] theorem Weave.setPred_cWaited (w : Weave) (k : Nat) (m p : LaneMask) : (w.setPred k m p).cWaited = w.cWaited := by
  have h := congrArg Weave.cWaited (w.setPred_same k m p); exact h
@[simp] theorem Weave.setPred_halted (w : Weave) (k : Nat) (m p : LaneMask) : (w.setPred k m p).halted = w.halted := by
  have h := congrArg Weave.halted (w.setPred_same k m p); exact h
@[simp] theorem Weave.setPred_saved (w : Weave) (k : Nat) (m p : LaneMask) : (w.setPred k m p).saved = w.saved := by
  have h := congrArg Weave.saved (w.setPred_same k m p); exact h
@[simp] theorem Weave.setPred_restored (w : Weave) (k : Nat) (m p : LaneMask) : (w.setPred k m p).restored = w.restored := by
  have h := congrArg Weave.restored (w.setPred_same k m p); exact h

/-! ### setScal -/

theorem Weave.setScal_same (w : Weave) (st : Strand) (n : Nat) (x : DWord) :
    { w.setScal st n x with aRegs := w.aRegs, aBank := w.aBank, sRegs := w.sRegs, sBank := w.sBank, split := w.split } = w := by
  cases st <;> (rw [Weave.setScal]; dsimp only; (repeat (any_goals split)) <;> rfl)

@[simp] theorem Weave.setScal_id (w : Weave) (st : Strand) (n : Nat) (x : DWord) : (w.setScal st n x).id = w.id := by
  have h := congrArg Weave.id (w.setScal_same st n x); exact h
@[simp] theorem Weave.setScal_crew (w : Weave) (st : Strand) (n : Nat) (x : DWord) : (w.setScal st n x).crew = w.crew := by
  have h := congrArg Weave.crew (w.setScal_same st n x); exact h
@[simp] theorem Weave.setScal_index (w : Weave) (st : Strand) (n : Nat) (x : DWord) : (w.setScal st n x).index = w.index := by
  have h := congrArg Weave.index (w.setScal_same st n x); exact h
@[simp] theorem Weave.setScal_aPc (w : Weave) (st : Strand) (n : Nat) (x : DWord) : (w.setScal st n x).aPc = w.aPc := by
  have h := congrArg Weave.aPc (w.setScal_same st n x); exact h
@[simp] theorem Weave.setScal_aMode (w : Weave) (st : Strand) (n : Nat) (x : DWord) : (w.setScal st n x).aMode = w.aMode := by
  have h := congrArg Weave.aMode (w.setScal_same st n x); exact h
@[simp] theorem Weave.setScal_aEnded (w : Weave) (st : Strand) (n : Nat) (x : DWord) : (w.setScal st n x).aEnded = w.aEnded := by
  have h := congrArg Weave.aEnded (w.setScal_same st n x); exact h
@[simp] theorem Weave.setScal_aWait (w : Weave) (st : Strand) (n : Nat) (x : DWord) : (w.setScal st n x).aWait = w.aWait := by
  have h := congrArg Weave.aWait (w.setScal_same st n x); exact h
@[simp] theorem Weave.setScal_aPend (w : Weave) (st : Strand) (n : Nat) (x : DWord) : (w.setScal st n x).aPend = w.aPend := by
  have h := congrArg Weave.aPend (w.setScal_same st n x); exact h
@[simp] theorem Weave.setScal_vRegs (w : Weave) (st : Strand) (n : Nat) (x : DWord) : (w.setScal st n x).vRegs = w.vRegs := by
  have h := congrArg Weave.vRegs (w.setScal_same st n x); exact h
@[simp] theorem Weave.setScal_pRegs (w : Weave) (st : Strand) (n : Nat) (x : DWord) : (w.setScal st n x).pRegs = w.pRegs := by
  have h := congrArg Weave.pRegs (w.setScal_same st n x); exact h
@[simp] theorem Weave.setScal_xRegs (w : Weave) (st : Strand) (n : Nat) (x : DWord) : (w.setScal st n x).xRegs = w.xRegs := by
  have h := congrArg Weave.xRegs (w.setScal_same st n x); exact h
@[simp] theorem Weave.setScal_queues (w : Weave) (st : Strand) (n : Nat) (x : DWord) : (w.setScal st n x).queues = w.queues := by
  have h := congrArg Weave.queues (w.setScal_same st n x); exact h
@[simp] theorem Weave.setScal_ports (w : Weave) (st : Strand) (n : Nat) (x : DWord) : (w.setScal st n x).ports = w.ports := by
  have h := congrArg Weave.ports (w.setScal_same st n x); exact h
@[simp] theorem Weave.setScal_lastEntry (w : Weave) (st : Strand) (n : Nat) (x : DWord) : (w.setScal st n x).lastEntry = w.lastEntry := by
  have h := congrArg Weave.lastEntry (w.setScal_same st n x); exact h
@[simp] theorem Weave.setScal_takenFirst (w : Weave) (st : Strand) (n : Nat) (x : DWord) : (w.setScal st n x).takenFirst = w.takenFirst := by
  have h := congrArg Weave.takenFirst (w.setScal_same st n x); exact h
@[simp] theorem Weave.setScal_cMode (w : Weave) (st : Strand) (n : Nat) (x : DWord) : (w.setScal st n x).cMode = w.cMode := by
  have h := congrArg Weave.cMode (w.setScal_same st n x); exact h
@[simp] theorem Weave.setScal_cHand (w : Weave) (st : Strand) (n : Nat) (x : DWord) : (w.setScal st n x).cHand = w.cHand := by
  have h := congrArg Weave.cHand (w.setScal_same st n x); exact h
@[simp] theorem Weave.setScal_cPend (w : Weave) (st : Strand) (n : Nat) (x : DWord) : (w.setScal st n x).cPend = w.cPend := by
  have h := congrArg Weave.cPend (w.setScal_same st n x); exact h
@[simp] theorem Weave.setScal_stash (w : Weave) (st : Strand) (n : Nat) (x : DWord) : (w.setScal st n x).stash = w.stash := by
  have h := congrArg Weave.stash (w.setScal_same st n x); exact h
@[simp] theorem Weave.setScal_aStash (w : Weave) (st : Strand) (n : Nat) (x : DWord) : (w.setScal st n x).aStash = w.aStash := by
  have h := congrArg Weave.aStash (w.setScal_same st n x); exact h
@[simp] theorem Weave.setScal_mdefA (w : Weave) (st : Strand) (n : Nat) (x : DWord) : (w.setScal st n x).mdefA = w.mdefA := by
  have h := congrArg Weave.mdefA (w.setScal_same st n x); exact h
@[simp] theorem Weave.setScal_mdefC (w : Weave) (st : Strand) (n : Nat) (x : DWord) : (w.setScal st n x).mdefC = w.mdefC := by
  have h := congrArg Weave.mdefC (w.setScal_same st n x); exact h
@[simp] theorem Weave.setScal_fpctl (w : Weave) (st : Strand) (n : Nat) (x : DWord) : (w.setScal st n x).fpctl = w.fpctl := by
  have h := congrArg Weave.fpctl (w.setScal_same st n x); exact h
@[simp] theorem Weave.setScal_gang (w : Weave) (st : Strand) (n : Nat) (x : DWord) : (w.setScal st n x).gang = w.gang := by
  have h := congrArg Weave.gang (w.setScal_same st n x); exact h
@[simp] theorem Weave.setScal_pair (w : Weave) (st : Strand) (n : Nat) (x : DWord) : (w.setScal st n x).pair = w.pair := by
  have h := congrArg Weave.pair (w.setScal_same st n x); exact h
@[simp] theorem Weave.setScal_breg (w : Weave) (st : Strand) (n : Nat) (x : DWord) : (w.setScal st n x).breg = w.breg := by
  have h := congrArg Weave.breg (w.setScal_same st n x); exact h
@[simp] theorem Weave.setScal_views (w : Weave) (st : Strand) (n : Nat) (x : DWord) : (w.setScal st n x).views = w.views := by
  have h := congrArg Weave.views (w.setScal_same st n x); exact h
@[simp] theorem Weave.setScal_mprom (w : Weave) (st : Strand) (n : Nat) (x : DWord) : (w.setScal st n x).mprom = w.mprom := by
  have h := congrArg Weave.mprom (w.setScal_same st n x); exact h
@[simp] theorem Weave.setScal_chktol (w : Weave) (st : Strand) (n : Nat) (x : DWord) : (w.setScal st n x).chktol = w.chktol := by
  have h := congrArg Weave.chktol (w.setScal_same st n x); exact h
@[simp] theorem Weave.setScal_chkinj (w : Weave) (st : Strand) (n : Nat) (x : DWord) : (w.setScal st n x).chkinj = w.chkinj := by
  have h := congrArg Weave.chkinj (w.setScal_same st n x); exact h
@[simp] theorem Weave.setScal_splitBase (w : Weave) (st : Strand) (n : Nat) (x : DWord) : (w.setScal st n x).splitBase = w.splitBase := by
  have h := congrArg Weave.splitBase (w.setScal_same st n x); exact h
@[simp] theorem Weave.setScal_fltm (w : Weave) (st : Strand) (n : Nat) (x : DWord) : (w.setScal st n x).fltm = w.fltm := by
  have h := congrArg Weave.fltm (w.setScal_same st n x); exact h
@[simp] theorem Weave.setScal_fltrec (w : Weave) (st : Strand) (n : Nat) (x : DWord) : (w.setScal st n x).fltrec = w.fltrec := by
  have h := congrArg Weave.fltrec (w.setScal_same st n x); exact h
@[simp] theorem Weave.setScal_hndlr (w : Weave) (st : Strand) (n : Nat) (x : DWord) : (w.setScal st n x).hndlr = w.hndlr := by
  have h := congrArg Weave.hndlr (w.setScal_same st n x); exact h
@[simp] theorem Weave.setScal_pgt (w : Weave) (st : Strand) (n : Nat) (x : DWord) : (w.setScal st n x).pgt = w.pgt := by
  have h := congrArg Weave.pgt (w.setScal_same st n x); exact h
@[simp] theorem Weave.setScal_ctxid (w : Weave) (st : Strand) (n : Nat) (x : DWord) : (w.setScal st n x).ctxid = w.ctxid := by
  have h := congrArg Weave.ctxid (w.setScal_same st n x); exact h
@[simp] theorem Weave.setScal_pwatch (w : Weave) (st : Strand) (n : Nat) (x : DWord) : (w.setScal st n x).pwatch = w.pwatch := by
  have h := congrArg Weave.pwatch (w.setScal_same st n x); exact h
@[simp] theorem Weave.setScal_qcfg (w : Weave) (st : Strand) (n : Nat) (x : DWord) : (w.setScal st n x).qcfg = w.qcfg := by
  have h := congrArg Weave.qcfg (w.setScal_same st n x); exact h
@[simp] theorem Weave.setScal_gens (w : Weave) (st : Strand) (n : Nat) (x : DWord) : (w.setScal st n x).gens = w.gens := by
  have h := congrArg Weave.gens (w.setScal_same st n x); exact h
@[simp] theorem Weave.setScal_recs (w : Weave) (st : Strand) (n : Nat) (x : DWord) : (w.setScal st n x).recs = w.recs := by
  have h := congrArg Weave.recs (w.setScal_same st n x); exact h
@[simp] theorem Weave.setScal_part (w : Weave) (st : Strand) (n : Nat) (x : DWord) : (w.setScal st n x).part = w.part := by
  have h := congrArg Weave.part (w.setScal_same st n x); exact h
@[simp] theorem Weave.setScal_session (w : Weave) (st : Strand) (n : Nat) (x : DWord) : (w.setScal st n x).session = w.session := by
  have h := congrArg Weave.session (w.setScal_same st n x); exact h
@[simp] theorem Weave.setScal_stopped (w : Weave) (st : Strand) (n : Nat) (x : DWord) : (w.setScal st n x).stopped = w.stopped := by
  have h := congrArg Weave.stopped (w.setScal_same st n x); exact h
@[simp] theorem Weave.setScal_supJoins (w : Weave) (st : Strand) (n : Nat) (x : DWord) : (w.setScal st n x).supJoins = w.supJoins := by
  have h := congrArg Weave.supJoins (w.setScal_same st n x); exact h
@[simp] theorem Weave.setScal_aIssued (w : Weave) (st : Strand) (n : Nat) (x : DWord) : (w.setScal st n x).aIssued = w.aIssued := by
  have h := congrArg Weave.aIssued (w.setScal_same st n x); exact h
@[simp] theorem Weave.setScal_cIssued (w : Weave) (st : Strand) (n : Nat) (x : DWord) : (w.setScal st n x).cIssued = w.cIssued := by
  have h := congrArg Weave.cIssued (w.setScal_same st n x); exact h
@[simp] theorem Weave.setScal_cWaited (w : Weave) (st : Strand) (n : Nat) (x : DWord) : (w.setScal st n x).cWaited = w.cWaited := by
  have h := congrArg Weave.cWaited (w.setScal_same st n x); exact h
@[simp] theorem Weave.setScal_halted (w : Weave) (st : Strand) (n : Nat) (x : DWord) : (w.setScal st n x).halted = w.halted := by
  have h := congrArg Weave.halted (w.setScal_same st n x); exact h
@[simp] theorem Weave.setScal_saved (w : Weave) (st : Strand) (n : Nat) (x : DWord) : (w.setScal st n x).saved = w.saved := by
  have h := congrArg Weave.saved (w.setScal_same st n x); exact h
@[simp] theorem Weave.setScal_restored (w : Weave) (st : Strand) (n : Nat) (x : DWord) : (w.setScal st n x).restored = w.restored := by
  have h := congrArg Weave.restored (w.setScal_same st n x); exact h

/-! ### onQueue -/

@[simp] theorem Weave.onQueue_id (w : Weave) (q : Nat) (f : Queue → Queue) : (w.onQueue q f).id = w.id := rfl
@[simp] theorem Weave.onQueue_crew (w : Weave) (q : Nat) (f : Queue → Queue) : (w.onQueue q f).crew = w.crew := rfl
@[simp] theorem Weave.onQueue_index (w : Weave) (q : Nat) (f : Queue → Queue) : (w.onQueue q f).index = w.index := rfl
@[simp] theorem Weave.onQueue_aRegs (w : Weave) (q : Nat) (f : Queue → Queue) : (w.onQueue q f).aRegs = w.aRegs := rfl
@[simp] theorem Weave.onQueue_aBank (w : Weave) (q : Nat) (f : Queue → Queue) : (w.onQueue q f).aBank = w.aBank := rfl
@[simp] theorem Weave.onQueue_aPc (w : Weave) (q : Nat) (f : Queue → Queue) : (w.onQueue q f).aPc = w.aPc := rfl
@[simp] theorem Weave.onQueue_aMode (w : Weave) (q : Nat) (f : Queue → Queue) : (w.onQueue q f).aMode = w.aMode := rfl
@[simp] theorem Weave.onQueue_aEnded (w : Weave) (q : Nat) (f : Queue → Queue) : (w.onQueue q f).aEnded = w.aEnded := rfl
@[simp] theorem Weave.onQueue_aWait (w : Weave) (q : Nat) (f : Queue → Queue) : (w.onQueue q f).aWait = w.aWait := rfl
@[simp] theorem Weave.onQueue_aPend (w : Weave) (q : Nat) (f : Queue → Queue) : (w.onQueue q f).aPend = w.aPend := rfl
@[simp] theorem Weave.onQueue_sRegs (w : Weave) (q : Nat) (f : Queue → Queue) : (w.onQueue q f).sRegs = w.sRegs := rfl
@[simp] theorem Weave.onQueue_sBank (w : Weave) (q : Nat) (f : Queue → Queue) : (w.onQueue q f).sBank = w.sBank := rfl
@[simp] theorem Weave.onQueue_vRegs (w : Weave) (q : Nat) (f : Queue → Queue) : (w.onQueue q f).vRegs = w.vRegs := rfl
@[simp] theorem Weave.onQueue_pRegs (w : Weave) (q : Nat) (f : Queue → Queue) : (w.onQueue q f).pRegs = w.pRegs := rfl
@[simp] theorem Weave.onQueue_xRegs (w : Weave) (q : Nat) (f : Queue → Queue) : (w.onQueue q f).xRegs = w.xRegs := rfl
@[simp] theorem Weave.onQueue_ports (w : Weave) (q : Nat) (f : Queue → Queue) : (w.onQueue q f).ports = w.ports := rfl
@[simp] theorem Weave.onQueue_split (w : Weave) (q : Nat) (f : Queue → Queue) : (w.onQueue q f).split = w.split := rfl
@[simp] theorem Weave.onQueue_lastEntry (w : Weave) (q : Nat) (f : Queue → Queue) : (w.onQueue q f).lastEntry = w.lastEntry := rfl
@[simp] theorem Weave.onQueue_takenFirst (w : Weave) (q : Nat) (f : Queue → Queue) : (w.onQueue q f).takenFirst = w.takenFirst := rfl
@[simp] theorem Weave.onQueue_cMode (w : Weave) (q : Nat) (f : Queue → Queue) : (w.onQueue q f).cMode = w.cMode := rfl
@[simp] theorem Weave.onQueue_cHand (w : Weave) (q : Nat) (f : Queue → Queue) : (w.onQueue q f).cHand = w.cHand := rfl
@[simp] theorem Weave.onQueue_cPend (w : Weave) (q : Nat) (f : Queue → Queue) : (w.onQueue q f).cPend = w.cPend := rfl
@[simp] theorem Weave.onQueue_stash (w : Weave) (q : Nat) (f : Queue → Queue) : (w.onQueue q f).stash = w.stash := rfl
@[simp] theorem Weave.onQueue_aStash (w : Weave) (q : Nat) (f : Queue → Queue) : (w.onQueue q f).aStash = w.aStash := rfl
@[simp] theorem Weave.onQueue_mdefA (w : Weave) (q : Nat) (f : Queue → Queue) : (w.onQueue q f).mdefA = w.mdefA := rfl
@[simp] theorem Weave.onQueue_mdefC (w : Weave) (q : Nat) (f : Queue → Queue) : (w.onQueue q f).mdefC = w.mdefC := rfl
@[simp] theorem Weave.onQueue_fpctl (w : Weave) (q : Nat) (f : Queue → Queue) : (w.onQueue q f).fpctl = w.fpctl := rfl
@[simp] theorem Weave.onQueue_gang (w : Weave) (q : Nat) (f : Queue → Queue) : (w.onQueue q f).gang = w.gang := rfl
@[simp] theorem Weave.onQueue_pair (w : Weave) (q : Nat) (f : Queue → Queue) : (w.onQueue q f).pair = w.pair := rfl
@[simp] theorem Weave.onQueue_breg (w : Weave) (q : Nat) (f : Queue → Queue) : (w.onQueue q f).breg = w.breg := rfl
@[simp] theorem Weave.onQueue_views (w : Weave) (q : Nat) (f : Queue → Queue) : (w.onQueue q f).views = w.views := rfl
@[simp] theorem Weave.onQueue_mprom (w : Weave) (q : Nat) (f : Queue → Queue) : (w.onQueue q f).mprom = w.mprom := rfl
@[simp] theorem Weave.onQueue_chktol (w : Weave) (q : Nat) (f : Queue → Queue) : (w.onQueue q f).chktol = w.chktol := rfl
@[simp] theorem Weave.onQueue_chkinj (w : Weave) (q : Nat) (f : Queue → Queue) : (w.onQueue q f).chkinj = w.chkinj := rfl
@[simp] theorem Weave.onQueue_splitBase (w : Weave) (q : Nat) (f : Queue → Queue) : (w.onQueue q f).splitBase = w.splitBase := rfl
@[simp] theorem Weave.onQueue_fltm (w : Weave) (q : Nat) (f : Queue → Queue) : (w.onQueue q f).fltm = w.fltm := rfl
@[simp] theorem Weave.onQueue_fltrec (w : Weave) (q : Nat) (f : Queue → Queue) : (w.onQueue q f).fltrec = w.fltrec := rfl
@[simp] theorem Weave.onQueue_hndlr (w : Weave) (q : Nat) (f : Queue → Queue) : (w.onQueue q f).hndlr = w.hndlr := rfl
@[simp] theorem Weave.onQueue_pgt (w : Weave) (q : Nat) (f : Queue → Queue) : (w.onQueue q f).pgt = w.pgt := rfl
@[simp] theorem Weave.onQueue_ctxid (w : Weave) (q : Nat) (f : Queue → Queue) : (w.onQueue q f).ctxid = w.ctxid := rfl
@[simp] theorem Weave.onQueue_pwatch (w : Weave) (q : Nat) (f : Queue → Queue) : (w.onQueue q f).pwatch = w.pwatch := rfl
@[simp] theorem Weave.onQueue_qcfg (w : Weave) (q : Nat) (f : Queue → Queue) : (w.onQueue q f).qcfg = w.qcfg := rfl
@[simp] theorem Weave.onQueue_gens (w : Weave) (q : Nat) (f : Queue → Queue) : (w.onQueue q f).gens = w.gens := rfl
@[simp] theorem Weave.onQueue_recs (w : Weave) (q : Nat) (f : Queue → Queue) : (w.onQueue q f).recs = w.recs := rfl
@[simp] theorem Weave.onQueue_part (w : Weave) (q : Nat) (f : Queue → Queue) : (w.onQueue q f).part = w.part := rfl
@[simp] theorem Weave.onQueue_session (w : Weave) (q : Nat) (f : Queue → Queue) : (w.onQueue q f).session = w.session := rfl
@[simp] theorem Weave.onQueue_stopped (w : Weave) (q : Nat) (f : Queue → Queue) : (w.onQueue q f).stopped = w.stopped := rfl
@[simp] theorem Weave.onQueue_supJoins (w : Weave) (q : Nat) (f : Queue → Queue) : (w.onQueue q f).supJoins = w.supJoins := rfl
@[simp] theorem Weave.onQueue_aIssued (w : Weave) (q : Nat) (f : Queue → Queue) : (w.onQueue q f).aIssued = w.aIssued := rfl
@[simp] theorem Weave.onQueue_cIssued (w : Weave) (q : Nat) (f : Queue → Queue) : (w.onQueue q f).cIssued = w.cIssued := rfl
@[simp] theorem Weave.onQueue_cWaited (w : Weave) (q : Nat) (f : Queue → Queue) : (w.onQueue q f).cWaited = w.cWaited := rfl
@[simp] theorem Weave.onQueue_halted (w : Weave) (q : Nat) (f : Queue → Queue) : (w.onQueue q f).halted = w.halted := rfl
@[simp] theorem Weave.onQueue_saved (w : Weave) (q : Nat) (f : Queue → Queue) : (w.onQueue q f).saved = w.saved := rfl
@[simp] theorem Weave.onQueue_restored (w : Weave) (q : Nat) (f : Queue → Queue) : (w.onQueue q f).restored = w.restored := rfl

/-! ### onPort -/

@[simp] theorem Weave.onPort_id (w : Weave) (p : Port) (f : PortFifo → PortFifo) : (w.onPort p f).id = w.id := rfl
@[simp] theorem Weave.onPort_crew (w : Weave) (p : Port) (f : PortFifo → PortFifo) : (w.onPort p f).crew = w.crew := rfl
@[simp] theorem Weave.onPort_index (w : Weave) (p : Port) (f : PortFifo → PortFifo) : (w.onPort p f).index = w.index := rfl
@[simp] theorem Weave.onPort_aRegs (w : Weave) (p : Port) (f : PortFifo → PortFifo) : (w.onPort p f).aRegs = w.aRegs := rfl
@[simp] theorem Weave.onPort_aBank (w : Weave) (p : Port) (f : PortFifo → PortFifo) : (w.onPort p f).aBank = w.aBank := rfl
@[simp] theorem Weave.onPort_aPc (w : Weave) (p : Port) (f : PortFifo → PortFifo) : (w.onPort p f).aPc = w.aPc := rfl
@[simp] theorem Weave.onPort_aMode (w : Weave) (p : Port) (f : PortFifo → PortFifo) : (w.onPort p f).aMode = w.aMode := rfl
@[simp] theorem Weave.onPort_aEnded (w : Weave) (p : Port) (f : PortFifo → PortFifo) : (w.onPort p f).aEnded = w.aEnded := rfl
@[simp] theorem Weave.onPort_aWait (w : Weave) (p : Port) (f : PortFifo → PortFifo) : (w.onPort p f).aWait = w.aWait := rfl
@[simp] theorem Weave.onPort_aPend (w : Weave) (p : Port) (f : PortFifo → PortFifo) : (w.onPort p f).aPend = w.aPend := rfl
@[simp] theorem Weave.onPort_sRegs (w : Weave) (p : Port) (f : PortFifo → PortFifo) : (w.onPort p f).sRegs = w.sRegs := rfl
@[simp] theorem Weave.onPort_sBank (w : Weave) (p : Port) (f : PortFifo → PortFifo) : (w.onPort p f).sBank = w.sBank := rfl
@[simp] theorem Weave.onPort_vRegs (w : Weave) (p : Port) (f : PortFifo → PortFifo) : (w.onPort p f).vRegs = w.vRegs := rfl
@[simp] theorem Weave.onPort_pRegs (w : Weave) (p : Port) (f : PortFifo → PortFifo) : (w.onPort p f).pRegs = w.pRegs := rfl
@[simp] theorem Weave.onPort_xRegs (w : Weave) (p : Port) (f : PortFifo → PortFifo) : (w.onPort p f).xRegs = w.xRegs := rfl
@[simp] theorem Weave.onPort_queues (w : Weave) (p : Port) (f : PortFifo → PortFifo) : (w.onPort p f).queues = w.queues := rfl
@[simp] theorem Weave.onPort_split (w : Weave) (p : Port) (f : PortFifo → PortFifo) : (w.onPort p f).split = w.split := rfl
@[simp] theorem Weave.onPort_lastEntry (w : Weave) (p : Port) (f : PortFifo → PortFifo) : (w.onPort p f).lastEntry = w.lastEntry := rfl
@[simp] theorem Weave.onPort_takenFirst (w : Weave) (p : Port) (f : PortFifo → PortFifo) : (w.onPort p f).takenFirst = w.takenFirst := rfl
@[simp] theorem Weave.onPort_cMode (w : Weave) (p : Port) (f : PortFifo → PortFifo) : (w.onPort p f).cMode = w.cMode := rfl
@[simp] theorem Weave.onPort_cHand (w : Weave) (p : Port) (f : PortFifo → PortFifo) : (w.onPort p f).cHand = w.cHand := rfl
@[simp] theorem Weave.onPort_cPend (w : Weave) (p : Port) (f : PortFifo → PortFifo) : (w.onPort p f).cPend = w.cPend := rfl
@[simp] theorem Weave.onPort_stash (w : Weave) (p : Port) (f : PortFifo → PortFifo) : (w.onPort p f).stash = w.stash := rfl
@[simp] theorem Weave.onPort_aStash (w : Weave) (p : Port) (f : PortFifo → PortFifo) : (w.onPort p f).aStash = w.aStash := rfl
@[simp] theorem Weave.onPort_mdefA (w : Weave) (p : Port) (f : PortFifo → PortFifo) : (w.onPort p f).mdefA = w.mdefA := rfl
@[simp] theorem Weave.onPort_mdefC (w : Weave) (p : Port) (f : PortFifo → PortFifo) : (w.onPort p f).mdefC = w.mdefC := rfl
@[simp] theorem Weave.onPort_fpctl (w : Weave) (p : Port) (f : PortFifo → PortFifo) : (w.onPort p f).fpctl = w.fpctl := rfl
@[simp] theorem Weave.onPort_gang (w : Weave) (p : Port) (f : PortFifo → PortFifo) : (w.onPort p f).gang = w.gang := rfl
@[simp] theorem Weave.onPort_pair (w : Weave) (p : Port) (f : PortFifo → PortFifo) : (w.onPort p f).pair = w.pair := rfl
@[simp] theorem Weave.onPort_breg (w : Weave) (p : Port) (f : PortFifo → PortFifo) : (w.onPort p f).breg = w.breg := rfl
@[simp] theorem Weave.onPort_views (w : Weave) (p : Port) (f : PortFifo → PortFifo) : (w.onPort p f).views = w.views := rfl
@[simp] theorem Weave.onPort_mprom (w : Weave) (p : Port) (f : PortFifo → PortFifo) : (w.onPort p f).mprom = w.mprom := rfl
@[simp] theorem Weave.onPort_chktol (w : Weave) (p : Port) (f : PortFifo → PortFifo) : (w.onPort p f).chktol = w.chktol := rfl
@[simp] theorem Weave.onPort_chkinj (w : Weave) (p : Port) (f : PortFifo → PortFifo) : (w.onPort p f).chkinj = w.chkinj := rfl
@[simp] theorem Weave.onPort_splitBase (w : Weave) (p : Port) (f : PortFifo → PortFifo) : (w.onPort p f).splitBase = w.splitBase := rfl
@[simp] theorem Weave.onPort_fltm (w : Weave) (p : Port) (f : PortFifo → PortFifo) : (w.onPort p f).fltm = w.fltm := rfl
@[simp] theorem Weave.onPort_fltrec (w : Weave) (p : Port) (f : PortFifo → PortFifo) : (w.onPort p f).fltrec = w.fltrec := rfl
@[simp] theorem Weave.onPort_hndlr (w : Weave) (p : Port) (f : PortFifo → PortFifo) : (w.onPort p f).hndlr = w.hndlr := rfl
@[simp] theorem Weave.onPort_pgt (w : Weave) (p : Port) (f : PortFifo → PortFifo) : (w.onPort p f).pgt = w.pgt := rfl
@[simp] theorem Weave.onPort_ctxid (w : Weave) (p : Port) (f : PortFifo → PortFifo) : (w.onPort p f).ctxid = w.ctxid := rfl
@[simp] theorem Weave.onPort_pwatch (w : Weave) (p : Port) (f : PortFifo → PortFifo) : (w.onPort p f).pwatch = w.pwatch := rfl
@[simp] theorem Weave.onPort_qcfg (w : Weave) (p : Port) (f : PortFifo → PortFifo) : (w.onPort p f).qcfg = w.qcfg := rfl
@[simp] theorem Weave.onPort_gens (w : Weave) (p : Port) (f : PortFifo → PortFifo) : (w.onPort p f).gens = w.gens := rfl
@[simp] theorem Weave.onPort_recs (w : Weave) (p : Port) (f : PortFifo → PortFifo) : (w.onPort p f).recs = w.recs := rfl
@[simp] theorem Weave.onPort_part (w : Weave) (p : Port) (f : PortFifo → PortFifo) : (w.onPort p f).part = w.part := rfl
@[simp] theorem Weave.onPort_session (w : Weave) (p : Port) (f : PortFifo → PortFifo) : (w.onPort p f).session = w.session := rfl
@[simp] theorem Weave.onPort_stopped (w : Weave) (p : Port) (f : PortFifo → PortFifo) : (w.onPort p f).stopped = w.stopped := rfl
@[simp] theorem Weave.onPort_supJoins (w : Weave) (p : Port) (f : PortFifo → PortFifo) : (w.onPort p f).supJoins = w.supJoins := rfl
@[simp] theorem Weave.onPort_aIssued (w : Weave) (p : Port) (f : PortFifo → PortFifo) : (w.onPort p f).aIssued = w.aIssued := rfl
@[simp] theorem Weave.onPort_cIssued (w : Weave) (p : Port) (f : PortFifo → PortFifo) : (w.onPort p f).cIssued = w.cIssued := rfl
@[simp] theorem Weave.onPort_cWaited (w : Weave) (p : Port) (f : PortFifo → PortFifo) : (w.onPort p f).cWaited = w.cWaited := rfl
@[simp] theorem Weave.onPort_halted (w : Weave) (p : Port) (f : PortFifo → PortFifo) : (w.onPort p f).halted = w.halted := rfl
@[simp] theorem Weave.onPort_saved (w : Weave) (p : Port) (f : PortFifo → PortFifo) : (w.onPort p f).saved = w.saved := rfl
@[simp] theorem Weave.onPort_restored (w : Weave) (p : Port) (f : PortFifo → PortFifo) : (w.onPort p f).restored = w.restored := rfl

/-! ### advance -/

theorem Weave.advanceBy_gens (w : Weave) (m : LaneMask) (k : Nat) : ∃ g, w.advanceBy m k = { w with gens := g } := ⟨_, rfl⟩

theorem Weave.advance_gens (w : Weave) (m : LaneMask) (k : Nat) : ∃ g, w.advance m k = { w with gens := g } := by
  unfold Weave.advance
  by_cases h : (fpMode w.fpctl).round = .stochastic
  · rw [if_pos h]; exact w.advanceBy_gens m k
  · rw [if_neg h]; exact ⟨w.gens, rfl⟩

@[simp] theorem Weave.advance_id (w : Weave) (m : LaneMask) (k : Nat) : (w.advance m k).id = w.id := by
  obtain ⟨g, h⟩ := w.advance_gens m k; rw [h]
@[simp] theorem Weave.advance_crew (w : Weave) (m : LaneMask) (k : Nat) : (w.advance m k).crew = w.crew := by
  obtain ⟨g, h⟩ := w.advance_gens m k; rw [h]
@[simp] theorem Weave.advance_index (w : Weave) (m : LaneMask) (k : Nat) : (w.advance m k).index = w.index := by
  obtain ⟨g, h⟩ := w.advance_gens m k; rw [h]
@[simp] theorem Weave.advance_aRegs (w : Weave) (m : LaneMask) (k : Nat) : (w.advance m k).aRegs = w.aRegs := by
  obtain ⟨g, h⟩ := w.advance_gens m k; rw [h]
@[simp] theorem Weave.advance_aBank (w : Weave) (m : LaneMask) (k : Nat) : (w.advance m k).aBank = w.aBank := by
  obtain ⟨g, h⟩ := w.advance_gens m k; rw [h]
@[simp] theorem Weave.advance_aPc (w : Weave) (m : LaneMask) (k : Nat) : (w.advance m k).aPc = w.aPc := by
  obtain ⟨g, h⟩ := w.advance_gens m k; rw [h]
@[simp] theorem Weave.advance_aMode (w : Weave) (m : LaneMask) (k : Nat) : (w.advance m k).aMode = w.aMode := by
  obtain ⟨g, h⟩ := w.advance_gens m k; rw [h]
@[simp] theorem Weave.advance_aEnded (w : Weave) (m : LaneMask) (k : Nat) : (w.advance m k).aEnded = w.aEnded := by
  obtain ⟨g, h⟩ := w.advance_gens m k; rw [h]
@[simp] theorem Weave.advance_aWait (w : Weave) (m : LaneMask) (k : Nat) : (w.advance m k).aWait = w.aWait := by
  obtain ⟨g, h⟩ := w.advance_gens m k; rw [h]
@[simp] theorem Weave.advance_aPend (w : Weave) (m : LaneMask) (k : Nat) : (w.advance m k).aPend = w.aPend := by
  obtain ⟨g, h⟩ := w.advance_gens m k; rw [h]
@[simp] theorem Weave.advance_sRegs (w : Weave) (m : LaneMask) (k : Nat) : (w.advance m k).sRegs = w.sRegs := by
  obtain ⟨g, h⟩ := w.advance_gens m k; rw [h]
@[simp] theorem Weave.advance_sBank (w : Weave) (m : LaneMask) (k : Nat) : (w.advance m k).sBank = w.sBank := by
  obtain ⟨g, h⟩ := w.advance_gens m k; rw [h]
@[simp] theorem Weave.advance_vRegs (w : Weave) (m : LaneMask) (k : Nat) : (w.advance m k).vRegs = w.vRegs := by
  obtain ⟨g, h⟩ := w.advance_gens m k; rw [h]
@[simp] theorem Weave.advance_pRegs (w : Weave) (m : LaneMask) (k : Nat) : (w.advance m k).pRegs = w.pRegs := by
  obtain ⟨g, h⟩ := w.advance_gens m k; rw [h]
@[simp] theorem Weave.advance_xRegs (w : Weave) (m : LaneMask) (k : Nat) : (w.advance m k).xRegs = w.xRegs := by
  obtain ⟨g, h⟩ := w.advance_gens m k; rw [h]
@[simp] theorem Weave.advance_queues (w : Weave) (m : LaneMask) (k : Nat) : (w.advance m k).queues = w.queues := by
  obtain ⟨g, h⟩ := w.advance_gens m k; rw [h]
@[simp] theorem Weave.advance_ports (w : Weave) (m : LaneMask) (k : Nat) : (w.advance m k).ports = w.ports := by
  obtain ⟨g, h⟩ := w.advance_gens m k; rw [h]
@[simp] theorem Weave.advance_split (w : Weave) (m : LaneMask) (k : Nat) : (w.advance m k).split = w.split := by
  obtain ⟨g, h⟩ := w.advance_gens m k; rw [h]
@[simp] theorem Weave.advance_lastEntry (w : Weave) (m : LaneMask) (k : Nat) : (w.advance m k).lastEntry = w.lastEntry := by
  obtain ⟨g, h⟩ := w.advance_gens m k; rw [h]
@[simp] theorem Weave.advance_takenFirst (w : Weave) (m : LaneMask) (k : Nat) : (w.advance m k).takenFirst = w.takenFirst := by
  obtain ⟨g, h⟩ := w.advance_gens m k; rw [h]
@[simp] theorem Weave.advance_cMode (w : Weave) (m : LaneMask) (k : Nat) : (w.advance m k).cMode = w.cMode := by
  obtain ⟨g, h⟩ := w.advance_gens m k; rw [h]
@[simp] theorem Weave.advance_cHand (w : Weave) (m : LaneMask) (k : Nat) : (w.advance m k).cHand = w.cHand := by
  obtain ⟨g, h⟩ := w.advance_gens m k; rw [h]
@[simp] theorem Weave.advance_cPend (w : Weave) (m : LaneMask) (k : Nat) : (w.advance m k).cPend = w.cPend := by
  obtain ⟨g, h⟩ := w.advance_gens m k; rw [h]
@[simp] theorem Weave.advance_stash (w : Weave) (m : LaneMask) (k : Nat) : (w.advance m k).stash = w.stash := by
  obtain ⟨g, h⟩ := w.advance_gens m k; rw [h]
@[simp] theorem Weave.advance_aStash (w : Weave) (m : LaneMask) (k : Nat) : (w.advance m k).aStash = w.aStash := by
  obtain ⟨g, h⟩ := w.advance_gens m k; rw [h]
@[simp] theorem Weave.advance_mdefA (w : Weave) (m : LaneMask) (k : Nat) : (w.advance m k).mdefA = w.mdefA := by
  obtain ⟨g, h⟩ := w.advance_gens m k; rw [h]
@[simp] theorem Weave.advance_mdefC (w : Weave) (m : LaneMask) (k : Nat) : (w.advance m k).mdefC = w.mdefC := by
  obtain ⟨g, h⟩ := w.advance_gens m k; rw [h]
@[simp] theorem Weave.advance_fpctl (w : Weave) (m : LaneMask) (k : Nat) : (w.advance m k).fpctl = w.fpctl := by
  obtain ⟨g, h⟩ := w.advance_gens m k; rw [h]
@[simp] theorem Weave.advance_gang (w : Weave) (m : LaneMask) (k : Nat) : (w.advance m k).gang = w.gang := by
  obtain ⟨g, h⟩ := w.advance_gens m k; rw [h]
@[simp] theorem Weave.advance_pair (w : Weave) (m : LaneMask) (k : Nat) : (w.advance m k).pair = w.pair := by
  obtain ⟨g, h⟩ := w.advance_gens m k; rw [h]
@[simp] theorem Weave.advance_breg (w : Weave) (m : LaneMask) (k : Nat) : (w.advance m k).breg = w.breg := by
  obtain ⟨g, h⟩ := w.advance_gens m k; rw [h]
@[simp] theorem Weave.advance_views (w : Weave) (m : LaneMask) (k : Nat) : (w.advance m k).views = w.views := by
  obtain ⟨g, h⟩ := w.advance_gens m k; rw [h]
@[simp] theorem Weave.advance_mprom (w : Weave) (m : LaneMask) (k : Nat) : (w.advance m k).mprom = w.mprom := by
  obtain ⟨g, h⟩ := w.advance_gens m k; rw [h]
@[simp] theorem Weave.advance_chktol (w : Weave) (m : LaneMask) (k : Nat) : (w.advance m k).chktol = w.chktol := by
  obtain ⟨g, h⟩ := w.advance_gens m k; rw [h]
@[simp] theorem Weave.advance_chkinj (w : Weave) (m : LaneMask) (k : Nat) : (w.advance m k).chkinj = w.chkinj := by
  obtain ⟨g, h⟩ := w.advance_gens m k; rw [h]
@[simp] theorem Weave.advance_splitBase (w : Weave) (m : LaneMask) (k : Nat) : (w.advance m k).splitBase = w.splitBase := by
  obtain ⟨g, h⟩ := w.advance_gens m k; rw [h]
@[simp] theorem Weave.advance_fltm (w : Weave) (m : LaneMask) (k : Nat) : (w.advance m k).fltm = w.fltm := by
  obtain ⟨g, h⟩ := w.advance_gens m k; rw [h]
@[simp] theorem Weave.advance_fltrec (w : Weave) (m : LaneMask) (k : Nat) : (w.advance m k).fltrec = w.fltrec := by
  obtain ⟨g, h⟩ := w.advance_gens m k; rw [h]
@[simp] theorem Weave.advance_hndlr (w : Weave) (m : LaneMask) (k : Nat) : (w.advance m k).hndlr = w.hndlr := by
  obtain ⟨g, h⟩ := w.advance_gens m k; rw [h]
@[simp] theorem Weave.advance_pgt (w : Weave) (m : LaneMask) (k : Nat) : (w.advance m k).pgt = w.pgt := by
  obtain ⟨g, h⟩ := w.advance_gens m k; rw [h]
@[simp] theorem Weave.advance_ctxid (w : Weave) (m : LaneMask) (k : Nat) : (w.advance m k).ctxid = w.ctxid := by
  obtain ⟨g, h⟩ := w.advance_gens m k; rw [h]
@[simp] theorem Weave.advance_pwatch (w : Weave) (m : LaneMask) (k : Nat) : (w.advance m k).pwatch = w.pwatch := by
  obtain ⟨g, h⟩ := w.advance_gens m k; rw [h]
@[simp] theorem Weave.advance_qcfg (w : Weave) (m : LaneMask) (k : Nat) : (w.advance m k).qcfg = w.qcfg := by
  obtain ⟨g, h⟩ := w.advance_gens m k; rw [h]
@[simp] theorem Weave.advance_recs (w : Weave) (m : LaneMask) (k : Nat) : (w.advance m k).recs = w.recs := by
  obtain ⟨g, h⟩ := w.advance_gens m k; rw [h]
@[simp] theorem Weave.advance_part (w : Weave) (m : LaneMask) (k : Nat) : (w.advance m k).part = w.part := by
  obtain ⟨g, h⟩ := w.advance_gens m k; rw [h]
@[simp] theorem Weave.advance_session (w : Weave) (m : LaneMask) (k : Nat) : (w.advance m k).session = w.session := by
  obtain ⟨g, h⟩ := w.advance_gens m k; rw [h]
@[simp] theorem Weave.advance_stopped (w : Weave) (m : LaneMask) (k : Nat) : (w.advance m k).stopped = w.stopped := by
  obtain ⟨g, h⟩ := w.advance_gens m k; rw [h]
@[simp] theorem Weave.advance_supJoins (w : Weave) (m : LaneMask) (k : Nat) : (w.advance m k).supJoins = w.supJoins := by
  obtain ⟨g, h⟩ := w.advance_gens m k; rw [h]
@[simp] theorem Weave.advance_aIssued (w : Weave) (m : LaneMask) (k : Nat) : (w.advance m k).aIssued = w.aIssued := by
  obtain ⟨g, h⟩ := w.advance_gens m k; rw [h]
@[simp] theorem Weave.advance_cIssued (w : Weave) (m : LaneMask) (k : Nat) : (w.advance m k).cIssued = w.cIssued := by
  obtain ⟨g, h⟩ := w.advance_gens m k; rw [h]
@[simp] theorem Weave.advance_cWaited (w : Weave) (m : LaneMask) (k : Nat) : (w.advance m k).cWaited = w.cWaited := by
  obtain ⟨g, h⟩ := w.advance_gens m k; rw [h]
@[simp] theorem Weave.advance_halted (w : Weave) (m : LaneMask) (k : Nat) : (w.advance m k).halted = w.halted := by
  obtain ⟨g, h⟩ := w.advance_gens m k; rw [h]
@[simp] theorem Weave.advance_saved (w : Weave) (m : LaneMask) (k : Nat) : (w.advance m k).saved = w.saved := by
  obtain ⟨g, h⟩ := w.advance_gens m k; rw [h]
@[simp] theorem Weave.advance_restored (w : Weave) (m : LaneMask) (k : Nat) : (w.advance m k).restored = w.restored := by
  obtain ⟨g, h⟩ := w.advance_gens m k; rw [h]

end Sys2Proof.Machine
end

