-- ==== Sys2Proof/Laws/Cells.lean ====
section
/-! SUPPORT. The cells of a memory: what a write and a clear leave, and that both keep the canonical form. -/

namespace Sys2Proof.Machine

theorem cellGet_of_lt {u : Option Byte} {lo a : Nat} {cells : List Host.Cell} (h : cellsFrom u lo cells = true) (ha : a < lo) :
    cellGet cells a = none := by
  cases cells with
  | nil => rfl
  | cons c r =>
    obtain ⟨k, b⟩ := c
    simp only [cellsFrom, Bool.and_eq_true, decide_eq_true_eq] at h
    simp only [cellGet]
    rw [if_pos (by omega)]

theorem cellsFrom_mono {u : Option Byte} {lo hi : Nat} {cells : List Host.Cell} (h : cellsFrom u hi cells = true) (hl : lo ≤ hi) :
    cellsFrom u lo cells = true := by
  cases cells with
  | nil => rfl
  | cons c r =>
    obtain ⟨k, b⟩ := c
    simp only [cellsFrom, Bool.and_eq_true, decide_eq_true_eq] at h ⊢
    exact ⟨⟨by omega, h.1.2⟩, h.2⟩

/-- A write keeps the canonical form. -/
theorem cellSet_from {u : Option Byte} {cells : List Host.Cell} {lo a : Nat} {b : Byte} (h : cellsFrom u lo cells = true)
    (ha : lo ≤ a) : cellsFrom u lo (cellSet u cells a b) = true := by
  induction cells generalizing lo with
  | nil =>
    simp only [cellSet]
    split
    · rfl
    · simp [cellsFrom, *]
  | cons c r ih =>
    obtain ⟨k, x⟩ := c
    simp only [cellsFrom, Bool.and_eq_true, decide_eq_true_eq] at h
    obtain ⟨⟨hk, hx⟩, hr⟩ := h
    simp only [cellSet]
    split
    · split
      · simp [cellsFrom, *]
      · simp only [cellsFrom, Bool.and_eq_true, decide_eq_true_eq]
        exact ⟨⟨ha, ‹_›⟩, ⟨by omega, hx⟩, hr⟩
    · split
      · subst a
        split
        · exact cellsFrom_mono hr (by omega)
        · simp [cellsFrom, *]
      · simp only [cellsFrom, Bool.and_eq_true, decide_eq_true_eq]
        exact ⟨⟨hk, hx⟩, ih hr (by omega)⟩

theorem cellSet_wf {u : Option Byte} {cells : List Host.Cell} (a : Nat) (b : Byte) (h : Memory.wf u cells = true) :
    Memory.wf u (cellSet u cells a b) = true := cellSet_from h (Nat.zero_le a)

/-- A clear keeps the canonical form. -/
theorem cellClear_from {u : Option Byte} {cells : List Host.Cell} {lo : Nat} (a n : Nat) (h : cellsFrom u lo cells = true) :
    cellsFrom u lo (cellClear cells a n) = true := by
  induction cells generalizing lo with
  | nil => rfl
  | cons c r ih =>
    obtain ⟨k, x⟩ := c
    simp only [cellsFrom, Bool.and_eq_true, decide_eq_true_eq] at h
    obtain ⟨⟨hk, hx⟩, hr⟩ := h
    have hr' := ih hr
    simp only [cellClear, List.filter_cons] at hr' ⊢
    split
    · simp only [cellsFrom, Bool.and_eq_true, decide_eq_true_eq]
      exact ⟨⟨hk, hx⟩, hr'⟩
    · exact cellsFrom_mono hr' (by omega)

theorem cellClear_wf {u : Option Byte} {cells : List Host.Cell} (a n : Nat) (h : Memory.wf u cells = true) :
    Memory.wf u (cellClear cells a n) = true := cellClear_from a n h

/-- A read after a write to another address. -/
theorem cellGet_cellSet_ne {u : Option Byte} {cells : List Host.Cell} {lo a k : Nat} {b : Byte} (h : cellsFrom u lo cells = true)
    (hk : k ≠ a) : cellGet (cellSet u cells a b) k = cellGet cells k := by
  induction cells generalizing lo with
  | nil =>
    simp only [cellSet]
    split
    · rfl
    · simp only [cellGet]; split <;> simp_all
  | cons c r ih =>
    obtain ⟨j, x⟩ := c
    simp only [cellsFrom, Bool.and_eq_true, decide_eq_true_eq] at h
    obtain ⟨⟨_, _⟩, hr⟩ := h
    simp only [cellSet]
    split
    · split
      · rfl
      · rename_i hlt _
        simp only [cellGet]
        by_cases hk1 : k < a
        · rw [if_pos hk1, if_pos (by omega)]
        · rw [if_neg hk1, if_neg hk]
    · split
      · subst a
        have hj : cellGet ((j, x) :: r) k = cellGet r k := by
          simp only [cellGet]
          by_cases hk1 : k < j
          · rw [if_pos hk1, cellGet_of_lt hr (by omega)]
          · rw [if_neg hk1, if_neg hk]
        split
        · exact hj.symm
        · rw [hj]
          simp only [cellGet]
          by_cases hk1 : k < j
          · rw [if_pos hk1, cellGet_of_lt hr (by omega)]
          · rw [if_neg hk1, if_neg hk]
      · simp only [cellGet, ih hr]

/-- A read after a write to the same address, as the value that an unlisted address would read as. -/
theorem cellGet_cellSet_same {u : Option Byte} {cells : List Host.Cell} {lo a : Nat} {b : Byte} (h : cellsFrom u lo cells = true) :
    cellGet (cellSet u cells a b) a = if some b = u then none else some b := by
  induction cells generalizing lo with
  | nil => simp only [cellSet]; split <;> simp [cellGet]
  | cons c r ih =>
    obtain ⟨j, x⟩ := c
    simp only [cellsFrom, Bool.and_eq_true, decide_eq_true_eq] at h
    obtain ⟨⟨_, _⟩, hr⟩ := h
    simp only [cellSet]
    by_cases h1 : a < j
    · rw [if_pos h1]
      split
      · simp [cellGet, h1]
      · simp [cellGet]
    · rw [if_neg h1]
      by_cases h2 : a = j
      · subst a
        rw [if_pos rfl]
        split
        · exact cellGet_of_lt hr (by omega)
        · simp [cellGet]
      · rw [if_neg h2]
        simp only [cellGet]
        rw [if_neg h1, if_neg h2, ih hr]

/-! ### The memories of the machine -/

theorem memByte_memSet_same {s : State} (h : s.MemOk) (a : Nat) (b : Byte) : (s.memSet a b).memByte a = b := by
  unfold State.memByte State.memSet
  by_cases ha : isHost a = true
  · simp only [ha, if_true, cellGet_cellSet_same h.2.2.2]; simp
  · simp only [ha, if_false, cellGet_cellSet_same h.1, Bool.false_eq_true]
    split
    · rename_i e; simpa using e.symm
    · rfl

theorem memByte_memSet_ne {s : State} (h : s.MemOk) {a k : Nat} (b : Byte) (hk : k ≠ a) :
    (s.memSet a b).memByte k = s.memByte k := by
  unfold State.memByte State.memSet
  by_cases ha : isHost a = true <;> by_cases hh : isHost k = true
  · have h1 := ha; have h2 := hh
    simp only [isHost, decide_eq_true_eq] at h1 h2
    simp only [ha, hh, if_true, cellGet_cellSet_ne h.2.2.2 (show k - hostBase ≠ a - hostBase by omega)]
  · simp only [ha, hh, if_true, if_false, Bool.false_eq_true]
  · simp only [ha, hh, if_true, if_false, Bool.false_eq_true]
  · simp only [ha, hh, if_false, Bool.false_eq_true, cellGet_cellSet_ne h.1 hk]

theorem memSet_ok {s : State} (h : s.MemOk) (a : Nat) (b : Byte) : (s.memSet a b).MemOk := by
  unfold State.memSet
  split
  · exact ⟨h.1, h.2.1, h.2.2.1, cellSet_wf _ b h.2.2.2⟩
  · exact ⟨cellSet_wf a b h.1, h.2⟩

theorem memZero_ok {s : State} (h : s.MemOk) (a n : Nat) : (s.memZero a n).MemOk := ⟨cellClear_wf a n h.1, h.2⟩

theorem hostSet_ok {s : State} (h : s.MemOk) (fn a : Nat) (b : Byte) : (s.hostSet fn a b).MemOk := memSet_ok h _ b

theorem sramSet_ok {s : State} (h : s.MemOk) (core a : Nat) (b : Byte) : (s.sramSet core a b).MemOk := by
  unfold State.sramSet
  split
  · exact ⟨h.1, cellSet_wf _ b h.2.1, h.2.2⟩
  · split
    · exact ⟨h.1, h.2.1, cellSet_wf _ b h.2.2.1, h.2.2.2⟩
    · exact h

/-- A fold whose every step keeps the canonical form keeps it. -/
theorem foldl_ok {α : Type} {f : State → α → State} (hf : ∀ t x, t.MemOk → (f t x).MemOk) (l : List α) {s : State} (h : s.MemOk) :
    (l.foldl f s).MemOk := by
  induction l generalizing s with
  | nil => exact h
  | cons x r ih => exact ih (hf s x h)

theorem memStore_ok {s : State} (h : s.MemOk) (a : Nat) (bs : List Byte) : (s.memStore a bs).MemOk :=
  foldl_ok (fun _ _ ht => memSet_ok ht _ _) _ h

theorem memWrite_ok {s : State} (h : s.MemOk) (a n x : Nat) : (s.memWrite a n x).MemOk := memStore_ok h _ _

theorem sramWrite_ok {s : State} (h : s.MemOk) (core a n x : Nat) : (s.sramWrite core a n x).MemOk :=
  foldl_ok (fun _ _ ht => sramSet_ok ht _ _ _) _ h

theorem sramStore_ok {s : State} (h : s.MemOk) (core a : Nat) (bs : List Byte) : (s.sramStore core a bs).MemOk :=
  foldl_ok (fun _ _ ht => sramSet_ok ht _ _ _) _ h

/-- A change of other fields keeps the canonical form. -/
theorem MemOk.of_eq {s t : State} (h : s.MemOk) (h1 : t.mem = s.mem) (h2 : t.spad = s.spad) (h3 : t.store = s.store)
    (h4 : t.hostMem = s.hostMem) : t.MemOk := by
  simp only [State.MemOk, h1, h2, h3, h4]; exact h

theorem onWeave_ok {s : State} (h : s.MemOk) (id : WeaveId) (f : Weave → Weave) : (s.onWeave id f).MemOk := h

theorem onMe_ok {s : State} (h : s.MemOk) (f : Weave → Weave) : (s.onMe f).MemOk := h

theorem onCore_ok {s : State} (h : s.MemOk) (c : Nat) (f : CoreState → CoreState) : (s.onCore c f).MemOk := h

theorem onPcb_ok {s : State} (h : s.MemOk) (p : Nat) (f : Pcb → Pcb) : (s.onPcb p f).MemOk := h

theorem issued_ok {s : State} (h : s.MemOk) : s.issued.MemOk := h

theorem fly_ok {s : State} (h : s.MemOk) (i : FaultInfo) (d : Dest) (l : List (Option Nat)) (m : LaneMask) (c : Bool) :
    (s.fly i d l m c).MemOk := h

/-! ### Bytes of a core's SRAM -/

theorem sramByte_sramSet_same {s : State} (h : s.MemOk) {core a : Nat} (b : Byte) (ha : a < 0x82000) :
    (s.sramSet core a b).sramByte core a = b := by
  unfold State.sramSet State.sramByte
  by_cases h1 : a < 0x80000
  · simp only [h1, if_true, cellGet_cellSet_same h.2.1]; simp
  · simp only [h1, if_false, ha, if_true, cellGet_cellSet_same h.2.2.1]; simp

theorem sramByte_sramSet_ne {s : State} (h : s.MemOk) {core a k : Nat} (b : Byte) (hk : k ≠ a) :
    (s.sramSet core a b).sramByte core k = s.sramByte core k := by
  unfold State.sramSet State.sramByte
  by_cases h1 : a < 0x80000
  · by_cases h2 : k < 0x80000
    · simp only [h1, h2, if_true]
      rw [cellGet_cellSet_ne h.2.1 (by unfold spadKey; omega)]
    · simp only [h1, h2, if_true, if_false]
  · by_cases h3 : a < 0x82000
    · by_cases h2 : k < 0x80000
      · simp only [h1, h2, h3, if_true, if_false]
      · simp only [h1, h2, h3, if_true, if_false]
        rw [cellGet_cellSet_ne h.2.2.1 (by omega)]
    · simp only [h1, h3, if_false]

/-! ### Runs of bytes of a core's SRAM -/

theorem sramByte_foldl {core a : Nat} (bs : List Byte) (n : Nat) {s : State} (h : s.MemOk) (ha : a + n + bs.length ≤ 0x82000) (k : Nat) :
    ((bs.zipIdx n).foldl (fun t x => t.sramSet core (a + x.2) x.1) s).sramByte core k =
      if a + n ≤ k ∧ k < a + n + bs.length then bs[k - (a + n)]?.getD 0 else s.sramByte core k := by
  induction bs generalizing s n with
  | nil => simp
  | cons b r ih =>
    simp only [List.length_cons] at ha
    rw [List.zipIdx_cons, List.foldl_cons, ih (n + 1) (sramSet_ok h _ _ _) (by omega)]
    by_cases h1 : k = a + n
    · subst h1
      rw [if_neg (by omega), sramByte_sramSet_same h b (by omega), if_pos (by simp)]
      simp
    · by_cases h2 : a + n ≤ k ∧ k < a + n + (r.length + 1)
      · rw [if_pos (by omega), if_pos (by simpa using h2)]
        have e : k - (a + n) = k - (a + (n + 1)) + 1 := by omega
        rw [e, List.getElem?_cons_succ]
      · rw [if_neg (by omega), sramByte_sramSet_ne h b h1, if_neg (by simpa using h2)]

/-- A byte after a run of bytes is written. -/
theorem sramByte_sramStore {s : State} (h : s.MemOk) (core a k : Nat) (bs : List Byte) (ha : a + bs.length ≤ 0x82000) :
    (s.sramStore core a bs).sramByte core k =
      if a ≤ k ∧ k < a + bs.length then bs[k - a]?.getD 0 else s.sramByte core k := sramByte_foldl bs 0 h ha k

/-- A run of bytes reads back as it was written. -/
theorem sramBytes_sramStore {s : State} (h : s.MemOk) (core a : Nat) (bs : List Byte) (ha : a + bs.length ≤ 0x82000) :
    (s.sramStore core a bs).sramBytes core a bs.length = bs := by
  apply List.ext_getElem
  · simp [State.sramBytes]
  · intro i h1 h2
    simp only [State.sramBytes, List.getElem_map, List.getElem_range]
    rw [sramByte_sramStore h core a (a + i) bs ha, if_pos (by omega)]
    simp [h2]

/-- Below the supervisor store a run of bytes changes the scratchpads alone. -/
theorem sramStore_spad {s : State} (core a : Nat) (bs : List Byte) (ha : a + bs.length ≤ 0x80000) :
    s.sramStore core a bs = { s with spad := (s.sramStore core a bs).spad } := by
  have gen : ∀ (l : List Byte) (n : Nat) (u : State), a + n + l.length ≤ 0x80000 →
      (l.zipIdx n).foldl (fun t x => t.sramSet core (a + x.2) x.1) u =
        { u with spad := ((l.zipIdx n).foldl (fun t x => t.sramSet core (a + x.2) x.1) u).spad } := by
    intro l
    induction l with
    | nil => intro n u _; cases u; rfl
    | cons b r ih =>
      intro n u hu
      simp only [List.length_cons] at hu
      rw [List.zipIdx_cons, List.foldl_cons, ih (n + 1) _ (by omega)]
      have hn : a + n < 0x80000 := by omega
      simp only [State.sramSet, hn, if_true]
  exact gen bs 0 s ha

end Sys2Proof.Machine
end

