-- ==== Sys2Proof/Laws/Acting.lean ====
section
/-! SUPPORT. The acting weave, and the frame of an instruction that writes its registers alone (Ops.lean). -/

namespace Sys2Proof.Machine

/-- A weave changed by a function that keeps its name. -/
theorem weave?_onWeave_same {s : State} {id : WeaveId} {f : Weave → Weave} {w : Weave} (hf : ∀ v, (f v).id = v.id)
    (h : s.weave? id = some w) : (s.onWeave id f).weave? id = some (f w) := by
  simp only [State.weave?, State.onWeave] at h ⊢
  generalize s.weaves = l at h
  induction l with
  | nil => simp at h
  | cons v r ih =>
    by_cases hv : v.id = id
    · simp [hv, hf] at h ⊢
      rw [h]
    · simp only [List.map_cons, List.find?_cons, hv, if_false, decide_false] at h ⊢
      exact ih h

/-- The other weaves. -/
theorem weave?_onWeave_ne {s : State} {id id' : WeaveId} {f : Weave → Weave} (hf : ∀ v, (f v).id = v.id) (h : id' ≠ id) :
    (s.onWeave id f).weave? id' = s.weave? id' := by
  simp only [State.weave?, State.onWeave]
  induction s.weaves with
  | nil => rfl
  | cons v r ih =>
    by_cases hv : v.id = id
    · have hne : v.id ≠ id' := fun e => h (e ▸ hv)
      have hn : id ≠ id' := fun e => h e.symm
      simp only [List.map_cons, List.find?_cons, hv, if_true, hf, hn, decide_false]
      exact ih
    · by_cases hv' : v.id = id'
      · simp [hv', h]
      · simp only [List.map_cons, List.find?_cons, hv, hv', if_false, decide_false]
        exact ih

/-! ### What `run` answers -/

theorem run_ok {i : Instr} {s : State} {w : Weave} {body : Body} {u : State} (h : s.Ready i w) (hb : body w s.issued = .ok u) :
    run i s body = .next u := by
  unfold run; rw [h.1]; simp only [h.2.1, h.2.2, hb]

/-- A body that stops for good, or that is to be issued again. -/
theorem run_stop {i : Instr} {s : State} {w : Weave} {body : Body} {e : Stop} (h : s.Ready i w) (hb : body w s.issued = .error e)
    (hp : ∀ q, e ≠ .postpone q) : run i s body = .next (s.stopped e) := by
  unfold run; rw [h.1]; simp only [h.2.1, h.2.2, hb]

/-- An access whose checks have passed and that is left for a later turn, a store or atomic to far memory among them, which awaits its
home's acceptance (R162, R362). -/
theorem run_postpone {i : Instr} {s : State} {w : Weave} {body : Body} {q : Req} (h : s.Ready i w)
    (hb : body w s.issued = .error (.postpone q)) : run i s body = .next (s.issued.leave i w q) := by
  unfold run; rw [h.1]; simp only [h.2.1, h.2.2, hb]

theorem run_check {i : Instr} {s : State} {w : Weave} {body : Body} {c : Cause} (h : s.weave? s.cur.weave = some w)
    (hm : s.cur.moment = .now) (hc : s.decodeFault i w = some c) :
    run i s body = .next (s.vector s.cur.weave s.cur.strand (s.infoOf i w c accOther)) := by
  unfold run; rw [h]; simp only [hm, hc]

/-! ### Entries of the split table -/

theorem entry_setEntry_same {w : Weave} {e : Nat} (x : SplitEntry) (h : e < 128) : (w.setEntry e x).entry e = x := by
  simp [Weave.entry, Weave.setEntry, h]

theorem entry_setEntry_ne {w : Weave} {e k : Nat} (x : SplitEntry) (h : k ≠ e) : (w.setEntry e x).entry k = w.entry k := by
  by_cases he : e < 128
  · by_cases hk : k < 128
    · simp [Weave.entry, Weave.setEntry, hk, Ne.symm h]
    · simp [Weave.entry, Weave.setEntry, hk]
  · have : w.split.setIfInBounds e x = w.split := by
      apply Vector.ext; intro i hi; rw [Vector.getElem_setIfInBounds]; exact if_neg (by omega)
    simp [Weave.entry, Weave.setEntry, this]

/-- The PC that was set, for a strand of the table. -/
theorem pc_setPc {w : Weave} {st : Strand} {pc : BitVec 32} (h : st.inTable = true) : (w.setPc st pc).pc st = pc := by
  cases st with
  | a => rfl
  | c e =>
    have he : e < 128 := by simpa [Strand.inTable] using h
    simp [Weave.setPc, Weave.pc, entry_setEntry_same, he]

@[simp] theorem pc_countIssue (w : Weave) (st st' : Strand) : (w.countIssue st').pc st = w.pc st := by
  cases st' <;> rfl

/-- The acting weave as its instruction begins. -/
theorem issued_weave? {s : State} {w : Weave} (h : s.weave? s.cur.weave = some w) :
    s.issued.weave? s.cur.weave =
      some ((w.setPc s.cur.strand (s.cur.pc + BitVec.ofNat 32 s.cur.bytes)).countIssue s.cur.strand) :=
  weave?_onWeave_same (s := s) (f := fun v => (v.setPc s.cur.strand (s.cur.pc + BitVec.ofNat 32 s.cur.bytes)).countIssue s.cur.strand)
    (fun v => by simp) h

theorem issued_others (s : State) : SameOthers s s.issued := fun _ h =>
  weave?_onWeave_ne (s := s) (f := fun v => (v.setPc s.cur.strand (s.cur.pc + BitVec.ofNat 32 s.cur.bytes)).countIssue s.cur.strand)
    (fun v => by simp) h

theorem sameElse_onMe (s : State) (f : Weave → Weave) : SameElse s (s.issued.onMe f) := by
  unfold SameElse; cases s; rfl

/-- An instruction whose effect is a change of its own weave leaves everything else alone. -/
theorem writesOnly_onMe {s : State} {w : Weave} {f : Weave → Weave} (h : s.weave? s.cur.weave = some w)
    (ht : s.cur.strand.inTable = true) (hf : ∀ v, (f v).id = v.id) (hp : ∀ v, (f v).pc s.cur.strand = v.pc s.cur.strand) :
    s.WritesOnly (s.issued.onMe f)
      (f ((w.setPc s.cur.strand (s.cur.pc + BitVec.ofNat 32 s.cur.bytes)).countIssue s.cur.strand)) := by
  refine ⟨weave?_onWeave_same (s := s.issued) hf (issued_weave? h), ?_, ?_, sameElse_onMe s f, fun _ => rfl, fun _ _ => rfl, fun _ _ => rfl⟩
  · rw [hp, pc_countIssue, pc_setPc ht]
  · intro id hid
    exact (weave?_onWeave_ne (s := s.issued) hf hid).trans (issued_others s id hid)

end Sys2Proof.Machine
end

