-- ==== Sys2Proof/Laws/PerInstr.lean ====
section
/-! SUPPORT. One lemma for each constructor: the first halfword of an encoded instruction tells its length (R89). -/

namespace Sys2Proof.Laws

/-- The lowest bit of two bit vectors put together. -/
theorem low_append {n k : Nat} (x : BitVec n) (y : BitVec (k + 1)) : (x ++ y).getLsbD 0 = y.getLsbD 0 := by
  rw [BitVec.getLsbD_append]; simp

/-- Bit 0 of the first halfword is 1 for a 32-bit word and 0 for a 16-bit word (R89). -/
def Encodes.Statement (i : Instr) : Prop := ∀ w, encode i = some w → w.lengthBit = decide (w.bytes = 4)

theorem Encodes.add (b a d : RegField) : Encodes.Statement (.add b a d) := by
  rintro w ⟨⟩; exact (low_append _ _).trans rfl
theorem Encodes.sub (b a d : RegField) : Encodes.Statement (.sub b a d) := by
  rintro w ⟨⟩; exact (low_append _ _).trans rfl
theorem Encodes.mul (b a d : RegField) : Encodes.Statement (.mul b a d) := by
  rintro w ⟨⟩; exact (low_append _ _).trans rfl
theorem Encodes.mulh (b a d : RegField) : Encodes.Statement (.mulh b a d) := by
  rintro w ⟨⟩; exact (low_append _ _).trans rfl
theorem Encodes.divu (b a d : RegField) : Encodes.Statement (.divu b a d) := by
  rintro w ⟨⟩; exact (low_append _ _).trans rfl
theorem Encodes.remu (b a d : RegField) : Encodes.Statement (.remu b a d) := by
  rintro w ⟨⟩; exact (low_append _ _).trans rfl
theorem Encodes.and (b a d : RegField) : Encodes.Statement (.and b a d) := by
  rintro w ⟨⟩; exact (low_append _ _).trans rfl
theorem Encodes.or (b a d : RegField) : Encodes.Statement (.or b a d) := by
  rintro w ⟨⟩; exact (low_append _ _).trans rfl
theorem Encodes.xor (b a d : RegField) : Encodes.Statement (.xor b a d) := by
  rintro w ⟨⟩; exact (low_append _ _).trans rfl
theorem Encodes.shl (b a d : RegField) : Encodes.Statement (.shl b a d) := by
  rintro w ⟨⟩; exact (low_append _ _).trans rfl
theorem Encodes.shr (b a d : RegField) : Encodes.Statement (.shr b a d) := by
  rintro w ⟨⟩; exact (low_append _ _).trans rfl
theorem Encodes.sar (b a d : RegField) : Encodes.Statement (.sar b a d) := by
  rintro w ⟨⟩; exact (low_append _ _).trans rfl
theorem Encodes.slt (b a d : RegField) : Encodes.Statement (.slt b a d) := by
  rintro w ⟨⟩; exact (low_append _ _).trans rfl
theorem Encodes.sltu (b a d : RegField) : Encodes.Statement (.sltu b a d) := by
  rintro w ⟨⟩; exact (low_append _ _).trans rfl
theorem Encodes.min (b a d : RegField) : Encodes.Statement (.min b a d) := by
  rintro w ⟨⟩; exact (low_append _ _).trans rfl
theorem Encodes.max (b a d : RegField) : Encodes.Statement (.max b a d) := by
  rintro w ⟨⟩; exact (low_append _ _).trans rfl
theorem Encodes.addi (i : BitVec 10) (a d : RegField) : Encodes.Statement (.addi i a d) := by
  rintro w ⟨⟩; exact (low_append _ _).trans rfl
theorem Encodes.andi (i : BitVec 10) (a d : RegField) : Encodes.Statement (.andi i a d) := by
  rintro w ⟨⟩; exact (low_append _ _).trans rfl
theorem Encodes.ori (i : BitVec 10) (a d : RegField) : Encodes.Statement (.ori i a d) := by
  rintro w ⟨⟩; exact (low_append _ _).trans rfl
theorem Encodes.xori (i : BitVec 10) (a d : RegField) : Encodes.Statement (.xori i a d) := by
  rintro w ⟨⟩; exact (low_append _ _).trans rfl
theorem Encodes.shli (i : BitVec 10) (a d : RegField) : Encodes.Statement (.shli i a d) := by
  rintro w ⟨⟩; exact (low_append _ _).trans rfl
theorem Encodes.shri (i : BitVec 10) (a d : RegField) : Encodes.Statement (.shri i a d) := by
  rintro w ⟨⟩; exact (low_append _ _).trans rfl
theorem Encodes.sari (i : BitVec 10) (a d : RegField) : Encodes.Statement (.sari i a d) := by
  rintro w ⟨⟩; exact (low_append _ _).trans rfl
theorem Encodes.slti (i : BitVec 10) (a d : RegField) : Encodes.Statement (.slti i a d) := by
  rintro w ⟨⟩; exact (low_append _ _).trans rfl
theorem Encodes.clz (a d : RegField) : Encodes.Statement (.clz a d) := by
  rintro w ⟨⟩; exact (low_append _ _).trans rfl
theorem Encodes.popc (a d : RegField) : Encodes.Statement (.popc a d) := by
  rintro w ⟨⟩; exact (low_append _ _).trans rfl
theorem Encodes.sel (b a d : RegField) : Encodes.Statement (.sel b a d) := by
  rintro w ⟨⟩; exact (low_append _ _).trans rfl
theorem Encodes.mfc (c d : RegField) : Encodes.Statement (.mfc c d) := by
  rintro w ⟨⟩; exact (low_append _ _).trans rfl
theorem Encodes.mtc (a c : RegField) : Encodes.Statement (.mtc a c) := by
  rintro w ⟨⟩; exact (low_append _ _).trans rfl
theorem Encodes.clock (s d : RegField) : Encodes.Statement (.clock s d) := by
  rintro w ⟨⟩; exact (low_append _ _).trans rfl
theorem Encodes.pgq (a d : RegField) : Encodes.Statement (.pgq a d) := by
  rintro w ⟨⟩; exact (low_append _ _).trans rfl
theorem Encodes.movi (i : BitVec 20) (d : RegField) : Encodes.Statement (.movi i d) := by
  rintro w ⟨⟩; exact (low_append _ _).trans rfl
theorem Encodes.movk (p : BitVec 2) (v : BitVec 16) (d : RegField) : Encodes.Statement (.movk p v d) := by
  rintro w ⟨⟩; exact (low_append _ _).trans rfl
theorem Encodes.bra (o : BitVec 26) : Encodes.Statement (.bra o) := by
  rintro w ⟨⟩; exact (low_append _ _).trans rfl
theorem Encodes.call (o : BitVec 26) : Encodes.Statement (.call o) := by
  rintro w ⟨⟩; exact (low_append _ _).trans rfl
theorem Encodes.bcc (o : BitVec 11) (c : BitVec 3) (b a : RegField) : Encodes.Statement (.bcc o c b a) := by
  rintro w ⟨⟩; exact (low_append _ _).trans rfl
theorem Encodes.jmpr (a d : RegField) : Encodes.Statement (.jmpr a d) := by
  rintro w ⟨⟩; exact (low_append _ _).trans rfl
theorem Encodes.yield (o : BitVec 12) (d : RegField) : Encodes.Statement (.yield o d) := by
  rintro w ⟨⟩; exact (low_append _ _).trans rfl
theorem Encodes.wait (d : RegField) : Encodes.Statement (.wait d) := by
  rintro w ⟨⟩; exact (low_append _ _).trans rfl
theorem Encodes.trap (c : BitVec 12) : Encodes.Statement (.trap c) := by
  rintro w ⟨⟩; exact (low_append _ _).trans rfl
theorem Encodes.brv (o : BitVec 14) (s : BitVec 1) (p : BitVec 3) : Encodes.Statement (.brv o s p) := by
  rintro w ⟨⟩; exact (low_append _ _).trans rfl
theorem Encodes.join (o : BitVec 18) : Encodes.Statement (.join o) := by
  rintro w ⟨⟩; exact (low_append _ _).trans rfl
theorem Encodes.vote (k p : BitVec 3) (d : RegField) : Encodes.Statement (.vote k p d) := by
  rintro w ⟨⟩; exact (low_append _ _).trans rfl
theorem Encodes.launch (b a d : RegField) : Encodes.Statement (.launch b a d) := by
  rintro w ⟨⟩; exact (low_append _ _).trans rfl
theorem Encodes.vadd (p : BitVec 4) (b a d : RegField) : Encodes.Statement (.vadd p b a d) := by
  rintro w ⟨⟩; exact (low_append _ _).trans rfl
theorem Encodes.vsub (p : BitVec 4) (b a d : RegField) : Encodes.Statement (.vsub p b a d) := by
  rintro w ⟨⟩; exact (low_append _ _).trans rfl
theorem Encodes.vmul (p : BitVec 4) (b a d : RegField) : Encodes.Statement (.vmul p b a d) := by
  rintro w ⟨⟩; exact (low_append _ _).trans rfl
theorem Encodes.vmulh (p : BitVec 4) (b a d : RegField) : Encodes.Statement (.vmulh p b a d) := by
  rintro w ⟨⟩; exact (low_append _ _).trans rfl
theorem Encodes.vmulhu (p : BitVec 4) (b a d : RegField) : Encodes.Statement (.vmulhu p b a d) := by
  rintro w ⟨⟩; exact (low_append _ _).trans rfl
theorem Encodes.vmad (p : BitVec 4) (b a d : RegField) : Encodes.Statement (.vmad p b a d) := by
  rintro w ⟨⟩; exact (low_append _ _).trans rfl
theorem Encodes.vand (p : BitVec 4) (b a d : RegField) : Encodes.Statement (.vand p b a d) := by
  rintro w ⟨⟩; exact (low_append _ _).trans rfl
theorem Encodes.vor (p : BitVec 4) (b a d : RegField) : Encodes.Statement (.vor p b a d) := by
  rintro w ⟨⟩; exact (low_append _ _).trans rfl
theorem Encodes.vxor (p : BitVec 4) (b a d : RegField) : Encodes.Statement (.vxor p b a d) := by
  rintro w ⟨⟩; exact (low_append _ _).trans rfl
theorem Encodes.vshl (p : BitVec 4) (b a d : RegField) : Encodes.Statement (.vshl p b a d) := by
  rintro w ⟨⟩; exact (low_append _ _).trans rfl
theorem Encodes.vshr (p : BitVec 4) (b a d : RegField) : Encodes.Statement (.vshr p b a d) := by
  rintro w ⟨⟩; exact (low_append _ _).trans rfl
theorem Encodes.vsar (p : BitVec 4) (b a d : RegField) : Encodes.Statement (.vsar p b a d) := by
  rintro w ⟨⟩; exact (low_append _ _).trans rfl
theorem Encodes.vmin (p : BitVec 4) (b a d : RegField) : Encodes.Statement (.vmin p b a d) := by
  rintro w ⟨⟩; exact (low_append _ _).trans rfl
theorem Encodes.vmax (p : BitVec 4) (b a d : RegField) : Encodes.Statement (.vmax p b a d) := by
  rintro w ⟨⟩; exact (low_append _ _).trans rfl
theorem Encodes.vadds (p : BitVec 4) (b a d : RegField) : Encodes.Statement (.vadds p b a d) := by
  rintro w ⟨⟩; exact (low_append _ _).trans rfl
theorem Encodes.vsubs (p : BitVec 4) (b a d : RegField) : Encodes.Statement (.vsubs p b a d) := by
  rintro w ⟨⟩; exact (low_append _ _).trans rfl
theorem Encodes.vaddI16 (p : BitVec 4) (b a d : RegField) : Encodes.Statement (.vaddI16 p b a d) := by
  rintro w ⟨⟩; exact (low_append _ _).trans rfl
theorem Encodes.vsubI16 (p : BitVec 4) (b a d : RegField) : Encodes.Statement (.vsubI16 p b a d) := by
  rintro w ⟨⟩; exact (low_append _ _).trans rfl
theorem Encodes.vmulI16 (p : BitVec 4) (b a d : RegField) : Encodes.Statement (.vmulI16 p b a d) := by
  rintro w ⟨⟩; exact (low_append _ _).trans rfl
theorem Encodes.vmulhI16 (p : BitVec 4) (b a d : RegField) : Encodes.Statement (.vmulhI16 p b a d) := by
  rintro w ⟨⟩; exact (low_append _ _).trans rfl
theorem Encodes.vmulhuI16 (p : BitVec 4) (b a d : RegField) : Encodes.Statement (.vmulhuI16 p b a d) := by
  rintro w ⟨⟩; exact (low_append _ _).trans rfl
theorem Encodes.vmadI16 (p : BitVec 4) (b a d : RegField) : Encodes.Statement (.vmadI16 p b a d) := by
  rintro w ⟨⟩; exact (low_append _ _).trans rfl
theorem Encodes.vandI16 (p : BitVec 4) (b a d : RegField) : Encodes.Statement (.vandI16 p b a d) := by
  rintro w ⟨⟩; exact (low_append _ _).trans rfl
theorem Encodes.vorI16 (p : BitVec 4) (b a d : RegField) : Encodes.Statement (.vorI16 p b a d) := by
  rintro w ⟨⟩; exact (low_append _ _).trans rfl
theorem Encodes.vxorI16 (p : BitVec 4) (b a d : RegField) : Encodes.Statement (.vxorI16 p b a d) := by
  rintro w ⟨⟩; exact (low_append _ _).trans rfl
theorem Encodes.vshlI16 (p : BitVec 4) (b a d : RegField) : Encodes.Statement (.vshlI16 p b a d) := by
  rintro w ⟨⟩; exact (low_append _ _).trans rfl
theorem Encodes.vshrI16 (p : BitVec 4) (b a d : RegField) : Encodes.Statement (.vshrI16 p b a d) := by
  rintro w ⟨⟩; exact (low_append _ _).trans rfl
theorem Encodes.vsarI16 (p : BitVec 4) (b a d : RegField) : Encodes.Statement (.vsarI16 p b a d) := by
  rintro w ⟨⟩; exact (low_append _ _).trans rfl
theorem Encodes.vminI16 (p : BitVec 4) (b a d : RegField) : Encodes.Statement (.vminI16 p b a d) := by
  rintro w ⟨⟩; exact (low_append _ _).trans rfl
theorem Encodes.vmaxI16 (p : BitVec 4) (b a d : RegField) : Encodes.Statement (.vmaxI16 p b a d) := by
  rintro w ⟨⟩; exact (low_append _ _).trans rfl
theorem Encodes.vaddsI16 (p : BitVec 4) (b a d : RegField) : Encodes.Statement (.vaddsI16 p b a d) := by
  rintro w ⟨⟩; exact (low_append _ _).trans rfl
theorem Encodes.vsubsI16 (p : BitVec 4) (b a d : RegField) : Encodes.Statement (.vsubsI16 p b a d) := by
  rintro w ⟨⟩; exact (low_append _ _).trans rfl
theorem Encodes.vaddI8 (p : BitVec 4) (b a d : RegField) : Encodes.Statement (.vaddI8 p b a d) := by
  rintro w ⟨⟩; exact (low_append _ _).trans rfl
theorem Encodes.vsubI8 (p : BitVec 4) (b a d : RegField) : Encodes.Statement (.vsubI8 p b a d) := by
  rintro w ⟨⟩; exact (low_append _ _).trans rfl
theorem Encodes.vmulI8 (p : BitVec 4) (b a d : RegField) : Encodes.Statement (.vmulI8 p b a d) := by
  rintro w ⟨⟩; exact (low_append _ _).trans rfl
theorem Encodes.vmulhI8 (p : BitVec 4) (b a d : RegField) : Encodes.Statement (.vmulhI8 p b a d) := by
  rintro w ⟨⟩; exact (low_append _ _).trans rfl
theorem Encodes.vmulhuI8 (p : BitVec 4) (b a d : RegField) : Encodes.Statement (.vmulhuI8 p b a d) := by
  rintro w ⟨⟩; exact (low_append _ _).trans rfl
theorem Encodes.vmadI8 (p : BitVec 4) (b a d : RegField) : Encodes.Statement (.vmadI8 p b a d) := by
  rintro w ⟨⟩; exact (low_append _ _).trans rfl
theorem Encodes.vandI8 (p : BitVec 4) (b a d : RegField) : Encodes.Statement (.vandI8 p b a d) := by
  rintro w ⟨⟩; exact (low_append _ _).trans rfl
theorem Encodes.vorI8 (p : BitVec 4) (b a d : RegField) : Encodes.Statement (.vorI8 p b a d) := by
  rintro w ⟨⟩; exact (low_append _ _).trans rfl
theorem Encodes.vxorI8 (p : BitVec 4) (b a d : RegField) : Encodes.Statement (.vxorI8 p b a d) := by
  rintro w ⟨⟩; exact (low_append _ _).trans rfl
theorem Encodes.vshlI8 (p : BitVec 4) (b a d : RegField) : Encodes.Statement (.vshlI8 p b a d) := by
  rintro w ⟨⟩; exact (low_append _ _).trans rfl
theorem Encodes.vshrI8 (p : BitVec 4) (b a d : RegField) : Encodes.Statement (.vshrI8 p b a d) := by
  rintro w ⟨⟩; exact (low_append _ _).trans rfl
theorem Encodes.vsarI8 (p : BitVec 4) (b a d : RegField) : Encodes.Statement (.vsarI8 p b a d) := by
  rintro w ⟨⟩; exact (low_append _ _).trans rfl
theorem Encodes.vminI8 (p : BitVec 4) (b a d : RegField) : Encodes.Statement (.vminI8 p b a d) := by
  rintro w ⟨⟩; exact (low_append _ _).trans rfl
theorem Encodes.vmaxI8 (p : BitVec 4) (b a d : RegField) : Encodes.Statement (.vmaxI8 p b a d) := by
  rintro w ⟨⟩; exact (low_append _ _).trans rfl
theorem Encodes.vaddsI8 (p : BitVec 4) (b a d : RegField) : Encodes.Statement (.vaddsI8 p b a d) := by
  rintro w ⟨⟩; exact (low_append _ _).trans rfl
theorem Encodes.vsubsI8 (p : BitVec 4) (b a d : RegField) : Encodes.Statement (.vsubsI8 p b a d) := by
  rintro w ⟨⟩; exact (low_append _ _).trans rfl
theorem Encodes.vcmp (p : BitVec 4) (b a : RegField) (c k : BitVec 3) : Encodes.Statement (.vcmp p b a c k) := by
  rintro w ⟨⟩; exact (low_append _ _).trans rfl
theorem Encodes.vsel (p : BitVec 4) (b : RegField) (k : BitVec 3) (d : RegField) : Encodes.Statement (.vsel p b k d) := by
  rintro w ⟨⟩; exact (low_append _ _).trans rfl
theorem Encodes.vabs (p : BitVec 4) (b d : RegField) : Encodes.Statement (.vabs p b d) := by
  rintro w ⟨⟩; exact (low_append _ _).trans rfl
theorem Encodes.vclz (p : BitVec 4) (b d : RegField) : Encodes.Statement (.vclz p b d) := by
  rintro w ⟨⟩; exact (low_append _ _).trans rfl
theorem Encodes.vpopc (p : BitVec 4) (b d : RegField) : Encodes.Statement (.vpopc p b d) := by
  rintro w ⟨⟩; exact (low_append _ _).trans rfl
theorem Encodes.vdot4 (p : BitVec 4) (b a d : RegField) : Encodes.Statement (.vdot4 p b a d) := by
  rintro w ⟨⟩; exact (low_append _ _).trans rfl
theorem Encodes.vmov (p : BitVec 4) (b d : RegField) : Encodes.Statement (.vmov p b d) := by
  rintro w ⟨⟩; exact (low_append _ _).trans rfl
theorem Encodes.vext (p : BitVec 4) (b : RegField) (s w : BitVec 1) (i : BitVec 2) (d : RegField) : Encodes.Statement (.vext p b s w i d) := by
  rintro w ⟨⟩; exact (low_append _ _).trans rfl
theorem Encodes.vins (p : BitVec 4) (b : RegField) (w : BitVec 1) (i : BitVec 2) (d : RegField) : Encodes.Statement (.vins p b w i d) := by
  rintro w ⟨⟩; exact (low_append _ _).trans rfl
theorem Encodes.vbcst (a d : RegField) : Encodes.Statement (.vbcst a d) := by
  rintro w ⟨⟩; exact (low_append _ _).trans rfl
theorem Encodes.vminu (p : BitVec 4) (b a d : RegField) : Encodes.Statement (.vminu p b a d) := by
  rintro w ⟨⟩; exact (low_append _ _).trans rfl
theorem Encodes.vmaxu (p : BitVec 4) (b a d : RegField) : Encodes.Statement (.vmaxu p b a d) := by
  rintro w ⟨⟩; exact (low_append _ _).trans rfl
theorem Encodes.fadd (p : BitVec 4) (b a d : RegField) : Encodes.Statement (.fadd p b a d) := by
  rintro w ⟨⟩; exact (low_append _ _).trans rfl
theorem Encodes.fsub (p : BitVec 4) (b a d : RegField) : Encodes.Statement (.fsub p b a d) := by
  rintro w ⟨⟩; exact (low_append _ _).trans rfl
theorem Encodes.fmul (p : BitVec 4) (b a d : RegField) : Encodes.Statement (.fmul p b a d) := by
  rintro w ⟨⟩; exact (low_append _ _).trans rfl
theorem Encodes.fma (p : BitVec 4) (b a d : RegField) : Encodes.Statement (.fma p b a d) := by
  rintro w ⟨⟩; exact (low_append _ _).trans rfl
theorem Encodes.fnma (p : BitVec 4) (b a d : RegField) : Encodes.Statement (.fnma p b a d) := by
  rintro w ⟨⟩; exact (low_append _ _).trans rfl
theorem Encodes.fmin (p : BitVec 4) (b a d : RegField) : Encodes.Statement (.fmin p b a d) := by
  rintro w ⟨⟩; exact (low_append _ _).trans rfl
theorem Encodes.fmax (p : BitVec 4) (b a d : RegField) : Encodes.Statement (.fmax p b a d) := by
  rintro w ⟨⟩; exact (low_append _ _).trans rfl
theorem Encodes.fcmp (p : BitVec 4) (b a : RegField) (c k : BitVec 3) : Encodes.Statement (.fcmp p b a c k) := by
  rintro w ⟨⟩; exact (low_append _ _).trans rfl
theorem Encodes.fabs (p : BitVec 4) (b d : RegField) : Encodes.Statement (.fabs p b d) := by
  rintro w ⟨⟩; exact (low_append _ _).trans rfl
theorem Encodes.fneg (p : BitVec 4) (b d : RegField) : Encodes.Statement (.fneg p b d) := by
  rintro w ⟨⟩; exact (low_append _ _).trans rfl
theorem Encodes.fsign (p : BitVec 4) (b a d : RegField) : Encodes.Statement (.fsign p b a d) := by
  rintro w ⟨⟩; exact (low_append _ _).trans rfl
theorem Encodes.fscale (p : BitVec 4) (b a d : RegField) : Encodes.Statement (.fscale p b a d) := by
  rintro w ⟨⟩; exact (low_append _ _).trans rfl
theorem Encodes.frnd (p : BitVec 4) (b : RegField) (m : BitVec 3) (d : RegField) : Encodes.Statement (.frnd p b m d) := by
  rintro w ⟨⟩; exact (low_append _ _).trans rfl
theorem Encodes.fclass (p : BitVec 4) (b d : RegField) : Encodes.Statement (.fclass p b d) := by
  rintro w ⟨⟩; exact (low_append _ _).trans rfl
theorem Encodes.faddF16 (p : BitVec 4) (b a d : RegField) : Encodes.Statement (.faddF16 p b a d) := by
  rintro w ⟨⟩; exact (low_append _ _).trans rfl
theorem Encodes.fsubF16 (p : BitVec 4) (b a d : RegField) : Encodes.Statement (.fsubF16 p b a d) := by
  rintro w ⟨⟩; exact (low_append _ _).trans rfl
theorem Encodes.fmulF16 (p : BitVec 4) (b a d : RegField) : Encodes.Statement (.fmulF16 p b a d) := by
  rintro w ⟨⟩; exact (low_append _ _).trans rfl
theorem Encodes.fmaF16 (p : BitVec 4) (b a d : RegField) : Encodes.Statement (.fmaF16 p b a d) := by
  rintro w ⟨⟩; exact (low_append _ _).trans rfl
theorem Encodes.fminF16 (p : BitVec 4) (b a d : RegField) : Encodes.Statement (.fminF16 p b a d) := by
  rintro w ⟨⟩; exact (low_append _ _).trans rfl
theorem Encodes.fmaxF16 (p : BitVec 4) (b a d : RegField) : Encodes.Statement (.fmaxF16 p b a d) := by
  rintro w ⟨⟩; exact (low_append _ _).trans rfl
theorem Encodes.fcmpF16 (p : BitVec 4) (b a : RegField) (c k : BitVec 3) : Encodes.Statement (.fcmpF16 p b a c k) := by
  rintro w ⟨⟩; exact (low_append _ _).trans rfl
theorem Encodes.fdot2F16 (p : BitVec 4) (b a d : RegField) : Encodes.Statement (.fdot2F16 p b a d) := by
  rintro w ⟨⟩; exact (low_append _ _).trans rfl
theorem Encodes.faddBf16 (p : BitVec 4) (b a d : RegField) : Encodes.Statement (.faddBf16 p b a d) := by
  rintro w ⟨⟩; exact (low_append _ _).trans rfl
theorem Encodes.fsubBf16 (p : BitVec 4) (b a d : RegField) : Encodes.Statement (.fsubBf16 p b a d) := by
  rintro w ⟨⟩; exact (low_append _ _).trans rfl
theorem Encodes.fmulBf16 (p : BitVec 4) (b a d : RegField) : Encodes.Statement (.fmulBf16 p b a d) := by
  rintro w ⟨⟩; exact (low_append _ _).trans rfl
theorem Encodes.fmaBf16 (p : BitVec 4) (b a d : RegField) : Encodes.Statement (.fmaBf16 p b a d) := by
  rintro w ⟨⟩; exact (low_append _ _).trans rfl
theorem Encodes.fminBf16 (p : BitVec 4) (b a d : RegField) : Encodes.Statement (.fminBf16 p b a d) := by
  rintro w ⟨⟩; exact (low_append _ _).trans rfl
theorem Encodes.fmaxBf16 (p : BitVec 4) (b a d : RegField) : Encodes.Statement (.fmaxBf16 p b a d) := by
  rintro w ⟨⟩; exact (low_append _ _).trans rfl
theorem Encodes.fcmpBf16 (p : BitVec 4) (b a : RegField) (c k : BitVec 3) : Encodes.Statement (.fcmpBf16 p b a c k) := by
  rintro w ⟨⟩; exact (low_append _ _).trans rfl
theorem Encodes.fdot2Bf16 (p : BitVec 4) (b a d : RegField) : Encodes.Statement (.fdot2Bf16 p b a d) := by
  rintro w ⟨⟩; exact (low_append _ _).trans rfl
theorem Encodes.frcp (p : BitVec 4) (b d : RegField) : Encodes.Statement (.frcp p b d) := by
  rintro w ⟨⟩; exact (low_append _ _).trans rfl
theorem Encodes.frsq (p : BitVec 4) (b d : RegField) : Encodes.Statement (.frsq p b d) := by
  rintro w ⟨⟩; exact (low_append _ _).trans rfl
theorem Encodes.fsqrt (p : BitVec 4) (b d : RegField) : Encodes.Statement (.fsqrt p b d) := by
  rintro w ⟨⟩; exact (low_append _ _).trans rfl
theorem Encodes.fdiv (p : BitVec 4) (b a d : RegField) : Encodes.Statement (.fdiv p b a d) := by
  rintro w ⟨⟩; exact (low_append _ _).trans rfl
theorem Encodes.fexp2 (p : BitVec 4) (b d : RegField) : Encodes.Statement (.fexp2 p b d) := by
  rintro w ⟨⟩; exact (low_append _ _).trans rfl
theorem Encodes.flog2 (p : BitVec 4) (b d : RegField) : Encodes.Statement (.flog2 p b d) := by
  rintro w ⟨⟩; exact (low_append _ _).trans rfl
theorem Encodes.fsin (p : BitVec 4) (b d : RegField) : Encodes.Statement (.fsin p b d) := by
  rintro w ⟨⟩; exact (low_append _ _).trans rfl
theorem Encodes.fcos (p : BitVec 4) (b d : RegField) : Encodes.Statement (.fcos p b d) := by
  rintro w ⟨⟩; exact (low_append _ _).trans rfl
theorem Encodes.ftanh (p : BitVec 4) (b d : RegField) : Encodes.Statement (.ftanh p b d) := by
  rintro w ⟨⟩; exact (low_append _ _).trans rfl
theorem Encodes.fcvt (s t j : BitVec 3) (a d : RegField) : Encodes.Statement (.fcvt s t j a d) := by
  rintro w ⟨⟩; exact (low_append _ _).trans rfl
theorem Encodes.qblk (k : BitVec 2) (b a d : RegField) : Encodes.Statement (.qblk k b a d) := by
  rintro w ⟨⟩; exact (low_append _ _).trans rfl
theorem Encodes.dqblk (k : BitVec 2) (b a d : RegField) : Encodes.Statement (.dqblk k b a d) := by
  rintro w ⟨⟩; exact (low_append _ _).trans rfl
theorem Encodes.zipW2 (a d : RegField) : Encodes.Statement (.zipW2 a d) := by
  rintro w ⟨⟩; exact (low_append _ _).trans rfl
theorem Encodes.zipW3 (a d : RegField) : Encodes.Statement (.zipW3 a d) := by
  rintro w ⟨⟩; exact (low_append _ _).trans rfl
theorem Encodes.zipW4 (a d : RegField) : Encodes.Statement (.zipW4 a d) := by
  rintro w ⟨⟩; exact (low_append _ _).trans rfl
theorem Encodes.unzipW2 (a d : RegField) : Encodes.Statement (.unzipW2 a d) := by
  rintro w ⟨⟩; exact (low_append _ _).trans rfl
theorem Encodes.unzipW3 (a d : RegField) : Encodes.Statement (.unzipW3 a d) := by
  rintro w ⟨⟩; exact (low_append _ _).trans rfl
theorem Encodes.unzipW4 (a d : RegField) : Encodes.Statement (.unzipW4 a d) := by
  rintro w ⟨⟩; exact (low_append _ _).trans rfl
theorem Encodes.vperm (p : BitVec 4) (b a d : RegField) : Encodes.Statement (.vperm p b a d) := by
  rintro w ⟨⟩; exact (low_append _ _).trans rfl
theorem Encodes.vred (k : BitVec 2) (o : BitVec 3) (a d : RegField) : Encodes.Statement (.vred k o a d) := by
  rintro w ⟨⟩; exact (low_append _ _).trans rfl
theorem Encodes.vscan (k : BitVec 2) (o : BitVec 3) (a d : RegField) : Encodes.Statement (.vscan k o a d) := by
  rintro w ⟨⟩; exact (low_append _ _).trans rfl
theorem Encodes.vcmpr (k : BitVec 3) (a d : RegField) : Encodes.Statement (.vcmpr k a d) := by
  rintro w ⟨⟩; exact (low_append _ _).trans rfl
theorem Encodes.vaddi (i : BitVec 10) (a d : RegField) : Encodes.Statement (.vaddi i a d) := by
  rintro w ⟨⟩; exact (low_append _ _).trans rfl
theorem Encodes.vandi (i : BitVec 10) (a d : RegField) : Encodes.Statement (.vandi i a d) := by
  rintro w ⟨⟩; exact (low_append _ _).trans rfl
theorem Encodes.vori (i : BitVec 10) (a d : RegField) : Encodes.Statement (.vori i a d) := by
  rintro w ⟨⟩; exact (low_append _ _).trans rfl
theorem Encodes.vxori (i : BitVec 10) (a d : RegField) : Encodes.Statement (.vxori i a d) := by
  rintro w ⟨⟩; exact (low_append _ _).trans rfl
theorem Encodes.vshli (i : BitVec 10) (a d : RegField) : Encodes.Statement (.vshli i a d) := by
  rintro w ⟨⟩; exact (low_append _ _).trans rfl
theorem Encodes.vshri (i : BitVec 10) (a d : RegField) : Encodes.Statement (.vshri i a d) := by
  rintro w ⟨⟩; exact (low_append _ _).trans rfl
theorem Encodes.vsari (i : BitVec 10) (a d : RegField) : Encodes.Statement (.vsari i a d) := by
  rintro w ⟨⟩; exact (low_append _ _).trans rfl
theorem Encodes.vmovi (i : BitVec 10) (d : RegField) : Encodes.Statement (.vmovi i d) := by
  rintro w ⟨⟩; exact (low_append _ _).trans rfl
theorem Encodes.vcmpi (i : BitVec 10) (a : RegField) (c k : BitVec 3) : Encodes.Statement (.vcmpi i a c k) := by
  rintro w ⟨⟩; exact (low_append _ _).trans rfl
theorem Encodes.vldx (x : BitVec 2) (a d : RegField) : Encodes.Statement (.vldx x a d) := by
  rintro w ⟨⟩; exact (low_append _ _).trans rfl
theorem Encodes.vstx (p : BitVec 4) (b a : RegField) (x : BitVec 2) : Encodes.Statement (.vstx p b a x) := by
  rintro w ⟨⟩; exact (low_append _ _).trans rfl
theorem Encodes.setx (a : RegField) (x : BitVec 2) : Encodes.Statement (.setx a x) := by
  rintro w ⟨⟩; exact (low_append _ _).trans rfl
theorem Encodes.qpush (a : RegField) (k : BitVec 1) (q : BitVec 2) : Encodes.Statement (.qpush a k q) := by
  rintro w ⟨⟩; exact (low_append _ _).trans rfl
theorem Encodes.qpop (k : BitVec 1) (q : BitVec 2) (d : RegField) : Encodes.Statement (.qpop k q d) := by
  rintro w ⟨⟩; exact (low_append _ _).trans rfl
theorem Encodes.qpeek (k : BitVec 1) (q : BitVec 2) (d : RegField) : Encodes.Statement (.qpeek k q d) := by
  rintro w ⟨⟩; exact (low_append _ _).trans rfl
theorem Encodes.qstat (q : BitVec 2) (d : RegField) : Encodes.Statement (.qstat q d) := by
  rintro w ⟨⟩; exact (low_append _ _).trans rfl
theorem Encodes.npush (p : BitVec 4) (b : RegField) (n : BitVec 3) : Encodes.Statement (.npush p b n) := by
  rintro w ⟨⟩; exact (low_append _ _).trans rfl
theorem Encodes.npop (n : BitVec 3) (d : RegField) : Encodes.Statement (.npop n d) := by
  rintro w ⟨⟩; exact (low_append _ _).trans rfl
theorem Encodes.npeek (n : BitVec 3) (d : RegField) : Encodes.Statement (.npeek n d) := by
  rintro w ⟨⟩; exact (low_append _ _).trans rfl
theorem Encodes.npoll (n : BitVec 3) (k : BitVec 1) (p : BitVec 3) : Encodes.Statement (.npoll n k p) := by
  rintro w ⟨⟩; exact (low_append _ _).trans rfl
theorem Encodes.nsave (n : BitVec 3) (a : RegField) : Encodes.Statement (.nsave n a) := by
  rintro w ⟨⟩; exact (low_append _ _).trans rfl
theorem Encodes.nload (n : BitVec 3) (a : RegField) : Encodes.Statement (.nload n a) := by
  rintro w ⟨⟩; exact (low_append _ _).trans rfl
theorem Encodes.xshuf (a d : RegField) : Encodes.Statement (.xshuf a d) := by
  rintro w ⟨⟩; exact (low_append _ _).trans rfl
theorem Encodes.lds (f : BitVec 1) (w : BitVec 2) (e : BitVec 1) (c h d : RegField) : Encodes.Statement (.lds f w e c h d) := by
  rintro w ⟨⟩; exact (low_append _ _).trans rfl
theorem Encodes.sts (f : BitVec 1) (w : BitVec 2) (c h d : RegField) : Encodes.Statement (.sts f w c h d) := by
  rintro w ⟨⟩; exact (low_append _ _).trans rfl
theorem Encodes.ldc (f : BitVec 1) (c h d : RegField) : Encodes.Statement (.ldc f c h d) := by
  rintro w ⟨⟩; exact (low_append _ _).trans rfl
theorem Encodes.stc (f : BitVec 1) (c h d : RegField) : Encodes.Statement (.stc f c h d) := by
  rintro w ⟨⟩; exact (low_append _ _).trans rfl
theorem Encodes.ldq (f : BitVec 1) (w : BitVec 2) (e : BitVec 1) (c h : RegField) (q : BitVec 2) : Encodes.Statement (.ldq f w e c h q) := by
  rintro w ⟨⟩; exact (low_append _ _).trans rfl
theorem Encodes.stq (f : BitVec 1) (w : BitVec 2) (c h : RegField) (q : BitVec 2) : Encodes.Statement (.stq f w c h q) := by
  rintro w ⟨⟩; exact (low_append _ _).trans rfl
theorem Encodes.pref (f : BitVec 1) (c h : RegField) : Encodes.Statement (.pref f c h) := by
  rintro w ⟨⟩; exact (low_append _ _).trans rfl
theorem Encodes.vld (f : BitVec 1) (w : BitVec 2) (e : BitVec 1) (c h d : RegField) : Encodes.Statement (.vld f w e c h d) := by
  rintro w ⟨⟩; exact (low_append _ _).trans rfl
theorem Encodes.vst (f : BitVec 1) (w : BitVec 2) (c h d : RegField) : Encodes.Statement (.vst f w c h d) := by
  rintro w ⟨⟩; exact (low_append _ _).trans rfl
theorem Encodes.sld (f : BitVec 1) (w : BitVec 2) (e : BitVec 1) (c h d : RegField) : Encodes.Statement (.sld f w e c h d) := by
  rintro w ⟨⟩; exact (low_append _ _).trans rfl
theorem Encodes.sst (f : BitVec 1) (w : BitVec 2) (c h d : RegField) : Encodes.Statement (.sst f w c h d) := by
  rintro w ⟨⟩; exact (low_append _ _).trans rfl
theorem Encodes.gthq (w : BitVec 2) (s : BitVec 1) (c : BitVec 2) (b a : RegField) (i q : BitVec 2) : Encodes.Statement (.gthq w s c b a i q) := by
  rintro w ⟨⟩; exact (low_append _ _).trans rfl
theorem Encodes.sctq (w : BitVec 2) (s : BitVec 1) (c : BitVec 2) (b a : RegField) (i q : BitVec 2) : Encodes.Statement (.sctq w s c b a i q) := by
  rintro w ⟨⟩; exact (low_append _ _).trans rfl
theorem Encodes.vgth (w : BitVec 2) (s : BitVec 1) (c : BitVec 2) (b a d : RegField) : Encodes.Statement (.vgth w s c b a d) := by
  rintro w ⟨⟩; exact (low_append _ _).trans rfl
theorem Encodes.vsct (w : BitVec 2) (s : BitVec 1) (c : BitVec 2) (b a d : RegField) : Encodes.Statement (.vsct w s c b a d) := by
  rintro w ⟨⟩; exact (low_append _ _).trans rfl
theorem Encodes.amo (o : BitVec 4) (w : BitVec 2) (b a d : RegField) : Encodes.Statement (.amo o w b a d) := by
  rintro w ⟨⟩; exact (low_append _ _).trans rfl
theorem Encodes.vamo (o : BitVec 4) (b a d : RegField) : Encodes.Statement (.vamo o b a d) := by
  rintro w ⟨⟩; exact (low_append _ _).trans rfl
theorem Encodes.cas (w : BitVec 2) (b a d : RegField) : Encodes.Statement (.cas w b a d) := by
  rintro w ⟨⟩; exact (low_append _ _).trans rfl
theorem Encodes.vcas (b a d : RegField) : Encodes.Statement (.vcas b a d) := by
  rintro w ⟨⟩; exact (low_append _ _).trans rfl
theorem Encodes.fence (s o : BitVec 3) : Encodes.Statement (.fence s o) := by
  rintro w ⟨⟩; exact (low_append _ _).trans rfl
theorem Encodes.acqp (a : RegField) (s : BitVec 3) : Encodes.Statement (.acqp a s) := by
  rintro w ⟨⟩; exact (low_append _ _).trans rfl
theorem Encodes.bar (d : RegField) : Encodes.Statement (.bar d) := by
  rintro w ⟨⟩; exact (low_append _ _).trans rfl
theorem Encodes.binit (a d : RegField) : Encodes.Statement (.binit a d) := by
  rintro w ⟨⟩; exact (low_append _ _).trans rfl
theorem Encodes.bara (d : RegField) : Encodes.Statement (.bara d) := by
  rintro w ⟨⟩; exact (low_append _ _).trans rfl
theorem Encodes.barw (d : RegField) : Encodes.Statement (.barw d) := by
  rintro w ⟨⟩; exact (low_append _ _).trans rfl
theorem Encodes.waitv (b a d : RegField) : Encodes.Statement (.waitv b a d) := by
  rintro w ⟨⟩; exact (low_append _ _).trans rfl
theorem Encodes.bopen (b a d : RegField) : Encodes.Statement (.bopen b a d) := by
  rintro w ⟨⟩; exact (low_append _ _).trans rfl
theorem Encodes.bjoin (a d : RegField) : Encodes.Statement (.bjoin a d) := by
  rintro w ⟨⟩; exact (low_append _ _).trans rfl
theorem Encodes.bclose (d : RegField) : Encodes.Statement (.bclose d) := by
  rintro w ⟨⟩; exact (low_append _ _).trans rfl
theorem Encodes.babort (a : RegField) : Encodes.Statement (.babort a) := by
  rintro w ⟨⟩; exact (low_append _ _).trans rfl
theorem Encodes.bview (a d : RegField) : Encodes.Statement (.bview a d) := by
  rintro w ⟨⟩; exact (low_append _ _).trans rfl
theorem Encodes.brel (a : RegField) : Encodes.Statement (.brel a) := by
  rintro w ⟨⟩; exact (low_append _ _).trans rfl
theorem Encodes.bstat (a d : RegField) : Encodes.Statement (.bstat a d) := by
  rintro w ⟨⟩; exact (low_append _ _).trans rfl
theorem Encodes.bpin (a d : RegField) : Encodes.Statement (.bpin a d) := by
  rintro w ⟨⟩; exact (low_append _ _).trans rfl
theorem Encodes.layq (b a d : RegField) : Encodes.Statement (.layq b a d) := by
  rintro w ⟨⟩; exact (low_append _ _).trans rfl
theorem Encodes.laypin (b a d : RegField) : Encodes.Statement (.laypin b a d) := by
  rintro w ⟨⟩; exact (low_append _ _).trans rfl
theorem Encodes.layadv (b a d : RegField) : Encodes.Statement (.layadv b a d) := by
  rintro w ⟨⟩; exact (low_append _ _).trans rfl
theorem Encodes.mload (k : BitVec 2) (b a d : RegField) : Encodes.Statement (.mload k b a d) := by
  rintro w ⟨⟩; exact (low_append _ _).trans rfl
theorem Encodes.mmac (e : BitVec 1) (b a d : RegField) : Encodes.Statement (.mmac e b a d) := by
  rintro w ⟨⟩; exact (low_append _ _).trans rfl
theorem Encodes.mread (p : BitVec 2) (a d : RegField) : Encodes.Statement (.mread p a d) := by
  rintro w ⟨⟩; exact (low_append _ _).trans rfl
theorem Encodes.msave (a : RegField) : Encodes.Statement (.msave a) := by
  rintro w ⟨⟩; exact (low_append _ _).trans rfl
theorem Encodes.mrstr (a : RegField) : Encodes.Statement (.mrstr a) := by
  rintro w ⟨⟩; exact (low_append _ _).trans rfl
theorem Encodes.tcopy (l : BitVec 1) (k : BitVec 2) (x : BitVec 1) (a d : RegField) : Encodes.Statement (.tcopy l k x a d) := by
  rintro w ⟨⟩; exact (low_append _ _).trans rfl
theorem Encodes.tcopys (x : BitVec 1) (a d : RegField) : Encodes.Statement (.tcopys x a d) := by
  rintro w ⟨⟩; exact (low_append _ _).trans rfl
theorem Encodes.nmx (o : BitVec 3) (a d : RegField) : Encodes.Statement (.nmx o a d) := by
  rintro w ⟨⟩; exact (low_append _ _).trans rfl
theorem Encodes.scan (c : BitVec 2) (a d : RegField) : Encodes.Statement (.scan c a d) := by
  rintro w ⟨⟩; exact (low_append _ _).trans rfl
theorem Encodes.ckpt (a d : RegField) : Encodes.Statement (.ckpt a d) := by
  rintro w ⟨⟩; exact (low_append _ _).trans rfl
theorem Encodes.cred (o : BitVec 2) (a d : RegField) : Encodes.Statement (.cred o a d) := by
  rintro w ⟨⟩; exact (low_append _ _).trans rfl
theorem Encodes.cbcst (a d : RegField) : Encodes.Statement (.cbcst a d) := by
  rintro w ⟨⟩; exact (low_append _ _).trans rfl
theorem Encodes.objmap (b a d : RegField) : Encodes.Statement (.objmap b a d) := by
  rintro w ⟨⟩; exact (low_append _ _).trans rfl
theorem Encodes.objunmap (b a d : RegField) : Encodes.Statement (.objunmap b a d) := by
  rintro w ⟨⟩; exact (low_append _ _).trans rfl
theorem Encodes.objq (b a d : RegField) : Encodes.Statement (.objq b a d) := by
  rintro w ⟨⟩; exact (low_append _ _).trans rfl
theorem Encodes.mapgen (b a d : RegField) : Encodes.Statement (.mapgen b a d) := by
  rintro w ⟨⟩; exact (low_append _ _).trans rfl
theorem Encodes.inval (b a : RegField) : Encodes.Statement (.inval b a) := by
  rintro w ⟨⟩; exact (low_append _ _).trans rfl
theorem Encodes.rstspl (a : RegField) : Encodes.Statement (.rstspl a) := by
  rintro w ⟨⟩; exact (low_append _ _).trans rfl
theorem Encodes.perf (a d : RegField) : Encodes.Statement (.perf a d) := by
  rintro w ⟨⟩; exact (low_append _ _).trans rfl
theorem Encodes.preempt (a d : RegField) : Encodes.Statement (.preempt a d) := by
  rintro w ⟨⟩; exact (low_append _ _).trans rfl
theorem Encodes.prefixWord (v b : BitVec 1) (c s p o : BitVec 3) : Encodes.Statement (.prefixWord v b c s p o) := by
  rintro w ⟨⟩; exact (low_append _ _).trans rfl
theorem Encodes.vaddN (b : BitVec 5) (d : RegField) : Encodes.Statement (.vaddN b d) := by
  rintro w ⟨⟩; exact (low_append _ _).trans rfl
theorem Encodes.vsubN (b : BitVec 5) (d : RegField) : Encodes.Statement (.vsubN b d) := by
  rintro w ⟨⟩; exact (low_append _ _).trans rfl
theorem Encodes.vmulN (b : BitVec 5) (d : RegField) : Encodes.Statement (.vmulN b d) := by
  rintro w ⟨⟩; exact (low_append _ _).trans rfl
theorem Encodes.vandN (b : BitVec 5) (d : RegField) : Encodes.Statement (.vandN b d) := by
  rintro w ⟨⟩; exact (low_append _ _).trans rfl
theorem Encodes.vorN (b : BitVec 5) (d : RegField) : Encodes.Statement (.vorN b d) := by
  rintro w ⟨⟩; exact (low_append _ _).trans rfl
theorem Encodes.vxorN (b : BitVec 5) (d : RegField) : Encodes.Statement (.vxorN b d) := by
  rintro w ⟨⟩; exact (low_append _ _).trans rfl
theorem Encodes.vshlN (b : BitVec 5) (d : RegField) : Encodes.Statement (.vshlN b d) := by
  rintro w ⟨⟩; exact (low_append _ _).trans rfl
theorem Encodes.vshrN (b : BitVec 5) (d : RegField) : Encodes.Statement (.vshrN b d) := by
  rintro w ⟨⟩; exact (low_append _ _).trans rfl
theorem Encodes.vsarN (b : BitVec 5) (d : RegField) : Encodes.Statement (.vsarN b d) := by
  rintro w ⟨⟩; exact (low_append _ _).trans rfl
theorem Encodes.vminN (b : BitVec 5) (d : RegField) : Encodes.Statement (.vminN b d) := by
  rintro w ⟨⟩; exact (low_append _ _).trans rfl
theorem Encodes.vmaxN (b : BitVec 5) (d : RegField) : Encodes.Statement (.vmaxN b d) := by
  rintro w ⟨⟩; exact (low_append _ _).trans rfl
theorem Encodes.vmovN (b : BitVec 5) (d : RegField) : Encodes.Statement (.vmovN b d) := by
  rintro w ⟨⟩; exact (low_append _ _).trans rfl
theorem Encodes.faddN (b : BitVec 5) (d : RegField) : Encodes.Statement (.faddN b d) := by
  rintro w ⟨⟩; exact (low_append _ _).trans rfl
theorem Encodes.fsubN (b : BitVec 5) (d : RegField) : Encodes.Statement (.fsubN b d) := by
  rintro w ⟨⟩; exact (low_append _ _).trans rfl
theorem Encodes.fmulN (b : BitVec 5) (d : RegField) : Encodes.Statement (.fmulN b d) := by
  rintro w ⟨⟩; exact (low_append _ _).trans rfl
theorem Encodes.fmaxN (b : BitVec 5) (d : RegField) : Encodes.Statement (.fmaxN b d) := by
  rintro w ⟨⟩; exact (low_append _ _).trans rfl
theorem Encodes.ret : Encodes.Statement .ret := by
  rintro w ⟨⟩; decide
theorem Encodes.exit : Encodes.Statement .exit := by
  rintro w ⟨⟩; decide
theorem Encodes.nop : Encodes.Statement .nop := by
  rintro w ⟨⟩; decide
theorem Encodes.rte : Encodes.Statement .rte := by
  rintro w ⟨⟩; decide
theorem Encodes.brk : Encodes.Statement .brk := by
  rintro w ⟨⟩; decide
theorem Encodes.mgang : Encodes.Statement .mgang := by
  rintro w ⟨⟩; decide
theorem Encodes.mswap : Encodes.Statement .mswap := by
  rintro w ⟨⟩; decide
theorem Encodes.mzero : Encodes.Statement .mzero := by
  rintro w ⟨⟩; decide
theorem Encodes.savespl : Encodes.Statement .savespl := by
  rintro w ⟨⟩; decide
theorem Encodes.launchQueueTailWrite (part queue : Nat) (tail : BitVec 32) : Encodes.Statement (.launchQueueTailWrite part queue tail) := by
  rintro w ⟨⟩
theorem Encodes.preqWrite (part core : Nat) (value : DWord) : Encodes.Statement (.preqWrite part core value) := by
  rintro w ⟨⟩
theorem Encodes.csramWrite (part core : Nat) (value : DWord) : Encodes.Statement (.csramWrite part core value) := by
  rintro w ⟨⟩
theorem Encodes.csramSplitChange (core : Nat) : Encodes.Statement (.csramSplitChange core) := by
  rintro w ⟨⟩
theorem Encodes.limitWrite (part : Nat) (second : Bool) (value : DWord) : Encodes.Statement (.limitWrite part second value) := by
  rintro w ⟨⟩
theorem Encodes.ftmoWrite (port : Nat) (value : DWord) : Encodes.Statement (.ftmoWrite port value) := by
  rintro w ⟨⟩
theorem Encodes.registerWrite (reg : RegName) (value : DWord) : Encodes.Statement (.registerWrite reg value) := by
  rintro w ⟨⟩
theorem Encodes.hostWindowAccess (fn : Option Nat) (window offset bytes : Nat) (store : Option DWord) : Encodes.Statement (.hostWindowAccess fn window offset bytes store) := by
  rintro w ⟨⟩
theorem Encodes.attestationReport (mailbox : Nat) (nonce : BitVec 256) : Encodes.Statement (.attestationReport mailbox nonce) := by
  rintro w ⟨⟩
theorem Encodes.powerLimitSet (watts : Nat) : Encodes.Statement (.powerLimitSet watts) := by
  rintro w ⟨⟩
theorem Encodes.thermalShutdown : Encodes.Statement .thermalShutdown := by
  rintro w ⟨⟩
theorem Encodes.powerGood : Encodes.Statement .powerGood := by
  rintro w ⟨⟩
theorem Encodes.startStageReached (stage : Nat) (error : BitVec 8) (components : List Component) : Encodes.Statement (.startStageReached stage error components) := by
  rintro w ⟨⟩
theorem Encodes.vfReset (fn : Nat) : Encodes.Statement (.vfReset fn) := by
  rintro w ⟨⟩
theorem Encodes.crewDispatch (part : Nat) : Encodes.Statement (.crewDispatch part) := by
  rintro w ⟨⟩
theorem Encodes.weaveEnd (weave : WeaveId) : Encodes.Statement (.weaveEnd weave) := by
  rintro w ⟨⟩
theorem Encodes.crewHalted (crew : Nat) : Encodes.Statement (.crewHalted crew) := by
  rintro w ⟨⟩
theorem Encodes.splitWindowSwap (weave : WeaveId) : Encodes.Statement (.splitWindowSwap weave) := by
  rintro w ⟨⟩
theorem Encodes.fragmentPark (weave : WeaveId) (entry : Nat) : Encodes.Statement (.fragmentPark weave entry) := by
  rintro w ⟨⟩
theorem Encodes.waitWake (weave : WeaveId) (strand : Strand) : Encodes.Statement (.waitWake weave strand) := by
  rintro w ⟨⟩
theorem Encodes.waitWatchdog (weave : WeaveId) (strand : Strand) : Encodes.Statement (.waitWatchdog weave strand) := by
  rintro w ⟨⟩
theorem Encodes.portWatch (weave : WeaveId) (entry : Nat) : Encodes.Statement (.portWatch weave entry) := by
  rintro w ⟨⟩
theorem Encodes.portEntryLand (weave : WeaveId) (port : Port) : Encodes.Statement (.portEntryLand weave port) := by
  rintro w ⟨⟩
theorem Encodes.queueEntryComplete (flight : Nat) : Encodes.Statement (.queueEntryComplete flight) := by
  rintro w ⟨⟩
theorem Encodes.loadDataReturn (flight : Nat) : Encodes.Statement (.loadDataReturn flight) := by
  rintro w ⟨⟩
theorem Encodes.dataFailure (flight : Nat) (poisoned : Bool) (lanes : LaneMask) : Encodes.Statement (.dataFailure flight poisoned lanes) := by
  rintro w ⟨⟩
theorem Encodes.farPortTimeout (port : Nat) : Encodes.Statement (.farPortTimeout port) := by
  rintro w ⟨⟩
theorem Encodes.cxlLinkDown (port : Nat) : Encodes.Statement (.cxlLinkDown port) := by
  rintro w ⟨⟩
theorem Encodes.extentGrant (port first count : Nat) : Encodes.Statement (.extentGrant port first count) := by
  rintro w ⟨⟩
theorem Encodes.extentReleaseRequest (port first count : Nat) : Encodes.Statement (.extentReleaseRequest port first count) := by
  rintro w ⟨⟩
theorem Encodes.extentForcedRemoval (port first count : Nat) : Encodes.Statement (.extentForcedRemoval port first count) := by
  rintro w ⟨⟩
theorem Encodes.backInvalidateSnoop (half : Nat) : Encodes.Statement (.backInvalidateSnoop half) := by
  rintro w ⟨⟩
theorem Encodes.homeReadRequest (holder : Holder) (line : Nat) : Encodes.Statement (.homeReadRequest holder line) := by
  rintro w ⟨⟩
theorem Encodes.homeOwnershipRequest (holder : Holder) (line : Nat) : Encodes.Statement (.homeOwnershipRequest holder line) := by
  rintro w ⟨⟩
theorem Encodes.sliceFillArrival (line : Nat) : Encodes.Statement (.sliceFillArrival line) := by
  rintro w ⟨⟩
theorem Encodes.retryReissue (weave : WeaveId) (strand : Strand) : Encodes.Statement (.retryReissue weave strand) := by
  rintro w ⟨⟩
theorem Encodes.remapReply (core die : Nat) (line : Nat) : Encodes.Statement (.remapReply core die line) := by
  rintro w ⟨⟩
theorem Encodes.writeBackMerge (holder : Holder) (line : Nat) : Encodes.Statement (.writeBackMerge holder line) := by
  rintro w ⟨⟩
theorem Encodes.lCopyIdleExpiry (cluster line : Nat) : Encodes.Statement (.lCopyIdleExpiry cluster line) := by
  rintro w ⟨⟩
theorem Encodes.lCopyRetryRecall (line : Nat) : Encodes.Statement (.lCopyRetryRecall line) := by
  rintro w ⟨⟩
theorem Encodes.staleLineWalk (holder : Holder) : Encodes.Statement (.staleLineWalk holder) := by
  rintro w ⟨⟩
theorem Encodes.bankWake (holder : Holder) : Encodes.Statement (.bankWake holder) := by
  rintro w ⟨⟩
theorem Encodes.monitorWindowEnd : Encodes.Statement .monitorWindowEnd := by
  rintro w ⟨⟩
theorem Encodes.sectionCopy (region : RegionId) : Encodes.Statement (.sectionCopy region) := by
  rintro w ⟨⟩
theorem Encodes.busySectionRelease (region : RegionId) : Encodes.Statement (.busySectionRelease region) := by
  rintro w ⟨⟩
theorem Encodes.translationWalk (core part object frame : Nat) : Encodes.Statement (.translationWalk core part object frame) := by
  rintro w ⟨⟩
theorem Encodes.bundleMemberReport (part handle : Nat) : Encodes.Statement (.bundleMemberReport part handle) := by
  rintro w ⟨⟩
theorem Encodes.bundleFlip (part handle object line : Nat) : Encodes.Statement (.bundleFlip part handle object line) := by
  rintro w ⟨⟩
theorem Encodes.coordinatorQuery (part handle object line : Nat) : Encodes.Statement (.coordinatorQuery part handle object line) := by
  rintro w ⟨⟩
theorem Encodes.engineGranule (thread granule : Nat) : Encodes.Statement (.engineGranule thread granule) := by
  rintro w ⟨⟩
theorem Encodes.engineArrival (thread : Nat) : Encodes.Statement (.engineArrival thread) := by
  rintro w ⟨⟩
theorem Encodes.collectiveMatchTimeout (thread : Nat) : Encodes.Statement (.collectiveMatchTimeout thread) := by
  rintro w ⟨⟩
theorem Encodes.memberWithdrawn (part : Nat) : Encodes.Statement (.memberWithdrawn part) := by
  rintro w ⟨⟩
theorem Encodes.gangLatchClose (crew : Nat) : Encodes.Statement (.gangLatchClose crew) := by
  rintro w ⟨⟩
theorem Encodes.gangLatchTimeout (crew : Nat) : Encodes.Statement (.gangLatchTimeout crew) := by
  rintro w ⟨⟩
theorem Encodes.arrayQueuePerform (core array : Nat) : Encodes.Statement (.arrayQueuePerform core array) := by
  rintro w ⟨⟩
theorem Encodes.matrixArrival (core array : Nat) : Encodes.Statement (.matrixArrival core array) := by
  rintro w ⟨⟩
theorem Encodes.acqpDrain (flight : Nat) : Encodes.Statement (.acqpDrain flight) := by
  rintro w ⟨⟩
theorem Encodes.correctableError (part die : Nat) : Encodes.Statement (.correctableError part die) := by
  rintro w ⟨⟩
theorem Encodes.correctableThreshold (part : Nat) : Encodes.Statement (.correctableThreshold part) := by
  rintro w ⟨⟩
theorem Encodes.uncorrectableError (part address bytes : Nat) : Encodes.Statement (.uncorrectableError part address bytes) := by
  rintro w ⟨⟩
theorem Encodes.launchAbort (launch : Nat) : Encodes.Statement (.launchAbort launch) := by
  rintro w ⟨⟩
theorem Encodes.cxlLinkUp (port : Nat) : Encodes.Statement (.cxlLinkUp port) := by
  rintro w ⟨⟩
theorem Encodes.retentionSleepEntry (holder : Holder) : Encodes.Statement (.retentionSleepEntry holder) := by
  rintro w ⟨⟩
theorem Encodes.extentReleaseAck (port first count : Nat) : Encodes.Statement (.extentReleaseAck port first count) := by
  rintro w ⟨⟩
theorem Encodes.powerThrottle (idle clockStep : Nat) : Encodes.Statement (.powerThrottle idle clockStep) := by
  rintro w ⟨⟩
theorem Encodes.launchCopyArrival (part queue : Nat) (record : List Byte) : Encodes.Statement (.launchCopyArrival part queue record) := by
  rintro w ⟨⟩
theorem Encodes.pcieConfigRequest (request : Nat) : Encodes.Statement (.pcieConfigRequest request) := by
  rintro w ⟨⟩
theorem Encodes.columnSubstitution (core array column : Nat) : Encodes.Statement (.columnSubstitution core array column) := by
  rintro w ⟨⟩

end Sys2Proof.Laws
end

