-- ==== Sys2Proof/Tests/Slice0.lean ====
section
/-! SUPPORT. Tests of the model on words and states written out from spec/, and for each statement a state and operands that
meet its hypotheses. -/

namespace Sys2Proof.Tests

set_option Elab.async false

open Sys2Proof.Machine

/-! ### Small states -/

/-- A weave of a crew of one on core 0 with 64 lane registers, changed by f. -/
def weave (f : Weave → Weave) : Weave := f (newWeave (fetchLaunch .a 2) (fetchCrew 1 2) 0 0 0 0x100000000)

/-- That weave acting on a strand, its crew with 4,096 bytes of scratchpad and four barrier slots. -/
def acting (st : Strand) (f : Weave → Weave) : State := { State.reset with
  cur := ⟨⟨0, 0⟩, st, 0x40, 4, none, .now⟩, weaves := [weave f], launches := [fetchLaunch .a 2], nextId := 3
  crews := [{ fetchCrew 1 2 with spadBytes := 4096, bars := 4 }] }

/-- Supervisor mode in both streams. -/
def sup (w : Weave) : Weave := { w with aMode := .supervisor, cMode := .supervisor }

/-- Scalar registers of the A-stream, and uniform registers. -/
def rega (l : List (Nat × DWord)) (w : Weave) : Weave := l.foldl (fun v x => v.setScal .a x.1 x.2) w
def regc (l : List (Nat × DWord)) (w : Weave) : Weave := l.foldl (fun v x => v.setScal (.c 0) x.1 x.2) w

/-- A member passes its checks in a state, and its access is performed as it issues. -/
def ready (s : State) (i : Instr) (w : Weave) : Bool := (s.decodeFault i w).isNone && decide (s.cur.moment = .now)

theorem ready_spec {s : State} {i : Instr} {w : Weave} (hw : s.weave? s.cur.weave = some w) (h : ready s i w = true) : s.Ready i w := by
  rw [ready, Bool.and_eq_true, Option.isNone_iff_eq_none, decide_eq_true_iff] at h
  exact ⟨hw, h⟩

/-- The issuing weave passes its checks on a member, in a state where p holds: the witness of a statement's hypotheses. -/
def Meets (s : State) (i : Instr) (p : State → Weave → Bool) : Prop := ∃ w, s.Ready i w ∧ p s w = true

theorem meets {s : State} {i : Instr} {p : State → Weave → Bool}
    (h : (s.weave? s.cur.weave).any (fun w => ready s i w && p s w) = true) : Meets s i p := by
  obtain ⟨w, hw, hp⟩ := (Option.any_eq_true ..).mp h
  rw [Bool.and_eq_true] at hp
  exact ⟨w, ready_spec hw hp.1, hp.2⟩

/-- Several such witnesses, one for each clause of a statement. -/
def MeetAll (l : List (State × Instr × (State → Weave → Bool))) : Prop := ∀ x ∈ l, Meets x.1 x.2.1 x.2.2

theorem meetAll {l : List (State × Instr × (State → Weave → Bool))}
    (h : l.all (fun x => (x.1.weave? x.1.cur.weave).any fun w => ready x.1 x.2.1 w && x.2.2 x.1 w) = true) :
    MeetAll l := fun x hx => meets (List.all_eq_true.mp h x hx)

/-- The members of a list pass their checks in a state. -/
def Pass (s : State) (is : List Instr) : Prop := ∀ i ∈ is, ∃ w, s.Ready i w

theorem pass {s : State} {is : List Instr}
    (h : is.all (fun i => (s.weave? s.cur.weave).any fun w => ready s i w) = true) : Pass s is := fun i hi => by
  obtain ⟨w, hw, hp⟩ := (Option.any_eq_true ..).mp (List.all_eq_true.mp h i hi)
  exact ⟨w, ready_spec hw hp⟩

/-! ### Every member passes its checks in a small state (R105): the witnesses of `State.Ready` -/

theorem test_pass_both_a : Pass (acting .a id) [.add 4 6 8, .sub 4 6 8, .mul 4 6 8, .mulh 4 6 8, .divu 4 6 8, .remu 4 6 8, .and
    4 6 8, .or 4 6 8, .xor 4 6 8, .shl 4 6 8, .shr 4 6 8, .sar 4 6 8, .slt 4 6 8, .sltu 4 6 8, .min 4 6 8, .max 4 6 8, .addi 0 4
    6, .andi 0 4 6, .ori 0 4 6, .xori 0 4 6, .shli 0 4 6, .shri 0 4 6, .sari 0 4 6, .slti 0 4 6, .clz 4 6, .popc 4 6, .sel 4 6
    8, .mfc 4 6, .mtc 4 6, .clock 1 6, .pgq 4 6, .movi 0 4, .movk 0 0 4, .bra 0, .call 0, .bcc 0 0 4 6, .jmpr 4 6, .yield 0 4,
    .wait 4, .trap 0, .qpush 4 0 0, .qpop 0 0 4, .qpeek 0 0 4, .qstat 0 4, .amo 8 1 4 6 8, .cas 1 4 6 8, .fence 6 4, .acqp 4 6,
    .bar 4, .binit 4 6, .bara 4, .barw 4, .waitv 4 6 8, .bopen 4 6 8, .bjoin 4 6, .bclose 4, .babort 4, .bview 4 6, .brel 4,
    .bstat 4 6, .bpin 4 6, .layq 4 6 8, .laypin 4 6 8, .layadv 4 6 8, .mload 0 4 6 8, .prefixWord 0 0 0 1 0 0, .ret, .exit,
    .nop, .brk] :=
  pass (by decide +kernel)

theorem test_pass_both_c : Pass (acting (.c 0) id) [.add 4 6 8, .sub 4 6 8, .mul 4 6 8, .mulh 4 6 8, .divu 4 6 8, .remu 4 6 8,
    .and 4 6 8, .or 4 6 8, .xor 4 6 8, .shl 4 6 8, .shr 4 6 8, .sar 4 6 8, .slt 4 6 8, .sltu 4 6 8, .min 4 6 8, .max 4 6 8,
    .addi 0 4 6, .andi 0 4 6, .ori 0 4 6, .xori 0 4 6, .shli 0 4 6, .shri 0 4 6, .sari 0 4 6, .slti 0 4 6, .clz 4 6, .popc 4 6,
    .sel 4 6 8, .mfc 4 6, .mtc 4 6, .clock 1 6, .pgq 4 6, .movi 0 4, .movk 0 0 4, .bra 0, .call 0, .bcc 0 0 4 6, .jmpr 4 6,
    .yield 0 4, .wait 4, .trap 0, .qpush 4 0 0, .qpop 0 0 4, .qpeek 0 0 4, .qstat 0 4, .amo 8 1 4 6 8, .cas 1 4 6 8, .fence 6 4,
    .acqp 4 6, .bar 4, .binit 4 6, .bara 4, .barw 4, .waitv 4 6 8, .bopen 4 6 8, .bjoin 4 6, .bclose 4, .babort 4, .bview 4 6,
    .brel 4, .bstat 4 6, .bpin 4 6, .layq 4 6 8, .laypin 4 6 8, .layadv 4 6 8, .mload 0 4 6 8, .prefixWord 0 0 0 1 0 0, .ret,
    .exit, .nop, .brk] :=
  pass (by decide +kernel)

theorem test_pass_a : Pass (acting .a id) [.launch 4 6 8, .lds 0 0 0 4 6 8, .sts 0 0 4 6 8, .ldc 0 4 6 8, .stc 0 4 6 8, .ldq 0 0
    0 4 6 0, .stq 0 0 4 6 0, .pref 0 4 6, .gthq 2 1 3 4 6 3 3, .sctq 2 1 3 4 6 0 3, .tcopy 0 0 0 4 6, .tcopys 0 4 6, .nmx 4 4 6,
    .scan 2 4 6, .ckpt 4 6, .cred 2 4 6, .cbcst 4 6] :=
  pass (by decide +kernel)

theorem test_pass_c1 : Pass (acting (.c 0) id) [.brv 0 1 0, .join 0, .vote 3 7 6, .vadd 14 4 6 8, .vsub 14 4 6 8, .vmul 14 4 6
    8, .vmulh 14 4 6 8, .vmulhu 14 4 6 8, .vmad 14 4 6 8, .vand 14 4 6 8, .vor 14 4 6 8, .vxor 14 4 6 8, .vshl 14 4 6 8, .vshr
    14 4 6 8, .vsar 14 4 6 8, .vmin 14 4 6 8, .vmax 14 4 6 8, .vadds 14 4 6 8, .vsubs 14 4 6 8, .vaddI16 14 4 6 8, .vsubI16 14 4
    6 8, .vmulI16 14 4 6 8, .vmulhI16 14 4 6 8, .vmulhuI16 14 4 6 8, .vmadI16 14 4 6 8, .vandI16 14 4 6 8, .vorI16 14 4 6 8,
    .vxorI16 14 4 6 8, .vshlI16 14 4 6 8, .vshrI16 14 4 6 8, .vsarI16 14 4 6 8, .vminI16 14 4 6 8, .vmaxI16 14 4 6 8, .vaddsI16
    14 4 6 8, .vsubsI16 14 4 6 8, .vaddI8 14 4 6 8, .vsubI8 14 4 6 8, .vmulI8 14 4 6 8, .vmulhI8 14 4 6 8, .vmulhuI8 14 4 6 8,
    .vmadI8 14 4 6 8, .vandI8 14 4 6 8, .vorI8 14 4 6 8, .vxorI8 14 4 6 8, .vshlI8 14 4 6 8, .vshrI8 14 4 6 8, .vsarI8 14 4 6 8,
    .vminI8 14 4 6 8, .vmaxI8 14 4 6 8, .vaddsI8 14 4 6 8, .vsubsI8 14 4 6 8, .vcmp 14 4 6 0 0, .vsel 14 4 0 6, .vabs 14 4 6] :=
  pass (by decide +kernel)

theorem test_pass_c2 : Pass (acting (.c 0) id) [.vclz 14 4 6, .vpopc 14 4 6, .vdot4 14 4 6 8, .vmov 14 4 6, .vext 14 4 1 0 3 6,
    .vins 14 4 1 1 6, .vbcst 4 6, .vminu 14 4 6 8, .vmaxu 14 4 6 8, .fadd 14 4 6 8, .fsub 14 4 6 8, .fmul 14 4 6 8, .fma 14 4 6
    8, .fnma 14 4 6 8, .fmin 14 4 6 8, .fmax 14 4 6 8, .fcmp 14 4 6 0 0, .fabs 14 4 6, .fneg 14 4 6, .fsign 14 4 6 8, .fscale 14
    4 6 8, .frnd 14 4 5 6, .fclass 14 4 6, .faddF16 14 4 6 8, .fsubF16 14 4 6 8, .fmulF16 14 4 6 8, .fmaF16 14 4 6 8, .fminF16
    14 4 6 8, .fmaxF16 14 4 6 8, .fcmpF16 14 4 6 0 0, .fdot2F16 14 4 6 8, .faddBf16 14 4 6 8, .fsubBf16 14 4 6 8, .fmulBf16 14 4
    6 8, .fmaBf16 14 4 6 8, .fminBf16 14 4 6 8, .fmaxBf16 14 4 6 8, .fcmpBf16 14 4 6 0 0, .fdot2Bf16 14 4 6 8, .frcp 14 4 6,
    .frsq 14 4 6, .fsqrt 14 4 6, .fdiv 14 4 6 8, .fexp2 14 4 6, .flog2 14 4 6, .fsin 14 4 6, .fcos 14 4 6, .ftanh 14 4 6, .fcvt
    0 3 3 4 6, .qblk 0 4 6 8, .dqblk 0 4 6 8, .zipW2 62 0, .zipW3 61 0, .zipW4 60 0] :=
  pass (by decide +kernel)

theorem test_pass_c3 : Pass (acting (.c 0) id) [.unzipW2 0 62, .unzipW3 0 61, .unzipW4 0 60, .vperm 14 4 6 8, .vred 1 2 4 6,
    .vscan 0 7 4 6, .vcmpr 0 4 6, .vaddi 0 4 6, .vandi 0 4 6, .vori 0 4 6, .vxori 0 4 6, .vshli 0 4 6, .vshri 0 4 6, .vsari 0 4
    6, .vmovi 0 4, .vcmpi 0 4 0 0, .vldx 0 4 6, .vstx 14 4 6 0, .setx 4 0, .npush 14 4 4, .npop 4 4, .npeek 0 4, .npoll 0 0 0,
    .xshuf 4 6, .vld 0 0 0 4 6 8, .vst 0 0 4 6 8, .sld 0 0 0 4 6 8, .sst 0 0 4 6 8, .vgth 0 1 0 4 6 8, .vsct 0 1 0 4 6 8, .vamo
    9 4 6 8, .vcas 4 6 8, .mmac 0 4 6 8, .mread 2 4 6, .vaddN 0 4, .vsubN 0 4, .vmulN 0 4, .vandN 0 4, .vorN 0 4, .vxorN 0 4,
    .vshlN 0 4, .vshrN 0 4, .vsarN 0 4, .vminN 0 4, .vmaxN 0 4, .vmovN 0 4, .faddN 0 4, .fsubN 0 4, .fmulN 0 4, .fmaxN 0 4,
    .mgang, .mswap, .mzero] :=
  pass (by decide +kernel)

theorem test_pass_supervisor_a : Pass (acting .a sup) [.objmap 4 6 8, .objunmap 4 6 8, .objq 4 6 8, .mapgen 4 6 8, .inval 4 6,
    .rstspl 4, .perf 4 6, .preempt 4 6, .rte, .savespl] :=
  pass (by decide +kernel)

theorem test_pass_supervisor_c : Pass (acting (.c 0) sup) [.objmap 4 6 8, .objunmap 4 6 8, .objq 4 6 8, .mapgen 4 6 8, .inval 4
    6, .rstspl 4, .perf 4 6, .preempt 4 6, .rte, .savespl, .nsave 0 4, .nload 0 4, .msave 4, .mrstr 4] :=
  pass (by decide +kernel)

/-! ### Decoding: one word of each member, its match bits and its fields at the places spec/opcode_table.json gives them -/

/-- Each word decodes to its instruction. -/
def Decodes (l : List (BitVec 32 × Instr)) : Prop := ∀ p ∈ l, (InstrWord.long p.1).decode = .instr p.2

theorem test_words_major1 : Decodes [(0x006B3D83, .add 26 51 54), (0x106B3D83, .sub 26 51 54), (0x206B3D83, .mul 26 51 54),
    (0x306B3D83, .mulh 26 51 54), (0x406B3D83, .divu 26 51 54), (0x506B3D83, .remu 26 51 54), (0x606B3D83, .and 26 51 54),
    (0x706B3D83, .or 26 51 54), (0x806B3D83, .xor 26 51 54), (0x906B3D83, .shl 26 51 54), (0xA06B3D83, .shr 26 51 54),
    (0xB06B3D83, .sar 26 51 54), (0xC06B3D83, .slt 26 51 54), (0xD06B3D83, .sltu 26 51 54), (0xE06B3D83, .min 26 51 54),
    (0xF06B3D83, .max 26 51 54)] :=
  by unfold Decodes; decide +kernel

theorem test_words_major2 : Decodes [(0x0669ACC5, .addi 410 26 51), (0x1669ACC5, .andi 410 26 51),
    (0x2669ACC5, .ori 410 26 51), (0x3669ACC5, .xori 410 26 51), (0x4669ACC5, .shli 410 26 51), (0x5669ACC5, .shri 410 26 51),
    (0x6669ACC5, .sari 410 26 51), (0x7669ACC5, .slti 410 26 51)] :=
  by unfold Decodes; decide +kernel

theorem test_words_major3 : Decodes [(0x0001ACC7, .clz 26 51), (0x1001ACC7, .popc 26 51), (0x206B3D87, .sel 26 51 54),
    (0x3001ACC7, .mfc 26 51), (0x4001ACC7, .mtc 26 51), (0x5001ACC7, .clock 26 51), (0x6001ACC7, .pgq 26 51)] :=
  by unfold Decodes; decide +kernel

theorem test_words_major4 : Decodes [(0x64D9A689, .movi 413082 26)] :=
  by unfold Decodes; decide +kernel

theorem test_words_major5 : Decodes [(0x24D9A68B, .movk 2 19866 26)] :=
  by unfold Decodes; decide +kernel

theorem test_words_major6 : Decodes [(0x4D93668D, .bra 20336026)] :=
  by unfold Decodes; decide +kernel

theorem test_words_major7 : Decodes [(0x4D93668F, .call 20336026)] :=
  by unfold Decodes; decide +kernel

theorem test_words_major8 : Decodes [(0xB349ACD1, .bcc 1434 2 26 51)] :=
  by unfold Decodes; decide +kernel

theorem test_words_major9 : Decodes [(0x00000013, .ret), (0x1001ACD3, .jmpr 26 51), (0x20000013, .exit), (0x30000013, .nop),
    (0x40D9A693, .yield 3482 26), (0x50000693, .wait 26), (0x60D9A013, .trap 3482), (0x70000013, .rte), (0x80000013, .brk),
    (0x90366893, .brv 3482 0 2), (0xA0936693, .join 150938), (0xB0083693, .vote 2 3 26), (0xC06B3D93, .launch 26 51 54)] :=
  by unfold Decodes; decide +kernel

theorem test_words_major10 : Decodes [(0x0A6B3D95, .vadd 10 26 51 54), (0x1A6B3D95, .vsub 10 26 51 54),
    (0x2A6B3D95, .vmul 10 26 51 54), (0x3A6B3D95, .vmulh 10 26 51 54), (0x4A6B3D95, .vmulhu 10 26 51 54),
    (0x5A6B3D95, .vmad 10 26 51 54), (0x6A6B3D95, .vand 10 26 51 54), (0x7A6B3D95, .vor 10 26 51 54),
    (0x8A6B3D95, .vxor 10 26 51 54), (0x9A6B3D95, .vshl 10 26 51 54), (0xAA6B3D95, .vshr 10 26 51 54),
    (0xBA6B3D95, .vsar 10 26 51 54), (0xCA6B3D95, .vmin 10 26 51 54), (0xDA6B3D95, .vmax 10 26 51 54),
    (0xEA6B3D95, .vadds 10 26 51 54), (0xFA6B3D95, .vsubs 10 26 51 54)] :=
  by unfold Decodes; decide +kernel

theorem test_words_major11 : Decodes [(0x0A6B3D97, .vaddI16 10 26 51 54), (0x1A6B3D97, .vsubI16 10 26 51 54),
    (0x2A6B3D97, .vmulI16 10 26 51 54), (0x3A6B3D97, .vmulhI16 10 26 51 54), (0x4A6B3D97, .vmulhuI16 10 26 51 54),
    (0x5A6B3D97, .vmadI16 10 26 51 54), (0x6A6B3D97, .vandI16 10 26 51 54), (0x7A6B3D97, .vorI16 10 26 51 54),
    (0x8A6B3D97, .vxorI16 10 26 51 54), (0x9A6B3D97, .vshlI16 10 26 51 54), (0xAA6B3D97, .vshrI16 10 26 51 54),
    (0xBA6B3D97, .vsarI16 10 26 51 54), (0xCA6B3D97, .vminI16 10 26 51 54), (0xDA6B3D97, .vmaxI16 10 26 51 54),
    (0xEA6B3D97, .vaddsI16 10 26 51 54), (0xFA6B3D97, .vsubsI16 10 26 51 54)] :=
  by unfold Decodes; decide +kernel

theorem test_words_major12 : Decodes [(0x0A6B3D99, .vaddI8 10 26 51 54), (0x1A6B3D99, .vsubI8 10 26 51 54),
    (0x2A6B3D99, .vmulI8 10 26 51 54), (0x3A6B3D99, .vmulhI8 10 26 51 54), (0x4A6B3D99, .vmulhuI8 10 26 51 54),
    (0x5A6B3D99, .vmadI8 10 26 51 54), (0x6A6B3D99, .vandI8 10 26 51 54), (0x7A6B3D99, .vorI8 10 26 51 54),
    (0x8A6B3D99, .vxorI8 10 26 51 54), (0x9A6B3D99, .vshlI8 10 26 51 54), (0xAA6B3D99, .vshrI8 10 26 51 54),
    (0xBA6B3D99, .vsarI8 10 26 51 54), (0xCA6B3D99, .vminI8 10 26 51 54), (0xDA6B3D99, .vmaxI8 10 26 51 54),
    (0xEA6B3D99, .vaddsI8 10 26 51 54), (0xFA6B3D99, .vsubsI8 10 26 51 54)] :=
  by unfold Decodes; decide +kernel

theorem test_words_major13 : Decodes [(0x0A6B34DB, .vcmp 10 26 51 2 3), (0x1A682CDB, .vsel 10 26 2 51),
    (0x2A680CDB, .vabs 10 26 51), (0x3A680CDB, .vclz 10 26 51), (0x4A680CDB, .vpopc 10 26 51),
    (0x5A6B3D9B, .vdot4 10 26 51 54), (0x6A680CDB, .vmov 10 26 51), (0x7A686CDB, .vext 10 26 0 1 2 51),
    (0x8A682CDB, .vins 10 26 0 2 51), (0x9001ACDB, .vbcst 26 51), (0xAA6B3D9B, .vminu 10 26 51 54),
    (0xBA6B3D9B, .vmaxu 10 26 51 54)] :=
  by unfold Decodes; decide +kernel

theorem test_words_major14 : Decodes [(0x0A6B3D9D, .fadd 10 26 51 54), (0x1A6B3D9D, .fsub 10 26 51 54),
    (0x2A6B3D9D, .fmul 10 26 51 54), (0x3A6B3D9D, .fma 10 26 51 54), (0x4A6B3D9D, .fnma 10 26 51 54),
    (0x5A6B3D9D, .fmin 10 26 51 54), (0x6A6B3D9D, .fmax 10 26 51 54), (0x7A6B34DD, .fcmp 10 26 51 2 3),
    (0x8A680CDD, .fabs 10 26 51), (0x9A680CDD, .fneg 10 26 51), (0xAA6B3D9D, .fsign 10 26 51 54),
    (0xBA6B3D9D, .fscale 10 26 51 54), (0xCA682CDD, .frnd 10 26 2 51), (0xDA680CDD, .fclass 10 26 51)] :=
  by unfold Decodes; decide +kernel

theorem test_words_major15 : Decodes [(0x0A6B3D9F, .faddF16 10 26 51 54), (0x1A6B3D9F, .fsubF16 10 26 51 54),
    (0x2A6B3D9F, .fmulF16 10 26 51 54), (0x3A6B3D9F, .fmaF16 10 26 51 54), (0x4A6B3D9F, .fminF16 10 26 51 54),
    (0x5A6B3D9F, .fmaxF16 10 26 51 54), (0x6A6B34DF, .fcmpF16 10 26 51 2 3), (0x7A6B3D9F, .fdot2F16 10 26 51 54),
    (0x8A6B3D9F, .faddBf16 10 26 51 54), (0x9A6B3D9F, .fsubBf16 10 26 51 54), (0xAA6B3D9F, .fmulBf16 10 26 51 54),
    (0xBA6B3D9F, .fmaBf16 10 26 51 54), (0xCA6B3D9F, .fminBf16 10 26 51 54), (0xDA6B3D9F, .fmaxBf16 10 26 51 54),
    (0xEA6B34DF, .fcmpBf16 10 26 51 2 3), (0xFA6B3D9F, .fdot2Bf16 10 26 51 54)] :=
  by unfold Decodes; decide +kernel

theorem test_words_major16 : Decodes [(0x0A680CE1, .frcp 10 26 51), (0x1A680CE1, .frsq 10 26 51),
    (0x2A680CE1, .fsqrt 10 26 51), (0x3A6B3DA1, .fdiv 10 26 51 54), (0x4A680CE1, .fexp2 10 26 51),
    (0x5A680CE1, .flog2 10 26 51), (0x6A680CE1, .fsin 10 26 51), (0x7A680CE1, .fcos 10 26 51), (0x8A680CE1, .ftanh 10 26 51)]
    :=
  by unfold Decodes; decide +kernel

theorem test_words_major17 : Decodes [(0x1319ACE3, .fcvt 2 3 6 26 51), (0x606B3DA3, .qblk 2 26 51 54),
    (0xA06B3DA3, .dqblk 2 26 51 54)] :=
  by unfold Decodes; decide +kernel

theorem test_words_major18 : Decodes [(0x0001ACE5, .zipW2 26 51), (0x1001ACE5, .zipW3 26 51), (0x2001ACE5, .zipW4 26 51),
    (0x3001ACE5, .unzipW2 26 51), (0x4001ACE5, .unzipW3 26 51), (0x5001ACE5, .unzipW4 26 51),
    (0x6A6B3DA5, .vperm 10 26 51 54), (0x7049ACE5, .vred 2 2 26 51), (0x8049ACE5, .vscan 2 2 26 51),
    (0x9009ACE5, .vcmpr 2 26 51)] :=
  by unfold Decodes; decide +kernel

theorem test_words_major19 : Decodes [(0x0669ACE7, .vaddi 410 26 51), (0x1669ACE7, .vandi 410 26 51),
    (0x2669ACE7, .vori 410 26 51), (0x3669ACE7, .vxori 410 26 51), (0x4669ACE7, .vshli 410 26 51),
    (0x5669ACE7, .vshri 410 26 51), (0x6669ACE7, .vsari 410 26 51), (0x766806A7, .vmovi 410 26),
    (0x8669A4E7, .vcmpi 410 26 2 3)] :=
  by unfold Decodes; decide +kernel

theorem test_words_major20 : Decodes [(0x0009ACE9, .vldx 2 26 51), (0x1A6B30A9, .vstx 10 26 51 2), (0x2001A0A9, .setx 26 2),
    (0x3001A0A9, .qpush 26 0 2), (0x400026A9, .qpop 0 2 26), (0x500026A9, .qpeek 0 2 26), (0x600026A9, .qstat 2 26)] :=
  by unfold Decodes; decide +kernel

theorem test_words_major21 : Decodes [(0x0A6800AB, .npush 10 26 2), (0x100026AB, .npop 2 26), (0x200026AB, .npeek 2 26),
    (0x300020EB, .npoll 2 0 3), (0x4009A02B, .nsave 2 26), (0x5009A02B, .nload 2 26), (0x6001ACEB, .xshuf 26 51)] :=
  by unfold Decodes; decide +kernel

theorem test_words_major22 : Decodes [(0x056B3DAD, .lds 0 2 1 26 51 54), (0x146B3DAD, .sts 0 2 26 51 54),
    (0x266B3DAD, .ldc 0 26 51 54), (0x366B3DAD, .stc 0 26 51 54), (0x456B30ED, .ldq 0 2 1 26 51 3),
    (0x546B30ED, .stq 0 2 26 51 3), (0x606B302D, .pref 0 26 51)] :=
  by unfold Decodes; decide +kernel

theorem test_words_major23 : Decodes [(0x056B3DAF, .vld 0 2 1 26 51 54), (0x146B3DAF, .vst 0 2 26 51 54),
    (0x256B3DAF, .sld 0 2 1 26 51 54), (0x346B3DAF, .sst 0 2 26 51 54)] :=
  by unfold Decodes; decide +kernel

theorem test_words_major24 : Decodes [(0x266B32B1, .gthq 2 0 3 26 51 2 2), (0x666B32B1, .sctq 2 0 3 26 51 2 2),
    (0xA66B3DB1, .vgth 2 0 3 26 51 54), (0xE66B3DB1, .vsct 2 0 3 26 51 54)] :=
  by unfold Decodes; decide +kernel

theorem test_words_major25 : Decodes [(0x2A6B3DB3, .amo 10 2 26 51 54), (0x686B3DB3, .vamo 10 26 51 54),
    (0x826B3DB3, .cas 2 26 51 54), (0xC06B3DB3, .vcas 26 51 54)] :=
  by unfold Decodes; decide +kernel

theorem test_words_major26 : Decodes [(0x000004F5, .fence 2 3), (0x1001A435, .acqp 26 2), (0x200006B5, .bar 26),
    (0x3001ACF5, .binit 26 51), (0x400006B5, .bara 26), (0x500006B5, .barw 26), (0x606B3DB5, .waitv 26 51 54)] :=
  by unfold Decodes; decide +kernel

theorem test_words_major27 : Decodes [(0x006B3DB7, .bopen 26 51 54), (0x1001ACF7, .bjoin 26 51), (0x200006B7, .bclose 26),
    (0x3001A037, .babort 26), (0x4001ACF7, .bview 26 51), (0x5001A037, .brel 26), (0x6001ACF7, .bstat 26 51),
    (0x7001ACF7, .bpin 26 51), (0x806B3DB7, .layq 26 51 54), (0x906B3DB7, .laypin 26 51 54), (0xA06B3DB7, .layadv 26 51 54)]
    :=
  by unfold Decodes; decide +kernel

theorem test_words_major28 : Decodes [(0x00000039, .mgang), (0x286B3DB9, .mload 2 26 51 54), (0x40000039, .mswap),
    (0x606B3DB9, .mmac 0 26 51 54), (0x9001ACF9, .mread 2 26 51), (0xA0000039, .mzero), (0xC001A039, .msave 26),
    (0xE001A039, .mrstr 26)] :=
  by unfold Decodes; decide +kernel

theorem test_words_major29 : Decodes [(0x0A01ACFB, .tcopy 0 2 1 26 51), (0x2001ACFB, .tcopys 0 26 51),
    (0x4801ACFB, .nmx 2 26 51), (0x7001ACFB, .scan 2 26 51), (0x8001ACFB, .ckpt 26 51), (0xB001ACFB, .cred 2 26 51),
    (0xC001ACFB, .cbcst 26 51)] :=
  by unfold Decodes; decide +kernel

theorem test_words_major30 : Decodes [(0x006B3DBD, .objmap 26 51 54), (0x106B3DBD, .objunmap 26 51 54),
    (0x206B3DBD, .objq 26 51 54), (0x306B3DBD, .mapgen 26 51 54), (0x406B303D, .inval 26 51), (0x5000003D, .savespl),
    (0x6001A03D, .rstspl 26), (0x7001ACFD, .perf 26 51), (0x8001ACFD, .preempt 26 51)] :=
  by unfold Decodes; decide +kernel

theorem test_words_major31 : Decodes [(0x00053DBF, .prefixWord 0 1 2 3 6 6)] :=
  by unfold Decodes; decide +kernel

theorem test_words_short : ∀ p ∈ [((0xD340 : BitVec 16), Instr.vaddN 26 26), (0xD342, .vsubN 26 26), (0xD344, .vmulN 26 26),
    (0xD346, .vandN 26 26), (0xD348, .vorN 26 26), (0xD34A, .vxorN 26 26), (0xD34C, .vshlN 26 26), (0xD34E, .vshrN 26 26),
    (0xD350, .vsarN 26 26), (0xD352, .vminN 26 26), (0xD354, .vmaxN 26 26), (0xD356, .vmovN 26 26), (0xD358, .faddN 26 26),
    (0xD35A, .fsubN 26 26), (0xD35C, .fmulN 26 26), (0xD35E, .fmaxN 26 26)], (InstrWord.short p.1).decode = .instr p.2 :=
  by decide +kernel

/-! ### Words that are refused -/

/-- An ill-formed term for each check of well-formedness (R58, R93, R95, R101, R104, R105), refused in the stream named. -/
theorem test_ill_formed : (∀ i ∈ ([.add 32 1 2, .add 1 32 2, .add 1 2 32, .clock 2 3, .bcc 0 6 1 4, .vote 4 0 3, .vadd 15 1 2 3, .vaddI16 15 1 2 3,
    .vaddI8 15 1 2 3, .vcmp 15 1 2 0 0, .vsel 15 1 0 2, .vabs 15 1 2, .vdot4 15 1 2 3, .vext 0 1 0 1 2 3, .vins 0 1 1 3 2,
    .fadd 15 1 2 3, .fcmp 15 1 2 0 0, .fneg 15 1 2, .frnd 0 1 6 2, .faddF16 15 1 2 3, .fcmpF16 0 1 2 0 1, .fcmpBf16 0 1 2 0 3,
    .frcp 15 1 2, .fdiv 15 1 2 3, .fcvt 3 3 0 1 2, .fcvt 0 3 4 1 2, .qblk 3 1 2 3, .qblk 0 1 2 1, .dqblk 3 1 2 3, .zipW2 63 0,
    .zipW3 0 62, .zipW4 61 0, .unzipW2 0 63, .unzipW3 62 0, .unzipW4 0 61, .vperm 15 1 2 3, .vred 2 0 1 2, .vscan 1 3 1 2,
    .vstx 15 1 2 0, .npush 15 1 0, .npush 0 1 5, .npop 5 1, .npeek 6 1, .npoll 7 0 0, .nsave 5 1, .nload 5 1, .vld 0 3 0 1 2 3,
    .vst 0 3 1 2 3, .sld 0 3 1 1 2 3, .vamo 10 1 2 3, .cas 2 1 2 3, .cas 0 1 2 31, .vcas 1 2 63, .mread 3 1 2, .mload 0 31 2 3,
    .sld 1 2 0 31 2 3, .prefixWord 0 0 0 0 0 5, .prefixWord 0 0 0 0 7 0, .prefixWord 0 0 0 4 0 0,
    .prefixWord 0 0 4 0 0 0] : List Instr), i.wellFormed .c = false) ∧
  (∀ i ∈ ([.qpush 1 1 0, .qpop 1 0 2, .qpeek 1 3 2, .lds 0 3 1 1 2 3, .ldq 0 3 0 1 2 0, .stq 0 3 1 2 0, .sctq 2 0 0 1 2 3 3,
    .amo 10 0 1 2 3, .amo 9 1 1 2 3, .amo 0 2 1 2 3, .cas 0 1 2 63, .ldc 0 1 2 63, .stc 1 63 2 1, .fence 7 1, .fence 0 0, .fence 0 5,
    .acqp 1 1, .acqp 1 7, .nmx 5 1 2, .scan 3 1 2, .cred 3 1 2] : List Instr), i.wellFormed .a = false) ∧
  (∀ i ∈ ([.vadd 0 1 2 3, .brv 0 0 0, .vaddN 0 1, .mzero, .launchAbort 0] : List Instr), i.streams.allows .a = false) ∧
  ∀ i ∈ ([.lds 0 0 0 1 2 3, .launch 1 2 3, .tcopy 0 0 0 1 2, .vfReset 0] : List Instr), i.streams.allows .c = false := by
  decide +kernel

/-- Codes that a prefix or MDEF may not give a class (R96 to R98, R239). -/
theorem test_ill_prefixed : ∀ p ∈ ([(.lds 0 2 0 1 2 3, ⟨.rel, .wv, .obj, .ca, false, false⟩), (.sts 0 2 1 2 3, ⟨.acq, .wv, .obj, .ca, false, false⟩),
    (.pref 0 1 2, ⟨.acq, .wv, .obj, .ca, false, false⟩), (.pref 0 1 2, ⟨.rlx, .wv, .spd, .ca, false, false⟩),
    (.pref 0 1 2, ⟨.rlx, .wv, .obj, .nt, false, false⟩), (.npush 0 1 0, ⟨.acq, .wv, .obj, .ca, false, false⟩),
    (.npop 0 1, ⟨.rel, .wv, .obj, .ca, false, false⟩), (.npop 0 1, ⟨.acq, .wv, .far, .ca, false, false⟩),
    (.npop 0 1, ⟨.acq, .wv, .obj, .cg, false, false⟩), (.tcopys 0 1 2, ⟨.acq, .wv, .obj, .ca, false, false⟩),
    (.tcopys 0 1 2, ⟨.rlx, .wv, .hst, .ca, false, false⟩), (.lds 0 2 0 1 2 3, ⟨.rlx, .wv, .obj, .ca, true, false⟩),
    (.sts 0 2 1 2 3, ⟨.rlx, .wv, .obj, .ca, false, true⟩), (.lds 0 2 0 1 0 3, ⟨.rlx, .wv, .spd, .cg, false, false⟩),
    (.lds 1 2 0 1 0 3, ⟨.rlx, .wv, .spd, .ca, false, false⟩), (.lds 0 2 0 1 2 3, ⟨.rlx, .wv, .spd, .ca, false, false⟩),
    (.add 1 2 3, ⟨.rlx, .wv, .obj, .ca, false, false⟩)] : List (Instr × Attrs)), p.1.acceptsPrefix p.2 = false := by
  decide +kernel

theorem test_ill_mdef : (Instr.lds 0 2 0 1 2 3).mdefAttrs 0x40 = none ∧ (Instr.pref 0 1 2).mdefAttrs 0x40 = none ∧
    (Instr.lds 1 2 0 1 2 3).mdefAttrs 0xC0 = none ∧ waitvAttrs (.waitv 1 2 3) 0x40 = none := by decide +kernel

/-- A member whose must-be-zero bits are not zero is no instruction (R105), nor is a word of no member (R92). -/
theorem test_refused_words : (InstrWord.long 0x01000003).decode = .reserved (.add 0 0 0) ∧
    (InstrWord.long 0x00100009).decode = .instr (.movi 0x100 0) ∧ (InstrWord.long 0x0004000B).decode = .instr (.movk 0 0x40 0) ∧
    (InstrWord.long 0x0400000B).decode = .instr (.movk 0 0x4000 0) ∧ (InstrWord.long 0x00000001).decode = .unassigned ∧
    (InstrWord.long 0x80000005).decode = .unassigned ∧ (InstrWord.long 0x0080003F).decode = .reserved (.prefixWord 0 0 0 0 0 0) ∧
    decodeBytes [0x03] = .error .truncated ∧ decodeBytes [0x01, 0, 0, 0] = .error .unassigned ∧
    decodeBytes [0x03, 0, 0, 0x01] = .error .reservedBits := by decide +kernel

/-- Words that the spec writes out (02, 05, 07, 10, 13 and 17, and the reference). -/
theorem test_words_of_the_spec : Decodes [(0x0000A743, .add 0 10 29), (0x0004C305, .addi 1 12 12), (0xFFFFF749, .movi 0xFFFFF 29),
    (0x20185107, .sel 6 5 4), (0x50000187, .clock 0 6), (0x60005187, .pgq 5 6), (0x90005053, .brv 20 0 1), (0x90FFEA93, .brv 0x3FFA 1 2), (0x60100013, .trap 0x100),
    (0x6030102D, .pref 0 12 1), (0x30014069, .qpush 20 0 1), (0x40004047, .mtc 4 1)] := by unfold Decodes; decide +kernel

/-! ### What meets the hypotheses of each statement -/

theorem test_meets_scalar_members : MeetAll [
    (acting .a (rega [(6, 1)]), .sel 4 5 6, fun s w => (w.scal s.cur.strand 6).toNat ≠ 0), (acting .a id, .sel 4 5 0, fun s w => w.scal s.cur.strand 0 = 0),
    (acting .a id, .movk 3 0x8001 9, fun _ _ => true), (acting (.c 0) id, .clock 1 31, fun _ _ => true),
    (acting .a (rega [(4, 11)]), .pgq 4 6, fun s w => (s.crew? w.crew).any fun c => (s.launches.find? (·.id = c.launch)).isSome && (w.scal .a 4).toNat = 11),
    (acting .a (rega [(4, 12)]), .pgq 4 6, fun s w => (s.crew? w.crew).any fun c => (s.launches.find? (·.id = c.launch)).any fun l => (l.neighbours[0]?).isSome && (w.scal .a 4).toNat = 12),
    (acting .a (rega [(4, 17)]), .pgq 4 6, fun s w => (s.crew? w.crew).any fun c => (s.launches.find? (·.id = c.launch)).any fun l => (l.neighbours[5]?).isSome && (w.scal .a 4).toNat = 17),
    (acting .a (rega [(4, 18)]), .pgq 4 6, fun s w => (s.crew? w.crew).any fun c => (s.launches.find? (·.id = c.launch)).isSome && (w.scal .a 4).toNat = 18)] :=
  meetAll (by decide +kernel)

/-- RegisterWrites: register numbers at the ends of their ranges, each in its mode, and a register of lanes that exists. -/
theorem test_meets_register_writes : (weave id).aMode = .user ∧ (weave id).cMode = .user ∧ (weave sup).aMode = .supervisor ∧
    (weave sup).cMode = .supervisor ∧ 63 < (weave id).vRegs.length + 0 ∧ ¬ 64 < (weave id).vRegs.length := by decide +kernel

theorem test_meets_control_registers : MeetAll [
    (acting .a id, .mfc 0 4, fun _ _ => true), (acting (.c 0) id, .mfc 19 4, fun _ _ => true), (acting (.c 0) sup, .mfc 13 4, fun s w => w.mode s.cur.strand = .supervisor),
    (acting .a id, .mfc 20 4, fun _ _ => true), (acting .a id, .mfc 8 4, fun s w => w.mode s.cur.strand = .user), (acting .a sup, .mtc 4 20, fun _ _ => true),
    (acting (.c 0) id, .mtc 4 14, fun s w => w.mode s.cur.strand = .user), (acting .a id, .mtc 4 12, fun _ _ => true), (acting (.c 0) id, .mtc 4 9, fun _ _ => true),
    (acting (.c 0) (regc [(4, 65)]), .mtc 4 6, fun s w => ctrlAccepts w 6 (w.scal s.cur.strand 4) = false),
    (acting (.c 0) (regc [(4, 64)]), .mtc 4 6, fun s w => ctrlAccepts w 6 (w.scal s.cur.strand 4)),
    (acting .a id, .mtc 0 1, fun _ _ => true)] := meetAll (by decide +kernel)

theorem test_meets_jumps : MeetAll [
    (acting .a id, .bra 0x3FFFFFF, fun _ _ => true), (acting (.c 0) id, .call 2, fun _ _ => true), (acting (.c 0) id, .nop, fun _ _ => true),
    (acting .a (rega [(9, 0x101)]), .jmpr 9 63, fun _ w => (w.scal .a 9).toNat % 2 = 1),
    (acting .a (rega [(9, 0x100000000)]), .jmpr 9 0, fun _ w => (w.scal .a 9).toNat % 2 = 0 && decide (2 ^ 32 ≤ (w.scal .a 9).toNat)),
    (acting .a (rega [(9, 0xFFFFFFFE)]), .jmpr 9 0, fun _ w => (w.scal .a 9).toNat % 2 = 0 && decide ((w.scal .a 9).toNat < 2 ^ 32)),
    (acting (.c 0) (regc [(28, 3)]), .ret, fun _ w => (w.scal (.c 0) 28).toNat % 2 = 1),
    (acting .a (rega [(63, 0x100000000)]), .ret, fun _ w => (w.scal .a 63).toNat % 2 = 0 && decide (2 ^ 32 ≤ (w.scal .a 63).toNat)),
    (acting .a (rega [(63, 0x44)]), .ret, fun _ w => (w.scal .a 63).toNat = 0x44)] := meetAll (by decide +kernel)

theorem test_meets_conditional_branch : MeetAll [
    (acting .a id, .bcc 6 0 4 6, fun _ w => w.scal .a 4 = w.scal .a 6), (acting .a id, .bcc 6 1 4 6, fun _ w => w.scal .a 4 = w.scal .a 6),
    (acting (.c 0) (regc [(6, -1)]), .bcc 6 2 4 6, fun _ w => (w.scal (.c 0) 6).toInt < (w.scal (.c 0) 4).toInt),
    (acting (.c 0) (regc [(6, -1)]), .bcc 6 5 4 6, fun _ w => (w.scal (.c 0) 4).toNat ≤ (w.scal (.c 0) 6).toNat),
    (acting (.c 0) id, .bcc 6 6 0 7, fun _ w => (w.act (.c 0)).getLsbD 95 && (w.pred 7).getLsbD 95),
    (acting (.c 0) (fun w => w.setEntry 0 { w.entry 0 with mask := 0 }), .bcc 6 7 0 3, fun _ w => w.act (.c 0) = 0)] := meetAll (by decide +kernel)

/-- A full split table: every entry but the fragment's expects lanes. -/
def full (w : Weave) : Weave := { w with split := w.split.map fun x => if x.kind = .free then { x with kind := .join } else x }

theorem test_meets_divergence : MeetAll [
    (acting (.c 0) (fun w => w.setPred 1 (BitVec.allOnes 96) (BitVec.allOnes 96)), .brv 1 0 1, fun _ w => (w.entry 0).mask = w.pred 1),
    (acting (.c 0) id, .brv 1 0 1, fun _ w => (w.entry 0).mask &&& w.pred 1 = 0),
    (acting (.c 0) (fun w => full (w.setPred 1 (BitVec.allOnes 96) 1)), .brv 1 1 1, fun _ w => (w.entry 0).mask &&& w.pred 1 = 1 && (List.range 128).all fun k => (w.entry k).kind ≠ .free),
    (acting (.c 0) (fun w => w.setPred 1 (BitVec.allOnes 96) 1), .brv 1 1 1, fun _ w => (w.entry 0).mask &&& w.pred 1 = 1 && (w.entry 1).kind = .free && (w.entry 0).kind ≠ .free),
    (acting (.c 0) full, .join 5, fun _ w => (List.range 128).all fun k => (w.entry k).kind ≠ .free),
    (acting (.c 0) id, .join 5, fun _ w => (w.entry 1).kind = .free && (w.entry 0).kind ≠ .free)] := meetAll (by decide +kernel)

/-- A fragment linked to the join of entry 1. -/
def linked (w : Weave) : Weave :=
  (w.setEntry 0 { w.entry 0 with mask := 3, link := some 1 }).setEntry 1 ⟨.join, 0x80, BitVec.allOnes 96, 0, none, none, false⟩

theorem test_meets_votes_exits_waits : MeetAll [
    (acting (.c 0) id, .vote 0 7 4, fun _ w => (w.pred 7 &&& w.act (.c 0)) ≠ 0), (acting (.c 0) id, .vote 1 3 4, fun _ w => w.pred 3 = 0),
    (acting (.c 0) id, .vote 2 7 4, fun _ _ => true), (acting (.c 0) id, .vote 3 3 4, fun _ _ => true), (acting .a sup, .exit, fun s w => w.mode s.cur.strand = .supervisor),
    (acting .a id, .exit, fun s w => w.mode s.cur.strand = .user), (acting (.c 0) id, .exit, fun _ w => (w.entry 0).link = none),
    (acting (.c 0) linked, .exit, fun _ w => (w.entry 0).link = some 1 && (w.entry 1).link = none),
    ((acting .a (rega [(4, 32)])).sramWrite 0 32 1 0, .wait 4, fun s w => s.issued.spadInside (s.issued.agentOf w .a) 32 32 && !((s.issued.sramByte 0 ((s.issued.agentOf w .a).spad 32)).getLsbD 0)),
    ((acting .a (rega [(4, 0x100000FE0)])).sramWrite 0 0xFE0 1 0, .wait 4, fun s w => s.issued.spadInside (s.issued.agentOf w .a) 0xFE0 32 && !((s.issued.sramByte 0 ((s.issued.agentOf w .a).spad 0xFE0)).getLsbD 0)),
    ((acting (.c 0) (regc [(4, 32)])).sramWrite 0 32 1 0, .yield 6 4, fun s w => s.issued.spadInside (s.issued.agentOf w (.c 0)) 32 32 && !((s.issued.sramByte 0 32).getLsbD 0)),
    ((acting (.c 0) (regc [(4, 0x100000020)])).sramWrite 0 32 1 0, .yield 6 4, fun s w => s.issued.spadInside (s.issued.agentOf w (.c 0)) 32 32 && !((s.issued.sramByte 0 32).getLsbD 0)),
    (acting .a (rega [(4, 0x1000)]), .wait 4, fun s w => !s.issued.spadInside (s.issued.agentOf w .a) 0x1000 32),
    (acting .a (rega [(4, 16)]), .wait 4, fun s w => s.issued.spadInside (s.issued.agentOf w .a) 16 32),
    (acting .a (rega [(4, 16)]), .yield 3 4, fun s w => s.issued.spadInside (s.issued.agentOf w .a) 16 32)] := meetAll (by decide +kernel)

/-- Patterns: a lane, and a fragment of a resident weave; shifts of the pattern that a uniform register names. -/
theorem test_meets_patterns : ((acting (.c 0) id).weave? ⟨0, 0⟩).isSome = true ∧ ((weave (regc [(1, 95)])).scal (.c 0) 1).toNat % 128 = 95 ∧
    ((weave (regc [(1, 96)])).scal (.c 0) 1).toNat % 128 = 96 := by decide +kernel

theorem test_meets_lane_members : MeetAll [(acting (.c 0) id, .vcmp 14 4 5 7 6, fun _ _ => true),
    (acting (.c 0) id, .vext 0 4 0 0 3 6, fun _ _ => true), (acting (.c 0) id, .vext 0 4 1 1 1 6, fun _ _ => true), (acting (.c 0) id, .vins 0 4 0 3 6, fun _ _ => true),
    (acting (.c 0) id, .vshli 0x3FF 4 6, fun _ _ => true), (acting (.c 0) id, .vcmpi 0x200 4 7 7, fun _ _ => true),
    (acting (.c 0) id, .vadd 0 31 4 4, fun _ _ => true), (acting (.c 0) id, .vaddN 31 4, fun _ _ => true)] := meetAll (by decide +kernel)

theorem test_meets_rearrangements : MeetAll [
    (acting (.c 0) id, .zipW4 60 0, fun _ w => w.vRegs.length = 64), (acting (.c 0) id, .unzipW3 0 61, fun _ _ => true),
    (acting (.c 0) (fun w => w.setPred 1 (BitVec.allOnes 96) 5), .vcmpr 1 4 6, fun _ w => (w.act (.c 0) &&& w.pred 1) = 5)] := meetAll (by decide +kernel)

/-- One rounds to itself: the witness of FloatRounding, RoundToIntegral, Conversions and BlockQuantisation. -/
theorem test_meets_rounding : (⟨1, 0, false⟩ : Exact).StandsFor 1 ∧ Int.log 2 (1 : ℝ) = 0 ∧
    RoundsTo .rne false 0 ((1 : ℝ) / 2 ^ (-23 : Int)) (2 ^ 23) ∧ RoundsTo .rne true 0 ((1 : ℝ) / 2) 0 ∧
    RoundsTo .stochastic false 32768 ((1 : ℝ) / 2) 1 := by
  refine ⟨⟨by decide, ?_, ?_, ?_, by simp⟩, by simp, ⟨?_, ?_⟩, ⟨?_, ?_⟩, ?_⟩ <;> norm_num
  show 1 = ⌊((1 : ℝ) / 2 + (32768 : Nat) / 65536)⌋₊
  norm_num

/-- Values of each class, as the formats read them (FloatFormats, FloatArithmetic, Conversions, RoundToIntegral). -/
theorem test_meets_float_values : (∀ f ∈ [fp32, fp16, bf16, e4m3, e5m2], 127 < 2 ^ f.width) ∧
    fp32.read (fpMode 0) 0x3F000000 = .fin false (2 ^ 23) (-24) ∧ fp32.read (fpMode 0) 0x7FC00000 = .nan ∧
    fp16.read (fpMode 0) 0xFC00 = .inf true ∧ fp32.read (fpMode 0) 0xCF000000 = .fin true (2 ^ 23) 8 := by decide +kernel

theorem test_meets_float_sums : [Fp.fin false 1 0, .fin true 1 0].map Fp.value = [(1 : ℚ), -1].map some ∧ [(1 : ℚ), -1].sum = 0 ∧
    (Fp.fin true 0 0).value = some 0 ∧ (Fp.fin false 0 0).value = some 0 ∧ (Fp.fin true 0 0).sign = true := by
  refine ⟨?_, ?_, ?_, ?_, rfl⟩ <;> simp [Fp.value]

/-- BlockQuantisation: 32 ones. -/
theorem test_meets_blocks : (List.replicate 32 (Fp.fin false 1 0)).map Fp.value = (List.replicate 32 (1 : ℚ)).map some ∧
    (1 : ℚ) ∈ List.replicate 32 1 ∧ (∀ v ∈ List.replicate 32 (1 : ℚ), |v| ≤ |1|) ∧
    RoundsTo .rne false 0 (|((1 : ℚ) : ℝ)| * 2 ^ ((7 : Int) - 1 - (127 - 127 - 0))) 64 := by
  refine ⟨?_, by simp, by simp, ⟨?_, ?_⟩⟩ <;> norm_num [Fp.value]

theorem test_meets_float_members : MeetAll [(acting (.c 0) id, .frnd 0 4 0 6, fun _ w => fp32.read (fpMode w.fpctl) (w.pat (.c 0) 0 4 0).toNat = .fin false 0 (-149)),
    (acting (.c 0) (fun w => { w with fpctl := 4 }), .frnd 12 4 5 6, fun _ w => (fpMode w.fpctl).round = .stochastic),
    (acting (.c 0) id, .fcmp 0 4 6 7 6, fun _ _ => true), (acting (.c 0) id, .fcmpF16 0 4 6 7 4, fun _ _ => true), (acting (.c 0) id, .fdot2Bf16 13 63 63 63, fun _ _ => true),
    (acting (.c 0) id, .fcvt 0 7 7 4 6, fun _ _ => true), (acting (.c 0) id, .fcvt 7 0 7 4 6, fun _ _ => true), (acting (.c 0) id, .qblk 2 62 4 63, fun _ w => 63 < w.vRegs.length),
    (acting (.c 0) id, .dqblk 2 4 6 6, fun _ _ => true), (acting (.c 0) (fun w => w.setEntry 0 { w.entry 0 with mask := 0 }), .vred 1 2 4 6, fun _ w => w.act (.c 0) = 0),
    (acting (.c 0) id, .vscan 0 7 4 6, fun _ _ => true), (acting (.c 0) (fun w => { w with fpctl := 4 }), .vscan 1 0 4 4, fun _ _ => true)] :=
  meetAll (by decide +kernel)

/-! A queue of the weave, the ports of its launch, and an access of scratchpad. -/

def queue (q depth : Nat) (l : List QEntry) (w : Weave) : Weave := w.onQueue q fun _ => ⟨depth, l, 0⟩
def entry (data : QData) (complete : Bool) : QEntry := ⟨1, data, complete, none, []⟩

/-- The weave and its launch have the five ports, the FIFO of each port with the same entries in every lane. -/
def ported (f : Port → List Word) (st : Strand) (g : Weave → Weave) : State :=
  let s := acting st fun w => g { w with ports := [Port.w, .e, .n, .s, .d].map fun p => (p, ⟨.replicate 96 (f p)⟩) }
  { s with launches := s.launches.map fun l => { l with record := { l.record with ports := [Port.w, .e, .n, .s, .d] } } }

/-- Every core has four units of scratchpad. -/
def split (s : State) : State := { s with coreStates := s.coreStates.map fun c => { c with active := 4 } }

/-- The access of a state made in a space with an order. -/
def via (o : Order) (sp : Space) (s : State) : State := { s with cur := { s.cur with attrs := some ⟨o, .di, sp, .ca, false, false⟩ } }

theorem test_meets_queues : MeetAll [
    (acting .a id, .qpush 4 0 2, fun _ _ => true), (acting (.c 0) id, .qpush 4 0 1, fun _ _ => true), (acting .a (queue 0 0 []), .qpush 4 0 0, fun _ w => (w.queue 0).depth ≤ (w.queue 0).entries.length),
    (acting (.c 0) (queue 3 1 []), .qpush 4 1 3, fun _ w => (w.queue 3).entries.length < (w.queue 3).depth), (acting .a id, .qpop 0 1 4, fun _ _ => true),
    (acting .a (queue 2 1 [entry (.scalar 5) false]), .qpeek 0 2 4, fun _ w => (w.queue 2).entries.head?.all fun e => !e.complete),
    (acting .a id, .qpop 0 2 4, fun _ w => (w.queue 2).entries.head? = none),
    (acting .a (queue 2 1 [entry (.scalar 5) true]), .qpop 0 2 4, fun _ w => (w.queue 2).entries.head?.any fun e => e.complete && e.data = .scalar 5),
    (acting .a (queue 3 1 [entry (.vector LaneReg.zero) true]), .qpeek 0 3 4, fun _ w => (w.queue 3).entries.head?.any fun e => e.complete && e.data = .vector LaneReg.zero),
    (acting (.c 0) (queue 0 1 [entry (.vector LaneReg.zero) true]), .qpop 0 0 4, fun _ w => (w.queue 0).entries.head?.any fun e => e.complete && e.data = .vector LaneReg.zero),
    (acting (.c 0) (queue 1 1 [entry (.scalar 5) true]), .qpop 0 1 4, fun _ w => (w.queue 1).entries.head?.any fun e => e.complete && e.data = .scalar 5),
    (acting (.c 0) (queue 1 1 [entry (.scalar 5) true]), .qpop 1 1 4, fun _ w => (w.queue 1).entries.head?.any fun e => e.complete && e.data = .scalar 5),
    (acting (.c 0) (queue 1 1 [entry (.scalar 5) true]), .qstat 1 4, fun _ _ => true)] := meetAll (by decide +kernel)

/-- XSHUF with a weave of core 4 that waits for this one: both resident, each the other's partner. -/
def shuffling : State :=
  let s := acting (.c 0) fun w => { w with pair := ⟨true, 0, 4⟩ }
  let y := weave fun w => { w with id := ⟨4, 0⟩, crew := 9, pair := ⟨true, 0, 0⟩ }
  { s with weaves := s.weaves ++ [y.setEntry 0 { y.entry 0 with kind := .waiting, wait := some ⟨.shuffle 5 3 LaneReg.zero ⟨true, 0, 0⟩, 0, 0x40, 0⟩ }]
           pcbs := s.pcbs.map fun p => { p with granted := BitVec.allOnes 384 } }

theorem test_meets_ports : MeetAll [
    (acting (.c 0) id, .npush 0 4 0, fun s w => (s.issued.partner w .w).any fun x => !x.record.ports.contains .e),
    (ported (fun _ => List.replicate 8 5) (.c 0) id, .npush 0 4 0, fun s w => (s.issued.partner w .w).any fun x => x.record.ports.contains .e && !s.issued.portRoom x .e 95),
    (ported (fun _ => List.replicate 7 5) (.c 0) id, .npush 14 4 1, fun s w => (s.issued.partner w .e).any fun x => x.record.ports.contains .w && (List.range 96).all (fun l => s.issued.portRoom x .w l) && s.issued.whereabouts x ≠ .ended && w.act (.c 0) ≠ 0),
    (ported (fun _ => []) (.c 0) (fun w => w.setEntry 0 { w.entry 0 with mask := 0 }), .npush 0 4 1, fun s w => (s.issued.partner w .e).any fun x => x.record.ports.contains .w && s.issued.whereabouts x ≠ .ended && w.act (.c 0) = 0),
    (ported (fun _ => []) (.c 0) id, .npop 0 4, fun s w => (w.port? .w).any (fun f => f.lanes[95] = []) && (s.issued.partner w .w).isSome && (w.act (.c 0)).getLsbD 95),
    (ported (fun _ => [7, 8]) (.c 0) id, .npop 1 4, fun s w => (w.port? .e).any (fun f => f.lanes.all fun l => l ≠ []) && (s.issued.partner w .e).isSome),
    (ported (fun _ => [7, 8]) (.c 0) id, .npeek 1 4, fun s w => (w.port? .e).any (fun f => f.lanes.all fun l => l ≠ []) && (s.issued.partner w .e).isSome),
    (ported (fun _ => [7, 8]) (.c 0) id, .npoll 0 0 6, fun s w => (w.port? .w).isSome && (s.issued.partner w .w).isSome),
    (ported (fun _ => [7, 8]) (.c 0) id, .npoll 1 1 7, fun s w => (w.port? .e).isSome && (s.issued.partner w .e).any fun x => x.record.ports.contains .w),
    (split (ported (fun _ => List.replicate 8 7) (.c 0) fun w => regc [(4, 128)] (sup w)), .nsave 4 4, fun s w => (w.port? .d).isSome && s.issued.spadInside (s.issued.agentOf w (.c 0)) 128 3200 && s.transits = [])] := meetAll (by decide +kernel)

theorem test_meets_shuffles : MeetAll [
    (acting (.c 0) id, .xshuf 4 6, fun _ w => !w.pair.valid), (acting (.c 0) (fun w => { w with pair := ⟨true, 0, 4⟩ }), .xshuf 4 6, fun s w => !s.grantedCore w.partition 4 && s.hasCore 4),
    ({ shuffling with weaves := shuffling.weaves.take 1 }, .xshuf 4 6, fun s w => s.grantedCore w.partition 4 && (s.weave? ⟨4, 0⟩).isNone),
    (shuffling.onWeave ⟨4, 0⟩ fun o => o.setEntry 0 { o.entry 0 with wait := none }, .xshuf 4 6, fun s w => s.grantedCore w.partition 4 && (s.weave? ⟨4, 0⟩).any fun o => s.waitsOpen o && o.split.toList.all fun e => e.wait = none),
    (shuffling.onWeave ⟨4, 0⟩ fun o => { o with halted := true }, .xshuf 4 6, fun s w => s.grantedCore w.partition 4 && (s.weave? ⟨4, 0⟩).any fun o => !s.waitsOpen o),
    (shuffling, .xshuf 4 6, fun s w => s.grantedCore w.partition 4 && (s.weave? ⟨4, 0⟩).any fun o => s.waitsOpen o && (o.entry 0).wait = some ⟨.shuffle 5 3 LaneReg.zero ⟨true, 0, 0⟩, 0, 0x40, 0⟩)] :=
  meetAll (by decide +kernel)

/-- The bytes that a run of a core's scratchpad is given. -/
def filled (at' : Nat) (bs : List Byte) (s : State) : State := { s with spad := (s.sramStore 0 at' bs).spad }

theorem filled_bytes {s : State} (h : s.MemOk) {at' : Nat} {bs : List Byte} (ha : at' + bs.length ≤ 0x80000) :
    (filled at' bs s).issued.sramBytes 0 at' bs.length = bs := by
  have e : (filled at' bs s).issued.sramBytes 0 at' bs.length = (filled at' bs s).sramBytes 0 at' bs.length := rfl
  rw [e, filled, ← sramStore_spad 0 at' bs ha, sramBytes_sramStore h 0 at' bs (by omega)]

/-- NLOAD: the first 3,200 bytes of the scratchpad are the image of a FIFO. -/
theorem test_meets_port_images : Meets (filled 0 PortFifo.empty.image (split (ported (fun _ => []) (.c 0) sup))) (.nload 4 4)
      (fun s w => (w.port? .d).isSome && s.issued.spadInside (s.issued.agentOf w (.c 0)) 0 3200) ∧
    (filled 0 PortFifo.empty.image (split (ported (fun _ => []) (.c 0) sup))).issued.sramBytes 0 0 PortFifo.empty.image.length =
      PortFifo.empty.image ∧ PortFifo.empty.image.length = 3200 := by
  have h : PortFifo.empty.image.length = 3200 := by
    have hw : ∀ x, (leBytes 4 x).length = 4 := fun x => rfl
    simp only [PortFifo.image, List.length_append, List.length_flatMap, hw, laneList, List.length_map, List.length_range, List.length_replicate]
    decide +kernel
  exact ⟨meets (by decide +kernel), filled_bytes ⟨rfl, rfl, rfl, rfl⟩ (by omega), h⟩

/-! Accesses. -/

def isOk {ε α : Type} : Except ε α → Bool
  | .ok _ => true
  | .error _ => false

theorem test_meets_access_checks :
    let s := acting .a id
    let g : Agent := ⟨0, 0, 0, 0, 4096, false⟩
    let q : Req := ⟨.spd, 0, 4, .read, [(0, false, 0), (1, false, 2), (95, false, 6)], some 3, none, default⟩
    (∀ l ∈ q.lanes, l.1 < 96) ∧ s.checkLane g q none false 4092 = none ∧ s.checkLane g q none false 2 = some (4, .align) ∧
      s.checkLane g q none false 4096 = some (3, .objBound) ∧ s.checkLane g { q with space := .hst } none false 0 = some (5, .perm) ∧
      s.checkLane g { q with space := .obj } none false 0 = some (1, .objBound) := by decide +kernel

/-- A load or store of one register, as ScalarLoads and ScalarStores make it. -/
def loadsOk (s : State) (w : Weave) (i : Instr) : Bool :=
  isOk (s.issued.load w.id (s.issued.agentOf w s.cur.strand) (s.issued.attrsOf i w)
    (s.issued.reqRow w (s.issued.attrsOf i w) 0 (w.offset s.cur.strand 0 4) [0] 4 .read (some (w.act s.cur.strand)) accLoad))
def storesOk (s : State) (w : Weave) (i : Instr) : Bool :=
  isOk (s.issued.store' w (s.issued.agentOf w s.cur.strand) (s.issued.attrsOf i w)
    (s.issued.reqRow w (s.issued.attrsOf i w) 0 (w.offset s.cur.strand 0 4) [0] 4 .write (some (w.act s.cur.strand)) accStore) fun _ => 0)

theorem test_meets_scalar_accesses : MeetAll [
    (via .rlx .hst (acting .a (rega [(6, 1)])), .lds 0 2 0 4 6 8, fun s w => (s.issued.attrsOf (.lds 0 2 0 4 6 8) w).space = .hst && w.scal .a 6 ≠ 0),
    (acting .a id, .lds 0 2 0 4 6 8, fun s w => !loadsOk s w (.lds 0 2 0 4 6 8)), (via .rlx .spd (acting .a id), .lds 0 2 0 4 0 8, fun s w => loadsOk s w (.lds 0 2 0 4 0 8)),
    (via .acq .spd (acting (.c 0) id), .sld 0 2 1 4 0 8, fun s w => loadsOk s w (.sld 0 2 1 4 0 8)),
    (via .rlx .hst (acting .a (rega [(6, 1)])), .sts 0 2 4 6 8, fun s w => (s.issued.attrsOf (.sts 0 2 4 6 8) w).space = .hst && w.scal .a 6 ≠ 0),
    (acting .a id, .sts 0 2 4 6 8, fun s w => !storesOk s w (.sts 0 2 4 6 8)), (via .rel .spd (acting .a id), .sts 0 2 4 0 8, fun s w => storesOk s w (.sts 0 2 4 0 8)),
    (via .rlx .spd (acting (.c 0) id), .sst 0 2 4 0 8, fun s w => storesOk s w (.sst 0 2 4 0 8))] := meetAll (by decide +kernel)

/-- Whether n bytes lie inside the reservation, aligned, at every lane's place of a row. -/
def rowGood (s : State) (w : Weave) (at' n : Nat) : Bool :=
  (List.range 96).all fun l => s.issued.spadInside (s.issued.agentOf w s.cur.strand) (at' + l * n) n && (at' + l * n) % n = 0

theorem test_meets_scratchpad_loads : MeetAll [
    (via .acq .spd (acting .a (rega [(4, 0xFF8)])), .lds 0 3 0 4 0 8, fun s w => s.issued.spadInside (s.issued.agentOf w .a) 0xFF8 8 && (s.issued.attrsOf (.lds 0 3 0 4 0 8) w).space = .spd && s.poison = []),
    (via .rlx .spd (acting (.c 0) (regc [(4, 0xFFF)])), .sld 0 0 1 4 0 8, fun s w => s.issued.spadInside (s.issued.agentOf w (.c 0)) 0xFFF 1),
    (via .rlx .spd (acting .a (rega [(4, 0xFF0)])), .ldc 0 4 0 8, fun s w => s.issued.spadInside (s.issued.agentOf w .a) 0xFF8 8),
    (via .acq .spd (acting (.c 0) (regc [(4, 0xE80)])), .vld 0 2 0 4 0 8, fun s w => rowGood s w 0xE80 4 && (s.issued.attrsOf (.vld 0 2 0 4 0 8) w).space = .spd),
    (via .rlx .spd (acting (.c 0) (regc [(1, 0xFFC)])), .vgth 2 0 2 4 0 8, fun s w => s.issued.spadInside (s.issued.agentOf w (.c 0)) 0xFFC 4 && (List.range 96).all fun l => laneIndex 2 0 (laneAt (w.lane 4) l) (laneAt (w.lane 5) l) = 0)] :=
  meetAll (by decide +kernel)

theorem test_meets_queue_loads : MeetAll [
    (via .acq .spd (acting .a fun w => rega [(4, 0xE80)] (queue 1 4 [] w)), .ldq 0 2 0 4 0 1, fun s w => rowGood s w 0xE80 4 && (s.issued.attrsOf (.ldq 0 2 0 4 0 1) w).space = .spd),
    (via .rlx .spd (acting .a (queue 1 4 [⟨7, .vector LaneReg.zero, false, some 0x40, []⟩])), .ldq 0 2 0 4 0 1, fun s w => rowGood s w 0 4 && (w.queue 1).entries.any fun y => y.refill = some s.cur.pc),
    (via .rlx .spd (acting .a id), .ldq 0 2 0 4 0 3, fun _ _ => true),
    (via .rlx .spd (acting .a (queue 0 1 [entry (.scalar 1) true])), .ldq 0 2 0 4 0 0, fun s w => (w.queue 0).entries.all (fun y => y.refill ≠ some s.cur.pc) && (w.queue 0).depth ≤ (w.queue 0).entries.length),
    (via .rlx .spd (acting .a fun w => queue 3 4 [entry (.vector LaneReg.zero) true] (queue 1 4 [] w)), .gthq 2 0 2 4 0 3 1, fun s w => rowGood s w 0 4 && (s.issued.attrsOf (.gthq 2 0 2 4 0 3 1) w).space = .spd && (w.queue 3).entries.all (fun y => y.complete && y.data = .vector LaneReg.zero)),
    (via .rlx .spd (acting .a fun w => queue 3 4 [entry (.vector LaneReg.zero) true, entry (.vector LaneReg.zero) true] (queue 1 4 [] w)), .gthq 3 0 2 4 0 3 1, fun _ w => (w.queue 3).entries.length = 2 && laneIndex 3 0 (laneAt LaneReg.zero 95) (laneAt LaneReg.zero 95) = 0),
    (via .acq .spd (acting .a (queue 1 1 [⟨7, .vector LaneReg.zero, false, some 0x40, [LaneReg.zero]⟩])), .gthq 2 0 2 4 0 3 1, fun s w => rowGood s w 0 4 && ((w.queue 1).entries.find? fun y => y.refill = some s.cur.pc).any fun y => y.kept = [LaneReg.zero]),
    (acting .a id, .gthq 2 0 2 4 0 3 2, fun _ _ => true), (acting .a id, .gthq 2 0 2 4 0 1 1, fun _ _ => true),
    (acting .a fun w => queue 3 4 [entry (.vector LaneReg.zero) true] (queue 1 1 [entry (.scalar 1) false] w), .gthq 2 0 2 4 0 3 1, fun s w => (w.queue 1).entries.all (fun y => y.refill ≠ some s.cur.pc) && (w.queue 1).depth ≤ (w.queue 1).entries.length),
    (acting .a fun w => queue 3 4 [entry (.vector LaneReg.zero) true] (queue 1 4 [] w), .gthq 3 0 2 4 0 3 1, fun _ w => (w.queue 1).entries = [] && ((w.queue 3).entries.takeWhile (·.complete)).length < 2)] :=
  meetAll (by decide +kernel)

theorem test_meets_scratchpad_stores : MeetAll [
    (via .rel .spd (acting .a (rega [(4, 0xFF8)])), .sts 0 3 4 0 8, fun s w => s.issued.spadInside (s.issued.agentOf w .a) 0xFF8 8 && (s.issued.attrsOf (.sts 0 3 4 0 8) w).space = .spd),
    (via .rlx .spd (acting (.c 0) (regc [(4, 0xFFF)])), .sst 0 0 4 0 8, fun s w => s.issued.spadInside (s.issued.agentOf w (.c 0)) 0xFFF 1),
    (via .rlx .spd (acting .a (rega [(4, 0xFF0)])), .stc 0 4 0 8, fun s w => s.issued.spadInside (s.issued.agentOf w .a) 0xFF8 8),
    (via .rlx .spd (acting (.c 0) (regc [(4, 0xE80)])), .vst 0 2 4 0 8, fun s w => rowGood s w 0xE80 4),
    (via .rlx .spd (acting (.c 0) (regc [(1, 0xFFC)])), .vsct 2 0 2 4 0 8, fun s w => s.issued.spadInside (s.issued.agentOf w (.c 0)) 0xFFC 4 && (List.range 96).all fun l => laneIndex 2 0 (laneAt (w.lane 4) l) (laneAt (w.lane 5) l) = 0),
    (via .rlx .spd (acting .a (queue 3 4 [entry (.vector LaneReg.zero) true])), .stq 0 2 4 0 3, fun s w => rowGood s w 0 4 && (w.queue 3).entries.head?.any fun x => x.complete && x.data = .vector LaneReg.zero),
    (via .rlx .spd (acting .a fun w => queue 2 4 [entry (.vector LaneReg.zero) true] (queue 3 4 [entry (.vector LaneReg.zero) true] w)), .sctq 2 0 2 4 0 2 3, fun s w => rowGood s w 0 4 && (w.queue 2).entries.all (fun y => y.complete && y.data = .vector LaneReg.zero))] :=
  meetAll (by decide +kernel)

theorem test_meets_atomics : MeetAll [
    (via .ar .spd (acting .a (rega [(4, 0xFFC)])), .amo 9 0 4 0 6, fun s w => s.poison = [] && s.issued.spadInside (s.issued.agentOf w .a) 0xFFC 4 && (s.issued.attrsOf (.amo 9 0 4 0 6) w).space = .spd),
    (via .rlx .spd (acting .a (rega [(4, 0xFF8)])), .amo 8 1 4 0 6, fun s w => s.issued.spadInside (s.issued.agentOf w .a) 0xFF8 8),
    (via .sc .spd (acting (.c 0) (regc [(4, 8)])), .cas 1 4 0 6, fun s w => s.issued.spadInside (s.issued.agentOf w (.c 0)) 8 8),
    (via .acq .spd (acting (.c 0) id), .vamo 9 4 0 6, fun s w => s.issued.spadInside (s.issued.agentOf w (.c 0)) 0 4 && (List.range 96).all fun l => laneAt (w.lane 4) l = 0),
    (via .rel .spd (acting (.c 0) (fun w => w.setEntry 0 { w.entry 0 with mask := 0 })), .vcas 4 0 62, fun _ w => w.act (.c 0) = 0)] := meetAll (by decide +kernel)

theorem test_meets_prefetches : MeetAll [(via .rlx .hst (acting .a (rega [(4, BitVec.ofNat 64 (2 ^ 48 - 1))])), .pref 0 4 6, fun s w => (w.offset .a 0 4 == .at' (BitVec.ofNat 64 (2 ^ 48 - 1))) && decide (s.issued.granted w.function ≤ 2 ^ 48 - 1)),
    (via .rlx .hst (acting .a id), .pref 0 4 6, fun s w => (s.issued.attrsOf (.pref 0 4 6) w).space = .hst),
    (acting .a id, .pref 1 4 6, fun s w => (s.issued.seeDesc (some w.id.core) w.partition 0).isNone)] := meetAll (by decide +kernel)

/-- Every core present, and granted to every partition. -/
def granted (s : State) : State := { s with pcbs := s.pcbs.map fun p => { p with granted := BitVec.allOnes 384 } }

theorem test_meets_fences : MeetAll [(acting .a id, .fence 6 3, fun _ _ => Scope.sy.code = 6), (acting .a (rega [(4, 384)]), .acqp 4 2, fun _ w => 383 < (w.scal .a 4).toNat),
    (acting .a (rega [(4, 383)]), .acqp 4 2, fun s w => !s.issued.grantedCore w.partition 383), (granted (acting (.c 0) (regc [(4, 383)])), .acqp 4 6, fun s w => s.issued.grantedCore w.partition 383 && s.issued.hasCore 383)] :=
  meetAll (by decide +kernel)

theorem test_meets_drain : let f : Flight := ⟨5, ⟨0, 0⟩, .a, default, .drain 383 .sy, [], 0, 0, true, 0⟩
    ({ acting .a id with flights := [f] }.flights.find? fun x => x.id = f.id) = some f := by decide +kernel

/-- A barrier object at an offset, with a pending count, in every core's scratchpad from 0 on. -/
def barrier (o pending : Nat) (s : State) : State := s.sramWrite 0 o 32 (2 ^ 16 * pending + 2 ^ 32 * pending)

theorem test_meets_barriers : MeetAll [
    (acting .a (rega [(4, 16)]), .bar 4, fun s w => (s.crew? w.crew).isSome), (acting .a (rega [(4, 128)]), .barw 4, fun s w => (s.crew? w.crew).any fun c => c.bars ≤ 4),
    (barrier 96 2 (acting .a (rega [(4, 96)])), .bara 4, fun s w => (s.crew? w.crew).any (fun c => 3 < c.bars) && (s.issued.release 0 .co).sramRead 0 100 2 = 2),
    (barrier 96 1 (acting .a (rega [(4, 96)])), .bara 4, fun s _ => (s.issued.release 0 .co).sramRead 0 100 2 = 1 && (s.issued.release 0 .co).sramRead 0 104 8 = 0),
    (barrier 0 1 (acting (.c 0) id), .bar 4, fun s _ => (s.issued.release 0 .co).sramRead 0 4 2 = 1), (barrier 0 2 (acting (.c 0) id), .bar 4, fun s _ => (s.issued.release 0 .co).sramRead 0 4 2 = 2),
    (barrier 0 2 (acting (.c 0) id), .barw 4, fun _ w => w.recs[0].arrived = false),
    (barrier 0 2 (acting (.c 0) fun w => { w with recs := w.recs.set 0 ⟨true, true⟩ }), .barw 4, fun s w => w.recs[0] = ⟨true, true⟩ && !(s.issued.sramByte 0 0).getLsbD 0),
    (barrier 0 2 (acting (.c 0) fun w => { w with recs := w.recs.set 0 ⟨true, false⟩ }), .barw 4, fun s w => w.recs[0] = ⟨true, false⟩ && !(s.issued.sramByte 0 0).getLsbD 0)] := meetAll (by decide +kernel)

theorem test_meets_barrier_setup : MeetAll [
    (acting .a (rega [(6, 0xFE1)]), .binit 4 6, fun s w => (s.crew? w.crew).any fun c => c.spadBytes < 0xFE1 + 32), (acting .a (rega [(6, 16)]), .binit 4 6, fun s w => (s.crew? w.crew).any fun c => 48 ≤ c.spadBytes),
    (acting .a (rega [(4, 65536), (6, 32)]), .binit 4 6, fun _ w => 65535 < (w.scal .a 4).toNat), (acting .a (rega [(6, 32)]), .binit 4 6, fun _ w => (w.scal .a 4).toNat = 0),
    (acting .a (rega [(4, 65535), (6, 0xFE0)]), .binit 4 6, fun s w => (s.crew? w.crew).any fun c => c.spadAt + 0xFE0 + 32 ≤ 0x82000 && (w.scal .a 4).toNat = 65535)] := meetAll (by decide +kernel)

/-- MDEF of both streams. -/
def mdef (x : DWord) (w : Weave) : Weave := { w with mdefA := x, mdefC := x }

theorem test_meets_word_waits : MeetAll [
    (acting .a (fun w => rega [(6, 1)] (mdef 0xD8 w)), .waitv 4 6 8, fun _ w => (waitvAttrs (.waitv 4 6 8) (w.mdef .a)).any fun a => a.space = .hst),
    (acting .a id, .waitv 4 6 8, fun s w => (waitvAttrs (.waitv 4 6 8) (w.mdef .a)).any fun a => !isOk (s.issued.observeWord (s.issued.agentOf w .a) a (s.issued.waitvReq w a 0 0))),
    ((acting .a (fun w => rega [(4, 0xFFC), (8, 5)] (mdef 0x58 w))).sramWrite 0 0xFFC 4 6, .waitv 4 0 8, fun s w => s.issued.spadInside (s.issued.agentOf w .a) 0xFFC 4 && s.issued.sramRead 0 0xFFC 4 ≠ (w.scal .a 8).toNat),
    ((acting .a (fun w => rega [(8, 5)] (mdef 0x58 w))).sramWrite 0 0 4 5, .waitv 4 0 8, fun s w => s.issued.sramRead 0 0 4 = (w.scal .a 8).toNat && (waitvAttrs (.waitv 4 0 8) (w.mdef .a)).any fun a => a.space = .spd)] :=
  meetAll (by decide +kernel)

/-! Manifests and bundles. -/

/-- Object 1 of partition 0: its kind, its readable, writable, executable and withdrawn bits, its size; its extent list names
far frame 1. -/
def object (kind flags size : Nat) (s : State) : State :=
  let t := s.memStore 0x40 (leBytes 8 (kind + 2 ^ 8 * flags) ++ leBytes 8 size ++ leBytes 16 0 ++ leBytes 8 0x1000 ++ leBytes 24 0)
  { s with mem := (t.memStore 0x1000 (leBytes 8 (mkExt 1 true true))).mem
           pcbs := s.pcbs.set 0 { s.pcbs[0] with tableBase := 0, tableEntries := 2, lim0 := 0x100000 } }

def bundle (st : BundleState) (opened committed : Nat) : Bundle :=
  { part := 0, handle := 1, index := 0, coordinator := 0, state := st, opened, committed, participants := 2, joined := 1
    closed := 0, chips := 1, pin := none, pinOwner := 0, members := [], reported := false, aborted := [], owners := [] }

theorem test_meets_prefetch_lines : MeetAll [
    ({ via .rlx .hst (acting .a (rega [(4, 4095)])) with hostGrant := [(0, 4096)] }, .pref 0 4 6, fun s w => (s.issued.prefPlace w .a (s.issued.attrsOf (.pref 0 4 6) w) 0 (w.offset .a 0 4)).any fun p => !p.moving && !s.issued.placeDown p),
    (via .rlx .obj (object 1 3 64 (acting .a (rega [(4, 63), (6, 1)]))), .pref 0 4 6, fun s w => (s.issued.prefPlace w .a (s.issued.attrsOf (.pref 0 4 6) w) 1 (w.offset .a 0 4)).any fun p => !p.moving && !s.issued.placeDown p),
    (via .rlx .obj { object 1 3 64 (acting .a (rega [(6, 1)])) with cxl := .replicate 4 { CxlPort.reset with down := true } }, .pref 0 4 6, fun s w => (s.issued.prefPlace w .a (s.issued.attrsOf (.pref 0 4 6) w) 1 (w.offset .a 0 4)).any fun p => s.issued.placeDown p)] :=
  meetAll (by decide +kernel)

/-- A weave whose register 6 names the manifest, the manifest, and perhaps its bundle. -/
def bundled (l : List Bundle) (f : Weave → Weave) : State :=
  { object 3 3 64 (acting .a fun w => rega [(6, 1)] (f w)) with bundles := l }

/-- The manifest that register 6 names is in order. -/
def sound (s : State) (w : Weave) : Bool := (s.issued.manifestFault w (w.scal .a 6).toNat true).isNone

theorem test_meets_manifest_checks : MeetAll [
    (acting .a id, .bjoin 6 8, fun s w => (s.issued.seeDesc (some w.id.core) w.partition 0).isNone),
    (object 1 3 64 (acting .a (rega [(6, 1)])), .babort 6, fun s w => (s.issued.seeDesc (some w.id.core) w.partition 1).any fun x => x.kind ≠ 3),
    (object 3 11 64 (acting .a (rega [(6, 1)])), .bview 6 8, fun s w => (s.issued.seeDesc (some w.id.core) w.partition 1).any fun x => x.kind = 3 && x.withdrawn),
    (object 3 3 63 (acting .a (rega [(6, 1)])), .brel 6, fun s w => (s.issued.seeDesc (some w.id.core) w.partition 1).any fun x => !x.withdrawn && x.size = 63),
    (object 3 2 64 (acting .a (rega [(6, 1)])), .bstat 6 8, fun s w => (s.issued.seeDesc (some w.id.core) w.partition 1).any fun x => x.size = 64 && !x.readable),
    (object 3 1 64 (acting .a (rega [(6, 1), (4, 65535)])), .bopen 4 6 8, fun s w => (s.issued.seeDesc (some w.id.core) w.partition 1).any fun x => x.readable && !x.writable),
    (object 3 3 64 (acting .a (rega [(6, 1), (8, 0x1FFFFFFFF)])), .bpin 6 8, fun s w => sound s w && (w.scal .a 8).toNat < 2 ^ 33)] := meetAll (by decide +kernel)

theorem test_meets_bundle_opening : MeetAll [
    (bundled [] id, .bopen 4 6 8, fun s w => sound s w && (w.scal .a 4).toNat = 0), (bundled [] (rega [(4, 65536)]), .bopen 4 6 8, fun s w => sound s w && (w.scal .a 4).toNat = 65536),
    (bundled [] (fun w => { w with breg := 9 }), .bjoin 6 8, fun s w => sound s w && w.breg ≠ 0),
    (bundled [bundle .opened 1 0] (rega [(4, 1)]), .bopen 4 6 8, fun s w => sound s w && w.breg = 0 && ((s.issued.objSync w.partition 1 0 64).bundle? w.partition 1).any fun x => x.state = .opened),
    (bundled [bundle .committed 0xFFFFFFFE 0xFFFFFFFE] (rega [(4, 65535)]), .bopen 4 6 8, fun s w => sound s w && (s.bundle? w.partition 1).any fun x => x.opened = 0xFFFFFFFE),
    (bundled [bundle .aborted 1 0] (rega [(4, 65535)]), .bopen 4 6 8, fun s w => sound s w && (s.bundle? w.partition 1).any fun x => x.state = .aborted),
    (bundled [] (rega [(4, 1)]), .bopen 4 6 8, fun s w => let u := s.issued.objSync w.partition 1 0 64
      sound s w && (u.bundle? w.partition 1).isNone && u.bundles = [] && decide (0 < (u.pcb w.partition).bundles) && u.objRead w.partition 1 0 64 = 0),
    ({ bundled [] (rega [(4, 1)]) with pcbs := (bundled [] id).pcbs.map fun p => { p with lim0 := 0 } }, .bopen 4 6 8, fun s w => sound s w && (s.pcb w.partition).bundles = 0),
    (bundled [bundle .committed 1 1] id, .bjoin 6 8, fun s w => sound s w && (s.issued.bundle? w.partition 1).any fun x => x.state ≠ .opened),
    (bundled [bundle .opened 1 0] (fun w => { w with part := some (1, 1) }), .bjoin 6 8, fun s w => sound s w && w.breg = 0 && w.part = some (1, 1)),
    (bundled [{ bundle .opened 1 0 with joined := 2 }] id, .bjoin 6 8, fun s w => sound s w && w.part = none), (bundled [bundle .opened 1 0] id, .bjoin 6 8, fun s w => sound s w && w.breg = 0)] :=
  meetAll (by decide +kernel)

theorem test_meets_bundle_closing : MeetAll [
    (bundled [] id, .bclose 8, fun _ w => w.part = none), (bundled [] (fun w => { w with part := some (1, 1) }), .bclose 8, fun s w => sound s w && (s.issued.bundle? w.partition 1).isNone),
    (bundled [{ bundle .opened 2 0 with aborted := [1] }] (fun w => { w with part := some (1, 1) }), .bclose 8, fun s w => sound s w && (s.issued.bundle? w.partition 1).any fun x => x.aborted.contains 1),
    (bundled [{ bundle .opened 1 0 with closed := 1 }] (fun w => { w with part := some (1, 1) }), .bclose 8, fun s w => sound s w && (s.issued.bundle? w.partition 1).any fun x => x.closed + 1 = x.participants),
    (bundled [bundle .committed 1 1] id, .babort 6, fun s w => sound s w && (s.issued.bundle? w.partition 1).any fun x => x.state = .committed),
    (bundled [bundle .committing 1 0] id, .babort 6, fun s w => sound s w && (s.issued.bundle? w.partition 1).any fun x => x.state = .committing)] := meetAll (by decide +kernel)


/-- A view of a handle in an entry. -/
def viewed (l : List (Nat × BitVec 32)) (w : Weave) : Weave :=
  l.foldl (fun v x => { v with views := v.views.setIfInBounds x.1 ⟨x.2, 5, true, false, false⟩ }) w

theorem test_meets_views : MeetAll [
    (bundled [] (viewed [(2, 1)]), .bview 6 8, fun s w => sound s w && (w.views.toList.find? fun v => v.valid && v.handle.toNat = 1).isSome),
    (bundled [] (viewed [(0, 7), (1, 7), (2, 7), (3, 7)]), .bview 6 8, fun s w => sound s w && w.views.toList.all fun v => v.valid && v.handle ≠ 1),
    (bundled [bundle .committed 3 3] (fun w => rega [(8, 4)] (viewed [(0, 7)] w)), .bview 6 8, fun s w => sound s w && !w.views[1].valid && w.views[0].valid),
    (bundled [bundle .committed 3 3] (rega [(8, 0xFFFFFFFF)]), .bview 6 8, fun s w => sound s w && !w.views[0].valid && (s.issued.bundle? w.partition 1).any fun b => ((s.issued.settleBundle b 3).membersOf b).isEmpty),
    (bundled [] (viewed [(1, 1)]), .brel 6, fun s w => sound s w && (s.bundle? w.partition 1).isNone), (bundled [] id, .bstat 6 8, fun s w => sound s w && (s.bundle? w.partition 1).isNone),
    (bundled [bundle .opened 4 3] id, .bstat 6 8, fun s w => sound s w && (s.bundle? w.partition 1).isSome)] := meetAll (by decide +kernel)

/-- A member line whose retained version generation 3 rests on, with an open version. -/
def member : MemberLine := ⟨0, 1, 0, 1, 4, some ⟨3, [], 0⟩, some ⟨5, [], 1⟩, []⟩

theorem test_meets_bundle_report :
    let s := { bundled [bundle .committing 5 4] id with members := [member] }
    ((bundled [bundle .committing 1 0] id).bundle? 0 1).any (fun x => x.state = .committing) = true ∧
      (s.bundle? 0 1).any (fun x => x.state = .committing && x.opened = 5) = true ∧
      s.members.any (fun y => y.part = 0 && y.handle = 1 && y.openV.any fun v => v.generation = 5 && v.bad ≠ 0) = true := by decide +kernel

theorem test_meets_pins :
    let at' := fun (x : DWord) (l : List Bundle) => bundled l (rega [(8, x)])
    let is := fun (p : Bundle → State → Bool) (s : State) (w : Weave) => sound s w && (s.issued.bundle? w.partition 1).any fun b => p b s.issued
    MeetAll [(at' 0x200000000 [], .bpin 6 8, fun _ w => 2 ^ 33 ≤ (w.scal .a 8).toNat), (at' 0x1FFFFFFFF [], .bpin 6 8, fun s w => sound s w && (s.bundle? w.partition 1).isNone),
      (at' 0x100000003 [{ bundle .committed 4 4 with pin := some 3 }], .bpin 6 8, is fun b _ => b.pin = some 3), (at' 0x100000000 [bundle .committed 4 4], .bpin 6 8, is fun b _ => b.pin ≠ some 0),
      (at' 0x100000005 [bundle .committed 4 4], .bpin 6 8, is fun b _ => b.committed < 5), (at' 0x100000004 [{ bundle .committed 4 4 with pin := some 3 }], .bpin 6 8, is fun b t => b.pin.isSome && ((t.settleBundle b 4).membersOf b).isEmpty),
      ({ at' 0x100000003 [bundle .opened 5 4] with members := [member] }, .bpin 6 8, is fun b t => ((t.settleBundle b 3).spillFor b 3).isNone && ((t.settleBundle b 3).membersOf b).all fun m => m.versionAt 3 = some 3),
      (at' 0x100000004 [bundle .committed 4 4], .bpin 6 8, is fun b t => ((t.settleBundle b 4).spillFor b 4).isSome && b.committed = 4),
      (at' 0 [], .bpin 6 8, fun s w => sound s w && (s.bundle? w.partition 1).isNone), (at' 0xFFFFFFFF [{ bundle .committed 4 4 with pin := some 3 }], .bpin 6 8, is fun b _ => b.pin = some 3)] := by
  exact meetAll (by decide +kernel)

/-! The matrix arrays. -/

/-- The crew has two weaves, and array 0 with a queue. -/
def arrayed (q : List ArrayOp) (f : Weave → Weave) : State :=
  let s := acting (.c 0) fun w => f { w with gang := ⟨2, 3⟩ }
  { s with weaves := s.weaves ++ [weave fun w => { w with id := ⟨0, 1⟩, index := 1, gang := ⟨2, 3⟩ }]
           crews := s.crews.map fun c => { c with array := some 0, engines := 32 }, arrays := [{ MatArray.cleared 0 0 with queue := q }]
           pcbs := s.pcbs.map fun p => { p with lim0 := 0x3F00000000000 ||| 0x3E00000000 } }

/-- Its crew has 131,072 bytes of scratchpad. -/
def roomy (s : State) : State := { split s with crews := s.crews.map fun c => { c with spadBytes := 0x20000 } }

def arrival (n : Nat) (i : Instr) (f : DWord × DWord) : Arrival :=
  ⟨⟨0, n⟩, 0, 0x40, BitVec.allOnes 96, i, ⟨2, 3⟩, 0, f, LaneReg.zero, 64, 0x3A800000, ⟨false, 0, 0⟩, false, 0⟩

def closing (i j : Instr) (f : DWord × DWord) : State :=
  let s := arrayed [] id
  { s with crews := s.crews.map fun c => { c with latch := [arrival 1 j f, arrival 0 i f] } }

theorem test_meets_gang_arrivals : MeetAll [(acting (.c 0) id, .mgang, fun s w => (s.crew? w.crew).isSome && (s.issued.arrayOf w).isNone),
    (arrayed [] id, .mzero, fun s w => (s.issued.arrayOf w).isSome && (s.crew? w.crew).any fun c => c.latch.isEmpty && ((s.issued.member c.id 0).isSome && (s.issued.member c.id 1).isSome)),
    ({ arrayed [] id with weaves := (arrayed [] id).weaves.take 1 }, .mmac 0 4 6 8, fun s w => (s.issued.arrayOf w).isSome && w.gang.members = 3 && (s.issued.member w.crew 1).isNone)] := meetAll (by decide +kernel)

/-- A latch with every member there, room in the queue, and whether its members agree. -/
def closes (s : State) (agree : Bool) (p : MatArray → Arrival → Bool) : Prop :=
  (s.crews.head?.any fun c => (s.crew? c.id).isSome && c.array = some 0 && (s.array? c.core 0).any fun m => decide (m.queue.length < 8) &&
    (s.inOrder c.latch).map (·.weave) = [⟨0, 0⟩, ⟨0, 1⟩] && (c.latch.all fun x => x.gang.members = 3 && s.ownsAll x) &&
    (c.latch.map fun x => gangCode x.instr).dedup.length = (if agree then 1 else 2) && (s.inOrder c.latch).head?.any fun l => p m l) = true

theorem test_meets_gang_closing : closes (closing .mgang .mswap (0, 0)) false (fun _ _ => true) ∧ closes (closing .mgang .mgang (0, 0)) true (fun _ l => l.instr = .mgang) ∧
    closes (closing .mswap .mswap (0, 0)) true (fun _ l => l.instr = .mswap) ∧ closes (closing .mzero .mzero (0, 0)) true (fun _ l => l.instr = .mzero) ∧
    closes (closing (.mmac 0 1 2 3) (.mmac 0 4 5 6) (0xF, 0)) true (fun m l => ((closing (.mmac 0 1 2 3) (.mmac 0 4 5 6) (0xF, 0)).mmacFault m l 2).isSome) ∧
    closes (closing (.mmac 1 1 2 3) (.mmac 1 4 5 6) (0, 0)) true (fun m l => ((closing (.mmac 1 1 2 3) (.mmac 1 4 5 6) (0, 0)).mmacFault m l 2).isNone) := by
  unfold closes; decide +kernel

theorem test_meets_gang_timeout : let s := arrayed [] fun w => { w with pwatch := 1 }
    let y := arrival 0 .mgang (0, 0)
    y.since + 64 < ({ s with time := 65 } : State).time ∧ (s.weave? y.weave).any (fun w => w.pwatch = 1) = true ∧
      ¬∃ z ∈ [y], s.indexOf z = 1 := by decide +kernel

/-- The array's operation at the front of its queue, and a finished operation. -/
theorem test_meets_array_queue : (∀ q ∈ ([[], [.mswap], [.mgang, .mzero], [.mzero], [.mread 5 95 2], [.mload ⟨0, 0⟩ 0 0 0 0 0 0 0],
      [.mmac ⟨0, 0⟩ 0 0 false 0 [LaneReg.zero] [] [] 64 0 []]] : List (List ArrayOp)),
      ((arrayed q id).array? 0 0).any (fun m => m.queue = q && m.done = []) = true ∧ (arrayed q id).poison = []) ∧
    ({ MatArray.cleared 0 0 with done := [⟨⟨0, 0⟩, 0, 0⟩] } : MatArray).done ≠ [] := by decide +kernel

/-- A plane of format 0 and tile bytes 0, as MLOAD decodes it, and an integer MMAC. -/
theorem test_meets_integer_rows : let m : Mmac := ⟨decodePlane 0 0 (List.replicate 9216 0) [], 0, 0, true, true, false, 0, [], [], 0⟩
    m.aFormat < 2 ∧ m.plane = decodePlane m.aFormat 0 (List.replicate 9216 0) [] ∧ m.inject = [] ∧ m.sat = false ∧ m.target ≠ 1 ∧
      (m.transpose = true → m.aFormat = 0) := ⟨by decide, rfl, rfl, rfl, by decide, fun _ => rfl⟩

theorem test_meets_array_access : MeetAll [
    (arrayed [] (regc [(6, 0x90)]), .mload 0 6 4 8, fun s w => (s.issued.arrayOf w).isSome && bits (w.scal (.c 0) 6).toNat 4 4 = 9), (arrayed [] (regc [(8, 0x1000)]), .mload 0 6 4 8, fun s w => !(s.issued.agentOf w (.c 0)).reserved 0x1000 32),
    (arrayed [] (regc [(8, 8)]), .mload 0 6 4 8, fun s w => (s.issued.agentOf w (.c 0)).reserved 8 32), (arrayed [] (regc [(4, 8)]), .mload 0 6 4 8, fun _ w => (w.scal (.c 0) 4).toNat = 8),
    (arrayed [] id, .mload 0 6 4 8, fun s w => !(s.issued.agentOf w (.c 0)).reserved 0 (tileBytes 0)),
    (roomy (arrayed [] (regc [(6, 0x860), (7, 0xFFFFF00000000)])), .mload 0 6 4 8, fun s w => weightScales 6 2 ≠ 0 && (s.issued.agentOf w (.c 0)).reserved 0 (tileBytes 6) && !(s.issued.agentOf w (.c 0)).reserved 0xFFFFF (weightScales 6 2) && bits (w.scal (.c 0) 6).toNat 4 4 = 6),
    (roomy (arrayed [.mzero, .mzero, .mzero, .mzero, .mzero, .mzero, .mzero, .mzero] sup), .mload 0 6 4 8, fun s w => (s.issued.agentOf w (.c 0)).reserved 0 (tileBytes 0) && (s.issued.arrayOf w).any fun m => m.queue.length = 8),
    (roomy (arrayed [] sup), .mload 3 6 4 8, fun s w => (s.issued.agentOf w (.c 0)).reserved 0 (tileBytes 0) && s.issued.threadRoom 0 0 (s.issued.engineLimit w) && (s.issued.arrayOf w).any fun m => m.queue = []),
    (arrayed [] (regc [(4, 96)]), .mread 2 4 6, fun _ w => 95 < (w.scal (.c 0) 4).toNat), (arrayed [.mzero, .mzero, .mzero, .mzero, .mzero, .mzero, .mzero, .mzero] (regc [(4, 95)]), .mread 2 4 6, fun s w => (s.issued.arrayOf w).any fun m => m.queue.length = 8),
    (arrayed [] (regc [(4, 95)]), .mread 2 4 6, fun s w => (s.issued.arrayOf w).any fun m => m.queue = []),
    (arrayed [] sup, .msave 4, fun s w => !(s.issued.agentOf w (.c 0)).reserved 0 118656), (roomy (arrayed [] fun w => regc [(4, 64)] (sup w)), .mrstr 4, fun s w => (s.issued.agentOf w (.c 0)).reserved 64 118656),
    (roomy (arrayed [.mzero] sup), .msave 4, fun s w => (s.issued.arrayOf w).any fun m => m.queue ≠ []),
    (roomy (arrayed [] fun w => regc [(4, 128)] (sup w)), .msave 4, fun s w => (s.issued.agentOf w (.c 0)).reserved 128 118656 && (s.issued.arrayOf w).any fun m => m.queue = [])] := meetAll (by decide +kernel)

theorem test_meets_array_tags : Meets (filled 96256 [9] (roomy (arrayed [] fun w => regc [(4, 128)] (sup w)))) (.mrstr 4) (fun s w =>
    (s.issued.agentOf w (.c 0)).reserved 128 118656 && decide (8 < (s.issued.sramByte 0 (128 + 96128)).toNat)) := meets (by decide +kernel)

/-- An array whose planes hold tiles of format 0, and its image in the scratchpad (MRSTR). -/
def zeroed : MatArray :=
  let p : Plane := ⟨0, 0, formatQ 0, List.replicate (tileBytes 0) 0, [], List.replicate (96 * formatQ 0) 0, List.replicate (96 * formatQ 0) 0,
    List.replicate (if formatQ 0 = 1 then 96 else 0) 0, List.replicate (if formatQ 0 = 1 then 96 else 0) 0⟩
  { MatArray.cleared 0 0 with plane0 := p, plane1 := p }

theorem image_length (a : MatArray) : a.image.length = 118656 := by
  have hp : ∀ n l, (padded n l).length = n := fun n l => by simp [padded]
  have hq : ∀ p : Plane, p.image.length = 22400 := fun p => by simp [Plane.image, hp]
  have hw : ∀ x, (leBytes 4 x).length = 4 := fun x => rfl
  have hr : ∀ v : LaneReg, (rowImage v).length = 384 := fun v => by simp [rowImage, wordBytes, List.length_flatMap, hw]
  have hf : ∀ v : Vector LaneReg 96, (v.toList.flatMap rowImage).length = 36864 := fun v => by simp [List.length_flatMap, hr]
  simp [MatArray.image, hp, hq, hf]

theorem test_meets_array_images : let s := filled 128 zeroed.image (roomy (arrayed [] fun w => regc [(4, 128)] (sup w)))
    Meets s (.mrstr 4) (fun s w => (s.issued.agentOf w (.c 0)).reserved 128 118656) ∧
    s.issued.sramBytes 0 128 zeroed.image.length = zeroed.image ∧ zeroed.image.length = 118656 ∧
    (zeroed.counters.toList.all fun n => n = 0) = true ∧ zeroed.plane0.tile.length = tileBytes 0 ∧ zeroed.plane0.scales.length = weightScales 0 0 :=
  ⟨meets (by decide +kernel), filled_bytes ⟨rfl, rfl, rfl, rfl⟩ (by rw [image_length]; decide), image_length _, by decide +kernel, by simp [zeroed], by decide +kernel⟩

/-! Layouts. -/

/-- Object 1 is a tensor of c rows of 64 FP32 elements in one HBM frame, or a far one. -/
def tensor (c : Nat) (far : Bool) (s : State) : State :=
  let t := s.memStore 0x40 (leBytes 8 (2 + 2 ^ 5 + 2 ^ 8 * 3) ++ leBytes 8 (256 * c) ++ leBytes 8 (1 + 2 ^ 32) ++ leBytes 8 (c + 2 ^ 32 * 64) ++ leBytes 8 0x1000 ++ leBytes 24 0)
  { s with mem := (t.memStore 0x1000 (leBytes 8 (mkExt 1 far true))).mem
           pcbs := s.pcbs.set 0 { s.pcbs[0] with tableBase := 0, tableEntries := 2, lim0 := 0x100000 } }

/-- Registers 6, 4 and 8 name the object, an offset and a value; region 0 of the object is as given. -/
def laid (far : Bool) (o v : DWord) (f : Region → Region) (c : Nat := 64) : State :=
  let s := tensor c far (acting .a (rega [(6, 1), (4, o), (8, v)]))
  { s with regions := (s.objDesc 0 1).toList.map fun x => f (s.newRegion ⟨0, 1, 0⟩ x) }

/-- The region members find no fault, the object is a tensor, and its region 0 is in a state. -/
def region (p : State → ObjDesc → Region → Bool) (s : State) (w : Weave) : Bool :=
  (s.issued.regionFault w 1 (w.scal .a 4).toNat).isNone && (s.issued.objDesc w.partition 1).any fun x => x.kind = 2 &&
    (w.scal .a 4).toNat / (262144 * 2 / x.nibs) = 0 && p s.issued x (s.issued.regionOf ⟨w.partition, 1, 0⟩ x)

theorem test_meets_layout_members : MeetAll [
    (laid false 0 0x200 id, .laypin 4 6 8, fun _ w => 2 ^ 9 ≤ (w.scal .a 8).toNat), (laid false 0 0x103 id, .laypin 4 6 8, fun _ w => !layoutDefined ((w.scal .a 8).toNat % 256)), (laid false 0 0x100 id, .layadv 4 6 8, fun _ w => 2 ^ 8 ≤ (w.scal .a 8).toNat),
    (laid false 4096 0 id, .layq 4 6 8, fun s w => (s.issued.regionFault w 1 4096).isSome), (object 1 3 64 (acting .a (rega [(6, 1), (4, 63)])), .layq 4 6 8, fun s w => (s.issued.regionFault w 1 63).isNone && (s.issued.objDesc 0 1).any fun x => x.kind ≠ 2),
    (object 1 3 64 (acting .a (rega [(6, 1), (8, 0x100)])), .laypin 4 6 8, fun s w => (s.issued.regionFault w 1 0).isNone && layoutDefined 0), (object 1 3 64 (acting .a (rega [(6, 1), (8, 0x82)])), .layadv 4 6 8, fun s w => (s.issued.regionFault w 1 0).isNone && layoutDefined 0),
    (laid false 4095 0 id, .layq 4 6 8, region fun _ _ r => r.layout < 256 && r.target < 256 && r.state ≠ .retiling), (laid false 0 0 fun r => { r with state := .retiling, target := 1 }, .layq 4 6 8, region fun _ _ r => r.state = .retiling && r.target < 256),
    (laid false 0 0 fun r => { r with state := .pinned }, .laypin 4 6 8, region fun _ _ r => r.state = .pinned), (laid false 0 0 fun r => { r with pinPending := some 1 }, .laypin 4 6 8, region fun _ _ r => r.state ≠ .pinned && r.pinPending.isSome),
    (laid false 0 0 id, .laypin 4 6 8, region fun _ _ r => r.state ≠ .pinned && r.pinPending = none && r.request = none), (laid false 0 0x101 fun r => { r with state := .retiling }, .laypin 4 6 8, region fun _ _ r => r.state = .retiling),
    (laid false 0 0x100 id, .laypin 4 6 8, region fun _ _ r => r.layout = 0 && r.state ≠ .retiling), (laid false 0 0x101 id, .laypin 4 6 8, region fun t x r => r.layout ≠ 1 && x.eligible 0 1 && t.movable x 0),
    (laid true 0 0x101 id, .laypin 4 6 8, region fun t x r => r.layout ≠ 1 && !t.movable x 0), (laid true 0 1 id, .layadv 4 6 8, region fun t x _ => !t.movable x 0), (laid false 0 0 id, .layadv 4 6 8, region fun t x r => r.layout = 0 && r.state = .stable && t.movable x 0),
    (laid false 0 1 fun r => { r with state := .contested }, .layadv 4 6 8, region fun t x r => r.layout ≠ 1 && x.eligible 0 1 && r.state = .contested && t.movable x 0),
    (laid false 0 0x0E (c := 48) id, .layadv 4 6 8, region fun t x r => r.layout ≠ 14 && layoutDefined 14 && !x.eligible 0 14 && t.movable x 0)] := meetAll (by decide +kernel)

/-- LayoutSlots: a code of each kind, and a region that its tiles divide. -/
theorem test_meets_layout_slots : layoutDefined 0 = true ∧ layoutDefined 1 = true ∧ layoutDefined (2 + 4 * 7 + 32 * 1) = true ∧ 64 % (tileShape 7).1 = 0 ∧
    64 % (tileShape 7).2 = 0 := by decide

/-! Objects, contexts and launches. -/

/-- Entries of partition 0's object table: an identifier, its first word, its size and its extent list; and words of memory. -/
def table (es : List (Nat × Nat × Nat × Nat)) (words : List (Nat × Nat)) (s : State) : State :=
  let t := es.foldl (fun (u : State) e => u.memStore (64 * e.1) (leBytes 8 e.2.1 ++ leBytes 8 e.2.2.1 ++ leBytes 16 0 ++ leBytes 8 e.2.2.2 ++ leBytes 24 0)) s
  { s with mem := (words.foldl (fun (u : State) x => u.memStore x.1 (leBytes 8 x.2)) t).mem
           pcbs := s.pcbs.set 0 { s.pcbs[0] with tableBase := 0, tableEntries := 8, lim0 := 0x3E00100000, contextObject := 2, poolObject := 3 } }

/-- Object 1 of two frames, the second absent; a pool of two entries in object 3, the first as given, the second as given. -/
def mapped (p0 p1 : Nat) (x q : DWord) : State :=
  table [(1, 1 + 2 ^ 8 * 3, 131072, 0x1000), (3, 1 + 2 ^ 8 * 3, 16, 0x1100)]
    [(0x1000, mkExt 1 false true), (0x1100, mkExt 4 false true), (0x40000, p0), (0x40008, p1)] (acting .a fun w => rega [(6, x), (4, q)] (sup w))

/-- The extent entry of a frame of object 1. -/
def extent (s : State) (f : Nat) (p : ObjDesc → DWord → State → Bool) : Bool :=
  (s.issued.objDesc 0 1).any fun o => let y := s.issued.gather (lineOf (o.list + 8 * f)); decide (f < o.frames) && p o (y.extWord o f) y

theorem test_meets_object_mapping : MeetAll [
    (mapped 0 0 0x100000000 0, .objmap 4 6 8, fun _ w => 2 ^ 32 ≤ (w.scal .a 6).toNat), (mapped 0 0 1 0x300000000, .objmap 4 6 8, fun _ w => (w.scal .a 4).toNat / 2 ^ 32 = 3),
    (mapped 0 0 7 0, .objmap 4 6 8, fun s _ => (s.issued.objDesc 0 7).isNone), (mapped 0 0 1 2, .objmap 4 6 8, fun s _ => (s.issued.objDesc 0 1).any fun o => o.frames = 2),
    (mapped 0 0 1 0, .objmap 4 6 8, fun s _ => extent s 0 fun _ e _ => extPresent e && !extWithdrawn e), (mapped 0 0 1 1, .objmap 4 6 8, fun s _ => extent s 1 fun _ e y => !extPresent e && !extWithdrawn e && (y.poolTake 0 false).isNone),
    (mapped 0 (mkExt 5 false true) 1 0x100000001, .objmap 4 6 8, fun s _ => extent s 1 fun _ e y => !extPresent e && (y.poolTake 0 false).any fun z => z.2 = 5),
    (mapped 0 0 1 0x100000000, .objunmap 4 6 8, fun _ w => 2 ^ 32 ≤ (w.scal .a 4).toNat), (mapped 0 0 7 0, .objunmap 4 6 8, fun s _ => (s.issued.objDesc 0 7).isNone), (mapped 0 0 1 2, .objunmap 4 6 8, fun s _ => (s.issued.objDesc 0 1).any fun o => o.frames = 2),
    (mapped 0 0 1 1, .objunmap 4 6 8, fun s _ => extent s 1 fun _ e _ => !extPresent e),
    (mapped (mkExt 5 false true) (mkExt 6 true true) 1 0, .objunmap 4 6 8, fun s _ => extent s 0 fun _ e y => extPresent e && (y.poolSearch 0 (fun z => !extPresent z) (y.poolSize 0) 0).isNone),
    (mapped (mkExt 5 false true) 0 1 0, .objunmap 4 6 8, fun s _ => extent s 0 fun _ e y => extPresent e && (y.poolSearch 0 (fun z => !extPresent z) (y.poolSize 0) 0).isSome),
    ({ mapped 0 0 1 0 with pending := [⟨5, 0, State.reset.cur, weave id, .lds 0 2 0 4 6 8, ⟨.obj, 1, 4, .read, [], none, none, default⟩, none, none⟩] }, .objunmap 4 6 8, fun s w => s.issued.pending.any fun p => p.weave.partition = w.partition && p.req.object = 1 && p.req.space = .obj),
    (mapped 0 0 1 0xC000000000000000, .objq 4 6 8, fun _ w => (w.scal .a 4).toNat / 2 ^ 62 = 3), (mapped 0 0 1 1, .objq 4 6 8, fun s _ => (s.issued.objDesc 0 1).isSome),
    (mapped 0 0 1 0x4000000000000007, .objq 4 6 8, fun _ w => (w.scal .a 4).toNat / 2 ^ 62 = 1), (mapped 0 0 0xFFFFFFFFFFFFFFFF 0x8000000000000000, .objq 4 6 8, fun _ w => (w.scal .a 4).toNat / 2 ^ 62 = 2)] :=
  meetAll (by decide +kernel)

/-- A state whose weave is a supervisor. -/
def lead (s : State) : State := { s with weaves := s.weaves.map sup }

theorem test_meets_module_control : MeetAll [
    (acting .a sup, .mapgen 4 0 8, fun _ _ => true), (acting .a sup, .mapgen 4 6 8, fun s w => (s.issued.stepsOneToThree w 0 0).isSome), (mapped 0 0 1 131071, .mapgen 4 6 8, fun s w => (s.issued.stepsOneToThree w 1 131071).isNone && (s.issued.objDesc 0 1).any fun o => o.kind ≠ 2),
    (lead (laid false 0 0 fun r => { r with state := .retiling, target := 1 }), .mapgen 4 6 8, fun s w => region (fun _ _ r => r.state = .retiling) s w && (s.issued.stepsOneToThree w 1 0).isNone),
    (lead (laid false 4095 0 id), .mapgen 4 6 8, fun s w => region (fun _ _ r => r.state ≠ .retiling) s w && (s.issued.stepsOneToThree w 1 4095).isNone),
    (acting .a fun w => rega [(6, 0x100000000)] (sup w), .inval 4 6, fun _ w => 2 ^ 32 ≤ (w.scal .a 6).toNat), (acting .a sup, .inval 4 6, fun _ _ => true), (acting .a fun w => rega [(6, 9)] (sup w), .perf 6 8, fun _ w => 8 < (w.scal .a 6).toNat % 2 ^ 8),
    (acting .a sup, .perf 6 8, fun _ _ => true), (acting (.c 0) fun w => regc [(6, 0x8000000000000008)] (sup w), .perf 6 8, fun _ w => (w.scal (.c 0) 6).toNat / 2 ^ 8 % 2 ^ 55 = 0),
    (acting .a fun w => rega [(6, 0x1800000)] (sup w), .preempt 6 8, fun _ w => 383 < (w.scal .a 6).toNat / 2 ^ 16), (acting .a fun w => rega [(6, 0x17FFFFF)] (sup w), .preempt 6 8, fun s w => !s.issued.grantedCore w.partition 383),
    (granted (acting .a fun w => rega [(6, 0x17FFFFF)] (sup w)), .preempt 6 8, fun s w => s.issued.grantedCore w.partition 383 && s.issued.hasCore 383)] := meetAll (by decide +kernel)

/-- Object 2 holds contexts: the areas of core 0, its header word as given, and the frame of the image of its scratchpad. -/
def contexts (h : Nat) (st : Strand) (crew : CrewState) (f : Weave → Weave) : State :=
  let s := table [(2, 1 + 2 ^ 8 * 3, 3211264, 0x1000)] [(0x1000, mkExt 2 false true), (0x1180, mkExt 3 false true), (0x20000, h)] (acting st fun w => f (sup w))
  { s with crews := s.crews.map fun c => { c with state := crew } }

/-- A restored weave whose record says RESTORE. -/
def restored (h : Nat) (o : DWord) : State :=
  (contexts h (.c 0) .run fun w => regc [(4, o)] { w with restored := true }).sramWrite 0 0x80040 1 0xFF

theorem mem_distinct {α : Type} [DecidableEq α] {l : List α} {x : α} (h : x ∈ distinct l) : x ∈ l := by
  induction l with
  | nil => exact h
  | cons y r ih =>
    rcases List.mem_cons.mp h with rfl | h
    · exact List.mem_cons_self
    · exact List.mem_cons_of_mem _ (ih (List.mem_filter.mp h).1)

/-- A range of a byte object whose frames are all present fails no check. -/
theorem rangeSteps_none {s : State} {part object : Nat} {need : Need} {e0 n : Nat}
    (h : (s.objDesc part object).any (fun d => d.kind = 1 && !d.withdrawn && decide (e0 + n ≤ d.size) && s.permits part object d need &&
      (List.range ((e0 + n) / 65536 + 1)).all fun f => decide (f < e0 / 65536) || (extPresent (s.extWord d f) && !extWithdrawn (s.extWord d f))) = true) :
    s.rangeSteps part object need false e0 n = none := by
  obtain ⟨d, hd, hp⟩ := (Option.any_eq_true ..).mp h
  simp only [Bool.and_eq_true, decide_eq_true_eq, Bool.not_eq_true', List.all_eq_true, List.mem_range, Bool.or_eq_true] at hp
  obtain ⟨⟨⟨⟨hk, hw⟩, hs⟩, hr⟩, hf⟩ := hp
  have hn : d.nibs = 2 := by simp [ObjDesc.nibs, hk]
  have hx : ∀ f ∈ framesOf (s.placesAt none part object d e0 n), extPresent (s.extWord d f) = true ∧ extWithdrawn (s.extWord d f) = false := by
    intro f hm
    have hm := mem_distinct hm
    rw [State.placesAt, if_neg (by rw [hk]; decide)] at hm
    simp only [List.map_map, List.mem_map, List.mem_range, Function.comp_def] at hm
    obtain ⟨j, hj, rfl⟩ := hm
    rcases hf ((e0 + j) / Config.frameBytes) (by simp only [Config.frameBytes]; omega) with h1 | h2
    · simp only [Config.frameBytes] at h1; omega
    · exact h2
  have e : n * d.nibs / 2 = n := by rw [hn]; omega
  unfold State.rangeSteps
  simp only [hd, hw, hk, hr, e]
  rw [if_neg (by simp), if_neg (by simpa using hs), if_neg (by simp), if_neg, if_neg]
  · simp only [List.any_eq_true, not_exists, not_and]; intro f hm; simp [(hx f hm).2]
  · simp only [List.any_eq_true, not_exists, not_and]; intro f hm; simp [(hx f hm).1]

/-- SAVESPL: the area and the image may be written, and RSTSPL: the area may be read. -/
theorem test_meets_context_areas : let s := contexts 0 (.c 0) .halted fun w => { w with halted := true }
    s.issued.rangeSteps 0 2 .write false (areaAt ⟨0, 0⟩) 37760 = none ∧ s.issued.rangeSteps 0 2 .write false (imageAt 0) 4096 = none ∧
    (restored 0x4000 0).issued.rangeSteps 0 2 .read false 0 37760 = none ∧ (itemSizes 64 4 0 false).sum = 37760 :=
  ⟨rangeSteps_none (by decide +kernel), rangeSteps_none (by decide +kernel), rangeSteps_none (by decide +kernel), by decide⟩

theorem test_meets_context_save : MeetAll [
    (acting .a sup, .savespl, fun s w => (s.crew? w.crew).isSome && !w.halted),
    ({ contexts 0 (.c 0) .halted (fun w => { w with halted := true }) with flights := [⟨5, ⟨0, 0⟩, .a, default, .scal 4 0, [], 0, 0, true, 0⟩] }, .savespl, fun s w => (s.crew? w.crew).isSome && w.halted && !w.restored && !w.cEnded && w.cHand = 0 && s.issued.saveWaits w),
    (contexts 0 (.c 0) .halted (fun w => { w with halted := true }), .savespl, fun s w => !s.issued.saveWaits w && w.id = ⟨0, 0⟩ && (s.crew? w.crew).any fun c => c.part = 0 && c.core = 0 && c.spadAt = 0 && c.spadBytes = 4096),
    ({ contexts 0 (.c 0) .halted (fun w => { w with halted := true }) with mem := [] }, .savespl, fun s w => !s.issued.saveWaits w && (s.crew? w.crew).any fun c => !s.issued.areaOpen w c 37760)] := meetAll (by decide +kernel)

theorem test_meets_halts : ((contexts 0 .a .halting fun w => { w with aMode := .user, cMode := .user }).crews.all fun c => c.state = .halting) = true ∧
    ((contexts 0 .a .halting fun w => { w with aMode := .user, cMode := .user }).weaves.all fun x => !x.inHandler) = true ∧ (weave sup).inHandler = true ∧
    (weave id).cEnded = false ∧ (weave id).nregs = 64 ∧ (weave id).ports.length = 0 := by decide +kernel

theorem test_meets_context_restore : MeetAll [
    (acting (.c 0) sup, .rstspl 4, fun s w => (s.crew? w.crew).isSome && !w.restored), (restored 0 196607, .rstspl 4, fun s w => w.restored && s.issued.sramRead 0 (w.fltrec.toNat + 64) 1 = 0xFF && !w.cEnded && w.cHand = 0),
    (restored 0 196608, .rstspl 4, fun s w => (s.issued.rangeSteps w.partition 2 .read false 196608 128).isSome),
    (restored 0 0, .rstspl 4, fun s w => let t := s.issued; (t.rangeSteps w.partition 2 .read false 0 128).isNone && bits ((t.objSync w.partition 2 0 128).objRead w.partition 2 0 0x40) 8 8 ≠ w.nregs),
    ({ restored 0x4000 0 with threads := [{ id := 7, weave := ⟨0, 0⟩, crew := 1, part := 0, fn := 0, core := 0, base := 0, op := .ckpt 0 0 0 0 0 0 0, kind := 5, todo := [], bytes := 0, locator := 0, scope := .co, host := false, bundle := none, views := [], fpctl := 0, flags := 0, kept := 0, written := 0, failed := none, stopped := false, matched := false, since := 0, refused := none, session := 0 }] }, .rstspl 4, fun s w => s.issued.threads.any fun x => x.crew = w.crew),
    (let s := restored 0x1004000 0; { s with weaves := s.weaves.map (fun w => { w with index := 1 }) ++ [weave fun w => { w with id := ⟨0, 1⟩, restored := true }] }, .rstspl 4, fun s w => s.issued.threads = [] && w.index = 1 && s.weaves.any fun x => x.crew = w.crew && x.index = 0 && x.restored),
    (restored 0x4000 0, .rstspl 4, fun s w => let t := s.issued; let h := (t.objSync w.partition 2 0 128).objRead w.partition 2 0 0x40
      bits h 8 8 = w.nregs && bits h 16 5 = 0 && bits h 21 2 = w.qcfg.toNat && t.threads = [] && w.index = 0 && w.partition = 0 && !h.testBit 23)] := meetAll (by decide +kernel)

/-- The area of a gang's leader, with item 10, whose first tag names no format. -/
def imaged : State :=
  let s := restored 0x804000 0
  { s with mem := ((table [] [(0x1000, mkExt 2 false true), (0x1008, mkExt 7 false true), (0x1010, mkExt 8 false true), (0x80B00, 9)] s).mem)
           crews := s.crews.map fun c => { c with array := some 0 }, arrays := [MatArray.cleared 0 0] }

theorem test_meets_context_tags : imaged.issued.rangeSteps 0 2 .read false 0 156416 = none ∧ (itemSizes 64 4 0 true).sum = 156416 ∧
    Meets imaged (.rstspl 4) fun s w => let t := s.issued; let h := (t.objSync w.partition 2 0 128).objRead w.partition 2 0 0x40
      bits h 8 8 = w.nregs && h.testBit 23 && (t.arrayOf w).isSome && w.restored &&
        decide (8 < (t.objSync w.partition 2 133888 1).objRead w.partition 2 133888 1) :=
  ⟨rangeSteps_none (by decide +kernel), by decide, meets (by decide +kernel)⟩

/-- A prefix at the start of a code object, before a word. -/
def prefixing (word : Nat) : State :=
  let s := (acting .a id).withCode (leBytes 4 0x3F ++ leBytes 4 word)
  { acting .a id with mem := s.mem, pcbs := s.pcbs, cur := { s.cur with pc := 0 } }

theorem test_meets_prefixes : ((weave id).id = ⟨0, 0⟩) ∧ isOk ((acting .a id).fetch (weave id) .a 0x44) = false ∧
    (match (prefixing 3).fetch (weave id) .a 4 with | .ok x => x = .long 3 && !x.takesPrefix | .error _ => false) = true ∧
    (match (prefixing 0x2D).fetch (weave id) .a 4 with | .ok x => x = .long 0x2D && x.takesPrefix | .error _ => false) = true := by decide +kernel

/-- A record in object 1, and queue 0 of partition 0, device-fed. -/
def launching (q : LaunchQueue → LaunchQueue) (kind size : Nat) (l : List (Nat × DWord)) : State :=
  let s := table [(1, kind + 2 ^ 8 * 1, size, 0x1000)] [(0x1000, mkExt 1 false true)] (acting .a (rega ((6, 1) :: l)))
  { s with pcbs := s.pcbs.map fun p => { p with queues := p.queues.map q } }
def fed (x : LaunchQueue) : LaunchQueue := { x with enable := true, device := true, size := 2 }

theorem test_meets_launching : MeetAll [
    (launching id 1 256 [(8, 16)], .launch 4 6 8, fun _ w => 15 < (w.scal .a 8).toNat), (launching id 1 256 [(8, 15), (4, 128)], .launch 4 6 8, fun _ w => (w.scal .a 4).toNat % 256 = 128),
    (launching id 0 0 [], .launch 4 6 8, fun s w => (s.issued.seeDesc (some 0) w.partition 1).isNone), (launching id 3 256 [], .launch 4 6 8, fun s w => (s.issued.seeDesc (some 0) w.partition 1).any fun x => x.kind ≠ 1),
    (launching fed 1 255 [], .launch 4 6 8, fun s w => (s.issued.seeDesc (some 0) w.partition 1).any fun x => (s.issued.checkAt (some 0) w.partition 1 (some x) .read 256 false 0).isSome),
    (launching id 1 256 [], .launch 4 6 8, fun s w => !(s.issued.launchQueue 0 0).device && (s.issued.seeDesc (some 0) w.partition 1).any fun x => (s.issued.checkAt (some 0) w.partition 1 (some x) .read 256 false 0).isNone),
    (launching (fun q => { fed q with tail := 2, head := 0xFFFFFFFE }) 1 256 [], .launch 4 6 8, fun s _ => (2 ^ 2 ≤ ((s.issued.launchQueue 0 0).tail + 2 ^ 32 - (s.issued.launchQueue 0 0).head) % 2 ^ 32)),
    (launching fed 1 256 [], .launch 4 6 8, fun s w => let u := (s.issued.release 0 .pk).objSync w.partition 1 0 256; let ps := u.objPlaces w.partition 1 0 256
      !ps.any u.placeDown && !ps.any u.poisoned && !(parseRecord (leBytes 256 (u.objRead w.partition 1 0 256))).span)] := meetAll (by decide +kernel)

theorem test_meets_launch_queues : ((fed default).device && (fed default).enable && !(({ (default : LaunchQueue) with enable := true } : LaunchQueue)).device) = true ∧
    (∀ q ∈ ([(default : LaunchQueue), { (default : LaunchQueue) with enable := true, size := 2 }, fed default, { fed default with tail := 2, head := 0xFFFFFFFE }] : List LaunchQueue),
      ((launching (fun _ => q) 1 256 []).launchQueue 0 15) = q) ∧ (0xFFFFFFFE + 2 ^ 32 - 0xFFFFFFFA) % 2 ^ 32 = 2 ^ 2 := by decide +kernel

/-! Engines. -/

/-- The eight words of a descriptor at 64 of the scratchpad, named by register 6; the object in register 8. -/
def engine (words : List Nat) (s : State) : State :=
  let t := (words ++ List.replicate (8 - words.length) (0 : Nat)).zipIdx.foldl (fun (u : State) (x : Nat × Nat) => u.sramWrite 0 (64 + 8 * x.2) 8 x.1) s
  { s with spad := t.spad, weaves := s.weaves.map fun w => rega [(6, 64)] w, pcbs := s.pcbs.map fun p => { p with lim0 := 0x3E00100000 }
           crews := s.crews.map fun c => { c with engines := 32 } }

def issue (s : State) (w : Weave) (i : Instr) : Issue :=
  ⟨w, s.issued.agentOf w .a, s.issued.attrsOf i w, s.issued, fun n => s.issued.sramRead 0 ((s.issued.agentOf w .a).spad 64 + 8 * n) 8⟩

theorem test_meets_engine_commands : MeetAll [
    (acting .a (rega [(8, 0xFE1)]), .nmx 0 6 8, fun s w => !(s.issued.agentOf w .a).reserved 0xFE1 32), (acting .a (rega [(8, 16)]), .scan 0 6 8, fun s w => (s.issued.agentOf w .a).reserved 16 32),
    (acting .a (rega [(6, 0xFC1)]), .cred 0 6 8, fun s w => !(s.issued.agentOf w .a).reserved 0xFC1 64), (acting .a (rega [(6, 32)]), .cbcst 6 8, fun s w => (s.issued.agentOf w .a).reserved 32 64),
    (engine [] (acting .a id), .ckpt 6 8, fun s w => !isOk (issue s w (.ckpt 6 8)).ckpt)] :=
  meetAll (by decide +kernel)

theorem test_meets_engine_operands : MeetAll [
    (engine [1, 0, 0, 64 + 2 ^ 32 * 8 + 2 ^ 49, 128 + 2 ^ 32 * 256] (tensor 64 false (acting .a id)), .tcopy 0 0 0 6 8, fun s w => isOk ((issue s w (.tcopy 0 0 0 6 8)).tcopy true 0 0) && s.issued.threadRoom 0 0 (s.issued.engineLimit w)),
    (engine [1, 0, 0, 64 + 2 ^ 32 * 8 + 2 ^ 49, 128 + 2 ^ 32 * 256] (tensor 64 false (acting .a id)), .tcopy 1 0 0 6 8, fun s w => isOk ((issue s w (.tcopy 1 0 0 6 8)).tcopy false 0 0)),
    (engine [1, 0, 0, 64 + 2 ^ 32 * 8 + 2 ^ 49, 1, 8, 0] (tensor 64 false (acting .a id)), .tcopys 0 6 8, fun s w => isOk ((issue s w (.tcopys 0 6 8)).tcopys 0)),
    (engine [1, 0, 0, 16] (tensor 64 false (acting .a id)), .nmx 3 6 8, fun s w => isOk ((issue s w (.nmx 3 6 8)).nmx 3)), (engine [1, 0, 0, 16, 5, 256] (tensor 64 false (acting .a id)), .scan 2 6 8, fun s w => isOk ((issue s w (.scan 2 6 8)).scan 2)),
    (engine [1, 3, 1] (bundled [{ bundle .committed 4 4 with pin := some 3 }] id), .ckpt 6 8, fun s w => isOk (issue s w (.ckpt 6 8)).ckpt),
    (engine [1 + 2 ^ 32, 0, 32, 16] (tensor 64 false (acting .a id)), .cred 0 6 8, fun s w => isOk ((issue s w (.cred 0 6 8)).cred 0)), (engine [1 + 2 ^ 32, 0, 32, 16] (tensor 64 false (acting .a id)), .cbcst 6 8, fun s w => isOk (issue s w (.cbcst 6 8)).cbcst),
    ({ engine [1, 0, 0, 16] (tensor 64 false (acting .a id)) with crews := (acting .a id).crews }, .nmx 3 6 8, fun s w => isOk ((issue s w (.nmx 3 6 8)).nmx 3) && !s.issued.threadRoom 0 0 (s.issued.engineLimit w))] :=
  meetAll (by decide +kernel)

/-- EngineDescriptors: the words of a command are of 64 bits. -/
theorem test_meets_descriptors (s : State) (w : Weave) (i : Instr) (k : Nat) : (issue s w i).word k < 2 ^ 64 := by
  have : ∀ l : List Byte, leNat l < 2 ^ (8 * l.length) := fun l => by
    induction l with
    | nil => simp [leNat]
    | cons b r ih => simp only [leNat, List.length_cons]; have := b.isLt; rw [Nat.mul_succ, Nat.pow_add]; omega
  simpa [issue, State.sramRead] using this ((List.range 8).map fun j => s.issued.sramByte 0 ((s.issued.agentOf w .a).spad 64 + 8 * k + j))

/-- A thread of an operation. -/
def thread (op : EngineOp) (f : Thread → Thread) : Thread :=
  f { id := 7, weave := ⟨0, 0⟩, crew := 1, part := 0, fn := 0, core := 0, base := 0, op, kind := 3, todo := [0], bytes := 0, locator := 0, scope := .co
      host := false, bundle := none, views := [], fpctl := 0, flags := 0, kept := 0, written := 0, failed := none, stopped := false, matched := true
      since := 0, refused := none, session := 0 }

def fill : EngineOp := .nmx 3 0 1 0 0 0 16 0 0 0

/-- What becomes of a thread's granule 0. -/
def granule (s : State) (th : Thread) : Nat := match s.performGranule th 0 with
  | .ok _ => 0
  | .error (.fails _) => 1
  | .error (.hold _) => 2

theorem test_meets_engine_granules : (∀ f ∈ ([{ thread fill id with stopped := true }, { thread fill id with matched := false }, { thread fill id with todo := [] }] : List Thread),
      ¬(f.stopped = false ∧ f.matched = true ∧ 0 ∈ f.todo)) ∧ ((acting .a id).bundleLive (thread fill id) (1, 1)) = false ∧
    { acting .a id with scheduleEntries := .replicate 64 0x10 }.granuleDue (thread fill id) 0 = true ∧
    { acting .a id with scheduleEntries := .replicate 64 0x10 }.granuleDue (thread (.scan 0 0 1 0 64 0 0 64) fun t => { t with host := true, todo := [0, 1] }) 1 = false ∧
    granule (tensor 64 false (acting .a id)) (thread fill id) = 0 ∧ granule (acting .a id) (thread fill id) = 1 ∧
    granule { tensor 64 false (acting .a id) with caches := [⟨.cluster 5, 512, List.replicate 128 0, 3, 0, 0, .l, .l, none, 0, false⟩] } (thread fill id) = 2 ∧
    (({ acting .a id with threads := [thread fill id] }).threads.find? fun x => x.id = 7) = some (thread fill id) := by decide +kernel

/-- EngineArrivals: a thread that has ended with bytes not performed, and one of a checkpoint; statuses with and without errors. -/
theorem test_meets_engine_arrivals : (thread fill fun t => { t with stopped := true }).stopped = true ∧ (thread (.ckpt 1 3 0 1 0 0 0) fun t => { t with todo := [] }).todo = [] ∧
    2 ^ 26 / 2 ^ 26 % 2 ^ 4 ≠ 0 ∧ 5 / 2 ^ 26 % 2 ^ 4 = 0 := by decide +kernel

/-- EngineElements: values that SCAN compares. -/
theorem test_meets_engine_elements : ((typeFmt 0).decode 0x3F800000).value = some 1 ∧ (typeFmt 2).decode 0x7FC0 = .nan := by
  constructor
  · have : (typeFmt 0).decode 0x3F800000 = .fin false (2 ^ 23) (-23) := by decide +kernel
    rw [this]; norm_num [Fp.value]
  · decide +kernel

/-! Dispatch, ends and registers of the host. -/

/-- A queue 0 of partition 0 whose one accepted launch has a crew to place, on a core that the partition owns. -/
def dispatching (f : Launch → Launch) (crews : List Crew) : State := { State.reset with
  stage := some 2, launches := [f { fetchLaunch .a 2 with next := 0 }], crews
  pcbs := State.reset.pcbs.map fun p => { p with granted := BitVec.allOnes 384, lim0 := 0x60 } }

/-- The state in which the queues of partition 0 have been judged. -/
def judged (s : State) : State := (List.range 16).foldl (fun (u : State) q => u.judge 0 q) s

theorem test_meets_dispatch : State.reset.stage.getD 0 < 2 ∧ (dispatching id []).savedCrews 0 = none ∧
    ((dispatching id [{ fetchCrew 1 2 with state := .saved }]).savedCrews 0).isSome = true ∧
    (match (judged (dispatching id [])).nextQueue 0 with
      | some q => ((judged (dispatching id [])).placeCandidate ((judged (dispatching id [])).front 0 q)).isSome
      | none => false) = true ∧
    (match (judged (dispatching (fun l => { l with record := { l.record with bars := 2048 } }) [])).nextQueue 0 with
      | some q => ((judged (dispatching id [])).placeCandidate ((judged (dispatching (fun l => { l with record := { l.record with bars := 2048 } }) [])).front 0 q)).isNone
      | none => false) = true ∧
    ((judged { dispatching id [] with launches := [] }).nextQueue 0).isNone = true := by decide +kernel

/-- DispatchAndEnds: a weave of which nothing is outstanding and one with a fragment; a launch that is found. -/
theorem test_meets_pending : ((dispatching id []).stage.getD 0 < 2) = False ∧ ({ acting .a id with pending := [⟨5, 0, State.reset.cur, weave id, .vld 0 2 0 4 6 8, ⟨.obj, 1, 4, .read, [], none, none, default⟩, none, none⟩] }.pending.any fun p => p.issuer.weave = (weave id).id) = true := by
  constructor
  · simp [dispatching]
  · decide +kernel

theorem test_meets_ends : ((acting .a id).weave? ⟨0, 0⟩) = some (weave id) ∧ ((weave id).entry 0).isFragment = true ∧
    (let w := weave fun x => { x with aEnded := true, split := .replicate 128 SplitEntry.empty };
      w.aEnded = true ∧ (∀ e ∈ List.range 128, (w.entry e).isFragment = false) ∧ (acting .a id).flights = [] ∧
        (acting .a id).threads = [] ∧ (acting .a id).arrays = []) ∧
    ((acting .a id).launches.find? fun x => x.id = 2) = some (fetchLaunch .a 2) := by decide +kernel

/-- DispatchRegisters: a launch with arguments and a port, on the last core and slot. -/
theorem test_meets_dispatch_registers : let l := { fetchLaunch .a 2 with fn := 255, part := 15, record := { fetchRecord .a with ports := [.d] } }
    15 < 16 ∧ 383 < 384 ∧ l.fn < 256 ∧ l.part < 16 ∧ ((newWeave l (fetchCrew 1 2) 0 383 15 0).port? .d).isSome = true := by decide +kernel
/-! Registers of the host, windows, power, errors. -/

/-- Object 1 of partition 0 in HBM frame 1, and functions bound to partition 0 with that object in their aperture. -/
def windowed (kind flags size : Nat) (apert : DWord) : State :=
  let s := { State.reset with powered := true, stage := some 2, vfMap := .replicate 256 0x80, aperts := .replicate 256 apert }
  table [(1, kind + 2 ^ 8 * flags, size, 0x1000)] [(0x1000, mkExt 1 false true)] s

theorem test_meets_core_splits : State.reset.grantedCore 15 383 = false ∧ (granted State.reset).grantedCore 15 383 = true ∧
    (∀ v ∈ ([7, 3] : List Nat), v % 16 ≤ 7 ∧ v % 16 ≤ 7) ∧ 7 < 8 ∧ ((State.reset.pcb 15).lim0.toNat % 16 < 1) ∧
    (∃ c ∈ (acting .a id).crews, c.core = 0 ∧ c.state ≠ .saved) ∧
    (State.reset.coreStates.toList.getD 383 CoreState.reset).units = (State.reset.coreStates.toList.getD 383 CoreState.reset).active ∧
    (let s : State := { State.reset with coreStates := State.reset.coreStates.map (fun (c : CoreState) => { c with units := 7 }), crews := [{ fetchCrew 1 2 with core := 383, state := .saved }] };
      (∀ c ∈ s.crews, c.core = 383 → c.state = .saved) ∧
      (s.coreStates.toList.getD 383 CoreState.reset).units ≠ (s.coreStates.toList.getD 383 CoreState.reset).active) := by decide +kernel

/-- ControlBlockWrites: the greatest limits, each of them alone exceeded, and the timeouts at the ends of their range. -/
theorem test_meets_control_blocks : let f := fun (v lo n : Nat) => v / 2 ^ lo % 2 ^ n
    let ok := fun (v : Nat) => f v 0 4 ≤ 7 ∧ f v 4 8 ≤ 128 ∧ f v 12 8 ≤ 64 ∧ f v 20 13 ≤ 4096 ∧ f v 33 6 ≤ 32
    let most := 7 + 2 ^ 4 * 128 + 2 ^ 12 * 64 + 2 ^ 20 * 4096 + 2 ^ 33 * 32
    ok most ∧ (∀ k ∈ [0, 4, 12, 20, 33], ¬ok (most + 2 ^ k)) ∧ most < 2 ^ 39 ∧ (∀ k ∈ [1, 4000000], ¬(k = 0 ∨ 4000000 < k)) ∧ 4000001 < 2 ^ 22 := by decide

theorem test_meets_host_windows : ((0 : BitVec 8).getLsbD 7 = false ∧ (State.reset.vfMap.toList.getD 255 0).getLsbD 7 = false) ∧
    ((windowed 1 3 16 1).vfMap.toList.getD 255 0).getLsbD 7 = true ∧ 5 % 8 + 3 ≤ 8 ∧
    ((windowed 1 3 16 7).objDesc 0 7) = none ∧
    (((windowed 1 3 16 1).objDesc 0 1).any fun d => d.kind = 1 && d.nibs = 2 &&
      ((windowed 1 3 16 1).checkAt none 0 1 (some d) .read 8 false 9).isSome && ((windowed 1 1 16 1).checkAt none 0 1 ((windowed 1 1 16 1).objDesc 0 1) .write 8 false 8).isSome &&
      ((windowed 1 3 16 1).checkAt none 0 1 (some d) .read 8 false 8).isNone &&
      (let ps := (windowed 1 3 16 1).placesAt none 0 1 d 8 8
       !(ps.any (·.busy)) && !(ps.any (windowed 1 3 16 1).placeDown) && !(ps.any (windowed 1 3 16 1).poisoned) &&
        ps.any { windowed 1 3 16 1 with poison := [(0x1000F, 1)] }.poisoned)) = true ∧
    State.reset.stage = none ∧ (windowed 1 3 16 1).stage ≠ none ∧ State.reset.powered = false ∧ (windowed 1 3 16 1).powered = true ∧
    2 ≤ (windowed 1 3 16 1).stage.getD 0 := by decide +kernel

/-- WindowWords: a core that a partition owns, a link port and a CXL port; a register of each kind of a virtual function. -/
theorem test_meets_window_words : (granted State.reset).grantedCore 15 383 = true ∧ (State.reset.cxl[3]?).isSome = true ∧
    ({ State.reset with fabric := .replicate 16 ⟨true, 5, 3⟩ } : State).fabric[15]? = some ⟨true, 5, 3⟩ ∧
    (let o := 0x20; o < 0x10000 ∧ o ≠ 0x28 ∧ ¬(0x100 ≤ o ∧ o < 0x300 ∧ o % 32 = 8) ∧ ¬(0x1000 ≤ o ∧ o < 0x1C00) ∧ ¬(0x2000 ≤ o ∧ o < 0x2C00)) := by
  refine ⟨?_, ?_, rfl, ?_⟩ <;> decide +kernel

theorem test_meets_power_and_start : State.reset.powered = false ∧ ({ State.reset with powered := true } : State).powered = true ∧
    (∀ w ∈ [1500, 3400], 1500 ≤ w ∧ w ≤ 3400 ∧ (some 3 : Option Nat) ≠ none) ∧
    (∀ k ∈ [0, 1, 2, 3], ∃ p : Option Nat, k = (match p with
      | none => 0
      | some n => n + 1) ∧ k ≤ 3) ∧ ¬(4 ≤ 3) ∧ State.reset.stageError = 0 ∧ State.reset.stage = none ∧
    ({ State.reset with stage := some 0 } : State).stage ≠ none ∧ 1048575 < 1048576 ∧ ({ State.reset with nextSignature := 1048576 } : State).nextSignature = 1048576 := by
  refine ⟨rfl, rfl, by simp, ?_, by decide, rfl, rfl, by simp, by decide, rfl⟩
  intro k hk
  fin_cases hk
  exacts [⟨none, by decide⟩, ⟨some 0, by decide⟩, ⟨some 1, by decide⟩, ⟨some 2, by decide⟩]

/-- FoundErrors: a threshold that the next error reaches, a record due and none; members without an open version, and one
whose open version an error hits. -/
theorem test_meets_found_errors : ((4 : Nat) ≠ 0 ∧ 4 ∣ 3 + 1 ∧ ¬4 ∣ 4 + 1) ∧ (State.reset.pcb 15).due = 0 ∧
    (({ State.reset with pcbs := State.reset.pcbs.map (fun p => { p with due := 1 }) } : State).pcb 15).due ≠ 0 ∧
    (∀ m ∈ (bundled [] id).members, m.openV = none) ∧
    (let m : MemberLine := ⟨0, 1, 0, 1, 4, none, some ⟨5, List.replicate 128 0, 0⟩, []⟩
     let s := { (bundled [bundle .opened 5 4] id) with members := [m] }
     let a := ((s.logicalPlaces 0 1 0).map (·.home)).headD 0
     s.membersAt a 8 = [(m, 0xFF)] ∧ (s.bundle? 0 1).isSome = true) := by decide +kernel

/-- ColumnSpares: an array with three columns substituted, and one with four. -/
theorem test_meets_column_spares : (State.reset.spares 383 1).used.length = 0 ∧
    (∀ l ∈ ([[1, 2, 3], [1, 2, 3, 4]] : List (List Nat)), l.length < 4 ∨ ¬l.length < 4) := by decide +kernel

/-- FunctionReset: a weave of the function, a flight of it, and a weave of another function, at another slot. -/
theorem test_meets_function_reset :
    let y := weave fun w => { w with id := ⟨0, 1⟩, ctxid := 3 }
    let s := { acting .a id with weaves := [weave id, y], flights := [⟨5, ⟨0, 0⟩, .a, default, .scal 4 9, [], 0, 0, true, 0⟩] }
    (weave id).function = 0 ∧ y.function = 3 ∧ (∀ x ∈ s.weaves, x.function = 0 → x.id ≠ y.id) ∧ (∃ f ∈ s.flights, f.weave = (weave id).id) := by decide +kernel
/-! Waits, landings, split tables, data that return. -/

/-- A state in which a strand of the weave waits. -/
def waiting (st : Strand) (on : WaitOn) (f : Weave → Weave) (s : State := acting st id) : State := { s with
  weaves := s.weaves.map fun w => match st with
    | .a => { f w with aWait := some ⟨on, 0, 0x40, 0⟩ }
    | .c e => (f w).setEntry e { (f w).entry e with kind := .waiting, wait := some ⟨on, 0, 0x40, 0⟩ } }

/-- States in which the strand waits and is not held, and a condition holds of the weave. -/
def Waits (l : List (State × Strand × (State → Weave → Bool))) : Prop := ∀ x ∈ l, ∃ w r, x.1.weave? ⟨0, 0⟩ = some w ∧
  w.waitOf x.2.1 = some r ∧ x.1.waitHeld w x.2.1 = false ∧ x.2.2 x.1 w = true

theorem waits {l : List (State × Strand × (State → Weave → Bool))} (h : l.all (fun x => (x.1.weave? ⟨0, 0⟩).any fun w =>
    (w.waitOf x.2.1).isSome && !x.1.waitHeld w x.2.1 && x.2.2 x.1 w) = true) : Waits l := fun x hx => by
  obtain ⟨w, hw, hp⟩ := (Option.any_eq_true ..).mp (List.all_eq_true.mp h x hx)
  simp only [Bool.and_eq_true, Bool.not_eq_true', Option.isSome_iff_exists] at hp
  obtain ⟨⟨⟨r, hr⟩, hh⟩, hq⟩ := hp
  exact ⟨w, r, hw, hr, hh, hq⟩

theorem test_meets_wakes : Waits [
    (waiting .a (.queueHead 2 1) (queue 2 1 [entry (.scalar 5) true]), .a, fun _ w => (w.queue 2).entries.any (·.complete)), (waiting .a (.queueHead 2 1) id, .a, fun _ w => (w.queue 2).entries = []),
    (waiting (.c 0) (.queueRoom 3) (queue 3 1 []), .c 0, fun _ w => decide ((w.queue 3).entries.length < (w.queue 3).depth)), (waiting (.c 0) (.queueRoom 3) (queue 3 1 [entry (.scalar 5) true]), .c 0, fun _ w => decide ((w.queue 3).depth ≤ (w.queue 3).entries.length)),
    (waiting .a (.gather 2 1 3) (fun w => queue 3 1 [] (queue 2 1 [entry (.scalar 5) true] w)), .a, fun _ w => decide ((w.queue 3).entries.length < (w.queue 3).depth)), (waiting .a (.gather 2 1 3) id, .a, fun _ w => (w.queue 2).entries = []),
    (waiting .a (.scatter 1 2 1) (fun w => queue 1 1 [entry (.scalar 5) true] (queue 2 1 [entry (.scalar 5) true] w)), .a, fun _ w => (w.queue 1).entries.any (·.complete)), (waiting .a (.scatter 1 2 1) id, .a, fun _ w => (w.queue 1).entries = []),
    (waiting (.c 0) (.portIn .d) id (ported (fun _ => [5]) (.c 0) id), .c 0, fun _ w => (w.port? .d).any fun f => f.lane 95 = [5]), (waiting (.c 0) (.portIn .d) id (ported (fun _ => []) (.c 0) id), .c 0, fun _ w => (w.port? .d).any fun f => f.lane 95 = []),
    (waiting (.c 0) (.portOut .w) id (ported (fun _ => []) (.c 0) id), .c 0, fun s w => (s.partner w .w).any fun x => s.portRoom x (landsIn .w) (targetLane .w 0)),
    (waiting (.c 0) (.portOut .w) id (ported (fun _ => List.replicate 8 5) (.c 0) id), .c 0, fun s w => (s.partner w .w).any fun x => !s.portRoom x (landsIn .w) (targetLane .w 0)),
    (waiting .a (.launchRoom 15) id, .a, fun s w => decide ((s.launchQueue w.partition 15).tail = 0)), (waiting .a .again id, .a, fun _ _ => true),
    (waiting (.c 0) (.barrier 96 true) id ((acting (.c 0) id).sramWrite 0 96 1 1), .c 0, fun s w => (s.sramByte 0 (s.crewSpad w + 96)).getLsbD 0),
    (waiting (.c 0) (.barrier 96 true) id ((acting (.c 0) id).sramWrite 0 96 1 0), .c 0, fun s w => !(s.sramByte 0 (s.crewSpad w + 96)).getLsbD 0),
    (waiting .a (.completion 64 true 0x80) id ((acting .a id).sramWrite 0 64 1 1), .a, fun s _ => (s.sramByte 0 64).getLsbD 0), (waiting .a (.completion 64 true 0x80) id ((acting .a id).sramWrite 0 64 1 0), .a, fun s _ => !(s.sramByte 0 64).getLsbD 0),
    (waiting .a (.word 0 0 ⟨.acq, .co, .spd, .ca, false, false⟩ 5 8 .user) id ((acting .a id).sramWrite 0 0 4 6), .a, fun s w => let t := s.actAs ⟨0, 0⟩ .a 0x40
      isOk (t.observeWord (t.agentOf w .a) ⟨.acq, .co, .spd, .ca, false, false⟩ (t.waitvReq w ⟨.acq, .co, .spd, .ca, false, false⟩ 0 0))),
    (waiting .a (.word 7 0 ⟨.acq, .co, .obj, .ca, false, false⟩ 5 8 .user) id, .a, fun s w => let t := s.actAs ⟨0, 0⟩ .a 0x40
      !isOk (t.observeWord (t.agentOf w .a) ⟨.acq, .co, .obj, .ca, false, false⟩ (t.waitvReq w ⟨.acq, .co, .obj, .ca, false, false⟩ 7 0)))] :=
  waits (by decide +kernel)

/-- Wakes, Watchdogs: a wait that its crew holds; one that has lasted its limit, one cycle less, and one of limit 0. -/
theorem test_meets_watchdogs :
    (let s := waiting .a .again id; let t := ({ s with crews := s.crews.map fun c => { c with state := CrewState.halting } } : State);
     (t.weave? ⟨0, 0⟩).any (t.waitHeld · .a)) = true ∧ (2 : DWord) ≠ 0 ∧ 3 + 64 * 2 ≤ 131 ∧ ¬3 + 64 * 2 ≤ 130 ∧
    Waits [(waiting .a (.completion 64 true 0x80) (fun w => { w with pwatch := 1 }) { acting .a id with time := 64 }, .a, fun s w => decide (w.pwatch ≠ 0 ∧ 0 + 64 * w.pwatch.toNat ≤ s.time)),
      (waiting (.c 0) (.portIn .d) (fun w => { w with pwatch := 1 }) { ported (fun _ => []) (.c 0) id with time := 63 }, .c 0, fun s w => (w.port? .d).isSome && !decide (0 + 64 * w.pwatch.toNat ≤ s.time)),
      (waiting (.c 0) (.portOut .w) (fun w => { w with pwatch := 0 }) (ported (fun _ => []) (.c 0) id), .c 0, fun s w => (s.partner w .w).isSome && decide (w.pwatch = 0)),
      (waiting (.c 0) (.shuffle 5 3 LaneReg.zero default) (fun w => { w with pwatch := 1 }) { acting (.c 0) id with time := 64 }, .c 0, fun _ w => (w.entry 0).mask ≠ 0)] := by
  refine ⟨?_, by decide, by decide, by decide, waits ?_⟩ <;> decide +kernel

/-- Landings: no push in transit toward the FIFO, and one behind another weave's. -/
theorem test_meets_landings :
    let s := ported (fun _ => []) (.c 0) id
    let m : Transit := ⟨⟨0, 0⟩, 1, 0, .n, 5, LaneReg.zero⟩
    let t := { s with transits := [{ m with index := 1 }, m] }
    (s.transits = [] ∧ t.transits = [{ m with index := 1 }] ++ m :: []) ∧ ((t.weave? ⟨0, 0⟩).any fun w => m.crew = w.crew && m.index = w.index && (w.port? .n).isSome) = true := by
  refine ⟨⟨rfl, rfl⟩, ?_⟩; decide +kernel

/-- A weave with fragments: 0 of all lanes at its join 1, and 127 outside the window. -/
def fragments (f : Weave → Weave) : Weave := weave fun w => f (((w.setEntry 0 ⟨.ready, 0x40, 3, 3, some 1, none, false⟩).setEntry 1
  ⟨.join, 0x40, 3, 0, none, none, false⟩).setEntry 127 ⟨.ready, 0x80, 4, 4, none, none, false⟩)

theorem test_meets_split_events : let s := acting (.c 0) fun _ => fragments id
    (s.weave? ⟨0, 0⟩ = some (fragments id) ∧ (fragments id).cMode = .user ∧ ((fragments id).entry 0).kind = .ready ∧ (fragments id).splitBase = 0) ∧
    (let v := fragments fun w => w.setEntry 0 SplitEntry.empty; (v.entry 127).kind = .ready ∧ ∀ n ∈ List.range 128, (v.entry n).kind = .ready → ¬(0 ≤ n ∧ n < 16) ∧ 127 ≤ n) ∧
    (let v := fragments fun w => (w.setEntry 0 SplitEntry.empty).setEntry 127 SplitEntry.empty; ∀ n ∈ List.range 128, (v.entry n).kind ≠ .ready) ∧
    (let x := (fragments id).entry 0; x.done = false ∧ x.link = some 1 ∧ ((fragments id).entry 1).kind = .join ∧ s.issueHeld (fragments id) (.c 0) = false ∧
      ((fragments id).entry 1).addr = x.addr ∧ x.owned = ((fragments id).entry 1).owned ∧ ∀ k ∈ List.range 128, ((fragments id).entry k).kind ≠ .parked) ∧
    ((fragments fun w => w.setEntry 1 { w.entry 1 with owned := 7 }).entry 0).owned ≠ ((fragments fun w => w.setEntry 1 { w.entry 1 with owned := 7 }).entry 1).owned ∧
    ((fragments fun w => w.setEntry 1 { w.entry 1 with addr := 0x44 }).entry 1).addr ≠ ((fragments fun w => w.setEntry 1 { w.entry 1 with addr := 0x44 }).entry 0).addr := by decide +kernel

/-- A flight of the weave to a destination. -/
def flight (dest : Dest) (bad : LaneMask) (st : Strand := .a) (certain : Bool := false) (lost : LaneMask := 0) : Flight := ⟨5, ⟨0, 0⟩, st, default, dest, [some farBase], bad, lost, certain, 0⟩

/-- ReturnedData: each destination, no lane poisoned, and the ports up or the acceptance given. -/
theorem test_meets_returned_data : (∀ d ∈ ([.scal 4 9, .scal2 4 5 9 8, .lanes 4 3 LaneReg.zero, .accept none, .queue 2 1 LaneReg.zero] : List Dest),
      let s := { acting .a id with flights := [flight d 0] }
      s.flights.find? (fun x => x.id = 5) = some (flight d 0) ∧ ∀ p ∈ [0, 1, 2, 3], s.portDown p = false) ∧ (flight (.scal 4 9) 1).bad ≠ 0 ∧
    (let s := { acting .a id with cxl := .replicate 4 ⟨false, true, 1, 0, [], [], []⟩ }
     s.portDown 0 = true ∧ (flight (.scal 4 9) 0).certain = false ∧ (flight (.scal 4 9) 0).lanesOn 0 ≠ 0 ∧ (flight (.scal 4 9) 0 .a true).certain = true) := by
  decide +kernel

/-- FailedData: poison and an overdue port, in each stream, the crew running and halting. -/
theorem test_meets_failed_data : let s := { acting .a id with flights := [flight (.lanes 4 3 LaneReg.zero) 1 (.c 0)], time := 3300, cxl := .replicate 4 ⟨false, true, 1, 0, [], [], []⟩ }
    let w := weave id
    (s.weave? ⟨0, 0⟩ = some w ∧ (s.crew? w.crew).any (·.state = .run)) ∧ (flight (.lanes 4 3 LaneReg.zero) 1 (.c 0)).bad = 1 ∧ (w.entry 0).isFragment = true ∧ (w.entry 0).owned &&& 1 ≠ 0 ∧
    w.cMode = .user ∧ s.portDown 0 = true ∧ (flight (.lanes 4 3 LaneReg.zero) 1 (.c 0)).since + 3300 * ((s.cxl.toList[0]?).map (·.timeout)).getD 0 ≤ s.time ∧
    (flight (.scal 4 9) 0 .a).strand = .a ∧ ((flight (.scal 4 9) 0).lanesOn 0).getLsbD 0 = true ∧ (flight (.scal 4 9) 0 .a false 1).lost.getLsbD 0 = true ∧
    (({ s with crews := s.crews.map fun c => { c with state := CrewState.halting } } : State).crew? w.crew).any (·.state = .halting) = true := by decide +kernel
/-! Caches, homes, far memory, re-tiling, flips. -/

/-- A cached line of bytes k. -/
def cached (h : Holder) (line : Nat) (st : LineState) (dirty : BitVec 128) (stamp : BitVec 16 := 0) : CacheLine :=
  ⟨h, line, List.replicate 128 7, 3, dirty, stamp, st, st, none, 0, false⟩

def caching (l : List CacheLine) : State := { State.reset with caches := l }

/-- A request of one register's bytes at offset 8, and whether a store of it and the load that follows are performed. -/
def word8 (sp : Space) (object : Nat) : Req := ⟨sp, object, 4, .write, [(0, false, 8)], none, none, default⟩
def meetsOwn (s : State) (q : Req) (c : CachePolicy) : Bool :=
  let g := s.agentOf (weave id) .a
  let a : Attrs := ⟨.rlx, .di, q.space, c, false, false⟩
  match s.store' (weave id) g a q fun _ => 0xA1B2C3D4 with
  | .error _ => false
  | .ok u => match u.load ⟨0, 0⟩ g a { q with need := .read } with
    | .error _ => false
    | .ok r => decide (r.value 0 = 0xA1B2C3D4)

/-- Object 1, a byte object in HBM, or host memory, and some cached lines. -/
def plain (l : List CacheLine) : State :=
  let s := object 1 3 256 (acting .a id)
  { s with mem := (s.memStore 0x1000 (leBytes 8 (mkExt 1 false true))).mem, scheduleEntries := .replicate 64 0x10
           hostGrant := [(0, 4096)], caches := l }

theorem test_meets_own_stores : (plain []).objDesc 0 1 ≠ none ∧ ((plain []).objDesc 0 1).all (fun d => d.kind ≠ 2) = true ∧
    (plain []).otb = [] ∧ (plain []).members = [] ∧ (plain []).cur.moment = .now ∧
    meetsOwn (plain []) (word8 .obj 1) .nt = true ∧ meetsOwn (plain [⟨.l1 0, 512, List.replicate 128 7, 3, 0xFFFF, 0, .plain, .plain, none, 0, false⟩]) (word8 .obj 1) .ca = true ∧
    meetsOwn (plain []) (word8 .hst 0) .nt = true := by decide +kernel

/-- R156: an access of both halves of a line whose upper half the cluster does not hold fetches that half. -/
theorem test_missing_half_is_fetched :
    let s := plain [⟨.cluster 0, 512, List.replicate 128 7, 1, 0, 0, .s, .s, none, 0, false⟩]
    let t : State := { s with mem := (s.memStore 65600 (leBytes 8 0x1122334455667788)).mem }
    (match t.load ⟨0, 0⟩ (t.agentOf (weave id) .a) ⟨.rlx, .di, .obj, .ca, false, false⟩
        ⟨.obj, 1, 8, .read, [(0, false, 56), (1, false, 64)], none, none, default⟩ with
      | .error _ => false
      | .ok r => decide (r.value 0 = 0x0707070707070707) && decide (r.value 1 = 0x1122334455667788)) = true := by decide +kernel

/-- R120, R129, R163: a store of weave scope meets its stream's load after the layout of its region has changed: the L1's line, which
holds the element where the layout before put it, is given up first. -/
theorem test_store_met_after_layout_change :
    let s : State := { laid false 0 0 id 4 with scheduleEntries := .replicate 64 0x10 }
    let a : Attrs := ⟨.rlx, .wv, .obj, .ca, false, false⟩
    let q : Req := ⟨.obj, 1, 4, .write, [(0, false, 12)], none, none, default⟩
    (match s.store' (weave id) (s.agentOf (weave id) .a) a q fun _ => 0xA1B2C3D4 with
      | .error _ => false
      | .ok u =>
        let v : State := { u with mapGen := 1, regions := u.regions.map fun r => { r with layout := 1, generation := 1, layoutSince := 1 } }
        match v.load ⟨0, 0⟩ (v.agentOf (weave id) .a) a { q with need := .read } with
          | .error _ => false
          | .ok r => decide (r.value 0 = 0xA1B2C3D4) && u.caches.any (fun c => c.line = 512 && decide (c.dirty ≠ 0)) &&
              r.state.caches.all (fun c => c.dirty = 0)) = true := by decide +kernel

theorem test_meets_home_requests :
    (∃ c ∈ (caching [cached (.cluster 5) 9 .l 0]).tracked 9, c.state = .l ∧ c.holder ≠ .cluster 3) ∧ (caching []).tracked 9 = [] ∧
    (¬∃ c ∈ (caching [cached (.cluster 5) 9 .m 1]).tracked 9, c.state = .l ∧ c.holder ≠ .cluster 3) ∧ (caching [cached (.cluster 5) 9 .m 1]).lineAt (.cluster 3) 9 = none ∧
    ((caching [cached (.cluster 5) 9 .m 1]).tracked 9).all (fun c => c.state ≠ .l) = true ∧ ((caching [cached (.cluster 3) 9 .l 0]).lineAt (.cluster 3) 9).any (·.state = .l) = true ∧
    (∀ c ∈ (caching [cached (.cluster 5) 9 .s 0]).tracked 9, c.dirty = 0) ∧ (∀ n ∈ [11, 12], ({ State.reset with
      fills := [⟨9, List.replicate n (.cluster 5, false)⟩] } : State).fills.find? (fun x => x.line = 9) = some ⟨9, List.replicate n (.cluster 5, false)⟩) ∧
    (∀ f ∈ State.reset.fills, f.line ≠ 9) ∧ (caching []).lineMoving 9 = false ∧ (caching []).lineHeld 9 = false ∧
    (caching []).occupancy (.cluster 3) < (caching []).capacity (.cluster 3) ∧ trackerOf (.cluster 3) 9 = some none ∧ bankOf (.cluster 80) 9 = some (.bank 3 9) ∧
    (∃ x ∈ ([(.cluster 3, 9, 4)] : List (Holder × Nat × Nat)), x.1 = .cluster 3 ∧ x.2.1 = 9 ∧ 35 < x.2.2 + 32) ∧ (⟨9, [(.cluster 3, false)]⟩ : SliceFill).waiters = [(.cluster 3, false)] := by decide +kernel

/-- Replies: a core present and one that is not; a map published and one that is not. -/
theorem test_meets_replies : (∃ x, ([(0, [5])] : List (BitVec 16 × List Nat)).find? (fun y => y.1 = 0) = some x ∧ sliceIn x.2 9 ∉ ([] : List Nat)) ∧ homeDie (128 * 9) = 0 ∧
    { State.reset with sliceMaps := .replicate 4 ⟨[], 1, [(0, [5])]⟩ }.mapSeen 383 0 = 0 ∧ State.reset.hasCore 383 = true ∧ State.reset.hasCore 384 = false ∧ (State.reset.sliceMaps.toList.getD 3 SliceMap.reset).generation = 0 ∧
    (({ State.reset with sliceMaps := .replicate 4 ⟨[], 1, [(0, [5])]⟩ } : State).sliceMaps.toList.getD 3 SliceMap.reset).generation ≠ 0 := by decide +kernel

theorem test_meets_write_backs : let c := cached (.cluster 3) 9 .m 5
    (caching [c]).lineAt (.cluster 3) 9 = some c ∧ ¬isFar (128 * 9) = true ∧ c.state ≠ .l ∧ (caching [c]).MemOk ∧ c.tag = none ∧
    (∀ x ∈ (caching [c]).caches, x.line = 9 → x.holder ≠ .cluster 3 → x.dirty = 0) ∧ (caching [c]).caches.filter (fun x => x.line = 9) = [c] ∧
    (let f := cached (.cluster 3) (2 ^ 53) .l 5; isFar (128 * f.line) = true ∧ f.state = .l ∧ f.last + 65536 ≤ 65536 ∧ (caching [f]).portDown (frameOf (128 * f.line) % 4) = false ∧
      ({ caching [f] with cxl := .replicate 4 ⟨false, true, 1, 0, [], [], []⟩ } : State).portDown (frameOf (128 * f.line) % 4) = true) ∧
    (let f := cached (.cluster 3) (2 ^ 53) .m 5; portOf (128 * f.line) = some 0 ∧ ([] : List CacheLine).length < 4096 ∧ 4096 ≤ (List.replicate 4096 f).length) ∧
    ((128 * 9) = 1152 ∧ isHost (128 * 9) = false ∧ isHost (128 * 2 ^ 60) = true ∧ portOf (128 * 2 ^ 60) = none) ∧ (let r : RetryRec := ⟨0, ⟨0, 0⟩, .a, 9, 4, 4, false⟩; r.since + 4096 ≤ 4100 ∧ ¬r.since + 4096 ≤ 4099) ∧ (cached (.l1 3) 9 .plain 5 1).stamp ≠ State.reset.mapGen := by
  decide +kernel

theorem test_meets_banks_and_walks : (∀ x ∈ State.reset.sleeping, x.1 ≠ .cluster 3) ∧
    ({ State.reset with sleeping := [(.cluster 3, 5)] } : State).sleeping.find? (fun x => x.1 = .cluster 3) = some (.cluster 3, 5) ∧
    16384 < ((16390 : BitVec 16) - 5).toNat ∧ ((16389 : BitVec 16) - 5).toNat ≤ 16384 ∧ (State.reset.objDesc 0 0).isNone = true ∧
    ((windowed 1 3 16 1).objDesc 0 1).any (fun d => d.frames = 1 && ((windowed 1 3 16 1).otbFind 0 0 1 (some 0)).isNone) = true ∧
    (let s := windowed 1 3 16 1; (({ s with otb := [⟨.l1 0, 0, 1, 0, [], 0, 0⟩] } : State).otbFind 0 0 1 (some 0)).isSome) = true := by decide +kernel

theorem test_meets_far_ports : (let f := flight (.scal 4 9) 0; ∃ x ∈ [f], x.certain = false ∧ x.lanesOn 0 ≠ 0 ∧ x.since + 3300 * 10000 ≤ 33000000) ∧
    (∀ p ∈ [0, 1, 2, 3], State.reset.portDown p = false) ∧ ({ State.reset with cxl := .replicate 4 ⟨false, true, 1, 0, [], [], []⟩ } : State).portDown 3 = true ∧
    State.reset.farFrames (fun f => f % 4 = 3) = [] ∧ State.reset.flights = [] := by decide +kernel

/-- Extents: one granted, one whose release is asked for, and one frame behind the port that an object maps. -/
theorem test_meets_extents : let c : CxlPort := ⟨true, false, 10000, 4, [(0, 4)], [(0, 4)], []⟩
    let s : State := { table [(1, 1 + 2 ^ 8 * 3, 16, 0x1000)] [(0x1000, mkExt 1 true true)] State.reset with cxl := .replicate 4 c }
    (s.cxl.toList.map (·.capacity)).sum + 1 ≤ Config.farFrames ∧ Config.farFrames < (s.cxl.toList.map (·.capacity)).sum + 134217728 ∧
    s.cxl.toList[3]? = some c ∧ (0, 4) ∈ c.granted ∧ (4, 1) ∉ c.granted ∧ (0, 4) ∈ c.releasing ∧ c.down = false ∧ (∀ m ∈ s.members, m.spilled = []) ∧
    (0, 4) ∉ ({ c with releasing := [] } : CxlPort).releasing ∧ ({ c with down := true } : CxlPort).down = true ∧
    s.MemOk ∧ s.mappedFrames = [(0, 1, 0)] ∧ s.caches = [] ∧ (s.objDesc 0 1).any (fun d => extFar (s.extWord d 0) && extFrame (s.extWord d 0) % 4 = 1 &&
      decide (0 ≤ extFrame (s.extWord d 0) / 4 ∧ extFrame (s.extWord d 0) / 4 < 0 + 4) && s.ringSlots 0 = 0 && d.list = 0x1000 && (s.pcb 0).tableBase = 0) = true := by decide +kernel

/-- ForcedRemovals: an object whose words and entry are apart, and an extent that no version lives in. -/
theorem test_meets_forced_removals : let c : CxlPort := ⟨true, false, 10000, 4, [(0, 4)], [], []⟩
    let s : State := { table [(1, 1 + 2 ^ 8 * 3, 16, 0x1000)] [(0x1000, mkExt 1 true true)] State.reset with cxl := .replicate 4 c }
    s.cxl.toList[1]? = some c ∧ (0, 4) ∈ c.granted ∧ (8, 4) ∉ c.granted ∧ s.caches = [] ∧ s.MemOk ∧ s.members = [] ∧
    (s.objDesc 0 1).any (fun d => decide ((s.pcb 0).tableBase + 64 * 1 + 64 ≤ d.list)) = true := by decide +kernel

/-- LayoutScores: an eligible code beside the current one. -/
theorem test_meets_layout_scores : ((laid false 0 0 id).objDesc 0 1).any (fun d => d.eligible 0 63 = false && d.eligible 0 1 && d.eligible 0 0) = true := by decide +kernel

/-- A region that waits for a change: with a frame of its own residue in the pool, and without. -/
def requesting (frame : Nat) (f : Region → Region) : State :=
  let s := laid false 0 0 fun r => f { r with request := some (1, true) }
  let pool := leBytes 8 (1 + 2 ^ 8 * 3) ++ leBytes 8 16 ++ leBytes 16 0 ++ leBytes 8 0x1100 ++ leBytes 24 0
  { s with mem := (((s.memStore 0xC0 pool).memStore 0x1100 (leBytes 8 (mkExt 4 false true))).memStore 0x40000 (leBytes 8 (mkExt frame false true))).mem
           pcbs := s.pcbs.map fun p => { p with tableEntries := 4, poolObject := 3 }, time := 3300 }

theorem test_meets_window_ends : State.reset.time < 3300 * (State.reset.window + 1) ∧
    3300 * ((requesting 17 id).window + 1) ≤ (requesting 17 id).time ∧ State.reset.regions = [] ∧ State.reset.tracks = [] ∧
    (∀ p ∈ [(17, true), (18, false)], let s := requesting p.1 id
      s.tracks = [] ∧ (s.objDesc 0 1).any (fun d => match s.regions with
        | [r] => r.state = .stable && r.request = some (1, true) && s.movable d r.id.region && decide (Config.retileClaim ≤ Config.retileBudget * popBits 512 s.channels.toNat / 512) && !s.regionHeld r.id d &&
          (r.lastChange.all fun n => decide (8 ≤ s.window + 1 - n)) &&
          ((({ s with window := s.window + 1, claimed := 0 } : State).setRegion { r with streak := none, rivals := [] }).takeSites 0 ((d.regionFrames 0).map fun f => extFrame (s.extWord d f))).isSome = p.2
        | _ => false) = true) ∧
    ((requesting 17 fun r => { r with lastChange := some 0 }).regions.any fun r => r.lastChange.any fun n => decide (¬8 ≤ (requesting 17 id).window + 1 - n)) = true := by decide +kernel

/-- A region half-way through a change to column-major, its new frame another. -/
def retiling (c : Nat) (done : BitVec 64) : State :=
  laid false 0 0 (fun r => { r with state := .retiling, target := 1, done, newFrames := [17], request := none }) c

theorem test_meets_section_copies : (laid false 0 0 id).regions.any (fun r => r.state ≠ .retiling) = true ∧
    ((retiling 64 0).objDesc 0 1).any (fun d => (retiling 64 0).regions.any fun r => r.state = .retiling && sectionCount d 0 = 64 && !r.done.getLsbD 0) = true ∧
    ((retiling 64 (BitVec.allOnes 63 |>.setWidth 64)).objDesc 0 1).any (fun d => (retiling 64 (BitVec.allOnes 63 |>.setWidth 64)).regions.any fun r =>
      sectionCount d 0 = 63 + 1 && !r.done.getLsbD 63 && (List.range 63).all fun k => r.done.getLsbD k) = true := by decide +kernel

/-- SectionCopies: the places of a section of a small tensor, which hold one row in each frame. -/
theorem test_meets_section_places : let s := retiling 1 0
    s.MemOk ∧ s.caches = [] ∧ s.poison = [] ∧ (s.objDesc 0 1).any (fun d => (s.region? ⟨0, 1, 0⟩).any fun r =>
      let old : Nat → List Place := fun e => (s.setRegion { r with busy := none }).elemPlaces none 0 1 d e
      let new : Nat → List Place := fun e => (s.setRegion { r with busy := none, done := 1 }).elemPlaces none 0 1 d e
      let es := (List.range (d.elemsOf 0)).filter fun e => sectionOf d e = 0
      es.length = 32 && sectionCount d 0 = 2 && (es.all fun e => (old e).map (·.half.isSome) = (new e).map (·.half.isSome) && decide ((new e).map fun (x : Place) => (x.home, x.half)).Nodup) &&
      ((es.flatMap old).all fun x => (es.flatMap new).all fun y => x.home ≠ y.home) && decide ((es.flatMap new).map fun (x : Place) => (x.home, x.half)).Nodup &&
      (es.flatMap new).all fun x => x.half.isNone) = true := by decide +kernel

/-- Flips: a line of no member, a member of another handle, and the versions of aborted, open and committed generations. -/
theorem test_meets_flips : let m : MemberLine := ⟨0, 1, 0, 1, 4, none, some ⟨5, List.replicate 128 0, 0⟩, []⟩
    let s := fun (b : Bundle) => { (bundled [b] id) with members := [m] }
    ((bundled [] id).member? 0 1 0) = none ∧ ((s (bundle .opened 5 4)).member? 0 1 0) = some m ∧ m.handle ≠ 2 ∧ ({ m with openV := none } : MemberLine).openV = none ∧
    ((s (bundle .opened 5 4)).bundle? 0 1) = some (bundle .opened 5 4) ∧ (5 ∈ ({ bundle .aborted 5 4 with aborted := [5] } : Bundle).aborted) ∧
    (5 ∉ (bundle .opened 5 4).aborted ∧ (bundle .opened 5 4).committed < 5 ∧ 5 ≤ (bundle .committed 5 5).committed) ∧ (s (bundle .committed 5 5)).caches = [] ∧ (s (bundle .committed 5 5)).MemOk ∧
    (let ps := (windowed 1 3 128 1).logicalPlaces 0 1 0; ps.length = 128 ∧ (∀ x ∈ ps, x.half = none) ∧ (ps.map (·.home)).Nodup) ∧ (List.replicate 128 (0 : Byte)).length = 128 := by decide +kernel
/-! Encodings, the step, faults, frames. -/

theorem test_meets_encodings : encode (.add 0 10 29) = some (.long 0x0000A743) ∧ encode (.vaddN 3 40) = some (.short 0x1D00) ∧
    (InstrWord.long 0x0000A743).decode = .instr (.add 0 10 29) ∧ decodeBytes (leBytes 4 0x0000A743 ++ [5]) = .ok (.add 0 10 29, [5]) := by
  decide +kernel

/-- Slot 0 is the next of its core, the strand the first of its stream that can issue, no join is due, and a condition holds of the word
that it fetches. -/
noncomputable def fetches (s : State) (st : Strand) (p : State → Weave → InstrWord → Bool) : Bool :=
  s.schedule.head? = some (.issue ⟨0, 0⟩ st.stream) && (s.weave? ⟨0, 0⟩).any fun w =>
    let r := s.tickOver.noteSlot ⟨0, 0⟩ st.stream
    (slotOrder (s.tickOver.lastSlot 0 st.stream)).head? = some 0 && r.mayIssue w st && (w.strands st.stream).contains st &&
    ((w.strands st.stream).takeWhile (· ≠ st)).all (fun x => (r.tryStrand w x).isNone) && (match st with
      | .a => true
      | .c e => !w.atJoin e) && (match r.fetch w st (w.pc st).toNat with
      | .ok x => p ((r.onWeave ⟨0, 0⟩ fun y => y.noteIssue st).atIssue w st x.bytes) (w.noteIssue st) x
      | .error _ => false)

noncomputable def decodes (i : Instr) (s : State) (w : Weave) (x : InstrWord) : Bool :=
  x.decode = .instr i && !s.scoreboarded w s.cur.strand i

/-- StepRunsDecoded: a member of each stream, a halfword, words that are none, a reserved member, and a prefix with its successor. -/
theorem test_meets_step : fetches (State.reset.withFetchWord 32 0x0000A743) .a (decodes (.add 0 10 29)) = true ∧
    fetches (State.reset.withFetchWord 16 0x1D00) (.c 0) (decodes (.vaddN 3 40)) = true ∧
    fetches (State.reset.withFetchWord 32 1) .a (fun _ _ x => x.decode = .unassigned && x.bytes = 4) = true ∧
    fetches (State.reset.withFetchWord 32 0x70000013) .a (decodes .rte) = true ∧
    fetches (State.reset.withFetchWord 32 0x01000003) .a (fun _ _ x => x.decode = .reserved (.add 0 0 0)) = true := by
  refine ⟨?_, ?_, ?_, ?_, ?_⟩ <;> decide +kernel

/-- The same weave with other code bytes where it fetches. -/
noncomputable def coded (st : Stream) (bs : List Byte) (f : Weave → Weave) : State :=
  let s := State.reset.withFetchWord 32 0x0000A743
  { s.memStore 0x10000 bs with weaves := s.weaves.map f, schedule := [.issue ⟨0, 0⟩ st] }

/-- StepRunsDecoded: a halfword in the A-stream, a fetch that fails, and a prefix before a member that it suits. -/
theorem test_meets_step_prefix : fetches (coded .a [0, 0x1D, 0, 0] id) .a (fun _ _ x => x.bytes = 2) = true ∧
    ((coded .a [0, 0x1D, 0, 0] fun w => { w with aPc := 0x1000 }).weave? ⟨0, 0⟩).any (fun w => match (coded .a [] id).fetch w .a 0x1000 with
      | .ok _ => false
      | .error _ => true) = true ∧
    fetches (coded .a (leBytes 4 0x00053DBF ++ [0x43, 0xA7, 0, 0]) id) .a (fun s w x => x.decode = .instr (.prefixWord 0 1 2 3 6 6) && match s.fetch w .a 4 with
      | .ok y => y.decode = .instr (.add 0 10 29)
      | .error _ => false) = true := by
  refine ⟨?_, ?_, ?_⟩ <;> decide +kernel

/-- Turns: an event, the passing of time, and an issue slot of a weave that is not there. -/
theorem test_meets_turns : Instr.powerGood.isEvent = true ∧ (Instr.add 0 10 29).isEvent = false ∧ State.reset.weave? ⟨0, 0⟩ = none ∧
    (∀ w ∈ State.reset.weaves, State.reset.splitOpen w = false) ∧ 2 ≤ ({ State.reset with stage := some 2 } : State).stage.getD 0 ∧
    ((({ (coded .a [] id) with rr := 0 } : State).tickOver.pick 0 .a).any fun x => x.1 ≠ 5) = true := by decide +kernel

/-- StepKeepsMemoryForm, StepAnswers: memories in their form, and a step with a next state. -/
theorem test_meets_memory_form : ({ State.reset with schedule := [.pass 5] } : State).MemOk ∧ (match step { State.reset with schedule := [.pass 5] } with
    | .next t => t.time = 0 && t.tick = 1
    | _ => false) = true := by
  constructor <;> decide +kernel

/-- ChecksInOrder: each check failed alone, and RegisterFrames: members that write one register of each kind. -/
theorem test_meets_checks : (Instr.vaddN 3 40).streams.allows .a = false ∧ (Instr.mapgen 4 0 8).supervisorOnly = true ∧ (weave id).mode .a = .user ∧
    (Instr.prefixWord 0 0 0 0 0 5).wellFormed .c = false ∧ ((Instr.vaddN 63 40).operands .c).all (Opnd.inBound 16) = false ∧
    (Instr.add 0 10 29).scalarDest = some 29 ∧ (Instr.vaddN 3 40).laneDest = some 40 := by decide +kernel

theorem test_meets_register_frames : MeetAll [(acting .a id, .add 5 10 29, fun s _ => s.cur.strand.inTable = true), (acting (.c 0) id, .add 29 10 5, fun s _ => s.cur.strand.inTable = true),
    (acting (.c 0) sup, .add 3 10 5, fun s _ => s.cur.strand.inTable = true), (acting (.c 127) id, .vaddN 3 40, fun s w => s.cur.strand.inTable = true && !(w.act (.c 127)).getLsbD 0)] := meetAll (by decide +kernel)

/-- FaultEntry, DoubleFaults: a fault of each stream in each mode. -/
theorem test_meets_faults : ∀ st ∈ ([.a, .c 0, .c 127] : List Strand), st.inTable = true ∧ (acting st id).weave? ⟨0, 0⟩ = some (weave id) ∧ (weave id).mode st = .user ∧
    (weave id).fltrec.toNat + 128 ≤ 0x82000 ∧ (acting st sup).weave? ⟨0, 0⟩ = some (weave sup) ∧ (weave sup).mode st = .supervisor ∧ (weave sup).saved = false := by decide +kernel

/-- Returns, Traps: RTE in user mode, and in supervisor mode with each kind of record, in each stream. -/
theorem test_meets_returns : (weave id).mode .a = .user ∧ MeetAll (([(.a, 0x80000), (.c 0, 0x80040)] : List (Strand × Nat)).flatMap fun x =>
      ([(0, 0), (0xFF, 0), (0x13, 5), (0x13, 4)] : List (Nat × Nat)).map fun r => ((acting x.1 sup).sramWrite 0 x.2 8 (r.1 + 2 ^ 32 * r.2), .rte, fun s w =>
        s.sramRead 0 (w.fltrec.toNat + 64 * Strand.number x.1) 8 = r.1 + 2 ^ 32 * r.2)) ∧
    Pass (acting .a id) [.trap 0xFFF, .brk] ∧ Pass (acting (.c 0) sup) [.trap 0xFFF, .brk] := by
  refine ⟨?_, meetAll ?_, pass ?_, pass ?_⟩ <;> decide +kernel
/-! One step each, the results from the spec's rules and its worked cases. -/

/-- What one step makes of a weave that fetches the word given. -/
noncomputable def after (nbits w : Nat) (p : State → Weave → Bool) : Bool := match step (State.reset.withFetchWord nbits w) with
  | .next t => (t.weave? ⟨0, 0⟩).any (p t)
  | _ => false

theorem test_step_addi : after 32 0x0004C305 (fun _ w => w.scal .a 12 = 1 && w.pc .a = 4) = true := by decide +kernel

/-- R367, R249: TRAP 0x100 enters slot 0x12 with the PC of the next word and its code in the record. -/
theorem test_step_trap : after 32 0x60100013 (fun t w => w.aMode = .supervisor && w.pc .a = 0x480 && t.sramRead 0 0x80000 1 = 0x12 &&
    t.sramRead 0 0x80004 4 = 4 && t.sramRead 0 0x8000C 4 = 0x100) = true := by decide +kernel

/-- R105: a word of no member is ILLEGAL, and keeps its own PC. -/
theorem test_step_illegal : after 32 1 (fun t w => w.pc .a = 0x40 && t.sramRead 0 0x80000 1 = 1 && t.sramRead 0 0x80004 4 = 0) = true := by decide +kernel
theorem test_step_exit : after 32 0x20000013 (fun _ w => w.aEnded) = true := by decide +kernel

/-- What a member makes of a small state. -/
def makes (s : State) (i : Instr) (p : State → Weave → Bool) : Bool := match exec i s with
  | .next t => (t.weave? ⟨0, 0⟩).any (p t)
  | _ => false

theorem test_add_wraps : makes (acting .a (rega [(4, 0xFFFFFFFFFFFFFFFF), (6, 1)])) (.add 4 6 8) (fun _ w => w.scal .a 8 = 0) = true := by decide +kernel
theorem test_sub_order : makes (acting .a (rega [(4, 1), (6, 5)])) (.sub 4 6 8) (fun _ w => w.scal .a 8 = 4) = true := by decide +kernel
theorem test_zero_register : makes (acting .a (rega [(4, 7)])) (.add 4 4 0) (fun _ w => w.scal .a 0 = 0 && w.pc .a = 0x44) = true := by decide +kernel
theorem test_em_write : makes (acting (.c 0) (regc [(4, 5), (6, 0)])) (.add 6 4 29) (fun _ w => (w.act (.c 0)).getLsbD 0 && !(w.act (.c 0)).getLsbD 1 && (w.act (.c 0)).getLsbD 2) = true := by decide +kernel

/-- Lanes of two registers added under an entry mask of lane 3 alone. -/
theorem test_vadd_masked : makes (acting (.c 0) fun w => { w.setEntry 0 { w.entry 0 with mask := 8 } with
      vRegs := w.vRegs.set 1 (Vector.replicate 96 0xFFFFFFFF) |>.set 2 (Vector.replicate 96 3) }) (.vadd 7 1 2 3)
    (fun _ w => laneAt (w.lane 3) 3 = 2 && laneAt (w.lane 3) 2 = 0) = true := by decide +kernel
theorem test_vadd_i16_wraps : makes (acting (.c 0) fun w => { w with vRegs := w.vRegs.set 1 (Vector.replicate 96 0x0001FFFF) |>.set 2 (Vector.replicate 96 0x00010001) })
    (.vaddI16 7 1 2 3) (fun _ w => laneAt (w.lane 3) 95 = 0x00020000) = true := by decide +kernel

/-- 1 + 2^-24 ties to 1 (R69). -/
theorem test_fadd_ties : makes (acting (.c 0) fun w => { w with vRegs := w.vRegs.set 1 (Vector.replicate 96 0x3F800000) |>.set 2 (Vector.replicate 96 0x33800000) })
    (.fadd 7 1 2 3) (fun _ w => laneAt (w.lane 3) 0 = 0x3F800000) = true := by decide +kernel

/-- The worked copy of "Engines and Near-Memory Operations": BINIT sets the object to one expected arrival. -/
theorem test_binit : makes (acting .a (rega [(4, 1), (6, 0x80)])) (.binit 4 6) (fun s _ => s.sramRead 0 0x80 8 = 0x0000000100010000 && s.sramRead 0 0x88 8 = 0) = true := by
  decide +kernel

/-- A page fault of an object that the table does not hold: OBJ_BOUND with the handle and the offset (R110, R248). -/
theorem test_load_obj_bound : makes (acting .a (rega [(4, 0x10), (6, 7)])) (.lds 0 0 0 4 6 8) (fun s w => w.aMode = .supervisor && s.sramRead 0 0x80000 1 = 5 &&
    s.sramRead 0 0x80008 4 = 7 && s.sramRead 0 0x80010 8 = 0x10) = true := by decide +kernel

/-- The 8 × 8 tensor of R119's worked case. -/
def square8 (d : ObjDesc) : ObjDesc := { d with d2 := 8, d3 := 8, size := 256 }

/-- R119, R122: element (3, 5) under two layouts; a column run, whose best layout is column-major. -/
theorem test_layouts : slot 1 8 8 29 = 43 ∧ slot 2 8 8 29 = 29 ∧ ((tensor 64 false State.reset).objDesc 0 1).any (fun d =>
    let fs : List Family := [⟨8, 1, 32, [5, 13, 21, 29, 37, 45, 53, 61]⟩]
    let n := scoreOf (square8 d) 0 fs
    n 0 = 2 && n 2 = 2 && n 1 = 1 && n 0x22 = 1 && bestOf (square8 d) 0 0 fs = 1) = true := by decide +kernel

/-- The worked check of "Matrix Arrays": near 2^18, F26 has a spacing of 2. -/
theorem test_f26 : f26Sum [f32Value 0x48800000, f32Value 0x3F800000] = 0x48800000 ∧ f26Sum [f32Value 0x40000000, f32Value 0x48800000] = 0x48800040 ∧
    f26Sum [f32Value 0x48800040, f32Value 0x3F800000] = 0x48800080 ∧ f32Sum [f32Value 0x48800000, f32Value 0x3F800000] = 0x48800020 := by decide +kernel

/-- R141: a split takes effect once no crew is resident. -/
theorem test_split_change : (match exec (.csramSplitChange 0) { State.reset with coreStates := State.reset.coreStates.map fun (c : CoreState) => { c with units := 4 } } with
    | .next t => (t.coreStates.toList.getD 0 CoreState.reset).active = 4 && (t.coreStates.toList.getD 1 CoreState.reset).active = 0
    | _ => false) = true := by decide +kernel

/-- SHAKE256 of the empty message, its first 32 bytes (FIPS 202; R273). -/
theorem test_shake256 : leBytes 32 (shake256 []).toNat = [0x46, 0xB9, 0xDD, 0x2B, 0x0B, 0xA8, 0x8D, 0x13, 0x23, 0x3B, 0x3F, 0xEB, 0x74, 0x3E, 0xEB, 0x24,
    0x3F, 0xCD, 0x52, 0xEA, 0x62, 0xB8, 0x1B, 0x82, 0xB5, 0x0C, 0x27, 0x64, 0x6E, 0xD5, 0x76, 0x2F] := by decide +kernel
/-! ### Held accesses, and the forms that the statements name besides -/

/-- Core 0's L1 with a dirty line; a schedule slot that names partition 0. -/
def soiled (s : State) : State := { s with caches := [⟨.l1 0, 512, List.replicate 128 7, 3, 1, 0, .plain, .plain, none, 0, false⟩] }
def slotted (s : State) : State := { s with scheduleEntries := .replicate 64 0x10 }

/-- The object that a WAIT names was flipped last by a release of package scope. -/
def flipped (core a : Nat) (s : State) : State := { s with flipScopes := [(s.objectKey core a, .sp)] }

/-- Unhindered: an access that acquires over a clean L1, one over a dirty L1 with a slot, and a bundled one that BREG admits. -/
theorem test_meets_unhindered : (via .acq .spd (acting .a id)).Unhindered (.lds 0 2 0 4 0 8) (weave id) ∧
    (slotted (soiled (via .sc .spd (acting .a id)))).Unhindered (.lds 0 2 0 4 0 8) (weave id) ∧
    (let f := fun (w : Weave) => { w with breg := 1, part := some (1, 1) }
     let s := bundled [bundle .opened 1 0] f
     ({ s with cur := { s.cur with attrs := some ⟨.rlx, .di, .spd, .ca, false, true⟩ } } : State).Unhindered (.sts 0 2 4 0 8) (weave fun w => rega [(6, 1)] (f w))) := by
  unfold State.Unhindered; decide +kernel

/-- Releases and acquires that have lines to send, with a slot and without. -/
theorem test_meets_held_fences : MeetAll [
    (soiled (acting .a id), .fence 2 4, fun s w => s.issued.fenceHeld w.partition w.id.core .di), (slotted (soiled (acting .a id)), .fence 2 4, fun s w => !s.issued.fenceHeld w.partition w.id.core .di),
    (flipped 0 32 (soiled ((acting .a (rega [(4, 32)])).sramWrite 0 32 1 0)), .wait 4, fun s w => s.issued.fenceHeld w.partition w.id.core (s.issued.flipScope w.id.core ((s.issued.agentOf w .a).spad 32))),
    (flipped 0 32 (slotted (soiled ((acting .a (rega [(4, 32)])).sramWrite 0 32 1 0))), .wait 4, fun s w => !s.issued.fenceHeld w.partition w.id.core (s.issued.flipScope w.id.core ((s.issued.agentOf w .a).spad 32))),
    (via .rel .obj (soiled (ported (fun _ => []) (.c 0) id)), .npush 0 4 1, fun s w => s.issued.fenceHeld w.partition w.id.core .di && (s.issued.partner w .e).any fun x => (List.range 96).all fun l => s.issued.portRoom x .w l),
    (via .acq .obj (soiled (ported (fun _ => [7]) (.c 0) id)), .npop 1 4, fun s w => s.issued.fenceHeld w.partition w.id.core .di && (w.port? .e).any fun f => f.lanes.all fun l => l ≠ []),
    (soiled (acting .a (fun w => rega [(8, 5)] (mdef 0x58 w))), .waitv 4 0 8, fun _ w => (waitvAttrs (.waitv 4 0 8) (w.mdef .a)).any fun a => a.space = .spd)] := meetAll (by decide +kernel)

/-- A drain point whose weave is resident, with a dirty line of the victim core, without a slot and with one. -/
theorem test_meets_held_drains : let f : Flight := ⟨5, ⟨0, 0⟩, .a, default, .drain 0 .sy, [], 0, 0, true, 0⟩
    (({ soiled (acting .a id) with flights := [f] } : State).weave? f.weave).any (fun x => (soiled (acting .a id)).fenceHeld x.partition 0 .sy) = true ∧
    ((slotted (soiled (acting .a id))).fenceHeld 0 0 .sy = false) := by decide +kernel

/-- Exits: a fragment below two joins, one of them with another weave's lanes. -/
def nested (w : Weave) : Weave :=
  ((w.setEntry 0 { w.entry 0 with mask := 3, link := some 1 }).setEntry 1 ⟨.join, 0x80, 7, 0, some 2, none, false⟩).setEntry 2
    ⟨.join, 0x90, BitVec.allOnes 96, 0, none, none, false⟩

theorem test_meets_exit_chains : MeetAll [(acting (.c 0) nested, .exit, fun _ w => let js := [1, 2]
      (w.entry 0).link = js.head? && (w.entry 1).link = some 2 && (w.entry 2).link = none && (w.entry 0).owned &&& ~~~(w.entry 0).mask ≠ 0),
    (acting (.c 0) fun w => (nested w).setEntry 0 { (nested w).entry 0 with owned := 3 }, .exit, fun _ w => (w.entry 0).owned &&& ~~~(w.entry 0).mask = 0)] := meetAll (by decide +kernel)

/-- MTC to CHKINJ: a latch that holds a member of the weave and one of another. -/
theorem test_meets_injection_write : MeetAll [
    ({ acting (.c 0) sup with crews := (acting (.c 0) sup).crews.map fun c => { c with latch := [arrival 0 .mgang (0, 0), arrival 1 .mgang (0, 0)] } }, .mtc 4 8, fun s w => (s.crew? w.crew).any fun c => c.latch.map (·.weave) = [⟨0, 0⟩, ⟨0, 1⟩])] :=
  meetAll (by decide +kernel)

/-- Objects for accesses outside scratchpad: object 1 has 256 bytes in HBM, or is the tensor of 64 × 64 f32. -/
def bytes256 (f : Weave → Weave) (st : Strand := .a) : State :=
  let s := plain []
  { s with cur := { s.cur with strand := st }, weaves := [weave f] }
/-- Object 1 a tensor of 64 × 64 f32, or of i32. -/
def tiled (type : Nat) (f : Weave → Weave) (st : Strand := .a) : State :=
  let s := slotted (tensor 64 false (acting st f))
  { s with mem := (s.memStore 0x40 (leBytes 1 (2 + 4 * type + 2 ^ 5))).mem }

/-- Pairs: a handle in host space, a start that is aligned for one half alone, one that passes, and coordinates of a tensor. -/
theorem test_meets_pair_accesses :
    let ask := fun (s : State) (w : Weave) (f : BitVec 1) (need : Need) (h : Nat) =>
      s.issued.reqRow w (s.issued.attrsOf (.ldc f 4 6 8) w) h (w.offset s.cur.strand f 4) [0, 1] 8 need (some (w.act s.cur.strand)) accLoad
    let passes := fun (s : State) (w : Weave) (f : BitVec 1) (need : Need) (h : Nat) => isOk (s.issued.checkReq (s.issued.agentOf w s.cur.strand) (ask s w f need h))
    MeetAll [(via .rlx .hst (acting .a (rega [(6, 1)])), .ldc 0 4 6 8, fun s w => (s.issued.attrsOf (.ldc 0 4 6 8) w).space = .hst && w.scal .a 6 ≠ 0),
      (via .rlx .obj (bytes256 (rega [(4, 256), (6, 1)])), .ldc 0 4 6 8, fun s w => !passes s w 0 .read 1), (via .rlx .obj (bytes256 (rega [(4, 8), (6, 1)])), .stc 0 4 6 8, fun s w => passes s w 0 .write 1),
      (via .rlx .obj (bytes256 (rega [(4, 240), (6, 1)])), .ldc 0 4 6 8, fun s w => passes s w 0 .read 1 && isOk (s.issued.load w.id (s.issued.agentOf w .a) (s.issued.attrsOf (.ldc 0 4 6 8) w) (ask s w 0 .read 1))),
      (via .rlx .hst (bytes256 (rega [(4, 4080)])), .stc 0 4 6 8, fun s w => passes s w 0 .write 0 && isOk (s.issued.store' w (s.issued.agentOf w .a) (s.issued.attrsOf (.stc 0 4 6 8) w) (ask s w 0 .write 0) fun _ => 0))] :=
  meetAll (by decide +kernel)

/-- A row of lanes, and an indexed one, as lane and queue forms ask for them. -/
def rowReq (s : State) (w : Weave) (i : Instr) (f : BitVec 1) (h n : Nat) (need : Need) : Req :=
  s.issued.reqRow w (s.issued.attrsOf i w) h (w.offset s.cur.strand f 4) (lanesOf (w.act s.cur.strand)) n need none accLoad
def indexReq (s : State) (w : Weave) (i : Instr) (h : Nat) (need : Need) : Req :=
  let base := w.scal s.cur.strand 7
  s.issued.reqAt w (s.issued.attrsOf i w) h (.at' base) (gatherLanes base.toNat 2 0 2 (w.lane 10) (w.lane 11) (lanesOf (w.act s.cur.strand))) 4 need none accGather
def loads (s : State) (w : Weave) (i : Instr) (q : Req) : Bool := isOk (s.issued.load w.id (s.issued.agentOf w s.cur.strand) (s.issued.attrsOf i w) q)
def stores (s : State) (w : Weave) (i : Instr) (q : Req) : Bool :=
  isOk (s.issued.store' w (s.issued.agentOf w s.cur.strand) (s.issued.attrsOf i w) q fun _ => 0)

/-- Lanes 0 and 95 alone act. -/
def ends (w : Weave) : Weave := w.setEntry 0 { w.entry 0 with mask := 1 + 2 ^ 95 }

/-- Lanes in object and host space: a handle that host space refuses, none acting, an access that ends at the object's end, one past it,
the same for gathers and scatters, and coordinates of a tensor. -/
theorem test_meets_lane_accesses : MeetAll [
    (via .rlx .hst (acting (.c 0) (regc [(6, 1)])), .vld 0 2 0 4 6 8, fun s w => (s.issued.attrsOf (.vld 0 2 0 4 6 8) w).space = .hst && w.scal (.c 0) 6 ≠ 0 && w.act (.c 0) ≠ 0),
    (via .rlx .hst (acting (.c 0) fun w => regc [(6, 1)] (w.setEntry 0 { w.entry 0 with mask := 0 })), .vst 0 2 4 6 8, fun s w => (s.issued.attrsOf (.vst 0 2 4 6 8) w).space = .hst && w.act (.c 0) = 0),
    (via .rlx .obj (bytes256 (regc [(4, 160), (6, 1)]) (.c 0)), .vld 0 0 1 4 6 8, fun s w => loads s w (.vld 0 0 1 4 6 8) (rowReq s w (.vld 0 0 1 4 6 8) 0 1 1 .read)),
    (via .rlx .obj (bytes256 (regc [(4, 161), (6, 1)]) (.c 0)), .vld 0 0 0 4 6 8, fun s w => !loads s w (.vld 0 0 0 4 6 8) (rowReq s w (.vld 0 0 0 4 6 8) 0 1 1 .read)),
    (via .rlx .obj (bytes256 (regc [(4, 160), (6, 1)]) (.c 0)), .vst 0 0 4 6 8, fun s w => stores s w (.vst 0 0 4 6 8) (rowReq s w (.vst 0 0 4 6 8) 0 1 1 .write)),
    (via .rlx .obj (bytes256 (regc [(4, 161), (6, 1)]) (.c 0)), .vst 0 0 4 6 8, fun s w => !stores s w (.vst 0 0 4 6 8) (rowReq s w (.vst 0 0 4 6 8) 0 1 1 .write)),
    (via .rlx .obj (bytes256 (fun w => regc [(6, 1), (7, 252)] (ends w)) (.c 0)), .vgth 2 0 2 10 6 8, fun s w => loads s w (.vgth 2 0 2 10 6 8) (indexReq s w (.vgth 2 0 2 10 6 8) 1 .read)),
    (via .rlx .obj (bytes256 (fun w => regc [(6, 1), (7, 256)] (ends w)) (.c 0)), .vgth 2 0 2 10 6 8, fun s w => !loads s w (.vgth 2 0 2 10 6 8) (indexReq s w (.vgth 2 0 2 10 6 8) 1 .read)),
    (via .rlx .hst (bytes256 (fun w => regc [(6, 0), (7, 4092)] (ends w)) (.c 0)), .vsct 2 0 2 10 6 8, fun s w => stores s w (.vsct 2 0 2 10 6 8) (indexReq s w (.vsct 2 0 2 10 6 8) 0 .write)),
    (via .rlx .obj (tiled 0 (fun w => regc [(6, 1), (4, 63), (5, 63)] (w.setEntry 0 { w.entry 0 with mask := 1 })) (.c 0)), .vld 1 2 0 4 6 8, fun s w => loads s w (.vld 1 2 0 4 6 8) (rowReq s w (.vld 1 2 0 4 6 8) 1 1 4 .read)),
    (via .rlx .obj (tiled 0 (fun w => regc [(6, 1), (5, 64)] (w.setEntry 0 { w.entry 0 with mask := 1 })) (.c 0)), .vld 1 2 0 4 6 8, fun s w => !loads s w (.vld 1 2 0 4 6 8) (rowReq s w (.vld 1 2 0 4 6 8) 1 1 4 .read))] :=
  meetAll (by decide +kernel)

/-- Queue forms in object space: a new entry, one to refill, and the stores; a handle that host space refuses. -/
theorem test_meets_queue_accesses :
    let all := fun (s : State) (w : Weave) (i : Instr) (need : Need) => s.issued.reqRow w (s.issued.attrsOf i w) 1 (w.offset .a 0 4) (List.range 96) 1 need none accLoad
    let at' := fun (s : State) (w : Weave) (i : Instr) (need : Need) => s.issued.reqAt w (s.issued.attrsOf i w) 1 (.at' 0) (gatherLanes 0 2 0 2 LaneReg.zero LaneReg.zero (List.range 96)) 4 need none accGather
    MeetAll [
      (via .rlx .hst (acting .a fun w => rega [(6, 1)] (queue 1 4 [] w)), .ldq 0 2 0 4 6 1, fun s w => (s.issued.attrsOf (.ldq 0 2 0 4 6 1) w).space = .hst && w.scal .a 6 ≠ 0),
      (via .rlx .obj (bytes256 fun w => rega [(4, 160), (6, 1)] (queue 1 4 [] w)), .ldq 0 0 0 4 6 1, fun s w => loads s w (.ldq 0 0 0 4 6 1) (all s w (.ldq 0 0 0 4 6 1) .read)),
      (via .rlx .obj (bytes256 fun w => rega [(4, 161), (6, 1)] (queue 1 1 [⟨7, .vector LaneReg.zero, false, some 0x40, []⟩] w)), .ldq 0 0 0 4 6 1, fun s w => !loads s w (.ldq 0 0 0 4 6 1) (all s w (.ldq 0 0 0 4 6 1) .read) && (w.queue 1).entries.any fun y => y.refill = some s.cur.pc),
      (via .rlx .obj (bytes256 fun w => rega [(6, 1)] (queue 3 1 [entry (.vector LaneReg.zero) true] (queue 1 1 [] w))), .gthq 2 0 2 4 6 3 1, fun s w => loads s w (.gthq 2 0 2 4 6 3 1) (at' s w (.gthq 2 0 2 4 6 3 1) .read) && (w.queue 3).entries.all fun y => y.complete && y.data = .vector LaneReg.zero),
      (via .rlx .obj (bytes256 fun w => rega [(6, 1)] (queue 1 1 [⟨7, .vector LaneReg.zero, false, some 0x40, [LaneReg.zero]⟩] w)), .gthq 2 0 2 4 6 3 1, fun s w => loads s w (.gthq 2 0 2 4 6 3 1) (at' s w (.gthq 2 0 2 4 6 3 1) .read) && ((w.queue 1).entries.find? fun y => y.refill = some s.cur.pc).any fun y => y.kept = [LaneReg.zero]),
      (via .rlx .obj (bytes256 fun w => rega [(4, 160), (6, 1)] (queue 3 1 [entry (.vector LaneReg.zero) true] w)), .stq 0 0 4 6 3, fun s w => stores s w (.stq 0 0 4 6 3) (all s w (.stq 0 0 4 6 3) .write)),
      (via .rlx .obj (bytes256 fun w => rega [(6, 1)] (queue 2 1 [entry (.vector LaneReg.zero) true] (queue 3 1 [entry (.vector LaneReg.zero) true] w))), .sctq 2 0 2 4 6 2 3, fun s w => stores s w (.sctq 2 0 2 4 6 2 3) (at' s w (.sctq 2 0 2 4 6 2 3) .write))] :=
  meetAll (by decide +kernel)

/-- Atomics outside scratchpad: a .fadd of integers, a handle that host space refuses, the object's last word, one past it; and lanes. -/
theorem test_meets_object_atomics :
    let one := fun (s : State) (w : Weave) (i : Instr) (h n : Nat) => isOk (s.issued.atomic w (s.issued.agentOf w s.cur.strand) (s.issued.attrsOf i w)
      (s.issued.reqAt w (s.issued.attrsOf i w) h (.at' (w.scal s.cur.strand 4)) [(0, false, ((w.scal s.cur.strand 4).toNat : Int))] n .both (some (w.act s.cur.strand)) accAtomic) fun _ _ => some 1)
    let each := fun (s : State) (w : Weave) (i : Instr) => isOk (s.issued.atomic w (s.issued.agentOf w s.cur.strand) (s.issued.attrsOf i w)
      (s.issued.reqAt w (s.issued.attrsOf i w) 1 (.at' 0) ((lanesOf (w.act s.cur.strand)).map fun l => (l, false, 0)) 4 .both (some (w.act s.cur.strand)) accAtomic) fun _ _ => some 1)
    MeetAll [
      (via .rlx .obj (tiled 2 (rega [(6, 1)])), .amo 9 0 4 6 8, fun s w => (s.issued.seeDesc (some w.id.core) w.partition 1).any fun x => x.kind = 2 && x.type ≠ 0),
      (via .rlx .obj (tiled 2 (regc [(6, 1)]) (.c 0)), .vamo 9 4 6 8, fun s w => (s.issued.seeDesc (some w.id.core) w.partition 1).any (fun x => x.kind = 2 && x.type ≠ 0) && w.act (.c 0) ≠ 0),
      (via .rlx .hst (acting .a (rega [(6, 1)])), .cas 0 4 6 8, fun s w => (s.issued.attrsOf (.cas 0 4 6 8) w).space = .hst && w.scal .a 6 ≠ 0),
      (via .ar .obj (slotted (bytes256 (rega [(4, 252), (6, 1)]))), .amo 9 0 4 6 8, fun s w => one s w (.amo 9 0 4 6 8) 1 4), (via .ar .obj (slotted (bytes256 (rega [(4, 256), (6, 1)]))), .amo 0 0 4 6 8, fun s w => !one s w (.amo 0 0 4 6 8) 1 4),
      (via .rlx .hst (bytes256 (rega [(4, 4088)])), .cas 1 4 6 8, fun s w => one s w (.cas 1 4 6 8) 0 8),
      (via .rlx .obj (bytes256 (fun w => regc [(6, 1)] (ends w)) (.c 0)), .vamo 0 4 6 8, fun s w => each s w (.vamo 0 4 6 8)), (via .rlx .obj (bytes256 (fun w => regc [(6, 1)] (ends w)) (.c 0)), .vcas 4 6 8, fun s w => each s w (.vcas 4 6 8))] :=
  meetAll (by decide +kernel)

/-- The coordinator's answers: what a weave asks, and the bundle in each of its states, with room for one more and without. -/
theorem test_meets_coordinator_answers :
    let w := weave (rega [(6, 1)])
    let at' := fun (l : List Bundle) => bundled l id
    let opens := fun (s : State) (p : State → Bool) => s.weave? ⟨0, 0⟩ = some w ∧ p (s.objSync 0 1 0 64) = true
    let some' := fun (p : Bundle → Bool) (u : State) => (u.bundle? 0 1).any p
    opens (at' [bundle .opened 1 0]) (some' fun x => x.state = .opened) ∧ opens (at' [bundle .committing 1 0]) (some' fun x => x.state = .committing) ∧
    opens (at' [bundle .committed 0xFFFFFFFE 0xFFFFFFFE]) (some' fun x => x.state = .committed && x.opened = 0xFFFFFFFE) ∧
    opens (at' [bundle .aborted 1 0]) (some' fun x => x.state = .aborted && x.opened ≠ 0xFFFFFFFE) ∧
    opens { at' [] with pcbs := (at' []).pcbs.map fun p => { p with bundlesNow := 1 } } (fun u => (u.bundle? 0 1).isNone && u.bundles.length < 4096 && (u.bundles.filter fun x => x.part = 0).length < (u.pcb 0).bundlesNow && u.objRead 0 1 0 64 = 0) ∧
    opens { at' [{ bundle .opened 1 0 with handle := 2 }] with pcbs := (at' []).pcbs.map fun p => { p with bundlesNow := 1 } } (fun u => (u.bundle? 0 1).isNone && (u.bundles.filter fun x => x.part = 0).length = (u.pcb 0).bundlesNow) ∧
    ((at' [bundle .committed 1 1]).bundle? 0 1).any (fun x => x.state ≠ .opened) = true ∧
    ((at' [{ bundle .opened 1 0 with joined := 2 }]).bundle? 0 1).any (fun x => x.joined = x.participants) = true ∧
    ((at' [bundle .opened 1 0]).bundle? 0 1).any (fun x => x.joined ≠ x.participants && some ((1 : BitVec 32), BitVec.ofNat 32 x.opened) = some (1, 1)) = true ∧
    (let v := weave fun w => { w with part := some (1, 1) }
     v.part = some (1, 1) ∧ ((at' [bundle .opened 1 0]).bundle? v.partition 1).any (fun x => 1 ∉ x.aborted && x.closed + 1 ≠ x.participants) = true ∧
       ((at' [{ bundle .opened 2 0 with aborted := [1] }]).bundle? v.partition 1).any (fun x => 1 ∈ x.aborted) = true ∧ ((at' []).bundle? v.partition 1) = none) := by decide +kernel

/-- The pins that a coordinator answers: no bundle, one pinned at the generation and at another, generation 0, one not yet committed. -/
theorem test_meets_pin_answers : let at' := fun (l : List Bundle) => bundled l id
    let b := bundle .committed 4 4
    ((at' []).bundle? 0 1) = none ∧ ((at' [{ b with pin := some 3 }]).bundle? 0 1).any (fun x => x.pin = some 3) = true ∧ ((at' [b]).bundle? 0 1).any (fun x => x.pin ≠ some 0 && x.committed < 5) = true ∧
    (let s := at' [b]; (s.bundle? 0 1).any (fun x => ((s.settleBundle x 4).spillFor x 4).isSome && ((s.settleBundle x 4).membersOf x).isEmpty) = true) ∧
    (∀ v ∈ [0x100000003, 0x1FFFFFFFF, 3], v < 2 ^ 33) ∧ 2 ^ 32 ≤ 0x100000003 ∧ 3 < 2 ^ 32 := by decide +kernel

/-- A result that waits for a release of its weave, with a slot and without. -/
theorem test_meets_coordinator_flights : let f := flight (.coord 4 .bclose) 0
    (({ soiled (acting .a id) with flights := [f] } : State).flights.find? fun x => x.id = f.id) = some f ∧ (soiled (acting .a id)).coordHeld f.weave .bclose = true ∧
    (slotted (soiled (acting .a id))).coordHeld f.weave .bclose = false ∧ (soiled (acting .a id)).coordHeld f.weave (.bopen 1 2) = false ∧ f.bad = 0 ∧ f.lost = 0 := by decide +kernel

/-- Failures of a poisoned load: of a fragment that owns a lane, of a weave that was stopped, of one whose mask another load writes, and
in a crew that halts, has halted or saves. -/
theorem test_meets_failures : let f := flight (.lanes 4 3 LaneReg.zero) 1 (.c 0)
    let s := fun (g : Weave → Weave) (l : List Flight) => ({ acting (.c 0) g with flights := f :: l } : State)
    let m := { flight (.scal 29 9) 0 (.c 0) with id := 6 }
    ((1 : LaneMask) ≠ 0 ∧ (1 : LaneMask) = f.bad) ∧ (s id []).faultHeld f 1 = false ∧ (s id [m]).faultHeld f 1 = true ∧
    ((s (fun w => { w with stopped := true }) []).weave? ⟨0, 0⟩).any (·.stopped) = true ∧ ((s id []).weave? ⟨0, 0⟩).any (fun w => !w.stopped && (w.entry 0).isFragment && (w.entry 0).owned &&& 1 ≠ 0) = true ∧
    (∀ k ∈ [CrewState.halting, .halted, .saving], (({ s id [] with crews := (s id []).crews.map fun c => { c with state := k } } : State).crew? 1).any (fun c => c.state = .halting || c.state = .halted || c.state = .saving) = true) ∧
    (let p : Pending := ⟨5, 0, State.reset.cur, weave id, .gthq 2 0 2 4 6 3 1, word8 .obj 1, none, some (1, 7)⟩
     (([p].find? fun x => x.id = 5).bind (·.slot)) = some (1, 7)) ∧
    ((s id []).flights.find? fun x => x.id = f.id) = some f ∧ (s id []).maskFlies ⟨0, 0⟩ (.c 0) none = false ∧ (s id [m]).maskFlies ⟨0, 0⟩ (.c 0) none = true := by decide +kernel

/-- A fragment at a join that its own handler made, and at one that it did not. -/
theorem test_meets_handler_joins : let w := fragments fun w => { w with cMode := .supervisor, supJoins := 2 }
    (((w.entry 1).addr = (w.entry 0).addr ∧ w.supJoins.getLsbD 1 = decide (w.cMode = .supervisor)) ∧
      ¬((fragments fun w => { w with cMode := .supervisor }).supJoins.getLsbD 1 = true)) ∧ (w.entry 0).owned = (w.entry 1).owned := by decide +kernel

/-- Homes: which holders a line may have, a map that a retired slice is left by, a read that misses and one that does not, and room. -/
theorem test_meets_homes : let s := caching []
    let r : State := { s with sliceMaps := .replicate 4 ⟨[0], 1, [(0, (List.range 224))]⟩ }
    s.mayHold (.l1 0) 9 = false ∧ s.mayHold (.cluster 3) 9 = true ∧ s.mayHold (.bank 3 (sliceHash 9 % 16)) 9 = true ∧ s.mayHold (.bank 0 (sliceHash 9 % 16)) 9 = false ∧
    s.remapHolder (.cluster 3) 9 = none ∧ (r.remapHolder (.cluster 3) 9).isSome = true ∧ s.sliceMisses (.cluster 3) 9 = true ∧
    (let v : State := { s with resident := [⟨homeDie (128 * 9), s.homeSlice 9, 9, 0⟩] }; v.sliceMisses (.cluster 3) 9 = false) ∧
    s.occupancy (.slice 0 (s.homeSlice 9)) < s.capacity (.slice 0 (s.homeSlice 9)) ∧ (∀ b, bankOf (.cluster 80) 9 = some b → s.occupancy b < s.capacity b ∧ s.lineAt b 9 = none) ∧
    (¬∃ x ∈ s.homeRetries, x.1 = .cluster 3 ∧ x.2.1 = 9 ∧ s.time < x.2.2 + 32) ∧ (∃ x ∈ (r.sliceMaps.toList.getD 0 SliceMap.reset).older, x.1 = 0 ∧ sliceIn x.2 9 ∉ [0]) := by
  decide +kernel

/-- CoreSplits: a dirty line that a core must keep, its port down and the port's buffer full, and none. -/
theorem test_meets_kept_lines : let far := 2 ^ 53
    let l : CacheLine := ⟨.l1 0, far, List.replicate 128 7, 3, 1, 0, .plain, .plain, none, 0, false⟩
    let s : State := { caching [l] with
      coreStates := State.reset.coreStates.map (fun (c : CoreState) => { c with units := 7 })
      cxl := .replicate 4 ⟨false, true, 1, 0, [], [], List.replicate 4096 l⟩ }
    (∃ c ∈ (s.clearL1 0).caches, c.holder = .l1 0) ∧ (∀ c ∈ ((caching []).clearL1 0).caches, c.holder ≠ .l1 0) ∧ s.crews = [] ∧
    (s.coreStates.toList.getD 0 CoreState.reset).units ≠ (s.coreStates.toList.getD 0 CoreState.reset).active := by decide +kernel

/-- HostWindows: the last word of each window, and the first offset past it. -/
theorem test_meets_window_ends_of_hosts : (∀ x ∈ ([(none, 0, 22), (some 255, 0, 17), (none, 2, 40), (some 255, 2, 34)] : List (Option Nat × Nat × Nat)),
      2 ^ x.2.2 - 8 + 8 ≤ 2 ^ x.2.2 ∧ ¬(x.2.1 = 0 ∧ 2 ^ x.2.2 + 8 ≤ (if x.1 = none then 2 ^ 22 else 2 ^ 17)) ∧ ¬(x.2.1 = 2 ∧ 2 ^ x.2.2 + 8 ≤ (if x.1 = none then 2 ^ 40 else 2 ^ 34))) ∧
    ({ windowed 1 3 16 1 with stage := some 0 } : State).stage.getD 0 = 0 ∧ ({ windowed 1 3 16 1 with stage := some 1 } : State).stage.getD 0 < 2 := by decide +kernel

/-- A port that the module has, and one that it has not. -/
theorem test_meets_absent_ports : ({ State.reset with cxlPorts := 7 } : State).cxlPorts.getLsbD 2 = true ∧ ({ State.reset with cxlPorts := 7 } : State).cxlPorts.getLsbD 3 = false ∧
    State.reset.cxlPorts.getLsbD 3 = true := by decide +kernel

/-- A tracked region that is stable: one family that column-major suits better, four windows of it; two families of a quarter each. -/
def tracking (fs : List Family) (f : Region → Region) : State :=
  let s := requesting 17 fun r => f { r with request := none }
  { s with tracks := s.regions.map fun r => ⟨r.id, (0, 0), 0, (fs.map (·.bytes)).sum, fs⟩ }
def columns : Family := ⟨64, 1, 256, (List.range 8).map (64 * ·)⟩
def rows : Family := ⟨1, 1, 256, List.range 8⟩

theorem test_meets_region_turns :
    let holds := fun (s : State) (p : State → ObjDesc → Region → Bool) => s.regions.any (fun r => (s.objDesc 0 1).any fun d => p s d r) = true
    let gains := fun (s : State) (d : ObjDesc) (r : Region) => s.tracks.any fun t =>
      let b := bestOf d 0 r.layout t.families; b ≠ r.layout && decide (10 * scoreOf d 0 t.families b ≤ 7 * scoreOf d 0 t.families r.layout)
    holds (tracking [] id) (fun s d r => r.state = .stable && s.movable d 0 && !gains s d r) ∧
    holds (tracking [columns] id) (fun s d r => r.state = .stable && r.streak = none && gains s d r) ∧
    holds (tracking [columns] fun r => { r with streak := some (1, 3) }) (fun s d r => gains s d r && s.tracks.any fun t => bestOf d 0 r.layout t.families = 1) ∧
    holds (tracking [columns, rows] fun r => { r with rivals := [((1, 64), 3)] }) (fun s d r => s.tracks.any fun t => (t.families.all fun f => t.total ≠ 0 && decide (t.total ≤ 4 * f.bytes)) && decide (bestOf d 0 r.layout [rows] ≠ bestOf d 0 r.layout [columns])) ∧
    holds (requesting 17 fun r => { r with state := .contested, contest := some 2, request := none }) (fun s _ r => r.state = .contested && r.contest = some 2 && r.layout ≠ 2 && decide (s.window - r.contestSince < 1024)) ∧
    holds { requesting 17 (fun r => { r with state := .contested, request := none }) with window := 1024 } (fun s _ r => decide (1024 ≤ s.window - r.contestSince)) ∧
    holds (requesting 17 fun r => { r with state := .pinned, request := none }) (fun _ _ r => r.state = .pinned) ∧ holds (retiling 64 0) (fun _ _ r => r.state = .retiling) := by decide +kernel

/-- A window's end with a region that is kept and one that is only tracked. -/
theorem test_meets_tracked_windows : let s : State := { tracking [columns] id with regions := [] }
    3300 * (s.window + 1) ≤ s.time ∧ (s.tracks.all fun x => s.regions.all fun r => r.id ≠ x.region) = true ∧ s.tracks.length = 1 ∧ (s.objDesc 0 1).isSome = true := by decide +kernel

/-- Wakes whose acquire has lines to send, with a slot and without. -/
theorem test_meets_held_wakes : let s := flipped 0 64 (soiled (waiting .a (.completion 64 true 0x80) id ((acting .a id).sramWrite 0 64 1 1)))
    s.fenceHeld 0 0 (s.flipScope 0 64) = true ∧ (slotted s).fenceHeld 0 0 (s.flipScope 0 64) = false ∧
    (let a : Attrs := ⟨.acq, .di, .spd, .ca, false, false⟩
     (soiled (acting .a id)).fenceHeld 0 0 a.scope = true ∧ (slotted (soiled (acting .a id))).fenceHeld 0 0 a.scope = false) := by decide +kernel

/-- Engine commands with an index that no slot lets them read, with a release that has to send, and held by neither; a bundled thread whose
bundle is open. -/
theorem test_meets_held_engines : (acting .a id).maySend 0 = false ∧ (slotted (acting .a id)).maySend 0 = true ∧
    (soiled (acting .a id)).fenceHeld 0 0 .di = true ∧ (slotted (soiled (acting .a id))).fenceHeld 0 0 .di = false ∧
    ((bundled [bundle .opened 1 0] id).bundle? 0 1).any (fun x => x.opened = 1) = true := by decide +kernel

/-- A word fetched with nothing to send or with a slot, no pipe busy, and one that has to ask a home. -/
theorem test_meets_step_conditions : (let s := acting .a id
     s.fetchHeld (weave id) .a 0x40 = false ∧ (slotted s).fetchHeld (weave id) .a 0x40 = false ∧ s.pipeBusy ⟨0, 0⟩ .a (.add 0 10 29) = false ∧ s.pipeBusy ⟨0, 0⟩ (.c 0) (.fadd 0 1 2 3) = false ∧
       (Instr.layq 4 6 8).asksHome = true ∧ (slotted s).maySend 0 = true ∧ (Instr.add 0 10 29).asksHome = false) ∧
    (let p : Pending := ⟨5, 0, State.reset.cur, weave id, .vld 0 2 0 4 6 8, word8 .obj 1, some (9, 0, 0), none⟩
     p.refused = some (9, 0, 0) ∧ 31 < 0 + 32 ∧ ¬32 < 0 + 32) := by decide +kernel
end Sys2Proof.Tests
end

section
/-! ## The canonical form of the memories: bytes, caches and their homes (R19, R247, R337)
Every operation on a state that may touch `mem`, `spad`, `store` or `hostMem` has one lemma, named after the operation, that it
keeps them canonical. They stand in the order of the definitions, so that each cites the lemmas of the operations it calls. -/

namespace Sys2Proof.Machine

/-- A memory's cells, the scratchpads', the supervisor stores' and host memory's are in canonical form. -/
structure MemsOk (mem spad store hostMem : List Host.Cell) : Prop where
  mem : Memory.wf (some Config.unwrittenByte) mem = true
  spad : Memory.wf none spad = true
  store : Memory.wf none store = true
  hostMem : Memory.wf none hostMem = true

/-- The four memories of a state are in canonical form. -/
def State.Canon (s : State) : Prop := MemsOk s.mem s.spad s.store s.hostMem

/-- `MemOk` with its parts named. -/
theorem State.canon_iff_memOk {s : State} : s.Canon ↔ s.MemOk :=
  ⟨fun ⟨a, b, c, d⟩ => ⟨a, b, c, d⟩, fun ⟨a, b, c, d⟩ => ⟨a, b, c, d⟩⟩

/-- Whatever state a result holds is canonical. -/
def CanonSome (o : Option State) : Prop := ∀ t, o = some t → t.Canon
def CanonOk {ε : Type} (r : Except ε State) : Prop := ∀ t, r = .ok t → t.Canon
def CanonFst {ε β : Type} (r : Except ε (State × β)) : Prop := ∀ p, r = .ok p → p.1.Canon
def CanonNext (r : Host.Outcome State Fault Refusal) : Prop := ∀ t, r = .next t → t.Canon

theorem CanonSome.none : CanonSome none := fun _ e => by cases e
theorem CanonSome.some {t : State} (h : t.Canon) : CanonSome (some t) := fun _ e => Option.some.inj e ▸ h
theorem CanonOk.error {ε : Type} (e : ε) : CanonOk (.error e) := fun _ e => by cases e
theorem CanonOk.ok {ε : Type} {t : State} (h : t.Canon) : CanonOk (.ok t : Except ε State) := fun _ e => Except.ok.inj e ▸ h
theorem CanonFst.error {ε β : Type} (e : ε) : CanonFst (.error e : Except ε (State × β)) := fun _ e => by cases e
theorem CanonFst.ok {ε β : Type} {p : State × β} (h : p.1.Canon) : CanonFst (.ok p : Except ε (State × β)) :=
  fun _ e => Except.ok.inj e ▸ h
theorem CanonNext.next {t : State} (h : t.Canon) : CanonNext (.next t) := fun _ e => Host.Outcome.next.inj e ▸ h
theorem CanonNext.fault (f : Fault) : CanonNext (.fault f) := fun _ e => by cases e
theorem CanonNext.refused (r : Refusal) : CanonNext (.refused r) := fun _ e => by cases e

/-- A choice between canonical states. -/
theorem State.Canon.ite {s t : State} (c : Prop) [Decidable c] (h : s.Canon) (h' : t.Canon) : (if c then s else t).Canon := by
  split
  · exact h
  · exact h'

theorem CanonOk.ite {ε : Type} {r r' : Except ε State} (c : Prop) [Decidable c] (h : CanonOk r) (h' : CanonOk r') :
    CanonOk (if c then r else r') := by
  split
  · exact h
  · exact h'

theorem CanonFst.ite {ε β : Type} {r r' : Except ε (State × β)} (c : Prop) [Decidable c] (h : CanonFst r) (h' : CanonFst r') :
    CanonFst (if c then r else r') := by
  split
  · exact h
  · exact h'

/-- A fold whose every step keeps the canonical form keeps it. -/
theorem State.Canon.foldl {α : Type} {s : State} (h : s.Canon) {f : State → α → State} (l : List α) (hf : ∀ t x, t.Canon → (f t x).Canon) :
    (l.foldl f s).Canon := by
  induction l generalizing s with
  | nil => exact h
  | cons x r ih => exact ih (hf s x h)

/-- As `foldl`, for a fold that carries something beside the state. -/
theorem State.Canon.foldl_fst {α β : Type} {p : State × β} (h : p.1.Canon) {f : State × β → α → State × β} (l : List α)
    (hf : ∀ q x, q.1.Canon → (f q x).1.Canon) : (l.foldl f p).1.Canon := by
  induction l generalizing p with
  | nil => exact h
  | cons x r ih => exact ih (hf p x h)

/-- As `foldl`, for a fold that may stop. -/
theorem State.Canon.foldE {α ε : Type} {s : State} (h : s.Canon) {f : State → α → Except ε State} (l : List α)
    (hf : ∀ t x, t.Canon → CanonOk (f t x)) : CanonOk (foldE f s l) := by
  induction l generalizing s with
  | nil => exact .ok h
  | cons x r ih =>
    unfold Machine.foldE
    split
    next t e => exact ih (hf s x h t e)
    · exact .error _

theorem State.Canon.foldE_fst {α β ε : Type} {p : State × β} (h : p.1.Canon) {f : State × β → α → Except ε (State × β)} (l : List α)
    (hf : ∀ q x, q.1.Canon → CanonFst (f q x)) : CanonFst (Machine.foldE f p l) := by
  induction l generalizing p with
  | nil => exact .ok h
  | cons x r ih =>
    unfold Machine.foldE
    split
    next q e => exact ih (hf p x h q e)
    · exact .error _

/-- As `foldl`, for steps that may give no state. -/
theorem CanonSome.foldl_bind {α : Type} {o : Option State} (h : CanonSome o) {f : State → α → Option State} (l : List α)
    (hf : ∀ t x, t.Canon → CanonSome (f t x)) : CanonSome (l.foldl (fun o x => o.bind fun t => f t x) o) := by
  induction l generalizing o with
  | nil => exact h
  | cons x r ih =>
    refine ih fun t e => ?_
    obtain ⟨u, rfl, eu⟩ := Option.bind_eq_some_iff.1 e
    exact hf u x (h u rfl) t eu

/-- What a result holds, else a state. -/
theorem State.Canon.getD {s : State} (h : s.Canon) {o : Option State} (ho : CanonSome o) : (o.getD s).Canon := by
  cases o with
  | none => exact h
  | some t => exact ho t rfl

/-- A state or what a function makes of it. -/
theorem State.Canon.elim {α : Type} {s : State} (h : s.Canon) (o : Option α) {f : α → State} (hf : ∀ x, (f x).Canon) :
    (o.elim s f).Canon := by
  cases o with
  | none => exact h
  | some x => exact hf x

/-! ### Bytes -/

theorem State.Canon.memSet {s : State} (h : s.Canon) (a : Nat) (b : Byte) : (s.memSet a b).Canon :=
  State.canon_iff_memOk.2 (memSet_ok (State.canon_iff_memOk.1 h) a b)

theorem State.Canon.hostSet {s : State} (h : s.Canon) (fn a : Nat) (b : Byte) : (s.hostSet fn a b).Canon := h.memSet _ _

theorem State.Canon.memStore {s : State} (h : s.Canon) (a : Nat) (bs : List Byte) : (s.memStore a bs).Canon :=
  h.foldl _ fun _ _ ht => ht.memSet _ _

theorem State.Canon.memWrite {s : State} (h : s.Canon) (a n x : Nat) : (s.memWrite a n x).Canon := h.memStore _ _

theorem State.Canon.memZero {s : State} (h : s.Canon) (a n : Nat) : (s.memZero a n).Canon :=
  State.canon_iff_memOk.2 (memZero_ok (State.canon_iff_memOk.1 h) a n)

/-! ### Caches and their homes -/

theorem State.Canon.setRegion {s : State} (h : s.Canon) (r : Region) : (s.setRegion r).Canon := by
  unfold State.setRegion
  split <;> exact h

theorem State.Canon.walk {s : State} (h : s.Canon) (core part object frame : Nat) : (s.walk core part object frame).Canon := by
  unfold State.walk
  repeat' split
  all_goals exact h

theorem State.Canon.otbInvalidate {s : State} (h : s.Canon) (p : OtbEntry → Bool) : (s.otbInvalidate p).Canon := h

theorem State.Canon.putLine {s : State} (h : s.Canon) (c : CacheLine) : (s.putLine c).Canon := by
  unfold State.putLine
  split <;> exact h

theorem State.Canon.dropLine {s : State} (h : s.Canon) (hd : Holder) (line : Nat) : (s.dropLine hd line).Canon := h

theorem State.Canon.mergeBytes {s : State} (h : s.Canon) (xs : List (Byte × Nat × Option Bool × Nat)) : (s.mergeBytes xs).Canon :=
  h.foldl _ fun _ _ ht => ht.memSet _ _

theorem State.Canon.passCopy {s : State} (h : s.Canon) (core : Nat) (c : CacheLine) : (s.passCopy core c).Canon := by
  unfold State.passCopy
  repeat' split
  · exact h.putLine _
  · exact h
  · exact h

theorem State.Canon.expel {s : State} (h : s.Canon) (hd : Holder) (line : Nat) : (s.expel hd line).Canon :=
  h.foldl _ fun _ _ ht => (ht.mergeBytes _).dropLine _ _

theorem State.Canon.mergeLine {s : State} (h : s.Canon) (c : CacheLine) : (s.mergeLine c).Canon := by
  unfold State.mergeLine
  extract_lets xs t
  have ht : t.Canon := (h.foldl _ fun _ _ hu => hu.expel _ _).mergeBytes _
  split
  · exact ht.passCopy _ _
  · exact ht

theorem State.Canon.onCxl {s : State} (h : s.Canon) (port : Nat) (f : CxlPort → CxlPort) : (s.onCxl port f).Canon := h

theorem State.Canon.holdBack {s : State} (h : s.Canon) (c : CacheLine) : (s.holdBack c).Canon := by
  unfold State.holdBack
  repeat' split
  · exact h
  · exact (h.onCxl _ _).putLine _
  · exact h

theorem State.Canon.writeBack {s : State} (h : s.Canon) (hd : Holder) (line : Nat) : (s.writeBack hd line).Canon := by
  unfold State.writeBack
  repeat' split
  · exact h
  · exact h
  · exact h.holdBack _
  · exact (h.mergeLine _).putLine _

theorem State.Canon.giveUp {s : State} (h : s.Canon) (hd : Holder) (line : Nat) : (s.giveUp hd line).Canon := by
  unfold State.giveUp
  extract_lets t
  have ht : t.Canon := h.writeBack hd line
  split
  · exact ht
  · exact ht.dropLine _ _

theorem State.Canon.dropStale {s : State} (h : s.Canon) (hd : Holder) (line : Nat) : (s.dropStale hd line).Canon := by
  unfold State.dropStale
  repeat' split
  · exact h
  · exact h.giveUp _ _
  · exact h

theorem State.Canon.drainPort {s : State} (h : s.Canon) (port : Nat) : (s.drainPort port).Canon :=
  ((h.onCxl _ _).foldl _ fun _ _ ht => ht.mergeLine _).foldl _ fun _ _ hu => hu.writeBack _ _

theorem State.Canon.setDir {s : State} (h : s.Canon) (e : DirEntry) : (s.setDir e).Canon := h

end Sys2Proof.Machine
end

section
/-! ## Homes, halves and places -/

namespace Sys2Proof.Machine

theorem State.Canon.recordRead {s : State} (h : s.Canon) (hd : Holder) (line : Nat) : (s.recordRead hd line).1.Canon := by
  unfold State.recordRead
  repeat' split
  all_goals exact h

theorem State.Canon.recordOwner {s : State} (h : s.Canon) (hd : Holder) (line : Nat) : (s.recordOwner hd line).Canon := by
  unfold State.recordOwner
  split <;> exact h

theorem State.Canon.recordLoss {s : State} (h : s.Canon) (hd : Holder) (line : Nat) : (s.recordLoss hd line).Canon := by
  unfold State.recordLoss
  repeat' split
  all_goals exact h

theorem State.Canon.homeSync {s : State} (h : s.Canon) (line : Nat) : (s.homeSync line).Canon := by
  unfold State.homeSync
  extract_lets own t
  have ht : t.Canon := h.foldl _ fun u c hu => by
    have hv := hu.writeBack c.holder line
    simp only
    split
    · exact .ite _ (hv.putLine _) hv
    · exact hv
  split
  · exact h
  · exact ht

theorem State.Canon.homeInvalidate {s : State} (h : s.Canon) (line : Nat) (spare : List Holder) : (s.homeInvalidate line spare).Canon :=
  h.foldl _ fun _ _ ht => ht.giveUp _ _

theorem State.Canon.loseLine {s : State} (h : s.Canon) (c : CacheLine) : (s.loseLine c).Canon := by
  unfold State.loseLine
  split
  · exact .ite _ ((h.homeSync _).homeInvalidate _ _) h
  · exact .ite _ (h.recordLoss _ _) h

theorem State.Canon.evict {s : State} (h : s.Canon) (hd : Holder) (line : Nat) : (s.evict hd line).Canon := by
  unfold State.evict
  split
  · exact .ite _ h ((h.loseLine _).giveUp _ _)
  · exact h

theorem State.Canon.makeWay {s : State} (h : s.Canon) (hd : Holder) : CanonSome (s.makeWay hd) := by
  unfold State.makeWay
  split
  · exact .some h
  · intro t e
    obtain ⟨l, -, rfl⟩ := Option.map_eq_some_iff.1 e
    exact h.evict _ _

theorem State.Canon.allocate {s : State} (h : s.Canon) (c : CacheLine) : (s.allocate c).Canon := by
  unfold State.allocate
  split
  · exact h.putLine _
  · split
    next t e => exact (h.makeWay _ t e).putLine _
    · exact h

theorem State.Canon.settleHome {s : State} (h : s.Canon) (line : Nat) (p : CachePolicy) : (s.settleHome line p).Canon := by
  unfold State.settleHome
  extract_lets die n
  split
  · exact h
  · split
    next t e => exact h.makeWay _ t e
    · exact h

theorem State.Canon.grant {s : State} (h : s.Canon) (hd : Holder) (line : Nat) (st : LineState) (tag : Option (RegionId × Nat)) (early : Bool) (halves : BitVec 2) :
    (s.grant hd line st tag early halves).Canon := h.allocate _

theorem State.Canon.homeRead {s : State} (h : s.Canon) (hd : Holder) (line : Nat) (tag : Option (RegionId × Nat)) (early : Bool) (halves : BitVec 2) :
    (s.homeRead hd line tag early halves).Canon := by
  have h1 := h.homeSync line
  have h2 := h1.recordRead hd line
  refine .ite _ (.grant ?_ _ _ _ _ _ _) h1
  exact h2

theorem State.Canon.homeOwn {s : State} (h : s.Canon) (hd : Holder) (line : Nat) (tag : Option (RegionId × Nat)) (early : Bool) (halves : BitVec 2) :
    (s.homeOwn hd line tag early halves).Canon := by
  unfold State.homeOwn
  extract_lets got s1 s2 t
  have h1 : s1.Canon := (h.homeSync _).homeInvalidate _ _
  have h2 : s2.Canon := by
    unfold s2
    split
    · exact (h1.grant _ _ _ _ _ _).recordOwner _ _
    · exact h1
  exact .ite _ ((h2.grant _ _ _ _ _ _).recordOwner _ _) h1

theorem State.Canon.endL {s : State} (h : s.Canon) (cluster line : Nat) : (s.endL cluster line).Canon := by
  unfold State.endL
  split
  · exact .ite _ (h.giveUp _ _) h
  · exact h

theorem State.Canon.eachLine {s : State} (h : s.Canon) (hd : Holder) {f : State → Nat → State} (hf : ∀ t l, t.Canon → (f t l).Canon) :
    (s.eachLine hd f).Canon := h.foldl _ hf

theorem State.Canon.endAllL {s : State} (h : s.Canon) (cluster : Nat) : (s.endAllL cluster).Canon :=
  h.eachLine _ fun _ _ ht => ht.endL _ _

theorem State.Canon.endLineL {s : State} (h : s.Canon) (line : Nat) : (s.endLineL line).Canon := h.foldl _ fun _ _ ht => ht.giveUp _ _

theorem State.Canon.obtainL {s : State} (h : s.Canon) (cluster line : Nat) (tag : Option (RegionId × Nat)) (early : Bool) (halves : BitVec 2) :
    (s.obtainL cluster line tag early halves).Canon := by
  unfold State.obtainL
  extract_lets fresh
  have hf : fresh.Canon := ((h.homeSync _).homeInvalidate _ _).grant _ _ _ _ _ _
  split
  · exact .ite _ (h.putLine _) hf
  · exact hf

theorem State.Canon.pushToL {s : State} (h : s.Canon) (core line : Nat) : (s.pushToL core line).Canon := by
  unfold State.pushToL
  split
  · exact h
  next c _ =>
    refine .ite _ h (.ite _ (h.writeBack _ _) ?_)
    have hu := h.obtainL (clusterOf core) line c.tag c.early c.halves
    simp only
    split
    · exact hu.writeBack _ _
    · exact .ite _ (hu.writeBack _ _) ((hu.putLine _).putLine _)

theorem State.Canon.flushL1 {s : State} (h : s.Canon) (core : Nat) (sc : Scope) : (s.flushL1 core sc).Canon :=
  h.eachLine _ fun _ _ ht => .ite _ (ht.pushToL _ _) (ht.writeBack _ _)

theorem State.Canon.clearL1 {s : State} (h : s.Canon) (core : Nat) : (s.clearL1 core).Canon := h.eachLine _ fun _ _ ht => ht.giveUp _ _

theorem State.Canon.releaseCaches {s : State} (h : s.Canon) (core : Nat) (sc : Scope) : (s.releaseCaches core sc).Canon :=
  .ite _ h (.ite _ (h.flushL1 _ _) ((h.flushL1 _ _).endAllL _))

theorem State.Canon.acquireCaches {s : State} (h : s.Canon) (core : Nat) (sc : Scope) : (s.acquireCaches core sc).Canon :=
  .ite _ h (.ite _ (h.clearL1 _) ((h.clearL1 _).endAllL _))

theorem State.Canon.fitLine {s : State} (h : s.Canon) (hd : Holder) (p : Place) : (s.fitLine hd p).Canon := by
  unfold State.fitLine
  split
  · exact h
  · exact .ite _ (h.giveUp _ _) (.ite _ h (h.putLine _))

theorem State.Canon.beforeHalf {s : State} (h : s.Canon) (hd : Holder) (p : Place) : (s.beforeHalf hd p).Canon := by
  unfold State.beforeHalf
  split
  · exact (h.fitLine _ _).homeSync _
  · exact h.homeSync _

theorem State.Canon.dropFormer {s : State} (h : s.Canon) (hd : Holder) (p : Place) : (s.dropFormer hd p).Canon := by
  unfold State.dropFormer
  split
  · exact h
  · exact h.foldl _ fun _ _ ht => ht.giveUp _ _

theorem State.Canon.settleFormer {s : State} (h : s.Canon) (id : RegionId) : (s.settleFormer id).Canon :=
  h.foldl _ fun _ _ ht => ht.writeBack _ _

theorem State.Canon.freshen {s : State} (h : s.Canon) (hd : Holder) (p : Place) : (s.freshen hd p).Canon := by
  unfold State.freshen
  extract_lets k s1 t
  have h1 : s1.Canon := (h.dropFormer _ _).fitLine _ _
  have ht : t.Canon := .ite _ (h1.beforeHalf _ _) h1
  split
  · exact ht
  · exact .ite _ ht (ht.putLine _)

theorem State.Canon.onCore {s : State} (h : s.Canon) (core : Nat) (f : CoreState → CoreState) : (s.onCore core f).Canon := h

theorem State.Canon.homeReady {s : State} (h : s.Canon) (core : Nat) (p : Place) : (s.homeReady core p).Canon := by
  have ht := fun (spare : List Holder) => (h.homeSync p.line).homeInvalidate p.line spare
  exact .ite _ (ht _) (((ht _).homeSync _).homeInvalidate _ _)

theorem State.Canon.loadLine {s : State} (h : s.Canon) (core : Nat) (a : Attrs) (own : Bool) (p : Place) :
    CanonOk (s.loadLine core a own p) := by
  unfold State.loadLine
  extract_lets c early halves s0 s1 toL1 ownL near s2
  have h0 : s0.Canon := h.freshen _ _
  have h1 : s1.Canon := h0.freshen _ _
  have hl : ∀ t d x, t.Canon → (toL1 t d x).Canon := fun t d x ht => .ite _ (ht.allocate _) ht
  split
  · exact .ok h0
  split
  · exact .ok (hl _ _ _ (.ite _ (h1.putLine _) h1))
  split
  · exact .error _
  have h2 : s2.Canon := h1.elim _ fun x => h1.freshen _ _
  split
  · exact .ok (hl _ _ _ (.ite _ (h2.homeRead _ _ _ _ _) (h2.homeSync _)))
  split
  · exact .error _
  split
  · exact .ok ((h2.homeSync _).homeSync _)
  split
  · exact .ok (hl _ _ _ (h2.obtainL _ _ _ _ _))
  · refine .ok (hl _ _ _ (State.Canon.settleHome (.ite _ ?_ (h2.homeSync _)) _ _))
    exact (h2.elim _ fun x => h2.homeRead _ _ _ _ _).homeRead _ _ _ _ _

theorem State.Canon.pokeLine {s : State} (h : s.Canon) (hd : Holder) (p : Place) (b : Byte) (mark : Bool) :
    (s.pokeLine hd p b mark).Canon := by
  unfold State.pokeLine
  split
  · exact h
  · exact h.putLine _

theorem State.Canon.pokeHome {s : State} (h : s.Canon) (core : Nat) (p : Place) (b : Byte) : (s.pokeHome core p b).Canon := by
  have hu := ((h.memSet p.home (setHalf (s.memByte p.home) b p.half)).pokeLine (.l1 core) p b false).pokeLine
    (.cluster (clusterOf core)) p b false
  exact hu.elim _ fun x => hu.pokeLine _ _ _ _

theorem State.Canon.levelLine {s : State} (h : s.Canon) (core : Nat) (a : Attrs) (v : StoreLevel) (p : Place) :
    CanonOk (s.levelLine core a v p) := by
  unfold State.levelLine
  extract_lets c s0 s1 early halves s2 t
  split
  · have hl := h.loadLine core a true p
    split
    · exact .error _
    next t e => exact .ok (.ite _ (hl t e) ((hl t e).homeReady _ _))
  split
  · exact .error _
  have h0 : s0.Canon := (h.freshen _ _).freshen _ _
  have h1 : s1.Canon := .ite _ h0 (.ite _ (h0.pushToL _ _) (h0.writeBack _ _))
  have h2 : s2.Canon := .ite _ (h1.endL _ _) h1
  split
  · exact .ok (.ite _ (h2.obtainL _ _ _ _ _) h2)
  split
  · exact .error _
  · have ht : t.Canon := by
      unfold t
      split
      · exact h2.obtainL _ _ _ _ _
      · exact h2.homeOwn _ _ _ _ _
      · exact h2.homeReady _ _
    exact .ok (State.Canon.settleHome (.ite _ ht (ht.homeReady _ _)) _ _)

theorem State.Canon.storeLine {s : State} (h : s.Canon) (core : Nat) (a : Attrs) (p : Place) : CanonOk (s.storeLine core a p) :=
  h.levelLine _ _ _ _

theorem State.Canon.pokeLevel {s : State} (h : s.Canon) (core : Nat) (v : StoreLevel) (p : Place) (b : Byte) :
    (s.pokeLevel core v p b).Canon := by
  unfold State.pokeLevel
  split
  · split
    · exact h.pokeLine _ _ _ _
    · exact (h.pokeLine _ _ _ _).pokeLine _ _ _ _
  · exact h.pokeHome _ _ _

theorem State.Canon.refreshL1 {s : State} (h : s.Canon) (core : Nat) (v : StoreLevel) (p : Place) (b : Byte) :
    (s.refreshL1 core v p b).Canon := .ite _ h (h.pokeLine _ _ _ _)

theorem State.Canon.storeByte {s : State} (h : s.Canon) (core : Nat) (a : Attrs) (p : Place) (b : Byte) :
    (s.storeByte core a p b).Canon := h.pokeLevel _ _ _ _

theorem State.Canon.atomicLine {s : State} (h : s.Canon) (core : Nat) (a : Attrs) (p : Place) : CanonOk (s.atomicLine core a p) := by
  have ht := (h.freshen (.l1 core) p).freshen (.cluster (clusterOf core)) p
  refine State.Canon.levelLine ?_ _ _ _ _
  split
  · exact ht
  · exact ht.pushToL _ _
  · exact ht.writeBack _ _

theorem State.Canon.atomicPoke {s : State} (h : s.Canon) (core : Nat) (a : Attrs) (p : Place) (b : Byte) :
    (s.atomicPoke core a p b).Canon := h.pokeLevel _ _ _ _

theorem State.Canon.freshenHalves {s : State} (h : s.Canon) (core : Nat) (ps : List Place) : (s.freshenHalves core ps).Canon := h.foldl _ fun _ _ ht =>
  have hu := (ht.freshen _ _).freshen _ _
  hu.elim _ fun _ => hu.freshen _ _

theorem State.Canon.recallLine {s : State} (h : s.Canon) (line : Nat) : (s.recallLine line).Canon := (h.homeSync _).homeInvalidate _ _

theorem State.Canon.gather {s : State} (h : s.Canon) (line : Nat) : (s.gather line).Canon := (h.endLineL _).homeSync _

theorem State.Canon.reclaim {s : State} (h : s.Canon) (line : Nat) : (s.reclaim line).Canon := (h.gather _).homeInvalidate _ _

theorem State.Canon.eachPlaceLine {s : State} (h : s.Canon) (ps : List Place) {f : State → Nat → State}
    (hf : ∀ t l, t.Canon → (f t l).Canon) : (s.eachPlaceLine ps f).Canon := h.foldl _ hf

theorem State.Canon.putNat {s : State} (h : s.Canon) (ps : List Place) (x : Nat) : (s.putNat ps x).Canon :=
  h.foldl _ fun _ _ ht => ht.memSet _ _

theorem State.Canon.homePut {s : State} (h : s.Canon) (ps : List Place) (x : Nat) : (s.homePut ps x).Canon :=
  (h.eachPlaceLine _ fun _ _ ht => ht.reclaim _).putNat _ _

theorem State.Canon.objWrite {s : State} (h : s.Canon) (part object off n x : Nat) : (s.objWrite part object off n x).Canon :=
  h.homePut _ _

theorem State.Canon.objSync {s : State} (h : s.Canon) (part object off n : Nat) : (s.objSync part object off n).Canon :=
  h.eachPlaceLine _ fun _ _ ht => ht.gather _

theorem State.Canon.unpoison {s : State} (h : s.Canon) (a n : Nat) : (s.unpoison a n).Canon := .ite _ h h

theorem State.Canon.clearKeys {s : State} (h : s.Canon) (keys : List Nat) : (s.clearKeys keys).Canon :=
  .ite _ h (h.foldl _ fun _ _ ht => ht.unpoison _ _)

theorem State.Canon.markPlaces {s : State} (h : s.Canon) (ps : List Place) (bad : BitVec 128) : (s.markPlaces ps bad).Canon :=
  .ite _ h (h.foldl _ fun _ _ ht => .ite _ (ht.unpoison _ _) (ht.unpoison _ _))

theorem State.Canon.homeWrite {s : State} (h : s.Canon) (a n x : Nat) : (s.homeWrite a n x).Canon := (h.reclaim _).memWrite _ _ _

theorem State.Canon.onPcb {s : State} (h : s.Canon) (part : Nat) (f : Pcb → Pcb) : (s.onPcb part f).Canon := h

theorem State.Canon.poolSync {s : State} (h : s.Canon) (part : Nat) : (s.poolSync part).Canon := h.objSync _ _ _ _

theorem State.Canon.poolReturn {s0 : State} (h : s0.Canon) (part frame : Nat) (far : Bool) : (s0.poolReturn part frame far).Canon := by
  have hs := h.poolSync part
  unfold State.poolReturn
  simp only
  split
  · exact hs
  · exact hs.objWrite _ _ _ _ _

theorem State.Canon.sendError {s : State} (h : s.Canon) (part : Nat) (e : ErrorInfo) : (s.sendError part e).Canon :=
  .ite _ h (h.objWrite _ _ _ _ _)

end Sys2Proof.Machine
end

section
/-! ## Monitors, bundles and loads -/

namespace Sys2Proof.Machine

/-! ### Monitors and bundles -/

theorem State.Canon.observe {s : State} (h : s.Canon) (id : RegionId) (d : ObjDesc) (run : List Nat) : (s.observe id d run).Canon := by
  unfold State.observe
  extract_lets sl bytes fresh others mine
  repeat' split
  all_goals exact h

theorem State.Canon.observeRun {s : State} (h : s.Canon) (part object : Nat) (d : ObjDesc) (run : List Nat) :
    (s.observeRun part object d run).Canon := .ite _ h (h.foldl _ fun _ _ ht => ht.observe _ _ _)

theorem State.Canon.putMember {s : State} (h : s.Canon) (m : MemberLine) : (s.putMember m).Canon := .ite _ h h

theorem State.Canon.putBundle {s : State} (h : s.Canon) (b : Bundle) : (s.putBundle b).Canon := by
  refine State.Canon.objWrite ?_ _ _ _ _ _
  exact .ite _ h h

theorem State.Canon.reheader {s : State} (h : s.Canon) (part handle : Nat) : (s.reheader part handle).Canon := by
  unfold State.reheader
  split
  · exact h.putBundle _
  · exact h

theorem State.Canon.flip {s : State} (h : s.Canon) (m : MemberLine) : (s.flip m).Canon := by
  unfold State.flip
  split
  · exact h
  · exact (((h.eachPlaceLine _ fun _ _ ht => ht.reclaim _).putNat _ _).markPlaces _ _).putMember _

theorem State.Canon.settle {s : State} (h : s.Canon) (m : MemberLine) : (s.settle m).Canon := by
  unfold State.settle
  split
  · exact .ite _ (h.putMember _) (.ite _ (h.flip _) h)
  · exact h

theorem State.Canon.settleAll {s : State} (h : s.Canon) : s.settleAll.Canon := h.foldl _ fun _ _ ht => ht.settle _

theorem State.Canon.acquireFlips {s : State} (h : s.Canon) (sc : Scope) : (s.acquireFlips sc).Canon := .ite _ h.settleAll h

theorem State.Canon.makeRoom {s : State} (h : s.Canon) (part n : Nat) : CanonSome (s.makeRoom part n) := by
  induction n generalizing s with
  | zero => exact .none
  | succ n ih =>
    unfold State.makeRoom
    split
    · exact .some h
    · split
      · exact .none
      · exact ih (h.putMember _)
theorem State.Canon.poolTakeIf {s : State} (h : s.Canon) (part : Nat) (p : DWord → Bool) {x : State × Nat}
    (e : s.poolTakeIf part p = some x) : x.1.Canon := by
  unfold State.poolTakeIf at e
  extract_lets t at e
  split at e
  · cases e
  · exact Option.some.inj e ▸ (h.poolSync part).objWrite _ _ _ _ _

theorem State.Canon.spillFrame {s : State} (h : s.Canon) (part : Nat) (ok : Nat → Bool) {x : State × Nat}
    (e : s.spillFrame part ok = some x) : x.1.Canon := by
  unfold State.spillFrame at e
  extract_lets codes at e
  split at e
  · exact Option.some.inj e ▸ h
  split at e
  next ep =>
    have hy := h.poolTakeIf _ _ ep
    exact Option.some.inj e ▸ hy
  · obtain ⟨y, ey, rfl⟩ := Option.map_eq_some_iff.1 e
    have hy := h.poolTakeIf _ _ ey
    exact hy

theorem State.Canon.spill {s : State} (h : s.Canon) (m : MemberLine) : CanonSome (s.spill m) := by
  unfold State.spill
  split
  · exact .some h
  · intro t e
    obtain ⟨x, ex, rfl⟩ := Option.map_eq_some_iff.1 e
    exact ((h.spillFrame _ _ ex).putMember _).reheader _ _

theorem State.Canon.freeSpill {s : State} (h : s.Canon) (part : Nat) (codes : List Nat) : (s.freeSpill part codes).Canon :=
  h.foldl _ fun _ _ ht => .ite _ (ht.poolReturn _ _ _) ht

theorem State.Canon.dropSpilled {s : State} (h : s.Canon) (b : Bundle) : (s.dropSpilled b).Canon := by
  refine State.Canon.reheader (State.Canon.freeSpill ?_ _ _) _ _
  exact h

theorem State.Canon.abortBundle {s : State} (h : s.Canon) (b : Bundle) : (s.abortBundle b).Canon := by
  refine .ite _ (State.Canon.putBundle ?_ _) h
  exact h

theorem State.Canon.releaseBundle {s : State} (h : s.Canon) (b : Bundle) : (s.releaseBundle b).Canon := by
  refine State.Canon.freeSpill ?_ _ _
  exact h

theorem State.Canon.settleLine {s : State} (h : s.Canon) (part object line : Nat) : (s.settleLine part object line).Canon := by
  unfold State.settleLine
  split
  · exact h.settle _
  · exact h

theorem State.Canon.gatherL1 {s : State} (h : s.Canon) (ps : List Place) : (s.gatherL1 ps).Canon :=
  (h.foldl _ fun _ _ ht => ht.settleFormer _).foldl _ fun _ _ hu => hu.writeBack _ _

theorem State.Canon.openLine {s : State} (h : s.Canon) (b : Bundle) (object line : Nat) : CanonSome (s.openLine b object line) := by
  unfold State.openLine
  extract_lets fresh s0 m ps s1
  have h0 : s0.Canon := h.settle _
  have h1 : s1.Canon := (h0.eachPlaceLine _ fun _ _ ht => ht.reclaim _).gatherL1 _
  split
  · exact .some h0
  split
  · exact .none
  next s2 e2 =>
  have h2 : s2.Canon := by
    split at e2
    · exact h1.spill _ _ e2
    · exact Option.some.inj e2 ▸ h1
  split
  · exact .none
  next s3 e3 =>
  have h4 := fun m' => (h2.makeRoom _ _ s3 e3).putMember m'
  simp only
  split
  · exact .some (h4 _)
  · exact .some (((h4 _).objWrite _ _ _ _ _).putBundle _)

theorem State.Canon.openWrite {s : State} (h : s.Canon) (part object at' : Nat) (bs : List Byte) :
    (s.openWrite part object at' bs).Canon := by
  unfold State.openWrite
  repeat' split
  · exact h
  · exact h
  · exact h.putMember _

theorem State.Canon.openClean {s : State} (h : s.Canon) (part object line : Nat) : (s.openClean part object line).Canon := by
  unfold State.openClean
  split
  · exact h.putMember _
  · exact h

theorem State.Canon.settleFor {s : State} (h : s.Canon) (m : MemberLine) (f : Nat) : (s.settleFor m f).Canon := by
  unfold State.settleFor
  split
  · exact .ite _ (h.settle _) h
  · exact h

/-! ### Weaves -/

theorem State.Canon.onWeave {s : State} (h : s.Canon) (id : WeaveId) (f : Weave → Weave) : (s.onWeave id f).Canon := h

theorem State.Canon.onMe {s : State} (h : s.Canon) (f : Weave → Weave) : (s.onMe f).Canon := h

/-! ### Accesses -/

theorem State.Canon.sramSet {s : State} (h : s.Canon) (core a : Nat) (b : Byte) : (s.sramSet core a b).Canon :=
  State.canon_iff_memOk.2 (sramSet_ok (State.canon_iff_memOk.1 h) core a b)

theorem State.Canon.sramWrite {s : State} (h : s.Canon) (core a n x : Nat) : (s.sramWrite core a n x).Canon :=
  h.foldl _ fun _ _ ht => ht.sramSet _ _ _

theorem State.Canon.walkAll {s : State} (h : s.Canon) (g : Agent) (q : Req) (ls : List LaneAt) : (s.walkAll g q ls).Canon :=
  .ite _ h (h.foldl _ fun _ _ ht => ht.walk _ _ _ _)

theorem State.Canon.clearPoison {s : State} (h : s.Canon) (ls : List LaneAt) : (s.clearPoison ls).Canon := h.clearKeys _

theorem State.Canon.acquire {s : State} (h : s.Canon) (core : Nat) (sc : Scope) : (s.acquire core sc).Canon :=
  (h.acquireFlips _).acquireCaches _ _

theorem State.Canon.release {s : State} (h : s.Canon) (core : Nat) (sc : Scope) : (s.release core sc).Canon := h.releaseCaches _ _

theorem State.Canon.onViews {s : State} (h : s.Canon) (id : WeaveId) (f : Vector ViewEntry 4 → Vector ViewEntry 4) :
    (s.onViews id f).Canon := h

theorem State.Canon.viewLane {s : State} (h : s.Canon) (id : WeaveId) (g : Agent) (q : Req) (d : ObjDesc) (l : LaneAt)
    {p : State × Option (Nat × Bool)} (e : s.viewLane id g q d l = .ok p) : p.1.Canon := by
  unfold State.viewLane at e
  extract_lets at' at e
  split at e
  · exact Except.ok.inj e ▸ h
  split at e
  case h_2 => exact Except.ok.inj e ▸ h
  split at e
  · cases e
  next fresh k f _ =>
  extract_lets s1 s2 m2 at e
  have h1 : s1.Canon := .ite _ ((h.onViews _ _).acquire _ _) h
  have h2 : s2.Canon := h1.settleFor _ _
  split at e
  · cases e
  · split at e
    · cases e
    · exact Except.ok.inj e ▸ h2

theorem State.Canon.viewed {x : Viewed} (h : x.state.Canon) (id : WeaveId) (g : Agent) (q : Req) (d : ObjDesc) (l : LaneAt) :
    (x.lane id g q d l).state.Canon := by
  unfold Viewed.lane
  split
  next t v e => exact h.viewLane id g q d l e
  next t e => exact h.viewLane id g q d l e
  · exact h

theorem State.Canon.viewLanes {s : State} (h : s.Canon) (id : WeaveId) (g : Agent) (q : Req) (d : ObjDesc) (ls : List LaneAt)
    {p : State × List (Nat × Nat × Bool)} (e : s.viewLanes id g q d ls = .ok p) : p.1.Canon := by
  have hx : ∀ (l : List LaneAt) (x : Viewed), x.state.Canon → (l.foldl (fun (x : Viewed) l => x.lane id g q d l) x).state.Canon := by
    intro l
    induction l with
    | nil => exact fun _ hx => hx
    | cons y r ih => exact fun x hx => ih _ (hx.viewed id g q d y)
  unfold State.viewLanes at e
  extract_lets x at e
  split at e
  · cases e
  · exact Except.ok.inj e ▸ hx ls ⟨s, [], []⟩ h

theorem State.Canon.readyLines {s : State} (h : s.Canon) {f : State → Place → Except Stop State} (ps : List Place)
    (hf : ∀ t p, t.Canon → CanonOk (f t p)) : CanonOk (readyLines f s ps) := by
  induction ps generalizing s with
  | nil => exact .ok h
  | cons p r ih =>
    unfold Machine.readyLines
    split
    · exact .error _
    next t e => exact ih (hf s p h t e)

theorem State.Canon.loadObject {s : State} (h : s.Canon) (id : WeaveId) (g : Agent) (a : Attrs) (q : Req) (d : ObjDesc) {r : Loaded}
    (e : s.loadObject id g a q d = .ok r) : r.state.Canon := by
  unfold State.loadObject at e
  extract_lets ls tagged s1 at e
  have h1 : s1.Canon := h.walkAll _ _ _
  split at e
  · cases e
  split at e
  · cases e
  split at e
  · cases e
  split at e
  · cases e
  split at e
  · cases e
  next s2 viewed ev =>
  have h2 : s2.Canon := by
    split at ev
    · exact h1.viewLanes id g q d ls ev
    · exact (Prod.mk.inj (Except.ok.inj ev)).1 ▸ h1
  extract_lets seen plain sends s3 at e
  split at e
  · cases e
  have h3 : s3.Canon := h2.observeRun _ _ _ _
  split at e
  · cases e
  next lines el =>
  have h4 := fun ps => (h3.readyLines _ (fun t p ht => ht.loadLine _ _ _ _) lines el).freshenHalves g.core ps
  exact Except.ok.inj e ▸ .ite _ ((h4 _).acquire _ _) (h4 _)

theorem State.Canon.load {s : State} (h : s.Canon) (id : WeaveId) (g : Agent) (a : Attrs) (q : Req) {r : Loaded}
    (e : s.load id g a q = .ok r) : r.state.Canon := by
  unfold State.load at e
  split at e
  · cases e
  split at e
  · split at e
    · cases e
    split at e
    · cases e
    · exact Except.ok.inj e ▸ .ite _ (h.acquire _ _) h
  · exact h.loadObject id g a q _ e
  · exact Except.ok.inj e ▸ h

end Sys2Proof.Machine
end

section
/-! ## Stores, atomics and operations -/

namespace Sys2Proof.Machine

theorem State.Canon.openLines {s : State} (h : s.Canon) (object : Nat) (b : Bundle) (lines : List Nat) :
    (s.openLines object b lines).1.Canon := by
  refine State.Canon.foldl_fst h _ fun x n hx => ?_
  split
  next t e => exact hx.openLine _ _ _ t e
  · exact hx

theorem State.Canon.storeBundled {s : State} (h : s.Canon) (w : Weave) (g : Agent) (q : Req) (d : ObjDesc) (ls : List LaneAt) (vals : Nat → Nat) :
    (s.storeBundled w g q d ls vals).Canon := by
  unfold State.storeBundled
  split
  · exact h
  · exact ((h.openLines _ _ _).foldl _ fun _ _ hu => hu.openWrite _ _ _ _).foldl _ fun _ _ hv => hv.openClean _ _ _

theorem State.Canon.settleLanes {s : State} (h : s.Canon) (g : Agent) (q : Req) (d : ObjDesc) (ls : List LaneAt) :
    CanonOk (s.settleLanes g q d ls) := by
  unfold State.settleLanes
  extract_lets lines t barred
  have ht : t.Canon := h.foldl _ fun _ _ hu => hu.settleLine _ _ _
  split
  · exact .error _
  · exact .ok ht

theorem State.Canon.clearance {s : State} (h : s.Canon) (w : Weave) (g : Agent) (a : Attrs) (q : Req) (d : ObjDesc) (ls : List LaneAt) (atomic : Bool) (sends : State → LaneAt → Bool) :
    CanonOk (s.clearance w g a q d ls atomic sends) := by
  unfold State.clearance
  split
  · exact .error _
  split
  · exact .error _
  next s1 e1 =>
  have h1 : s1.Canon := by
    split at e1
    · split at e1
      · cases e1
      · exact Except.ok.inj e1 ▸ h
    · exact h.settleLanes _ _ _ _ _ e1
  extract_lets bad s2 s3
  have h2 : s2.Canon := h1.walkAll _ _ _
  have h3 : s3.Canon := .ite _ (h2.release _ _) h2
  exact .ite _ (.error _) (.ite _ (.error _) (.ite _ (.error _) (.ite _ (.error _) (.ite _ (.error _) (.ok (h3.observeRun _ _ _ _))))))

theorem State.Canon.storeObject {s : State} (h : s.Canon) (w : Weave) (g : Agent) (a : Attrs) (q : Req) (d : ObjDesc) (vals : Nat → Nat) :
    CanonOk (s.storeObject w g a q d vals) := by
  unfold State.storeObject
  extract_lets ls
  have hc := h.clearance w g a q d ls false
  split
  · exact .error _
  next s1 e1 =>
  have h1 : s1.Canon := hc _ s1 e1
  split
  · exact .ok (h1.storeBundled _ _ _ _ _ _)
  split
  · exact .error _
  next s2 e2 =>
  have h2 : s2.Canon := h1.readyLines _ (fun t p ht => ht.storeLine _ _ _) s2 e2
  exact .ok ((h2.foldl _ fun _ _ ht => ht.foldl _ fun _ _ hu => hu.storeByte _ _ _ _).clearPoison _)

theorem State.Canon.store' {s : State} (h : s.Canon) (w : Weave) (g : Agent) (a0 : Attrs) (q : Req) (vals : Nat → Nat) :
    CanonOk (s.store' w g a0 q vals) := by
  unfold State.store'
  split
  · exact .error _
  extract_lets lone a t
  have ht : t.Canon := .ite _ (h.release _ _) h
  split
  · exact .error _
  split
  · split
    · exact .error _
    split
    · exact .error _
    · exact .ok ((ht.foldl _ fun _ _ hu => hu.sramWrite _ _ _ _).clearKeys _)
  · exact h.storeObject _ _ _ _ _ _
  · exact .ok h

theorem State.Canon.atomicObject {s : State} (h : s.Canon) (w : Weave) (g : Agent) (a : Attrs) (q : Req) (d : ObjDesc)
    (f : Nat → Nat → Option Nat) {r : AtomicDone} (e : s.atomicObject w g a q d f = .ok r) : r.1.Canon := by
  unfold State.atomicObject at e
  extract_lets ls at e
  have hc := h.clearance w g a q d ls true
  split at e
  · cases e
  next s1 e1 =>
  have h1 : s1.Canon := hc _ s1 e1
  split at e
  · cases e
  next s2 e2 =>
  have h2 : s2.Canon := h1.readyLines _ (fun t p ht => ht.atomicLine _ _ _) s2 e2
  extract_lets r' at e
  have hr : r'.1.Canon := State.Canon.foldl_fst (p := (s2, [])) h2 _ fun x l hx => by
    simp only
    split
    · exact hx.foldl _ fun _ _ hu => hu.refreshL1 _ _ _ _
    · exact hx.foldl _ fun _ _ hu => hu.atomicPoke _ _ _ _
  exact Except.ok.inj e ▸ .ite _ (hr.acquire _ _) hr

theorem State.Canon.atomic {s : State} (h : s.Canon) (w : Weave) (g : Agent) (a : Attrs) (q : Req) (f : Nat → Nat → Option Nat)
    {r : AtomicDone} (e : s.atomic w g a q f = .ok r) : r.1.Canon := by
  unfold State.atomic at e
  split at e
  · cases e
  extract_lets t r' at e
  have ht : t.Canon := .ite _ (h.release _ _) h
  have hr : r'.1.Canon := State.Canon.foldl_fst (p := (t, [])) ht _ fun x l hx => by
    simp only
    split
    · exact hx
    · exact hx.sramWrite _ _ _ _
  split at e
  · split at e
    · cases e
    split at e
    · cases e
    split at e
    · cases e
    · exact Except.ok.inj e ▸ .ite _ (hr.acquire _ _) hr
  · exact h.atomicObject w g a q _ f e
  · exact Except.ok.inj e ▸ h

/-! ### Faults, waits and flights -/

theorem State.Canon.leaveLatch {s : State} (h : s.Canon) (id : WeaveId) (st : Strand) : (s.leaveLatch id st).Canon := h

theorem State.Canon.enter {s : State} (h : s.Canon) (id : WeaveId) (st : Strand) (c : EntryCause) (i : FaultInfo) :
    (s.enter id st c i).Canon := by
  unfold State.enter
  split
  · exact h
  · exact ((h.sramWrite _ _ _ _).leaveLatch _ _).onWeave _ _

theorem State.Canon.markFaulted {s : State} (h : s.Canon) (crew : Nat) : (s.markFaulted crew).Canon := by
  unfold State.markFaulted
  split <;> exact h

theorem State.Canon.endStreams {s : State} (h : s.Canon) (id : WeaveId) : (s.endStreams id).Canon := by
  unfold State.endStreams
  split <;> exact h

theorem State.Canon.stopWeave {s : State} (h : s.Canon) (id : WeaveId) : (s.stopWeave id).Canon := by
  unfold State.stopWeave
  split
  · exact h
  · exact .ite _ (h.endStreams _) ((h.endStreams _).markFaulted _)

theorem State.Canon.vector {s : State} (h : s.Canon) (id : WeaveId) (st : Strand) (i : FaultInfo) : (s.vector id st i).Canon := by
  unfold State.vector
  split
  · exact h
  split
  · exact (h.stopWeave _).sendError _ _
  · exact h.enter _ _ _ _

theorem State.Canon.returnFrom {s : State} (h : s.Canon) (w : Weave) (st : Strand) : CanonOk (s.returnFrom w st) := by
  unfold State.returnFrom
  extract_lets at' cause pc mask
  exact .ite _ (.error _) (.ite _ (.error _) (.ok h))

theorem State.Canon.startWait {s : State} (h : s.Canon) (on : WaitOn) : (s.startWait on).Canon := h

theorem State.Canon.refuse {s : State} (h : s.Canon) (line : Nat) : (s.refuse line).Canon := h

theorem State.Canon.refusePending {s : State} (h : s.Canon) (id line : Nat) : (s.refusePending id line).Canon := h

theorem State.Canon.joinFill {s : State} (h : s.Canon) (hd : Holder) (line : Nat) (early : Bool) : (s.joinFill hd line early).Canon := h

theorem State.Canon.adoptMap {s : State} (h : s.Canon) (core die : Nat) : (s.adoptMap core die).Canon := h

theorem State.Canon.clearRefusal {s : State} (h : s.Canon) : s.clearRefusal.Canon := h

theorem State.Canon.fly {s : State} (h : s.Canon) (info : FaultInfo) (dest : Dest) (lanesAt : List (Option Nat)) (bad : LaneMask) (certain : Bool) :
    (s.fly info dest lanesAt bad certain).Canon := h

theorem State.Canon.dropFlight {s : State} (h : s.Canon) (id : Nat) : (s.dropFlight id).Canon := h

theorem State.Canon.dataFault {s : State} (h : s.Canon) (f0 : Flight) (c : Cause) (m : LaneMask) : (s.dataFault f0 c m).Canon := by
  unfold State.dataFault
  extract_lets f
  split
  · exact h
  extract_lets t
  have ht : t.Canon := h
  split
  · exact ht
  split
  · exact ht
  · refine State.Canon.vector ?_ _ _ _
    split <;> exact ht

theorem State.Canon.answered {s : State} (h : s.Canon) (x0 : Stop) : (s.answered x0).Canon := by
  unfold State.answered
  split
  · exact .ite _ (h.endL _ _) h
  · exact h
  · exact h
  · exact h

theorem State.Canon.stopped {s : State} (h : s.Canon) (x0 : Stop) : (s.stopped x0).Canon := by
  unfold State.stopped
  split
  · exact h.vector _ _ _
  · exact (h.onViews _ _).vector _ _ _
  · exact h
  · exact h.answered _
  · exact h.answered _

theorem State.Canon.issued {s : State} (h : s.Canon) : s.issued.Canon := h

theorem State.Canon.leave {s : State} (h : s.Canon) (i : Instr) (w : Weave) (q : Req) (slot : Option (Nat × Nat)) :
    (s.leave i w q slot).Canon := by
  unfold State.leave
  extract_lets g t
  have ht : t.Canon := .ite _ h h
  exact ht

theorem State.Canon.undone {s : State} (h : s.Canon) (id since : Nat) (x0 : Stop) : (s.undone id since x0).Canon := by
  unfold State.undone
  split
  · exact .ite _ h (h.dataFault _ _ _)
  · exact h.answered _
  · exact h.answered _

/-- An instruction whose body keeps the canonical form keeps it, whatever stops it. -/
theorem State.Canon.run {s : State} (h : s.Canon) (i : Instr) {body : Body} (hb : ∀ w t, t.Canon → CanonOk (body w t)) :
    CanonNext (run i s body) := by
  unfold Machine.run
  split
  · exact .fault _
  next w _ =>
  split
  next id since v _ =>
    have hr := hb v s h
    split
    next u e => exact .next (hr u e)
    · exact .next (h.undone _ _ _)
  split
  · exact .next (h.vector _ _ _)
  have hr := hb w s.issued h
  split
  next u e => exact .next (hr u e)
  · exact .next (State.Canon.leave (s := s.issued) h _ _ _ _)
  · exact .next (h.stopped _)

theorem State.Canon.failing {s : State} (_h : s.Canon) (w : Weave) (c : Cause) (access : Nat) : CanonOk (failing s w c access) := .error _
theorem State.Canon.writeScal {s : State} (h : s.Canon) (d : RegField) (x : DWord) : CanonOk (writeScal s d x) := .ok h

theorem State.Canon.flyScal {s : State} (h : s.Canon) (w : Weave) (d : RegField) (x : DWord) : CanonOk (flyScal w s d x) := .ok h

theorem State.Canon.writeLanes {s : State} (h : s.Canon) (w : Weave) (d : Nat) (f : Nat → Word) : CanonOk (writeLanes w s d f) := .ok h

theorem State.Canon.writePred {s : State} (h : s.Canon) (w : Weave) (k : Nat) (p : Nat → Bool) : CanonOk (writePred w s k p) := .ok h

theorem State.Canon.jump {s : State} (h : s.Canon) (pc : BitVec 32) : CanonOk (jump s pc) := .ok h

theorem CanonOk.whenArrived {s : State} {x : Except Stop State} (hx : CanonOk x) (w : Weave) : CanonOk (whenArrived w s x) := by
  unfold Machine.whenArrived
  split
  · exact .error _
  · exact hx

end Sys2Proof.Machine
end

section
/-! ## Members that access memory -/

namespace Sys2Proof.Machine

/-! ### Members that write registers of their own weave -/

theorem State.Canon.salu {s : State} (h : s.Canon) (i : Instr) (b a d : RegField) (f : DWord → DWord → DWord) :
    CanonNext (salu i b a d s f) := h.run _ fun _ _ ht => .ok ht

theorem State.Canon.salui {s : State} (h : s.Canon) (i : Instr) (a d : RegField) (f : DWord → DWord) : CanonNext (salui i a d s f) :=
  h.run _ fun _ _ ht => .ok ht

theorem State.Canon.lane3 {s : State} (h : s.Canon) (i : Instr) (p : BitVec 4) (b a d : RegField) (f : Word → Word → Word → Word) :
    CanonNext (lane3 i p b a d s f) := h.run _ fun _ _ ht => .ok ht

theorem State.Canon.lane2 {s : State} (h : s.Canon) (i : Instr) (p : BitVec 4) (b d : RegField) (f : Word → Word → Word) :
    CanonNext (lane2 i p b d s f) := h.run _ fun _ _ ht => .ok ht

theorem State.Canon.laneImm {s : State} (h : s.Canon) (i : Instr) (a d : RegField) (f : Word → Word) : CanonNext (laneImm i a d s f) :=
  h.run _ fun _ _ ht => .ok ht

theorem State.Canon.floatLane {s : State} (h : s.Canon) (i : Instr) (f : Fmt) (p : BitVec 4) (b a d : RegField) (draws : Bool) (op : FloatOp) :
    CanonNext (floatLane i f p b a d s draws op) := h.run _ fun _ _ ht => .ok ht

theorem State.Canon.sfu {s : State} (h : s.Canon) (i : Instr) (p : BitVec 4) (b a d : RegField) (f : FpMode → Nat → Fp → Fp → Nat) :
    CanonNext (sfu i p b a d s f) := h.run _ fun _ _ ht => .ok ht

theorem State.Canon.execPgq {s : State} (h : s.Canon) (a d : RegField) : CanonNext (execPgq a d s) := h.run _ fun w t ht => by
  split
  · exact ht.writeScal _ _
  · exact .error _

/-! ### Control flow -/

theorem State.Canon.execBcc {s : State} (h : s.Canon) (o : BitVec 11) (c : BitVec 3) (b a : RegField) : CanonNext (execBcc o c b a s) :=
  h.run _ fun _ _ ht => .ite _ (ht.jump _) (.ok ht)

theorem State.Canon.jumpTo {t u : State} (h : u.Canon) (w : Weave) (x : DWord) : CanonOk (jumpTo w t u x) :=
  .ite _ (.error _) (.ite _ (.error _) (h.jump _))
theorem State.Canon.execRet {s : State} (h : s.Canon) : CanonNext (execRet s) := h.run _ fun _ _ ht => ht.jumpTo _ _

theorem State.Canon.execJmpr {s : State} (h : s.Canon) (a d : RegField) : CanonNext (execJmpr a d s) :=
  h.run _ fun _ _ ht => State.Canon.jumpTo (u := State.onMe _ _) ht _ _

theorem State.Canon.execBrv {s : State} (h : s.Canon) (o : BitVec 14) (sense : BitVec 1) (p : BitVec 3) :
    CanonNext (execBrv o sense p s) := h.run _ fun w t ht => by
  refine .ite _ (ht.jump _) (.ite _ (.ok ht) ?_)
  split
  · exact .error _
  · exact .ok ht

theorem State.Canon.execJoin {s : State} (h : s.Canon) (o : BitVec 18) : CanonNext (execJoin o s) := h.run _ fun w t ht => by
  split
  · exact .error _
  · exact .ok ht

theorem State.Canon.execExit {s : State} (h : s.Canon) : CanonNext (execExit s) := h.run _ fun w t ht => by
  split
  · exact .ok (ht.stopWeave _)
  · exact .ok ht
  · exact .ok ht

theorem State.Canon.execRte {s : State} (h : s.Canon) : CanonNext (execRte s) := h.run _ fun w t ht => by
  split
  next u e => exact .ok (ht.returnFrom _ _ u e)
  · exact .error _

theorem State.Canon.completeWait {s : State} (h : s.Canon) (core a : Nat) (target : BitVec 32) : CanonOk (s.completeWait core a target) :=
  (h.acquire _ _).jump _

theorem State.Canon.waitOn {s : State} (h : s.Canon) (i : Instr) (d : RegField) (wants : Bool → Bool) (target : BitVec 32 → BitVec 32) :
    CanonNext (waitOn i d s wants target) := h.run _ fun w t ht => by
  extract_lets v locator at' want
  split
  · exact .error _
  · exact .ite _ (.ite _ (.error _) (ht.completeWait _ _ _)) (.error _)

theorem State.Canon.execMfc {s : State} (h : s.Canon) (c d : RegField) : CanonNext (execMfc c d s) := h.run _ fun w t ht => by
  split
  · exact .error _
  · exact ht.writeScal _ _

theorem State.Canon.renewInjection {s : State} (h : s.Canon) (id : WeaveId) : (s.renewInjection id).Canon := h

theorem State.Canon.execMtc {s : State} (h : s.Canon) (a c : RegField) : CanonNext (execMtc a c s) := h.run _ fun w t ht => by
  split
  · exact .error _
  · exact .ok (.ite _ ht ht)

/-! ### Indexed registers and queues -/

theorem State.Canon.execVldx {s : State} (h : s.Canon) (x : BitVec 2) (a d : RegField) : CanonNext (execVldx x a d s) :=
  h.run _ fun _ _ ht => .ite _ (.error _) (ht.writeLanes _ _ _)

theorem State.Canon.execVstx {s : State} (h : s.Canon) (p : BitVec 4) (b a : RegField) (x : BitVec 2) : CanonNext (execVstx p b a x s) :=
  h.run _ fun _ _ ht => .ite _ (.error _) (.ok ht)

theorem State.Canon.execQpush {s : State} (h : s.Canon) (a : RegField) (k : BitVec 1) (q : BitVec 2) : CanonNext (execQpush a k q s) :=
  h.run _ fun _ _ ht => .ite _ (.error _) (.ite _ (.error _) (.ok ht))

theorem State.Canon.popBody {t : State} (h : t.Canon) (k : BitVec 1) (q : Nat) (d : RegField) (remove : Bool) (w : Weave) :
    CanonOk (popBody k q d remove w t) := by
  unfold Machine.popBody
  refine .ite _ (.error _) ?_
  split
  · exact .error _
  extract_lets u
  have hu : u.Canon := .ite _ h h
  refine .ite _ (hu.writeLanes _ _ _) ?_
  split
  · exact .error _
  · exact hu.writeScal _ _

/-! ### Loads and stores -/

theorem State.Canon.loadScalar {t : State} (h : t.Canon) (i : Instr) (f : BitVec 1) (wd : BitVec 2) (e : BitVec 1) (c h' d : RegField)
    (w : Weave) : CanonOk (loadScalar i f wd e c h' d w t) := by
  unfold Machine.loadScalar
  refine .ite _ (.error _) ?_
  simp only
  split
  · exact .error _
  next r e => exact .ok (h.load _ _ _ _ e)
theorem State.Canon.execLdc {s : State} (h : s.Canon) (f : BitVec 1) (c hd d : RegField) : CanonNext (execLdc f c hd d s) := h.run _ fun w t ht => by
  refine .ite _ (.error _) ?_
  simp only
  split
  · exact .error _
  refine .ite _ (.error _) ?_
  split
  · exact .error _
  next r e => exact .ok (ht.load _ _ _ _ e)

theorem State.Canon.execVld {s : State} (h : s.Canon) (f : BitVec 1) (wd : BitVec 2) (e : BitVec 1) (c hd d : RegField) :
    CanonNext (execVld f wd e c hd d s) := h.run _ fun w t ht => by
  refine .ite _ (.error _) ?_
  simp only
  split
  · exact .error _
  next r e => exact .ok (ht.load _ _ _ _ e)

theorem State.Canon.execVgth {s : State} (h : s.Canon) (wd : BitVec 2) (sg : BitVec 1) (sc : BitVec 2) (b a d : RegField) :
    CanonNext (execVgth wd sg sc b a d s) := h.run _ fun w t ht => by
  refine .ite _ (.error _) ?_
  simp only
  split
  · exact .error _
  next r e => exact .ok (ht.load _ _ _ _ e)

theorem State.Canon.reserve {s : State} (h : s.Canon) (q : Nat) (held : Option QEntry) (kept : List LaneReg) :
    (s.reserve q held kept).1.Canon := by
  unfold State.reserve
  split <;> exact h

theorem State.Canon.queueLoad {t : State} (h : t.Canon) (i : Instr) (w : Weave) (a : Attrs) (rq : Req) (q : Nat)
    {reserve : State → State × Nat} (hr : ∀ u, u.Canon → (reserve u).1.Canon) (word : Nat → Word) :
    CanonOk (queueLoad i w t a rq q reserve word) := by
  unfold Machine.queueLoad
  split
  · exact .ok ((hr t h).leave _ _ _ _)
  · exact .error _
  next r e =>
  have hl := h.load _ _ _ _ e
  extract_lets u
  have hu : u.1.Canon := by
    unfold u
    split
    · exact hl
    · exact hr _ hl
  exact .ok hu

theorem State.Canon.execLdq {s : State} (h : s.Canon) (f : BitVec 1) (wd : BitVec 2) (e : BitVec 1) (c hd : RegField) (q : BitVec 2) :
    CanonNext (execLdq f wd e c hd q s) := h.run _ fun _ _ ht =>
  .ite _ (.error _) (.ite _ (.error _) (.ite _ (.error _) (ht.queueLoad _ _ _ _ _ (fun _ hu => hu.reserve _ _ _) _)))

theorem State.Canon.execGthq {s : State} (h : s.Canon) (wd : BitVec 2) (sg : BitVec 1) (sc : BitVec 2) (b a : RegField) (qi qd : BitVec 2) :
    CanonNext (execGthq wd sg sc b a qi qd s) := by
  refine h.run _ fun w t ht => ?_
  extract_lets at' object held idx base
  clear_value idx
  refine .ite _ (.error _) ?_
  split
  · exact .error _
  next vs scalar _ =>
  exact .ite _ (.error _) (.ite _ (.error _)
    (ht.queueLoad _ _ _ _ _ (fun u hu => State.Canon.reserve (.ite _ hu (hu.onMe _)) _ _ _) _))

theorem State.Canon.storeScalar {t : State} (h : t.Canon) (i : Instr) (f : BitVec 1) (wd : BitVec 2) (c h' d : RegField) (w : Weave) :
    CanonOk (storeScalar i f wd c h' d w t) := .ite _ (.error _) (h.store' _ _ _ _ _)
theorem State.Canon.execStc {s : State} (h : s.Canon) (f : BitVec 1) (c hd d : RegField) : CanonNext (execStc f c hd d s) := h.run _ fun w t ht => by
  refine .ite _ (.error _) ?_
  simp only
  split
  · exact .error _
  · exact .ite _ (.error _) (ht.store' _ _ _ _ _)

theorem State.Canon.execVst {s : State} (h : s.Canon) (f : BitVec 1) (wd : BitVec 2) (c hd d : RegField) :
    CanonNext (execVst f wd c hd d s) := h.run _ fun _ _ ht => .ite _ (.error _) (ht.store' _ _ _ _ _)

theorem State.Canon.execVsct {s : State} (h : s.Canon) (wd : BitVec 2) (sg : BitVec 1) (sc : BitVec 2) (b a d : RegField) :
    CanonNext (execVsct wd sg sc b a d s) := h.run _ fun _ _ ht => .ite _ (.error _) (ht.store' _ _ _ _ _)

theorem State.Canon.queueStore {t : State} (h : t.Canon) (i : Instr) (w : Weave) {r : Except Stop State} (hr : CanonOk r)
    (pop : Weave → Weave) : CanonOk (queueStore i w t r pop) := by
  unfold Machine.queueStore
  split
  · exact .ite _ (.error _) (.ok ((h.leave i w _ _).onMe pop))
  · exact .error _
  next u =>
  have hu := hr u rfl
  split
  · exact .ok (.ite _ hu hu)
  · exact .ok hu
theorem State.Canon.execStq {s : State} (h : s.Canon) (f : BitVec 1) (wd : BitVec 2) (c hd : RegField) (q : BitVec 2) :
    CanonNext (execStq f wd c hd q s) := h.run _ fun w t ht => by
  refine .ite _ (.error _) ?_
  split
  · exact .error _
  split
  · exact .error _
  · exact .ite _ (.error _) (ht.queueStore _ _ (ht.store' _ _ _ _ _) _)

theorem State.Canon.execSctq {s : State} (h : s.Canon) (wd : BitVec 2) (sg : BitVec 1) (sc : BitVec 2) (b a : RegField) (qi qv : BitVec 2) :
    CanonNext (execSctq wd sg sc b a qi qv s) := h.run _ fun w t ht => by
  extract_lets at' object n
  refine .ite _ (.error _) ?_
  split
  · split
    · exact .error _
    · exact .ite _ (.error _) (.ite _ (.error _) (ht.queueStore _ _ (ht.store' _ _ _ _ _) _))
  · exact .error _

theorem State.Canon.countDrop {s : State} (h : s.Canon) (core : Nat) : (s.countDrop core).Canon := h

theorem State.Canon.prefetch {s : State} (h : s.Canon) (w : Weave) (st : Strand) (a : Attrs) (object : Nat) (off : Offset) :
    (s.prefetch w st a object off).Canon := by
  unfold State.prefetch
  split
  · exact h
  next p _ =>
  extract_lets t
  have ht : t.Canon := .ite _ h (h.walk _ _ _ _)
  refine .ite _ h ?_
  split
  next u e => exact ht.loadLine _ _ _ _ u e
  · exact h

theorem State.Canon.scout {s : State} (h : s.Canon) (id : WeaveId) (a : Attrs) (object : Nat) (o : DWord) :
    (s.scout id a object o).Canon := by
  unfold State.scout
  split
  · exact h
  · exact h.prefetch _ _ _ _ _

theorem State.Canon.execPref {s : State} (h : s.Canon) (f : BitVec 1) (c hd : RegField) : CanonNext (execPref f c hd s) :=
  h.run _ fun _ _ ht => .ok (ht.prefetch _ _ _ _ _)

/-! ### Atomics -/

theorem State.Canon.atomicScalar {t : State} (h : t.Canon) (i : Instr) (wd : BitVec 2) (b a d : RegField)
    (f : Weave → Strand → Nat → Option Nat) (w : Weave) : CanonOk (atomicScalar i wd b a d f w t) := by
  unfold Machine.atomicScalar
  refine .ite _ (.error _) ?_
  simp only
  split
  · exact .error _
  next r e => exact .ok (h.atomic _ _ _ _ _ e)
theorem State.Canon.atomicLanes {t : State} (h : t.Canon) (i : Instr) (b a d : RegField) (f : Weave → Nat → Nat → Option Nat) (w : Weave) :
    CanonOk (atomicLanes i b a d f w t) := by
  unfold Machine.atomicLanes
  refine .ite _ (.error _) ?_
  simp only
  split
  · exact .error _
  next r e => exact .ok (h.atomic _ _ _ _ _ e)
theorem State.Canon.execAmo {s : State} (h : s.Canon) (o : BitVec 4) (wd : BitVec 2) (b a d : RegField) :
    CanonNext (execAmo o wd b a d s) := h.run _ fun _ _ ht => .ite _ (.error _) (ht.atomicScalar _ _ _ _ _ _ _)

theorem State.Canon.execCas {s : State} (h : s.Canon) (wd : BitVec 2) (b a d : RegField) : CanonNext (execCas wd b a d s) :=
  h.run _ fun _ _ ht => ht.atomicScalar _ _ _ _ _ _ _

theorem State.Canon.execVamo {s : State} (h : s.Canon) (o : BitVec 4) (b a d : RegField) : CanonNext (execVamo o b a d s) :=
  h.run _ fun _ _ ht => .ite _ (.error _) (ht.atomicLanes _ _ _ _ _ _)

theorem State.Canon.execVcas {s : State} (h : s.Canon) (b a d : RegField) : CanonNext (execVcas b a d s) :=
  h.run _ fun _ _ ht => ht.atomicLanes _ _ _ _ _ _

/-! ### Ports -/

theorem State.Canon.execNpush {s : State} (h : s.Canon) (p : BitVec 4) (b : RegField) (n : BitVec 3) : CanonNext (execNpush p b n s) := h.run _ fun w t ht => by
  extract_lets port a u act lanes source
  have hu : u.Canon := .ite _ (ht.release _ _) ht
  split
  · exact .error _
  · exact .ite _ (.error _) (.ite _ (.error _) (.ite _ (.error _) (.ite _ (.ok hu) (.ok hu))))

theorem State.Canon.portPop {t : State} (h : t.Canon) (i : Instr) (n : BitVec 3) (d : RegField) (remove : Bool) (w : Weave) :
    CanonOk (portPop i n d remove w t) := by
  unfold Machine.portPop
  extract_lets port a f act u v
  have hu : u.Canon := .ite _ h h
  have hv : v.Canon := .ite _ (hu.acquire _ _) hu
  exact .ite _ (.error _) (.ite _ (.error _) (.ite _ (.error _) (hv.writeLanes _ _ _)))
theorem State.Canon.execNpoll {s : State} (h : s.Canon) (n : BitVec 3) (k : BitVec 1) (p : BitVec 3) : CanonNext (execNpoll n k p s) := h.run _ fun w t ht => by
  refine .ite _ (.error _) (.ite _ (ht.writePred _ _ _) ?_)
  split
  · exact .error _
  · exact ht.writePred _ _ _

theorem State.Canon.sramStore {s : State} (h : s.Canon) (core a : Nat) (bs : List Byte) : (s.sramStore core a bs).Canon :=
  h.foldl _ fun _ _ ht => ht.sramSet _ _ _

theorem State.Canon.execNsave {s : State} (h : s.Canon) (n : BitVec 3) (a : RegField) : CanonNext (execNsave n a s) := h.run _ fun w t ht => by
  extract_lets port at'
  split
  · exact .error _
  split
  · exact .error _
  · exact .ite _ (.error _) (.ok (ht.sramStore _ _ _))

theorem State.Canon.execNload {s : State} (h : s.Canon) (n : BitVec 3) (a : RegField) : CanonNext (execNload n a s) := h.run _ fun w t ht => by
  refine .ite _ (.error _) ?_
  split
  · exact .error _
  split
  · exact .error _
  · exact .ok ht

theorem State.Canon.execXshuf {s : State} (h : s.Canon) (a d : RegField) : CanonNext (execXshuf a d s) := h.run _ fun w t ht => by
  refine .ite _ (.error _) (.ite _ (.error _) ?_)
  simp only
  split
  · exact .error _
  · exact .ok ht

/-! ### Synchronisation -/

theorem State.Canon.execFence {s : State} (h : s.Canon) (sc o : BitVec 3) : CanonNext (execFence sc o s) := h.run _ fun w t ht => by
  extract_lets scope u
  have hu : u.Canon := .ite _ (ht.release _ _) ht
  exact .ite _ (.error _) (.ok (.ite _ (hu.acquire _ _) hu))

theorem State.Canon.execAcqp {s : State} (h : s.Canon) (a : RegField) (sc : BitVec 3) : CanonNext (execAcqp a sc s) :=
  h.run _ fun _ _ ht => .ite _ (.error _) (.ite _ (.error _) (.ok ht))

theorem State.Canon.drain {s : State} (h : s.Canon) (thief victim : Nat) (sc : Scope) : (s.drain thief victim sc).Canon :=
  ((h.flushL1 _ _).acquireCaches _ _).acquire _ _

theorem State.Canon.noteFlip {s : State} (h : s.Canon) (core a : Nat) (sc : Scope) : (s.noteFlip core a sc).Canon := h

theorem State.Canon.freshPhase {s : State} (h : s.Canon) (core a : Nat) : (s.freshPhase core a).Canon := h

theorem State.Canon.flipIfDone {s : State} (h : s.Canon) (core a : Nat) (sc : Scope) : (s.flipIfDone core a sc).Canon :=
  .ite _ ((((h.sramSet _ _ _).sramWrite _ _ _ _).noteFlip _ _ _).freshPhase _ _) h

theorem State.Canon.arrive {s : State} (h : s.Canon) (core a : Nat) (sc : Scope) : (s.arrive core a sc).Canon :=
  (h.sramWrite _ _ _ _).flipIfDone _ _ _

theorem State.Canon.barArrive {s : State} (h : s.Canon) (w : Weave) (o : Nat) : (s.barArrive w o).Canon :=
  ((h.release _ _).onWeave _ _).arrive _ _ _

theorem State.Canon.barComplete {s : State} (h : s.Canon) (id : WeaveId) (o : Nat) : (s.barComplete id o).Canon :=
  (h.onWeave _ _).acquire _ _

theorem State.Canon.waitHere {s : State} (h : s.Canon) (o : Nat) (phase : Bool) : (s.waitHere o phase).Canon := h

theorem State.Canon.execBar {s : State} (h : s.Canon) (d : RegField) : CanonNext (execBar d s) := h.run _ fun w t ht => by
  extract_lets o
  split
  · exact .error _
  · exact .ite _ (.ok ((ht.barArrive _ _).barComplete _ _)) (.ok ((ht.barArrive _ _).waitHere _ _))

theorem State.Canon.execBara {s : State} (h : s.Canon) (d : RegField) : CanonNext (execBara d s) := h.run _ fun w t ht => by
  extract_lets o
  split
  · exact .error _
  · exact .ok (ht.barArrive _ _)

theorem State.Canon.execBarw {s : State} (h : s.Canon) (d : RegField) : CanonNext (execBarw d s) := h.run _ fun w t ht => by
  extract_lets o
  split
  · exact .error _
  · exact .ite _ (.ok (ht.acquire _ _)) (.ite _ (.ok (ht.barComplete _ _)) (.ok (ht.waitHere _ _)))

theorem State.Canon.execBinit {s : State} (h : s.Canon) (a d : RegField) : CanonNext (execBinit a d s) := by
  refine h.run _ fun w t ht => ?_
  extract_lets o n u
  have hu : u.Canon := (ht.sramWrite _ _ _ _).freshPhase _ _
  clear_value u
  exact .ite _ (.error _) (.ite _ (.error _) (.ite _ (.error _) (.ite _ (.ok hu) (.ok hu))))

theorem State.Canon.levelReady {s : State} (h : s.Canon) (core : Nat) (sc : Scope) (p : Place) : CanonOk (s.levelReady core sc p) := by
  have ht := (h.freshenHalves core [p]).homeSync p.line
  exact .ite _ (.error _) (.ok (.ite _ ht (ht.homeSync _)))

theorem State.Canon.observeWord {s : State} (h : s.Canon) (g : Agent) (a : Attrs) (q : Req) {r : State × Word}
    (e : s.observeWord g a q = .ok r) : r.1.Canon := by
  unfold State.observeWord at e
  split at e
  · cases e
  extract_lets o at e
  split at e
  · split at e
    · cases e
    · exact Except.ok.inj e ▸ h
  · extract_lets ps at e
    split at e
    · cases e
    split at e
    · cases e
    split at e
    · cases e
    split at e
    · cases e
    next t et =>
    exact Except.ok.inj e ▸ h.readyLines _ (fun _ _ ht => ht.levelReady _ _ _) t et
  · exact Except.ok.inj e ▸ h
theorem State.Canon.waitvRun {s : State} (h : s.Canon) (t : State) (g : Agent) (a : Attrs) (q : Req) : (s.waitvRun t g a q).Canon := by
  unfold State.waitvRun
  split
  · exact h
  · exact h.observeRun _ _ _ _
theorem State.Canon.execWaitv {s : State} (h : s.Canon) (b a d : RegField) : CanonNext (execWaitv b a d s) := h.run _ fun w t ht => by
  refine .ite _ (.error _) ?_
  simp only
  split
  · exact .error _
  next u0 x e =>
  have hu := (ht.observeWord _ _ _ e).waitvRun
  exact .ite _ (.error _) (.ite _ (((hu _ _ _ _).acquire _ _).writeScal _ _) (.error _))

/-! ### Bundle members -/

theorem State.Canon.answerOpen {s : State} (h : s.Canon) (w : Weave) (hd n : Nat) : (s.answerOpen w hd n).1.Canon := by
  unfold State.answerOpen
  extract_lets u
  have hu : u.Canon := h.objSync _ _ _ _
  split
  · exact hu
  split
  · exact hu
  split
  · exact hu
  · exact hu.putBundle _

theorem State.Canon.answerJoin {s : State} (h : s.Canon) (w : Weave) (hd : Nat) : (s.answerJoin w hd).1.Canon := by
  unfold State.answerJoin
  split
  · exact h
  simp only
  split
  · exact h
  split
  · exact h
  split
  · exact h
  · exact h.putBundle _

theorem State.Canon.flyCoord {s : State} (h : s.Canon) (w : Weave) (d : RegField) (op : CoordOp) : CanonOk (flyCoord w s d op) := .ok h

theorem State.Canon.execBopen {s : State} (h : s.Canon) (b a d : RegField) : CanonNext (execBopen b a d s) := h.run _ fun w t ht => by
  refine .ite _ (.error _) ?_
  split
  · exact .error _
  · exact .ite _ (.error _) (ht.flyCoord _ _ _)

theorem State.Canon.execBjoin {s : State} (h : s.Canon) (a d : RegField) : CanonNext (execBjoin a d s) := h.run _ fun w t ht => by
  extract_lets hd
  split
  · exact .error _
  · exact .ite _ (.error _) (ht.flyCoord _ _ _)

theorem State.Canon.answerClose {s : State} (h : s.Canon) (w : Weave) : (s.answerClose w).1.Canon := by
  unfold State.answerClose
  extract_lets left
  split
  · exact h
  split
  · exact h
  split
  · exact h
  · exact (h.release _ _).putBundle _

theorem State.Canon.execBclose {s : State} (h : s.Canon) (d : RegField) : CanonNext (execBclose d s) := h.run _ fun w t ht => by
  split
  · exact ht.flyCoord _ _ _
  split
  · exact .error _
  · exact ht.flyCoord _ _ _

theorem State.Canon.execBabort {s : State} (h : s.Canon) (a : RegField) : CanonNext (execBabort a s) := h.run _ fun w t ht => by
  extract_lets hd
  split
  · exact .error _
  split
  · exact .ok ht
  · exact .ok (ht.abortBundle _)

theorem State.Canon.settleBundle {s : State} (h : s.Canon) (b : Bundle) (g : Nat) : (s.settleBundle b g).Canon :=
  h.foldl _ fun _ _ ht => ht.settleFor _ _

theorem State.Canon.execBview {s : State} (h : s.Canon) (a d : RegField) : CanonNext (execBview a d s) := h.run _ fun w t ht => by
  extract_lets hd req committed g u held entry
  split
  · exact .error _
  split
  · exact ht.flyScal _ _ _
  split
  · exact ht.flyScal _ _ _
  have hu : u.Canon := by
    unfold u
    split
    · exact ht.settleBundle _ _
    · exact ht
  exact .ite _ (ht.flyScal _ _ _) (.ite _ (.error _) (((hu.onMe _).acquire _ _).flyScal _ _ _))

theorem State.Canon.releaseView {s : State} (h : s.Canon) (id : WeaveId) (part hd : Nat) : (s.releaseView id part hd).Canon := by
  unfold State.releaseView
  extract_lets t
  split
  · exact (h.onViews _ _).dropSpilled _
  · exact h

theorem State.Canon.execBrel {s : State} (h : s.Canon) (a : RegField) : CanonNext (execBrel a s) := h.run _ fun w t ht => by
  extract_lets hd
  split
  · exact .error _
  · exact .ok (ht.releaseView _ _ _)

theorem State.Canon.execBstat {s : State} (h : s.Canon) (a d : RegField) : CanonNext (execBstat a d s) := h.run _ fun w t ht => by
  extract_lets hd
  split
  · exact .error _
  · exact (ht.flyScal _ _ _).whenArrived _

theorem State.Canon.spillFor {s : State} (h : s.Canon) (b : Bundle) (g : Nat) : CanonSome (s.spillFor b g) := (CanonSome.some h).foldl_bind _ fun t m ht => by
  extract_lets n
  split
  · exact ht.spill _
  · exact .some ht

theorem State.Canon.pinBundle {s : State} (h : s.Canon) (part hd g fn : Nat) : (s.pinBundle part hd g fn).2.Canon := by
  unfold State.pinBundle
  split
  · exact h
  split
  · exact h
  split
  · exact h
  extract_lets t
  split
  · exact h
  split
  · exact h
  split
  · exact h
  next u e => exact ((h.settleBundle _ _).spillFor _ _ u e).putBundle _
theorem State.Canon.unpinBundle {s : State} (h : s.Canon) (part hd : Nat) : (s.unpinBundle part hd).2.Canon := by
  unfold State.unpinBundle
  split
  · exact h
  · dsimp only
    exact ((h.putBundle _).dropSpilled _).putBundle _
theorem State.Canon.answerPin {s : State} (h : s.Canon) (w : Weave) (hd : Nat) (v : DWord) : (s.answerPin w hd v).1.Canon := by
  unfold State.answerPin
  extract_lets g
  split
  · exact h.pinBundle _ _ _ _
  · exact h.unpinBundle _ _

theorem State.Canon.answer {s : State} (h : s.Canon) (id : WeaveId) (st : Strand) (d : Nat) (op : CoordOp) :
    (s.answer id st d op).Canon := by
  unfold State.answer
  split
  · exact h
  refine State.Canon.onWeave ?_ _ _
  split
  · exact h.answerOpen _ _ _
  · exact h.answerJoin _ _
  · exact h.answerClose _
  · exact h.answerPin _ _ _

theorem State.Canon.execBpin {s : State} (h : s.Canon) (a d : RegField) : CanonNext (execBpin a d s) := h.run _ fun w t ht => by
  refine .ite _ (.error _) ?_
  split
  · exact .error _
  · exact ht.flyCoord _ _ _

theorem State.Canon.commit {s : State} (h : s.Canon) (b : Bundle) : (s.commit b).Canon :=
  .ite _ h (.ite _ (h.putBundle _) (h.abortBundle _))

end Sys2Proof.Machine
end

section
/-! ## Layouts and granules of the engines -/

namespace Sys2Proof.Machine

/-! ### Re-tiling -/

theorem State.Canon.forgetRegion {s : State} (h : s.Canon) (id : RegionId) : (s.forgetRegion id).Canon := h

theorem State.Canon.sweepLines {s : State} (h : s.Canon) : s.sweepLines.Canon := h.foldl _ fun _ _ ht => ht.giveUp _ _

theorem State.Canon.sweep {s : State} (h : s.Canon) : s.sweep.Canon := by
  unfold State.sweep
  extract_lets t u v
  have hu : u.Canon := h.sweepLines.foldl _ fun _ _ hx => (hx.setRegion _).forgetRegion _
  have hv : v.Canon := .ite _ hu (hu.otbInvalidate _)
  exact ⟨hv.mem, hv.spad, hv.store, hv.hostMem⟩

theorem State.Canon.wakeBank {s : State} (h : s.Canon) (hd : Holder) : (s.wakeBank hd).Canon := by
  unfold State.wakeBank
  split
  · exact h
  · refine .ite _ (.eachLine ?_ _ fun _ _ ht => ht.giveUp _ _) h
    exact h

theorem State.Canon.nextGeneration {s : State} (h : s.Canon) : s.nextGeneration.Canon := by
  unfold State.nextGeneration
  extract_lets late t u
  have ht : t.Canon := h.foldl _ fun _ _ ht => ht.wakeBank _
  have hu : u.Canon := ht
  exact .ite _ hu.sweep hu

theorem State.Canon.touchRegion {s : State} (h : s.Canon) (id : RegionId) (d : ObjDesc) : (s.touchRegion id d).Canon :=
  (h.nextGeneration.setRegion _).forgetRegion _

theorem State.Canon.takeSites {s : State} (h : s.Canon) (part : Nat) (fs : List Nat) {x : State × List Nat}
    (e : s.takeSites part fs = some x) : x.1.Canon := by
  induction fs generalizing s x with
  | nil => exact Option.some.inj e ▸ h
  | cons f r ih =>
    unfold State.takeSites at e
    split at e
    · cases e
    next t n et =>
    have ht := h.poolTakeIf _ _ et
    obtain ⟨y, ey, rfl⟩ := Option.map_eq_some_iff.1 e
    have hy := ih ht ey
    exact hy
theorem State.Canon.startRetile {s : State} (h : s.Canon) (r : Region) (d : ObjDesc) (code : Nat) (pin : Bool) :
    (s.startRetile r d code pin).Canon := by
  unfold State.startRetile
  refine .ite _ h ?_
  extract_lets fs
  split
  · exact h
  next t new e =>
  have ht := h.takeSites _ _ e
  exact State.Canon.setRegion (s := t) ht _

theorem State.Canon.windowRegion {s : State} (h : s.Canon) (r0 : Region) : (s.windowRegion r0).Canon := by
  unfold State.windowRegion
  split
  · exact h
  next d _ =>
  extract_lets _ r u
  have hu : u.Canon := h.setRegion _
  split
  · exact hu.startRetile _ _ _ _
  split
  · exact .ite _ (hu.startRetile _ _ _ _) hu
  · exact hu

theorem State.Canon.windowEnd {s : State} (h : s.Canon) : s.windowEnd.Canon :=
  State.Canon.foldl (s := { s with window := s.window + 1, claimed := 0 }) h _ fun _ _ ht => ht.windowRegion _

theorem State.Canon.movePlaces {s : State} (h : s.Canon) (old new : List Place) : (s.movePlaces old new).Canon :=
  h.foldl _ fun _ _ ht => .ite _ (ht.memSet _ _) (ht.memSet _ _)

theorem State.Canon.moveSection {s : State} (h : s.Canon) (r r' : Region) (d : ObjDesc) (sec : Nat) : (s.moveSection r r' d sec).Canon := by
  unfold State.moveSection
  extract_lets a b es at' lines t u
  have ht : t.Canon := State.Canon.foldl ((h.settleFormer _).setRegion _) _ fun _ _ hx => hx.reclaim _
  have hu : u.Canon := .ite _ ht (ht.foldl _ fun _ _ hx => hx.unpoison _ _)
  exact (hu.foldl _ fun _ _ hx => hx.movePlaces _ _).setRegion _

theorem State.Canon.finishRetile {s : State} (h : s.Canon) (r : Region) (d : ObjDesc) : (s.finishRetile r d).Canon := by
  unfold State.finishRetile
  extract_lets fs old t u v follow contest
  have hu : u.Canon := h.nextGeneration.foldl _ fun _ _ hx => hx.homeWrite _ _ _
  have hv : v.Canon := hu.foldl _ fun _ _ hx => hx.poolReturn _ _ _
  exact (State.Canon.setRegion (s := { v with changesDone := v.changesDone + 1 }) hv _).forgetRegion _

theorem State.Canon.copySection {s : State} (h : s.Canon) (id : RegionId) : (s.copySection id).Canon := by
  unfold State.copySection
  split
  · split
    · exact h
    · extract_lets bad r' t
      have ht : t.Canon := (h.moveSection _ _ _ _).foldl _ fun _ _ hu => hu.sendError _ _
      exact .ite _ h (.ite _ (ht.finishRetile _ _) (ht.setRegion _))
  · exact h

theorem State.Canon.releaseBusy {s : State} (h : s.Canon) (id : RegionId) : (s.releaseBusy id).Canon := by
  unfold State.releaseBusy
  split
  · exact h.setRegion _
  · exact h

theorem State.Canon.abandonRetile {s : State} (h : s.Canon) (r : Region) (d : ObjDesc) : (s.abandonRetile r d).Canon := by
  unfold State.abandonRetile
  extract_lets r0 moved back t contest
  have hb : back.1.Canon := State.Canon.foldl_fst (p := (s, { r with busy := none })) h _ fun _ _ hx => hx.moveSection _ _ _ _
  have ht : t.Canon := hb.foldl _ fun _ _ hu => hu.poolReturn _ _ _
  exact .ite _ h (ht.setRegion _)

theorem State.Canon.layoutBody {t : State} (h : t.Canon) (b a : RegField) {bytes : Weave → State → Except Stop State}
    {f : Weave → State → ObjDesc → Region → Except Stop State} (hb : ∀ w, CanonOk (bytes w t)) (hf : ∀ w d r, CanonOk (f w t d r))
    (w : Weave) : CanonOk (layoutBody b a bytes f w t) := by
  unfold Machine.layoutBody
  extract_lets hd o
  split
  · exact .error _
  split
  · exact .ok h
  · exact CanonOk.whenArrived (.ite _ (hf _ _ _) (hb _)) _
theorem State.Canon.execLayq {s : State} (h : s.Canon) (b a d : RegField) : CanonNext (execLayq b a d s) :=
  h.run _ fun _ _ ht => ht.layoutBody _ _ (fun _ => ht.flyScal _ _ _) (fun _ _ _ => ht.flyScal _ _ _) _

theorem State.Canon.execLaypin {s : State} (h : s.Canon) (b a d : RegField) : CanonNext (execLaypin b a d s) := h.run _ fun _ _ ht => .ite _ (.error _)
  (ht.layoutBody _ _ (fun _ => ht.flyScal _ _ _) (fun _ _ _ => (ht.setRegion _).flyScal _ _ _) _)

theorem State.Canon.execLayadv {s : State} (h : s.Canon) (b a d : RegField) : CanonNext (execLayadv b a d s) := h.run _ fun _ _ ht => .ite _ (.error _)
  (ht.layoutBody _ _ (fun _ => ht.flyScal _ _ _) (fun _ _ _ => (ht.setRegion _).flyScal _ _ _) _)

theorem State.Canon.windowsEnd {s : State} (h : s.Canon) (n : Nat) : (s.windowsEnd n).Canon := by
  induction n generalizing s with
  | zero => exact h
  | succ n ih => exact .ite _ (ih h.windowEnd) h
theorem State.Canon.execMonitorWindowEnd {s : State} (h : s.Canon) : CanonNext (execMonitorWindowEnd s) := .next (.ite _ h.windowEnd h)

theorem State.Canon.execSectionCopy {s : State} (h : s.Canon) (id : RegionId) : CanonNext (execSectionCopy id s) :=
  .next (h.copySection _)

theorem State.Canon.execBusySectionRelease {s : State} (h : s.Canon) (id : RegionId) : CanonNext (execBusySectionRelease id s) :=
  .next (h.releaseBusy _)

/-! ### Engine threads -/

theorem State.Canon.modeVersion {s : State} (h : s.Canon) (m : MemberLine) (x0 : ReadMode) : CanonFst (s.modeVersion m x0) := by
  unfold State.modeVersion
  split
  · exact .ok h
  · split
    · exact .ok h
    next v _ =>
    extract_lets t n
    have ht : t.Canon := h.settleFor _ _
    split
    · exact .error _
    · exact .ite _ (.error _) (.ok ht)
  · exact .ok h

theorem State.Canon.engReadPart {s : State} (h : s.Canon) (part object : Nat) (still : Bool) (mode : ReadMode) (x : Nat × Nat) :
    CanonFst (s.engReadPart part object still mode x) := by
  unfold State.engReadPart
  split
  · exact .error _
  split
  · exact .error _
  next ps _ =>
  extract_lets direct
  have hd : ∀ t, t.Canon → CanonFst (direct t) := fun t ht =>
    .ite _ (.error _) (.ok (State.Canon.eachPlaceLine ht ps fun u l hu => by
      split
      · exact hu.reclaim _
      · exact hu.gather _))
  split
  · exact hd _ h
  next m _ =>
  have hm := h.modeVersion m mode
  split
  · exact .error _
  next t et => exact hd _ (hm _ et)
  next t v et =>
    have ht := hm _ et
    exact .ite _ (.error _) (.ok ht)

theorem State.Canon.engRead {s : State} (h : s.Canon) (part object b n : Nat) (still : Bool) (mode : ReadMode) :
    CanonFst (s.engRead part object b n still mode) := State.Canon.foldE_fst h _ fun q x hq => by
  have hr := hq.engReadPart part object still mode x
  split
  next t bs e =>
    have ht := hr _ e
    exact .ok ht
  · exact .error _

theorem State.Canon.engWritePart {s : State} (h : s.Canon) (part object : Nat) (still : Bool) (at' : Nat) (bs : List Byte) :
    CanonOk (s.engWritePart part object still at' bs) := by
  unfold State.engWritePart
  extract_lets t
  have ht : t.Canon := h.settleLine _ _ _
  refine .ite _ (.error _) ?_
  split
  · exact .error _
  split
  · exact .error _
  · exact .ok ((ht.homePut _ _).clearPoison _)

theorem State.Canon.engOpenPart {s : State} (h : s.Canon) (part object : Nat) (b : BitVec 32 × BitVec 32) (at' n : Nat) :
    CanonOk (s.engOpenPart part object b at' n) := by
  unfold State.engOpenPart
  split
  · split
    · exact .error _
    refine .ite _ (.error _) ?_
    split
    · exact .error _
    next t e => exact .ok (h.openLine _ _ _ t e)
  · exact .error _

theorem State.Canon.engBundlePart {s : State} (h : s.Canon) (part object : Nat) (b : BitVec 32 × BitVec 32) (at' : Nat) (bs : List Byte) :
    CanonOk (s.engBundlePart part object b at' bs) := by
  have ho := h.engOpenPart part object b at' bs.length
  unfold State.engBundlePart
  split
  · exact .error _
  next t e => exact .ok ((ho t e).openWrite _ _ _ _)

theorem State.Canon.engOpen {s : State} (h : s.Canon) (part object b n : Nat) (x0 : Option (BitVec 32 × BitVec 32)) :
    CanonOk (s.engOpen part object b n x0) := by
  unfold State.engOpen
  split
  · exact .ok h
  · exact h.foldE _ fun _ _ ht => ht.engOpenPart _ _ _ _ _

theorem State.Canon.engWrite {s : State} (h : s.Canon) (part object b : Nat) (still : Bool) (bundle : Option (BitVec 32 × BitVec 32)) (bs : List Byte) :
    CanonOk (s.engWrite part object b still bundle bs) := h.foldE _ fun t x ht => by
  extract_lets mine
  split
  · exact ht.engWritePart _ _ _ _ _
  · exact ht.engBundlePart _ _ _ _ _

theorem State.Canon.hostPut {s : State} (h : s.Canon) (fn b : Nat) (bs : List Byte) : CanonOk (s.hostPut fn b bs) := by
  unfold State.hostPut
  extract_lets ps
  split
  · exact .error _
  · exact .ok ((h.homePut _ _).clearPoison _)

theorem State.Canon.hostGet {s : State} (h : s.Canon) (fn b n : Nat) (still : Bool) : CanonFst (s.hostGet fn b n still) := by
  unfold State.hostGet
  extract_lets ps t
  have ht : t.Canon := h.eachPlaceLine _ fun u l hu => by
    split
    · exact hu.reclaim _
    · exact hu.gather _
  split
  · exact .error _
  · exact .ite _ (.error _) (.ok ht)

theorem State.Canon.opRead {s : State} (h : s.Canon) (th : Thread) (object b n : Nat) (still : Bool) (mode : ReadMode) :
    CanonFst (s.opRead th object b n still mode) := .ite _ (h.hostGet _ _ _ _) (h.engRead _ _ _ _ _ _)

theorem State.Canon.opWrite {s : State} (h : s.Canon) (th : Thread) (object b : Nat) (still : Bool) (bundle : Option (BitVec 32 × BitVec 32)) (bs : List Byte) :
    CanonOk (s.opWrite th object b still bundle bs) := .ite _ (h.hostPut _ _ _) (h.engWrite _ _ _ _ _ _)

theorem State.Canon.seeRun {s : State} (h : s.Canon) (th : Thread) (object e0 n : Nat) : (s.seeRun th object e0 n).Canon := by
  unfold State.seeRun
  split
  · exact h
  split
  · exact h.observeRun _ _ _ _
  · exact h

theorem State.Canon.copyPart {s : State} (h : s.Canon) (th : Thread) (load : Bool) (mode object : Nat) (starts : List Nat) (address pitch : Nat) (x : Nat × Nat × Nat) :
    CanonOk (s.copyPart th load mode object starts address pitch x) := by
  unfold State.copyPart
  extract_lets b a
  split
  · have hr := h.engRead th.part object b x.2.2 false (.view th.views)
    split
    · exact .error _
    next t bs e =>
      have ht := hr _ e
      exact .ok (State.Canon.foldl ht _ fun _ _ hu => hu.sramSet _ _ _)
  · exact .ite _ (.error _) (h.engWrite _ _ _ _ _ _)

theorem State.Canon.observeList {s : State} (h : s.Canon) (part object : Nat) (run : List Nat) : (s.observeList part object run).Canon := by
  unfold State.observeList
  split
  · exact h.observeRun _ _ _ _
  · exact h

theorem State.Canon.nmxGranule {s : State} (h : s.Canon) (th : Thread) (op type w x w0 x0 : Nat) (alpha lambda : Word) (address k n : Nat) :
    CanonOk (s.nmxGranule th op type w x w0 x0 alpha lambda address k n) := by
  unfold State.nmxGranule
  extract_lets es md f mode wb xb ready first run
  have h1 : CanonOk ready := .ite _ (.ok h) (h.engOpen _ _ _ _ _)
  clear_value ready
  have h2 : CanonFst first := by
    unfold first
    split
    · exact .error _
    next r => exact .ite _ (.ok (h1 r rfl)) ((h1 r rfl).opRead _ _ _ _ _ _)
  have hr : ∀ v, v.Canon → (run v).Canon := fun v hv => .ite _ (hv.seeRun _ _ _ _) ((hv.seeRun _ _ _ _).seeRun _ _ _ _)
  clear_value first run
  split
  · exact .error _
  next t ws =>
  have ht := h2 _ rfl
  split
  · exact .error _
  next u xs eu =>
  have hu : u.Canon := by
    split at eu
    · exact (Prod.mk.inj (Except.ok.inj eu)).1 ▸ ht
    · exact ht.opRead _ _ _ _ _ _ _ eu
  extract_lets out
  refine .ite _ (.ok (hr _ (hu.sramWrite _ _ _ _))) ?_
  have hw := hu.opWrite th w wb true th.bundle out
  split
  · exact .error _
  next v ev => exact .ok (hr _ (hw v ev))

theorem State.Canon.scanGranule {s : State} (h : s.Canon) (th : Thread) (cmp type w w0 : Nat) (threshold : Word) (address capacity k n : Nat) :
    CanonFst (s.scanGranule th cmp type w w0 threshold address capacity k n) := by
  have hr := h.opRead th w (opByte th type w0 + 64 * k) n true (.view th.views)
  unfold State.scanGranule
  extract_lets es
  split
  · exact .error _
  next t bs e =>
  have ht := hr _ e
  extract_lets kept r
  have hk : r.1.Canon := State.Canon.foldl_fst (p := (t, th)) ht _ fun q x hq => by
    extract_lets off
    split
    · exact hq.sramWrite _ _ _ _
    · exact hq
  exact .ok (hk.seeRun _ _ _ _)

theorem State.Canon.drained {s : State} (h : s.Canon) (part manifest generation k : Nat) :
    CanonFst (s.drained part manifest generation k) := by
  unfold State.drained
  split
  · exact .error _
  split
  · exact .error _
  extract_lets t n ps
  have ht : t.Canon := h.settleFor _ _
  split
  · exact .error _
  extract_lets u v gone
  have hu : u.Canon := .ite _ (ht.eachPlaceLine _ fun _ _ hx => hx.gather _) ht
  exact .ite _ (.error _) (.ite _ (.error _) (.ok hu))

theorem State.Canon.ckptGranule {s : State} (h : s.Canon) (th : Thread) (manifest generation target object offset peer k : Nat) :
    CanonOk (s.ckptGranule th manifest generation target object offset peer k) := by
  have hd := h.drained th.part manifest generation k
  unfold State.ckptGranule
  split
  · exact .error _
  next t bs e =>
  have ht := hd _ e
  extract_lets at' put
  have hp : CanonOk (put t) := State.Canon.engWrite (State.Canon.seeRun ht _ _ _ _) _ _ _ _ _ _
  exact .ite _ (State.Canon.hostPut ht _ _ _) (.ite _ hp (.ite _ (.ite _ (.error _) hp) (.ite _ (.ok ht) (.error _))))

theorem State.Canon.collectGranule {s : State} (h : s.Canon) (th : Thread) (type src dst s0 d0 k n : Nat) (reads : Bool) (f : (Nat → Nat) → Nat → Nat) :
    CanonOk (s.collectGranule th type src dst s0 d0 k n reads f) := by
  unfold State.collectGranule
  extract_lets es at' from'
  split
  · exact .error _
  next t bs e =>
  have ht : t.Canon := by
    split at e
    · exact h.opRead _ _ _ _ _ _ _ e
    · exact (Prod.mk.inj (Except.ok.inj e)).1 ▸ h
  exact State.Canon.opWrite (State.Canon.seeRun (.ite _ (ht.seeRun _ _ _ _) ht) _ _ _ _) _ _ _ _ _ _

theorem State.Canon.performGranule {s : State} (h : s.Canon) (th : Thread) (k : Nat) : CanonFst (s.performGranule th k) := by
  unfold State.performGranule
  extract_lets n keep
  have hk : ∀ r, CanonOk r → CanonFst (keep r) := fun r hr => by
    unfold keep
    split
    next t => exact .ok (hr t rfl)
    · exact .error _
  split
  · exact hk _ ((h.observeList _ _ _).foldE _ fun _ _ ht => ht.copyPart _ _ _ _ _ _ _ _)
  · refine hk _ (State.Canon.foldE ((h.observeList _ _ _).observeList _ _ _) _ fun t x ht => ?_)
    split
    · exact .error _
    next u bs e =>
      have hu := ht.engRead _ _ _ _ _ _ _ e
      exact State.Canon.engWrite hu _ _ _ _ _ _
  · exact hk _ (h.nmxGranule _ _ _ _ _ _ _ _ _ _ _ _)
  · exact h.scanGranule _ _ _ _ _ _ _ _ _ _
  · exact hk _ (h.ckptGranule _ _ _ _ _ _ _ _)
  · exact hk _ (h.collectGranule _ _ _ _ _ _ _ _ _ _)
  · exact hk _ (h.collectGranule _ _ _ _ _ _ _ _ _ _)

theorem State.Canon.setThread {s : State} (h : s.Canon) (th : Thread) : (s.setThread th).Canon := h

theorem State.Canon.failTouching {s : State} (h : s.Canon) (part object frame : Nat) : (s.failTouching part object frame).Canon := h

theorem State.Canon.subtractBytes {s : State} (h : s.Canon) (core a n : Nat) (sc : Scope) : (s.subtractBytes core a n sc).Canon :=
  (h.sramWrite _ _ _ _).flipIfDone _ _ _

theorem State.Canon.abortFor {s : State} (h : s.Canon) (th : Thread) : (s.abortFor th).Canon := by
  unfold State.abortFor
  split
  · exact h
  split
  · exact .ite _ (h.abortBundle _) h
  · exact h

theorem State.Canon.granuleEvent {s : State} (h : s.Canon) (id k : Nat) : (s.granuleEvent id k).Canon := by
  unfold State.granuleEvent
  split
  · exact h
  next th _ =>
  refine .ite _ h (.ite _ ((h.setThread _).abortFor _) ?_)
  have hp := h.performGranule th k
  split
  · exact h
  next f _ =>
    have ht := h.setThread (th.stop f (some k))
    exact .ite _ (ht.abortFor _) ht
  next t th' e =>
    have ht := hp _ e
    have hu := State.Canon.setThread ht
    exact .ite _ ((hu _).subtractBytes _ _ _ _) (hu _)

theorem State.Canon.mergeInto {s : State} (h : s.Canon) (core a status : Nat) : (s.mergeInto core a status).Canon := by
  have ht := h.sramWrite core (a + 16) 8
  exact .ite _ (ht _) (ht _)

theorem State.Canon.engineArrive {s : State} (h : s.Canon) (core a status : Nat) (sc : Scope) : (s.engineArrive core a status sc).Canon :=
  (h.mergeInto _ _ _).arrive _ _ _

theorem State.Canon.arrivalEvent {s : State} (h : s.Canon) (id : Nat) : (s.arrivalEvent id).Canon := by
  unfold State.arrivalEvent
  split
  · exact h
  next th _ =>
  extract_lets lost t u v
  have ht : t.Canon := h
  have hu : u.Canon := .ite _ (ht.sramWrite _ _ _ _) ht
  have hv : v.Canon := hu.engineArrive _ _ _ _
  refine .ite _ h ?_
  split
  · split
    · exact hv.dropSpilled _
    · exact hv
  · exact hv

theorem State.Canon.execEngineGranule {s : State} (h : s.Canon) (thread granule : Nat) : CanonNext (execEngineGranule thread granule s) :=
  .next (h.granuleEvent _ _)

theorem State.Canon.execEngineArrival {s : State} (h : s.Canon) (thread : Nat) : CanonNext (execEngineArrival thread s) :=
  .next (h.arrivalEvent _)

theorem State.Canon.execCollectiveMatchTimeout {s : State} (h : s.Canon) (thread : Nat) :
    CanonNext (execCollectiveMatchTimeout thread s) := .next h

theorem State.Canon.execMemberWithdrawn {s : State} (h : s.Canon) (part : Nat) : CanonNext (execMemberWithdrawn part s) := .next h

theorem State.Canon.peersReady {s : State} (h : s.Canon) (thread : Nat) : (s.peersReady thread).Canon := .ite _ h h

end Sys2Proof.Machine
end

section
/-! ## Engine commands, arrays and gangs -/

namespace Sys2Proof.Machine

/-! ### Engine commands -/

theorem State.Canon.released {x : Issue} (h : x.s.Canon) : x.released.Canon := .ite _ (h.release _ _) h
theorem State.Canon.countTag {s : State} (h : s.Canon) (part : Nat) (x0 : EngineOp) : (s.countTag part x0).Canon := by
  unfold State.countTag
  split <;> exact h

theorem State.Canon.fork {x : Issue} (h : x.s.Canon) (th : Thread) : (x.fork th).Canon := by
  unfold Issue.fork
  extract_lets t u _ v
  have ht : t.Canon := State.Canon.released h
  have hu : u.Canon := .ite _ (ht.sramWrite _ _ _ _) ht
  have hv : v.Canon := hu.countTag _ _
  exact .ite _ (hv.abortFor _) hv
theorem State.Canon.command {t : State} (h : t.Canon) (i : Instr) (kind : Nat) (a d : RegField) (bundles : Bool) (ix : BitVec 1)
    (f : Issue → Cmd EngineOp) (w : Weave) : CanonOk (command i kind a d bundles ix f w t) := by
  unfold Machine.command
  extract_lets g locator at' x
  split
  · exact .error _
  · exact .ite _ (.error _) (.ok (State.Canon.fork h _))
theorem State.Canon.execTcopy {s : State} (h : s.Canon) (l : BitVec 1) (k : BitVec 2) (x : BitVec 1) (a d : RegField) :
    CanonNext (execTcopy l k x a d s) := h.run _ fun _ _ ht => ht.command _ _ _ _ _ _ _ _

theorem State.Canon.execTcopys {s : State} (h : s.Canon) (x : BitVec 1) (a d : RegField) : CanonNext (execTcopys x a d s) :=
  h.run _ fun _ _ ht => ht.command _ _ _ _ _ _ _ _

theorem State.Canon.execNmx {s : State} (h : s.Canon) (o : BitVec 3) (a d : RegField) : CanonNext (execNmx o a d s) :=
  h.run _ fun _ _ ht => ht.command _ _ _ _ _ _ _ _

theorem State.Canon.execScan {s : State} (h : s.Canon) (c : BitVec 2) (a d : RegField) : CanonNext (execScan c a d s) :=
  h.run _ fun _ _ ht => ht.command _ _ _ _ _ _ _ _

theorem State.Canon.execCkpt {s : State} (h : s.Canon) (a d : RegField) : CanonNext (execCkpt a d s) :=
  h.run _ fun _ _ ht => ht.command _ _ _ _ _ _ _ _

theorem State.Canon.execCred {s : State} (h : s.Canon) (o : BitVec 2) (a d : RegField) : CanonNext (execCred o a d s) :=
  h.run _ fun _ _ ht => ht.command _ _ _ _ _ _ _ _

theorem State.Canon.execCbcst {s : State} (h : s.Canon) (a d : RegField) : CanonNext (execCbcst a d s) :=
  h.run _ fun _ _ ht => ht.command _ _ _ _ _ _ _ _

/-! ### Matrix arrays -/

theorem State.Canon.setArray {s : State} (h : s.Canon) (a : MatArray) : (s.setArray a).Canon := h

theorem State.Canon.clearPlane {s : State} (h : s.Canon) (a : MatArray) (plane lo n : Nat) : (s.clearPlane a plane lo n).Canon :=
  h.unpoison _ _

theorem State.Canon.performMload {s : State} (h : s.Canon) (a : MatArray) (w : WeaveId) (locator base tile scales format bl mode : Nat) :
    (s.performMload a w locator base tile scales format bl mode).Canon := State.Canon.clearPlane (State.Canon.setArray h _) _ _ _ _

theorem State.Canon.promotePoison {s : State} (h : s.Canon) (a : MatArray) (row : Nat) (bad : LaneMask) :
    (s.promotePoison a row bad).Canon := .ite _ h ((h.clearPlane _ _ _ _).clearPlane _ _ _ _)

theorem State.Canon.performMread {s : State} (h : s.Canon) (a : MatArray) (flight row plane : Nat) :
    (s.performMread a flight row plane).Canon := by
  unfold State.performMread
  extract_lets b bad t u
  have ht : t.Canon := h.setArray _
  have hu : u.Canon := .ite _ (ht.promotePoison _ _ _) ht
  exact hu

theorem State.Canon.performArray {s : State} (h : s.Canon) (core index : Nat) : (s.performArray core index).Canon := by
  unfold State.performArray
  split
  · exact h
  split
  · exact h
  · exact h.performMload _ _ _ _ _ _ _ _ _
  · exact h.setArray _
  · exact ((h.setArray _).clearPlane _ _ _ _).clearPlane _ _ _ _
  · exact h.setArray _
  · exact h.performMread _ _ _ _
  · extract_lets m y status n _ t u
    have ht : t.Canon := h.setArray _
    have hu : u.Canon := .ite _ ht (ht.clearPlane _ _ _ _)
    exact .ite _ (hu.clearPlane _ _ _ _) (.ite _ hu (hu.foldl _ fun _ _ hv => .ite _ (hv.clearPlane _ _ _ _) hv))

theorem State.Canon.arrayArrival {s : State} (h : s.Canon) (core index : Nat) : (s.arrayArrival core index).Canon := by
  unfold State.arrayArrival
  split
  · exact h
  split
  · exact h
  · exact (h.setArray _).engineArrive _ _ _ _

theorem State.Canon.execArrayQueuePerform {s : State} (h : s.Canon) (core array : Nat) : CanonNext (execArrayQueuePerform core array s) :=
  .next (h.performArray _ _)

theorem State.Canon.execMatrixArrival {s : State} (h : s.Canon) (core array : Nat) : CanonNext (execMatrixArrival core array s) :=
  .next (h.arrayArrival _ _)

theorem State.Canon.substitute {s : State} (h : s.Canon) (core array column : Nat) : (s.substitute core array column).Canon := h

theorem State.Canon.execColumnSubstitution {s : State} (h : s.Canon) (core array column : Nat) :
    CanonNext (execColumnSubstitution core array column s) := .next (.ite _ (h.substitute _ _ _) h)

/-! ### The gang latch and the array's members -/

theorem State.Canon.enqueue {s : State} (h : s.Canon) (a : MatArray) (op : ArrayOp) : (s.enqueue a op).Canon := by
  unfold State.enqueue
  split
  · exact h
  · exact h.setArray _

theorem State.Canon.setLatch {s : State} (h : s.Canon) (crew : Nat) (latch : List Arrival) : (s.setLatch crew latch).Canon := h

theorem State.Canon.leaveGang {s : State} (h : s.Canon) (crew : Nat) (ms : List Arrival) : (s.leaveGang crew ms).Canon := by
  unfold State.leaveGang
  split
  · exact h
  · exact h.setLatch _ _

theorem State.Canon.backOut {s : State} (h : s.Canon) (crew : Nat) (ms : List Arrival) : (s.backOut crew ms).Canon :=
  (h.foldl _ fun _ _ ht => ht.onWeave _ _).leaveGang _ _

theorem State.Canon.backOutAll {s : State} (h : s.Canon) (crew : Nat) : (s.backOutAll crew).Canon := by
  unfold State.backOutAll
  split
  · exact h
  · exact h.backOut _ _

theorem State.Canon.latchFault {s : State} (h : s.Canon) (crew : Nat) (ms : List Arrival) (c : Cause) (at' : Nat) :
    (s.latchFault crew ms c at').Canon := (h.backOut _ _).foldl _ fun _ _ ht => ht.vector _ _ _

theorem State.Canon.closeGang {s : State} (h : s.Canon) (c : Crew) (a : MatArray) (ms : List Arrival) : (s.closeGang c a ms).Canon := by
  unfold State.closeGang
  split
  · exact h
  refine .ite _ (h.latchFault _ _ _ _) ?_
  split
  · exact h.latchFault _ _ _ _
  extract_lets t u
  have hu : u.Canon := ((h.enqueue _ _).foldl _ fun _ _ hv => hv.onWeave _ _).leaveGang _ _
  exact .ite _ ((hu.release _ _).acquire _ _) hu

theorem State.Canon.closeLatch {s : State} (h : s.Canon) (crew : Nat) : (s.closeLatch crew).Canon := by
  unfold State.closeLatch
  split
  · exact h
  split
  · exact .ite _ (h.closeGang _ _ _) h
  · exact h

theorem State.Canon.latchGone {s : State} (h : s.Canon) (crew : Nat) : (s.latchGone crew).Canon := by
  unfold State.latchGone
  split
  · exact h
  refine h.foldl _ fun t a ht => ?_
  split
  · exact ht
  · exact .ite _ (ht.latchFault _ _ _ _) ht

theorem State.Canon.gang {t : State} (h : t.Canon) (i : Instr) (data : LaneReg) (operation : DWord) (format : DWord × DWord) (w : Weave) :
    CanonOk (gang i data operation format w t) := by
  unfold Machine.gang
  split
  · exact .ok ((((h.onMe _).startWait _).setLatch _ _).latchGone _)
  · exact .error _
theorem State.Canon.execMgang {s : State} (h : s.Canon) : CanonNext (execMgang s) := h.run _ fun _ _ ht => ht.gang _ _ _ _ _

theorem State.Canon.execMswap {s : State} (h : s.Canon) : CanonNext (execMswap s) := h.run _ fun _ _ ht => ht.gang _ _ _ _ _

theorem State.Canon.execMzero {s : State} (h : s.Canon) : CanonNext (execMzero s) := h.run _ fun _ _ ht => ht.gang _ _ _ _ _

theorem State.Canon.execMmac {s : State} (h : s.Canon) (e : BitVec 1) (b a d : RegField) : CanonNext (execMmac e b a d s) :=
  h.run _ fun _ _ ht => ht.gang _ _ _ _ _

theorem State.Canon.execGangLatchClose {s : State} (h : s.Canon) (crew : Nat) : CanonNext (execGangLatchClose crew s) :=
  .next (h.closeLatch _)

theorem State.Canon.execGangLatchTimeout {s : State} (h : s.Canon) (crew : Nat) : CanonNext (execGangLatchTimeout crew s) := by
  refine .next ?_
  split
  · exact h
  split
  · exact h.latchFault _ _ _ _
  · exact h

theorem State.Canon.execMload {s : State} (h : s.Canon) (k : BitVec 2) (b a d : RegField) : CanonNext (execMload k b a d s) := h.run _ fun w t ht => by
  extract_lets fault
  have hf : ∀ c at', CanonOk (fault c at') := fun _ _ => .error _
  clear_value fault
  split
  · exact hf _ _
  · exact .ite _ (hf _ _) (.ite _ (hf _ _) (.ite _ (hf _ _) (.ite _ (hf _ _) (.ite _ (hf _ _) (.ite _ (hf _ _)
      (.ite _ (.error _) (.ok ((ht.release _ _).enqueue _ _))))))))

theorem State.Canon.execMread {s : State} (h : s.Canon) (p : BitVec 2) (a d : RegField) : CanonNext (execMread p a d s) := h.run _ fun w t ht => by
  split
  · exact .error _
  · exact .ite _ (.error _) (.ite _ (.error _) (.ok ((ht.fly _ _ _ _ _).enqueue _ _)))

theorem State.Canon.execMsave {s : State} (h : s.Canon) (a : RegField) : CanonNext (execMsave a s) := h.run _ fun w t ht => by
  extract_lets at'
  split
  · exact .error _
  split
  · exact .error _
  · exact .ite _ (.error _) (.ok (ht.sramStore _ _ _))

theorem State.Canon.execMrstr {s : State} (h : s.Canon) (a : RegField) : CanonNext (execMrstr a s) := h.run _ fun w t ht => by
  extract_lets at'
  split
  · exact .error _
  split
  · exact .error _
  · exact .ite _ (.error _) (.ite _ (.error _) (.ok (ht.setArray _)))

end Sys2Proof.Machine
end

section
/-! ## The dispatcher, launches and ends -/

namespace Sys2Proof.Machine

/-! ### The dispatcher -/

/-- A part of the scratchpads cleared. -/
theorem State.Canon.clearSpad {s : State} (h : s.Canon) (a n : Nat) : MemsOk s.mem (cellClear s.spad a n) s.store s.hostMem :=
  ⟨h.mem, cellClear_wf a n h.spad, h.store, h.hostMem⟩

theorem State.Canon.changeSplit {s : State} (h : s.Canon) (core : Nat) : (s.changeSplit core).Canon := by
  unfold State.changeSplit
  extract_lets k t
  have ht : t.Canon := h.clearL1 _
  exact .ite _ h (.ite _ ht (ht.clearSpad _ _))

theorem State.Canon.changeSplits {s : State} (h : s.Canon) (part : Nat) : (s.changeSplits part).Canon :=
  h.foldl _ fun _ _ ht => ht.changeSplit _

theorem State.Canon.seat {s : State} (h : s.Canon) (l : Launch) (c : Crew) (indexes : List Nat) : (s.seat l c indexes).Canon := by
  unfold State.seat
  extract_lets new t
  have ht : t.Canon := by
    by_cases hb : c.spadBytes = 0
    · simp only [t, hb, if_true]
      exact h
    · simp only [t, hb, if_false]
      exact h.clearSpad _ _
  split <;> exact ht

theorem State.Canon.placeCrew {s : State} (h : s.Canon) (l : Launch) (x : Spot) : (s.placeCrew l x).Canon := (h.seat _ _ _).acquire _ _

theorem State.Canon.placeUnit {s : State} (h : s.Canon) (ls : List Launch) (sizes : List Bool) : CanonSome (s.placeUnit ls sizes) := by
  unfold State.placeUnit
  split
  · exact .none
  · intro t e
    obtain ⟨xs, -, rfl⟩ := Option.map_eq_some_iff.1 e
    exact h.foldl _ fun _ _ ht => ht.placeCrew _ _

theorem State.Canon.placeMany {s : State} (h : s.Canon) (ls : List Launch) (sizes : List Bool) (n : Nat) :
    CanonSome (s.placeMany ls sizes n) := by
  induction n generalizing s with
  | zero => exact .some h
  | succ n ih =>
    intro t e
    obtain ⟨u, eu, et⟩ := Option.bind_eq_some_iff.1 e
    exact ih (h.placeUnit _ _ u eu) t et
theorem State.Canon.placeAt {s : State} (h : s.Canon) (ls : List Launch) (core : Nat) : CanonSome (s.placeAt ls core) := by
  unfold State.placeAt
  split
  · exact .none
  · intro t e
    obtain ⟨xs, -, rfl⟩ := Option.map_eq_some_iff.1 e
    exact h.foldl _ fun _ _ ht => ht.placeCrew _ _

theorem State.Canon.placeSome {s : State} (h : s.Canon) (ls : List Launch) (n : Nat) (cores : List Nat) (left : Nat) :
    CanonSome (State.placeSome ls n cores left s) := by
  induction n generalizing s cores left with
  | zero =>
    unfold State.placeSome
    split
    · exact .some h
    · exact .none
  | succ n ih =>
    unfold State.placeSome
    split
    · exact .some h
    split
    · exact .none
    split
    next t e =>
      obtain ⟨u, eu, et⟩ := Option.bind_eq_some_iff.1 e
      exact .some (ih (h.placeAt _ _ u eu) _ _ t et)
    · exact ih h _ _
theorem State.Canon.placeWhole {s : State} (h : s.Canon) (ls : List Launch) (n : Nat) : CanonSome (s.placeWhole ls n) := by
  unfold State.placeWhole
  split
  next t e => exact .some (h.placeMany _ _ _ t e)
  · exact h.placeSome _ _ _ _
  · exact .none

theorem State.Canon.placeCandidate {s : State} (h : s.Canon) (ls : List Launch) : CanonSome (s.placeCandidate ls) := by
  unfold State.placeCandidate
  split
  · exact .none
  split
  · split
    next t e => exact .some (h.placeMany _ _ _ t e)
    · exact h.placeWhole _ _
  · exact h.placeUnit _ _

theorem State.Canon.flipDone {s : State} (h : s.Canon) (part : Nat) (r : LaunchRec) (status : Nat) : (s.flipDone part r status).Canon :=
  .ite _ ((h.objWrite _ _ _ _ _).objWrite _ _ _ _ _) (h.sendError _ _)

theorem State.Canon.finishLaunch {s : State} (h : s.Canon) (id : Nat) : (s.finishLaunch id).Canon := by
  unfold State.finishLaunch
  split
  · exact h
  · exact .ite _ h (h.flipDone _ _ _)

theorem State.Canon.onLaunchQueue {s : State} (h : s.Canon) (part q : Nat) (f : LaunchQueue → LaunchQueue) :
    (s.onLaunchQueue part q f).Canon := h

theorem State.Canon.syncRecords {s : State} (h : s.Canon) (part q n : Nat) : (s.syncRecords part q n).Canon := h.foldl _ fun t i ht => by
  extract_lets u r v z
  have hv : v.Canon := State.Canon.foldl (ht.objSync _ _ _ _) _ fun _ _ hy => hy.objSync _ _ _ _
  have hz : z.Canon := hv.objSync _ _ _ _
  exact .ite _ ((hz.objSync _ _ _ _).objSync _ _ _ _) hz

theorem State.Canon.reject {s : State} (h : s.Canon) (part : Nat) (r : LaunchRec) (reason : Nat) : (s.reject part r reason).Canon :=
  h.flipDone _ _ _

theorem State.Canon.consume {s : State} (h : s.Canon) (part q n : Nat) : (s.consume part q n).Canon := h

theorem State.Canon.begin' {s : State} (h : s.Canon) (part q : Nat) (rs : List LaunchRec) : (s.begin' part q rs).Canon := by
  unfold State.begin'
  extract_lets fn ls t
  have ht : t.Canon := h
  exact (ht.consume _ _ _).foldl _ fun _ _ hu => hu.finishLaunch _

theorem State.Canon.judge {s0 : State} (h : s0.Canon) (part q : Nat) : (s0.judge part q).Canon := by
  unfold State.judge
  extract_lets n s r why1 t rs why
  have hs : s.Canon := h.syncRecords _ _ _
  have ht : t.Canon := hs.syncRecords _ _ _
  refine .ite _ h (.ite _ ?_ (.ite _ ((hs.reject _ _ _).consume _ _ _) (.ite _ hs (.ite _ ((ht.reject _ _ _).consume _ _ _) ?_))))
  · exact .ite _ ((hs.reject _ _ _).consume _ _ _) (.ite _ (hs.begin' _ _ _) hs)
  · exact .ite _ (.ite _ (ht.begin' _ _ _) ht) ((ht.foldl _ fun _ _ hu => hu.reject _ _ _).consume _ _ _)

theorem State.Canon.vectorRestored {s : State} (h : s.Canon) (id : WeaveId) (area : Nat) : (s.vectorRestored id area).Canon := by
  unfold State.vectorRestored
  split
  · exact h
  · exact ((h.objSync _ _ _ _).onWeave _ _).enter _ _ _ _

theorem State.Canon.restoreCrew {s : State} (h : s.Canon) (c : Crew) (core spadAt : Nat) : (s.restoreCrew c core spadAt).Canon := by
  unfold State.restoreCrew
  split
  · exact h
  · extract_lets c' order slots t u
    have hu : u.Canon := (h.seat _ _ _).acquire _ _
    exact hu.foldl _ fun _ _ hv => hv.vectorRestored _ _

theorem State.Canon.placeSaved {s : State} (h : s.Canon) (c : Crew) : CanonSome (s.placeSaved c) := by
  unfold State.placeSaved
  split
  · exact .none
  split
  · extract_lets cs
    split
    · refine (CanonSome.some h).foldl_bind _ fun t x ht u e => ?_
      obtain ⟨k, -, ek⟩ := Option.bind_eq_some_iff.1 e
      obtain ⟨a, -, rfl⟩ := Option.map_eq_some_iff.1 ek
      exact ht.restoreCrew _ _ _
    · exact .none
  · intro t e
    obtain ⟨n, -, en⟩ := List.exists_of_findSome?_eq_some e
    obtain ⟨a, -, rfl⟩ := Option.map_eq_some_iff.1 en
    exact h.restoreCrew _ _ _

theorem State.Canon.startHalt {s : State} (h : s.Canon) (id : Nat) : (s.startHalt id).Canon := h.backOutAll _

theorem State.Canon.requestOne {s : State} (h : s.Canon) (c : Crew) : (s.requestOne c).Canon := by
  unfold State.requestOne
  extract_lets mark
  have hm : ∀ t, t.Canon → (mark t).Canon := fun _ ht => ht
  split
  · exact (hm _ h).startHalt _
  · exact hm _ h
  · exact h

theorem State.Canon.requestUnits {s : State} (h : s.Canon) (cs : List Crew) : (s.requestUnits cs).Canon := h.foldl _ fun t c ht => by
  split
  · exact ht.requestOne _
  · exact ht

theorem State.Canon.requestSeated {s : State} (h : s.Canon) (part : Nat) : (s.requestSeated part).Canon := h.requestUnits _

theorem State.Canon.place {s : State} (h : s.Canon) (part : Nat) : (s.place part).Canon := by
  unfold State.place
  have ht : ((List.range 16).foldl (fun (u : State) q => u.judge part q) s).Canon := h.foldl _ fun _ _ hu => hu.judge _ _
  -- Behind an existential the state stays a variable for the kernel, which would else evaluate sixteen judgements.
  obtain ⟨t, et⟩ : ∃ t, (List.range 16).foldl (fun (u : State) q => u.judge part q) s = t := ⟨_, rfl⟩
  rw [et] at ht ⊢
  split
  next c _ => exact h.getD (h.placeSaved c)
  · dsimp only
    split
    · exact ht
    next q _ =>
      split
      next u e => exact (ht.placeCandidate _ u e).onPcb _ _
      · exact ht.onPcb _ _

theorem State.Canon.dispatch {s : State} (h : s.Canon) (part : Nat) : (s.dispatch part).Canon :=
  .ite _ h (((h.changeSplits _).place _).requestSeated _)

theorem State.Canon.execCrewDispatch {s : State} (h : s.Canon) (part : Nat) : CanonNext (execCrewDispatch part s) := .next (h.dispatch _)

theorem State.Canon.appendRecord {s : State} (h : s.Canon) (part q x : Nat) : (s.appendRecord part q x).Canon :=
  (h.objWrite _ _ _ _ _).onLaunchQueue _ _ _

theorem State.Canon.execLaunch {s : State} (h : s.Canon) (b a d : RegField) : CanonNext (execLaunch b a d s) := h.run _ fun w t ht => by
  extract_lets q o hd d? bad steps x u ps x' r v n
  refine .ite _ (.error _) (.ite _ (.error _) ?_)
  clear_value steps
  split
  · exact .error _
  refine .ite _ (.error _) (.ite _ (.error _) (.ite _ (.error _) ?_))
  have hu : u.Canon := (ht.release _ _).objSync _ _ _ _
  have hv : v.Canon := .ite _ ((hu.objSync _ _ _ _).release _ _) hu
  exact .ite _ (.error _) (.ite _ (.error _) (.ite _ (.error _) (.ok ((hv.appendRecord _ _ _).onLaunchQueue _ _ _))))

theorem State.Canon.tailWrite {s : State} (h : s.Canon) (part q : Nat) (tail : BitVec 32) : (s.tailWrite part q tail).Canon :=
  .ite _ h (.ite _ h ((h.onLaunchQueue _ _ _).sendError _ _))

theorem State.Canon.execLaunchQueueTailWrite {s : State} (h : s.Canon) (part queue : Nat) (tail : BitVec 32) :
    CanonNext (execLaunchQueueTailWrite part queue tail s) := .next (h.tailWrite _ _ _)

theorem State.Canon.execLaunchCopyArrival {s : State} (h : s.Canon) (part queue : Nat) (record : List Byte) :
    CanonNext (execLaunchCopyArrival part queue record s) := by
  unfold Machine.execLaunchCopyArrival
  extract_lets x
  split
  · exact .next (h.sendError _ _)
  split
  · exact .next h
  · exact .next (h.appendRecord _ _ _)

/-! ### Ends -/

theorem State.Canon.abortPart {s : State} (h : s.Canon) (part : Nat) (x0 : Option (BitVec 32 × BitVec 32)) :
    (s.abortPart part x0).Canon := by
  unfold State.abortPart
  split
  · exact h
  split
  · exact .ite _ (h.abortBundle _) h
  · exact h

theorem State.Canon.giveUpBundles {s : State} (h : s.Canon) (w : Weave) : (s.giveUpBundles w).Canon :=
  (h.foldl _ fun _ _ ht => .ite _ (ht.releaseView _ _ _) ht).abortPart _ _

theorem State.Canon.discardSaved {s : State} (h : s.Canon) (c : Crew) : (s.discardSaved c).Canon := by
  unfold State.discardSaved
  extract_lets t
  have ht : t.Canon := h
  refine ht.foldl _ fun u x hu => (hu.abortPart _ _).foldl _ fun y e hy => ?_
  split
  · exact .ite _ (hy.dropSpilled _) hy
  · exact hy

theorem State.Canon.removeWeave {s : State} (h : s.Canon) (w : Weave) : (s.removeWeave w).Canon := h

theorem State.Canon.clusterEnd {s : State} (h : s.Canon) (cluster : Nat) : (s.clusterEnd cluster).Canon := .ite _ h (h.endAllL _)

theorem State.Canon.returnArray {s : State} (h : s.Canon) (c : Crew) : (s.returnArray c).Canon := by
  unfold State.returnArray
  split <;> exact h

theorem State.Canon.crewSaved {s : State} (h : s.Canon) (c : Crew) : (s.crewSaved c).Canon := h

theorem State.Canon.abortArray {s : State} (h : s.Canon) (a : MatArray) : (s.abortArray a).Canon :=
  State.Canon.foldl (h.setArray _) _ fun _ _ ht => ht.engineArrive _ _ _ _

theorem State.Canon.crewEnded {s : State} (h : s.Canon) (c : Crew) : (s.crewEnded c).Canon := by
  refine State.Canon.finishLaunch ?_ _
  exact h

theorem State.Canon.crewGone {s : State} (h : s.Canon) (id : Nat) : (s.crewGone id).Canon := by
  unfold State.crewGone
  split
  · exact h
  next c _ =>
  have ht := (h.release c.core .sy).returnArray c
  exact .ite _ h (.ite _ (ht.crewSaved _) (ht.crewEnded _))

theorem State.Canon.endWeave {s : State} (h : s.Canon) (w : Weave) : (s.endWeave w).Canon := by
  unfold State.endWeave
  extract_lets t u v x
  have ht : t.Canon := .ite _ h (h.giveUpBundles _)
  have hv : v.Canon := ht
  have hx : x.Canon := .ite _ hv (hv.latchGone _)
  exact (hx.crewGone _).clusterEnd _

theorem State.Canon.execWeaveEnd {s : State} (h : s.Canon) (weave : WeaveId) : CanonNext (execWeaveEnd weave s) := by
  refine .next ?_
  split
  · exact .ite _ (h.endWeave _) h
  · exact h

theorem State.Canon.abortLaunch {s : State} (h : s.Canon) (l : Launch) : (s.abortLaunch l).Canon := by
  unfold State.abortLaunch
  extract_lets mine ids t u0 u
  have ht : t.Canon := h
  have h0 : u0.Canon := ht.foldl _ fun _ _ hv => hv.endStreams _
  have hu : u.Canon := h0.foldl _ fun _ _ hv => hv.discardSaved _
  exact hu.foldl _ fun _ _ hv => hv.finishLaunch _

theorem State.Canon.execLaunchAbort {s : State} (h : s.Canon) (launch : Nat) : CanonNext (execLaunchAbort launch s) := by
  refine .next ?_
  split
  · exact .ite _ h (h.abortLaunch _)
  · exact h

end Sys2Proof.Machine
end

section
/-! ## Objects, halts, saves and restores -/

namespace Sys2Proof.Machine

/-! ### Objects and frames (R345 to R352) -/

theorem State.Canon.objectBody (a b : RegField) (ok ignores : Nat → Bool) {f : Weave → State → Nat → Nat → Except Stop State}
    (hf : ∀ w t x q, t.Canon → CanonOk (f w t x q)) : ∀ w t, t.Canon → CanonOk (objectBody b a ok ignores f w t) :=
  fun _ _ ht => .ite _ (ht.failing _ _ _) (hf _ _ _ _ ht)

theorem State.Canon.mapFrame {s : State} (h : s.Canon) (part object f tier : Nat) : (s.mapFrame part object f tier).1.Canon := by
  unfold State.mapFrame
  split
  · exact h
  next d _ =>
    extract_lets t w far
    have ht : t.Canon := h.gather _
    split
    · exact h
    split
    · exact ht
    split
    · exact ht
    next u n e =>
      have hu : u.Canon := ht.poolTakeIf _ _ e
      refine State.Canon.otbInvalidate (.memWrite (.reclaim (.memZero (.foldl hu _ fun _ _ hy => hy.reclaim _) _ _) _) _ _ _) _

theorem State.Canon.execObjmap {s : State} (h : s.Canon) (b a d : RegField) : CanonNext (execObjmap b a d s) :=
  h.run _ (.objectBody _ _ _ _ fun _ _ _ _ ht => (ht.mapFrame _ _ _ _).flyScal _ _ _)

theorem State.Canon.dropFrame {s : State} (h : s.Canon) (at' : Nat) : (s.dropFrame at').Canon := h

theorem State.Canon.unmapBundles {s : State} (h : s.Canon) (part object f : Nat) : (s.unmapBundles part object f).Canon := by
  unfold State.unmapBundles
  extract_lets ms t u v
  have ht : t.Canon := h.foldl _ fun x m hx => by
    split
    · exact hx.abortBundle _
    · exact hx
  have hu : u.Canon := ht.foldl _ fun x m hx => by
    split
    · exact ((hx.settle _).putMember _).freeSpill _ _
    · exact hx
  have hv : v.Canon := hu.foldl _ fun _ _ hy => hy.reheader _ _
  split
  · exact (hv.abortBundle _).releaseBundle _
  · exact hv

theorem State.Canon.unmapFrame {s : State} (h : s.Canon) (part object f : Nat) : (s.unmapFrame part object f).1.Canon := by
  unfold State.unmapFrame
  split
  · exact h
  next d _ =>
    extract_lets t0 w id t1 t2 t3 t4 t5 t6
    have h0 : t0.Canon := (h.poolSync _).gather _
    have h1 : t1.Canon := .ite _ (h0.abandonRetile _ _) h0
    have h2 : t2.Canon := (h1.unmapBundles _ _ _).failTouching _ _ _
    have h4 : t4.Canon := ((h2.dropFrame _).reclaim _).memWrite _ _ _
    have h5 : t5.Canon := .ite _ (h4.touchRegion _ _) h4.nextGeneration
    split
    · exact h
    split
    · exact h0
    split
    · exact h0
    · exact (h5.otbInvalidate _).poolReturn _ _ _

theorem State.Canon.execObjunmap {s : State} (h : s.Canon) (b a d : RegField) : CanonNext (execObjunmap b a d s) :=
  h.run _ (.objectBody _ _ _ _ fun _ _ _ _ ht => .ite _ (.error _) ((ht.unmapFrame _ _ _).flyScal _ _ _))

theorem State.Canon.execObjq {s : State} (h : s.Canon) (b a d : RegField) : CanonNext (execObjq b a d s) :=
  h.run _ (.objectBody _ _ _ _ fun _ _ _ _ ht => (ht.flyScal _ _ _).whenArrived _)

theorem State.Canon.execMapgen {s : State} (h : s.Canon) (b a d : RegField) : CanonNext (execMapgen b a d s) := h.run _ fun w t ht => by
  extract_lets hd o bad
  refine .ite _ (ht.writeScal _ _) ?_
  split
  · exact .error _
  · exact .error _
  next x _ _ =>
    extract_lets id u
    have hu : u.Canon := ht.touchRegion _ _
    exact .ite _ (.error _) (.ite _ (.error _) (hu.writeScal _ _))

theorem State.Canon.execInval {s : State} (h : s.Canon) (b a : RegField) : CanonNext (execInval b a s) :=
  h.run _ fun _ _ ht => .ite _ (ht.failing _ _ _) (.ok (ht.otbInvalidate _))

theorem State.Canon.clearCounter {s : State} (h : s.Canon) (id : WeaveId) (sel : Nat) : (s.clearCounter id sel).Canon := by
  unfold State.clearCounter
  split
  all_goals exact h

theorem State.Canon.execPerf {s : State} (h : s.Canon) (a d : RegField) : CanonNext (execPerf a d s) :=
  h.run _ fun _ _ ht => .ite _ (ht.failing _ _ _) (.writeScal (.ite _ (ht.clearCounter _ _) ht) _ _)

theorem State.Canon.requestSlots {s : State} (h : s.Canon) (part core mask : Nat) : (s.requestSlots part core mask).Canon :=
  h.requestUnits _

theorem State.Canon.execPreempt {s : State} (h : s.Canon) (a d : RegField) : CanonNext (execPreempt a d s) :=
  h.run _ fun _ _ ht => .ite _ (ht.failing _ _ _) (.ite _ (ht.failing _ _ _) ((ht.requestSlots _ _ _).writeScal _ _))

/-! ### Halts, saves and restores (R262 to R264) -/

theorem State.Canon.haltWeave {s : State} (h : s.Canon) (id : WeaveId) : (s.haltWeave id).Canon := by
  unfold State.haltWeave
  split
  · exact h
  next w _ =>
    extract_lets info
    split
    next e _ => exact (h.onWeave _ _).enter _ _ _ _
    · exact .ite _ h ((h.onWeave _ _).enter _ _ _ _)

theorem State.Canon.haltCrew {s : State} (h : s.Canon) (c : Crew) : (s.haltCrew c).Canon := by
  unfold State.haltCrew
  extract_lets ws t
  have ht : t.Canon := (h.foldl _ fun _ _ hu => hu.haltWeave _).onCore _ _
  exact .ite _ h ht

theorem State.Canon.execCrewHalted {s : State} (h : s.Canon) (crew : Nat) : CanonNext (execCrewHalted crew s) := by
  unfold Machine.execCrewHalted
  split
  · exact .next (h.haltCrew _)
  · exact .next h

theorem State.Canon.syncSplit {s : State} (h : s.Canon) (w : Weave) : (s.syncSplit w).Canon := .ite _ (h.objSync _ _ _ _) h

theorem State.Canon.splitThrough {s : State} (h : s.Canon) (before : State) : (s.splitThrough before).Canon :=
  h.foldl _ fun _ _ ht => .ite _ ht (ht.foldl _ fun _ _ hu => hu.objWrite _ _ _ _ _)

theorem State.Canon.saveSpad {s : State} (h : s.Canon) (c : Crew) : (s.saveSpad c).Canon :=
  .ite _ (h.objWrite _ _ _ _ _) (h.objWrite _ _ _ _ _)

theorem State.Canon.writeItems {s : State} (h : s.Canon) (w : Weave) (part : Nat) (bytes : List Byte) :
    (s.writeItems w part bytes).Canon :=
  (State.Canon.foldl (h.objWrite _ _ _ _ _) _ fun _ _ hu => hu.objWrite _ _ _ _ _).objWrite _ _ _ _ _

theorem State.Canon.writeArea {s : State} (h : s.Canon) (w : Weave) (c : Crew) : (s.writeArea w c).Canon := by
  unfold State.writeArea
  extract_lets keeps items t u
  have ht : t.Canon := h.writeItems _ _ _
  have hu : u.Canon := .ite _ (ht.saveSpad _) ht
  exact hu

theorem State.Canon.endCrew {s : State} (h : s.Canon) (c : Crew) (code : Nat) (w : Weave) : (s.endCrew c code w).Canon := by
  unfold State.endCrew
  extract_lets ids t u
  have ht : t.Canon := h
  have hu : u.Canon := (ht.markFaulted _).foldl _ fun _ _ hv => hv.endStreams _
  exact hu.sendError _ _

theorem State.Canon.execSavespl {s : State} (h : s.Canon) : CanonNext (execSavespl s) := h.run _ fun w t ht => by
  split
  · exact ht.failing _ _ _
  next c _ =>
    extract_lets u n
    have hu : u.Canon := ht
    exact .ite _ (ht.failing _ _ _) (.ite _ (.ok (hu.onMe _)) (.ite _ (.ok (hu.writeArea _ _)) (.ok (hu.endCrew _ _ _))))

theorem State.Canon.loadSpad {s : State} (h : s.Canon) (c : Crew) (source at' n : Nat) : (s.loadSpad c source at' n).Canon := by
  unfold State.loadSpad
  extract_lets ctx t u bad
  have hu : u.Canon := (h.objSync _ _ _ _).sramStore _ _ _
  exact .ite _ hu hu

theorem State.Canon.vectorPending {s : State} (h : s.Canon) (id : WeaveId) : (s.vectorPending id).Canon := by
  unfold State.vectorPending
  split
  · exact h
  next w _ =>
    extract_lets t
    have ht : t.Canon := by
      unfold t
      split
      · exact (h.onWeave _ _).vector _ _ _
      · exact h
    clear_value t
    split
    · exact (ht.onWeave _ _).vector _ _ _
    · exact ht

theorem State.Canon.crewRestored {s : State} (h : s.Canon) (id : Nat) : (s.crewRestored id).Canon := by
  unfold State.crewRestored
  refine .ite _ h ?_
  extract_lets t
  have ht : t.Canon := h
  clear_value t
  split
  · exact .ite _ (ht.startHalt _) ht
  · exact ht

theorem State.Canon.restoreFails {s : State} (h : s.Canon) (w : Weave) (offset : Nat) : CanonOk (s.restoreFails w offset) :=
  .ok ((h.sendError _ _).vector _ _ _)

theorem State.Canon.execRstspl {s : State} (h : s.Canon) (a : RegField) : CanonNext (execRstspl a s) := h.run _ fun w t ht => by
  extract_lets o st cause part ctx u hd ports size v b sizes order res
  have hu : u.Canon := ht.objSync _ _ _ _
  have hv : v.Canon := hu.objSync _ _ _ _
  clear_value v u
  split
  · exact ht.failing _ _ _
  next c _ =>
    refine .ite _ (ht.failing _ _ _) (.ite _ (ht.failing _ _ _) ?_)
    split
    · exact ht.failing _ _ _
    refine .ite _ (ht.failing _ _ _) (.ite _ (hu.restoreFails _ _) (.ite _ (.error _) (.ite _ (.error _) ?_)))
    split
    · exact ht.failing _ _ _
    refine .ite _ (ht.failing _ _ _) ?_
    split
    · exact ht.failing _ _ _
    extract_lets x y kept z w'
    have hx : x.Canon := .ite _ (hv.loadSpad _ _ _ _) hv
    have hy : y.Canon := by
      unfold y
      split
      · exact hx.setArray _
      · exact hx
    have hz : z.Canon := hy
    exact .ok (((hz.onMe _).vectorPending _).crewRestored _)

end Sys2Proof.Machine
end

section
/-! ## Registers, windows, power and errors -/

namespace Sys2Proof.Machine

/-! ### Registers and windows (R141, R157, R267) -/

theorem State.Canon.unitError {s : State} (h : s.Canon) (part code die unit : Nat) : (s.unitError part code die unit).Canon :=
  h.sendError _ _

theorem State.Canon.writeCsram {s : State} (h : s.Canon) (part core : Nat) (value : DWord) : (s.writeCsram part core value).Canon :=
  .ite _ h (.ite _ (h.unitError _ _ _ _) (h.onCore _ _))

theorem State.Canon.execCsramWrite {s : State} (h : s.Canon) (part core : Nat) (value : DWord) :
    CanonNext (execCsramWrite part core value s) := .next (h.writeCsram _ _ _)

theorem State.Canon.execCsramSplitChange {s : State} (h : s.Canon) (core : Nat) : CanonNext (execCsramSplitChange core s) :=
  .next (h.changeSplit _)

theorem State.Canon.writePreq {s : State} (h : s.Canon) (part core : Nat) (value : DWord) : (s.writePreq part core value).Canon :=
  .ite _ h ((h.onCore _ _).requestSlots _ _ _)

theorem State.Canon.execPreqWrite {s : State} (h : s.Canon) (part core : Nat) (value : DWord) :
    CanonNext (execPreqWrite part core value s) := .next (h.writePreq _ _ _)

theorem State.Canon.writeLimit {s : State} (h : s.Canon) (part : Nat) (second : Bool) (value : DWord) :
    (s.writeLimit part second value).Canon := .ite _ (h.onPcb _ _) (.ite _ (h.onPcb _ _) (h.unitError _ _ _ _))

theorem State.Canon.execLimitWrite {s : State} (h : s.Canon) (part : Nat) (second : Bool) (value : DWord) :
    CanonNext (execLimitWrite part second value s) := .next (h.writeLimit _ _ _)

theorem State.Canon.writeFtmo {s : State} (h : s.Canon) (port : Nat) (value : DWord) : (s.writeFtmo port value).Canon :=
  .ite _ ((h.onCxl _ _).drainPort _) (h.onCxl _ _)

theorem State.Canon.execFtmoWrite {s : State} (h : s.Canon) (port : Nat) (value : DWord) : CanonNext (execFtmoWrite port value s) :=
  .next (h.writeFtmo _ _)

theorem State.Canon.onSliceMap {s : State} (h : s.Canon) (die : Nat) (f : SliceMap → SliceMap) : (s.onSliceMap die f).Canon := h

theorem State.Canon.writeReg {s : State} (h : s.Canon) (reg : RegName) (value : DWord) : (s.writeReg reg value).Canon := by
  unfold State.writeReg
  extract_lets v
  cases reg
  all_goals exact h

theorem State.Canon.execRegisterWrite {s : State} (h : s.Canon) (reg : RegName) (value : DWord) :
    CanonNext (execRegisterWrite reg value s) := .next (h.writeReg _ _)

theorem State.Canon.writePcb {s : State} (h : s.Canon) (fn : Option Nat) (part off : Nat) (x : DWord) :
    (s.writePcb fn part off x).Canon := by
  unfold State.writePcb
  extract_lets pf q t
  have ht : t.Canon := h.tailWrite _ _ _
  have hq : State.Canon (match fn with
    | some v => if (t.launchQueue part q).device then t else t.onLaunchQueue part q fun y => { y with owner := v }
    | none => t) := by
    split
    · exact .ite _ ht (ht.onLaunchQueue _ _ _)
    · exact ht
  have hz : ((s.onPcb part fun p => { p with
      ringHead := bits x.toNat 0 16, ringTail := bits x.toNat 16 16, overflow := bits x.toNat 32 32 })).Canon := h.onPcb _ _
  have hr r := h.writeReg r x
  have hl b := h.writeLimit part b x
  exact .ite _ (h.writeCsram _ _ _) <| .ite _ (h.writePreq _ _ _) <| .ite _ (.ite _ hz (hr _)) <| .ite _ hq <| .ite _ h <|
    .ite _ (hr _) <| .ite _ (hr _) <| .ite _ (hl _) <| .ite _ (hl _) <| .ite _ (hr _) <| .ite _ (hr _) <| .ite _ (hr _) <|
    .ite _ (hr _) <| .ite _ (hr _) <| .ite _ (hr _) h

theorem State.Canon.writeBytes {s : State} (h : s.Canon) (f : Nat → RegName) (x : DWord) : (s.writeBytes f x).Canon :=
  h.foldl _ fun _ _ ht => ht.writeReg _ _

theorem State.Canon.writeWindow {s : State} (h : s.Canon) (fn : Option Nat) (part off : Nat) (x : DWord) :
    (s.writeWindow fn part off x).Canon := by
  unfold State.writeWindow
  split
  · exact .ite _ (h.writeBytes _ _) (.ite _ (h.writeBytes _ _) (.ite _ (h.writePcb _ _ _ _) (.ite _ (h.writeFtmo _ _) h)))
  · exact .ite _ (h.writePcb _ _ _ _) (.ite _ (h.writeReg _ _) h)

theorem State.Canon.windowZero {s : State} (h : s.Canon) (fn : Option Nat) (part off n : Nat) (store : Option DWord) :
    (s.windowZero fn part off n store).Canon := by
  unfold State.windowZero
  extract_lets w0 byte k old
  split
  · exact h
  next x =>
    extract_lets t
    have ht : t.Canon := h.writeWindow _ _ _ _
    exact .ite _ ht (ht.writeWindow _ _ _ _)

theorem State.Canon.hostAccess {s : State} (h : s.Canon) (ps : List Place) (store : Option DWord) : (s.hostAccess ps store).Canon := by
  unfold State.hostAccess
  split
  · exact h.eachPlaceLine _ fun _ _ ht => ht.gather _
  · exact (h.homePut _ _).clearPoison _

theorem State.Canon.accessFails {s : State} (h : s.Canon) (part object off n : Nat) (c : Cause) :
    (s.accessFails part object off n c).Canon := h.sendError _ _

theorem State.Canon.physAccess {s : State} (h : s.Canon) (off n : Nat) (store : Option DWord) : (s.physAccess off n store).Canon := by
  unfold State.physAccess
  extract_lets ps ms t
  have ht : t.Canon := h.foldl _ fun _ _ hu => hu.settleLine _ _ _
  clear_value t
  split
  · exact h.hostAccess _ _
  split
  · exact ht.accessFails _ _ _ _ _
  · exact ht.hostAccess _ _

theorem State.Canon.objectAccess {s : State} (h : s.Canon) (fn part off n : Nat) (store : Option DWord) :
    (s.objectAccess fn part off n store).Canon := by
  unfold State.objectAccess
  extract_lets ap object at' d? nibs step t
  have ht : t.Canon := h.settleLine _ _ _
  clear_value t step d?
  split
  · exact h.accessFails _ _ _ _ _
  · exact h.accessFails _ _ _ _ _
  next d =>
    extract_lets ps
    refine .ite _ h (.ite _ (h.accessFails _ _ _ _ _) ?_)
    split
    · exact .ite _ (h.accessFails _ _ _ _ _) (h.hostAccess _ _)
    next x =>
      exact .ite _ (ht.accessFails _ _ _ _ _) (ht.hostAccess _ _)

theorem State.Canon.earlyAccess {s : State} (h : s.Canon) (fn : Option Nat) (part window off n : Nat) (store : Option DWord) :
    (s.earlyAccess fn part window off n store).Canon := by
  unfold State.earlyAccess
  split
  · exact h
  · exact .ite _ (h.windowZero _ _ _ _ _) h

theorem State.Canon.execHostWindowAccess {s : State} (h : s.Canon) (fn : Option Nat) (window offset bytes : Nat) (store : Option DWord) :
    CanonNext (execHostWindowAccess fn window offset bytes store s) := by
  unfold Machine.execHostWindowAccess
  extract_lets n map part
  refine .next (.ite _ h (.ite _ ?_ (.ite _ (h.earlyAccess _ _ _ _ _ _) (.ite _ (h.windowZero _ _ _ _ _) ?_))))
  · exact h
  split
  · exact h.physAccess _ _ _
  · exact h.objectAccess _ _ _ _ _

theorem State.Canon.execPcieConfigRequest {s : State} (h : s.Canon) (request : Nat) : CanonNext (execPcieConfigRequest request s) := by
  refine .next (.ite _ h (.ite _ ?_ ?_))
  all_goals exact h

/-! ### Power, start and reset (R272 to R276, R265) -/

/-- A chip without power keeps host memory and holds nothing in its own. -/
theorem State.Canon.unpowered {s : State} (h : s.Canon) : s.unpowered.Canon := ⟨rfl, rfl, rfl, h.hostMem⟩
theorem State.Canon.execPowerGood {s : State} (h : s.Canon) : CanonNext (execPowerGood s) := .next (.ite _ h h.unpowered)

theorem State.Canon.measure {s : State} (h : s.Canon) (c : Component) : (s.measure c).Canon := .ite _ h h

theorem State.Canon.trainPorts {s : State} (h : s.Canon) : s.trainPorts.Canon := h

theorem State.Canon.execStartStageReached {s : State} (h : s.Canon) (stage : Nat) (error : BitVec 8) (components : List Component) :
    CanonNext (execStartStageReached stage error components s) := by
  unfold Machine.execStartStageReached
  extract_lets next measured t u
  have ht : t.Canon := h.foldl _ fun _ _ hx => hx.measure _
  have hu : u.Canon := .ite _ ht.trainPorts ht
  refine .next (.ite _ h (.ite _ ?_ ?_))
  · exact ht
  · exact hu

theorem State.Canon.execAttestationReport {s : State} (h : s.Canon) (mailbox : Nat) (nonce : BitVec 256) :
    CanonNext (execAttestationReport mailbox nonce s) := .next (.ite _ h h)

theorem State.Canon.execPowerLimitSet {s : State} (h : s.Canon) (watts : Nat) : CanonNext (execPowerLimitSet watts s) :=
  .next (.ite _ h h)

theorem State.Canon.execPowerThrottle {s : State} (h : s.Canon) (idle clockStep : Nat) : CanonNext (execPowerThrottle idle clockStep s) :=
  .next (.ite _ h h)

theorem State.Canon.execThermalShutdown {s : State} (h : s.Canon) : CanonNext (execThermalShutdown s) :=
  .next (.ite _ (h.sendError _ _).unpowered h)

theorem State.Canon.resetThreads {s : State} (h : s.Canon) (fn : Nat) : (s.resetThreads fn).Canon :=
  h.foldl _ fun _ _ ht => (ht.setThread _).arrivalEvent _

theorem State.Canon.resetArrays {s : State} (h : s.Canon) (fn : Nat) : (s.resetArrays fn).Canon := h.foldl _ fun _ _ ht => by
  split
  · exact ht.abortArray _
  · exact ht

theorem State.Canon.resetBundles {s : State} (h : s.Canon) (fn : Nat) : (s.resetBundles fn).Canon :=
  h.foldl _ fun _ _ ht => ht.abortBundle _

theorem State.Canon.resetWeaves {s : State} (h : s.Canon) (fn : Nat) : (s.resetWeaves fn).Canon :=
  h.foldl _ fun _ _ ht => (ht.giveUpBundles _).removeWeave _

theorem State.Canon.resetCrews {s : State} (h : s.Canon) (fn : Nat) : (s.resetCrews fn).Canon := State.Canon.foldl (h.foldl _ fun _ _ ht => ht.discardSaved _) _ fun t c ht => by
  have hu := (ht.release c.core .sy).returnArray c
  refine State.Canon.clusterEnd ?_ _
  exact hu

theorem State.Canon.resetPins {s : State} (h : s.Canon) (fn : Nat) : (s.resetPins fn).Canon := h.foldl _ fun _ _ ht => ht.unpinBundle _ _

theorem State.Canon.resetLaunches {s : State} (h : s.Canon) (fn : Nat) : (s.resetLaunches fn).Canon := by
  unfold State.resetLaunches
  extract_lets ids t
  have ht : t.Canon := h
  exact ht.foldl _ fun _ _ hu => hu.finishLaunch _

theorem State.Canon.execVfReset {s : State} (h : s.Canon) (fn : Nat) : CanonNext (execVfReset fn s) :=
  .next ((((((h.resetThreads _).resetArrays _).resetBundles _).resetWeaves _).resetCrews _).resetPins _ |>.resetLaunches _)

/-! ### Errors (R257) -/

theorem State.Canon.execCorrectableError {s : State} (h : s.Canon) (part die : Nat) : CanonNext (execCorrectableError part die s) := by
  unfold Machine.execCorrectableError
  extract_lets t
  have ht : t.Canon := h.onPcb _ _
  exact .next ht

theorem State.Canon.execCorrectableThreshold {s : State} (h : s.Canon) (part : Nat) : CanonNext (execCorrectableThreshold part s) :=
  .next (.ite _ h ((h.onPcb _ _).unitError _ _ _ _))

theorem State.Canon.hitOpen {s : State} (h : s.Canon) (m : MemberLine) (bad : BitVec 128) : (s.hitOpen m bad).Canon := by
  unfold State.hitOpen
  split
  · exact .ite _ (h.abortBundle _) (h.putMember _)
  · exact h

theorem State.Canon.execUncorrectableError {s : State} (h : s.Canon) (part address bytes : Nat) :
    CanonNext (execUncorrectableError part address bytes s) := by
  unfold Machine.execUncorrectableError
  extract_lets n ms opened kept t
  have ht : t.Canon := by
    refine .ite _ (h.foldl _ fun _ _ hu => hu.hitOpen _ _) (.ite _ (h.foldl _ fun _ _ hu => hu.putMember _) ?_)
    exact h
  exact .next (ht.sendError _ _)

end Sys2Proof.Machine
end

section
/-! ## Requests to the homes, ports and extents -/

namespace Sys2Proof.Machine

/-! ### Requests to the homes (R147 to R152) -/

theorem State.Canon.serveRead {s : State} (h : s.Canon) (hd : Holder) (line : Nat) (early : Bool) : (s.serveRead hd line early).Canon := by
  unfold State.serveRead
  refine .ite _ h ?_
  extract_lets tag t
  have ht : t.Canon := by
    unfold t
    split
    · exact h
    next b _ =>
      extract_lets u
      have hu : u.Canon := h.dropStale _ _
      exact .ite _ hu (hu.homeRead _ _ _ _ _)
  exact ht.homeRead _ _ _ _ _

theorem State.Canon.refuseHolder {s : State} (h : s.Canon) (hd : Holder) (line : Nat) : (s.refuseHolder hd line).Canon := h

theorem State.Canon.remapHolder {s : State} (h : s.Canon) (hd : Holder) (line : Nat) : CanonSome (s.remapHolder hd line) := fun t e => by
  obtain ⟨core, _, e⟩ := Option.bind_eq_some_iff.1 e
  split at e
  · exact Option.some.inj e ▸ h.adoptMap _ _
  · cases e

theorem State.Canon.readRequest {s : State} (h : s.Canon) (hd : Holder) (line : Nat) : (s.readRequest hd line).Canon := by
  unfold State.readRequest
  refine .ite _ h ?_
  extract_lets t u
  have ht : t.Canon := h
  have hu : u.Canon := ht.settleHome _ _
  clear_value t u
  split
  next v e => exact ht.remapHolder _ _ v e
  split
  · exact .ite _ ht (.ite _ (ht.joinFill _ _ _) (h.refuseHolder _ _))
  · refine .ite _ ?_ (ht.serveRead _ _ _)
    exact hu

theorem State.Canon.execHomeReadRequest {s : State} (h : s.Canon) (holder : Holder) (line : Nat) :
    CanonNext (execHomeReadRequest holder line s) := .next (h.readRequest _ _)

theorem State.Canon.ownRequest {s : State} (h : s.Canon) (hd : Holder) (line : Nat) : (s.ownRequest hd line).Canon := by
  unfold State.ownRequest
  refine .ite _ h ?_
  split
  next u e => exact h.remapHolder _ _ u e
  · exact h.homeOwn _ _ _ _ _

theorem State.Canon.execHomeOwnershipRequest {s : State} (h : s.Canon) (holder : Holder) (line : Nat) :
    CanonNext (execHomeOwnershipRequest holder line s) := .next (h.ownRequest _ _)

theorem State.Canon.execSliceFillArrival {s : State} (h : s.Canon) (line : Nat) : CanonNext (execSliceFillArrival line s) := by
  unfold Machine.execSliceFillArrival
  split
  · exact .next h
  next f _ =>
    refine .next (State.Canon.foldl ?_ _ fun _ _ ht => ht.serveRead _ _ _)
    exact h

theorem State.Canon.execRetryReissue {s : State} (h : s.Canon) (weave : WeaveId) (strand : Strand) :
    CanonNext (execRetryReissue weave strand s) := .next h

theorem State.Canon.execRemapReply {s : State} (h : s.Canon) (core die line : Nat) : CanonNext (execRemapReply core die line s) :=
  .next (.ite _ (h.adoptMap _ _) h)

theorem State.Canon.execWriteBackMerge {s : State} (h : s.Canon) (holder : Holder) (line : Nat) :
    CanonNext (execWriteBackMerge holder line s) := by
  unfold Machine.execWriteBackMerge
  split
  · exact .next (.ite _ h (h.writeBack _ _))
  · exact .next h

theorem State.Canon.execLCopyIdleExpiry {s : State} (h : s.Canon) (cluster line : Nat) : CanonNext (execLCopyIdleExpiry cluster line s) := by
  unfold Machine.execLCopyIdleExpiry
  split
  · exact .next (.ite _ (h.endL _ _) h)
  · exact .next h

theorem State.Canon.execLCopyRetryRecall {s : State} (h : s.Canon) (line : Nat) : CanonNext (execLCopyRetryRecall line s) :=
  .next (.ite _ (h.endLineL _) h)

theorem State.Canon.walkLines {s : State} (h : s.Canon) (hd : Holder) : (s.walkLines hd).Canon := h.foldl _ fun _ _ ht => ht.writeBack _ _

theorem State.Canon.execStaleLineWalk {s : State} (h : s.Canon) (holder : Holder) : CanonNext (execStaleLineWalk holder s) := by
  unfold Machine.execStaleLineWalk
  cases holder with
  | l1 | cluster => exact .next (h.walkLines _)
  | _ => exact .next h

theorem State.Canon.evictOtb {s : State} (h : s.Canon) (owner : Holder) (part object frame : Nat) :
    (s.evictOtb owner part object frame).Canon := h.otbInvalidate _

theorem State.Canon.execBankWake {s : State} (h : s.Canon) (holder : Holder) : CanonNext (execBankWake holder s) := .next (h.wakeBank _)

theorem State.Canon.execRetentionSleepEntry {s : State} (h : s.Canon) (holder : Holder) : CanonNext (execRetentionSleepEntry holder s) :=
  .next (.ite _ h h)

theorem State.Canon.snoop {s : State} (h : s.Canon) (half : Nat) : (s.snoop half).Canon :=
  .ite _ h (h.foldl _ fun _ _ ht => .ite _ ((ht.mergeBytes _).dropLine _ _) ((ht.mergeBytes _).putLine _))

theorem State.Canon.execBackInvalidateSnoop {s : State} (h : s.Canon) (half : Nat) : CanonNext (execBackInvalidateSnoop half s) :=
  .next (h.snoop _)

theorem State.Canon.execTranslationWalk {s : State} (h : s.Canon) (core part object frame : Nat) :
    CanonNext (execTranslationWalk core part object frame s) := by
  unfold Machine.execTranslationWalk
  split
  · exact .next (.ite _ (h.walk _ _ _ _) h)
  · exact .next h

/-! ### Ports and extents (R108, R109, R157 to R159) -/

theorem State.Canon.tellParts {s : State} (h : s.Canon) (code port : Nat) (hit : List (Nat × Nat × Nat)) :
    (s.tellParts code port hit).Canon := h.foldl _ fun _ _ ht => ht.unitError _ _ _ _

theorem State.Canon.setDown {s : State} (h : s.Canon) (port : Nat) : (s.setDown port).Canon := by
  unfold State.setDown
  extract_lets u t
  have hu : u.Canon := h.onCxl _ _
  have ht : t.Canon := hu
  exact .ite _ ht (ht.tellParts _ _ _)

theorem State.Canon.execFarPortTimeout {s : State} (h : s.Canon) (port : Nat) : CanonNext (execFarPortTimeout port s) :=
  .next (.ite _ (h.setDown _) h)

theorem State.Canon.execCxlLinkDown {s : State} (h : s.Canon) (port : Nat) : CanonNext (execCxlLinkDown port s) :=
  .next (.ite _ ((h.onCxl _ _).setDown _) h)

theorem State.Canon.execCxlLinkUp {s : State} (h : s.Canon) (port : Nat) : CanonNext (execCxlLinkUp port s) :=
  .next (.ite _ (h.onCxl _ _) h)

theorem State.Canon.execExtentGrant {s : State} (h : s.Canon) (port first count : Nat) : CanonNext (execExtentGrant port first count s) :=
  .next (.ite _ h (h.onCxl _ _))

theorem State.Canon.writeExtent {s : State} (h : s.Canon) (port first count : Nat) : (s.writeExtent port first count).Canon :=
  h.foldl _ fun _ _ ht => ht.writeBack _ _

theorem State.Canon.execExtentReleaseRequest {s : State} (h : s.Canon) (port first count : Nat) :
    CanonNext (execExtentReleaseRequest port first count s) := by
  unfold Machine.execExtentReleaseRequest
  split
  · exact .next (.ite _ ((h.writeExtent _ _ _).onCxl _ _) h)
  · exact .next h

theorem State.Canon.moveSpilled {s : State} (h : s.Canon) (port first count : Nat) (m : MemberLine) :
    CanonSome (s.moveSpilled port first count m) := (CanonSome.some h).foldl_bind _ fun t x ht u e => by
  obtain ⟨r, er, e⟩ := Option.bind_eq_some_iff.1 e
  obtain ⟨n, _, rfl⟩ := Option.map_eq_some_iff.1 e
  exact (ht.spillFrame _ _ er).putMember _

theorem State.Canon.execExtentReleaseAck {s : State} (h : s.Canon) (port first count : Nat) :
    CanonNext (execExtentReleaseAck port first count s) := by
  unfold Machine.execExtentReleaseAck
  split
  next c _ =>
    refine .next (.ite _ h ?_)
    have hm := (CanonSome.some (h.writeExtent port first count)).foldl_bind s.members fun t m ht => ht.moveSpilled port first count m
    split
    · exact h
    next t e => exact (hm t e).onCxl _ _
  · exact .next h

theorem State.Canon.withdraw {s : State} (h : s.Canon) (x : Nat × Nat × Nat) : (s.withdraw x).Canon := by
  unfold State.withdraw
  split
  · exact h
  · exact ((((h.reclaim _).reclaim _).memWrite _ _ _).memWrite _ _ _).otbInvalidate _

theorem State.Canon.execExtentForcedRemoval {s : State} (h : s.Canon) (port first count : Nat) :
    CanonNext (execExtentForcedRemoval port first count s) := by
  unfold Machine.execExtentForcedRemoval
  split
  · exact .next h
  next c _ =>
    refine .next (.ite _ h ?_)
    extract_lets hit t u v
    have ht : t.Canon := h
    have hu : u.Canon := ht.foldl _ fun _ _ hy => hy.reheader _ _
    have hv : v.Canon := (hu.foldl _ fun _ _ hy => hy.withdraw _).tellParts _ _ _
    exact hv.onCxl _ _

/-! ### Bundles and drains -/

theorem State.Canon.execBundleMemberReport {s : State} (h : s.Canon) (part handle : Nat) :
    CanonNext (execBundleMemberReport part handle s) := by
  unfold Machine.execBundleMemberReport
  split
  · exact .next (h.commit _)
  · exact .next h

theorem State.Canon.settleOf {s : State} (h : s.Canon) (part handle object line : Nat) : (s.settleOf part handle object line).Canon := by
  unfold State.settleOf
  split
  · exact .ite _ (h.settle _) h
  · exact h

theorem State.Canon.execBundleFlip {s : State} (h : s.Canon) (part handle object line : Nat) :
    CanonNext (execBundleFlip part handle object line s) := .next (h.settleOf _ _ _ _)

theorem State.Canon.execCoordinatorQuery {s : State} (h : s.Canon) (part handle object line : Nat) :
    CanonNext (execCoordinatorQuery part handle object line s) := .next (h.settleOf _ _ _ _)

theorem State.Canon.execAcqpDrain {s : State} (h : s.Canon) (flight : Nat) : CanonNext (execAcqpDrain flight s) := by
  unfold Machine.execAcqpDrain
  split
  · exact .next h
  next f _ =>
    split
    · refine .next (.ite _ h (State.Canon.drain ?_ _ _ _))
      exact h
    · exact .next h

end Sys2Proof.Machine
end

section
/-! ## Waits, arrivals and fetch -/

namespace Sys2Proof.Machine

/-! ### Waits that end (R44, R170, R383) -/

theorem State.Canon.actAs {s : State} (h : s.Canon) (id : WeaveId) (st : Strand) (pc : BitVec 32) : (s.actAs id st pc).Canon := h

theorem State.Canon.wakeWord {s : State} (h : s.Canon) (w : Weave) (st : Strand) (r : WaitRec) (object o : Nat) (a : Attrs) (c : Word) (d : Nat) (m : Mode) :
    CanonSome (s.wakeWord w st r object o a c d m) := by
  unfold State.wakeWord
  extract_lets t g q
  have ht : t.Canon := h.actAs _ _ _
  clear_value t
  split
  next u0 x e =>
    extract_lets u
    have hu : u.Canon := (ht.observeWord _ _ _ e).waitvRun _ _ _ _
    split
    · exact .none
    · exact .some ((hu.onMe _).acquire _ _)
  · exact .some ((ht.onMe _).vector _ _ _)
  · exact .none

theorem State.Canon.wake {s : State} (h : s.Canon) (w : Weave) (st : Strand) (r : WaitRec) : CanonSome (s.wake w st r) := by
  unfold State.wake
  split
  · split
    · exact .none
    · exact .some ((h.onWeave _ _).barComplete _ _)
  · split
    · exact .none
    · exact .some ((h.onWeave _ _).acquire _ _)
  · exact h.wakeWord _ _ _ _ _ _ _ _ _
  · exact .none
  · exact .none
  · split
    · exact .some (h.onWeave _ _)
    · exact .none

theorem State.Canon.wakeNow {s : State} (h : s.Canon) (id : WeaveId) (st : Strand) : CanonSome (s.wakeNow id st) := fun t e => by
  obtain ⟨w, _, e⟩ := Option.bind_eq_some_iff.1 e
  split at e
  · cases e
  · obtain ⟨r, _, e⟩ := Option.bind_eq_some_iff.1 e
    exact h.wake w st r t e

theorem State.Canon.execWaitWake {s : State} (h : s.Canon) (weave : WeaveId) (strand : Strand) :
    CanonNext (execWaitWake weave strand s) := .next (h.getD (h.wakeNow _ _))

theorem State.Canon.watchFault {s : State} (h : s.Canon) (w : Weave) (st : Strand) (r : WaitRec) (access : Nat) (m : LaneMask) (port : Nat) :
    (s.watchFault w st r access m port).Canon := by
  unfold State.watchFault
  extract_lets t i
  have ht : t.Canon := h.actAs _ _ _
  exact (ht.onMe _).vector _ _ _

theorem State.Canon.execWaitWatchdog {s : State} (h : s.Canon) (weave : WeaveId) (strand : Strand) :
    CanonNext (execWaitWatchdog weave strand s) := by
  unfold Machine.execWaitWatchdog
  refine .next ?_
  split
  · exact h
  split
  · split
    · exact .ite _ (h.watchFault _ _ _ _ _ _) h
    · exact h
  · exact h

theorem State.Canon.execPortWatch {s : State} (h : s.Canon) (weave : WeaveId) (entry : Nat) : CanonNext (execPortWatch weave entry s) := by
  unfold Machine.execPortWatch
  refine .next ?_
  split
  · exact h
  split
  · exact h
  split
  · exact .ite _ (h.watchFault _ _ _ _ _ _) h
  · exact h

/-! ### Arrivals and the split table -/

theorem State.Canon.land {s : State} (h : s.Canon) (w : Weave) (p : Port) : (s.land w p).Canon := by
  unfold State.land
  split
  · exact h
  · refine State.Canon.onWeave ?_ _ _
    exact h

theorem State.Canon.execPortEntryLand {s : State} (h : s.Canon) (weave : WeaveId) (port : Port) :
    CanonNext (execPortEntryLand weave port s) := by
  unfold Machine.execPortEntryLand
  split
  · exact .next (.ite _ (h.land _ _) h)
  · exact .next h

theorem State.Canon.swapWindow {s : State} (h : s.Canon) (w : Weave) : CanonSome (s.swapWindow w) := fun t e => by
  obtain ⟨base, _, rfl⟩ := Option.map_eq_some_iff.1 e
  exact (h.syncSplit w).onWeave _ _

theorem State.Canon.execSplitWindowSwap {s : State} (h : s.Canon) (weave : WeaveId) : CanonNext (execSplitWindowSwap weave s) := .next (h.getD fun t e => by
  obtain ⟨w, _, e⟩ := Option.bind_eq_some_iff.1 e
  exact h.swapWindow w t e)

theorem State.Canon.execFragmentPark {s : State} (h : s.Canon) (weave : WeaveId) (entry : Nat) :
    CanonNext (execFragmentPark weave entry s) := by
  unfold Machine.execFragmentPark
  split
  · exact .next (.ite _ h (h.onWeave _ _))
  · exact .next h

theorem State.Canon.returnData {s : State} (h : s.Canon) (f : Flight) : (s.returnData f).Canon := by
  unfold State.returnData
  extract_lets write
  have hw g : (write g).Canon := (h.dropFlight _).onWeave _ _
  cases f.dest with
  | scal | scal2 | lanes => exact hw _
  | coord => exact .ite _ h ((h.dropFlight _).answer _ _ _ _)
  | queue | array | drain | accept => exact h

theorem State.Canon.execLoadDataReturn {s : State} (h : s.Canon) (flight : Nat) : CanonNext (execLoadDataReturn flight s) := by
  unfold Machine.execLoadDataReturn
  split
  · exact .next (.ite _ (h.returnData _) h)
  · exact .next h

theorem State.Canon.fillEntry {s : State} (h : s.Canon) (f : Flight) : (s.fillEntry f).Canon := by
  unfold State.fillEntry
  split
  · exact (h.dropFlight _).onWeave _ _
  · exact h

theorem State.Canon.execQueueEntryComplete {s : State} (h : s.Canon) (flight : Nat) : CanonNext (execQueueEntryComplete flight s) := by
  unfold Machine.execQueueEntryComplete
  split
  · exact .next (.ite _ (h.fillEntry _) h)
  · exact .next h

theorem State.Canon.execDataFailure {s : State} (h : s.Canon) (flight : Nat) (poisoned : Bool) (lanes : LaneMask) :
    CanonNext (execDataFailure flight poisoned lanes s) := by
  unfold Machine.execDataFailure
  split
  · exact .next h
  · exact .next (.ite _ h (h.dataFault _ _ _))

/-! ### Fetch and issue -/

theorem State.Canon.keepCode {s : State} (h : s.Canon) (before : State) : (s.keepCode before).Canon := .ite _ h h

theorem State.Canon.vectorMe {s : State} (h : s.Canon) (i : FaultInfo) : (s.vectorMe i).Canon := h.vector _ _ _

theorem State.Canon.pairUp {s : State} (h : s.Canon) (w : Weave) (a? : Option Attrs) : (s.pairUp w a?).Canon := by
  unfold State.pairUp
  split
  · exact h.vectorMe _
  split
  · exact h.vectorMe _
  · refine .ite _ ?_ (h.vectorMe _)
    exact h

theorem State.Canon.execPrefixWord {s : State} (h : s.Canon) (v b : BitVec 1) (c s' p o : BitVec 3) :
    CanonNext (execPrefixWord v b c s' p o s) := by
  unfold Machine.execPrefixWord
  split
  · exact .fault _
  · exact .next (h.pairUp _ _)

theorem State.Canon.notePipe {s : State} (h : s.Canon) (id : WeaveId) (st : Strand) (i : Instr) : (s.notePipe id st i).Canon := by
  cases st with
  | a => exact h
  | c => exact h.onCore _ _

theorem State.Canon.atIssue {s : State} (h : s.Canon) (w : Weave) (st : Strand) (n : Nat) : (s.atIssue w st n).Canon := h

theorem State.Canon.atMoment {s : State} (h : s.Canon) (m : Moment) : (s.atMoment m).Canon := h

end Sys2Proof.Machine
end

section
/-! ## Every instruction and every event -/

namespace Sys2Proof.Machine

/-! ### Every instruction and every event -/

/-- Whatever member is executed, the memories keep their canonical form. -/
theorem State.Canon.exec {s : State} (h : s.Canon) (i : Instr) : CanonNext (exec i s) := by
  cases i with
  | add | sub | mul | mulh | divu | remu | and | or | xor | shl | shr | sar | slt | sltu | min | max =>
    unfold Machine.exec; exact h.salu _ _ _ _ _
  | addi | andi | ori | xori | shli | shri | sari | slti | clz | popc => unfold Machine.exec; exact h.salui _ _ _ _
  | sel | clock | movi | movk | bra | call | vote | vcmp | vsel | vbcst | fcmp | fsign | fscale | frnd | fcmpF16 | fdot2F16 | fcmpBf16
  | fdot2Bf16 | fcvt | qblk | dqblk | zipW2 | zipW3 | zipW4 | unzipW2 | unzipW3 | unzipW4 | vperm | vred | vscan | vcmpr | vmovi | vcmpi
  | setx | qstat | nop => unfold Machine.exec; exact h.run _ fun _ _ ht => .ok ht
  | mfc => exact h.execMfc _ _
  | mtc => exact h.execMtc _ _
  | pgq => exact h.execPgq _ _
  | bcc => exact h.execBcc _ _ _ _
  | jmpr => exact h.execJmpr _ _
  | yield | wait => unfold Machine.exec; exact h.waitOn _ _ _ _
  | trap | brk => unfold Machine.exec; exact h.run _ fun _ _ _ => .error _
  | brv => exact h.execBrv _ _ _
  | join => exact h.execJoin _
  | launch => exact h.execLaunch _ _ _
  | vadd | vsub | vmul | vmulh | vmulhu | vmad | vand | vor | vxor | vshl | vshr | vsar | vmin | vmax | vadds | vsubs | vaddI16 | vsubI16
  | vmulI16 | vmulhI16 | vmulhuI16 | vmadI16 | vandI16 | vorI16 | vxorI16 | vshlI16 | vshrI16 | vsarI16 | vminI16 | vmaxI16 | vaddsI16
  | vsubsI16 | vaddI8 | vsubI8 | vmulI8 | vmulhI8 | vmulhuI8 | vmadI8 | vandI8 | vorI8 | vxorI8 | vshlI8 | vshrI8 | vsarI8 | vminI8
  | vmaxI8 | vaddsI8 | vsubsI8 | vdot4 | vminu | vmaxu | vaddN | vsubN | vmulN | vandN | vorN | vxorN | vshlN | vshrN | vsarN | vminN
  | vmaxN => unfold Machine.exec; exact h.lane3 _ _ _ _ _ _
  | vabs | vclz | vpopc | vmov | vext | vins | fclass | vmovN => unfold Machine.exec; exact h.lane2 _ _ _ _ _
  | fadd | fsub | fmul | fma | fnma | fmin | fmax | fabs | fneg | faddF16 | fsubF16 | fmulF16 | fmaF16 | fminF16 | fmaxF16 | faddBf16
  | fsubBf16 | fmulBf16 | fmaBf16 | fminBf16 | fmaxBf16 | faddN | fsubN | fmulN | fmaxN =>
    unfold Machine.exec; exact h.floatLane _ _ _ _ _ _ _ _
  | frcp | frsq | fsqrt | fdiv | fexp2 | flog2 | fsin | fcos | ftanh => unfold Machine.exec; exact h.sfu _ _ _ _ _ _
  | vaddi | vandi | vori | vxori | vshli | vshri | vsari => unfold Machine.exec; exact h.laneImm _ _ _ _
  | vldx => exact h.execVldx _ _ _
  | vstx => exact h.execVstx _ _ _ _
  | qpush => exact h.execQpush _ _ _
  | qpop | qpeek => unfold Machine.exec; exact h.run _ fun w _ ht => ht.popBody _ _ _ _ w
  | npush => exact h.execNpush _ _ _
  | npop | npeek => unfold Machine.exec; exact h.run _ fun w _ ht => ht.portPop _ _ _ _ w
  | npoll => exact h.execNpoll _ _ _
  | nsave => exact h.execNsave _ _
  | nload => exact h.execNload _ _
  | xshuf => exact h.execXshuf _ _
  | lds | sld => unfold Machine.exec; exact h.run _ fun w _ ht => ht.loadScalar _ _ _ _ _ _ _ w
  | sts | sst => unfold Machine.exec; exact h.run _ fun w _ ht => ht.storeScalar _ _ _ _ _ _ w
  | ldc => exact h.execLdc _ _ _ _
  | stc => exact h.execStc _ _ _ _
  | ldq => exact h.execLdq _ _ _ _ _ _
  | stq => exact h.execStq _ _ _ _ _
  | pref => exact h.execPref _ _ _
  | vld => exact h.execVld _ _ _ _ _ _
  | vst => exact h.execVst _ _ _ _ _
  | gthq => exact h.execGthq _ _ _ _ _ _ _
  | sctq => exact h.execSctq _ _ _ _ _ _ _
  | vgth => exact h.execVgth _ _ _ _ _ _
  | vsct => exact h.execVsct _ _ _ _ _ _
  | amo => exact h.execAmo _ _ _ _ _
  | vamo => exact h.execVamo _ _ _ _
  | cas => exact h.execCas _ _ _ _
  | vcas => exact h.execVcas _ _ _
  | fence => exact h.execFence _ _
  | acqp => exact h.execAcqp _ _
  | bar => exact h.execBar _
  | binit => exact h.execBinit _ _
  | bara => exact h.execBara _
  | barw => exact h.execBarw _
  | waitv => exact h.execWaitv _ _ _
  | bopen => exact h.execBopen _ _ _
  | bjoin => exact h.execBjoin _ _
  | bclose => exact h.execBclose _
  | babort => exact h.execBabort _
  | bview => exact h.execBview _ _
  | brel => exact h.execBrel _
  | bstat => exact h.execBstat _ _
  | bpin => exact h.execBpin _ _
  | layq => exact h.execLayq _ _ _
  | laypin => exact h.execLaypin _ _ _
  | layadv => exact h.execLayadv _ _ _
  | mload => exact h.execMload _ _ _ _
  | mmac => exact h.execMmac _ _ _ _
  | mread => exact h.execMread _ _ _
  | msave => exact h.execMsave _
  | mrstr => exact h.execMrstr _
  | tcopy => exact h.execTcopy _ _ _ _ _
  | tcopys => exact h.execTcopys _ _ _
  | nmx => exact h.execNmx _ _ _
  | scan => exact h.execScan _ _ _
  | ckpt => exact h.execCkpt _ _
  | cred => exact h.execCred _ _ _
  | cbcst => exact h.execCbcst _ _
  | objmap => exact h.execObjmap _ _ _
  | objunmap => exact h.execObjunmap _ _ _
  | objq => exact h.execObjq _ _ _
  | mapgen => exact h.execMapgen _ _ _
  | inval => exact h.execInval _ _
  | rstspl => exact h.execRstspl _
  | perf => exact h.execPerf _ _
  | preempt => exact h.execPreempt _ _
  | prefixWord => exact h.execPrefixWord _ _ _ _ _ _
  | ret => exact h.execRet
  | exit => exact h.execExit
  | rte => exact h.execRte
  | mgang => exact h.execMgang
  | mswap => exact h.execMswap
  | mzero => exact h.execMzero
  | savespl => exact h.execSavespl
  | launchQueueTailWrite => exact h.execLaunchQueueTailWrite _ _ _
  | preqWrite => exact h.execPreqWrite _ _ _
  | csramWrite => exact h.execCsramWrite _ _ _
  | csramSplitChange => exact h.execCsramSplitChange _
  | limitWrite => exact h.execLimitWrite _ _ _
  | ftmoWrite => exact h.execFtmoWrite _ _
  | registerWrite => exact h.execRegisterWrite _ _
  | hostWindowAccess => exact h.execHostWindowAccess _ _ _ _ _
  | attestationReport => exact h.execAttestationReport _ _
  | powerLimitSet => exact h.execPowerLimitSet _
  | thermalShutdown => exact h.execThermalShutdown
  | powerGood => exact h.execPowerGood
  | startStageReached => exact h.execStartStageReached _ _ _
  | vfReset => exact h.execVfReset _
  | crewDispatch => exact h.execCrewDispatch _
  | weaveEnd => exact h.execWeaveEnd _
  | crewHalted => exact h.execCrewHalted _
  | splitWindowSwap => exact h.execSplitWindowSwap _
  | fragmentPark => exact h.execFragmentPark _ _
  | waitWake => exact h.execWaitWake _ _
  | waitWatchdog => exact h.execWaitWatchdog _ _
  | portWatch => exact h.execPortWatch _ _
  | portEntryLand => exact h.execPortEntryLand _ _
  | queueEntryComplete => exact h.execQueueEntryComplete _
  | loadDataReturn => exact h.execLoadDataReturn _
  | dataFailure => exact h.execDataFailure _ _ _
  | farPortTimeout => exact h.execFarPortTimeout _
  | cxlLinkDown => exact h.execCxlLinkDown _
  | extentGrant => exact h.execExtentGrant _ _ _
  | extentReleaseRequest => exact h.execExtentReleaseRequest _ _ _
  | extentForcedRemoval => exact h.execExtentForcedRemoval _ _ _
  | backInvalidateSnoop => exact h.execBackInvalidateSnoop _
  | homeReadRequest => exact h.execHomeReadRequest _ _
  | homeOwnershipRequest => exact h.execHomeOwnershipRequest _ _
  | sliceFillArrival => exact h.execSliceFillArrival _
  | retryReissue => exact h.execRetryReissue _ _
  | remapReply => exact h.execRemapReply _ _ _
  | writeBackMerge => exact h.execWriteBackMerge _ _
  | lCopyIdleExpiry => exact h.execLCopyIdleExpiry _ _
  | lCopyRetryRecall => exact h.execLCopyRetryRecall _
  | staleLineWalk => exact h.execStaleLineWalk _
  | bankWake => exact h.execBankWake _
  | monitorWindowEnd => exact h.execMonitorWindowEnd
  | sectionCopy => exact h.execSectionCopy _
  | busySectionRelease => exact h.execBusySectionRelease _
  | translationWalk => exact h.execTranslationWalk _ _ _ _
  | bundleMemberReport => exact h.execBundleMemberReport _ _
  | bundleFlip => exact h.execBundleFlip _ _ _ _
  | coordinatorQuery => exact h.execCoordinatorQuery _ _ _ _
  | engineGranule => exact h.execEngineGranule _ _
  | engineArrival => exact h.execEngineArrival _
  | collectiveMatchTimeout => exact h.execCollectiveMatchTimeout _
  | memberWithdrawn => exact h.execMemberWithdrawn _
  | gangLatchClose => exact h.execGangLatchClose _
  | gangLatchTimeout => exact h.execGangLatchTimeout _
  | arrayQueuePerform => exact h.execArrayQueuePerform _ _
  | matrixArrival => exact h.execMatrixArrival _ _
  | acqpDrain => exact h.execAcqpDrain _
  | correctableError => exact h.execCorrectableError _ _
  | correctableThreshold => exact h.execCorrectableThreshold _
  | uncorrectableError => exact h.execUncorrectableError _ _ _
  | launchAbort => exact h.execLaunchAbort _
  | cxlLinkUp => exact h.execCxlLinkUp _
  | retentionSleepEntry => exact h.execRetentionSleepEntry _
  | extentReleaseAck => exact h.execExtentReleaseAck _ _ _
  | powerThrottle => exact h.execPowerThrottle _ _
  | launchCopyArrival => exact h.execLaunchCopyArrival _ _ _
  | pcieConfigRequest => exact h.execPcieConfigRequest _
  | columnSubstitution => exact h.execColumnSubstitution _ _ _

end Sys2Proof.Machine
end

section
/-! ## Turns and steps -/

namespace Sys2Proof.Machine

/-! ### Turns -/

/-- A turn that may not be taken: what it does, if anything, keeps the memories canonical. -/
def CanonTurn (o : Option (Host.Outcome State Fault Refusal)) : Prop := ∀ r, o = some r → CanonNext r

theorem CanonTurn.none : CanonTurn none := fun _ e => by cases e

theorem CanonTurn.some {r : Host.Outcome State Fault Refusal} (h : CanonNext r) : CanonTurn (some r) := fun _ e => Option.some.inj e ▸ h

theorem State.Canon.runWord {s : State} (h : s.Canon) (x : InstrWord) : CanonTurn (s.runWord x) := by
  unfold State.runWord
  split
  · exact .none
  next w _ =>
    split
    · exact .some (.next (h.vectorMe _))
    · exact .some (.next (h.pairUp _ _))
    · exact .some (.next (h.vectorMe _))
    next i _ =>
      split
      · exact .none
      · exact .some (State.Canon.exec (.notePipe (.ite _ h (h.atMoment _)) _ _ _) i)

theorem State.Canon.runPair {s : State} (h : s.Canon) (w : Weave) (st : Strand) : CanonTurn (s.runPair w st) := by
  unfold State.runPair
  split
  · exact .none
  split
  · exact .none
  · exact h.runWord _

theorem State.Canon.attempt {s : State} (h : s.Canon) (w : Weave) (st : Strand) : CanonTurn (s.attempt w st) := by
  unfold State.attempt
  extract_lets t u
  have ht : t.Canon := h.onWeave _ _
  split
  · exact .none
  split
  · exact .some (.next ((ht.atIssue _ _ _).vectorMe _))
  next x _ =>
    extract_lets v
    have hv : v.Canon := ht.atIssue _ _ _
    split
    · exact .some (.next (hv.vectorMe _))
    split
    next p b c k q o _ =>
      split
      next y e =>
        have hy : y.Canon := hv.exec _ y e
        split
        · exact hy.runPair _ _
        · exact .some (.next hy)
      · exact .some (hv.exec _)
    · exact hv.runWord _

theorem State.Canon.tryStrand {s : State} (h : s.Canon) (w : Weave) (st : Strand) : CanonTurn (s.tryStrand w st) := by
  unfold State.tryStrand
  split
  · exact .none
  cases st with
  | a => exact h.attempt _ _
  | c e =>
    dsimp only
    split
    · split
      · exact .none
      · exact .some (.next (h.onWeave _ _))
    · exact h.attempt _ _

theorem State.Canon.tryStream {s : State} (h : s.Canon) (w : Weave) (st : Stream) : CanonTurn (s.tryStream w st) := by
  unfold State.tryStream
  split
  next r e =>
    obtain ⟨x, _, ex⟩ := List.exists_of_findSome?_eq_some e
    exact .some (h.tryStrand w x r ex)
  · split
    · intro r e
      obtain ⟨t, et, rfl⟩ := Option.map_eq_some_iff.1 e
      exact .next (h.swapWindow w t et)
    · exact .none

theorem State.Canon.noteSlot {s : State} (h : s.Canon) (id : WeaveId) (st : Stream) : (s.noteSlot id st).Canon := h.onCore _ _

theorem State.Canon.grantSlot {s : State} (h : s.Canon) (id : WeaveId) (st : Stream) : CanonTurn (s.grantSlot id st) := fun r e => by
  obtain ⟨w, _, e⟩ := Option.bind_eq_some_iff.1 e
  exact (h.noteSlot id st).tryStream w st r e

theorem State.Canon.pick {s : State} (h : s.Canon) (core : Nat) (st : Stream) {x : Nat × Host.Outcome State Fault Refusal}
    (e : s.pick core st = some x) : CanonNext x.2 := by
  obtain ⟨k, _, ek⟩ := List.exists_of_findSome?_eq_some e
  obtain ⟨r, er, rfl⟩ := Option.map_eq_some_iff.1 ek
  exact h.grantSlot _ _ r er

theorem State.Canon.offer {s : State} (h : s.Canon) (core : Nat) (st : Stream) : CanonNext (s.offer core st) := by
  unfold State.offer
  cases e : s.pick core st with
  | none => exact .next h
  | some x => exact h.pick _ _ e

theorem State.Canon.issueTo {s : State} (h : s.Canon) (id : WeaveId) (st : Stream) : CanonNext (s.issueTo id st) := by
  unfold State.issueTo
  split
  next k r e =>
    split
    · exact h.pick _ _ e
    · exact .next h
  · exact .next h

/-! ### Turns without a schedule (log 4) -/

theorem State.Canon.settleFlight {s : State} (h : s.Canon) (f : Flight) : CanonSome (s.settleFlight f) := by
  unfold State.settleFlight
  split
  · split
    · exact .none
    · exact .some (h.dataFault _ _ _)
  split
  · split
    · exact .none
    · exact .some (h.dataFault _ _ _)
  split
  · exact .none
  cases f.dest with
  | array | accept => exact .none
  | queue => exact .some (h.fillEntry _)
  | drain =>
    dsimp only
    split
    · exact .none
    · exact .some ((h.dropFlight _).drain _ _ _)
  | coord =>
    dsimp only
    split
    · exact .none
    · exact .some (h.returnData _)
  | scal | scal2 | lanes => exact .some (h.returnData _)

theorem State.Canon.perform {s : State} (h : s.Canon) (p : Pending) : CanonNext (s.perform p) := by
  unfold State.perform
  split
  · exact .next h
  · refine State.Canon.exec ?_ _
    exact h

theorem State.Canon.performSome {s : State} (h : s.Canon) (ps : List Pending) : (s.performSome ps).1.Canon := by
  induction ps generalizing s with
  | nil => exact h
  | cons p r ih =>
    unfold State.performSome
    split
    next t e =>
      have ht : t.Canon := h.perform p t e
      split
      · exact ih ht
      · exact ht
    · exact ih h

theorem State.Canon.idleTurn {s0 : State} (h : s0.Canon) : CanonNext (s0.idleTurn) := by
  unfold State.idleTurn
  extract_lets r s t
  have hs : s.Canon := h.performSome _
  have ht : t.Canon := hs
  split
  · exact .next hs
  split
  next u e =>
    obtain ⟨w, _, ew⟩ := List.exists_of_findSome?_eq_some e
    obtain ⟨st, _, est⟩ := List.exists_of_findSome?_eq_some ew
    exact .next (hs.wakeNow _ _ u est)
  split
  next u e =>
    obtain ⟨w, _, ew⟩ := List.exists_of_findSome?_eq_some e
    obtain ⟨x, _, rfl⟩ := Option.map_eq_some_iff.1 ew
    exact .next (hs.land _ _)
  split
  · exact .next hs
  · exact ht.offer _ _

theorem State.Canon.idle {s : State} (h : s.Canon) : CanonNext (s.idle) := by
  unfold State.idle
  split
  next t e =>
    obtain ⟨f, _, ef⟩ := List.exists_of_findSome?_eq_some e
    exact .next (h.settleFlight f t ef)
  · exact h.idleTurn

/-! ### A step -/

theorem State.Canon.pass {s : State} (h : s.Canon) (n : Nat) : (s.pass n).Canon := by
  unfold State.pass
  refine .ite _ (State.Canon.windowsEnd ?_ _) h
  exact h

theorem State.Canon.tickOver {s : State} (h : s.Canon) : s.tickOver.Canon := by
  refine State.Canon.atMoment (.pass ?_ _) _
  exact h

theorem State.Canon.runTurn {s : State} (h : s.Canon) (turn : Option Turn) : CanonNext (runTurn turn s) := by
  unfold Machine.runTurn
  split
  · exact h.idle
  · split
    · exact h.exec _
    · exact .next h
  · exact h.issueTo _ _
  · exact (h.atMoment _).issueTo _ _
  · exact h.offer _ _
  next n =>
    cases s.pending.find? fun p => p.id = n with
    | none => exact .next h
    | some p => exact h.perform p
  · exact .next h
  · exact .next (h.evict _ _)
  · exact .next (h.evictOtb _ _ _ _)
  · exact .next (h.peersReady _)
  · exact .next (h.scout _ _ _ _)

theorem CanonNext.endStep {r : Host.Outcome State Fault Refusal} (h : CanonNext r) (before : State) : CanonNext (before.endStep r) := by
  cases r with
  | next t => exact .next (((h t rfl).splitThrough before).keepCode before)
  | fault f => exact .fault f
  | refused x => exact .refused x

end Sys2Proof.Machine
end

section
open Sys2Proof Sys2Proof.Machine

/-- Settles O59: the canonical form of the four memories is kept by every operation on the state, from a byte set in one of them up to
the turn that a step takes. -/
theorem stepKeepsMemoryForm : Obligations.StepKeepsMemoryForm := by
  intro s t h e
  exact State.canon_iff_memOk.1 (((State.canon_iff_memOk.2 h).tickOver.runTurn _).endStep s t e)
end

section
/-! ## The registers of a weave at dispatch (R16, R22, R62) -/

namespace Sys2Proof.Machine

section
variable {l : Launch} {c : Crew} {index core slot : Nat} {hndlr : DWord}

/-- The arguments stand in the A registers from a1 on. -/
theorem newWeave_scal_a {k : Nat} (hk : 1 ≤ k) (hk' : k < 64) :
    (newWeave l c index core slot hndlr).scal .a k = BitVec.ofNat 64 (l.record.args.getD (k - 1) 0) := by
  simp [newWeave, Weave.scal, hk', show k ≠ 0 by omega]

/-- Entry 0 of the split table is the fragment of all lanes at address 0. -/
theorem newWeave_entry_zero : (newWeave l c index core slot hndlr).entry 0 =
    ⟨.ready, 0, BitVec.allOnes 96, BitVec.allOnes 96, none, none, false⟩ := by
  simp [newWeave, Weave.entry]

/-- The other entries are free. -/
theorem newWeave_entry_pos {e : Nat} (he : 1 ≤ e) : (newWeave l c index core slot hndlr).entry e = SplitEntry.empty := by
  by_cases h : e < 128
  · simp [newWeave, Weave.entry, h, show e ≠ 0 by omega]
  · simp [newWeave, Weave.entry, h]

/-- Of the C registers of fragment 0 only the words of its mask are not zero. -/
theorem newWeave_scal_c {k : Nat} (hk : k < 29) : (newWeave l c index core slot hndlr).scal (.c 0) k = 0 := by
  simp [newWeave, Weave.scal, show ¬ 29 ≤ k by omega, show k < 32 by omega]

theorem newWeave_scal_em {k : Nat} (hk : 29 ≤ k) (hk' : k < 32) :
    (newWeave l c index core slot hndlr).scal (.c 0) k = 0xFFFFFFFF := by
  obtain rfl | rfl | rfl : k = 29 ∨ k = 30 ∨ k = 31 := by omega
  all_goals
    simp only [Weave.scal, Weave.em, newWeave_entry_zero]
    rfl

theorem laneAt_zero (j : Nat) : laneAt LaneReg.zero j = 0 := by
  unfold laneAt LaneReg.zero
  rw [Vector.toList_toArray, Vector.toList_replicate]
  by_cases h : j < 96
  · rw [List.getD_replicate _ h]
  · rw [List.getD_eq_default _ _ (by simpa using h)]

theorem newWeave_lane (k j : Nat) : laneAt ((newWeave l c index core slot hndlr).lane k) j = 0 := by
  have e : (newWeave l c index core slot hndlr).lane k = LaneReg.zero := by
    by_cases h : k < l.record.regs
    · simp [newWeave, Weave.lane, h]
    · simp [newWeave, Weave.lane, h]
  rw [e, laneAt_zero]

theorem newWeave_pred {k : Nat} (hk : k < 7) : (newWeave l c index core slot hndlr).pred k = 0 := by
  simp [newWeave, Weave.pred, show k ≠ 7 by omega, show k < 8 by omega]

theorem newWeave_queue {q : Nat} (hq : q < 4) : (newWeave l c index core slot hndlr).queue q = ⟨l.record.depth, [], 0⟩ := by
  simp [newWeave, Weave.queue, hq]

/-- The ports are those of the record, their FIFOs empty. -/
theorem newWeave_port {p : Port} {f : PortFifo} (h : (newWeave l c index core slot hndlr).port? p = some f) :
    p ∈ l.record.ports ∧ f = PortFifo.empty := by
  obtain ⟨x, hx, rfl⟩ := Option.map_eq_some_iff.1 h
  obtain ⟨q, hq, rfl⟩ := List.mem_map.1 (List.mem_of_find?_eq_some hx)
  have hp : q = p := by simpa using List.find?_some hx
  exact ⟨hp ▸ hq, rfl⟩

theorem newWeave_gens {n : Nat} (h : n < 96) : (newWeave l c index core slot hndlr).gens[n] =
    (let x : Word := BitVec.ofNat 32 ((slot * 96 + n + 1) * 0x9E3779B9); if x = 0 then 1 else x) := by
  simp [newWeave, seedGens]

/-- FPCTL 0 rounds to nearest even (R73). -/
theorem fpMode_zero_round : (fpMode 0).round = .rne := by decide

/-- CTXID is the sum of its fields (R62). -/
theorem newWeave_ctxid (hslot : slot < 16) (hcore : core < 384) (hfn : l.fn < 256) (hpart : l.part < 16) :
    (newWeave l c index core slot hndlr).ctxid.toNat = l.fn + 2 ^ 8 * l.part + 2 ^ 12 * slot + 2 ^ 16 * core := by
  simp only [newWeave, BitVec.toNat_ofNat]
  omega

theorem newWeave_fltrec (hslot : slot < 16) : (newWeave l c index core slot hndlr).fltrec.toNat = 0x80000 + 512 * slot := by
  simp only [newWeave, BitVec.toNat_ofNat]
  omega

end

end Sys2Proof.Machine
end

section
open Sys2Proof Sys2Proof.Machine

/-- Settles O35: what `newWeave` gives each register, read through the register's accessor. -/
theorem dispatchRegisters : Obligations.DispatchRegisters := by
  intro l c index core slot hndlr hslot hcore hfn hpart w
  have h0 : w.entry 0 = _ := newWeave_entry_zero
  refine ⟨fun _ => newWeave_scal_a, fun _ => newWeave_scal_c, fun _ => newWeave_scal_em, newWeave_lane, List.length_replicate,
    fun _ => newWeave_pred, rfl, fpMode_zero_round, rfl, ?queues, ?ports, rfl, rfl, rfl, by rw [h0], by rw [h0], ?entries, rfl, rfl, rfl,
    newWeave_fltrec hslot, rfl, newWeave_ctxid hslot hcore hfn hpart, fun _ => newWeave_gens⟩
  case queues =>
    intro q hq
    rw [show w.queue q = _ from newWeave_queue hq]
    exact ⟨rfl, rfl⟩
  case ports =>
    intro p f h
    obtain ⟨hp, rfl⟩ := newWeave_port h
    exact ⟨hp, fun n hn => by simp [PortFifo.empty, hn]⟩
  case entries =>
    intro e he _
    rw [show w.entry e = _ from newWeave_entry_pos he]
    rfl
end

section
/-! ## What the operations of a turn leave of the clock

`Clock` is what a state says of the turn that it is in: who acts, the schedule, the count of turns, TIME and the number of the window.
Operations on memory and on weaves leave it; the lemmas below say so for those that a fault and the end of a window are made of. -/

namespace Sys2Proof.Machine

/-- Who acts, the schedule, the count of turns, TIME and the window. -/
structure Clock where
  cur : Issuer
  schedule : List Turn
  tick : Nat
  time : Nat
  window : Nat

def State.clock (s : State) : Clock := ⟨s.cur, s.schedule, s.tick, s.time, s.window⟩

/-- A state whose clock is k. -/
def State.ClockIs (s : State) (k : Clock) : Prop := s.clock = k

theorem State.clockIs_refl (s : State) : s.ClockIs s.clock := rfl

theorem State.ClockIs.ite {k : Clock} {s t : State} (c : Prop) [Decidable c] (h : s.ClockIs k) (h' : t.ClockIs k) :
    (if c then s else t).ClockIs k := by
  split
  · exact h
  · exact h'

theorem State.ClockIs.foldl {α : Type} {k : Clock} {s : State} (h : s.ClockIs k) {f : State → α → State} (l : List α)
    (hf : ∀ t x, t.ClockIs k → (f t x).ClockIs k) : (l.foldl f s).ClockIs k := by
  induction l generalizing s with
  | nil => exact h
  | cons x r ih => exact ih (hf s x h)

theorem State.ClockIs.memSet {s : State} {k : Clock} (h : s.ClockIs k) (a : Nat) (b : Byte) : (s.memSet a b).ClockIs k :=
 by
  unfold State.memSet
  split <;> exact h

theorem State.ClockIs.setRegion {s : State} {k : Clock} (h : s.ClockIs k) (r : Region) : (s.setRegion r).ClockIs k := by
  unfold State.setRegion
  split <;> exact h

theorem State.ClockIs.putLine {s : State} {k : Clock} (h : s.ClockIs k) (c : CacheLine) : (s.putLine c).ClockIs k := by
  unfold State.putLine
  split <;> exact h

theorem State.ClockIs.dropLine {s : State} {k : Clock} (h : s.ClockIs k) (hd : Holder) (line : Nat) : (s.dropLine hd line).ClockIs k := h

theorem State.ClockIs.mergeBytes {s : State} {k : Clock} (h : s.ClockIs k) (xs : List (Byte × Nat × Option Bool × Nat)) : (s.mergeBytes xs).ClockIs k :=
  h.foldl _ fun _ _ ht => ht.memSet _ _

theorem State.ClockIs.passCopy {s : State} {k : Clock} (h : s.ClockIs k) (core : Nat) (c : CacheLine) : (s.passCopy core c).ClockIs k := by
  unfold State.passCopy
  repeat' split
  · exact h.putLine _
  · exact h
  · exact h

theorem State.ClockIs.expel {s : State} {k : Clock} (h : s.ClockIs k) (hd : Holder) (line : Nat) : (s.expel hd line).ClockIs k :=
  h.foldl _ fun _ _ ht => (ht.mergeBytes _).dropLine _ _

theorem State.ClockIs.mergeLine {s : State} {k : Clock} (h : s.ClockIs k) (c : CacheLine) : (s.mergeLine c).ClockIs k := by
  unfold State.mergeLine
  extract_lets xs t
  have ht : t.ClockIs k := (h.foldl _ fun _ _ hu => hu.expel _ _).mergeBytes _
  split
  · exact ht.passCopy _ _
  · exact ht

theorem State.ClockIs.onCxl {s : State} {k : Clock} (h : s.ClockIs k) (port : Nat) (f : CxlPort → CxlPort) : (s.onCxl port f).ClockIs k := h

theorem State.ClockIs.holdBack {s : State} {k : Clock} (h : s.ClockIs k) (c : CacheLine) : (s.holdBack c).ClockIs k := by
  unfold State.holdBack
  repeat' split
  · exact h
  · exact (h.onCxl _ _).putLine _
  · exact h

theorem State.ClockIs.writeBack {s : State} {k : Clock} (h : s.ClockIs k) (hd : Holder) (line : Nat) : (s.writeBack hd line).ClockIs k := by
  unfold State.writeBack
  repeat' split
  · exact h
  · exact h
  · exact h.holdBack _
  · exact (h.mergeLine _).putLine _

theorem State.ClockIs.giveUp {s : State} {k : Clock} (h : s.ClockIs k) (hd : Holder) (line : Nat) : (s.giveUp hd line).ClockIs k := by
  unfold State.giveUp
  extract_lets t
  have ht : t.ClockIs k := h.writeBack hd line
  split
  · exact ht
  · exact ht.dropLine _ _

theorem State.ClockIs.homeSync {s : State} {k : Clock} (h : s.ClockIs k) (line : Nat) : (s.homeSync line).ClockIs k := by
  unfold State.homeSync
  extract_lets own t
  have ht : t.ClockIs k := h.foldl _ fun u c hu => by
    have hv := hu.writeBack c.holder line
    simp only
    split
    · exact .ite _ (hv.putLine _) hv
    · exact hv
  split
  · exact h
  · exact ht

theorem State.ClockIs.homeInvalidate {s : State} {k : Clock} (h : s.ClockIs k) (line : Nat) (spare : List Holder) : (s.homeInvalidate line spare).ClockIs k :=
  h.foldl _ fun _ _ ht => ht.giveUp _ _

theorem State.ClockIs.endLineL {s : State} {k : Clock} (h : s.ClockIs k) (line : Nat) : (s.endLineL line).ClockIs k := h.foldl _ fun _ _ ht => ht.giveUp _ _

theorem State.ClockIs.gather {s : State} {k : Clock} (h : s.ClockIs k) (line : Nat) : (s.gather line).ClockIs k := (h.endLineL _).homeSync _

theorem State.ClockIs.reclaim {s : State} {k : Clock} (h : s.ClockIs k) (line : Nat) : (s.reclaim line).ClockIs k := (h.gather _).homeInvalidate _ _

theorem State.ClockIs.eachPlaceLine {s : State} {k : Clock} (h : s.ClockIs k) (ps : List Place) {f : State → Nat → State}
    (hf : ∀ t l, t.ClockIs k → (f t l).ClockIs k) : (s.eachPlaceLine ps f).ClockIs k := h.foldl _ hf
theorem State.ClockIs.putNat {s : State} {k : Clock} (h : s.ClockIs k) (ps : List Place) (x : Nat) : (s.putNat ps x).ClockIs k :=
  h.foldl _ fun _ _ ht => ht.memSet _ _

theorem State.ClockIs.homePut {s : State} {k : Clock} (h : s.ClockIs k) (ps : List Place) (x : Nat) : (s.homePut ps x).ClockIs k :=
  (h.eachPlaceLine _ fun _ _ ht => ht.reclaim _).putNat _ _

theorem State.ClockIs.objWrite {s : State} {k : Clock} (h : s.ClockIs k) (part object off n x : Nat) : (s.objWrite part object off n x).ClockIs k :=
  h.homePut _ _

theorem State.ClockIs.objSync {s : State} {k : Clock} (h : s.ClockIs k) (part object off n : Nat) : (s.objSync part object off n).ClockIs k :=
  h.eachPlaceLine _ fun _ _ ht => ht.gather _

theorem State.ClockIs.poolSync {s : State} {k : Clock} (h : s.ClockIs k) (part : Nat) : (s.poolSync part).ClockIs k := h.objSync _ _ _ _

theorem State.ClockIs.sendError {s : State} {k : Clock} (h : s.ClockIs k) (part : Nat) (e : ErrorInfo) : (s.sendError part e).ClockIs k :=
  .ite _ h (h.objWrite _ _ _ _ _)

theorem State.ClockIs.poolTakeIf {s : State} {k : Clock} (h : s.ClockIs k) (part : Nat) (p : DWord → Bool) {x : State × Nat}
    (e : s.poolTakeIf part p = some x) : x.1.ClockIs k := by
  unfold State.poolTakeIf at e
  extract_lets t at e
  split at e
  · cases e
  · exact Option.some.inj e ▸ (h.poolSync part).objWrite _ _ _ _ _
theorem State.ClockIs.onWeave {s : State} {k : Clock} (h : s.ClockIs k) (id : WeaveId) (f : Weave → Weave) : (s.onWeave id f).ClockIs k := h

theorem State.ClockIs.sramSet {s : State} {k : Clock} (h : s.ClockIs k) (core a : Nat) (b : Byte) : (s.sramSet core a b).ClockIs k :=
 by
  unfold State.sramSet
  repeat' split
  all_goals exact h

theorem State.ClockIs.sramWrite {s : State} {k : Clock} (h : s.ClockIs k) (core a n x : Nat) : (s.sramWrite core a n x).ClockIs k :=
  h.foldl _ fun _ _ ht => ht.sramSet _ _ _

theorem State.ClockIs.leaveLatch {s : State} {k : Clock} (h : s.ClockIs k) (id : WeaveId) (st : Strand) : (s.leaveLatch id st).ClockIs k := h

theorem State.ClockIs.enter {s : State} {k : Clock} (h : s.ClockIs k) (id : WeaveId) (st : Strand) (c : EntryCause) (i : FaultInfo) :
    (s.enter id st c i).ClockIs k := by
  unfold State.enter
  split
  · exact h
  · exact ((h.sramWrite _ _ _ _).leaveLatch _ _).onWeave _ _

theorem State.ClockIs.markFaulted {s : State} {k : Clock} (h : s.ClockIs k) (crew : Nat) : (s.markFaulted crew).ClockIs k := by
  unfold State.markFaulted
  split <;> exact h

theorem State.ClockIs.endStreams {s : State} {k : Clock} (h : s.ClockIs k) (id : WeaveId) : (s.endStreams id).ClockIs k := by
  unfold State.endStreams
  split <;> exact h

theorem State.ClockIs.stopWeave {s : State} {k : Clock} (h : s.ClockIs k) (id : WeaveId) : (s.stopWeave id).ClockIs k := by
  unfold State.stopWeave
  split
  · exact h
  · exact .ite _ (h.endStreams _) ((h.endStreams _).markFaulted _)

theorem State.ClockIs.vector {s : State} {k : Clock} (h : s.ClockIs k) (id : WeaveId) (st : Strand) (i : FaultInfo) : (s.vector id st i).ClockIs k := by
  unfold State.vector
  split
  · exact h
  split
  · exact (h.stopWeave _).sendError _ _
  · exact h.enter _ _ _ _

theorem State.ClockIs.takeSites {s : State} {k : Clock} (h : s.ClockIs k) (part : Nat) (fs : List Nat) {x : State × List Nat}
    (e : s.takeSites part fs = some x) : x.1.ClockIs k := by
  induction fs generalizing s x with
  | nil => exact Option.some.inj e ▸ h
  | cons f r ih =>
    unfold State.takeSites at e
    split at e
    · cases e
    next t n et =>
    have ht := h.poolTakeIf _ _ et
    obtain ⟨y, ey, rfl⟩ := Option.map_eq_some_iff.1 e
    have hy := ih ht ey
    exact hy
theorem State.ClockIs.startRetile {s : State} {k : Clock} (h : s.ClockIs k) (r : Region) (d : ObjDesc) (code : Nat) (pin : Bool) :
    (s.startRetile r d code pin).ClockIs k := by
  unfold State.startRetile
  refine .ite _ h ?_
  extract_lets fs
  split
  · exact h
  next t new e =>
  have ht := h.takeSites _ _ e
  exact State.ClockIs.setRegion (s := t) ht _

theorem State.ClockIs.vectorMe {s : State} {k : Clock} (h : s.ClockIs k) (i : FaultInfo) : (s.vectorMe i).ClockIs k := h.vector _ _ _


theorem State.ClockIs.windowRegion {s : State} {k : Clock} (h : s.ClockIs k) (r0 : Region) : (s.windowRegion r0).ClockIs k := by
  unfold State.windowRegion
  split
  · exact h
  next d _ =>
    extract_lets _ r u
    have hu : u.ClockIs k := h.setRegion _
    clear_value u r
    split
    · exact hu.startRetile _ _ _ _
    split
    · exact .ite _ (hu.startRetile _ _ _ _) hu
    · exact hu

/-- The end of a window counts it, and leaves the rest of the clock. -/
theorem State.windowEnd_clock (s : State) : s.windowEnd.clock = { s.clock with window := s.window + 1 } := by
  have h : ({ s with window := s.window + 1, claimed := 0 } : State).ClockIs { s.clock with window := s.window + 1 } := rfl
  exact h.foldl _ fun _ _ ht => ht.windowRegion _

end Sys2Proof.Machine
end

section
/-! ## Steps and turns (R13, R16, R40, R91, R137; log 4) -/

namespace Sys2Proof.Machine

/-! ### Time goes by -/

theorem State.windowsEnd_clock (s : State) (n : Nat) : (s.windowsEnd n).clock = { s.clock with window := (s.windowsEnd n).window } := by
  induction n generalizing s with
  | zero => rfl
  | succ n ih =>
    unfold State.windowsEnd
    split
    · exact (ih _).trans (by rw [s.windowEnd_clock])
    · rfl

theorem State.windowsEnd_time (s : State) (n : Nat) : (s.windowsEnd n).time = s.time := congrArg Clock.time (s.windowsEnd_clock n)

/-- Where no region is kept or tracked, the end of a window only counts it and lets the budget lapse. -/
theorem State.windowEnd_of_untracked {s : State} (hr : s.regions = []) (ht : s.tracks = []) :
    s.windowEnd = { s with window := s.window + 1, claimed := 0 } := by
  simp [State.windowEnd, State.windowRegions, hr, ht]

theorem State.windowsEnd_of_untracked {s : State} (hr : s.regions = []) (ht : s.tracks = []) (n : Nat) :
    s.windowsEnd n = { s with window := (s.windowsEnd n).window, claimed := (s.windowsEnd n).claimed } := by
  induction n generalizing s with
  | zero => rfl
  | succ n ih =>
    unfold State.windowsEnd
    split
    · rw [State.windowEnd_of_untracked hr ht]
      exact ih hr ht
    · rfl

/-- With turns enough, every window that TIME has passed is ended. -/
theorem State.windowsEnd_ends {s : State} (n : Nat) (h : s.time < 3300 * (s.window + 1 + n)) :
    (s.windowsEnd n).time < 3300 * ((s.windowsEnd n).window + 1) := by
  induction n generalizing s with
  | zero => exact h
  | succ n ih =>
    unfold State.windowsEnd
    split
    · have ht : s.windowEnd.time = s.time := congrArg Clock.time s.windowEnd_clock
      have hw : s.windowEnd.window = s.window + 1 := congrArg Clock.window s.windowEnd_clock
      exact ih (by rw [ht, hw]; omega)
    next hn => exact Nat.lt_of_not_le hn

/-- The cc that a step lets go by. -/
def State.turnCycles (s : State) : Nat :=
  match s.schedule.head? with
  | some (.pass n) => n
  | _ => Config.stepCycles s.tick

/-- The machine with the turn taken off its schedule. -/
def State.turnOff (s : State) : State := { s with tick := s.tick + 1, schedule := s.schedule.tail }

theorem State.tickOver_eq (s : State) : s.tickOver = (s.turnOff.pass s.turnCycles).atMoment .now := rfl

theorem State.pass_of_running {s : State} (h : 2 ≤ s.stage.getD 0) (n : Nat) :
    s.pass n = ({ s with time := s.time + n } : State).windowsEnd (n / Config.windowCycles + 1) := if_pos h

theorem State.pass_of_stopped {s : State} (h : ¬ 2 ≤ s.stage.getD 0) (n : Nat) : s.pass n = s := if_neg h

/-- Passing time keeps the clock but for TIME and the window. -/
theorem State.pass_clock (s : State) (n : Nat) : (s.pass n).clock =
    { s.clock with time := if 2 ≤ s.stage.getD 0 then s.time + n else s.time, window := (s.pass n).window } := by
  by_cases h : 2 ≤ s.stage.getD 0
  · rw [if_pos h, State.pass_of_running h]
    exact State.windowsEnd_clock _ _
  · rw [if_neg h, State.pass_of_stopped h]
    rfl

theorem State.pass_of_untracked {s : State} (hr : s.regions = []) (ht : s.tracks = []) (n : Nat) :
    s.pass n = { s with time := (s.pass n).time, window := (s.pass n).window, claimed := (s.pass n).claimed } := by
  by_cases h : 2 ≤ s.stage.getD 0
  · rw [State.pass_of_running h, State.windowsEnd_time]
    exact State.windowsEnd_of_untracked (s := { s with time := s.time + n }) hr ht _
  · rw [State.pass_of_stopped h]

theorem State.pass_ends {s : State} (hs : 2 ≤ s.stage.getD 0) (h : s.time < 3300 * (s.window + 1)) (n : Nat) :
    (s.pass n).time < 3300 * ((s.pass n).window + 1) := by
  rw [State.pass_of_running hs]
  refine State.windowsEnd_ends _ ?_
  show s.time + n < 3300 * (s.window + 1 + (n / 3300 + 1))
  omega


theorem State.tickOver_clock (s : State) : s.tickOver.clock =
    ⟨{ s.cur with moment := .now }, s.schedule.tail, s.tick + 1,
      if 2 ≤ s.stage.getD 0 then s.time + s.turnCycles else s.time, s.tickOver.window⟩ := by
  have h := s.turnOff.pass_clock s.turnCycles
  have hc : s.tickOver.clock = { (s.turnOff.pass s.turnCycles).clock with
    cur := { (s.turnOff.pass s.turnCycles).clock.cur with moment := .now } } := rfl
  rw [hc, h]
  rfl

theorem State.tickOver_moment (s : State) : s.tickOver.cur.moment = .now := rfl

/-! ### The turn that a step takes -/

section
variable {s : State} {turns : List Turn}

theorem step_of_head {turn : Turn} (h : s.schedule = turn :: turns) : step s = s.endStep (runTurn (some turn) s.tickOver) := by
  rw [step, h]
  rfl

/-- A turn of passing time says how long; any other takes the machine's own count. -/
theorem turnCycles_of_pass {n : Nat} (h : s.schedule = .pass n :: turns) : s.turnCycles = n := by
  simp [State.turnCycles, h]

theorem turnCycles_of_ne_pass {turn : Turn} (h : s.schedule = turn :: turns) (hp : ∀ n, turn ≠ .pass n) :
    s.turnCycles = Config.stepCycles s.tick := by
  unfold State.turnCycles
  split
  next n e =>
    rw [h] at e
    exact absurd (Option.some.inj e) (hp n)
  · rfl

/-- A turn goes to the slot that the rotation gives it. -/
theorem State.issueTo_of_pick {id : WeaveId} {sm : Stream} {r : Host.Outcome State Fault Refusal} (h : s.pick id.core sm = some (id.slot, r)) :
    s.issueTo id sm = r := by
  simp [State.issueTo, h]

theorem State.issueTo_of_pick_ne {id : WeaveId} {sm : Stream} {k : Nat} {r : Host.Outcome State Fault Refusal}
    (h : s.pick id.core sm = some (k, r)) (hk : k ≠ id.slot) : s.issueTo id sm = .next s := by
  simp [State.issueTo, h, hk]

/-- The slot picked has a weave. -/
theorem State.pick_weave {core k : Nat} {sm : Stream} {r : Host.Outcome State Fault Refusal} (h : s.pick core sm = some (k, r)) :
    (s.weave? ⟨core, k⟩).isSome = true := by
  obtain ⟨j, _, hj⟩ := List.exists_of_findSome?_eq_some h
  obtain ⟨x, hx, e⟩ := Option.map_eq_some_iff.1 hj
  obtain ⟨rfl, rfl⟩ := Prod.mk.inj e
  obtain ⟨w, hw, _⟩ := Option.bind_eq_some_iff.1 hx
  rw [hw]
  rfl

/-- A turn meant for a slot without a weave passes. -/
theorem State.issueTo_of_no_weave {id : WeaveId} (h : s.weave? id = none) (sm : Stream) : s.issueTo id sm = .next s := by
  cases e : s.pick id.core sm with
  | none => simp [State.issueTo, e]
  | some x =>
    obtain ⟨k, r⟩ := x
    refine State.issueTo_of_pick_ne e ?_
    rintro rfl
    have hw := State.pick_weave e
    rw [show (⟨id.core, id.slot⟩ : WeaveId) = id from rfl, h] at hw
    cases hw

/-- The first slot of the rotation that has something to issue takes the turn. -/
theorem State.pick_eq {core k : Nat} {sm : Stream} {p1 p2 : List Nat} {r : Host.Outcome State Fault Refusal}
    (hord : slotOrder (s.lastSlot core sm) = p1 ++ k :: p2) (hp : ∀ j ∈ p1, s.grantSlot ⟨core, j⟩ sm = none)
    (hg : s.grantSlot ⟨core, k⟩ sm = some r) : s.pick core sm = some (k, r) := by
  have h1 : p1.findSome? (fun j => (s.grantSlot ⟨core, j⟩ sm).map fun r => (j, r)) = none :=
    List.findSome?_eq_none_iff.2 fun j hj => by rw [hp j hj]; rfl
  unfold State.pick
  rw [hord, List.findSome?_append, h1, List.findSome?_cons, hg]
  rfl

/-- The first strand of a stream that can take its turn takes it. -/
theorem State.tryStream_eq {w : Weave} {sm : Stream} {l1 l2 : List Strand} {st : Strand} {r : Host.Outcome State Fault Refusal}
    (hw : w.strands sm = l1 ++ st :: l2) (hl : ∀ x ∈ l1, s.tryStrand w x = none) (h : s.tryStrand w st = some r) :
    s.tryStream w sm = some r := by
  have h1 : l1.findSome? (fun x => s.tryStrand w x) = none := List.findSome?_eq_none_iff.2 hl
  unfold State.tryStream
  rw [hw, List.findSome?_append, h1, List.findSome?_cons, h]
  rfl

theorem State.tryStrand_eq_attempt {w : Weave} {st : Strand} (hm : s.mayIssue w st = true) (hj : ∀ e, st = .c e → w.atJoin e = false) :
    s.tryStrand w st = s.attempt w st := by
  cases st with
  | a => simp [State.tryStrand, hm]
  | c e => simp [State.tryStrand, hm, hj e rfl]

end

end Sys2Proof.Machine
end

section
namespace Sys2Proof.Machine

/-! ### The attempt of a strand -/

/-- Whether a word is a PREFIX. -/
def isPrefix : Instr → Bool
  | .prefixWord .. => true
  | _ => false

theorem isPrefix_eq_false {i : Instr} (h : ∀ a b c d e f, i ≠ .prefixWord a b c d e f) : isPrefix i = false := by
  unfold isPrefix
  split
  next a b c d e f => exact absurd rfl (h a b c d e f)
  · rfl

theorem weave?_name {s : State} {id : WeaveId} {w : Weave} (h : s.weave? id = some w) : w.id = id := by
  simpa using List.find?_some h

section
variable {s : State} {w : Weave} {st : Strand}

theorem Weave.noteIssue_id (w : Weave) (st : Strand) : (w.noteIssue st).id = w.id := by
  cases st <;> rfl

theorem Weave.noteIssue_partition (w : Weave) (st : Strand) : (w.noteIssue st).partition = w.partition := by
  cases st <;> rfl

/-- The state in which an attempt's word of n bytes issues. -/
def State.issuing (s : State) (w : Weave) (st : Strand) (n : Nat) : State := (s.onWeave w.id fun y => y.noteIssue st).atIssue w st n

theorem State.issuing_weave? (hw : s.weave? w.id = some w) (n : Nat) :
    (s.issuing w st n).weave? (s.issuing w st n).cur.weave = some (w.noteIssue st) :=
  weave?_onWeave_same (s := s) (f := fun y => y.noteIssue st) (fun v => v.noteIssue_id st) hw

/-- A fetch that fails vectors the strand. -/
theorem State.attempt_of_error {c : Cause} (hh : s.fetchHeld w st (w.pc st).toNat = false) (hf : s.fetch w st (w.pc st).toNat = .error c) :
    s.attempt w st = some (.next ((s.issuing w st 4).vectorMe ((s.issuing w st 4).fetchInfo w c (w.pc st).toNat))) := by
  simp [State.attempt, State.issuing, hh, hf]

/-- The A-stream has no 16-bit words. -/
theorem State.attempt_of_short {x : InstrWord} (hh : s.fetchHeld w .a (w.pc .a).toNat = false)
    (hf : s.fetch w .a (w.pc .a).toNat = .ok x) (hx : x.bytes = 2) :
    s.attempt w .a = some (.next ((s.issuing w .a 2).vectorMe ((s.issuing w .a 2).info w .illegal accOther))) := by
  simp [State.attempt, State.issuing, hh, hf, hx]

/-- A word that is not a PREFIX runs. -/
theorem State.attempt_of_word {x : InstrWord} (hh : s.fetchHeld w st (w.pc st).toNat = false) (hf : s.fetch w st (w.pc st).toNat = .ok x)
    (hx : st = .a → x.bytes = 4) (hp : ∀ i, x.decode = .instr i → isPrefix i = false) :
    s.attempt w st = (s.issuing w st x.bytes).runWord x := by
  have hb : (x.bytes = 2 && st = .a) = false := by
    cases st with
    | a => simp [hx rfl]
    | c e => simp
  simp only [State.attempt, hh, hf, hb, State.issuing, Bool.false_eq_true, if_false]
  split
  next v b c k p o e =>
    have := hp _ e
    cases this
  · rfl

/-- A PREFIX whose checks pass runs its successor. -/
theorem State.attempt_of_pair {x : InstrWord} {i : Instr} {u : State} (hh : s.fetchHeld w st (w.pc st).toNat = false)
    (hf : s.fetch w st (w.pc st).toNat = .ok x) (hx : st = .a → x.bytes = 4) (hi : x.decode = .instr i) (hp : isPrefix i = true)
    (he : exec i (s.issuing w st x.bytes) = .next u) (ha : u.cur.attrs.isSome = true) : s.attempt w st = u.runPair w st := by
  have hb : (x.bytes = 2 && st = .a) = false := by
    cases st with
    | a => simp [hx rfl]
    | c e => simp
  obtain ⟨a, b, c, d, e, f, rfl⟩ : ∃ a b c d e f, i = .prefixWord a b c d e f := by
    unfold isPrefix at hp
    split at hp
    · exact ⟨_, _, _, _, _, _, rfl⟩
    · cases hp
  simp only [State.attempt, hh, hf, hb, hi, Bool.false_eq_true, if_false]
  rw [State.issuing] at he
  simp [he, ha]

/-! ### The word that runs -/

theorem State.runWord_of_unassigned {x : InstrWord} (hw : s.weave? s.cur.weave = some w) (hx : x.decode = .unassigned) :
    s.runWord x = some (.next (s.vectorMe (s.info w .illegal accOther))) := by
  simp [State.runWord, hw, hx]

theorem State.runWord_of_reserved {x : InstrWord} {i : Instr} (hw : s.weave? s.cur.weave = some w) (hx : x.decode = .reserved i)
    (hi : isPrefix i = false) :
    s.runWord x = some (.next (s.vectorMe (s.infoOf i w (reservedFault i w s.cur.strand) accOther))) := by
  simp only [State.runWord, hw, hx]
  split
  next e => cases e
  next e =>
    cases Decoded.reserved.inj e
    cases hi
  next j _ e =>
    cases Decoded.reserved.inj e
    rfl
  next e => cases e

/-- What lets an instruction issue: it fails a check, or neither the scoreboard nor a pipe nor a missing slot holds it. -/
def State.mayRun (s : State) (w : Weave) (i : Instr) : Prop :=
  s.decodeFault i w ≠ none ∨ (s.scoreboarded w s.cur.strand i = false ∧ s.pipeBusy w.id s.cur.strand i = false ∧
    (i.asksHome = true → s.maySend w.partition = true))

/-- A turn that is not postponed leaves its accesses for now. -/
theorem State.atMoment_now (h : s.cur.moment = .now) : s.atMoment .now = s := by
  have e : ({ s.cur with moment := .now } : Issuer) = s.cur := by rw [← h]
  exact congrArg (fun c => ({ s with cur := c } : State)) e

theorem State.runWord_of_instr {x : InstrWord} {i : Instr} (hw : s.weave? s.cur.weave = some w) (hx : x.decode = .instr i)
    (hm : s.cur.moment = .now) (hr : s.mayRun w i) : s.runWord x = some (exec i (s.notePipe w.id s.cur.strand i)) := by
  have hc : ((s.decodeFault i w).isNone && (s.scoreboarded w s.cur.strand i || s.pipeBusy w.id s.cur.strand i
      || (i.asksHome && !s.maySend w.partition))) = false := by
    rcases hr with h | ⟨h1, h2, h3⟩
    · rw [Option.isNone_eq_false_iff.2 (Option.isSome_iff_ne_none.2 h), Bool.false_and]
    · cases ha : i.asksHome
      · simp [h1, h2]
      · simp [h1, h2, h3 ha]
  simp only [State.runWord, hw, hx, hc, State.atMoment_now hm, ite_self]
  rfl

theorem State.runPair_eq {y : InstrWord} (hh : s.fetchHeld w st ((w.pc st).toNat + 4) = false)
    (hf : s.fetch w st ((w.pc st).toNat + 4) = .ok y) : s.runPair w st = s.runWord y := by
  simp [State.runPair, hh, hf]

end

/-! ### Faults and PREFIX words keep the weave's place -/

theorem State.vector_cur (s : State) (id : WeaveId) (st : Strand) (i : FaultInfo) : (s.vector id st i).cur = s.cur :=
  congrArg Clock.cur (s.clockIs_refl.vector id st i)

/-- After a PREFIX that gives attributes nothing else has changed (R99). -/
theorem isPrefix_next {s u : State} {i : Instr} {a : Attrs} (hi : isPrefix i = true) (hs : s.cur.attrs = none) (he : exec i s = .next u)
    (ha : u.cur.attrs = some a) : u = { s with cur := { s.cur with bytes := 8, attrs := some a } } := by
  obtain ⟨v, b, c, k, p, o, rfl⟩ : ∃ a b c d e f, i = .prefixWord a b c d e f := by
    unfold isPrefix at hi
    split at hi
    · exact ⟨_, _, _, _, _, _, rfl⟩
    · cases hi
  change execPrefixWord v b c k p o s = .next u at he
  have hv : ∀ f : FaultInfo, s.vectorMe f ≠ u := by
    rintro f rfl
    rw [State.vectorMe, State.vector_cur, hs] at ha
    cases ha
  unfold execPrefixWord at he
  split at he
  · cases he
  next w _ =>
    have e := Host.Outcome.next.inj he
    unfold State.pairUp at e
    split at e
    · exact absurd e (hv _)
    split at e
    · exact absurd e (hv _)
    next a' _ =>
      split at e
      · subst e
        cases ha
        rfl
      · exact absurd e (hv _)

end Sys2Proof.Machine
end

section
namespace Sys2Proof.Machine

/-! ### The end of a step -/

theorem foldl_eq_self {α β : Type} {f : β → α → β} {b : β} {l : List α} (h : ∀ x ∈ l, f b x = b) : l.foldl f b = b := by
  induction l with
  | nil => rfl
  | cons x r ih =>
    rw [List.foldl_cons, h x (List.mem_cons_self ..)]
    exact ih fun y hy => h y (List.mem_cons_of_mem _ hy)

/-- Where no split entry that lives in memory has changed, none is written. -/
theorem State.splitThrough_of_clean {t s : State} (h : ∀ w ∈ t.weaves, w.saved = true ∨ w.restored = true ∨ t.splitOpen w = false ∨
    w.splitDirty ((s.weave? w.id).filter fun v => v.crew = w.crew && !v.restored) = []) : t.splitThrough s = t := by
  refine foldl_eq_self fun w hw => ?_
  obtain h1 | h1 | h1 | h1 := h w hw
  all_goals simp [h1]

/-- What code held is all that the end of a step keeps beside. -/
theorem State.keepCode_eq (s before : State) : ∃ c, s.keepCode before = { s with codeWas := c } := by
  unfold State.keepCode
  split
  · exact ⟨s.codeWas, rfl⟩
  · exact ⟨_, rfl⟩

theorem State.endStep_of_clean {t s : State} (h : ∀ w ∈ t.weaves, w.saved = true ∨ w.restored = true ∨ t.splitOpen w = false ∨
    w.splitDirty ((s.weave? w.id).filter fun v => v.crew = w.crew && !v.restored) = []) :
    ∃ c, s.endStep (.next t) = .next { t with codeWas := c } := by
  obtain ⟨c, hc⟩ := t.keepCode_eq s
  refine ⟨c, ?_⟩
  rw [← hc]
  exact congrArg (fun u : State => Host.Outcome.next (u.keepCode s)) (State.splitThrough_of_clean h)

/-! ### An access performed -/

section
variable {s : State} {p : Pending}

theorem State.perform_early (h : ∃ line since last, p.refused = some (line, since, last) ∧ s.time < last + 32) : s.perform p = .next s := by
  obtain ⟨line, since, last, hp, ht⟩ := h
  have hr : s.refusedNow p.refused = true := by simp [State.refusedNow, hp, ht]
  rw [State.perform, hr, Bool.or_true]
  rfl

theorem State.perform_due (h : ¬ ∃ line since last, p.refused = some (line, since, last) ∧ s.time < last + 32)
    (hw : (s.weave? p.issuer.weave).isSome = true) :
    s.perform p = exec p.instr { s with cur := { p.issuer with moment := .due p.id p.since p.weave } } := by
  have hr : s.refusedNow p.refused = false := by
    rw [Bool.eq_false_iff]
    intro e
    obtain ⟨⟨line, since, last⟩, hp, ht⟩ := (Option.any_eq_true _ _).1 e
    exact h ⟨line, since, last, hp, of_decide_eq_true ht⟩
  rw [State.perform, hr, Option.isNone_eq_false_iff.2 hw]
  rfl

end

end Sys2Proof.Machine
end

section
open Sys2Proof Sys2Proof.Machine

/-- What the turns of a schedule are, from the lemmas on the passing of time, on the turn taken and on the end of a step. -/
theorem rules_turns : Rules.Turns := by
  intro s t turns i n id sm cc
  refine ⟨fun h => ⟨?event, ?other⟩, ?pass, fun h => ⟨?empty, ?rotated⟩, fun h => ⟨?absent, ?due⟩, ?schedule, ?tick, ?time,
    ?untracked, ?windows, State.endStep_of_clean⟩
  case event =>
    intro hi
    rw [step_of_head h]
    exact congrArg s.endStep (if_pos hi)
  case other =>
    intro hi
    rw [step_of_head h]
    exact congrArg s.endStep (if_neg (by simp [hi]))
  case pass => exact fun h => step_of_head h
  case empty =>
    intro hw
    rw [step_of_head h]
    exact congrArg s.endStep (State.issueTo_of_no_weave hw sm)
  case rotated =>
    intro k r hk hne
    rw [step_of_head h]
    exact congrArg s.endStep (State.issueTo_of_pick_ne hk hne)
  case absent =>
    intro hp
    have e : s.tickOver.pending.find? (fun p => p.id = n) = none := List.find?_eq_none.2 fun p hm => by simpa using hp p hm
    rw [step_of_head h]
    exact congrArg s.endStep (by simp only [runTurn, e]; rfl)
  case due =>
    intro p hp early
    have e : runTurn (some (.perform n)) s.tickOver = s.tickOver.perform p := by simp only [runTurn, hp]; rfl
    rw [step_of_head h, e]
    exact ⟨fun he => congrArg s.endStep (State.perform_early he), fun he hw => congrArg s.endStep (State.perform_due he hw)⟩
  case schedule => exact congrArg Clock.schedule s.tickOver_clock
  case tick => exact congrArg Clock.tick s.tickOver_clock
  case time =>
    intro u hu
    have hc : s.turnCycles = cc u := by
      cases u with
      | pass k => exact turnCycles_of_pass hu
      | _ => exact turnCycles_of_ne_pass hu fun _ => by simp
    rw [← hc]
    exact congrArg Clock.time s.tickOver_clock
  case untracked =>
    intro hr ht
    exact congrArg (fun u : State => u.atMoment .now) (State.pass_of_untracked (s := s.turnOff) hr ht s.turnCycles)
  case windows => exact fun hs hw => State.pass_ends (s := s.turnOff) hs hw s.turnCycles

/-- A turn that the rotation gives to a strand is the strand's attempt. -/
theorem step_of_attempt {s : State} {id : WeaveId} {sm : Stream} {turns : List Turn} {w : Weave} {p1 p2 : List Nat} {l1 l2 : List Strand}
    {st : Strand} {r : Host.Outcome State Fault Refusal} (hs : s.schedule = .issue id sm :: turns)
    (hord : slotOrder (s.tickOver.lastSlot id.core sm) = p1 ++ id.slot :: p2)
    (hp : ∀ k ∈ p1, s.tickOver.grantSlot ⟨id.core, k⟩ sm = none) (hw : s.tickOver.weave? id = some w)
    (hst : w.strands sm = l1 ++ st :: l2) (hl : ∀ x ∈ l1, (s.tickOver.noteSlot id sm).tryStrand w x = none)
    (hm : (s.tickOver.noteSlot id sm).mayIssue w st = true) (hj : ∀ e, st = .c e → w.atJoin e = false)
    (h : (s.tickOver.noteSlot id sm).attempt w st = some r) : step s = s.endStep r := by
  have hg : s.tickOver.grantSlot id sm = some r := by
    rw [State.grantSlot, hw]
    exact State.tryStream_eq hst hl ((State.tryStrand_eq_attempt hm hj).trans h)
  rw [step_of_head hs]
  exact congrArg s.endStep (State.issueTo_of_pick (State.pick_eq hord hp hg))

/-- The step of a strand's turn, from the attempt's fetch to the word that runs. -/
theorem rules_stepRunsDecoded : Rules.StepRunsDecoded := by
  intro s id sm turns w p1 p2 l1 l2 st r0 hs hord hp hw hst r hl hm hj hh v at' word stops free
  obtain rfl : w.id = id := weave?_name hw
  have go {x : Host.Outcome State Fault Refusal} (h : r.attempt w st = some x) : step s = s.endStep x :=
    step_of_attempt hs hord hp hw hst hl hm hj h
  have hv (n : Nat) : (at' n).weave? (at' n).cur.weave = some v := State.issuing_weave? (s := r) hw n
  have hvid : v.id = w.id := w.noteIssue_id st
  have hfree {t : State} {i : Instr} (hc : t.cur.strand = st) (hf : free t i) : t.mayRun v i := by
    rcases hf with h | ⟨h1, h2, h3⟩
    · exact .inl h
    · exact .inr ⟨by rw [hc]; exact h1, by rw [hc, hvid]; exact h2, fun ha => (w.noteIssue_partition st).symm ▸ h3 ha⟩
  refine ⟨fun c hc => go (State.attempt_of_error hh hc), fun x hx => ⟨?short, fun hb => ⟨?unassigned, ?reserved, fun i hi => ⟨?word, ?pair⟩⟩⟩⟩
  case short =>
    rintro rfl hb
    exact go (State.attempt_of_short hh hx hb)
  case unassigned =>
    intro hi
    refine go ((State.attempt_of_word hh hx hb fun j hj' => ?_).trans (State.runWord_of_unassigned (hv _) hi))
    rw [hi] at hj'
    cases hj'
  case reserved =>
    intro i hi hpx
    refine go ((State.attempt_of_word hh hx hb fun j hj' => ?_).trans (State.runWord_of_reserved (hv _) hi (isPrefix_eq_false hpx)))
    rw [hi] at hj'
    cases hj'
  case word =>
    intro hpx hf
    refine go ((State.attempt_of_word hh hx hb fun j hj' => ?_).trans ((State.runWord_of_instr (hv _) hi rfl (hfree rfl hf)).trans ?_))
    · rw [hi] at hj'
      exact Decoded.instr.inj hj' ▸ isPrefix_eq_false hpx
    · rw [hvid]
      rfl
  case pair =>
    intro u a hpx he ha y j hh' hy hj' hpj hf
    have hpi : isPrefix i = true := by
      obtain ⟨_, _, _, _, _, _, rfl⟩ := hpx
      rfl
    have hu := isPrefix_next hpi rfl he ha
    have hwu : u.weave? u.cur.weave = some v := by
      rw [hu]
      exact hv x.bytes
    have hst' : u.cur.strand = st := by
      rw [hu]
      rfl
    have hnow : u.cur.moment = .now := by
      rw [hu]
      rfl
    refine go ((State.attempt_of_pair hh hx hb hi hpi he (by rw [ha]; rfl)).trans ((State.runPair_eq hh' hy).trans
      ((State.runWord_of_instr hwu hj' hnow (hfree hst' hf)).trans ?_)))
    rw [hvid, hst']

/-- Settles O54, by its two parts. -/
theorem stepRunsDecoded : Obligations.StepRunsDecoded := ⟨rules_stepRunsDecoded, rules_turns⟩
end

section
/-! ## A store that clears part of a poisoned range (R239, R257)

A store that writes every byte of a line clears the line's poison. Where a poisoned range reaches beyond the line, what is left of it is a
range that the list did not hold before, so the last part of `State.StoresOnly` fails although no byte becomes poisoned. -/

namespace Sys2Proof.Machine.ClearingStore

/-- A crew with 4,096 bytes of scratchpad. -/
def crew : Crew := { fetchCrew 1 2 with spadBytes := 4096 }

/-- The acting weave: every register is zero, and its fragment 0 holds all 96 lanes. -/
def weave : Weave := newWeave (fetchLaunch .c 2) crew 0 0 0 0x100000000

/-- The machine: the first two lines of core 0's scratchpad are one poisoned range. -/
def state : State :=
  { State.reset with
    cur := ⟨⟨0, 0⟩, .c 0, 0, 4, some ⟨.rlx, .wv, .spd, .ca, false, false⟩, .now⟩
    weaves := [weave], launches := [fetchLaunch .c 2], crews := [crew], poison := [(sramKey 0 0, 256)] }

/-- VST of two bytes a lane from address 0 on: line 0 and the first half of line 1. -/
def vst : Instr := .vst 0 1 0 0 0

/-- The poisoned ranges after a step's outcome. -/
def poisonAfter : Host.Outcome State Fault Refusal → List (Nat × Nat)
  | .next t => t.poison
  | _ => []

theorem ready : state.Ready vst weave := ⟨by decide +kernel, by decide +kernel, rfl⟩

theorem order_rlx : (state.issued.attrsOf vst weave).order = .rlx := by decide +kernel

theorem unhindered : state.Unhindered vst weave := by
  refine ⟨fun p hp => absurd hp (List.not_mem_nil), fun h => absurd order_rlx h, fun h => ?_⟩
  have hplain : (state.issued.attrsOf vst weave).bundle = false := by decide +kernel
  simp [hplain] at h

/-- Every lane that acts stores inside the crew's reservation, at an aligned place. -/
theorem places_good : ∀ l ∈ (List.range 96).filter fun l => (weave.act state.cur.strand).getLsbD l,
    state.issued.spadInside (state.issued.agentOf weave state.cur.strand) ((weave.scal state.cur.strand 0).toNat + l * 2) 2 = true ∧
      ((weave.scal state.cur.strand 0).toNat + l * 2) % 2 = 0 ∧
      (state.issued.agentOf weave state.cur.strand).spad ((weave.scal state.cur.strand 0).toNat + l * 2) + 2 ≤ 0x82000 := by
  decide +kernel

/-- Line 0's poison is gone, and the rest of the range is a range of its own. -/
theorem poisonAfter_exec : poisonAfter (exec vst state) = [(sramKey 0 0 + 128, 128)] := by decide +kernel

end Sys2Proof.Machine.ClearingStore
end

section
open Sys2Proof Sys2Proof.Machine

/-- Refutes O21: a VST that writes one of the two lines of a poisoned range leaves a range that was not in the list. -/
theorem not_scratchpadAccesses : ¬ Obligations.ScratchpadAccesses := by
  unfold Obligations.ScratchpadAccesses Rules.ScratchpadStores
  rintro ⟨-, -, hstores⟩
  obtain ⟨-, -, hvst, -⟩ := hstores 1 0 0 0 ClearingStore.state ClearingStore.weave
  obtain ⟨u, hexec, v, hv, rfl⟩ := hvst ClearingStore.places_good ClearingStore.ready (by decide +kernel) ClearingStore.unhindered
  obtain ⟨-, -, -, hpoison⟩ := hv
  have hleft : (v.onMe id).poison = [(sramKey 0 0 + 128, 128)] :=
    (congrArg ClearingStore.poisonAfter hexec).symm.trans ClearingStore.poisonAfter_exec
  have hold := hpoison (sramKey 0 0 + 128, 128) (by
    rw [show v.poison = _ from hleft]
    exact List.mem_singleton.2 rfl)
  exact absurd hold (by decide +kernel)
end

section
/-! ## A store whose flip moves its own lanes to far memory (R187, R243, R362)

An unbundled store settles the lines that it names before it asks whether its lanes lie in far memory. The flip of such a line writes the
line's bytes, and those may be the extent list of the object itself: the same request then names near memory before the flip and far memory
after it. STQ asks again with the state before the flip, and pops its queue; the clause of `Rules.QueueAccesses` keeps the queue. -/

namespace Sys2Proof.Machine

/-! ### A store that waits for its home -/

/-- The state once the lines that an unbundled store names have been settled (R187). -/
def State.settledFor (s : State) (g : Agent) (q : Req) (d : ObjDesc) : State :=
  (distinct ((s.lanesAt g q d).map fun l => d.byteAt l.off / 128)).foldl (fun t n => t.settleLine g.part q.object n) s

/-- The lanes of an unbundled store that a line bars once it is settled (R187). -/
def State.barredLanes (s : State) (g : Agent) (q : Req) (d : ObjDesc) : LaneMask :=
  lanesWhere (s.lanesAt g q d) fun l => (s.settledFor g q d).barred g.part q.object (d.byteAt l.off / 128)

/-- No lane fails a check of R110. -/
def State.noLaneFails (s : State) (g : Agent) (q : Req) : Bool :=
  (decideLanes (q.lanes.map fun l => (l.1, s.checkLane g q (s.seeDesc g.core g.part q.object) l.2.1 l.2.2))).isNone

variable {s : State} {w : Weave} {g : Agent} {a : Attrs} {q : Req} {d : ObjDesc} {vals : Nat → Nat}

theorem State.checkReq_of_noLaneFails (h : s.noLaneFails g q = true) : s.checkReq g q = .ok () := by
  have h' := Option.isNone_iff_eq_none.1 h
  simp only [State.checkReq, h']

theorem State.settleLanes_of_unbarred (h : s.barredLanes g q d = 0) :
    s.settleLanes g q d (s.lanesAt g q d) = .ok (s.settledFor g q d) :=
  if_neg (not_not.2 h)

/-- Where nothing else stops an unbundled store of an object, it waits for its home if its lanes lie in far memory once its lines are
settled. -/
theorem State.store'_postpones (hspace : q.space = .obj) (hplain : a.bundle = false) (hchecks : s.noLaneFails g q = true)
    (hdesc : s.seeDesc g.core g.part q.object = some d) (hlost : s.accessLost = false) (hbars : s.barredLanes g q d = 0)
    (hports : (s.settledFor g q d).downLanes (s.lanesAt g q d) = 0)
    (hbusy : ((s.lanesAt g q d).any fun l => l.places.any fun p => p.busy) = false)
    (hbehind : (s.settledFor g q d).behind g q = false) (hfar : (s.settledFor g q d).mustWait g q = true) :
    s.store' w g a q vals = .error (.postpone q) := by
  have hof : s.descOf g q = some d := by simp [State.descOf, hspace, hdesc]
  simp [State.store', State.checkReq_of_noLaneFails hchecks, hspace, hof, State.storeObject, State.clearance, hlost, hplain,
    State.settleLanes_of_unbarred hbars, hports, hbusy, hbehind, hfar]

/-- An access left for later changes no weave. -/
theorem State.leave_weaves (s : State) (i : Instr) (w : Weave) (q : Req) (slot : Option (Nat × Nat)) :
    (s.leave i w q slot).weaves = s.weaves := by
  unfold State.leave
  extract_lets g t
  have ht : t.weaves = s.weaves := by
    unfold t
    split <;> rfl
  exact ht

/-! ### The state

Object 1 of partition 0 has 512 bytes, and its extent list begins at address 0x1_0000, which is its own byte 0: the list's one entry says
that frame 0 of the object is frame 1 of stacked memory. Line 0 of the object has an open version that has committed and is not flipped
yet, whose bytes say frame 1 of far memory. -/

namespace MovingStore

/-- Line 0 of object 1, a member of bundle 2, with its committed version. -/
def line : MemberLine := ⟨0, 1, 0, 2, 0, none, some ⟨1, leBytes 128 (mkExt 1 true true), 0⟩, []⟩

/-- Bundle 2, whose generation 1 has committed. -/
def bundle : Bundle :=
  { part := 0, handle := 2, index := 0, coordinator := 0, state := .committed, opened := 1, committed := 1, participants := 0, joined := 0
    closed := 0, chips := 0, pin := none, pinOwner := 0, members := [(1, 0)], reported := false, aborted := [], owners := [] }

/-- A launch whose weaves receive the object's number in a1. -/
def launch : Launch := { fetchLaunch .a 2 with record := { fetchRecord .a with args := [1] } }

/-- The vector at the head of queue 2. -/
def entry : QEntry := ⟨0, .vector LaneReg.zero, true, none, []⟩

/-- The acting weave. -/
def weave : Weave := (newWeave launch (fetchCrew 1 2) 0 0 0 0x100000000).onQueue 2 fun y => { y with entries := [entry] }

/-- The object's table entry and its extent list. -/
def objects : State :=
  (((State.reset.memWrite 0x40 8 (1 + 2 ^ 8 + 2 ^ 9)).memWrite 0x48 8 512).memWrite 0x60 8 0x10000).memWrite 0x10000 8 (mkExt 1 false true)

/-- The machine. -/
def state : State :=
  { objects.onPcb 0 fun p => { p with tableBase := 0, tableEntries := 2 } with
    cur := ⟨⟨0, 0⟩, .a, 0, 4, some ⟨.rlx, .wv, .obj, .ca, false, false⟩, .now⟩
    weaves := [weave], launches := [launch], crews := [fetchCrew 1 2], members := [line], bundles := [bundle] }

/-- STQ of queue 2's head to the object in a1, from offset 0. -/
def stq : Instr := .stq 0 2 0 1 2

/-- The acting strand as the maker of accesses, and the access's attributes. -/
def agent : Agent := state.issued.agentOf weave .a
def attrs : Attrs := state.issued.attrsOf stq weave

/-- What the store asks for: a word in each of the 96 lanes, from offset 0. What its fault records would say is left open. -/
def request (viewMask : Option LaneMask) (info : FaultInfo) : Req :=
  ⟨.obj, 1, 4, .write, (List.range 96).map fun l => (l, false, 4 * (l : Int)), none, viewMask, info⟩

/-- The object as the core sees it. -/
def desc : ObjDesc :=
  { kind := 1, type := 0, rank := 1, d0 := 0, d1 := 0, d2 := 0, d3 := 0, size := 512, readable := true, writable := true
    executable := false, withdrawn := false, pinned := false, layout := 0, farShare := 0, list := 0x10000, shape := 0 }

/-- The number of entries that queue 2 of the acting weave holds after a step's outcome. -/
def waiting : Host.Outcome State Fault Refusal → Nat
  | .next t => ((t.weaves.head?.map fun (w : Weave) => (w.queue 2).entries.length)).getD 0
  | _ => 0

theorem seeDesc_state : state.issued.seeDesc agent.core agent.part 1 = some desc := by decide +kernel

theorem ready : state.Ready stq weave := ⟨by decide +kernel, by decide +kernel, rfl⟩

section
variable (s : State) (g : Agent) (d : ObjDesc) (m : Option LaneMask) (x : FaultInfo)

/-! What a request's fault records would say decides nothing about the store. -/

theorem noLaneFails_request : s.noLaneFails g (request m x) = s.noLaneFails g (request none default) := rfl
theorem lanesAt_request : s.lanesAt g (request m x) d = s.lanesAt g (request none default) d := rfl
theorem settledFor_request : s.settledFor g (request m x) d = s.settledFor g (request none default) d := rfl
theorem barredLanes_request : s.barredLanes g (request m x) d = s.barredLanes g (request none default) d := rfl
theorem behind_request : s.behind g (request m x) = s.behind g (request none default) := rfl
theorem mustWait_request : s.mustWait g (request m x) = s.mustWait g (request none default) := rfl

end

/-- The store waits for the far home that the flip gives its lanes. -/
theorem store'_request (m : Option LaneMask) (x : FaultInfo) (vals : Nat → Nat) :
    state.issued.store' weave agent attrs (request m x) vals = .error (.postpone (request m x)) := by
  refine State.store'_postpones (d := desc) rfl ?plain ?checks ?desc ?lost ?bars ?ports ?busy ?behind ?far
  case plain => decide +kernel
  case checks => rw [noLaneFails_request]; decide +kernel
  case desc => exact seeDesc_state
  case lost => decide +kernel
  case bars => rw [barredLanes_request]; decide +kernel
  case ports => rw [settledFor_request, lanesAt_request]; decide +kernel
  case busy => rw [lanesAt_request]; decide +kernel
  case behind => rw [settledFor_request, behind_request]; decide +kernel
  case far => rw [settledFor_request, mustWait_request]; decide +kernel

/-- The step pops queue 2. -/
theorem waiting_exec : waiting (exec stq state) = 0 := by decide +kernel

/-- Had the store only been left for later, its vector would still head queue 2. -/
theorem waiting_leave (r : Req) : waiting (.next (state.issued.leave stq weave r)) = 1 := by
  have h : waiting (.next state.issued) = 1 := by decide +kernel
  simpa only [waiting, State.leave_weaves] using h

end MovingStore

end Sys2Proof.Machine
end

section
open Sys2Proof Sys2Proof.Machine

/-- Refutes O23: an STQ that its flip sends to far memory pops its queue although its store awaits its home's acceptance. -/
theorem not_queueLoads : ¬ Obligations.QueueLoads := by
  unfold Obligations.QueueLoads Rules.QueueAccesses
  rintro ⟨haccess, -⟩
  obtain ⟨-, -, hstores⟩ := haccess 0 2 0 0 0 0 0 0 1 0 2 MovingStore.state MovingStore.weave rfl
  obtain ⟨hstq, -⟩ := hstores MovingStore.entry LaneReg.zero (by decide) rfl rfl rfl
  obtain ⟨-, hperformed⟩ := hstq MovingStore.ready
  obtain ⟨r, ⟨hspace, hobject, hwidth, hneed, hmask, hlanes⟩, -, hleave, -⟩ := hperformed (by decide +kernel)
  obtain ⟨space, object, width, need, lanes, mask, viewMask, info⟩ := r
  have hr : (⟨space, object, width, need, lanes, mask, viewMask, info⟩ : Req) = MovingStore.request viewMask info := by
    have hspace' : space = .obj := hspace.trans (by decide +kernel)
    have hobject' : object = 1 := hobject.trans (by decide +kernel)
    have hlanes' : lanes = (MovingStore.request none default).lanes := hlanes.trans (by decide +kernel)
    cases hspace'; cases hobject'; cases hlanes'; cases hwidth; cases hneed; cases hmask
    rfl
  rw [hr] at hleave
  have hkept := (congrArg MovingStore.waiting (hleave _ (MovingStore.store'_request viewMask info _))).trans (MovingStore.waiting_leave _)
  exact absurd (MovingStore.waiting_exec.symm.trans hkept) (by decide)
end

section
namespace Sys2Proof.Machine

/-! ## The ends of waits (R44, R170, R181, R204, R383) -/

/-! ### Masks and runs of complete entries -/

/-- The mask that a list of lanes builds. -/
theorem getLsbD_foldl_lanes (p : Nat → Bool) (xs : List Nat) (m : LaneMask) (l : Nat) :
    (xs.foldl (fun m l => if p l then m ||| ((1 : LaneMask) <<< l) else m) m).getLsbD l =
      (m.getLsbD l || (decide (l ∈ xs) && p l && decide (l < 96))) := by
  induction xs generalizing m with
  | nil => simp
  | cons x xs ih =>
    have hlane : ((1 : LaneMask) <<< x).getLsbD l = (decide (x < 96) && decide (x = l)) := BitVec.getLsbD_twoPow x l
    have hstep : (if p x then m ||| ((1 : LaneMask) <<< x) else m).getLsbD l =
        (m.getLsbD l || (decide (l = x) && p l && decide (l < 96))) := by
      by_cases hxl : x = l
      · subst hxl
        cases hp : p x with
        | false => simp
        | true => rw [if_pos rfl, BitVec.getLsbD_or, hlane]; simp
      · cases p x with
        | false => simp [Ne.symm hxl]
        | true => rw [if_pos rfl, BitVec.getLsbD_or, hlane]; simp [hxl, Ne.symm hxl]
    rw [List.foldl_cons, ih, hstep]
    simp only [List.mem_cons, Bool.decide_or, Bool.and_or_distrib_right, Bool.or_assoc]

theorem getLsbD_maskOf (p : Nat → Bool) (l : Nat) : (maskOf p).getLsbD l = (decide (l < 96) && p l) := by
  rw [maskOf, getLsbD_foldl_lanes]
  by_cases hl : l < 96 <;> simp [laneList, hl]

/-- A mask of no lane. -/
theorem laneMask_eq_zero_iff (m : LaneMask) : m = 0 ↔ ∀ l, l < 96 → ¬ m.getLsbD l = true := by
  constructor
  · rintro rfl l -
    simp
  · intro h
    refine BitVec.eq_of_getLsbD_eq fun l hl => ?_
    simpa using h l hl

/-- A run of entries that all pass is as long as asked exactly when the first so many are there and pass. -/
theorem le_length_takeWhile_iff {α : Type} {p : α → Bool} {n : Nat} {xs : List α} :
    n ≤ (xs.takeWhile p).length ↔ n ≤ xs.length ∧ ∀ x ∈ xs.take n, p x = true := by
  induction xs generalizing n with
  | nil => cases n <;> simp
  | cons x xs ih =>
    cases n with
    | zero => simp
    | succ n =>
      by_cases hx : p x = true <;> simp [hx, ih]

theorem Queue.le_completeFromHead_iff {q : Queue} {n : Nat} :
    n ≤ q.completeFromHead ↔ n ≤ q.entries.length ∧ ∀ e ∈ q.entries.take n, e.complete = true :=
  le_length_takeWhile_iff

/-! ### The lanes that a port wait misses -/

section
variable {s : State} {w : Weave} {st : Strand} {p : Port}

theorem Weave.getLsbD_popUnmet {f : PortFifo} (hf : w.port? p = some f) {l : Nat} (hl : l < 96) :
    (w.popUnmet st p).getLsbD l = true ↔ (w.act st).getLsbD l = true ∧ f.lane l = [] := by
  rw [Weave.popUnmet, getLsbD_maskOf]
  simp [hf, hl]

theorem State.getLsbD_pushUnmet {x : Partner} (hx : s.partner w p = some x) {l : Nat} (hl : l < 96) :
    (s.pushUnmet w st p).getLsbD l = true ↔ (w.act st).getLsbD l = true ∧ s.portRoom x (landsIn p) (targetLane p l) = false := by
  rw [State.pushUnmet, hx, getLsbD_maskOf]
  simp [hl]

theorem Weave.popUnmet_eq_zero_iff {f : PortFifo} (hf : w.port? p = some f) :
    w.popUnmet st p = 0 ↔ ∀ l, l < 96 → (w.act st).getLsbD l = true → f.lane l ≠ [] := by
  refine (laneMask_eq_zero_iff _).trans (forall₂_congr fun l hl => ?_)
  rw [Weave.getLsbD_popUnmet hf hl, not_and]

theorem State.pushUnmet_eq_zero_iff {x : Partner} (hx : s.partner w p = some x) :
    s.pushUnmet w st p = 0 ↔ ∀ l, l < 96 → (w.act st).getLsbD l = true → s.portRoom x (landsIn p) (targetLane p l) = true := by
  refine (laneMask_eq_zero_iff _).trans (forall₂_congr fun l hl => ?_)
  rw [State.getLsbD_pushUnmet hx hl, not_and, Bool.not_eq_false]

end

/-! ### Wakes -/

/-- The waits that end by the issue of their instruction anew (R44). -/
def WaitOn.reissues : WaitOn → Bool
  | .queueHead .. | .queueRoom .. | .gather .. | .scatter .. | .portIn .. | .portOut .. | .launchRoom .. | .again => true
  | _ => false

theorem State.wake_of_reissues {s : State} {w : Weave} {st : Strand} {r : WaitRec} (h : r.on.reissues = true) :
    s.wake w st r = if s.waitMet w st r.on then some (s.onWeave w.id fun x => x.endWait st s.time) else none := by
  obtain ⟨on, since, pc, counted⟩ := r
  cases on with
  | queueHead | queueRoom | gather | scatter | portIn | portOut | launchRoom | again => rfl
  | barrier | completion | word | gang | shuffle => cases h

section
variable {id : WeaveId} {st : Strand} {s : State} {w : Weave} {r : WaitRec}

theorem Weave.endWait_id (w : Weave) (st : Strand) (time : Nat) : (w.endWait st time).id = w.id := by
  cases st <;> rfl

/-- Two changes of a weave are one, when the first keeps its name. -/
theorem State.onWeave_onWeave {f g : Weave → Weave} (hf : ∀ v, (f v).id = v.id) :
    (s.onWeave id f).onWeave id g = s.onWeave id fun v => g (f v) := by
  simp only [State.onWeave, List.map_map]
  congr 2
  funext v
  by_cases hv : v.id = id <;> simp [hv, hf]

/-- A wait that its crew holds goes on. -/
theorem exec_waitWake_of_held (hw : s.weave? id = some w) (hheld : s.waitHeld w st = true) : exec (.waitWake id st) s = .next s := by
  show Host.Outcome.next ((s.wakeNow id st).getD s) = _
  simp [State.wakeNow, hw, hheld]

section
variable (hw : s.weave? id = some w) (hr : w.waitOf st = some r) (hheld : s.waitHeld w st = false)
include hw hr hheld

/-- A wait that its crew does not hold is judged. -/
theorem exec_waitWake : exec (.waitWake id st) s = .next ((s.wake w st r).getD s) := by
  show Host.Outcome.next ((s.wakeNow id st).getD s) = _
  simp [State.wakeNow, hw, hr, hheld]

theorem exec_waitWake_of_none (h : s.wake w st r = none) : exec (.waitWake id st) s = .next s := by
  rw [exec_waitWake hw hr hheld, h]; rfl

theorem exec_waitWake_of_some {t : State} (h : s.wake w st r = some t) : exec (.waitWake id st) s = .next t := by
  rw [exec_waitWake hw hr hheld, h]; rfl

/-- A wait whose instruction is issued anew ends when its condition holds, and not before. -/
theorem exec_waitWake_reissues (hon : r.on.reissues = true) {p : Prop} (hp : s.waitMet w st r.on = true ↔ p) :
    (p → exec (.waitWake id st) s = .next (s.onWeave id fun x => x.endWait st s.time)) ∧
    (¬p → exec (.waitWake id st) s = .next s) := by
  have hid := weave?_name hw
  rw [← hp, exec_waitWake hw hr hheld, State.wake_of_reissues hon]
  constructor
  · intro hmet; rw [if_pos hmet, hid]; rfl
  · intro hmet; rw [if_neg hmet]; rfl

theorem exec_waitWake_barrier {o : Nat} {phase : Bool} (hon : r.on = .barrier o phase) :
    let now := (s.sramByte id.core (s.crewSpad w + o)).getLsbD 0
    (now = phase → exec (.waitWake id st) s = .next s) ∧
    (now ≠ phase → exec (.waitWake id st) s = .next
      ((s.onWeave id fun x => (x.endWait st s.time).setPc st (r.pc + 4)).barComplete id o)) := by
  obtain rfl := weave?_name hw
  intro now
  have hnow : s.phaseAt w.id.core (s.crewSpad w + o) = now := rfl
  constructor
  · intro h
    refine exec_waitWake_of_none hw hr hheld ?_
    simp [State.wake, hon, hnow, h]
  · intro h
    refine exec_waitWake_of_some hw hr hheld ?_
    simp [State.wake, hon, hnow, h]

theorem exec_waitWake_completion {a : Nat} {want : Bool} {target : BitVec 32} (hon : r.on = .completion a want target) :
    let now := (s.sramByte id.core a).getLsbD 0
    let held := s.fenceHeld w.partition id.core (s.flipScope id.core a)
    (now ≠ want → exec (.waitWake id st) s = .next s) ∧
    (now = want → (held = true → exec (.waitWake id st) s = .next s) ∧
      (held = false → exec (.waitWake id st) s = .next
        ((s.onWeave id fun x => ((x.endWait st s.time).setPc st target).countIssue st).acquire id.core (s.flipScope id.core a)))) := by
  obtain rfl := weave?_name hw
  intro now held
  have hnow : s.phaseAt w.id.core a = now := rfl
  have hheld' : s.fenceHeld w.partition w.id.core (s.flipScope w.id.core a) = held := rfl
  refine ⟨fun h => ?_, fun h => ⟨fun hf => ?_, fun hf => ?_⟩⟩
  · refine exec_waitWake_of_none hw hr hheld ?_
    simp [State.wake, hon, hnow, h]
  · refine exec_waitWake_of_none hw hr hheld ?_
    simp [State.wake, hon, hheld', hf]
  · refine exec_waitWake_of_some hw hr hheld ?_
    simp [State.wake, hon, hnow, h, hheld', hf]

/-- R181: a WAITV's word judged at the wake, as the mode saw it that waits. -/
theorem exec_waitWake_word {object o : Nat} {a : Attrs} {c : Word} {d : Nat} {m : Mode} (hon : r.on = .word object o a c d m) :
    let t := s.actAs id st r.pc
    let g : Agent := { t.agentOf w st with sup := decide (m = .supervisor) }
    let q := t.waitvReq w a object (BitVec.ofNat 64 o)
    let seen := t.observeWord g a q
    let held := t.fenceHeld w.partition id.core a.scope
    (∀ u x, seen = .ok (u, x) → x = c ∨ held = true → exec (.waitWake id st) s = .next s) ∧
    (∀ e, seen = .error e → (∀ i, e ≠ .fault i) → exec (.waitWake id st) s = .next s) ∧
    (∀ i, seen = .error (.fault i) → exec (.waitWake id st) s = .next ((t.onMe fun y => y.endWait st t.time).vector id st i)) ∧
    (∀ u0 x, seen = .ok (u0, x) → x ≠ c → held = false → let u := u0.waitvRun t g a q
      exec (.waitWake id st) s = .next ((u.onMe fun y =>
        (((y.endWait st u.time).setPc st (r.pc + 4)).setPhysical st d (x.setWidth 64)).countIssue st).acquire id.core a.scope)) := by
  obtain rfl := weave?_name hw
  intro t g q seen held
  have hwake : s.wake w st r = s.wakeWord w st r object o a c d m := by rw [State.wake, hon]
  refine ⟨fun u x hseen h => ?_, fun e hseen he => ?_, fun i hseen => ?_, fun u x hseen hx hf => ?_⟩
  · refine exec_waitWake_of_none hw hr hheld (hwake.trans ?_)
    have h' : x = c ∨ (s.actAs w.id st r.pc).fenceHeld w.partition w.id.core a.scope = true := h
    simp only [seen, q, g, t] at hseen
    simp [State.wakeWord, hseen, h']
  · refine exec_waitWake_of_none hw hr hheld (hwake.trans ?_)
    simp only [seen, q, g, t] at hseen
    cases e with
    | fault i => exact absurd rfl (he i)
    | _ => simp [State.wakeWord, hseen]
  · refine exec_waitWake_of_some hw hr hheld (hwake.trans ?_)
    simp only [seen, q, g, t] at hseen
    simp [State.wakeWord, hseen, t]
  · refine exec_waitWake_of_some hw hr hheld (hwake.trans ?_)
    simp only [seen, q, g, t] at hseen
    have hf' : (s.actAs w.id st r.pc).fenceHeld w.partition w.id.core a.scope = false := hf
    simp [State.wakeWord, hseen, hx, hf', t, g, q]

theorem exec_waitWake_unending (hon : r.on = .gang ∨ ∃ n d v p, r.on = .shuffle n d v p) : exec (.waitWake id st) s = .next s := by
  refine exec_waitWake_of_none hw hr hheld ?_
  obtain hg | ⟨n, d, v, p, hs⟩ := hon
  · rw [State.wake, hg]
  · rw [State.wake, hs]

end

end

theorem rules_wakes : Rules.Wakes := by
  intro id st s w r hw hr run complete room again judged moved
  refine ⟨exec_waitWake_of_held hw, fun hheld => ?_⟩
  have reissue : ∀ {on : WaitOn} {p : Prop}, r.on = on → on.reissues = true → (s.waitMet w st on = true ↔ p) → judged p := by
    rintro on p rfl hon hp
    exact exec_waitWake_reissues hw hr hheld hon hp
  have hcomplete : ∀ q n, n ≤ (w.queue q).completeFromHead ↔ complete q n := fun q n => Queue.le_completeFromHead_iff
  have hroom : ∀ q, (w.queue q).hasRoom = true ↔ room q := fun q => decide_eq_true_iff
  refine ⟨?queueHead, ?queueRoom, ?gather, ?scatter, ?portIn, ?portOut, ?launchRoom, ?again, ?barrier, ?completion,
    exec_waitWake_unending hw hr hheld, ?word⟩
  case queueHead => exact fun q n hon => reissue hon rfl (by simp only [State.waitMet, decide_eq_true_iff, hcomplete])
  case queueRoom => exact fun q hon => reissue hon rfl (hroom q)
  case gather =>
    exact fun q n d hon => reissue hon rfl (by simp only [State.waitMet, Bool.and_eq_true, decide_eq_true_iff, hcomplete, hroom])
  case scatter =>
    exact fun v q n hon => reissue hon rfl (by simp only [State.waitMet, Bool.and_eq_true, decide_eq_true_iff, hcomplete])
  case portIn =>
    exact fun p f hon hf => reissue hon rfl (decide_eq_true_iff.trans (Weave.popUnmet_eq_zero_iff hf))
  case portOut =>
    exact fun p x hon hx => reissue hon rfl (decide_eq_true_iff.trans (State.pushUnmet_eq_zero_iff hx))
  case launchRoom => exact fun q hon => reissue hon rfl decide_eq_true_iff
  case again => exact fun hon => (reissue (p := True) hon rfl (by simp [State.waitMet])).1 trivial
  case barrier => exact fun o phase hon => exec_waitWake_barrier hw hr hheld hon
  case completion =>
    intro a want target hon now
    have hmoved : (moved target).onWeave id (fun x => x.countIssue st) =
        s.onWeave id fun x => ((x.endWait st s.time).setPc st target).countIssue st := State.onWeave_onWeave fun v => by simp [Weave.endWait_id]
    rw [hmoved]
    exact exec_waitWake_completion hw hr hheld hon
  case word =>
    intro object o a c d m hon t g q seen
    obtain ⟨hstays, hretries, hfaults, hwakes⟩ := exec_waitWake_word hw hr hheld hon
    exact ⟨fun u hseen => hstays u c hseen (.inl rfl), fun u hseen hf => hstays u.1 u.2 hseen (.inr hf), hretries, hfaults, hwakes⟩

/-! ### Watchdogs -/

section
variable {id : WeaveId} {st : Strand} {s : State} {w : Weave} {r : WaitRec}

/-- A wait has lasted PWATCH.limit × 64 cc; one of limit 0 never has (R204). -/
def State.Expired (s : State) (w : Weave) (r : WaitRec) : Prop := w.pwatch ≠ 0 ∧ r.since + 64 * w.pwatch.toNat ≤ s.time

theorem State.waitExpired_iff : s.waitExpired w r = true ↔ s.Expired w r := by
  simp [State.waitExpired, State.Expired]

/-- A watchdog ends a wait that has expired and that no halt keeps, and no other. -/
theorem watchdog_cases (t : State) :
    (s.Expired w r → s.waitHeld w st = false → (if s.waitExpired w r && !s.waitHeld w st then t else s) = t) ∧
    (¬s.Expired w r ∨ s.waitHeld w st = true → (if s.waitExpired w r && !s.waitHeld w st then t else s) = s) := by
  rw [← State.waitExpired_iff]
  refine ⟨fun hexp hheld => by simp [hexp, hheld], ?_⟩
  rintro (hexp | hheld)
  · simp [hexp]
  · simp [hheld]

theorem exec_waitWatchdog_completion (hw : s.weave? id = some w) (hr : w.waitOf st = some r) {a : Nat} {want : Bool} {target : BitVec 32}
    (hon : r.on = .completion a want target) : exec (.waitWatchdog id st) s =
      .next (if s.waitExpired w r && !s.waitHeld w st then s.watchFault w st r accOther (w.act st) 0 else s) := by
  show execWaitWatchdog id st s = _
  simp only [execWaitWatchdog, hw, hr, hon]

section
variable {e : Nat} (hw : s.weave? id = some w) (hr : w.waitOf (.c e) = some r)
include hw hr

theorem exec_portWatch_of_none (h : s.portUnmet w (.c e) r.on = none) : exec (.portWatch id e) s = .next s := by
  show execPortWatch id e s = _
  simp only [execPortWatch, hw, hr, h]

theorem exec_portWatch_of_some {m : LaneMask} {p : Nat} (h : s.portUnmet w (.c e) r.on = some (m, p)) :
    (s.Expired w r → s.waitHeld w (.c e) = false → exec (.portWatch id e) s = .next (s.watchFault w (.c e) r accPort m p)) ∧
    (¬s.Expired w r ∨ s.waitHeld w (.c e) = true → exec (.portWatch id e) s = .next s) := by
  have hrun : exec (.portWatch id e) s =
      .next (if s.waitExpired w r && !s.waitHeld w (.c e) then s.watchFault w (.c e) r accPort m p else s) := by
    show execPortWatch id e s = _
    simp only [execPortWatch, hw, hr, h]
  rw [hrun]
  obtain ⟨hends, hstays⟩ := watchdog_cases (s.watchFault w (.c e) r accPort m p)
  exact ⟨fun hexp hheld => congrArg _ (hends hexp hheld), fun hwhy => congrArg _ (hstays hwhy)⟩

/-- A wait of a port for which lanes are unmet ends by its watchdog; one for which none is goes on. -/
theorem exec_portWatch_lanes {m : LaneMask} {p : Nat} (h : s.portUnmet w (.c e) r.on = if m = 0 then none else some (m, p)) :
    (s.Expired w r → s.waitHeld w (.c e) = false → m ≠ 0 →
      exec (.portWatch id e) s = .next (s.watchFault w (.c e) r accPort m p)) ∧
    (¬s.Expired w r ∨ s.waitHeld w (.c e) = true ∨ m = 0 → exec (.portWatch id e) s = .next s) := by
  by_cases hm : m = 0
  · rw [if_pos hm] at h
    exact ⟨fun _ _ hne => absurd hm hne, fun _ => exec_portWatch_of_none hw hr h⟩
  · rw [if_neg hm] at h
    obtain ⟨hends, hstays⟩ := exec_portWatch_of_some hw hr h
    exact ⟨fun hexp hheld _ => hends hexp hheld, fun hwhy => hstays ((or_assoc.2 hwhy).resolve_right hm)⟩

end

end

theorem rules_watchdogs : Rules.Watchdogs := by
  intro id st e s w r hw expired ends
  obtain rfl := weave?_name hw
  refine ⟨?completion, ?ports⟩
  case completion =>
    intro hr a want target hon
    rw [exec_waitWatchdog_completion hw hr hon]
    obtain ⟨hends, hstays⟩ := watchdog_cases (s.watchFault w st r accOther (w.act st) 0)
    exact ⟨fun hexp hheld => congrArg _ (hends hexp hheld), fun hwhy => congrArg _ (hstays hwhy)⟩
  case ports =>
    intro hr run act judged
    refine ⟨fun p f hon hf => ?_, fun p x hon hx => ?_, fun n d v p hon => exec_portWatch_of_some hw hr (congrArg _ hon)⟩
    · exact ⟨w.popUnmet (.c e) p, fun l hl => Weave.getLsbD_popUnmet hf hl, exec_portWatch_lanes hw hr (congrArg _ hon)⟩
    · exact ⟨s.pushUnmet w (.c e) p, fun l hl => State.getLsbD_pushUnmet hx hl, exec_portWatch_lanes hw hr (congrArg _ hon)⟩

end Sys2Proof.Machine
end

section
open Sys2Proof Sys2Proof.Machine

/-- Settles O45, by its two parts. -/
theorem wakesAndWatchdogs : Obligations.WakesAndWatchdogs := ⟨rules_wakes, rules_watchdogs⟩
end

section
/-! ## The dispatcher's turn, the end of a weave, the abort of a launch (R35, R142, R259, R320, R31, R223) -/

namespace Sys2Proof.Machine

/-! ### The dispatcher -/

section
variable {s : State} {part : Nat}

theorem exec_crewDispatch_of_unready (h : s.stage.getD 0 < 2) : exec (.crewDispatch part) s = .next s :=
  congrArg Host.Outcome.next (if_pos h)

theorem exec_crewDispatch_of_ready (h : 2 ≤ s.stage.getD 0) :
    exec (.crewDispatch part) s = .next (((s.changeSplits part).place part).requestSeated part) :=
  congrArg Host.Outcome.next (if_neg (Nat.not_lt.2 h))

theorem State.place_of_saved {c : Crew} (h : s.savedCrews part = some c) : s.place part = (s.placeSaved c).getD s := by
  simp only [State.place, h]

/-! The state `t` in which the queues have been judged stays a variable: the judgement itself is never evaluated. -/

section
variable {t : State} (hsaved : s.savedCrews part = none) (ht : (List.range 16).foldl (fun (u : State) q => u.judge part q) s = t)
include hsaved ht

theorem State.place_of_no_queue (h : t.nextQueue part = none) : s.place part = t := by
  unfold State.place
  rw [ht, hsaved]
  simp only [h]

theorem State.place_of_placed {q : Nat} (hq : t.nextQueue part = some q) {u : State} (h : t.placeCandidate (t.front part q) = some u) :
    s.place part = u.onPcb part fun p =>
      { p with lastQueues := p.lastQueues.setIfInBounds (s.launchQueue part q).priority q, held := none } := by
  unfold State.place
  rw [ht, hsaved]
  simp only [hq, h]

theorem State.place_of_unplaced {q : Nat} (hq : t.nextQueue part = some q) (h : t.placeCandidate (t.front part q) = none) :
    s.place part = t.onPcb part fun p => { p with held := (t.front part q).head?.map (·.id) } := by
  unfold State.place
  rw [ht, hsaved]
  simp only [hq, h]

end

end

/-! ### The end of a weave -/

theorem Weave.cEnded_iff {w : Weave} : w.cEnded = true ↔ ∀ e, e < 128 → (w.entry e).isFragment = false := by
  simp only [Weave.cEnded, Bool.not_eq_true', List.any_eq_false, Bool.not_eq_true]
  constructor
  · intro h e he
    refine h _ ?_
    simp [Weave.entry, he]
  · intro h x hx
    obtain ⟨e, he, rfl⟩ := Vector.mem_iff_getElem.1 (Vector.mem_toList_iff.1 hx)
    simpa [Weave.entry, he] using h e he

theorem State.weaveDone_iff {s : State} {w : Weave} : s.weaveDone w = true ↔
    w.aEnded = true ∧ (∀ e, e < 128 → (w.entry e).isFragment = false) ∧ (∀ f ∈ s.flights, f.weave ≠ w.id) ∧
      (∀ p ∈ s.pending, p.issuer.weave ≠ w.id) ∧ (∀ t ∈ s.threads, ¬(t.weave = w.id ∧ t.crew = w.crew)) ∧
      ∀ a ∈ s.arrays, a.busyFor w.id = false := by
  rw [← Weave.cEnded_iff]
  simp [State.weaveDone, and_assoc]

theorem exec_weaveEnd {s : State} {w : Weave} (hw : s.weave? w.id = some w) :
    exec (.weaveEnd w.id) s = .next (if s.weaveDone w then s.endWeave w else s) := by
  show execWeaveEnd w.id s = _
  simp only [execWeaveEnd, hw]

/-! ### The abort of a launch -/

theorem exec_launchAbort {s : State} {l : Launch} (hl : s.launches.find? (fun x => x.id = l.id) = some l) :
    exec (.launchAbort l.id) s = .next (if l.finished then s else s.abortLaunch l) := by
  show execLaunchAbort l.id s = _
  simp only [execLaunchAbort, hl]

end Sys2Proof.Machine
end

section
open Sys2Proof Sys2Proof.Machine

/-- Settles O37, by the cases of the dispatcher's placement and by what `weaveDone` asks. -/
theorem dispatchAndEnds : Obligations.DispatchAndEnds := by
  intro part s w l
  refine ⟨exec_crewDispatch_of_unready, fun hstage => ?dispatch, fun hw => ?weave, exec_launchAbort⟩
  case dispatch =>
    intro v seats
    have hseats : ∀ t, v.place part = t → seats t := by
      rintro t rfl
      exact exec_crewDispatch_of_ready hstage
    refine ⟨fun c hc => hseats _ (State.place_of_saved hc), fun hsaved => ?_⟩
    intro t
    have ht : (List.range 16).foldl (fun (u : State) q => u.judge part q) v = t := rfl
    clear_value t
    exact ⟨fun hq => hseats t (State.place_of_no_queue hsaved ht hq), fun q hq =>
      ⟨fun u hu => hseats _ (State.place_of_placed hsaved ht hq hu), fun hu => hseats _ (State.place_of_unplaced hsaved ht hq hu)⟩⟩
  case weave =>
    intro done
    rw [exec_weaveEnd hw]
    exact ⟨fun h => congrArg _ (if_pos (State.weaveDone_iff.2 h)), fun h => congrArg _ (if_neg (mt State.weaveDone_iff.1 h))⟩
end

section
/-! ## Lanes and registers, read and written (R42, R48, R50, R251) -/

namespace Sys2Proof.Machine

/-! ### Lane registers and predicates -/

theorem updateAt_eq_modify {α : Type} (f : α → α) (n : Nat) (l : List α) : updateAt f n l = l.modify n f := by
  induction l generalizing n with
  | nil => cases n <;> rfl
  | cons x r ih => cases n with
    | zero => rfl
    | succ n => rw [updateAt, ih, List.modify_succ_cons]

theorem laneAt_eq_getElem? (v : LaneReg) (l : Nat) : laneAt v l = v[l]?.getD 0 := by
  rw [laneAt, List.getD_eq_getElem?_getD, Array.getElem?_toList, Vector.getElem?_toArray]

theorem laneAt_of_le (v : LaneReg) {l : Nat} (h : 96 ≤ l) : laneAt v l = 0 := by
  rw [laneAt_eq_getElem?, Vector.getElem?_eq_none h, Option.getD_none]

theorem laneAt_mkLanes (f : Nat → Word) (l : Nat) : laneAt (mkLanes f) l = if l < 96 then f l else 0 := by
  split
  next h => rw [laneAt_eq_getElem?, mkLanes, Vector.getElem?_eq_getElem h, Vector.getElem_ofFn, Option.getD_some]
  next h => exact laneAt_of_le _ (Nat.not_lt.1 h)

theorem laneAt_blend (m : LaneMask) (f : Nat → Word) (v : LaneReg) (l : Nat) :
    laneAt (blend m f v) l = if m.getLsbD l then f l else laneAt v l := by
  rw [blend, laneAt_mkLanes]
  by_cases h : l < 96
  · rw [if_pos h]
  · have hl : 96 ≤ l := Nat.not_lt.1 h
    rw [if_neg h, BitVec.getLsbD_of_ge m l hl, if_neg Bool.false_ne_true, laneAt_of_le v hl]

theorem Weave.setLanes_vRegs (w : Weave) (n : Nat) (m : LaneMask) (f : Nat → Word) :
    (w.setLanes n m f).vRegs = w.vRegs.modify n (blend m f) := updateAt_eq_modify _ _ _

theorem Weave.lane_setLanes_same (w : Weave) {n : Nat} (m : LaneMask) (f : Nat → Word) (h : n < w.vRegs.length) :
    (w.setLanes n m f).lane n = blend m f (w.lane n) := by
  simp [Weave.lane, Weave.setLanes_vRegs, h]

theorem Weave.lane_setLanes_ne (w : Weave) {n k : Nat} (m : LaneMask) (f : Nat → Word) (h : k ≠ n) :
    (w.setLanes n m f).lane k = w.lane k := by
  simp [Weave.lane, Weave.setLanes_vRegs, List.getElem?_modify_ne, h.symm]

theorem Weave.lane_setLanes_absent (w : Weave) {n : Nat} (m : LaneMask) (f : Nat → Word) (h : w.vRegs.length ≤ n) :
    (w.setLanes n m f).lane n = w.lane n := by
  simp [Weave.lane, Weave.setLanes_vRegs, h]

/-- Outside the mask and in the other registers every lane stays (R50). -/
theorem Weave.laneAt_setLanes_frame (w : Weave) {n k l : Nat} {m : LaneMask} (f : Nat → Word) (h : k ≠ n ∨ m.getLsbD l = false) :
    laneAt ((w.setLanes n m f).lane k) l = laneAt (w.lane k) l := by
  by_cases hk : k = n
  · subst hk
    have hm : m.getLsbD l = false := h.resolve_left (absurd rfl)
    by_cases hn : k < w.vRegs.length
    · rw [w.lane_setLanes_same m f hn, laneAt_blend, hm, if_neg Bool.false_ne_true]
    · rw [w.lane_setLanes_absent m f (Nat.not_lt.1 hn)]
  · rw [w.lane_setLanes_ne m f hk]

theorem Weave.setPred_seven (w : Weave) (m p : LaneMask) : w.setPred 7 m p = w := if_pos rfl

theorem Weave.setPred_pRegs (w : Weave) {k : Nat} (m p : LaneMask) (h : k ≠ 7) :
    (w.setPred k m p).pRegs = w.pRegs.setIfInBounds k ((p &&& m) ||| (w.pred k &&& ~~~m)) := by
  rw [Weave.setPred, if_neg h]

theorem Weave.pred_setPred_same (w : Weave) {k : Nat} (m p : LaneMask) (h : k < 7) :
    (w.setPred k m p).pred k = (p &&& m) ||| (w.pred k &&& ~~~m) := by
  have hk : k ≠ 7 := Nat.ne_of_lt h
  rw [Weave.pred, if_neg hk, w.setPred_pRegs m p hk, Vector.getElem?_setIfInBounds_self_of_lt (by omega), Option.getD_some]

theorem Weave.pred_setPred_ne (w : Weave) {k j : Nat} (m p : LaneMask) (h : j ≠ k) : (w.setPred k m p).pred j = w.pred j := by
  by_cases hk : k = 7
  · rw [hk, w.setPred_seven]
  · rw [Weave.pred, w.setPred_pRegs m p hk, Vector.getElem?_setIfInBounds_ne h.symm, ← Weave.pred]

/-! ### Scalar registers -/

theorem Weave.scal_zero (w : Weave) (st : Strand) : w.scal st 0 = 0 := by
  cases st <;> rfl

theorem Weave.setScal_zero (w : Weave) (st : Strand) (x : DWord) : w.setScal st 0 x = w := by
  cases st <;> rfl

section
variable (w : Weave) {n : Nat} (x : DWord)

/-- A number of the A-stream that names no banked register (R251). -/
theorem Weave.scal_a (h0 : n ≠ 0) (h : n < 56 ∨ w.aMode = .user) : w.scal .a n = (w.aRegs[n]?).getD 0 := by
  rcases h with h | h
  · simp [Weave.scal, h0, Nat.not_le.2 h]
  · simp [Weave.scal, h0, h]

theorem Weave.setScal_a (h0 : n ≠ 0) (h : n < 56 ∨ w.aMode = .user) :
    w.setScal .a n x = { w with aRegs := w.aRegs.setIfInBounds n x } := by
  rcases h with h | h
  · simp [Weave.setScal, h0, Nat.not_le.2 h]
  · simp [Weave.setScal, h0, h]

theorem Weave.scal_aBank (h : 56 ≤ n) (hm : w.aMode = .supervisor) : w.scal .a n = (w.aBank[n - 56]?).getD 0 := by
  simp [Weave.scal, h, hm, show n ≠ 0 by omega]

theorem Weave.setScal_aBank (h : 56 ≤ n) (hm : w.aMode = .supervisor) :
    w.setScal .a n x = { w with aBank := w.aBank.setIfInBounds (n - 56) x } := by
  simp [Weave.setScal, h, hm, show n ≠ 0 by omega]

/-- A number of the C-stream that names no banked register and no word of EM (R42, R251). -/
theorem Weave.scal_c (e : Nat) (h0 : n ≠ 0) (hem : n < 29) (h : n < 20 ∨ n = 28 ∨ w.cMode = .user) :
    w.scal (.c e) n = (w.sRegs[n]?).getD 0 := by
  rcases h with h | rfl | h
  · simp [Weave.scal, h0, Nat.not_le.2 hem, Nat.not_le.2 h]
  · simp [Weave.scal]
  · simp [Weave.scal, h0, Nat.not_le.2 hem, h]

theorem Weave.setScal_c (e : Nat) (h0 : n ≠ 0) (hem : n < 29) (h : n < 20 ∨ n = 28 ∨ w.cMode = .user) :
    w.setScal (.c e) n x = { w with sRegs := w.sRegs.setIfInBounds n x } := by
  rcases h with h | rfl | h
  · simp [Weave.setScal, h0, Nat.not_le.2 hem, Nat.not_le.2 h]
  · simp [Weave.setScal]
  · simp [Weave.setScal, h0, Nat.not_le.2 hem, h]

theorem Weave.scal_sBank (e : Nat) (h : 20 ≤ n) (h' : n < 28) (hm : w.cMode = .supervisor) :
    w.scal (.c e) n = (w.sBank[n - 20]?).getD 0 := by
  simp [Weave.scal, h, h', hm, show n ≠ 0 by omega, show ¬ 29 ≤ n by omega]

theorem Weave.setScal_sBank (e : Nat) (h : 20 ≤ n) (h' : n < 28) (hm : w.cMode = .supervisor) :
    w.setScal (.c e) n x = { w with sBank := w.sBank.setIfInBounds (n - 20) x } := by
  simp [Weave.setScal, h, h', hm, show n ≠ 0 by omega, show ¬ 29 ≤ n by omega]

theorem Weave.scal_em (e : Nat) (h : 29 ≤ n) : w.scal (.c e) n = w.em e (n - 29) := by
  simp [Weave.scal, h, show n ≠ 0 by omega]

/-- An entry after a write to the word of EM that number n names (R42). -/
def SplitEntry.setEm (y : SplitEntry) (n : Nat) (x : DWord) : SplitEntry :=
  { y with mask := setWord y.mask (n - 29) (x.setWidth 32 &&& y.owned.extractLsb' (32 * (n - 29)) 32) }

theorem Weave.setScal_em (e : Nat) (h : 29 ≤ n) : w.setScal (.c e) n x = w.setEntry e ((w.entry e).setEm n x) := by
  simp [Weave.setScal, SplitEntry.setEm, h, show n ≠ 0 by omega]

end

theorem getLsbD_setWord (m : LaneMask) (k : Nat) (x : Word) (l : Nat) :
    (setWord m k x).getLsbD l = (decide (l < 96) && if l / 32 = k then x.getLsbD (l % 32) else m.getLsbD l) := by
  rw [setWord, getLsbD_maskOf]

theorem SplitEntry.getLsbD_setEm (y : SplitEntry) (n : Nat) (x : DWord) {l : Nat} (hl : l < 96) :
    (y.setEm n x).mask.getLsbD l = if l / 32 = n - 29 then x.getLsbD (l % 32) && y.owned.getLsbD l else y.mask.getLsbD l := by
  rw [SplitEntry.setEm, getLsbD_setWord, decide_eq_true hl, Bool.true_and]
  split
  next h =>
    have hl' : 32 * (n - 29) + l % 32 = l := by omega
    simp [Nat.mod_lt, hl']
  next => rfl

/-- What a bank of registers reads after a write below its end. -/
theorem getElem?_setIfInBounds_frame {α : Type} {n : Nat} (v : Vector α n) {k : Nat} (x : α) (h : k < n) :
    (v.setIfInBounds k x)[k]? = some x ∧ ∀ j, j ≠ k → (v.setIfInBounds k x)[j]? = v[j]? :=
  ⟨Vector.getElem?_setIfInBounds_self_of_lt h, fun _ hj => Vector.getElem?_setIfInBounds_ne hj.symm⟩

theorem rules_scalarRegisters : Rules.ScalarRegisters := by
  intro w x
  refine ⟨fun st => ⟨w.scal_zero st, w.setScal_zero st x⟩, ?a, ?aBank, ?c, ?sBank, ?em⟩
  case a =>
    intro n hn h0 h
    obtain ⟨hsame, hother⟩ := getElem?_setIfInBounds_frame w.aRegs x hn
    rw [Weave.scal_a _ h0 (by rwa [Weave.setScal_aMode]), w.setScal_a x h0 h]
    exact ⟨hsame, by rw [hsame, Option.getD_some], rfl, hother⟩
  case aBank =>
    intro n h h' hm
    obtain ⟨hsame, hother⟩ := getElem?_setIfInBounds_frame w.aBank x (show n - 56 < 8 by omega)
    rw [Weave.scal_aBank _ h (by rwa [Weave.setScal_aMode]), w.setScal_aBank x h hm]
    exact ⟨hsame, by rw [hsame, Option.getD_some], rfl, hother⟩
  case c =>
    intro e n hn h0 h
    obtain ⟨hsame, hother⟩ := getElem?_setIfInBounds_frame w.sRegs x (show n < 32 by omega)
    rw [Weave.scal_c _ e h0 hn (by rwa [Weave.setScal_cMode]), w.setScal_c x e h0 hn h]
    exact ⟨hsame, by rw [hsame, Option.getD_some], rfl, hother⟩
  case sBank =>
    intro e n h h' hm
    obtain ⟨hsame, hother⟩ := getElem?_setIfInBounds_frame w.sBank x (show n - 20 < 8 by omega)
    rw [Weave.scal_sBank _ e h h' (by rwa [Weave.setScal_cMode]), w.setScal_sBank x e h h' hm]
    exact ⟨hsame, by rw [hsame, Option.getD_some], rfl, hother⟩
  case em =>
    intro e n he hn _
    have hentry : (w.setScal (.c e) n x).entry e = (w.entry e).setEm n x := by
      rw [w.setScal_em x e hn, entry_setEntry_same _ he]
    refine ⟨fun l hl => ?_, fun l hl => ?_, ?_⟩
    · rw [w.scal_em e hn, Weave.em]
      simp [BitVec.getLsbD_extractLsb', hl]
    · rw [hentry, (w.entry e).getLsbD_setEm n x hl]
    · rw [hentry, w.setScal_em x e hn]
      rfl

theorem rules_laneAndPredicateWrites : Rules.LaneAndPredicateWrites := by
  intro w m
  refine ⟨fun n f hn => ⟨fun l _ => ?lanes, fun k => w.lane_setLanes_ne m f, ?length, rfl⟩,
    fun k p hk => ⟨fun l hl => ?preds, fun j => w.pred_setPred_ne m p, w.setPred_same k m p⟩, w.setPred_seven m, rfl⟩
  case lanes => rw [w.lane_setLanes_same m f hn, laneAt_blend]
  case length => rw [w.setLanes_vRegs, List.length_modify]
  case preds =>
    rw [w.pred_setPred_same m p hk]
    rw [BitVec.getLsbD_or, BitVec.getLsbD_and, BitVec.getLsbD_and, BitVec.getLsbD_not]
    cases m.getLsbD l <;> simp [hl]

end Sys2Proof.Machine
end

section
open Sys2Proof Sys2Proof.Machine

/-- Settles O3, by what each class of register numbers names. -/
theorem registerWrites : Obligations.RegisterWrites := ⟨rules_scalarRegisters, rules_laneAndPredicateWrites⟩
end

section
/-! ## Operand patterns (R58) -/

namespace Sys2Proof.Machine

/-- The lane of b that lane l receives, pattern by pattern; `low` is the lane that s1 names under pattern 14 (R58). -/
def patternLanes (low l : Nat) : List Nat :=
  [l, l ^^^ 1, l ^^^ 2, l ^^^ 4, l ^^^ 8, l ^^^ 16, if 96 ≤ l ^^^ 32 then l else l ^^^ 32,
    8 * (l / 8) + (l % 8 + 7) % 8, 8 * (l / 8) + (l % 8 + 1) % 8, 95 - l, 32 * (l / 32) + 31 - l % 32, 8 * (l / 8), 0, 95,
    if low < 96 then low else 0]

theorem patternSrc_eq {s1 : DWord} {l p k : Nat} (h : (patternLanes (s1.toNat % 128) l)[p]? = some k) : patternSrc p s1 l = k := by
  match p with
  | 0 | 1 | 2 | 3 | 4 | 5 | 6 | 7 | 8 | 9 | 10 | 11 | 12 | 13 | 14 => exact Option.some.inj h
  | _ + 15 => cases h

/-- An exchange within blocks of 32 lanes stays in its block. -/
theorem xor_lt_lanes {l m : Nat} (hl : l < 96) (hm : m < 32) : l ^^^ m < 96 := by
  have hdiv : (l ^^^ m) / 2 ^ 5 = l / 2 ^ 5 := by
    rw [Nat.xor_div_two_pow, Nat.div_eq_of_lt (show m < 2 ^ 5 from hm), Nat.xor_zero]
  omega

theorem patternLanes_lt {low l : Nat} (hl : l < 96) : ∀ k ∈ patternLanes low l, k < 96 := by
  have hxor {m : Nat} (hm : m < 32) : l ^^^ m < 96 := xor_lt_lanes hl hm
  simp only [patternLanes, List.forall_mem_cons]
  refine ⟨hl, hxor (by decide), hxor (by decide), hxor (by decide), hxor (by decide), hxor (by decide), ?_⟩
  refine ⟨by split <;> omega, by omega, by omega, by omega, by omega, by omega, by decide, by decide, by split <;> omega, ?_⟩
  exact fun _ h => absurd h List.not_mem_nil

/-- A lane member whose codes are undefined faults ILLEGAL before its body acts (R105). -/
theorem run_codes_undefined {s : State} {w : Weave} {e : Nat} {i : Instr} (body : Body) (hw : s.weave? s.cur.weave = some w)
    (hst : s.cur.strand = .c e) (hm : s.cur.moment = .now) (hs : i.streams = .cOnly) (hu : i.supervisorOnly = false)
    (hk : i.engineKind = 0) (hc : i.codesOk .c = false) :
    run i s body = .next (s.vector s.cur.weave (.c e) (s.info w .illegal accOther)) := by
  have hf : s.decodeFault i w = some .illegal := by
    simp [State.decodeFault, hst, Strand.stream, hs, StreamClass.allows, hu, Instr.wellFormed, hc]
  rw [run_check hw hm hf, State.infoOf, hk, hst]
  rfl

theorem exec_vadd (p : BitVec 4) (b a d : RegField) (s : State) :
    exec (.vadd p b a d) s = lane3 (.vadd p b a d) p b a d s (packed 32 fun x y _ => x + y) := rfl

theorem exec_faddF16 (p : BitVec 4) (b a d : RegField) (s : State) :
    exec (.faddF16 p b a d) s = floatLane (.faddF16 p b a d) fp16 p b a d s true opAdd := rfl

theorem one_mem_touched {w : Weave} {e : Nat} {i : Instr} (h : Opnd.scal 1 ∈ i.operands .c) : 1 ∈ (w.touched (.c e) i).1 :=
  List.mem_filterMap.2 ⟨.scal 1, h, rfl⟩

end Sys2Proof.Machine
end

section
open Sys2Proof Sys2Proof.Machine

/-- Settles O7, by the list of the patterns' lanes. -/
theorem patterns : Obligations.Patterns := by
  intro w st b l hl
  refine ⟨fun p k hk => ⟨congrArg (laneAt _) (patternSrc_eq hk), patternLanes_lt hl k (List.mem_of_getElem? hk)⟩, ?_⟩
  intro f a d e s hw hst hm
  rw [exec_vadd, exec_faddF16]
  exact ⟨run_codes_undefined _ hw hst hm rfl rfl rfl rfl, run_codes_undefined _ hw hst hm rfl rfl rfl rfl,
    one_mem_touched (List.mem_of_getElem? (i := 3) rfl), one_mem_touched (List.mem_of_getElem? (i := 3) rfl)⟩
end

section
/-! ## The frame of the register members (R42, R47, R50, R73, R251) -/

namespace Sys2Proof.Machine

/-! ### As an instruction begins -/

/-- The weave in which the effect of its strand's instruction begins: the PC has moved, the issue is counted. -/
def Weave.begun (w : Weave) (st : Strand) (pc : BitVec 32) : Weave := (w.setPc st pc).countIssue st

theorem setEntry_absent {w : Weave} {e : Nat} (x : SplitEntry) (h : 128 ≤ e) : w.setEntry e x = w := by
  have hsplit : w.split.setIfInBounds e x = w.split := by
    apply Vector.ext
    intro i hi
    rw [Vector.getElem_setIfInBounds, if_neg (by omega)]
  rw [Weave.setEntry, hsplit]

theorem Weave.sameEntries_begun (w : Weave) (st : Strand) (pc : BitVec 32) : Weave.sameEntries st w (w.begun st pc) := by
  intro e
  cases st with
  | a => exact ⟨rfl, fun _ => rfl⟩
  | c k =>
    change { (w.setEntry k { w.entry k with addr := pc }).entry e with addr := (w.entry e).addr } = w.entry e ∧
      (_ → (w.setEntry k { w.entry k with addr := pc }).entry e = w.entry e)
    by_cases he : e = k
    · subst he
      refine ⟨?_, fun h => absurd rfl h⟩
      by_cases hk : e < 128
      · rw [entry_setEntry_same _ hk]
      · rw [setEntry_absent _ (Nat.not_lt.1 hk)]
    · rw [entry_setEntry_ne _ he]
      exact ⟨rfl, fun _ => rfl⟩

theorem Weave.mask_begun (w : Weave) (st : Strand) (pc : BitVec 32) (e : Nat) : ((w.begun st pc).entry e).mask = (w.entry e).mask := by
  have h := congrArg SplitEntry.mask (w.sameEntries_begun st pc e).1
  exact h

/-- What a scalar register of the A-stream reads is fixed by the mode and by the registers that its number can name. -/
theorem Weave.scal_a_congr {v w : Weave} {k : Nat} (hm : v.aMode = w.aMode) (hr : v.aRegs[k]? = w.aRegs[k]?)
    (hb : 56 ≤ k → v.aBank[k - 56]? = w.aBank[k - 56]?) : v.scal .a k = w.scal .a k := by
  by_cases hk : 56 ≤ k
  · simp only [Weave.scal, hm, hr, hb hk]
  · simp [Weave.scal, hr, hk]

theorem Weave.scal_c_congr {v w : Weave} {e k : Nat} (hm : v.cMode = w.cMode) (hr : v.sRegs[k]? = w.sRegs[k]?)
    (hb : 20 ≤ k → v.sBank[k - 20]? = w.sBank[k - 20]?) (hem : 29 ≤ k → v.em e (k - 29) = w.em e (k - 29)) :
    v.scal (.c e) k = w.scal (.c e) k := by
  by_cases hk : 29 ≤ k
  · rw [v.scal_em e hk, w.scal_em e hk, hem hk]
  by_cases hk' : 20 ≤ k
  · simp only [Weave.scal, hm, hr, hb hk', hk, if_false]
  · simp [Weave.scal, hr, hk, hk']

theorem Weave.scal_begun (w : Weave) (st : Strand) (pc : BitVec 32) (x : Strand) (k : Nat) :
    (w.begun st pc).scal x k = w.scal x k := by
  cases x with
  | a => cases st <;> rfl
  | c e =>
    have hem (j : Nat) : (w.begun st pc).em e j = w.em e j := by rw [Weave.em, w.mask_begun, Weave.em]
    cases st <;> exact Weave.scal_c_congr rfl rfl (fun _ => rfl) fun _ => hem _

/-! ### One scalar register -/

theorem Mode.user_or_supervisor (m : Mode) : m = .user ∨ m = .supervisor := by
  cases m
  · exact .inl rfl
  · exact .inr rfl

/-- What a write by the A-stream changes: nothing, a register, or a register of the supervisor bank (R48, R251). -/
theorem Weave.setScal_a_cases (w : Weave) (n : Nat) (x : DWord) :
    w.setScal .a n x = w ∨ w.setScal .a n x = { w with aRegs := w.aRegs.setIfInBounds n x } ∨
      (w.aMode = .supervisor ∧ 56 ≤ n ∧ w.setScal .a n x = { w with aBank := w.aBank.setIfInBounds (n - 56) x }) := by
  by_cases h0 : n = 0
  · exact .inl (h0 ▸ w.setScal_zero .a x)
  by_cases hbank : 56 ≤ n
  · rcases w.aMode.user_or_supervisor with hm | hm
    · exact .inr (.inl (w.setScal_a x h0 (.inr hm)))
    · exact .inr (.inr ⟨hm, hbank, w.setScal_aBank x hbank hm⟩)
  · exact .inr (.inl (w.setScal_a x h0 (.inl (Nat.not_le.1 hbank))))

/-- What a write by the C-stream changes: nothing, a register, a register of the supervisor bank, or a word of EM (R42, R48, R251). -/
theorem Weave.setScal_c_cases (w : Weave) (e n : Nat) (x : DWord) :
    w.setScal (.c e) n x = w ∨ w.setScal (.c e) n x = { w with sRegs := w.sRegs.setIfInBounds n x } ∨
      (w.cMode = .supervisor ∧ 20 ≤ n ∧ w.setScal (.c e) n x = { w with sBank := w.sBank.setIfInBounds (n - 20) x }) ∨
      (29 ≤ n ∧ w.setScal (.c e) n x = w.setEntry e ((w.entry e).setEm n x)) := by
  by_cases h0 : n = 0
  · exact .inl (h0 ▸ w.setScal_zero (.c e) x)
  by_cases hem : 29 ≤ n
  · exact .inr (.inr (.inr ⟨hem, w.setScal_em x e hem⟩))
  have hn : n < 29 := Nat.not_le.1 hem
  by_cases hbank : 20 ≤ n ∧ n < 28
  · rcases w.cMode.user_or_supervisor with hm | hm
    · exact .inr (.inl (w.setScal_c x e h0 hn (.inr (.inr hm))))
    · exact .inr (.inr (.inl ⟨hm, hbank.1, w.setScal_sBank x e hbank.1 hbank.2 hm⟩))
  · exact .inr (.inl (w.setScal_c x e h0 hn (by omega)))

/-- A write to one word of EM leaves the other two (R42). -/
theorem Weave.em_setEm_ne (w : Weave) {e n j : Nat} (x : DWord) (h : j ≠ n - 29) :
    (w.setEntry e ((w.entry e).setEm n x)).em e j = w.em e j := by
  by_cases he : e < 128
  · rw [Weave.em, Weave.em, entry_setEntry_same _ he]
    congr 1
    refine BitVec.eq_of_getLsbD_eq fun l hl => ?_
    rw [BitVec.getLsbD_extractLsb', BitVec.getLsbD_extractLsb']
    by_cases hi : 32 * j + l < 96
    · rw [(w.entry e).getLsbD_setEm n x hi, if_neg (by omega)]
    · rw [BitVec.getLsbD_of_ge _ _ (Nat.not_lt.1 hi), BitVec.getLsbD_of_ge _ _ (Nat.not_lt.1 hi)]
  · rw [setEntry_absent _ (Nat.not_lt.1 he)]

theorem Weave.scal_setScal_a_ne (w : Weave) {d k : Nat} (y : DWord) (h : k ≠ d) : (w.setScal .a d y).scal .a k = w.scal .a k := by
  rcases w.setScal_a_cases d y with hw | hw | ⟨-, hd, hw⟩ <;> rw [hw]
  · exact Weave.scal_a_congr rfl (Vector.getElem?_setIfInBounds_ne h.symm) fun _ => rfl
  · exact Weave.scal_a_congr rfl rfl fun _ => Vector.getElem?_setIfInBounds_ne (by omega)

/-- EM is read by its own fragment alone: a number below it is the same register for every fragment. -/
theorem Weave.scal_setScal_c_ne (w : Weave) {e f d k : Nat} (y : DWord) (h : k ≠ d) (hf : f = e ∨ k < 29) :
    (w.setScal (.c e) d y).scal (.c f) k = w.scal (.c f) k := by
  rcases w.setScal_c_cases e d y with hw | hw | ⟨-, hd, hw⟩ | ⟨hd, hw⟩ <;> rw [hw]
  · exact Weave.scal_c_congr rfl (Vector.getElem?_setIfInBounds_ne h.symm) (fun _ => rfl) fun _ => rfl
  · exact Weave.scal_c_congr rfl rfl (fun _ => Vector.getElem?_setIfInBounds_ne (by omega)) fun _ => rfl
  · refine Weave.scal_c_congr rfl rfl (fun _ => rfl) fun hk => ?_
    obtain rfl : f = e := hf.resolve_right (Nat.not_lt.2 hk)
    exact w.em_setEm_ne y (by omega)

theorem Weave.scal_setScal_stream (w : Weave) {st x : Strand} (d : Nat) (y : DWord) (k : Nat) (h : x.stream ≠ st.stream) :
    (w.setScal st d y).scal x k = w.scal x k := by
  cases st with
  | a => cases x with
    | a => exact absurd rfl h
    | c f => rcases w.setScal_a_cases d y with hw | hw | ⟨-, -, hw⟩ <;> rw [hw] <;> rfl
  | c e => cases x with
    | a => rcases w.setScal_c_cases e d y with hw | hw | ⟨-, -, hw⟩ | ⟨-, hw⟩ <;> rw [hw] <;> rfl
    | c f => exact absurd rfl h

/-- A write to a scalar register leaves the other stream's registers and every other register of its own. -/
theorem Weave.scal_setScal_frame (w : Weave) {st x : Strand} {d k : Nat} (y : DWord)
    (h : x.stream ≠ st.stream ∨ (k ≠ d ∧ (x = st ∨ k < 29))) : (w.setScal st d y).scal x k = w.scal x k := by
  by_cases hs : x.stream = st.stream
  · obtain ⟨hk, hx⟩ := h.resolve_left fun hne => hne hs
    cases st with
    | a => cases x with
      | a => exact w.scal_setScal_a_ne y hk
      | c f => cases hs
    | c e => cases x with
      | a => cases hs
      | c f => exact w.scal_setScal_c_ne y hk (hx.imp_left fun hfe => Strand.c.inj hfe)
  · exact w.scal_setScal_stream d y k hs

/-- In user mode no write reaches the supervisor banks (R251). -/
theorem Weave.banks_setScal (w : Weave) {st : Strand} (d : Nat) (y : DWord) (h : w.mode st = .user) :
    (w.setScal st d y).aBank = w.aBank ∧ (w.setScal st d y).sBank = w.sBank := by
  cases st with
  | a =>
    have hm : w.aMode = .user := h
    rcases w.setScal_a_cases d y with hw | hw | ⟨hs, -, -⟩
    · rw [hw]; exact ⟨rfl, rfl⟩
    · rw [hw]; exact ⟨rfl, rfl⟩
    · cases hm.symm.trans hs
  | c e =>
    have hm : w.cMode = .user := h
    rcases w.setScal_c_cases e d y with hw | hw | ⟨hs, -, -⟩ | ⟨-, hw⟩
    · rw [hw]; exact ⟨rfl, rfl⟩
    · rw [hw]; exact ⟨rfl, rfl⟩
    · cases hm.symm.trans hs
    · rw [hw]; exact ⟨rfl, rfl⟩

/-- Only a write to EM reaches the split table. -/
theorem Weave.split_setScal (w : Weave) {st : Strand} {d : Nat} (y : DWord) (h : st = .a ∨ d < 29) : (w.setScal st d y).split = w.split := by
  cases st with
  | a => rcases w.setScal_a_cases d y with hw | hw | ⟨-, -, hw⟩ <;> rw [hw]
  | c e =>
    rcases w.setScal_c_cases e d y with hw | hw | ⟨-, -, hw⟩ | ⟨hd, -⟩
    · rw [hw]
    · rw [hw]
    · rw [hw]
    · exact absurd (h.resolve_left nofun) (Nat.not_lt.2 hd)

/-- Of an entry a write to a scalar register changes the mask at most, and only of its own fragment's (R42). -/
theorem Weave.entry_setScal (w : Weave) (st : Strand) (d : Nat) (y : DWord) (e : Nat) :
    { (w.setScal st d y).entry e with mask := (w.entry e).mask } = w.entry e ∧ (st ≠ .c e → (w.setScal st d y).entry e = w.entry e) := by
  by_cases h : st = .a ∨ d < 29
  · have hentry : (w.setScal st d y).entry e = w.entry e := by rw [Weave.entry, w.split_setScal y h, ← Weave.entry]
    rw [hentry]
    exact ⟨rfl, fun _ => rfl⟩
  · obtain ⟨hst, hd⟩ := not_or.1 h
    cases st with
    | a => exact absurd rfl hst
    | c f =>
      rw [w.setScal_em y f (Nat.not_lt.1 hd)]
      by_cases hf : e = f
      · subst hf
        refine ⟨?_, fun hne => absurd rfl hne⟩
        by_cases he : e < 128
        · rw [entry_setEntry_same _ he]; rfl
        · rw [setEntry_absent _ (Nat.not_lt.1 he)]
      · rw [entry_setEntry_ne _ hf]
        exact ⟨rfl, fun _ => rfl⟩

/-- What a member leaves of weave w, as it makes v, when it writes scalar register d of a strand. -/
def Weave.ScalarFrame (st : Strand) (d : Nat) (w v : Weave) : Prop :=
  w.sameButScalars v ∧
  (∀ x k, (x.stream ≠ st.stream ∨ (k ≠ d ∧ (x = st ∨ k < 29))) → v.scal x k = w.scal x k) ∧
  (w.mode st = .user → v.aBank = w.aBank ∧ v.sBank = w.sBank) ∧
  (st = .a ∨ d < 29 → Weave.sameEntries st w v) ∧
  ∀ e, { v.entry e with addr := (w.entry e).addr, mask := (w.entry e).mask } = w.entry e ∧ (st ≠ .c e → v.entry e = w.entry e)

theorem Weave.scalarFrame_setScal (w : Weave) (st : Strand) (pc : BitVec 32) (d : Nat) (y : DWord) :
    Weave.ScalarFrame st d w ((w.begun st pc).setScal st d y) := by
  refine ⟨?scalars, fun x k h => ?reads, fun hm => ?banks, fun h e => ?table, fun e => ?entries⟩
  case scalars =>
    have hset := (w.begun st pc).setScal_same st d y
    exact (congrArg (fun u : Weave => { u with
      aRegs := w.aRegs, aBank := w.aBank, sRegs := w.sRegs, sBank := w.sBank, split := w.split, aPc := w.aPc
      aIssued := w.aIssued, cIssued := w.cIssued }) hset).trans (by cases st <;> rfl)
  case reads => rw [Weave.scal_setScal_frame _ y h, w.scal_begun]
  case banks =>
    have hmode : (w.begun st pc).mode st = .user := by cases st <;> exact hm
    obtain ⟨ha, hs⟩ := (w.begun st pc).banks_setScal d y hmode
    rw [ha, hs]
    cases st <;> exact ⟨rfl, rfl⟩
  case table =>
    rw [Weave.entry, Weave.split_setScal _ y h]
    exact w.sameEntries_begun st pc e
  case entries =>
    obtain ⟨hset, hother⟩ := (w.begun st pc).entry_setScal st d y e
    obtain ⟨hbegun, hother'⟩ := w.sameEntries_begun st pc e
    refine ⟨?_, fun hne => (hother hne).trans (hother' hne)⟩
    exact (congrArg (fun y : SplitEntry => { y with addr := (w.entry e).addr, mask := (w.entry e).mask }) hset).trans
      (congrArg (fun y : SplitEntry => { y with mask := (w.entry e).mask }) hbegun)

/-! ### One lane register -/

/-- A change of the generators of a mask's lanes alone (R73). -/
def OnlyDraws (m : LaneMask) (g : Weave → Weave) : Prop :=
  ∀ u : Weave, { g u with gens := u.gens } = u ∧ ∀ l (h : l < 96), m.getLsbD l = false → (g u).gens[l] = u.gens[l]

theorem onlyDraws_id (m : LaneMask) : OnlyDraws m id := fun _ => ⟨rfl, fun _ _ _ => rfl⟩

theorem onlyDraws_advanceBy (m : LaneMask) (k : Nat) : OnlyDraws m fun u => u.advanceBy m k := by
  intro u
  refine ⟨?_, fun l h hm => ?_⟩
  · obtain ⟨gens, hg⟩ := u.advanceBy_gens m k
    simp only [hg]
  change (Vector.ofFn fun j : Fin 96 => if m.getLsbD j.val then advanceGen k ((u.gens[j.val]?).getD 0) else (u.gens[j.val]?).getD 0)[l] = u.gens[l]
  rw [Vector.getElem_ofFn, hm, if_neg Bool.false_ne_true, Vector.getElem?_eq_getElem h, Option.getD_some]

theorem OnlyDraws.ite {m : LaneMask} {f g : Weave → Weave} (c : Weave → Prop) [DecidablePred c] (hf : OnlyDraws m f)
    (hg : OnlyDraws m g) : OnlyDraws m fun u => if c u then f u else g u := by
  intro u
  by_cases h : c u
  · simp only [if_pos h]; exact hf u
  · simp only [if_neg h]; exact hg u

theorem onlyDraws_advance (m : LaneMask) (k : Nat) : OnlyDraws m fun u => u.advance m k :=
  (onlyDraws_advanceBy m k).ite (fun u => (fpMode u.fpctl).round = .stochastic) (onlyDraws_id m)

/-- What a member leaves of weave w, as it makes v, when it writes lane register d in the lanes of ACT. -/
def Weave.LaneFrame (st : Strand) (d : Nat) (w v : Weave) : Prop :=
  w.sameButLanes v ∧ Weave.sameEntries st w v ∧
  (∀ k l, (k ≠ d ∨ (w.act st).getLsbD l = false) → laneAt (v.lane k) l = laneAt (w.lane k) l) ∧
  ∀ l (h : l < 96), (w.act st).getLsbD l = false → v.gens[l] = w.gens[l]

theorem Weave.laneFrame_setLanes (w : Weave) (st : Strand) (pc : BitVec 32) (d : Nat) (f : Nat → Word) {g : Weave → Weave}
    (hg : OnlyDraws (w.act st) g) : Weave.LaneFrame st d w (g ((w.begun st pc).setLanes d (w.act st) f)) := by
  obtain ⟨hsame, hgens⟩ := hg ((w.begun st pc).setLanes d (w.act st) f)
  have hsplit := congrArg Weave.split hsame
  have hregs := congrArg Weave.vRegs hsame
  generalize g ((w.begun st pc).setLanes d (w.act st) f) = v at hsame hgens hsplit hregs ⊢
  refine ⟨?others, fun e => ?entries, fun k l h => ?lanes, fun l h hm => (hgens l h hm).trans ?gens⟩
  case others =>
    exact (congrArg (fun u : Weave => { u with
      vRegs := w.vRegs, gens := w.gens, split := w.split, aPc := w.aPc, aIssued := w.aIssued, cIssued := w.cIssued }) hsame).trans
      (by cases st <;> rfl)
  case entries =>
    have hentry : v.entry e = (w.begun st pc).entry e := congrArg (fun t : Vector SplitEntry 128 => (t[e]?).getD SplitEntry.empty) hsplit
    rw [hentry]
    exact w.sameEntries_begun st pc e
  case lanes =>
    have hlane : v.lane k = ((w.begun st pc).setLanes d (w.act st) f).lane k := congrArg (fun r : List LaneReg => r.getD k LaneReg.zero) hregs
    rw [hlane, Weave.laneAt_setLanes_frame _ f h]
    cases st <;> rfl
  case gens => cases st <;> rfl

/-! ### What each member writes -/

section
variable {s : State} {w : Weave} {i : Instr} {d : RegField}

/-- An outcome that gives scalar register d of the acting strand a value. -/
def State.WritesScalar (s : State) (d : RegField) (o : Host.Outcome State Fault Refusal) : Prop :=
  ∃ x, o = .next (s.issued.onMe fun v => v.setScal s.cur.strand d.toNat x)

theorem State.Ready.run_writeScal (h : s.Ready i w) (f : Weave → State → DWord) :
    s.WritesScalar d (run i s fun w t => writeScal t d (f w t)) := ⟨_, run_ok h rfl⟩

theorem State.Ready.salu (h : s.Ready i w) (b a : RegField) (f : DWord → DWord → DWord) : s.WritesScalar d (salu i b a d s f) :=
  h.run_writeScal _

theorem State.Ready.salui (h : s.Ready i w) (a : RegField) (f : DWord → DWord) : s.WritesScalar d (salui i a d s f) :=
  h.run_writeScal _

/-- An outcome that writes lane register d in the lanes of ACT and draws there. -/
def State.WritesLane (s : State) (w : Weave) (d : RegField) (o : Host.Outcome State Fault Refusal) : Prop :=
  ∃ f g, OnlyDraws (w.act s.cur.strand) g ∧ o = .next (s.issued.onMe fun v => g (v.setLanes d.toNat (w.act s.cur.strand) f))

theorem State.Ready.run_writeLanes (h : s.Ready i w) (f : Weave → State → Nat → Word) :
    s.WritesLane w d (run i s fun w t => writeLanes w t d.toNat (f w t)) := ⟨_, id, onlyDraws_id _, run_ok h rfl⟩

theorem State.Ready.run_writeDrawing (h : s.Ready i w) (k : Nat) (f : Weave → State → Nat → Word) :
    s.WritesLane w d (run i s fun w t => writeDrawing w t d.toNat k (f w t)) :=
  ⟨_, _, onlyDraws_advance _ k, run_ok h rfl⟩

theorem State.Ready.lane3 (h : s.Ready i w) (p : BitVec 4) (b a : RegField) (f : Word → Word → Word → Word) :
    s.WritesLane w d (lane3 i p b a d s f) := h.run_writeLanes _

theorem State.Ready.lane2 (h : s.Ready i w) (p : BitVec 4) (b : RegField) (f : Word → Word → Word) :
    s.WritesLane w d (lane2 i p b d s f) := h.run_writeLanes _

theorem State.Ready.laneImm (h : s.Ready i w) (a : RegField) (f : Word → Word) : s.WritesLane w d (laneImm i a d s f) :=
  h.run_writeLanes _

theorem State.Ready.floatLane (h : s.Ready i w) (f : Fmt) (p : BitVec 4) (b a : RegField) (draws : Bool) (op : FloatOp) :
    s.WritesLane w d (floatLane i f p b a d s draws op) := h.run_writeDrawing _ _

theorem State.Ready.sfu (h : s.Ready i w) (p : BitVec 4) (b a : RegField) (f : FpMode → Nat → Fp → Fp → Nat) :
    s.WritesLane w d (sfu i p b a d s f) := h.run_writeDrawing _ _

/-- FRND draws by the rounding that its field names (R328). -/
theorem State.Ready.execFrnd {p : BitVec 4} {b : RegField} {m : BitVec 3} (h : s.Ready (.frnd p b m d) w) :
    s.WritesLane w d (execFrnd p b m d s) :=
  ⟨_, _, (onlyDraws_advanceBy _ 1).ite (fun _ => frndMode (fpMode w.fpctl) m = .stochastic) (onlyDraws_id _), run_ok h rfl⟩

theorem check_eq_none_iff {α : Type} {c : Prop} [Decidable c] {x : α} {r : Option α} :
    (if c then some x else r) = none ↔ ¬c ∧ r = none := by
  by_cases h : c <;> simp [h]

/-- The checks of R105 (steps 6 to 9) that an instruction passes. -/
theorem decodeFault_eq_none_iff : s.decodeFault i w = none ↔
    i.streams.allows s.cur.strand.stream = true ∧ ¬(i.supervisorOnly = true ∧ w.mode s.cur.strand = .user) ∧
      i.wellFormed s.cur.strand.stream = true ∧ s.codesSuit i w = true ∧
      (i.operands s.cur.strand.stream).all (Opnd.inBound w.nregs) = true := by
  simp only [State.decodeFault, check_eq_none_iff]
  simp [and_assoc]

/-- A member ready to act whose 16-bit form stands for another is ready as that other: it names no further register (R100). -/
theorem State.Ready.of_form {j : Instr} (h : s.Ready i w) (hs : j.streams = i.streams) (hu : j.supervisorOnly = i.supervisorOnly)
    (hwf : j.wellFormed s.cur.strand.stream = true) (hcodes : s.codesSuit j w = s.codesSuit i w)
    (hops : j.operands s.cur.strand.stream ⊆ i.operands s.cur.strand.stream) : s.Ready j w := by
  obtain ⟨hw, hf, hm⟩ := h
  obtain ⟨hstream, hmode, -, hsuit, hbound⟩ := decodeFault_eq_none_iff.1 hf
  refine ⟨hw, decodeFault_eq_none_iff.2 ⟨hs ▸ hstream, hu ▸ hmode, hwf, hcodes ▸ hsuit, ?_⟩, hm⟩
  exact List.all_eq_true.2 fun o ho => List.all_eq_true.1 hbound o (hops ho)

/-- The lane registers that a 16-bit form names are those of the word for which it stands (R100). -/
theorem shortOpnds_subset (b : BitVec 5) (d : RegField) :
    [Opnd.lane d.toNat, .lane d.toNat, .lane (b.setWidth 6).toNat] ⊆ [.lane d.toNat, .lane b.toNat] := by
  have hb : (b.setWidth 6).toNat = b.toNat := BitVec.toNat_setWidth_of_le (by decide)
  simp [hb]

theorem State.Ready.writesScalar (h : s.Ready i w) (hd : i.scalarDest = some d) : s.WritesScalar d (exec i s) := by
  cases i with
  | add | sub | mul | mulh | divu | remu | and | or | xor | shl | shr | sar | slt | sltu | min | max =>
    cases hd
    unfold Machine.exec
    exact h.salu _ _ _
  | addi | andi | ori | xori | shli | shri | sari | slti | clz | popc =>
    cases hd
    unfold Machine.exec
    exact h.salui _ _
  | sel | clock | movi | movk | vote | qstat =>
    cases hd
    unfold Machine.exec
    exact h.run_writeScal _
  | _ => cases hd

theorem State.Ready.writesLane (h : s.Ready i w) (hd : i.laneDest = some d) : s.WritesLane w d (exec i s) := by
  cases i with
  | vadd | vsub | vmul | vmulh | vmulhu | vmad | vand | vor | vxor | vshl | vshr | vsar | vmin | vmax | vadds | vsubs | vaddI16 | vsubI16
  | vmulI16 | vmulhI16 | vmulhuI16 | vmadI16 | vandI16 | vorI16 | vxorI16 | vshlI16 | vshrI16 | vsarI16 | vminI16 | vmaxI16 | vaddsI16
  | vsubsI16 | vaddI8 | vsubI8 | vmulI8 | vmulhI8 | vmulhuI8 | vmadI8 | vandI8 | vorI8 | vxorI8 | vshlI8 | vshrI8 | vsarI8 | vminI8
  | vmaxI8 | vaddsI8 | vsubsI8 | vdot4 | vminu | vmaxu =>
    cases hd
    unfold Machine.exec
    exact h.lane3 _ _ _ _
  | vabs | vclz | vpopc | vmov | vext | vins | fclass =>
    cases hd
    unfold Machine.exec
    exact h.lane2 _ _ _
  | vaddi | vandi | vori | vxori | vshli | vshri | vsari =>
    cases hd
    unfold Machine.exec
    exact h.laneImm _ _
  | vsel | vbcst | vmovi | vperm | dqblk | vred | vscan =>
    cases hd
    unfold Machine.exec
    exact h.run_writeLanes _
  | fadd | fsub | fmul | fma | fnma | fmin | fmax | fabs | fneg | faddF16 | fsubF16 | fmulF16 | fmaF16 | fminF16 | fmaxF16 | faddBf16
  | fsubBf16 | fmulBf16 | fmaBf16 | fminBf16 | fmaxBf16 =>
    cases hd
    unfold Machine.exec
    exact h.floatLane _ _ _ _ _ _
  | fsign | fscale | fdot2F16 | fdot2Bf16 | fcvt =>
    cases hd
    unfold Machine.exec
    exact h.run_writeDrawing _ _
  | frnd =>
    cases hd
    exact h.execFrnd
  | frcp | frsq | fsqrt | fdiv | fexp2 | flog2 | fsin | fcos | ftanh =>
    cases hd
    unfold Machine.exec
    exact h.sfu _ _ _ _
  | vaddN | vsubN | vmulN | vandN | vorN | vxorN | vshlN | vshrN | vsarN | vminN | vmaxN =>
    cases hd
    unfold Machine.exec
    refine State.Ready.lane3 ?_ _ _ _ _
    exact h.of_form rfl rfl rfl rfl (shortOpnds_subset _ _)
  | vmovN =>
    cases hd
    unfold Machine.exec
    refine State.Ready.lane2 ?_ _ _ _
    exact h.of_form rfl rfl rfl rfl (List.subset_of_cons_subset (shortOpnds_subset _ _))
  | faddN | fsubN | fmulN | fmaxN =>
    cases hd
    unfold Machine.exec
    refine State.Ready.floatLane ?_ _ _ _ _ _ _
    exact h.of_form rfl rfl rfl rfl (shortOpnds_subset _ _)
  | _ => cases hd

theorem Weave.pc_setScal (w : Weave) (st : Strand) (n : Nat) (x : DWord) : (w.setScal st n x).pc st = w.pc st := by
  cases st with
  | a => exact w.setScal_aPc .a n x
  | c e =>
    have h := congrArg SplitEntry.addr (w.entry_setScal (.c e) n x e).1
    exact h

theorem OnlyDraws.id {m : LaneMask} {g : Weave → Weave} (hg : OnlyDraws m g) (u : Weave) : (g u).id = u.id := by
  have h := congrArg Weave.id (hg u).1
  exact h

theorem OnlyDraws.pc {m : LaneMask} {g : Weave → Weave} (hg : OnlyDraws m g) (u : Weave) (st : Strand) : (g u).pc st = u.pc st := by
  have h := congrArg (Weave.pc · st) (hg u).1
  cases st <;> exact h

theorem State.WritesScalar.frame {o : Host.Outcome State Fault Refusal} (ho : s.WritesScalar d o) (hw : s.weave? s.cur.weave = some w)
    (ht : s.cur.strand.inTable = true) : ∃ t v, o = .next t ∧ s.WritesOnly t v ∧ Weave.ScalarFrame s.cur.strand d.toNat w v := by
  obtain ⟨x, rfl⟩ := ho
  exact ⟨_, _, rfl, writesOnly_onMe hw ht (fun v => v.setScal_id _ _ _) (fun v => v.pc_setScal _ _ _), w.scalarFrame_setScal _ _ _ _⟩

theorem State.WritesLane.frame {o : Host.Outcome State Fault Refusal} (ho : s.WritesLane w d o) (hw : s.weave? s.cur.weave = some w)
    (ht : s.cur.strand.inTable = true) : ∃ t v, o = .next t ∧ s.WritesOnly t v ∧ Weave.LaneFrame s.cur.strand d.toNat w v := by
  obtain ⟨f, g, hg, rfl⟩ := ho
  exact ⟨_, _, rfl, writesOnly_onMe hw ht (fun v => hg.id _) (fun v => hg.pc _ _), w.laneFrame_setLanes _ _ _ _ hg⟩
end

end Sys2Proof.Machine
end

section
open Sys2Proof Sys2Proof.Machine

/-- Settles O57, by the one register that each member writes and the frames of a scalar and of a lane register. -/
theorem registerFrames : Obligations.RegisterFrames := by
  intro i d s w h ht
  exact ⟨fun hd => (h.writesScalar hd).frame h.1 ht, fun hd => (h.writesLane hd).frame h.1 ht⟩
end

section
/-! ## Queues: QPUSH, QPOP, QPEEK and QSTAT (R53, R54, R55) -/

namespace Sys2Proof.Machine

section
variable {s : State} {w : Weave} {i : Instr} {body : Body}

theorem State.Ready.run_failing {c : Cause} {a : Nat} (h : s.Ready i w) (hb : body w s.issued = failing s.issued w c a) :
    run i s body = .next (s.vector s.cur.weave s.cur.strand (s.info w c a)) := run_stop h hb fun _ => nofun

theorem State.Ready.run_wait {on : WaitOn} (h : s.Ready i w) (hb : body w s.issued = .error (.wait on)) :
    run i s body = .next (s.startWait on) := run_stop h hb fun _ => nofun

end

/-! ### Entries -/

theorem pushesInto_iff (st : Strand) (q : Nat) : pushesInto st.stream q = true ↔ (st = .a ∧ q < 2) ∨ (st ≠ .a ∧ 2 ≤ q) := by
  cases st <;> simp [Strand.stream, pushesInto]

theorem pushesInto_eq_false_iff (st : Strand) (q : Nat) :
    pushesInto st.stream q = false ↔ ¬((st = .a ∧ q < 2) ∨ (st ≠ .a ∧ 2 ≤ q)) := by
  rw [← pushesInto_iff, Bool.not_eq_true]

/-- A lane register goes whole, and only from the C-stream under kind 0 (R55). -/
theorem pushed_eq (w : Weave) (st : Strand) (k : BitVec 1) (a : Nat) :
    pushed w st k a = if st ≠ .a ∧ k = 0 then .vector (w.lane a) else .scalar (w.scal st a) := by
  cases st with
  | a => simp [pushed]
  | c e => simp [pushed]

theorem Queue.pop_eq : Queue.pop = fun x => { x with entries := x.entries.tail, head := (x.head + 1) % x.depth } := by
  funext x
  rw [Queue.pop, Queue.popMany, List.drop_one]

theorem Queue.head?_of_complete {q : Queue} {e : QEntry} (h : q.entries.head? = some e) (hc : e.complete = true) : q.head? = some e := by
  rw [Queue.head?, h, Option.bind_some, if_pos hc]

theorem Queue.head?_of_incomplete {q : Queue} (h : ∀ e, q.entries.head? = some e → e.complete = false) : q.head? = none := by
  rw [Queue.head?]
  cases he : q.entries.head? with
  | none => rfl
  | some e => rw [Option.bind_some, h e he, if_neg Bool.false_ne_true]

/-- A scalar popped into a lane register: its halves in lanes 0 and 1 (R55). -/
theorem QData.lane_scalar (y : DWord) : QData.lane (.scalar y) = fun l =>
    BitVec.ofNat 32 (if l = 0 then y.toNat else if l = 1 then y.toNat / 2 ^ 32 else 0) := by
  funext l
  have hlow : y.extractLsb' 0 32 = BitVec.ofNat 32 y.toNat := by
    rw [BitVec.extractLsb', Nat.shiftRight_zero]
  have hhigh : y.extractLsb' 32 32 = BitVec.ofNat 32 (y.toNat / 2 ^ 32) := by
    rw [BitVec.extractLsb', Nat.shiftRight_eq_div_pow]
  rw [QData.lane, hlow, hhigh]
  split_ifs <;> rfl

/-! ### QPUSH -/

section
variable {s : State} {w : Weave} {k : BitVec 1} {q : BitVec 2} {a d : RegField}

theorem exec_qpush_of_misuse (h : s.Ready (.qpush a k q) w) (hp : pushesInto s.cur.strand.stream q.toNat = false) :
    exec (.qpush a k q) s = .next (s.vector s.cur.weave s.cur.strand (s.info w .queueMisuse accQueue)) := by
  unfold exec
  exact h.run_failing (if_pos (by simp [hp]))

theorem exec_qpush_of_full (h : s.Ready (.qpush a k q) w) (hp : pushesInto s.cur.strand.stream q.toNat = true)
    (hfull : (w.queue q.toNat).hasRoom = false) : exec (.qpush a k q) s = .next (s.startWait (.queueRoom q.toNat)) := by
  unfold exec
  exact h.run_wait ((if_neg (by simp [hp])).trans (if_pos (by simp [hfull])))

theorem exec_qpush_of_room (h : s.Ready (.qpush a k q) w) (hp : pushesInto s.cur.strand.stream q.toNat = true)
    (hroom : (w.queue q.toNat).hasRoom = true) :
    exec (.qpush a k q) s = .next (State.onMe { s.issued with nextId := s.nextId + 1 } fun u => u.onQueue q.toNat fun x =>
      x.push (.filled s.nextId (pushed w s.cur.strand k a.toNat))) := by
  unfold exec
  exact run_ok h ((if_neg (by simp [hp])).trans (if_neg (by simp [hroom])))

/-! ### QPOP and QPEEK -/

/-- The state in which the head of queue q has been removed, where it is to be. -/
def State.popped (s : State) (q : Nat) (remove : Bool) : State := if remove then s.onMe fun x => x.onQueue q Queue.pop else s

theorem State.popped_cur (s : State) (q : Nat) (remove : Bool) : (s.popped q remove).cur = s.cur := by
  cases remove <;> rfl

section
variable {i : Instr} {n : Nat} {remove : Bool} {e : QEntry}

theorem State.Ready.pop_of_push (h : s.Ready i w) (hp : pushesInto s.cur.strand.stream n = true) :
    run i s (popBody k n d remove) = .next (s.vector s.cur.weave s.cur.strand (s.info w .queueMisuse accQueue)) :=
  h.run_failing (if_pos hp)

theorem State.Ready.pop_of_no_head (h : s.Ready i w) (hp : pushesInto s.cur.strand.stream n = false) (hh : (w.queue n).head? = none) :
    run i s (popBody k n d remove) = .next (s.startWait (.queueHead n 1)) :=
  h.run_wait (by simp [popBody, hp, hh])

theorem State.Ready.pop_lanes (h : s.Ready i w) (hp : pushesInto s.cur.strand.stream n = false) (hh : (w.queue n).head? = some e)
    (hs : s.cur.strand.stream = .c) (hk : k = 0) : run i s (popBody k n d remove) =
      .next ((s.issued.popped n remove).onMe fun u => u.setLanes d.toNat (w.act s.cur.strand) e.data.lane) := by
  refine run_ok h ?_
  rw [← State.issued_cur s, ← s.issued.popped_cur n remove]
  simp only [popBody, State.issued_cur, hp, hh, Bool.false_eq_true, if_false]
  exact if_pos (by simp [hs, hk])

theorem State.Ready.pop_vector {v : LaneReg} (h : s.Ready i w) (hp : pushesInto s.cur.strand.stream n = false)
    (hh : (w.queue n).head? = some e) (hs : ¬(s.cur.strand.stream = .c ∧ k = 0)) (he : e.data = .vector v) :
    run i s (popBody k n d remove) = .next (s.vector s.cur.weave s.cur.strand (s.info w .queueMisuse accQueue)) := by
  refine h.run_failing ?_
  simp only [popBody, State.issued_cur, hp, hh, he, Bool.false_eq_true, if_false]
  exact if_neg fun hc => hs (((Bool.and_eq_true _ _).mp hc).imp of_decide_eq_true of_decide_eq_true)

theorem State.Ready.pop_scalar {x : DWord} (h : s.Ready i w) (hp : pushesInto s.cur.strand.stream n = false)
    (hh : (w.queue n).head? = some e) (hs : ¬(s.cur.strand.stream = .c ∧ k = 0)) (he : e.data = .scalar x) :
    run i s (popBody k n d remove) = .next ((s.issued.popped n remove).onMe fun u => u.setScal s.cur.strand d.toNat x) := by
  refine run_ok h ?_
  rw [← State.issued_cur s, ← s.issued.popped_cur n remove]
  simp only [popBody, State.issued_cur, hp, hh, he, Bool.false_eq_true, if_false]
  exact if_neg fun hc => hs (((Bool.and_eq_true _ _).mp hc).imp of_decide_eq_true of_decide_eq_true)

end

/-- A lane register is popped in the C-stream under kind 0; otherwise a scalar register (R55). -/
theorem not_lanePop_iff (st : Strand) (k : BitVec 1) : ¬(st.stream = .c ∧ k = 0) ↔ st = .a ∨ k = 1 := by
  have hk : ¬k = 0 ↔ k = 1 := by revert k; decide
  rw [not_and, hk, ← Decidable.not_imp_not, ← or_iff_not_imp_left]
  cases st with
  | a => simp [Strand.stream]
  | c e => simp [Strand.stream]

theorem exec_qpop (k : BitVec 1) (q : BitVec 2) (d : RegField) (s : State) :
    exec (.qpop k q d) s = run (.qpop k q d) s (popBody k q.toNat d true) := rfl

theorem exec_qpeek (k : BitVec 1) (q : BitVec 2) (d : RegField) (s : State) :
    exec (.qpeek k q d) s = run (.qpeek k q d) s (popBody k q.toNat d false) := rfl

theorem exec_qstat (h : s.Ready (.qstat q d) w) :
    exec (.qstat q d) s = .next (s.issued.onMe fun u => u.setScal s.cur.strand d.toNat (w.queue q.toNat).status) := by
  unfold exec
  exact run_ok h rfl

end

end Sys2Proof.Machine
end

section
open Sys2Proof Sys2Proof.Machine

/-- Settles O16, by the streams' directions and the head of the queue. -/
theorem queues : Obligations.Queues := by
  intro k q a d s w st queue forth misuse source
  have hforth : pushesInto st.stream q.toNat = true ↔ forth := pushesInto_iff st q.toNat
  have hback : pushesInto st.stream q.toNat = false ↔ ¬forth := pushesInto_eq_false_iff st q.toNat
  refine ⟨fun h => ⟨fun hf => exec_qpush_of_misuse h (hback.2 hf), fun hf hfull => ?full, fun hf hroom => ?room⟩, ?pops, fun h => ?status⟩
  case full => exact exec_qpush_of_full h (hforth.2 hf) (decide_eq_false (Nat.not_lt.2 hfull))
  case room =>
    rw [exec_qpush_of_room h (hforth.2 hf) (decide_eq_true hroom), pushed_eq]
    rfl
  case pops =>
    intro i remove hi h popped
    have hexec : exec i s = run i s (popBody k q.toNat d remove) := by
      simp only [List.mem_cons, Prod.mk.injEq, List.not_mem_nil, or_false] at hi
      obtain ⟨rfl, rfl⟩ | ⟨rfl, rfl⟩ := hi
      · exact exec_qpop k q d s
      · exact exec_qpeek k q d s
    have hpopped : popped = s.issued.popped q.toNat remove := by
      simp only [popped, State.popped, Queue.pop_eq]
    have hstream (hs : st ≠ .a) : st.stream = .c := by
      cases hst : st with
      | a => exact absurd hst hs
      | c e => rfl
    simp only [misuse, hexec, hpopped]
    refine ⟨fun hf => h.pop_of_push (hforth.2 hf), fun hf he => h.pop_of_no_head (hback.2 hf) (Queue.head?_of_incomplete he),
      fun e hf he hc => ?_⟩
    have hp := hback.2 hf
    have hhead := Queue.head?_of_complete he hc
    refine ⟨fun v hs hk hv => ?_, fun v hs hk hv => ?_, fun v hs hv => ?_, fun v hs hv => ?_⟩
    · rw [h.pop_lanes hp hhead (hstream hs) hk, hv]
      rfl
    · rw [h.pop_lanes hp hhead (hstream hs) hk, hv, QData.lane_scalar]
    · exact h.pop_vector hp hhead ((not_lanePop_iff st k).2 hs) hv
    · exact h.pop_scalar hp hhead ((not_lanePop_iff st k).2 hs) hv
  case status =>
    intro scalarHead
    have hhead : scalarHead = ofBool queue.scalarHead := by
      simp only [scalarHead, Queue.scalarHead, Queue.head?]
      cases queue.entries.head? with
      | none => rfl
      | some e =>
        obtain ⟨ticket, data, complete, refill, kept⟩ := e
        cases complete with
        | false => cases data <;> rfl
        | true => cases data <;> rfl
    rw [exec_qstat h, hhead, Queue.status, Queue.completeFromHead, Nat.mul_comm 256, Nat.mul_comm 65536]
    rfl
end

section
/-! ## The control registers (R60, R61, R62, R73, R241, R341) -/

namespace Sys2Proof.Machine

/-! ### Fields of a doubleword -/

theorem ofNat_field_low {n : Nat} (m x : Nat) (h : n ≤ m) : BitVec.ofNat n (x / 2 ^ 0 % 2 ^ m) = BitVec.ofNat n x := by
  refine BitVec.eq_of_toNat_eq ?_
  rw [BitVec.toNat_ofNat, BitVec.toNat_ofNat, pow_zero, Nat.div_one, Nat.mod_mod_of_dvd _ (pow_dvd_pow 2 h)]

theorem setWidth_eq_field {n m : Nat} (v : BitVec n) (k : Nat) (h : m ≤ k) : v.setWidth m = BitVec.ofNat m (v.toNat / 2 ^ 0 % 2 ^ k) := by
  rw [ofNat_field_low k v.toNat h, BitVec.ofNat_toNat]

theorem setWidth_eq_ofNat_mod {n : Nat} (x : BitVec n) (m : Nat) : x.setWidth m = BitVec.ofNat m (x.toNat % 2 ^ n) := by
  rw [BitVec.toNat_mod_cancel, BitVec.ofNat_toNat]

theorem ofNat_mod_self (n x : Nat) : BitVec.ofNat n x = BitVec.ofNat n (x % 2 ^ n) := by
  refine BitVec.eq_of_toNat_eq ?_
  rw [BitVec.toNat_ofNat, BitVec.toNat_ofNat, Nat.mod_mod]

theorem extractLsb'_eq_ofNat_mod {n : Nat} (v : BitVec n) (lo k : Nat) : v.extractLsb' lo k = BitVec.ofNat k (v.toNat / 2 ^ lo % 2 ^ k) := by
  rw [BitVec.extractLsb', Nat.shiftRight_eq_div_pow, ofNat_mod_self]

theorem bitAt_eq_testBit (x i : Nat) : bitAt x i = x.testBit i := by
  rw [bitAt, Nat.testBit_eq_decide_div_mod_eq]
  rfl

theorem bitAt_toNat {n : Nat} (v : BitVec n) (i : Nat) : bitAt v.toNat i = v.getLsbD i := bitAt_eq_testBit _ _

/-- A doubleword with the fields between bits `lo` and `hi` cleared, as the sum of the two parts that stay. -/
theorem and_outer_eq {m : DWord} {lo hi : Nat} (hm : ∀ i, i < 64 → m.getLsbD i = (decide (i < lo) || decide (hi ≤ i))) (hle : lo ≤ hi)
    (v : DWord) : v &&& m = BitVec.ofNat 64 (2 ^ hi * (v.toNat / 2 ^ hi) + v.toNat % 2 ^ lo) := by
  refine BitVec.eq_of_getLsbD_eq fun i hi' => ?_
  have hlt : v.toNat % 2 ^ lo < 2 ^ hi := lt_of_lt_of_le (Nat.mod_lt _ (by positivity)) (Nat.pow_le_pow_right (by decide) hle)
  rw [BitVec.getLsbD_and, hm i hi', BitVec.getLsbD_ofNat, decide_eq_true hi', Bool.true_and, Nat.testBit_two_pow_mul_add _ hlt,
    Nat.testBit_mod_two_pow, Nat.testBit_div_two_pow, BitVec.getLsbD]
  by_cases h : i < hi
  · simp [h, Nat.not_le.2 h, Bool.and_comm]
  · simp [h, Nat.not_lt.1 h]

/-! ### What the control registers read -/

theorem setWidth_extractLsb' (m : LaneMask) (lo : Nat) : (m.extractLsb' lo 32).setWidth 64 = BitVec.ofNat 64 (m.toNat / 2 ^ lo % 2 ^ 32) := by
  rw [← BitVec.ofNat_toNat, BitVec.extractLsb'_toNat, Nat.shiftRight_eq_div_pow]

theorem Weave.mdef_eq (w : Weave) (st : Strand) : w.mdef st = if st.stream = .a then w.mdefA else w.mdefC := by
  cases st <;> rfl

theorem weight_ofBool (b : Bool) (n : Nat) : (if b then n else 0) = n * ofBool b := by
  cases b <;> simp [ofBool]

theorem Weave.bvstat_eq (w : Weave) : w.bvstat =
    ((List.range 4).map fun k => if w.views[k]!.valid then 2 ^ k else 0).sum +
      16 * ((List.range 4).map fun k => if w.views[k]!.expired then 2 ^ k else 0).sum := by
  have hview (k : Nat) (h : k < 4) : w.views[k]! = (w.views[k]?).getD default := by
    rw [getElem!_pos w.views k h, Vector.getElem?_eq_getElem h, Option.getD_some]
  have hrange : List.range 4 = [0, 1, 2, 3] := rfl
  rw [Weave.bvstat, hrange]
  simp only [List.map_cons, List.map_nil, List.sum_cons, List.sum_nil, weight_ofBool, hview 0 (by decide), hview 1 (by decide),
    hview 2 (by decide), hview 3 (by decide)]
  ring

section
variable {s : State} {w : Weave} {a c d : RegField} {st : Strand} {n : Nat}

theorem ctrlSupervisor_iff : ctrlSupervisor n = true ↔ n = 8 ∨ n = 13 ∨ n = 14 := by
  simp [ctrlSupervisor, or_assoc]

theorem ctrlFault_of_ge (h : 20 ≤ n) (x : Option DWord) : ctrlFault w st n x = some .illegal := if_pos h

theorem ctrlFault_of_user (h : n = 8 ∨ n = 13 ∨ n = 14) (hm : w.mode st = .user) (x : Option DWord) :
    ctrlFault w st n x = some .priv :=
  (if_neg (by omega)).trans (if_pos (by simp [ctrlSupervisor_iff.2 h, hm]))

theorem ctrlFault_read (h : n < 20) (hm : (n = 8 ∨ n = 13 ∨ n = 14) → w.mode st = .supervisor) : ctrlFault w st n none = none := by
  refine (if_neg (Nat.not_le.2 h)).trans (if_neg fun hc => ?_)
  obtain ⟨hn, hu⟩ := (Bool.and_eq_true _ _).mp hc
  cases (hm (ctrlSupervisor_iff.1 hn)).symm.trans (of_decide_eq_true hu)

theorem exec_mfc_of_fault (h : s.Ready (.mfc c d) w) {e : Cause} (hf : ctrlFault w s.cur.strand c.toNat none = some e) :
    exec (.mfc c d) s = .next (s.vector s.cur.weave s.cur.strand (s.info w e accOther)) := by
  unfold exec
  exact h.run_failing (by simp [hf])

theorem exec_mfc_of_ok (h : s.Ready (.mfc c d) w) (hf : ctrlFault w s.cur.strand c.toNat none = none) : exec (.mfc c d) s =
    .next (s.issued.onMe fun u => u.setScal s.cur.strand d.toNat (s.ctrl w s.cur.strand c.toNat)) := by
  unfold exec
  exact run_ok h (by simp only [State.issued_cur, hf]; rfl)

/-- The checks of an MTC, in order (R60, R61, R62). -/
theorem ctrlFault_write (v : DWord) : ctrlFault w st n (some v) =
    if 20 ≤ n then some .illegal
    else if (n = 8 ∨ n = 13 ∨ n = 14) ∧ w.mode st = .user then some .priv
    else if st = .a ∧ n ∈ [1, 2, 3, 6, 7, 8, 10, 11, 12] then some .stream
    else if n ∈ [9, 15, 16, 17, 19] then some .illegal
    else if ctrlAccepts w n v = false then some .illegal
    else none := by
  have hst : st.stream = .a ↔ st = .a := by cases st <;> simp [Strand.stream]
  simp only [ctrlFault, Bool.and_eq_true, decide_eq_true_eq, ctrlSupervisor_iff, hst, ctrlCOnly, ctrlReadOnly, List.contains_iff_mem,
    Bool.not_eq_true']

theorem exec_mtc_of_fault (h : s.Ready (.mtc a c) w) {e : Cause}
    (hf : ctrlFault w s.cur.strand c.toNat (some (w.scal s.cur.strand a.toNat)) = some e) :
    exec (.mtc a c) s = .next (s.vector s.cur.weave s.cur.strand (s.info w e accOther)) := by
  unfold exec
  exact h.run_failing (by simp [reg, hf])

theorem exec_mtc_of_ok (h : s.Ready (.mtc a c) w)
    (hf : ctrlFault w s.cur.strand c.toNat (some (w.scal s.cur.strand a.toNat)) = none) :
    let t := s.issued.onMe fun u => u.setCtrl s.cur.strand c.toNat (w.scal s.cur.strand a.toNat)
    exec (.mtc a c) s = .next (if c.toNat = 8 then t.renewInjection s.cur.weave else t) := by
  intro t
  unfold exec
  refine run_ok h ?_
  simp only [State.issued_cur, reg, hf, weave?_name h.1]
  rfl

end

theorem rules_controlReads : Rules.ControlReads := by
  intro c d s w h low views value supervisor
  have hvalue : ∀ p ∈ value, p.1 < 20 ∧ s.ctrl w s.cur.strand p.1 = p.2 := by
    simp only [value, List.forall_mem_cons]
    refine ⟨⟨by decide, ?mdef⟩, ⟨by decide, rfl⟩, ⟨by decide, ?gang⟩, ⟨by decide, ?pair⟩, ⟨by decide, setWidth_eq_ofNat_mod _ _⟩,
      ⟨by decide, ?views⟩, ⟨by decide, setWidth_eq_ofNat_mod _ _⟩, ⟨by decide, setWidth_eq_ofNat_mod _ _⟩, ⟨by decide, ?inject⟩,
      ⟨by decide, ofNat_mod_self _ _⟩, ⟨by decide, ?fltm0⟩, ⟨by decide, ?fltm1⟩, ⟨by decide, ?fltm2⟩,
      ⟨by decide, setWidth_eq_ofNat_mod _ _⟩, ⟨by decide, rfl⟩, ⟨by decide, setWidth_eq_ofNat_mod _ _⟩, ⟨by decide, rfl⟩,
      ⟨by decide, ofNat_mod_self _ _⟩, ⟨by decide, setWidth_eq_ofNat_mod _ _⟩, ⟨by decide, setWidth_eq_ofNat_mod _ _⟩, nofun⟩
    case mdef => exact w.mdef_eq s.cur.strand
    case gang => exact (congrArg (BitVec.ofNat 64) (by omega)).trans (ofNat_mod_self _ _)
    case pair => exact (congrArg (BitVec.ofNat 64) (by rw [weight_ofBool]; omega)).trans (ofNat_mod_self _ _)
    case views => exact (congrArg (BitVec.ofNat 64) w.bvstat_eq).trans (ofNat_mod_self _ _)
    case inject => exact (congrArg (BitVec.ofNat 64) (by rw [weight_ofBool]; omega)).trans (ofNat_mod_self _ _)
    case fltm0 => exact (setWidth_extractLsb' w.fltm 0).trans (by rw [pow_zero, Nat.div_one])
    case fltm1 => exact setWidth_extractLsb' w.fltm 32
    case fltm2 => exact setWidth_extractLsb' w.fltm 64
  refine ⟨fun x hx hm => ?_, fun hge => exec_mfc_of_fault h (ctrlFault_of_ge hge _),
    fun hs hu => exec_mfc_of_fault h (ctrlFault_of_user hs hu _)⟩
  obtain ⟨hlt, hread⟩ := hvalue _ hx
  rw [exec_mfc_of_ok h (ctrlFault_read hlt hm)]
  simp only at hread
  rw [hread]

theorem rules_controlWriteChecks : Rules.ControlWriteChecks := by
  intro a c s w h v faults
  have hchecks := ctrlFault_write (w := w) (st := s.cur.strand) (n := c.toNat) v
  split_ifs at hchecks ⊢ with _ _ _ _ _ hinject
  any_goals exact exec_mtc_of_fault h hchecks
  · rw [exec_mtc_of_ok h hchecks, if_neg hinject]
  · rw [exec_mtc_of_ok h hchecks, if_pos (not_not.1 hinject)]
    rfl

/-! ### The values that MTC rejects -/

theorem popBits_toNat (n : Nat) (v : DWord) : popBits n v.toNat = ((List.range n).filter fun k => v.getLsbD k).length := by
  simp only [popBits, bitAt_toNat]

theorem bitAt_field (v : DWord) {i n : Nat} (h : i < n) : bitAt (bits v.toNat 0 n) i = v.getLsbD i := by
  rw [bitAt_eq_testBit, bits, pow_zero, Nat.div_one, Nat.testBit_mod_two_pow, decide_eq_true h, Bool.true_and, BitVec.getLsbD]

theorem rules_controlCodes : Rules.ControlCodes := by
  intro w v field
  have hfield (hi lo : Nat) : field hi lo = bits v.toNat lo (hi - lo + 1) := rfl
  simp only [hfield]
  refine ⟨?mdef, ?fpctl, fun hw => ?gang, ?pair, ?mprom, ?chktol, ?chkinj, ?free⟩
  case mdef =>
    have h3 : bits v.toNat 3 3 < 2 ^ 3 := Nat.mod_lt _ (by decide)
    have h7 : bits v.toNat 3 3 ≠ 7 ↔ bits v.toNat 3 3 ≤ 6 := by omega
    simp [ctrlAccepts, h7, and_assoc]
  case fpctl => simp [ctrlAccepts]
  case gang =>
    simp only [ctrlAccepts, popBits_toNat, bitAt_field v hw, Bool.and_eq_true, decide_eq_true_eq, and_assoc]
    exact and_congr_right fun _ => and_congr_right fun _ => and_comm
  case pair => simp [ctrlAccepts]
  case mprom => simp [ctrlAccepts, Nat.one_le_iff_ne_zero]
  case chktol => simp [ctrlAccepts]
  case chkinj => simp [ctrlAccepts]
  case free =>
    simp only [List.forall_mem_cons]
    exact ⟨rfl, rfl, rfl, rfl, rfl, rfl, rfl, rfl, nofun⟩

/-! ### What MTC leaves -/

theorem getElem_seedGens (seed : BitVec 32) (slot l : Nat) (h : l < 96) : (seedGens seed slot)[l] =
    let g : Word := seed ^^^ BitVec.ofNat 32 ((slot * 96 + l + 1) * 0x9E3779B9)
    if g = 0 then 1 else g := Vector.getElem_ofFn _

/-- The lanes of a word of FLTM, bit by bit. -/
theorem getLsbD_fltmWord (v : DWord) {k l : Nat} (hl : l < 96) :
    ((v.setWidth 32).setWidth 96 <<< (32 * k)).getLsbD l = (l / 32 == k && v.getLsbD (l % 32)) := by
  rw [BitVec.getLsbD_shiftLeft, BitVec.getLsbD_setWidth, BitVec.getLsbD_setWidth, decide_eq_true hl, Bool.true_and]
  by_cases hk : l / 32 = k
  · have hlt : ¬l < 32 * k := by omega
    have hmod : l - 32 * k = l % 32 := by omega
    have hlt' : l % 32 < 96 := by omega
    simp [hk, hlt, hmod, hlt', Nat.mod_lt]
  · have hbeq : (l / 32 == k) = false := beq_eq_false_iff_ne.2 hk
    by_cases hlt : l < 32 * k
    · simp [hbeq, hlt]
    · have hge : ¬l - 32 * k < 32 := by omega
      simp [hbeq, hge]

/-- The bits of MDEF that are not marked zero (R62). -/
theorem and_mdefBits (v : DWord) : v &&& 0x3FFF = BitVec.ofNat 64 (v.toNat / 2 ^ 0 % 2 ^ 14) := by
  have hm : ∀ i, i < 64 → (0x3FFF : DWord).getLsbD i = (decide (i < 14) || decide (64 ≤ i)) := by decide
  rw [and_outer_eq hm (by decide) v, Nat.div_eq_of_lt v.isLt, Nat.mul_zero, Nat.zero_add, pow_zero, Nat.div_one]

/-- The bits of FPCTL that are not marked zero: the seed and the modes (R62, R73). -/
theorem and_fpctlBits (v : DWord) :
    v &&& 0xFFFFFFFF0000001F = BitVec.ofNat 64 (v.toNat / 2 ^ 32 % 2 ^ 32 * 2 ^ 32 + v.toNat / 2 ^ 0 % 2 ^ 5) := by
  have hm : ∀ i, i < 64 → (0xFFFFFFFF0000001F : DWord).getLsbD i = (decide (i < 5) || decide (32 ≤ i)) := by decide
  rw [and_outer_eq hm (by decide) v, Nat.mod_eq_of_lt (Nat.div_lt_of_lt_mul v.isLt : v.toNat / 2 ^ 32 < 2 ^ 32), pow_zero,
    Nat.div_one, Nat.mul_comm]

/-- HNDLR is even (R62). -/
theorem and_evenBits (v : DWord) : v &&& 0xFFFFFFFFFFFFFFFE = BitVec.ofNat 64 (v.toNat / 2 * 2) := by
  have hm : ∀ i, i < 64 → (0xFFFFFFFFFFFFFFFE : DWord).getLsbD i = (decide (i < 0) || decide (1 ≤ i)) := by decide
  rw [and_outer_eq hm (by decide) v, pow_zero, Nat.mod_one, Nat.add_zero, pow_one, Nat.mul_comm]

theorem getElem_views_setCtrl (w : Weave) (st : Strand) (v : DWord) {k : Nat} (hk : k < 4) :
    (w.setCtrl st 5 v).views[k] = { w.views[k] with expired := w.views[k].expired && !v.getLsbD (4 + k) } := by
  change (Vector.ofFn fun j : Fin 4 => clearExpired ((w.views[j.val]?).getD default) (bitAt v.toNat (4 + j.val)))[k] = _
  rw [Vector.getElem_ofFn, Vector.getElem?_eq_getElem hk, Option.getD_some, bitAt_toNat]
  cases v.getLsbD (4 + k) <;> simp [clearExpired]

/-- FLTM0 to FLTM2 clear the bits written as 1 in their 32 lanes (R62). -/
theorem setCtrl_fltm (w : Weave) (st : Strand) (v : DWord) {k : Nat} (hk : k < 3) :
    w.setCtrl st (10 + k) v = { w with fltm := w.fltm &&& ~~~((v.setWidth 32).setWidth 96 <<< (32 * k)) } := by
  obtain rfl | rfl | rfl : k = 0 ∨ k = 1 ∨ k = 2 := by omega
  · simp only [Weave.setCtrl, Nat.mul_zero, BitVec.shiftLeft_zero]
  · rfl
  · rfl

theorem rules_controlWrites : Rules.ControlWrites := by
  intro w st v field d seeded
  have hmod (n : Nat) : BitVec.ofNat n v.toNat = BitVec.ofNat n (v.toNat / 2 ^ 0 % 2 ^ n) := (ofNat_field_low n _ le_rfl).symm
  have hwidth (n : Nat) : v.setWidth n = BitVec.ofNat n (v.toNat / 2 ^ 0 % 2 ^ n) := setWidth_eq_field v n le_rfl
  refine ⟨?mdef, ⟨and_fpctlBits v, rfl, fun l h => ?gens⟩, ?gang, ?pair, ?breg, fun k => getElem_views_setCtrl w st v, rfl, ?mprom,
    ?chktol, ?chkinj, fun k hk => ⟨fun l hl => ?bits, ?fltm⟩, ?fltrec, ?hndlr, ?pwatch⟩
  case mdef =>
    cases st with
    | a => exact ⟨and_mdefBits v, rfl, fun _ => rfl, fun h => absurd rfl h⟩
    | c e => exact ⟨and_mdefBits v, rfl, fun h => Strand.noConfusion h, fun _ => rfl⟩
  case gens =>
    change (seedGens (v.extractLsb' 32 32) w.id.slot)[l] = _
    rw [getElem_seedGens _ _ _ h, extractLsb'_eq_ofNat_mod v 32 32]
  case gang => simp only [d, field, Weave.setCtrl, bits, hmod 16]
  case pair => simp only [d, field, Weave.setCtrl, bits, hmod 9, bitAt_toNat]
  case breg => simp only [d, field, Weave.setCtrl, hwidth 32]
  case mprom => simp only [d, field, Weave.setCtrl, hwidth 7]
  case chktol => simp only [d, field, Weave.setCtrl, hwidth 32]
  case chkinj => simp only [d, field, Weave.setCtrl, bits, hmod 8, bitAt_toNat]
  case bits =>
    simp only [d, setCtrl_fltm w st v hk]
    rw [BitVec.getLsbD_and, BitVec.getLsbD_not, getLsbD_fltmWord v hl, decide_eq_true hl, Bool.true_and]
  case fltm => simp only [d, setCtrl_fltm w st v hk]
  case fltrec => simp only [d, field, Weave.setCtrl, hwidth 20]
  case hndlr => simp only [d, Weave.setCtrl, and_evenBits]
  case pwatch => simp only [d, field, Weave.setCtrl, hwidth 32]

end Sys2Proof.Machine
end

section
open Sys2Proof Sys2Proof.Machine

/-- Settles O4, register by register. -/
theorem controlRegisters : Obligations.ControlRegisters :=
  ⟨rules_controlReads, rules_controlWriteChecks, rules_controlCodes, rules_controlWrites⟩
end

section
/-! ## Rounding to a whole number of units (R72, R73) -/

namespace Sys2Proof.Machine

/-! ### What a mode asks for -/

section
variable {md : Rounding} {neg : Bool} {u n k : Nat} {t : ℝ}

/-- Of two neighbours at most one is nearest: at the half it is the even one. -/
theorem not_roundsTo_rne_succ (h : RoundsTo .rne neg u t n) : ¬RoundsTo .rne neg u t (n + 1) := by
  rintro ⟨hk, hktie⟩
  obtain ⟨hn, hntie⟩ := h
  push_cast at hk hktie
  have ht : t = n + 1 / 2 := by linarith [(abs_le.1 hn).2, (abs_le.1 hk).1]
  subst ht
  have heven := hntie (by norm_num)
  have heven' := hktie (by norm_num [abs_of_neg])
  omega

/-- A mode leaves no choice. -/
theorem RoundsTo.unique (h : RoundsTo md neg u t n) (h' : RoundsTo md neg u t k) : n = k := by
  cases md with
  | rne =>
    obtain ⟨hn1, hn2⟩ := abs_le.1 h.1
    obtain ⟨hk1, hk2⟩ := abs_le.1 h'.1
    have hlt : n < k + 2 := by exact_mod_cast (by linarith : (n : ℝ) < k + 2)
    have hlt' : k < n + 2 := by exact_mod_cast (by linarith : (k : ℝ) < n + 2)
    obtain rfl | rfl | rfl : k = n ∨ k = n + 1 ∨ n = k + 1 := by omega
    · rfl
    · exact absurd h' (not_roundsTo_rne_succ h)
    · exact absurd h (not_roundsTo_rne_succ h')
  | rtz | rup | rdn | stochastic => exact Eq.trans h (Eq.symm h')

theorem draw_div_lt_one (hu : u < 65536) : (u : ℝ) / 65536 < 1 := by
  rw [div_lt_one (by norm_num)]
  exact_mod_cast hu

/-- A rounded value is less than one unit away. -/
theorem RoundsTo.abs_sub_lt (h : RoundsTo md neg u t n) (hu : u < 65536) (ht : 0 ≤ t) : |t - n| < 1 := by
  have hfloor : |t - ⌊t⌋₊| < 1 := abs_lt.2 ⟨by linarith [Nat.floor_le ht], by linarith [Nat.lt_floor_add_one t]⟩
  have hceil : |t - ⌈t⌉₊| < 1 := abs_lt.2 ⟨by linarith [Nat.ceil_lt_add_one ht], by linarith [Nat.le_ceil t]⟩
  cases md with
  | rne => exact h.1.trans_lt (by norm_num)
  | rtz => exact (show n = _ from h) ▸ hfloor
  | rup | rdn =>
    rw [show n = _ from h]
    cases neg <;> assumption
  | stochastic =>
    have hd := draw_div_lt_one hu
    have hd' : (0 : ℝ) ≤ u / 65536 := by positivity
    rw [show n = _ from h]
    exact abs_lt.2 ⟨by linarith [Nat.floor_le (add_nonneg ht hd')], by linarith [Nat.lt_floor_add_one (t + u / 65536)]⟩

theorem RoundsTo.le_of_lt (h : RoundsTo md neg u t n) (hu : u < 65536) (ht : 0 ≤ t) (hk : t < k) : n ≤ k := by
  have hn := (abs_lt.1 (h.abs_sub_lt hu ht)).1
  exact Nat.lt_succ_iff.1 (by exact_mod_cast (by linarith : (n : ℝ) < k + 1))

theorem RoundsTo.le_of_le (h : RoundsTo md neg u t n) (hu : u < 65536) (hk : k ≤ t) : k ≤ n := by
  have hn := (abs_lt.1 (h.abs_sub_lt hu ((Nat.cast_nonneg k).trans hk))).2
  exact Nat.lt_succ_iff.1 (by exact_mod_cast (by linarith : (k : ℝ) < n + 1))

/-- A whole number of units rounds to itself. -/
theorem roundsTo_natCast (hu : u < 65536) : RoundsTo md neg u n n := by
  cases md with
  | rne => exact ⟨by simp, fun h => by norm_num at h⟩
  | rtz => exact (Nat.floor_natCast n).symm
  | rup | rdn => cases neg <;> simp [RoundsTo]
  | stochastic =>
    refine (Nat.floor_eq_iff (by positivity)).2 ⟨?_, ?_⟩ |>.symm
    · linarith [show (0 : ℝ) ≤ u / 65536 by positivity]
    · linarith [draw_div_lt_one hu]

/-- How a whole number and a fraction round to the nearest whole number. -/
theorem roundsTo_rne_add {f : ℝ} (h0 : 0 ≤ f) (h1 : f < 1) :
    RoundsTo .rne neg u (n + f) (if 1 / 2 < f ∨ (f = 1 / 2 ∧ n % 2 = 1) then n + 1 else n) := by
  split
  next h =>
    have hhalf : 1 / 2 ≤ f := h.elim le_of_lt fun h => h.1.ge
    refine ⟨abs_le.2 ⟨?_, ?_⟩, fun htie => ?_⟩
    · push_cast; linarith
    · push_cast; linarith
    · have hf : f = 1 / 2 := by
        rw [abs_of_nonpos (by push_cast; linarith)] at htie
        push_cast at htie
        linarith
      have hodd := (h.resolve_left (by rw [hf]; exact lt_irrefl _)).2
      omega
  next h =>
    obtain ⟨hle, htie'⟩ := not_or.1 h
    refine ⟨?_, fun htie => ?_⟩
    · rw [add_sub_cancel_left, abs_of_nonneg h0]
      exact not_lt.1 hle
    · rw [add_sub_cancel_left, abs_of_nonneg h0] at htie
      have hodd : ¬n % 2 = 1 := fun ho => htie' ⟨htie, ho⟩
      omega

theorem floor_natCast_add {f : ℝ} (h0 : 0 ≤ f) (h1 : f < 1) : ⌊(n : ℝ) + f⌋₊ = n :=
  (Nat.floor_eq_iff (by positivity)).2 ⟨by linarith, by linarith⟩

theorem ceil_natCast_add {f : ℝ} (h0 : 0 ≤ f) (h1 : f < 1) : ⌈(n : ℝ) + f⌉₊ = if f ≠ 0 then n + 1 else n := by
  split
  next h =>
    have hf : 0 < f := lt_of_le_of_ne h0 (Ne.symm h)
    exact (Nat.ceil_eq_iff (Nat.succ_ne_zero n)).2 ⟨by simpa using hf, by push_cast; linarith⟩
  next h => rw [not_not.1 h, add_zero, Nat.ceil_natCast]

/-- Positive magnitudes too small to reach a unit with any draw round alike. -/
theorem RoundsTo.of_tiny {t' : ℝ} (h : RoundsTo md neg u t n) (hu : u < 65536) (h0 : 0 < t) (h1 : t < 1 / 65536) (h0' : 0 < t')
    (h1' : t' < 1 / 65536) : RoundsTo md neg u t' n := by
  have hfloor {y : ℝ} (hy : y < 1 / 65536) : ⌊y⌋₊ = 0 := Nat.floor_eq_zero.2 (by linarith)
  have hceil {y : ℝ} (hy : 0 < y) (hy' : y < 1 / 65536) : ⌈y⌉₊ = 1 :=
    (Nat.ceil_eq_iff one_ne_zero).2 ⟨by simpa using hy, by push_cast; linarith⟩
  cases md with
  | rne =>
    have hn : n < 1 := by
      have := (abs_le.1 h.1).1
      exact_mod_cast (by linarith : (n : ℝ) < 1)
    obtain rfl := Nat.lt_one_iff.1 hn
    rw [RoundsTo, Nat.cast_zero, sub_zero, abs_of_pos h0']
    exact ⟨by linarith, fun _ => rfl⟩
  | rtz => exact Eq.trans h ((hfloor h1).trans (hfloor h1').symm)
  | rup | rdn =>
    refine Eq.trans h ?_
    rw [hfloor h1, hfloor h1', hceil h0 h1, hceil h0' h1']
  | stochastic =>
    have hsum {y : ℝ} (hy : y < 1 / 65536) : ⌊y + u / 65536⌋₊ = 0 := by
      have hu' : (u : ℝ) ≤ 65535 := by exact_mod_cast Nat.le_of_lt_succ hu
      exact Nat.floor_eq_zero.2 (by linarith)
    exact Eq.trans h ((hsum h1).trans (hsum h1').symm)

end

/-! ### What the model computes -/

section
variable {x : Exact} {q : Int} {md : Rounding} {neg : Bool} {u : Nat} {δ : ℝ}

/-- The sum of a fraction of k bits and a draw of 16 bits, cut to whole units; what lies below the last bit counts for nothing
where the fraction has 16 bits or more. -/
theorem floor_fraction_add_draw {k ρ : Nat} (h0 : 0 ≤ δ) (h1 : δ < 1) (hk : δ ≠ 0 → 16 ≤ k) :
    ⌊(ρ + δ) / 2 ^ k + (u : ℝ) / 65536⌋₊ = (ρ * 65536 + u * 2 ^ k) / 2 ^ (k + 16) := by
  have hpart : δ ≠ 0 → ∃ j, 2 ^ k = j * 65536 := fun h => ⟨2 ^ (k - 16), (Nat.pow_sub_mul_pow 2 (hk h)).symm⟩
  have hcast : (2 : ℝ) ^ k = (2 ^ k : Nat) := by push_cast; rfl
  rw [hcast, pow_add 2 k 16, show 2 ^ 16 = 65536 from rfl]
  have hpos := Nat.two_pow_pos k
  generalize 2 ^ k = p at hpart hpos ⊢
  have hpos' : (0 : ℝ) < p := by exact_mod_cast hpos
  have heq : (ρ + δ) / p + (u : ℝ) / 65536 = ((ρ + δ) * 65536 + u * p) / (p * 65536) := by
    field_simp
  rw [heq]
  refine (Nat.floor_eq_iff (by positivity)).2 ⟨?_, ?_⟩
  · have hlo : ((ρ * 65536 + u * p) / (p * 65536) * (p * 65536) : Nat) ≤ (ρ * 65536 + u * p : ℝ) := by
      exact_mod_cast Nat.div_mul_le_self _ _
    rw [le_div_iff₀ (by positivity)]
    push_cast at hlo
    linarith
  · have hhi := Nat.lt_mul_div_succ (ρ * 65536 + u * p) (Nat.mul_pos hpos (by decide : 0 < 65536))
    generalize (ρ * 65536 + u * p) / (p * 65536) = c at hhi ⊢
    rw [div_lt_iff₀ (by positivity)]
    by_cases hδ : δ = 0
    · have hreal : (ρ * 65536 + u * p : ℝ) < p * 65536 * (c + 1) := by exact_mod_cast hhi
      rw [hδ]
      linarith
    · obtain ⟨j, rfl⟩ := hpart hδ
      have hint : ρ + u * j + 1 ≤ j * 65536 * (c + 1) := by nlinarith
      have hreal : (ρ : ℝ) + u * j + 1 ≤ j * 65536 * (c + 1) := by exact_mod_cast hint
      push_cast
      linarith

/-- What the model makes of n whole units, ρ parts of 2^k of one more, and a part of such a part. -/
def roundParts (md : Rounding) (neg : Bool) (u k n ρ : Nat) (inexact : Bool) : Nat :=
  match md with
  | .rne => if 2 * ρ > 2 ^ k || (2 * ρ = 2 ^ k && (inexact || n % 2 = 1)) then n + 1 else n
  | .rtz => n
  | .rup => if (decide (ρ ≠ 0) || inexact) && !neg then n + 1 else n
  | .rdn => if (decide (ρ ≠ 0) || inexact) && neg then n + 1 else n
  | .stochastic => n + (ρ * 65536 + u * 2 ^ k) / 2 ^ (k + 16)

theorem Exact.units_of_le (h : q ≤ x.e) : x.units q md neg u = x.m * 2 ^ (x.e - q).toNat := if_pos h

theorem Exact.units_of_lt (h : x.e < q) : x.units q md neg u =
    roundParts md neg u (q - x.e).toNat (x.m / 2 ^ (q - x.e).toNat) (x.m % 2 ^ (q - x.e).toNat) x.inexact := by
  rw [Exact.units, if_neg (not_le.2 h)]
  cases md <;> rfl

section
variable {k n ρ : Nat} {inexact : Bool} (hρ : ρ < 2 ^ k) (h0 : 0 ≤ δ) (h1 : δ < 1) (hδ : inexact = true ↔ δ ≠ 0)

include hρ h0 h1 in
theorem parts_mem_unit : 0 ≤ (ρ + δ) / 2 ^ k ∧ (ρ + δ) / 2 ^ k < 1 := by
  have hρ' : (ρ : ℝ) + 1 ≤ 2 ^ k := by exact_mod_cast hρ
  refine ⟨by positivity, ?_⟩
  rw [div_lt_one (by positivity)]
  linarith

include h0 hδ in
theorem parts_ne_zero_iff : (decide (ρ ≠ 0) || inexact) = true ↔ (ρ + δ) / 2 ^ k ≠ 0 := by
  have hρ0 : (0 : ℝ) ≤ ρ := Nat.cast_nonneg ρ
  rw [Bool.or_eq_true, decide_eq_true_iff, hδ, div_ne_zero_iff, ne_eq (_ + _), add_eq_zero_iff_of_nonneg hρ0 h0, Nat.cast_eq_zero]
  have hpow : (2 : ℝ) ^ k ≠ 0 := by positivity
  tauto

include h0 h1 hδ in
/-- More than half a unit, or half a unit beside an odd number of them, in terms of the parts. -/
theorem parts_pass_half_iff (hk : k ≠ 0) : (2 * ρ > 2 ^ k || (2 * ρ = 2 ^ k && (inexact || n % 2 = 1)) : Bool) = true ↔
    1 / 2 < (ρ + δ) / 2 ^ k ∨ ((ρ + δ) / 2 ^ k = 1 / 2 ∧ n % 2 = 1) := by
  obtain ⟨j, rfl⟩ := Nat.exists_eq_succ_of_ne_zero hk
  have hpos : (0 : ℝ) < 2 ^ j := by positivity
  have hhalf : (ρ + δ) / 2 ^ (j + 1) = (ρ + δ) / 2 ^ j / 2 := by
    rw [pow_succ]
    field_simp
  have hgt : 1 / 2 < (ρ + δ) / 2 ^ (j + 1) ↔ (2 : ℝ) ^ j < ρ + δ := by
    rw [hhalf, div_lt_div_iff_of_pos_right two_pos, one_lt_div hpos]
  have heq : (ρ + δ) / 2 ^ (j + 1) = 1 / 2 ↔ ρ + δ = (2 : ℝ) ^ j := by
    rw [hhalf, div_left_inj' two_ne_zero, div_eq_one_iff_eq hpos.ne']
  rw [hgt, heq]
  obtain hlt | rfl | hgt := lt_trichotomy ρ (2 ^ j)
  · have hreal : (ρ : ℝ) + 1 ≤ 2 ^ j := by exact_mod_cast hlt
    have hleft : ¬(2 : ℝ) ^ j < ρ + δ := by linarith
    have hmid : ¬ρ + δ = (2 : ℝ) ^ j := by intro h; linarith
    have h2 : ¬2 ^ (j + 1) < 2 * ρ ∧ ¬2 * ρ = 2 ^ (j + 1) := by rw [pow_succ]; omega
    simp [hleft, hmid, h2]
  · have h2 : 2 * 2 ^ j = 2 ^ (j + 1) := by rw [pow_succ, mul_comm]
    push_cast
    simp only [h2, gt_iff_lt, lt_irrefl, decide_false, Bool.false_or, decide_true, Bool.true_and, Bool.or_eq_true, decide_eq_true_iff,
      lt_add_iff_pos_right, add_eq_left, hδ, h0.lt_iff_ne']
    tauto
  · have hreal : (2 : ℝ) ^ j + 1 ≤ ρ := by exact_mod_cast hgt
    have hright : (2 : ℝ) ^ j < ρ + δ := by linarith
    have h2 : 2 ^ (j + 1) < 2 * ρ := by rw [pow_succ]; omega
    simp [hright, h2]

include hρ h0 h1 hδ in
theorem roundsTo_roundParts (hk : k ≠ 0) (hk' : inexact = true → 16 ≤ k) :
    RoundsTo md neg u (n + (ρ + δ) / 2 ^ k) (roundParts md neg u k n ρ inexact) := by
  obtain ⟨hf0, hf1⟩ := parts_mem_unit hρ h0 h1
  have hpart := parts_ne_zero_iff (k := k) (ρ := ρ) h0 hδ
  cases md with
  | rne =>
    rw [roundParts, ← if_congr (parts_pass_half_iff h0 h1 hδ hk).symm rfl rfl]
    exact roundsTo_rne_add hf0 hf1
  | rtz => exact (floor_natCast_add hf0 hf1).symm
  | rup =>
    cases neg with
    | true => simpa [RoundsTo, roundParts] using (floor_natCast_add hf0 hf1).symm
    | false =>
      simp only [RoundsTo, roundParts, Bool.false_eq_true, if_false, ceil_natCast_add hf0 hf1, Bool.not_false, Bool.and_true, hpart]
  | rdn =>
    cases neg with
    | false => simpa [RoundsTo, roundParts] using (floor_natCast_add hf0 hf1).symm
    | true => simp only [RoundsTo, roundParts, if_true, ceil_natCast_add hf0 hf1, Bool.and_true, hpart]
  | stochastic =>
    rw [RoundsTo, roundParts, add_assoc, add_comm (n : ℝ), Nat.floor_add_natCast (by positivity),
      floor_fraction_add_draw h0 h1 fun h => hk' (hδ.2 h), add_comm]

end

/-- The model rounds as the mode asks, where what an inexact magnitude leaves out lies far enough below the last unit. -/
theorem roundsTo_units (hu : u < 65536) (h0 : 0 ≤ δ) (h1 : δ < 1) (hδ : x.inexact = true ↔ δ ≠ 0)
    (hq : x.inexact = true → 16 ≤ q - x.e) : RoundsTo md neg u ((x.m + δ) * 2 ^ x.e / 2 ^ q) (x.units q md neg u) := by
  obtain h | h := le_or_gt q x.e
  · have hexact : δ = 0 := by
      by_contra hne
      have := hq (hδ.2 hne)
      omega
    have ht : (x.m + δ) * 2 ^ x.e / 2 ^ q = ((x.m * 2 ^ (x.e - q).toNat : Nat) : ℝ) := by
      rw [hexact, add_zero, mul_div_assoc, ← zpow_sub₀ two_ne_zero]
      push_cast
      rw [← zpow_natCast, Int.toNat_of_nonneg (by omega)]
    rw [Exact.units_of_le h, ht]
    exact roundsTo_natCast hu
  · have ht : (x.m + δ) * 2 ^ x.e / 2 ^ q = (x.m + δ) / 2 ^ (q - x.e).toNat := by
      rw [← zpow_natCast, Int.toNat_of_nonneg (by omega), zpow_sub₀ two_ne_zero]
      field_simp
    have hk : (q - x.e).toNat ≠ 0 := by omega
    have hk' : x.inexact = true → 16 ≤ (q - x.e).toNat := fun hx => by
      have := hq hx
      omega
    rw [Exact.units_of_lt h, ht]
    generalize (q - x.e).toNat = k at hk hk' ⊢
    have hadd : (x.m + δ) / 2 ^ k = (x.m / 2 ^ k : Nat) + ((x.m % 2 ^ k : Nat) + δ) / 2 ^ k := by
      have hsplit : (x.m : ℝ) = (x.m / 2 ^ k : Nat) * 2 ^ k + (x.m % 2 ^ k : Nat) := by
        exact_mod_cast (Nat.div_add_mod' x.m (2 ^ k)).symm
      rw [hsplit, add_assoc, add_div, mul_div_cancel_right₀ _ (by positivity)]
    rw [hadd]
    exact roundsTo_roundParts (Nat.mod_lt _ (Nat.two_pow_pos k)) h0 h1 hδ hk hk'

/-- An exact magnitude rounds as the mode asks, whatever the unit. -/
theorem roundsTo_units_exact (m : Nat) (e q : Int) (hu : u < 65536) :
    RoundsTo md neg u ((m : ℝ) * 2 ^ e / 2 ^ q) (Exact.units ⟨m, e, false⟩ q md neg u) := by
  have h := roundsTo_units (x := ⟨m, e, false⟩) (q := q) (md := md) (neg := neg) hu le_rfl one_pos (by simp) (by simp)
  rwa [add_zero] at h

end
end Sys2Proof.Machine
end

section
/-! ## The float formats: what their bits hold (R62, R66, R74) -/

namespace Sys2Proof.Machine

/-! ### Fields of numbers -/

theorem bits_zero (x n : Nat) : bits x 0 n = x % 2 ^ n := by rw [bits, pow_zero, Nat.div_one]

theorem bitAt_eq_decide_le {x n : Nat} (h : x < 2 ^ (n + 1)) : bitAt x n = decide (2 ^ n ≤ x) := by
  have hpos := Nat.two_pow_pos n
  have hlt : x / 2 ^ n < 2 := Nat.div_lt_of_lt_mul (by rwa [← pow_succ])
  by_cases hle : 2 ^ n ≤ x
  · have hone : x / 2 ^ n = 1 := Nat.le_antisymm (Nat.lt_succ_iff.1 hlt) ((Nat.one_le_div_iff hpos).2 hle)
    simp [bitAt, hone, hle]
  · simp [bitAt, Nat.div_eq_of_lt (Nat.not_le.1 hle), hle]

/-! ### The five formats -/

/-- The five formats (R66). -/
abbrev formats : List Fmt := [fp32, fp16, bf16, e4m3, e5m2]

/-- What the five formats have in common, and what sets the 8-bit ones apart (R66, R72, R74). -/
structure Fmt.Listed (f : Fmt) : Prop where
  frac_pos : 0 < f.fracBits
  frac_le : f.fracBits ≤ 23
  exp_ge : 2 ≤ f.expBits
  width_le : f.width * (32 / f.width) = 32
  nan_lt : f.nan < 2 ^ f.width
  hasInf_iff : f.hasInf = true ↔ f ≠ e4m3
  flushes_iff : f.flushes = true ↔ f ≠ e4m3 ∧ f ≠ e5m2
  nmax_eq : f.nmax = if f = e4m3 then 14 else 2 ^ (f.fracBits + 1) - 1
  qmax_eq : f.qmax = (if f = e4m3 then 15 else 2 ^ f.expBits - 2 : Nat) - (f.bias : Int) - f.fracBits

theorem Fmt.listed {f : Fmt} (h : f ∈ formats) : f.Listed := by
  simp only [formats, List.mem_cons, List.not_mem_nil, or_false] at h
  obtain rfl | rfl | rfl | rfl | rfl := h <;> constructor <;> decide

section
variable {f : Fmt} {x : Nat}

theorem Fmt.width_eq (f : Fmt) : f.width = f.expBits + f.fracBits + 1 := by rw [Fmt.width]; omega

/-! ### Decoding -/

theorem Fmt.decode_special (hi : f.hasInf = true) (hex : bits x f.fracBits f.expBits = 2 ^ f.expBits - 1) :
    f.decode x = if bits x 0 f.fracBits = 0 then .inf (bitAt x (f.expBits + f.fracBits)) else .nan :=
  if_pos (by simp [hi, hex])

theorem Fmt.decode_nan (hi : f.hasInf = false) (hex : bits x f.fracBits f.expBits = 2 ^ f.expBits - 1)
    (hfr : bits x 0 f.fracBits = 2 ^ f.fracBits - 1) : f.decode x = .nan :=
  (if_neg (by simp [hi])).trans (if_pos (by simp [hex, hfr]))

theorem Fmt.decode_finite (hex : f.hasInf = true → bits x f.fracBits f.expBits ≠ 2 ^ f.expBits - 1)
    (hfr : f.hasInf = false → bits x f.fracBits f.expBits = 2 ^ f.expBits - 1 → bits x 0 f.fracBits ≠ 2 ^ f.fracBits - 1) :
    f.decode x = .fin (bitAt x (f.expBits + f.fracBits))
      (if bits x f.fracBits f.expBits = 0 then bits x 0 f.fracBits else 2 ^ f.fracBits + bits x 0 f.fracBits)
      ((max (bits x f.fracBits f.expBits) 1 : Nat) - (f.bias : Int) - f.fracBits) := by
  have hspecial : ¬(decide (bits x f.fracBits f.expBits = 2 ^ f.expBits - 1) && f.hasInf) = true := by
    simp only [Bool.and_eq_true, decide_eq_true_iff]
    exact fun h => hex h.2 h.1
  have hnan : ¬(decide (bits x f.fracBits f.expBits = 2 ^ f.expBits - 1) &&
      decide (bits x 0 f.fracBits = 2 ^ f.fracBits - 1)) = true := by
    simp only [Bool.and_eq_true, decide_eq_true_iff]
    intro h
    cases hi : f.hasInf with
    | true => exact hex hi h.1
    | false => exact hfr hi h.1 h.2
  refine (if_neg hspecial).trans ((if_neg hnan).trans ?_)
  by_cases h0 : bits x f.fracBits f.expBits = 0
  · rw [if_pos h0, if_pos h0, h0]
    rfl
  · rw [if_neg h0, if_neg h0, max_eq_left (Nat.one_le_iff_ne_zero.2 h0)]

theorem Fmt.subnormal_iff : f.subnormal x = true ↔ bits x f.fracBits f.expBits = 0 ∧ bits x 0 f.fracBits ≠ 0 := by
  simp [Fmt.subnormal]

/-! ### DAZ (R74) -/

theorem Fmt.read_of_not_flushed {md : FpMode} (h : ¬(md.daz && f.flushes && f.subnormal x) = true) : f.read md x = f.decode x := by
  rw [Fmt.read]
  cases f.decode x with
  | fin neg m e => exact if_neg h
  | nan | inf => rfl

theorem Fmt.Listed.decode_of_exp_zero (hf : f.Listed) (hex : bits x f.fracBits f.expBits = 0) : f.decode x =
    .fin (bitAt x (f.expBits + f.fracBits)) (bits x 0 f.fracBits) (1 - (f.bias : Int) - f.fracBits) := by
  have htop : 2 ^ 2 ≤ 2 ^ f.expBits := Nat.pow_le_pow_right (by decide) hf.exp_ge
  rw [Fmt.decode_finite (fun _ => by omega) (fun _ h => by omega), if_pos hex, hex]
  rfl

/-- DAZ reads a subnormal as a zero of its sign (R74). -/
theorem Fmt.Listed.read_of_flushed (hf : f.Listed) {md : FpMode} (h : (md.daz && f.flushes && f.subnormal x) = true) : f.read md x =
    .fin (bitAt x (f.expBits + f.fracBits)) 0 (1 - (f.bias : Int) - f.fracBits) := by
  have hsub : f.subnormal x = true := by
    rw [Bool.and_eq_true] at h
    exact h.2
  rw [Fmt.read, hf.decode_of_exp_zero (Fmt.subnormal_iff.1 hsub).1]
  exact if_pos h

end

theorem fp_value_fin (neg : Bool) (m : Nat) (e : Int) : (Fp.fin neg m e).value = some ((if neg then -1 else 1) * m * (2 : ℚ) ^ e) := rfl

/-- The NaN of E4M3 is all ones below the sign (R66). -/
theorem e4m3_nan_iff (x : Nat) : x % 128 = 127 ↔ x / 2 ^ e4m3.fracBits % 2 ^ e4m3.expBits = 2 ^ e4m3.expBits - 1 ∧
    x % 2 ^ e4m3.fracBits = 2 ^ e4m3.fracBits - 1 := by
  simp only [e4m3]
  omega

/-- The modes of FPCTL (R62). -/
theorem fpMode_fields (v : DWord) : (fpMode v).ftz = v.getLsbD 3 ∧ (fpMode v).daz = v.getLsbD 4 ∧
    ∀ k r, (k, r) ∈ [(0, Rounding.rne), (1, .rtz), (2, .rup), (3, .rdn), (4, .stochastic)] → v.toNat % 8 = k → (fpMode v).round = r := by
  refine ⟨rfl, rfl, fun k r hk hv => ?_⟩
  have hround : (fpMode v).round = Rounding.ofCode k := by
    rw [fpMode, bits_zero]
    exact congrArg Rounding.ofCode hv
  simp only [List.mem_cons, Prod.mk.injEq, List.not_mem_nil, or_false] at hk
  obtain ⟨rfl, rfl⟩ | ⟨rfl, rfl⟩ | ⟨rfl, rfl⟩ | ⟨rfl, rfl⟩ | ⟨rfl, rfl⟩ := hk <;> exact hround

theorem rules_floatFormats : Rules.FloatFormats := by
  refine ⟨fun f hmem x hx => ?_, fpMode_fields⟩
  have hf := Fmt.listed hmem
  intro neg ex fr
  have hneg : bitAt x (f.expBits + f.fracBits) = neg := by
    rw [Fmt.width_eq] at hx
    rw [bitAt_eq_decide_le hx, ← Nat.add_sub_cancel (n := f.expBits + f.fracBits) (m := 1), ← Fmt.width_eq]
  have hex : bits x f.fracBits f.expBits = ex := rfl
  have hfr : bits x 0 f.fracBits = fr := bits_zero _ _
  refine ⟨?bits, fun md => ?daz⟩
  case bits =>
    by_cases he : f = e4m3
    · have hnan := e4m3_nan_iff x
      rw [← he] at hnan
      have hi : f.hasInf = false := by rw [he]; rfl
      rw [if_neg fun h => h.1 he]
      by_cases hall : x % 128 = 127
      · rw [if_pos ⟨he, hall⟩]
        obtain ⟨h1, h2⟩ := hnan.1 hall
        exact Fmt.decode_nan hi h1 (hfr.trans h2)
      · rw [if_neg fun h => hall h.2, Fmt.decode_finite (by simp [hi]) fun _ h1 h2 => hall (hnan.2 ⟨h1, hfr.symm.trans h2⟩), hneg, hex, hfr]
        exact ⟨rfl, rfl⟩
    · have hi : f.hasInf = true := hf.hasInf_iff.2 he
      by_cases htop : ex = 2 ^ f.expBits - 1
      · rw [if_pos ⟨he, htop⟩, Fmt.decode_special hi htop, hfr, hneg]
      · rw [if_neg fun h => htop h.2, if_neg fun h => he h.1, Fmt.decode_finite (fun _ => htop) (by simp [hi]), hneg, hex, hfr]
        exact ⟨rfl, rfl⟩
  case daz =>
    have hflush : (md.daz && f.flushes && f.subnormal x) = true ↔ md.daz = true ∧ f ≠ e4m3 ∧ f ≠ e5m2 ∧ ex = 0 ∧ fr ≠ 0 := by
      rw [Bool.and_eq_true, Bool.and_eq_true, hf.flushes_iff, Fmt.subnormal_iff, hfr, hex]
      tauto
    split
    next h =>
      rw [hf.read_of_flushed (hflush.2 h), hneg]
      exact ⟨by simp [fp_value_fin], rfl⟩
    next h => exact Fmt.read_of_not_flushed fun h' => h (hflush.1 h')

end Sys2Proof.Machine
end

section
/-! ## The one rounding of a float result (R69, R72, R73, R74) -/

namespace Sys2Proof.Machine

/-! ### Bits put together from a sign, an exponent and a fraction -/

/-- The bits of a sign, an exponent and a fraction (R66). -/
def Fmt.fields (f : Fmt) (neg : Bool) (ex fr : Nat) : Nat := ofBool neg * 2 ^ (f.expBits + f.fracBits) + ex * 2 ^ f.fracBits + fr

section
variable {f : Fmt} {neg : Bool} {ex fr : Nat} (hex : ex < 2 ^ f.expBits) (hfr : fr < 2 ^ f.fracBits)

theorem Fmt.fields_eq (f : Fmt) (neg : Bool) (ex fr : Nat) :
    f.fields neg ex fr = fr + 2 ^ f.fracBits * (ex + 2 ^ f.expBits * ofBool neg) := by
  rw [Fmt.fields, pow_add]
  ring

include hfr in
theorem Fmt.bits_frac_fields : bits (f.fields neg ex fr) 0 f.fracBits = fr := by
  rw [bits_zero, Fmt.fields_eq, Nat.add_mul_mod_self_left, Nat.mod_eq_of_lt hfr]

include hfr in
theorem Fmt.fields_div : f.fields neg ex fr / 2 ^ f.fracBits = ex + 2 ^ f.expBits * ofBool neg := by
  rw [Fmt.fields_eq, Nat.add_mul_div_left _ _ (Nat.two_pow_pos _), Nat.div_eq_of_lt hfr, Nat.zero_add]

include hex hfr in
theorem Fmt.bits_exp_fields : bits (f.fields neg ex fr) f.fracBits f.expBits = ex := by
  rw [bits, Fmt.fields_div hfr, Nat.add_mul_mod_self_left, Nat.mod_eq_of_lt hex]

include hex hfr in
theorem Fmt.bitAt_fields : bitAt (f.fields neg ex fr) (f.expBits + f.fracBits) = neg := by
  rw [bitAt, Nat.add_comm, pow_add, ← Nat.div_div_eq_div_mul, Fmt.fields_div hfr, Nat.add_mul_div_left _ _ (Nat.two_pow_pos _),
    Nat.div_eq_of_lt hex, Nat.zero_add]
  cases neg <;> rfl

include hex hfr in
theorem Fmt.fields_lt : f.fields neg ex fr < 2 ^ f.width := by
  have hsign : ofBool neg ≤ 1 := by cases neg <;> decide
  have hhigh : ex + 2 ^ f.expBits * ofBool neg < 2 ^ f.expBits * 2 := by nlinarith
  rw [Fmt.fields_eq, Fmt.width_eq, Nat.add_assoc, Nat.add_left_comm, pow_add, pow_succ]
  nlinarith

include hex hfr in
theorem Fmt.decode_fields (h : f.hasInf = true → ex ≠ 2 ^ f.expBits - 1)
    (h' : f.hasInf = false → ex = 2 ^ f.expBits - 1 → fr ≠ 2 ^ f.fracBits - 1) :
    f.decode (f.fields neg ex fr) =
      .fin neg (if ex = 0 then fr else 2 ^ f.fracBits + fr) ((max ex 1 : Nat) - (f.bias : Int) - f.fracBits) := by
  rw [Fmt.decode_finite, Fmt.bitAt_fields hex hfr, Fmt.bits_exp_fields hex hfr, Fmt.bits_frac_fields hfr]
  · rwa [Fmt.bits_exp_fields hex hfr]
  · rwa [Fmt.bits_exp_fields hex hfr, Fmt.bits_frac_fields hfr]

end

/-! ### Whole units that a format holds -/

/-- The format holds n units of 2^q, a carry into the next power of two included. -/
structure Fmt.Holds (f : Fmt) (n : Nat) (q : Int) : Prop where
  qmin_le : f.qmin ≤ q
  le_qmax : q ≤ f.qmax
  le_nmax : q = f.qmax → n ≤ f.nmax
  le_carry : n ≤ 2 ^ (f.fracBits + 1)
  eq_qmin : n < 2 ^ f.fracBits → q = f.qmin

section
variable {f : Fmt} {neg : Bool} {n : Nat} {q : Int}

theorem Fmt.qmin_eq (f : Fmt) : f.qmin = 1 - (f.bias : Int) - f.fracBits := rfl

theorem Fmt.Listed.four_le_exp (hf : f.Listed) : 4 ≤ 2 ^ f.expBits := Nat.pow_le_pow_right two_pos hf.exp_ge

theorem Fmt.Listed.two_le_frac (hf : f.Listed) : 2 ≤ 2 ^ f.fracBits := Nat.pow_le_pow_right (i := 1) two_pos hf.frac_pos

/-- The exponent field of the largest finite values. -/
def Fmt.topField (f : Fmt) : Nat := if f.hasInf then 2 ^ f.expBits - 2 else 2 ^ f.expBits - 1

theorem Fmt.qmax_eq_topField (f : Fmt) : f.qmax = f.topField - (f.bias : Int) - f.fracBits := rfl

theorem Fmt.Listed.two_le_topField (hf : f.Listed) : 2 ≤ f.topField := by
  have := hf.four_le_exp
  rw [Fmt.topField]
  split <;> omega

theorem Fmt.Listed.qmin_lt_qmax (hf : f.Listed) : f.qmin < f.qmax := by
  have := hf.two_le_topField
  rw [Fmt.qmin_eq, Fmt.qmax_eq_topField]
  omega

theorem Fmt.topField_lt (f : Fmt) : f.topField < 2 ^ f.expBits := by
  have := Nat.two_pow_pos f.expBits
  rw [Fmt.topField]
  split <;> omega

theorem Fmt.Listed.nmax_bounds (hf : f.Listed) : 2 ^ f.fracBits ≤ f.nmax ∧ f.nmax < 2 ^ (f.fracBits + 1) := by
  have := hf.two_le_frac
  rw [Fmt.nmax, pow_succ]
  split <;> omega

theorem Fmt.nmax_of_hasInf_false (h : f.hasInf = false) : f.nmax = 2 ^ (f.fracBits + 1) - 2 := by
  rw [Fmt.nmax, h]
  rfl

theorem Fmt.pack_of_lt (h : n < 2 ^ f.fracBits) : f.pack neg n q = f.fields neg 0 n := by
  rw [Fmt.pack, if_pos h, Fmt.fields, Nat.zero_mul, Nat.add_zero]

/-- A carry is the next exponent with fraction 0. -/
theorem Fmt.pack_of_carry {ex : Nat} (h : q + 1 + f.fracBits + f.bias = ex) :
    f.pack neg (2 ^ (f.fracBits + 1)) q = f.fields neg ex 0 := by
  have hge : ¬2 ^ (f.fracBits + 1) < 2 ^ f.fracBits := not_lt.2 (Nat.pow_le_pow_right two_pos (Nat.le_succ _))
  simp only [Fmt.pack, if_neg hge, if_true, h, Fmt.fields, Int.toNat_natCast, Nat.sub_self]

theorem Fmt.pack_of_ge {ex : Nat} (h : 2 ^ f.fracBits ≤ n) (hne : n ≠ 2 ^ (f.fracBits + 1)) (hex : q + f.fracBits + f.bias = ex) :
    f.pack neg n q = f.fields neg ex (n - 2 ^ f.fracBits) := by
  simp only [Fmt.pack, if_neg (not_lt.2 h), if_neg hne, hex, Fmt.fields, Int.toNat_natCast]

/-- Units that the format holds are the bits of an exponent and a fraction of that value. -/
theorem Fmt.Listed.exists_fields (hf : f.Listed) (h : f.Holds n q) : ∃ ex fr, f.pack neg n q = f.fields neg ex fr ∧
    ex < 2 ^ f.expBits ∧ fr < 2 ^ f.fracBits ∧ (f.hasInf = true → ex ≠ 2 ^ f.expBits - 1) ∧
    (f.hasInf = false → ex = 2 ^ f.expBits - 1 → fr ≠ 2 ^ f.fracBits - 1) ∧
    ((if ex = 0 then fr else 2 ^ f.fracBits + fr : Nat) : ℚ) * 2 ^ (((max ex 1 : Nat) : Int) - f.bias - f.fracBits) = n * 2 ^ q := by
  have htop := hf.two_le_topField
  have htop' := f.topField_lt
  have hfour := hf.four_le_exp
  have hinf : f.hasInf = true → f.topField = 2 ^ f.expBits - 2 := fun h => by simp [Fmt.topField, h]
  have hnoinf : f.hasInf = false → f.topField = 2 ^ f.expBits - 1 := fun h => by simp [Fmt.topField, h]
  have hqmax := f.qmax_eq_topField
  have hqmin := f.qmin_eq
  have hfrac := hf.two_le_frac
  have hpow : 2 ^ (f.fracBits + 1) = 2 ^ f.fracBits * 2 := pow_succ _ _
  obtain ⟨hq, hq', hn, hc, hs⟩ := h
  obtain hlt | hge := Nat.lt_or_ge n (2 ^ f.fracBits)
  · refine ⟨0, n, Fmt.pack_of_lt hlt, by omega, hlt, fun _ => by omega, fun _ h => by omega, ?_⟩
    rw [hs hlt, hqmin, if_pos rfl]
    rfl
  · obtain rfl | hne := eq_or_ne n (2 ^ (f.fracBits + 1))
    · have hltmax : q < f.qmax := by
        refine lt_of_le_of_ne hq' fun h => ?_
        have := hn h
        have := hf.nmax_bounds
        omega
      obtain ⟨ex, hex⟩ := Int.eq_ofNat_of_zero_le (show 0 ≤ q + 1 + f.fracBits + f.bias by omega)
      refine ⟨ex, 0, Fmt.pack_of_carry hex, by omega, by omega, fun h => ?_, fun _ _ => by omega, ?_⟩
      · have := hinf h
        omega
      · have hexp : ((max ex 1 : Nat) : Int) - f.bias - f.fracBits = q + 1 := by omega
        rw [hexp, if_neg (by omega), Nat.add_zero, zpow_add_one₀ two_ne_zero]
        push_cast
        ring
    · obtain ⟨ex, hex⟩ := Int.eq_ofNat_of_zero_le (show 0 ≤ q + f.fracBits + f.bias by omega)
      refine ⟨ex, n - 2 ^ f.fracBits, Fmt.pack_of_ge hge hne hex, by omega, by omega, fun h => ?_, fun h h' => ?_, ?_⟩
      · have := hinf h
        omega
      · have := hnoinf h
        have := hn (by omega)
        rw [Fmt.nmax_of_hasInf_false h] at this
        omega
      · have hexp : ((max ex 1 : Nat) : Int) - f.bias - f.fracBits = q := by omega
        rw [hexp, if_neg (by omega), Nat.add_sub_cancel' hge]

theorem Fmt.Listed.decode_pack (hf : f.Listed) (h : f.Holds n q) : (f.decode (f.pack neg n q)).sign = neg ∧
    (f.decode (f.pack neg n q)).value = some ((if neg then -1 else 1 : ℚ) * n * 2 ^ q) := by
  obtain ⟨ex, fr, hpack, hex, hfr, hinf, hnoinf, hvalue⟩ := hf.exists_fields (neg := neg) h
  rw [hpack, Fmt.decode_fields hex hfr hinf hnoinf, fp_value_fin, mul_assoc, hvalue, mul_assoc]
  exact ⟨rfl, rfl⟩

theorem Fmt.Listed.pack_lt (hf : f.Listed) (h : f.Holds n q) : f.pack neg n q < 2 ^ f.width := by
  obtain ⟨ex, fr, hpack, hex, hfr, -⟩ := hf.exists_fields (neg := neg) h
  exact hpack ▸ Fmt.fields_lt hex hfr

theorem Fmt.Listed.holds_zero (hf : f.Listed) : f.Holds 0 f.qmin :=
  ⟨le_rfl, hf.qmin_lt_qmax.le, fun _ => Nat.zero_le _, Nat.zero_le _, fun _ => rfl⟩

theorem Fmt.Listed.holds_max (hf : f.Listed) : f.Holds f.nmax f.qmax :=
  have hn := hf.nmax_bounds
  ⟨hf.qmin_lt_qmax.le, le_rfl, fun _ => le_rfl, hn.2.le, fun h => absurd h (Nat.not_lt.2 hn.1)⟩

/-! ### Overflow (R72) -/

theorem Fmt.infinity_of_hasInf (h : f.hasInf = true) : f.infinity neg = f.fields neg (2 ^ f.expBits - 1) 0 := if_pos h

theorem Fmt.infinity_of_hasInf_false (h : f.hasInf = false) : f.infinity neg = f.pack neg f.nmax f.qmax := if_neg (by simp [h])

theorem Fmt.decode_infinity (h : f.hasInf = true) : f.decode (f.infinity neg) = .inf neg := by
  have hex : 2 ^ f.expBits - 1 < 2 ^ f.expBits := Nat.sub_lt (Nat.two_pow_pos _) one_pos
  have hfr := Nat.two_pow_pos f.fracBits
  rw [Fmt.infinity_of_hasInf h, Fmt.decode_special h (Fmt.bits_exp_fields hex hfr), Fmt.bits_frac_fields hfr, if_pos rfl,
    Fmt.bitAt_fields hex hfr]

theorem Fmt.Listed.infinity_lt (hf : f.Listed) : f.infinity neg < 2 ^ f.width := by
  cases h : f.hasInf with
  | true => exact Fmt.infinity_of_hasInf h ▸ Fmt.fields_lt (Nat.sub_lt (Nat.two_pow_pos _) one_pos) (Nat.two_pow_pos _)
  | false => exact Fmt.infinity_of_hasInf_false h ▸ hf.pack_lt hf.holds_max

/-- The modes under which an overflow goes to infinity (R72). -/
def Rounding.ToInfinity (md : Rounding) (neg : Bool) : Prop :=
  md = .rne ∨ md = .stochastic ∨ (md = .rup ∧ neg = false) ∨ (md = .rdn ∧ neg = true)

theorem Fmt.overflow_of_toInfinity {md : Rounding} (h : md.ToInfinity neg) : f.overflow md neg = f.infinity neg := by
  obtain rfl | rfl | ⟨rfl, rfl⟩ | ⟨rfl, rfl⟩ := h <;> rfl

theorem Fmt.overflow_of_not_toInfinity {md : Rounding} (h : ¬md.ToInfinity neg) : f.overflow md neg = f.pack neg f.nmax f.qmax := by
  cases md with
  | rne | stochastic => exact absurd (by simp [Rounding.ToInfinity]) h
  | rtz => rfl
  | rup => cases neg with
    | true => rfl
    | false => exact absurd (by simp [Rounding.ToInfinity]) h
  | rdn => cases neg with
    | false => rfl
    | true => exact absurd (by simp [Rounding.ToInfinity]) h

theorem Fmt.Listed.overflow_lt (hf : f.Listed) (md : Rounding) : f.overflow md neg < 2 ^ f.width := by
  by_cases h : md.ToInfinity neg
  · rw [Fmt.overflow_of_toInfinity h]
    exact hf.infinity_lt
  · rw [Fmt.overflow_of_not_toInfinity h]
    exact hf.pack_lt hf.holds_max

/-- An overflow goes to infinity, or stops at the largest finite value (R72). -/
theorem Fmt.Listed.decode_overflow (hf : f.Listed) (md : Rounding) : (f.decode (f.overflow md neg)).sign = neg ∧
    (f.hasInf = true ∧ md.ToInfinity neg → f.decode (f.overflow md neg) = .inf neg) ∧
    (¬(f.hasInf = true ∧ md.ToInfinity neg) →
      (f.decode (f.overflow md neg)).value = some ((if neg then -1 else 1 : ℚ) * f.nmax * 2 ^ f.qmax)) := by
  have hmax := hf.decode_pack (neg := neg) hf.holds_max
  by_cases h : md.ToInfinity neg
  · rw [Fmt.overflow_of_toInfinity h]
    cases hi : f.hasInf with
    | true =>
      rw [Fmt.decode_infinity hi]
      exact ⟨rfl, fun _ => rfl, fun hn => absurd ⟨rfl, h⟩ hn⟩
    | false =>
      rw [Fmt.infinity_of_hasInf_false hi]
      exact ⟨hmax.1, fun hi' => Bool.noConfusion hi'.1, fun _ => hmax.2⟩
  · rw [Fmt.overflow_of_not_toInfinity h]
    exact ⟨hmax.1, fun h' => absurd h'.2 h, fun _ => hmax.2⟩

/-! ### A whole number of units written -/

/-- What is written for n units of 2^q: an overflow, a zero under FTZ, or those units (R72, R74). -/
def Fmt.settle (f : Fmt) (md : FpMode) (neg : Bool) (n : Nat) (q : Int) : Nat :=
  if f.qmax < q || (q = f.qmax && f.nmax < n) then f.overflow md.round neg
  else if md.ftz && f.flushes && n < 2 ^ f.fracBits then f.pack neg 0 q
  else f.pack neg n q

/-- n units of 2^q as a rounding leaves them: a carry at most, and a whole fraction unless the unit is the least. -/
structure Fmt.Rounded (f : Fmt) (n : Nat) (q : Int) : Prop where
  qmin_le : f.qmin ≤ q
  le_carry : n ≤ 2 ^ (f.fracBits + 1)
  eq_qmin : n < 2 ^ f.fracBits → q = f.qmin

/-- The units pass the largest finite value. -/
def Fmt.Overflows (f : Fmt) (n : Nat) (q : Int) : Prop := f.qmax < q ∨ (q = f.qmax ∧ f.nmax < n)

theorem Fmt.settle_of_overflows {md : FpMode} (h : f.Overflows n q) : f.settle md neg n q = f.overflow md.round neg :=
  if_pos (by simpa [Fmt.Overflows] using h)

theorem Fmt.settle_of_not_overflows {md : FpMode} (h : ¬f.Overflows n q) : f.settle md neg n q =
    f.pack neg (if md.ftz = true ∧ f.flushes = true ∧ n < 2 ^ f.fracBits then 0 else n) q := by
  refine (if_neg (by simpa [Fmt.Overflows] using h)).trans ?_
  by_cases hz : md.ftz = true ∧ f.flushes = true ∧ n < 2 ^ f.fracBits
  · rw [if_pos hz]
    exact if_pos (by simpa [and_assoc] using hz)
  · rw [if_neg hz]
    exact if_neg (by simpa [and_assoc] using hz)

theorem Fmt.Rounded.holds (h : f.Rounded n q) (ho : ¬f.Overflows n q) : f.Holds n q := by
  obtain ⟨h1, h2⟩ := not_or.1 ho
  exact ⟨h.qmin_le, not_lt.1 h1, fun hq => not_lt.1 fun hn => h2 ⟨hq, hn⟩, h.le_carry, h.eq_qmin⟩

/-- Units that do not pass the largest finite value are held, and so is the zero that FTZ makes of them. -/
theorem Fmt.Rounded.holds_flushed (hf : f.Listed) (h : f.Rounded n q) (ho : ¬f.Overflows n q) (c : Prop) [Decidable c]
    (hc : c → n < 2 ^ f.fracBits) : f.Holds (if c then 0 else n) q := by
  split
  next hz => exact h.eq_qmin (hc hz) ▸ hf.holds_zero
  next => exact h.holds ho

theorem Fmt.Rounded.settle_lt (hf : f.Listed) (h : f.Rounded n q) (md : FpMode) : f.settle md neg n q < 2 ^ f.width := by
  by_cases ho : f.Overflows n q
  · rw [Fmt.settle_of_overflows ho]
    exact hf.overflow_lt _
  · rw [Fmt.settle_of_not_overflows ho]
    exact hf.pack_lt (h.holds_flushed hf ho _ fun hz => hz.2.2)

/-- The order of the units is that of the numbers. -/
theorem Fmt.Rounded.overflows_iff (hf : f.Listed) (h : f.Rounded n q) :
    f.Overflows n q ↔ (f.nmax : ℚ) * 2 ^ f.qmax < n * 2 ^ q := by
  obtain ⟨hmin, hmax⟩ := hf.nmax_bounds
  have hpos : (0 : ℚ) < 2 ^ f.qmax := by positivity
  obtain hlt | rfl | hgt := lt_trichotomy q f.qmax
  · have hno : ¬f.Overflows n q := fun ho => by
      obtain ho | ⟨ho, -⟩ := ho <;> omega
    have hle : (n : ℚ) * 2 ^ q ≤ f.nmax * 2 ^ f.qmax := by
      have hn : (n : ℚ) ≤ 2 ^ (f.fracBits + 1) := by exact_mod_cast h.le_carry
      have hq : (2 : ℚ) ^ q ≤ 2 ^ (f.qmax - 1) := zpow_le_zpow_right₀ one_le_two (by omega)
      have hm : (2 : ℚ) ^ f.fracBits ≤ f.nmax := by exact_mod_cast hmin
      calc (n : ℚ) * 2 ^ q ≤ 2 ^ (f.fracBits + 1) * 2 ^ (f.qmax - 1) := by gcongr
        _ = 2 ^ f.fracBits * 2 ^ f.qmax := by
          rw [zpow_sub_one₀ two_ne_zero, pow_succ]
          ring
        _ ≤ f.nmax * 2 ^ f.qmax := by gcongr
    exact iff_of_false hno (not_lt.2 hle)
  · rw [mul_lt_mul_iff_left₀ hpos, Nat.cast_lt]
    simp [Fmt.Overflows]
  · have hn : (2 : ℚ) ^ f.fracBits ≤ n := by
      have : ¬n < 2 ^ f.fracBits := fun hn => by
        have := h.eq_qmin hn
        have := hf.qmin_lt_qmax
        omega
      exact_mod_cast not_lt.1 this
    have hq : (2 : ℚ) ^ (f.qmax + 1) ≤ 2 ^ q := zpow_le_zpow_right₀ one_le_two (by omega)
    have hm : (f.nmax : ℚ) < 2 ^ (f.fracBits + 1) := by exact_mod_cast hmax
    refine iff_of_true (Or.inl hgt) ?_
    calc (f.nmax : ℚ) * 2 ^ f.qmax < 2 ^ (f.fracBits + 1) * 2 ^ f.qmax := by gcongr
      _ = 2 ^ f.fracBits * 2 ^ (f.qmax + 1) := by
        rw [zpow_add_one₀ two_ne_zero, pow_succ]
        ring
      _ ≤ n * 2 ^ q := by gcongr

end

end Sys2Proof.Machine
end

section
/-! ## Rounding to a format (R69, R72 to R74) -/

namespace Sys2Proof.Machine

/-! ### The place of a magnitude -/

theorem two_pow_bitLen {m : Nat} (h : 0 < m) : 2 ^ (bitLen m - 1) ≤ m ∧ m < 2 ^ bitLen m ∧ 1 ≤ bitLen m := by
  rw [bitLen, if_neg h.ne', Nat.add_sub_cancel]
  exact ⟨Nat.log2_self_le h.ne', Nat.lt_log2_self, Nat.le_add_left 1 _⟩

/-- What lies from m units of 2^e to below m + 1 of them has the logarithm that the bits of m tell. -/
theorem log_eq_of_units {R : Type} [Field R] [LinearOrder R] [IsStrictOrderedRing R] [FloorSemiring R] {m : Nat} {e : Int} {r : R}
    (hm : 0 < m) (hlo : (m : R) * 2 ^ e ≤ r) (hhi : r < (m + 1) * 2 ^ e) : Int.log 2 r = e + bitLen m - 1 := by
  obtain ⟨hb, hb', hpos⟩ := two_pow_bitLen hm
  generalize bitLen m = b at hb hb' hpos ⊢
  have hm' : (0 : R) < m := by exact_mod_cast hm
  have hr : 0 < r := lt_of_lt_of_le (by positivity) hlo
  have hlow : ((2 : Nat) : R) ^ (e + b - 1) ≤ r := by
    refine le_trans ?_ hlo
    have hcast : (2 : R) ^ (b - 1) ≤ m := by exact_mod_cast hb
    rw [show e + b - 1 = (b - 1 : Nat) + e by omega, Nat.cast_ofNat, zpow_add₀ two_ne_zero, zpow_natCast]
    gcongr
  have hhigh : r < ((2 : Nat) : R) ^ (e + b) := by
    refine lt_of_lt_of_le hhi ?_
    have hcast : (m : R) + 1 ≤ 2 ^ b := by exact_mod_cast hb'
    rw [add_comm e, Nat.cast_ofNat, zpow_add₀ two_ne_zero, zpow_natCast]
    gcongr
  have h1 := (Int.zpow_le_iff_le_log one_lt_two hr).1 hlow
  have h2 := (Int.lt_zpow_iff_log_lt one_lt_two hr).1 hhigh
  omega

section
variable {x : Exact} {r : ℝ}

theorem Exact.StandsFor.log_eq (h : x.StandsFor r) : Int.log 2 r = x.e + bitLen x.m - 1 :=
  log_eq_of_units h.1 h.2.1 h.2.2.1

theorem Exact.StandsFor.pos (h : x.StandsFor r) : 0 < r := by
  obtain ⟨hm, hlo, -⟩ := h
  have hm' : (0 : ℝ) < x.m := by exact_mod_cast hm
  exact lt_of_lt_of_le (by positivity) hlo

/-- What an inexact magnitude leaves out, as a part of its last bit. -/
theorem Exact.StandsFor.exists_part (h : x.StandsFor r) : ∃ δ : ℝ, r = (x.m + δ) * 2 ^ x.e ∧ 0 ≤ δ ∧ δ < 1 ∧
    (x.inexact = true ↔ δ ≠ 0) := by
  obtain ⟨-, hlo, hhi, hin, -⟩ := h
  have hpos : (0 : ℝ) < 2 ^ x.e := by positivity
  have hr : r = (x.m + (r / 2 ^ x.e - x.m)) * 2 ^ x.e := by
    rw [add_sub_cancel, div_mul_cancel₀ _ hpos.ne']
  refine ⟨r / 2 ^ x.e - x.m, hr, ?_, ?_, hin.trans (not_congr ?_)⟩
  · rwa [sub_nonneg, le_div_iff₀ hpos]
  · rwa [sub_lt_iff_lt_add', div_lt_iff₀ hpos]
  · rw [sub_eq_zero, div_eq_iff hpos.ne']

/-- An inexact magnitude has its last bit at least 42 places below its first. -/
theorem Exact.StandsFor.bitLen_of_inexact (h : x.StandsFor r) (hi : x.inexact = true) : 43 ≤ bitLen x.m := by
  obtain ⟨hm, -, -, -, hbits⟩ := h
  have hlt : 42 < bitLen x.m := (Nat.pow_lt_pow_iff_right (by decide : 1 < 2)).1 ((hbits hi).trans_lt (two_pow_bitLen hm).2.1)
  exact hlt

theorem exact_standsFor {m : Nat} (e : Int) (h : 0 < m) : (⟨m, e, false⟩ : Exact).StandsFor (m * 2 ^ e) := by
  have hpos : (0 : ℝ) < 2 ^ e := by positivity
  exact ⟨h, le_rfl, by gcongr; exact lt_add_one _, by simp, by simp⟩

/-! ### The unit -/

/-- The exponent of the unit to which a format rounds a magnitude (R72). -/
noncomputable def Fmt.unit (f : Fmt) (r : ℝ) : Int := max (Int.log 2 r - f.fracBits) f.qmin

/-- That unit as the bits of a magnitude tell it. -/
def Fmt.unitOf (f : Fmt) (x : Exact) : Int := max (x.e + bitLen x.m - 1 - f.fracBits) f.qmin

variable {f : Fmt}

theorem Fmt.unitOf_eq_unit (h : x.StandsFor r) : f.unitOf x = f.unit r := by rw [Fmt.unitOf, Fmt.unit, h.log_eq]

theorem Fmt.round_eq_settle_near (f : Fmt) (md : FpMode) (neg : Bool) (x : Exact) (u : Nat) :
    f.round md neg x u = f.settle md neg ((f.near x).units (f.unitOf (f.near x)) md.round neg u) (f.unitOf (f.near x)) := rfl

/-- A magnitude is brought nearer only where it is far above the format or far below it. -/
theorem Fmt.near_cases (f : Fmt) (h : 0 < x.m) : f.near x = x ∨
    (f.qmax + f.fracBits + 8 < x.e + bitLen x.m ∧ f.near x = ⟨1, f.qmax + f.fracBits + 4, false⟩) ∨
    (x.e + bitLen x.m < f.qmin - 40 ∧ f.near x = ⟨1, f.qmin - 40, false⟩) := by
  simp only [Fmt.near, if_neg h.ne']
  split_ifs with h1 h2
  · exact Or.inr (Or.inl ⟨h1, rfl⟩)
  · exact Or.inr (Or.inr ⟨h2, rfl⟩)
  · exact Or.inl rfl

section
variable {md : Rounding} {neg : Bool} {u n : Nat}

/-- Units of a positive magnitude have at most a carry, and a whole fraction unless the unit is the least. -/
theorem RoundsTo.rounded (h : RoundsTo md neg u (r / 2 ^ f.unit r) n) (hu : u < 65536) (hr : 0 < r) : f.Rounded n (f.unit r) := by
  have hlog := (Int.zpow_le_iff_le_log (R := ℝ) one_lt_two hr).2 le_rfl
  have hlog' := (Int.lt_zpow_iff_log_lt (R := ℝ) one_lt_two hr).2 (lt_add_one _)
  rw [Nat.cast_ofNat] at hlog hlog'
  have hpos : (0 : ℝ) < 2 ^ f.unit r := by positivity
  refine ⟨le_max_right _ _, h.le_of_lt hu (by positivity) ?_, fun hn => ?_⟩
  · rw [div_lt_iff₀ hpos]
    refine hlog'.trans_le ?_
    push_cast
    rw [← zpow_natCast, ← zpow_add₀ two_ne_zero]
    refine zpow_le_zpow_right₀ one_le_two ?_
    have : Int.log 2 r - f.fracBits ≤ f.unit r := le_max_left _ _
    push_cast
    omega
  · by_contra hne
    have hq : f.unit r = Int.log 2 r - f.fracBits := (max_choice _ _).resolve_right hne
    refine absurd (h.le_of_le hu ?_) (not_le.2 hn)
    rw [le_div_iff₀ hpos]
    refine le_trans (le_of_eq ?_) hlog
    push_cast
    rw [← zpow_natCast, ← zpow_add₀ two_ne_zero, hq, add_sub_cancel]

/-- The bits of a magnitude round as the number for which it stands. -/
theorem Exact.StandsFor.roundsTo_units (h : x.StandsFor r) (hf : f.Listed) (hu : u < 65536) :
    RoundsTo md neg u (r / 2 ^ f.unit r) (x.units (f.unit r) md neg u) := by
  obtain ⟨δ, hr, h0, h1, hδ⟩ := h.exists_part
  have hq : x.inexact = true → 16 ≤ f.unit r - x.e := fun hi => by
    have hb := h.bitLen_of_inexact hi
    have hfrac := hf.frac_le
    have hle : x.e + bitLen x.m - 1 - f.fracBits ≤ f.unit r := h.log_eq ▸ le_max_left _ _
    omega
  generalize f.unit r = q at hq ⊢
  rw [hr]
  exact Machine.roundsTo_units hu h0 h1 hδ hq

end

theorem bitLen_one : bitLen 1 = 1 := by decide

/-- The model's rounding writes the units that the mode asks for (R72): bringing a magnitude nearer changes nothing. -/
theorem Fmt.Listed.round_eq_settle (hf : f.Listed) {md : FpMode} {neg : Bool} {u n : Nat} (hu : u < 65536) (hx : x.StandsFor r)
    (hn : RoundsTo md.round neg u (r / 2 ^ f.unit r) n) : f.round md neg x u = f.settle md neg n (f.unit r) := by
  have hlog := hx.log_eq
  rw [Fmt.round_eq_settle_near]
  obtain hnear | ⟨htop, hnear⟩ | ⟨htop, hnear⟩ := f.near_cases hx.1
  · rw [hnear, Fmt.unitOf_eq_unit hx, (hx.roundsTo_units hf hu).unique hn]
  · have hq : f.qmax < f.unitOf (f.near x) := by
      simp only [hnear, Fmt.unitOf, bitLen_one]
      omega
    have hq' : f.qmax < f.unit r := lt_max_of_lt_left (by omega)
    rw [Fmt.settle_of_overflows (Or.inl hq), Fmt.settle_of_overflows (Or.inl hq')]
  · have hq : f.unitOf (f.near x) = f.qmin := by
      simp only [hnear, Fmt.unitOf, bitLen_one]
      omega
    have hq' : f.unit r = f.qmin := max_eq_right (by omega)
    have hpos : (0 : ℝ) < 2 ^ f.qmin := by positivity
    have htiny : r / 2 ^ f.qmin < 1 / 65536 := by
      have hr := (Int.lt_zpow_iff_log_lt (R := ℝ) one_lt_two hx.pos).2 (show _ < f.qmin - 16 by omega)
      rw [Nat.cast_ofNat, zpow_sub₀ two_ne_zero] at hr
      rw [div_lt_iff₀ hpos]
      refine hr.trans_eq ?_
      norm_num
      ring
    have hnear' := roundsTo_units_exact (md := md.round) (neg := neg) 1 (f.qmin - 40) f.qmin hu
    have htiny' : ((1 : Nat) : ℝ) * 2 ^ (f.qmin - 40) / 2 ^ f.qmin < 1 / 65536 := by
      rw [zpow_sub₀ two_ne_zero]
      field_simp
      norm_num
    rw [hq'] at hn ⊢
    rw [hq, hnear, hnear'.unique (hn.of_tiny hu (div_pos hx.pos hpos) htiny (by positivity) htiny')]

end

/-! ### The rule -/

theorem rules_floatRounding : Rules.FloatRounding := by
  intro f hmem md neg x u n r hu hx
  have hf := Fmt.listed hmem
  intro q top qtop sign y hn
  have htop : top = f.nmax := hf.nmax_eq.symm
  have hqtop : qtop = f.qmax := hf.qmax_eq.symm
  have hrounded : f.Rounded n q := RoundsTo.rounded (f := f) hn hu hx.pos
  have hy : y = f.decode (f.settle md neg n q) := congrArg f.decode (hf.round_eq_settle hu hx hn)
  have hiff := hrounded.overflows_iff hf
  rw [hy, htop, hqtop]
  by_cases ho : f.Overflows n q
  · obtain ⟨hsign, hinf, hmax⟩ := hf.decode_overflow (neg := neg) md.round
    rw [Fmt.settle_of_overflows ho]
    refine ⟨hsign, fun hle => absurd (hiff.1 ho) (not_lt.2 hle), fun _ => ?_⟩
    rw [hf.hasInf_iff] at hinf hmax
    exact ⟨hinf, hmax⟩
  · have hheld := hrounded.holds_flushed hf ho (md.ftz = true ∧ f.flushes = true ∧ n < 2 ^ f.fracBits) fun h => h.2.2
    obtain ⟨hsign, hvalue⟩ := hf.decode_pack (neg := neg) hheld
    rw [Fmt.settle_of_not_overflows ho]
    refine ⟨hsign, fun _ => ?_, fun hlt => absurd (hiff.2 hlt) ho⟩
    rw [hvalue]
    simp only [hf.flushes_iff, and_assoc]
    by_cases hz : md.ftz = true ∧ f ≠ e4m3 ∧ f ≠ e5m2 ∧ n < 2 ^ f.fracBits
    · rw [if_pos hz, if_pos hz, Nat.cast_zero, mul_zero, zero_mul]
    · rw [if_neg hz, if_neg hz]

end Sys2Proof.Machine
end

section
open Sys2Proof Sys2Proof.Machine

/-- Settles O10: the fields of the formats, and one rounding to whole units of the place of the exact result. -/
theorem floatFormats : Obligations.FloatFormats := ⟨rules_floatFormats, rules_floatRounding⟩
end

section
/-! ## Exact arithmetic on float values (R69, R70, R71, R324) -/

namespace Sys2Proof.Machine

/-! ### Values as numbers -/

section
variable {x y : Fp} {v w : ℚ}

/-- The number of a sign, a magnitude and an exponent. -/
theorem Fp.value_eq_some_iff : x.value = some v ↔ ∃ neg m e, x = .fin neg m e ∧ v = (if neg then -1 else 1) * m * (2 : ℚ) ^ e := by
  cases x with
  | nan | inf => simp [Fp.value]
  | fin neg m e => simp [fp_value_fin, eq_comm]

/-- The integer in units not above the exponent is the number. -/
theorem Fp.scaled_mul {q : Int} (h : x.value = some v) (hq : q ≤ x.exp) : (x.scaled q : ℚ) * 2 ^ q = v := by
  obtain ⟨neg, m, e, rfl, rfl⟩ := Fp.value_eq_some_iff.1 h
  have hpow : (2 : ℚ) ^ e = 2 ^ (e - q).toNat * 2 ^ q := by
    have hnonneg : 0 ≤ e - q := Int.sub_nonneg.2 hq
    rw [← zpow_natCast, Int.toNat_of_nonneg hnonneg, ← zpow_add₀ two_ne_zero, sub_add_cancel]
  rw [Fp.scaled, hpow]
  push_cast
  ring

theorem Fp.sign_eq_of_value (h : x.value = some v) (hv : v ≠ 0) : x.sign = decide (v < 0) := by
  obtain ⟨neg, m, e, rfl, rfl⟩ := Fp.value_eq_some_iff.1 h
  have hm : (0 : ℚ) < m * 2 ^ e := by
    have : (m : ℚ) ≠ 0 := fun h0 => hv (by rw [h0]; ring)
    have : (0 : ℚ) < m := lt_of_le_of_ne (Nat.cast_nonneg m) this.symm
    positivity
  cases neg with
  | true => simpa [Fp.sign, mul_assoc] using hm
  | false => simpa [Fp.sign, mul_assoc] using hm.le

/-! ### Products (R69, R70) -/

theorem Fp.mul_fin (a b : Bool) (m n : Nat) (e k : Int) : (Fp.mul (.fin a m e) (.fin b n k)).sign = (a != b) ∧
    (Fp.mul (.fin a m e) (.fin b n k)).value = some (((if a then -1 else 1 : ℚ) * m * 2 ^ e) * ((if b then -1 else 1 : ℚ) * n * 2 ^ k)) := by
  refine ⟨rfl, ?_⟩
  rw [Fp.mul, fp_value_fin, zpow_add₀ two_ne_zero]
  cases a <;> cases b <;> simp <;> ring

theorem Fp.mul_nan (x : Fp) : Fp.mul .nan x = .nan ∧ Fp.mul x .nan = .nan := by
  cases x <;> exact ⟨rfl, rfl⟩

/-! ### Sums (R69, R70) -/

section
variable {md : Rounding} {xs : List Fp}

theorem sumExact_of_nan (h : .nan ∈ xs) : sumExact md xs = .nan := if_pos (by simpa using h)

theorem sumExact_of_both (h : .inf true ∈ xs) (h' : .inf false ∈ xs) : sumExact md xs = .nan := by
  by_cases hn : .nan ∈ xs
  · exact sumExact_of_nan hn
  · simp [sumExact, h, h', hn]

theorem sumExact_of_inf {s : Bool} (hn : .nan ∉ xs) (h : .inf s ∈ xs) (h' : .inf (!s) ∉ xs) : sumExact md xs = .inf s := by
  cases s with
  | true => simp_all [sumExact]
  | false => simp_all [sumExact]

/-- The least exponent of a list of values. -/
def minExp (xs : List Fp) : Int := xs.foldl (fun m x => min m x.exp) (xs.headD (.fin false 0 0)).exp

theorem foldl_min_le {α : Type} (g : α → Int) (xs : List α) (a : Int) :
    xs.foldl (fun m x => min m (g x)) a ≤ a ∧ ∀ x ∈ xs, xs.foldl (fun m x => min m (g x)) a ≤ g x := by
  induction xs generalizing a with
  | nil => simp
  | cons y ys ih =>
    obtain ⟨h1, h2⟩ := ih (min a (g y))
    refine ⟨h1.trans (min_le_left _ _), fun x hx => ?_⟩
    obtain rfl | hx := List.mem_cons.1 hx
    · exact h1.trans (min_le_right _ _)
    · exact h2 x hx

theorem minExp_le (h : x ∈ xs) : minExp xs ≤ x.exp := (foldl_min_le Fp.exp xs _).2 x h

theorem sum_scaled_mul {q : Int} {vs : List ℚ} (h : xs.map Fp.value = vs.map some) (hq : ∀ x ∈ xs, q ≤ x.exp) :
    ((xs.map (Fp.scaled q)).sum : ℚ) * 2 ^ q = vs.sum := by
  induction xs generalizing vs with
  | nil =>
    obtain rfl := List.map_eq_nil_iff.1 h.symm
    simp
  | cons x xs ih =>
    obtain ⟨v, vs, rfl, hv, hvs⟩ := List.map_eq_cons_iff.1 h.symm
    have hx := Fp.scaled_mul hv.symm (hq x List.mem_cons_self)
    have hxs := ih hvs.symm fun y hy => hq y (List.mem_cons_of_mem _ hy)
    rw [List.map_cons, List.sum_cons, List.sum_cons, Int.cast_add, add_mul, hx, hxs]

theorem value_isSome_of_mem {vs : List ℚ} (h : xs.map Fp.value = vs.map some) (hx : x ∈ xs) : ∃ v ∈ vs, x.value = some v := by
  have hmem : x.value ∈ vs.map some := h ▸ List.mem_map_of_mem hx
  obtain ⟨v, hv, he⟩ := List.mem_map.1 hmem
  exact ⟨v, hv, he.symm⟩

/-- The exact sum in units of the least exponent. -/
def sumUnits (xs : List Fp) : Int := (xs.map (Fp.scaled (minExp xs))).foldl (· + ·) 0

theorem sumUnits_mul {vs : List ℚ} (h : xs.map Fp.value = vs.map some) : (sumUnits xs : ℚ) * 2 ^ minExp xs = vs.sum := by
  rw [sumUnits, ← List.sum_eq_foldl]
  exact sum_scaled_mul h fun x hx => minExp_le hx

/-- The sum of numbers is written in units of the least exponent (R69). -/
theorem sumExact_of_finite {vs : List ℚ} (h : xs.map Fp.value = vs.map some) : sumExact md xs =
    if sumUnits xs = 0 then
      .fin (if xs.all Fp.sign then true else if xs.all (fun x => !x.sign) then false else md = .rdn) 0 (minExp xs)
    else .fin (sumUnits xs < 0) (sumUnits xs).natAbs (minExp xs) := by
  have hnot {x : Fp} (hx : x.value = none) : x ∉ xs := fun hmem => by
    obtain ⟨v, -, hv⟩ := value_isSome_of_mem h hmem
    exact nomatch hx.symm.trans hv
  have hnan : ¬xs.contains .nan = true := by simpa using hnot rfl
  have hpos : ¬xs.contains (.inf false) = true := by simpa using hnot rfl
  have hneg : ¬xs.contains (.inf true) = true := by simpa using hnot rfl
  rw [sumExact, if_neg hnan, if_neg hpos, if_neg hneg]
  rfl

/-- The sum is exact, and one that is not zero has its own sign. -/
theorem sumExact_value {vs : List ℚ} (h : xs.map Fp.value = vs.map some) : (sumExact md xs).value = some vs.sum := by
  have hsum := sumUnits_mul h
  rw [sumExact_of_finite h, ← hsum]
  split
  next hz => simp [fp_value_fin, hz]
  next =>
    rw [fp_value_fin]
    congr 2
    obtain hneg | hpos := lt_or_ge (sumUnits xs) 0
    · rw [if_pos (decide_eq_true hneg), Nat.cast_natAbs, abs_of_neg hneg]
      push_cast
      ring
    · rw [if_neg (by simpa using hpos), Nat.cast_natAbs, abs_of_nonneg hpos, one_mul]

/-- The sign of a sum that is zero (R69). -/
theorem sumExact_sign_of_zero {vs : List ℚ} (h : xs.map Fp.value = vs.map some) (hz : vs.sum = 0) : (sumExact md xs).sign =
    if xs.all Fp.sign then true else if xs.all (fun x => !x.sign) then false else md = .rdn := by
  have hsum := sumUnits_mul h
  have hunits : sumUnits xs = 0 := by
    have hpow : (2 : ℚ) ^ minExp xs ≠ 0 := by positivity
    rw [hz] at hsum
    exact_mod_cast (mul_eq_zero.1 hsum).resolve_right hpow
  rw [sumExact_of_finite h, if_pos hunits]
  rfl

theorem rules_sums (md : Rounding) (xs : List Fp) (hne : xs ≠ []) :
    (.nan ∈ xs → sumExact md xs = .nan) ∧ (.inf true ∈ xs → .inf false ∈ xs → sumExact md xs = .nan) ∧
    (∀ s, .nan ∉ xs → .inf s ∈ xs → .inf (!s) ∉ xs → sumExact md xs = .inf s) ∧
    ∀ vs : List ℚ, xs.map Fp.value = vs.map some → (sumExact md xs).value = some vs.sum ∧
      (vs.sum ≠ 0 → (sumExact md xs).sign = decide (vs.sum < 0)) ∧
      (vs.sum = 0 → (∀ s, (∀ x ∈ xs, x.sign = s) → (sumExact md xs).sign = s) ∧
        ((∃ x ∈ xs, x.sign = true) → (∃ x ∈ xs, x.sign = false) → (sumExact md xs).sign = decide (md = .rdn))) := by
  refine ⟨sumExact_of_nan, sumExact_of_both, fun s => sumExact_of_inf, fun vs h => ?_⟩
  have hvalue : (sumExact md xs).value = some vs.sum := sumExact_value h
  refine ⟨hvalue, Fp.sign_eq_of_value hvalue, fun hz => ?_⟩
  rw [sumExact_sign_of_zero h hz]
  refine ⟨fun s hs => ?alike, fun ⟨x, hx, hxs⟩ ⟨y, hy, hys⟩ => ?mixed⟩
  case alike =>
    obtain ⟨x, hx⟩ := List.exists_mem_of_ne_nil xs hne
    cases s with
    | true => exact if_pos (List.all_eq_true.2 hs)
    | false =>
      have hall : ¬xs.all Fp.sign = true := fun hall => Bool.noConfusion ((hs x hx).symm.trans (List.all_eq_true.1 hall x hx))
      rw [if_neg hall]
      exact if_pos (List.all_eq_true.2 fun y hy => by rw [hs y hy]; rfl)
  case mixed =>
    have hall : ¬xs.all Fp.sign = true := fun hall => Bool.noConfusion (hys.symm.trans (List.all_eq_true.1 hall y hy))
    have hall' : ¬xs.all (fun x => !x.sign) = true := fun hall => by
      have := List.all_eq_true.1 hall x hx
      rw [hxs] at this
      exact Bool.noConfusion this
    rw [if_neg hall, if_neg hall']

end

/-! ### Order (R71, R324) -/

theorem Fp.lt_eq_decide (hx : x.value = some v) (hy : y.value = some w) : x.lt y = decide (v < w) := by
  obtain ⟨a, m, e, rfl, -⟩ := Fp.value_eq_some_iff.1 hx
  obtain ⟨b, n, k, rfl, -⟩ := Fp.value_eq_some_iff.1 hy
  have hpos : (0 : ℚ) < 2 ^ Min.min e k := by positivity
  rw [← Fp.scaled_mul hx (min_le_left e k), ← Fp.scaled_mul hy (min_le_right e k)]
  refine decide_eq_decide.2 ?_
  rw [mul_lt_mul_iff_left₀ hpos, Int.cast_lt]

theorem Fp.ne_nan_of_value (hx : x.value = some v) : x ≠ .nan := by
  rintro rfl
  exact nomatch hx

theorem Fp.eq_eq_decide (hx : x.value = some v) (hy : y.value = some w) : x.eq y = decide (v = w) := by
  simp only [Fp.eq, Fp.lt_eq_decide hx hy, Fp.lt_eq_decide hy hx]
  obtain hlt | rfl | hgt := lt_trichotomy v w
  · simp [hlt, hlt.ne]
  · simp [Fp.ne_nan_of_value hx, Fp.ne_nan_of_value hy]
  · simp [hgt, hgt.ne']

/-- Of numbers in order FMIN gives the lower and FMAX the upper. -/
theorem Fp.min_max_of_lt (hx : x.value = some v) (hy : y.value = some w) (h : v < w) :
    x.min y = x ∧ y.min x = x ∧ x.max y = y ∧ y.max x = y := by
  have hxy := Fp.lt_eq_decide hx hy
  have hyx := Fp.lt_eq_decide hy hx
  simp [Fp.min, Fp.max, hxy, hyx, h, h.not_gt, Fp.ne_nan_of_value hx, Fp.ne_nan_of_value hy]

/-- Of equal numbers the negative one is the lower: −0 lies below +0 (R71). -/
theorem Fp.min_max_of_eq (hx : x.value = some v) (hy : y.value = some v) (hsx : x.sign = true) (hsy : y.sign = false) :
    x.min y = x ∧ y.min x = x ∧ x.max y = y ∧ y.max x = y := by
  have hxy := Fp.lt_eq_decide hx hy
  have hyx := Fp.lt_eq_decide hy hx
  simp [Fp.min, Fp.max, hxy, hyx, hsx, hsy, Fp.ne_nan_of_value hx, Fp.ne_nan_of_value hy]

theorem Fp.min_max_nan (x : Fp) : Fp.min .nan x = x ∧ Fp.min x .nan = x ∧ Fp.max .nan x = x ∧ Fp.max x .nan = x := by
  by_cases h : x = .nan <;> simp [Fp.min, Fp.max, h]

/-- An infinity lies beyond every number. -/
theorem Fp.lt_inf (hy : y.value = some w) (s : Bool) : Fp.lt (.inf s) y = s ∧ y.lt (.inf s) = !s := by
  obtain ⟨b, n, k, rfl, -⟩ := Fp.value_eq_some_iff.1 hy
  exact ⟨rfl, rfl⟩

theorem rules_comparisons (hx : x.value = some v) (hy : y.value = some w) :
    floatCond 0 x y = decide (v = w) ∧ floatCond 1 x y = decide (v ≠ w) ∧ floatCond 2 x y = decide (v < w) ∧
    floatCond 3 x y = decide (v ≤ w) ∧ floatCond 4 x y = decide (w < v) ∧ floatCond 5 x y = decide (w ≤ v) ∧
    floatCond 6 x y = false ∧ floatCond 7 x y = true := by
  have hxn := Fp.ne_nan_of_value hx
  have hyn := Fp.ne_nan_of_value hy
  simp only [floatCond, Fp.eq_eq_decide hx hy, Fp.lt_eq_decide hx hy, Fp.lt_eq_decide hy hx, hxn, hyn]
  refine ⟨trivial, ?_, trivial, ?_, trivial, ?_, rfl, rfl⟩
  · exact (decide_not (p := v = w)).symm
  · rw [← Bool.decide_or]
    exact decide_eq_decide.2 le_iff_lt_or_eq.symm
  · rw [← Bool.decide_or]
    exact decide_eq_decide.2 (by rw [le_iff_lt_or_eq, @eq_comm _ w v])

theorem floatCond_of_nan (h : x = .nan ∨ y = .nan) (c : Nat) (hc : c < 8) : floatCond c x y = decide (c = 1 ∨ c = 6) := by
  have hun : (decide (x = .nan) || decide (y = .nan)) = true := by simpa using h
  have hlt : x.lt y = false ∧ y.lt x = false := by
    obtain rfl | rfl := h
    · cases y <;> exact ⟨rfl, rfl⟩
    · cases x <;> exact ⟨rfl, rfl⟩
  have heq : x.eq y = false := by
    obtain rfl | rfl := h <;> simp [Fp.eq]
  interval_cases c <;> simp [floatCond, hlt, heq, hun]

theorem rules_floatArithmetic : Rules.FloatArithmetic := by
  refine ⟨Fp.mul_fin, Fp.mul_nan, fun _ _ _ _ => ⟨rfl, rfl, rfl⟩, rules_sums, Fp.min_max_nan, fun x y v w hx hy => ?_,
    fun x y => floatCond_of_nan⟩
  have hyn := Fp.ne_nan_of_value hy
  have hinf := Fp.lt_inf hy
  obtain ⟨h0, h1, h2, h3, h4, h5, h6, h7⟩ := rules_comparisons hx hy
  exact ⟨Fp.min_max_of_lt hx hy, fun h => by subst h; exact Fp.min_max_of_eq hx hy, h0, h1, h2, h3, h4, h5, h6, h7,
    (hinf true).1, (hinf false).2, fun s => by cases s <;> simp [floatCond, Fp.eq, hinf],
    by simp [Fp.min, hyn, hinf], by simp [Fp.max, hyn, hinf], by simp [Fp.min, hyn, hinf], by simp [Fp.max, hyn, hinf]⟩

end
end Sys2Proof.Machine
end

section
/-! ## The float members (R68, R69, R73, R100, R321 to R324, R327) -/

namespace Sys2Proof.Machine

/-! ### Elements of a word (R68) -/

/-- Fields of n bits laid one above the other: each is found at its place, and together they take n bits each. -/
theorem sum_fields (n : Nat) (a : Nat → Nat) (k : Nat) (h : ∀ i < k, a i < 2 ^ n) :
    ((List.range k).map fun i => a i * 2 ^ (n * i)).sum < 2 ^ (n * k) ∧
      ∀ j < k, ((List.range k).map fun i => a i * 2 ^ (n * i)).sum / 2 ^ (n * j) % 2 ^ n = a j := by
  induction k with
  | zero => simp
  | succ k ih =>
    obtain ⟨hlt, hget⟩ := ih fun i hi => h i (Nat.lt_succ_of_lt hi)
    have hk := h k (Nat.lt_succ_self k)
    rw [List.range_succ, List.map_append, List.sum_append, List.map_singleton, List.sum_singleton]
    generalize ((List.range k).map fun i => a i * 2 ^ (n * i)).sum = s at hlt hget ⊢
    refine ⟨?_, fun j hj => ?_⟩
    · rw [Nat.mul_succ, pow_add]
      calc s + a k * 2 ^ (n * k) < 2 ^ (n * k) + a k * 2 ^ (n * k) := Nat.add_lt_add_right hlt _
        _ = 2 ^ (n * k) * (a k + 1) := by ring
        _ ≤ 2 ^ (n * k) * 2 ^ n := Nat.mul_le_mul_left _ hk
    · obtain hj | rfl := Nat.lt_succ_iff_lt_or_eq.1 hj
      · have hpow : a k * 2 ^ (n * k) = 2 ^ (n * j) * (2 ^ n * (2 ^ (n * (k - j - 1)) * a k)) := by
          rw [← Nat.mul_assoc, ← Nat.mul_assoc, ← pow_add, ← pow_add, Nat.mul_comm]
          congr 2
          rw [← Nat.mul_succ, ← Nat.mul_add]
          congr 1
          omega
        rw [hpow, Nat.add_mul_div_left _ _ (Nat.two_pow_pos _), Nat.add_mul_mod_self_left, hget j hj]
      · rw [Nat.add_mul_div_right _ _ (Nat.two_pow_pos _), Nat.div_eq_of_lt hlt, Nat.zero_add, Nat.mod_eq_of_lt hk]

/-- The elements of a word put together from k fields of n bits. -/
theorem ofNat_sum_fields {n k : Nat} (a : Nat → Nat) (hw : n * k = 32) (h : ∀ i < k, a i < 2 ^ n) {j : Nat} (hj : j < k) :
    (BitVec.ofNat 32 ((List.range k).map fun i => a i * 2 ^ (n * i)).sum).toNat / 2 ^ (n * j) % 2 ^ n = a j := by
  obtain ⟨hlt, hget⟩ := sum_fields n a k h
  rw [hw] at hlt
  rw [BitVec.toNat_ofNat, Nat.mod_eq_of_lt (a := List.sum _) hlt, hget j hj]

theorem draw_lt (w : Weave) (l j : Nat) : w.draw l j < 65536 :=
  Nat.div_lt_of_lt_mul (BitVec.isLt (w := 32) _)

/-! ### What is written in a format -/

/-- A written value fills no more than the element's bits. -/
theorem Fmt.Listed.write_lt {f : Fmt} (hf : f.Listed) (md : FpMode) (v : Fp) {u : Nat} (hu : u < 65536) : f.write md v u < 2 ^ f.width := by
  cases v with
  | nan => exact hf.nan_lt
  | inf neg => exact hf.infinity_lt
  | fin neg m e =>
    obtain rfl | hm := Nat.eq_zero_or_pos m
    · have hq : f.unitOf (f.near ⟨0, e, false⟩) = f.qmin := by
        refine max_eq_right ?_
        simp only [Fmt.near, bitLen, if_true, Nat.cast_zero]
        omega
      have hn : (f.near ⟨0, e, false⟩).units f.qmin md.round neg u = 0 := by
        rw [Fmt.near]
        simp [Exact.units]
      have hr : f.Rounded 0 f.qmin := ⟨le_rfl, Nat.zero_le _, fun _ => rfl⟩
      rw [Fmt.write, Fmt.round_eq_settle_near, hq, hn]
      exact hr.settle_lt hf md
    · have hx := exact_standsFor e hm
      have hn := hx.roundsTo_units (md := md.round) (neg := neg) hf hu
      rw [Fmt.write, hf.round_eq_settle hu hx hn]
      exact (hn.rounded hu hx.pos).settle_lt hf md

/-- The sign of a value is its top bit (R66). -/
theorem Fmt.decode_sign {f : Fmt} {x : Nat} (h : f.decode x ≠ .nan) : (f.decode x).sign = bitAt x (f.expBits + f.fracBits) := by
  simp only [Fmt.decode] at h ⊢
  split_ifs at h ⊢
  · rfl
  · exact absurd rfl h
  · exact absurd rfl h
  · rfl
  · rfl

/-- The sign of an operand is its top bit, which DAZ keeps. -/
theorem Fmt.Listed.read_sign {f : Fmt} (hf : f.Listed) (md : FpMode) {x : Nat} (h : f.read md x ≠ .nan) :
    (f.read md x).sign = bitAt x (f.expBits + f.fracBits) := by
  by_cases hz : (md.daz && f.flushes && f.subnormal x) = true
  · rw [hf.read_of_flushed hz]
    rfl
  · rw [Fmt.read_of_not_flushed hz] at h ⊢
    exact Fmt.decode_sign h

theorem elemOf_fp32 (md : FpMode) (x : Word) : elemOf fp32 md x 0 = fp32.read md x.toNat := by
  have hx : x.toNat / 2 ^ (fp32.width * 0) % 2 ^ fp32.width = x.toNat := by
    rw [Nat.mul_zero, pow_zero, Nat.div_one]
    exact Nat.mod_eq_of_lt x.isLt
  rw [elemOf, hx]

/-! ### The shapes of the members -/

section
variable {i : Instr} {f : Fmt} {p : BitVec 4} {b a d : RegField}

/-- A member whose body writes a lane register from values that draw. -/
theorem drawnResult_of_exec {k : Nat} {g : Strand → Weave → Nat → Word}
    (h : ∀ s, exec i s = run i s fun w t => writeDrawing w t d.toNat k (g t.cur.strand w)) : DrawnResult i d k g :=
  fun s _ hr => (h s).trans (run_ok hr rfl)

/-- A member that writes a lane register from b and d. -/
theorem laneResult_of_exec {g : Word → Word → Word} (h : ∀ s, exec i s = lane2 i p b d s g) : LaneResult i p b a d fun _ y z => g y z :=
  fun s _ hr => (h s).trans (run_ok hr rfl)

/-- A member that writes a predicate. -/
theorem predResult_of_exec {k : BitVec 3} {g : Strand → Weave → Nat → Bool}
    (h : ∀ s, exec i s = run i s fun w t => writePred w t k.toNat (g t.cur.strand w)) : PredResult i k g :=
  fun s _ hr => (h s).trans (run_ok hr rfl)

theorem elem_floatWord (hf : f.Listed) (md : FpMode) (op : FloatOp) (draw : Nat → Nat) (hdraw : ∀ i, draw i < 65536) (x y z : Word)
    {j : Nat} (hj : j < 32 / f.width) : (floatWord f md op draw x y z).toNat / 2 ^ (f.width * j) % 2 ^ f.width =
      f.write md (op md (elemOf f md x j) (elemOf f md y j) (elemOf f md z j)) (draw j) :=
  ofNat_sum_fields (fun i => f.write md (op md (elemOf f md x i) (elemOf f md y i) (elemOf f md z i)) (draw i)) hf.width_le
    (fun i _ => hf.write_lt md _ (hdraw i)) hj

/-- The members of majors 14 and 15 that act on each element. -/
theorem floatResult_of_exec (hf : f ∈ formats) {draws : Bool} {op : FloatOp} (h : ∀ s, exec i s = floatLane i f p b a d s draws op) :
    FloatResult i f p b a d draws op :=
  ⟨fun st w l => floatWord f (fpMode w.fpctl) op (w.draw l) (laneAt (w.lane a.toNat) l) (w.pat st p b.toNat l) (laneAt (w.lane d.toNat) l),
    drawnResult_of_exec h, fun _ w l _ hj => elem_floatWord (Fmt.listed hf) _ op _ (draw_lt w l) _ _ _ hj⟩

theorem fp32_mem : fp32 ∈ formats := by simp
theorem fp16_mem : fp16 ∈ formats := by simp
theorem bf16_mem : bf16 ∈ formats := by simp

/-- |a| with the sign of b: the sign of a value that is not a NaN is the sign bit of its word (R321). -/
theorem signWord_eq (md : FpMode) (draw : Nat → Nat) (x y : Word) : signWord md draw x y =
    BitVec.ofNat 32 (fp32.write md (if fp32.read md x.toNat = .nan ∨ fp32.read md y.toNat = .nan then .nan
      else if (fp32.read md y.toNat).sign then (fp32.read md x.toNat).abs.neg else (fp32.read md x.toNat).abs) (draw 0)) := by
  simp only [signWord, Bool.or_eq_true, decide_eq_true_iff]
  by_cases hn : fp32.read md x.toNat = .nan ∨ fp32.read md y.toNat = .nan
  · rw [if_pos hn, if_pos hn]
  · have hsign : (fp32.read md y.toNat).sign = y.getLsbD 31 :=
      ((Fmt.listed fp32_mem).read_sign md (not_or.1 hn).2).trans (bitAt_toNat y 31)
    rw [if_neg hn, if_neg hn, hsign]

theorem floatResult_fsign : FloatResult (.fsign p b a d) fp32 p b a d true (fun _ x y _ =>
    if x = .nan ∨ y = .nan then .nan else if y.sign then x.abs.neg else x.abs) := by
  refine ⟨fun st w l => signWord (fpMode w.fpctl) (w.draw l) (laneAt (w.lane a.toNat) l) (w.pat st p b.toNat l),
    drawnResult_of_exec fun _ => rfl, fun st w l j hj => ?_⟩
  obtain rfl : j = 0 := Nat.lt_one_iff.1 hj
  simp only [signWord_eq, elemOf_fp32, Nat.mul_zero, pow_zero, Nat.div_one, BitVec.toNat_ofNat]
  exact (Nat.mod_eq_of_lt (Nat.mod_lt _ (Nat.two_pow_pos 32))).trans
    (Nat.mod_eq_of_lt ((Fmt.listed fp32_mem).write_lt (fpMode w.fpctl) _ (draw_lt w l 0)))

/-- Bit 31 of a word is the sign of the float in it, and bit 22 the first bit of its fraction. -/
theorem getLsbD_sign (y : Word) : y.getLsbD 31 = decide (2 ^ 31 ≤ y.toNat) := by
  rw [← bitAt_toNat]
  exact bitAt_eq_decide_le y.isLt

theorem getLsbD_quiet (y : Word) : y.getLsbD 22 = !decide (y.toNat % 2 ^ 23 < 2 ^ 22) := by
  have hbit : bitAt y.toNat 22 = bitAt (y.toNat % 2 ^ 23) 22 := by
    rw [bitAt_eq_testBit, bitAt_eq_testBit, Nat.testBit_mod_two_pow]
    rfl
  rw [← bitAt_toNat, hbit, bitAt_eq_decide_le (Nat.mod_lt _ (Nat.two_pow_pos 23)), ← decide_not]
  exact decide_eq_decide.2 not_lt.symm

/-- The class of a word, from its sign, exponent and fraction (R323). -/
theorem classWord_eq (y : Word) : classWord y =
    if y.toNat / 2 ^ 23 % 256 = 255 then
      (if y.toNat % 2 ^ 23 = 0 then (if 2 ^ 31 ≤ y.toNat then 0x001 else 0x080) else if y.toNat % 2 ^ 23 < 2 ^ 22 then 0x100 else 0x200)
    else if y.toNat / 2 ^ 23 % 256 = 0 then
      (if y.toNat % 2 ^ 23 = 0 then (if 2 ^ 31 ≤ y.toNat then 0x008 else 0x010) else if 2 ^ 31 ≤ y.toNat then 0x004 else 0x020)
    else if 2 ^ 31 ≤ y.toNat then 0x002 else 0x040 := by
  have hex : bits y.toNat fp32.fracBits fp32.expBits = y.toNat / 2 ^ 23 % 256 := rfl
  have hfr : bits y.toNat 0 fp32.fracBits = y.toNat % 2 ^ 23 := bits_zero _ _
  have hbit (c : Prop) [Decidable c] (j k : Nat) :
      BitVec.ofNat 32 (2 ^ (if c then j else k)) = if c then BitVec.ofNat 32 (2 ^ j) else BitVec.ofNat 32 (2 ^ k) :=
    apply_ite (fun k => BitVec.ofNat 32 (2 ^ k)) c j k
  by_cases htop : y.toNat / 2 ^ 23 % 256 = 255
  · have hdecode := Fmt.decode_special (f := fp32) rfl (hex.trans htop)
    rw [if_pos htop, classWord, hdecode, hfr]
    by_cases hz : y.toNat % 2 ^ 23 = 0
    · simp only [hz, if_true, getLsbD_sign, decide_eq_true_iff, hbit]
      rfl
    · simp only [hz, if_false, getLsbD_quiet, ← decide_not, decide_eq_true_iff, hbit, ite_not]
      rfl
  · have hdecode := Fmt.decode_finite (f := fp32) (x := y.toNat) (fun _ => htop) (fun h => Bool.noConfusion h)
    have hsub : fp32.subnormal y.toNat = decide (y.toNat / 2 ^ 23 % 256 = 0 ∧ y.toNat % 2 ^ 23 ≠ 0) := by
      rw [← hex, ← hfr]
      exact Bool.eq_iff_iff.2 (Fmt.subnormal_iff.trans decide_eq_true_iff.symm)
    rw [if_neg htop, classWord, hdecode, hfr, hex, hsub, getLsbD_sign]
    by_cases hz : y.toNat / 2 ^ 23 % 256 = 0
    · by_cases hzero : y.toNat % 2 ^ 23 = 0
      · simp only [hz, hzero, if_true, decide_eq_true_iff, hbit]
        rfl
      · simp only [hz, hzero, if_true, if_false, ne_eq, not_false_eq_true, and_self, decide_true, decide_eq_true_iff, hbit]
        rfl
    · have hm : 2 ^ fp32.fracBits + y.toNat % 2 ^ 23 ≠ 0 := by positivity
      simp only [hz, hm, if_false, false_and, decide_false, Bool.false_eq_true, decide_eq_true_iff, hbit]
      rfl

/-! ### The members -/

theorem rules_floatMembers : Rules.FloatMembers := by
  intro p b a d
  refine ⟨floatResult_of_exec fp32_mem fun _ => rfl, floatResult_of_exec fp32_mem fun _ => rfl, floatResult_of_exec fp32_mem fun _ => rfl,
    floatResult_of_exec fp32_mem fun _ => rfl, floatResult_of_exec fp32_mem fun _ => rfl, floatResult_of_exec fp32_mem fun _ => rfl,
    floatResult_of_exec fp32_mem fun _ => rfl, floatResult_of_exec fp32_mem fun _ => rfl, floatResult_of_exec fp32_mem fun _ => rfl,
    floatResult_fsign, drawnResult_of_exec fun _ => rfl, ?fclass, fun c k => ?fcmp⟩
  case fclass =>
    simp only [← classWord_eq]
    exact laneResult_of_exec (g := fun y _ => classWord y) (fun _ => rfl)
  case fcmp =>
    simp only [← elemOf_fp32]
    exact predResult_of_exec fun _ => rfl

theorem rules_packedFloatMembers : Rules.PackedFloatMembers := by
  intro p b a d
  refine ⟨⟨floatResult_of_exec fp16_mem fun _ => rfl, floatResult_of_exec fp16_mem fun _ => rfl, floatResult_of_exec fp16_mem fun _ => rfl,
    floatResult_of_exec fp16_mem fun _ => rfl, floatResult_of_exec fp16_mem fun _ => rfl, floatResult_of_exec fp16_mem fun _ => rfl⟩,
    ⟨floatResult_of_exec bf16_mem fun _ => rfl, floatResult_of_exec bf16_mem fun _ => rfl, floatResult_of_exec bf16_mem fun _ => rfl,
    floatResult_of_exec bf16_mem fun _ => rfl, floatResult_of_exec bf16_mem fun _ => rfl, floatResult_of_exec bf16_mem fun _ => rfl⟩,
    fun f i h => ?fdot2, fun c k f i h s w hr => ?fcmp⟩
  case fdot2 =>
    simp only [List.mem_cons, Prod.mk.injEq, List.not_mem_nil, or_false] at h
    obtain ⟨rfl, rfl⟩ | ⟨rfl, rfl⟩ := h
    · exact drawnResult_of_exec fun _ => rfl
    · exact drawnResult_of_exec fun _ => rfl
  case fcmp =>
    simp only [List.mem_cons, Prod.mk.injEq, List.not_mem_nil, or_false] at h
    obtain ⟨rfl, rfl⟩ | ⟨rfl, rfl⟩ := h
    · unfold exec
      exact run_ok hr rfl
    · unfold exec
      exact run_ok hr rfl

end
end Sys2Proof.Machine
end

section
open Sys2Proof Sys2Proof.Machine

/-- Settles O11: exact sums, products and comparisons, and the one shape of the members that round each element. -/
theorem floatMembers : Obligations.FloatMembers := ⟨rules_floatArithmetic, rules_floatMembers, rules_packedFloatMembers⟩
end

section
/-! ## Blocks: QBLK and DQBLK (R73, R74, R77, R78, R80) -/

namespace Sys2Proof.Machine

/-! ### Magnitudes -/

section
variable {x : Fp} {v : ℚ}

theorem Fp.abs_value (h : x.value = some v) : |v| = x.mag * (2 : ℚ) ^ x.exp := by
  obtain ⟨neg, m, e, rfl, rfl⟩ := Fp.value_eq_some_iff.1 h
  have hnonneg : (0 : ℚ) ≤ m * 2 ^ e := by positivity
  rw [mul_assoc, abs_mul, abs_of_nonneg hnonneg, Fp.mag, Fp.exp]
  cases neg <;> simp

theorem Fp.mag_eq_zero_iff (h : x.value = some v) : x.mag = 0 ↔ v = 0 := by
  have hpow : (2 : ℚ) ^ x.exp ≠ 0 := by positivity
  rw [← abs_eq_zero, Fp.abs_value h, mul_eq_zero, Nat.cast_eq_zero, or_iff_left hpow]

theorem Fp.floorLog2_eq (h : x.value = some v) (hv : v ≠ 0) : floorLog2 x.mag x.exp = Int.log 2 |v| := by
  have hm : 0 < x.mag := Nat.pos_of_ne_zero (mt (Fp.mag_eq_zero_iff h).1 hv)
  have hpos : (0 : ℚ) < 2 ^ x.exp := by positivity
  rw [Fp.abs_value h]
  exact (log_eq_of_units hm le_rfl (by gcongr; exact lt_add_one _)).symm

theorem Fp.belowPow_iff (h : x.value = some v) (k : Int) : belowPow x.mag x.exp k = true ↔ |v| < (2 : ℚ) ^ k := by
  rw [belowPow, Bool.or_eq_true, decide_eq_true_iff, decide_eq_true_iff, Fp.mag_eq_zero_iff h]
  by_cases hv : v = 0
  · have hpos : (0 : ℚ) < 2 ^ k := by positivity
    simp [hv, hpos]
  · have hlog := Int.lt_zpow_iff_log_lt (R := ℚ) one_lt_two (abs_pos.2 hv) (x := k)
    rw [Nat.cast_ofNat] at hlog
    rw [or_iff_right hv, Fp.floorLog2_eq h hv, hlog]

end

/-! ### The exponent of a block and the sub-shifts of its groups (R80) -/

theorem foldl_max_le_iff {α : Type} (g : α → Int) (xs : List α) (a b : Int) :
    xs.foldl (fun k x => max k (g x)) a ≤ b ↔ a ≤ b ∧ ∀ x ∈ xs, g x ≤ b := by
  induction xs generalizing a with
  | nil => simp
  | cons x xs ih => rw [List.foldl_cons, ih, max_le_iff, List.forall_mem_cons, and_assoc]

/-- The largest power of two in a block, or −1000, far below what an exponent of 8 bits tells. -/
def blockTop (xs : List Fp) : Int := (xs.filter fun x => x.mag ≠ 0).foldl (fun k x => max k (floorLog2 x.mag x.exp)) (-1000)

section
variable {xs : List Fp} {vs : List ℚ} (hvs : xs.map Fp.value = vs.map some)
include hvs

/-- The number at a place is that of the value there. -/
theorem getElem?_values_iff {j : Nat} {v : ℚ} : vs[j]? = some v ↔ ∃ x, xs[j]? = some x ∧ x.value = some v := by
  have h := congrArg (fun l : List (Option ℚ) => l[j]?) hvs
  simp only [List.getElem?_map] at h
  cases hx : xs[j]? with
  | none =>
    rw [hx, Option.map_none] at h
    simp [Option.map_eq_none_iff.1 h.symm]
  | some x =>
    rw [hx, Option.map_some] at h
    obtain ⟨v', hv', he⟩ := Option.map_eq_some_iff.1 h.symm
    simp [hv', ← he]

theorem blockTop_eq {top : ℚ} (htop : top ∈ vs) (hne : top ≠ 0) (hmax : ∀ v ∈ vs, |v| ≤ |top|) :
    blockTop xs = max (-1000) (Int.log 2 |top|) := by
  have hle : blockTop xs ≤ max (-1000) (Int.log 2 |top|) := by
    refine (foldl_max_le_iff _ _ _ _).2 ⟨le_max_left _ _, fun x hx => ?_⟩
    obtain ⟨hmem, hmag⟩ := List.mem_filter.1 hx
    obtain ⟨v, hv, hxv⟩ := value_isSome_of_mem hvs hmem
    have hv0 : v ≠ 0 := mt (Fp.mag_eq_zero_iff hxv).2 (by simpa using hmag)
    rw [Fp.floorLog2_eq hxv hv0]
    exact le_max_of_le_right (Int.log_mono_right (abs_pos.2 hv0) (hmax v hv))
  obtain ⟨hlow, hall⟩ := (foldl_max_le_iff (fun x : Fp => floorLog2 x.mag x.exp) _ _ (blockTop xs)).1 le_rfl
  obtain ⟨j, hj⟩ := List.getElem?_of_mem htop
  obtain ⟨x, hx, hxv⟩ := (getElem?_values_iff hvs).1 hj
  have hmag : x ∈ xs.filter fun x => x.mag ≠ 0 :=
    List.mem_filter.2 ⟨List.mem_of_getElem? hx, by simpa using mt (Fp.mag_eq_zero_iff hxv).1 hne⟩
  exact le_antisymm hle (max_le hlow (Fp.floorLog2_eq hxv hne ▸ hall x hmag))

end

/-- Group k of a block: its values 8k to 8k + 7. -/
def blockGroup (xs : List Fp) (k : Nat) : List Fp := (xs.drop (8 * k)).take 8

theorem mem_blockGroup_iff {xs : List Fp} {k : Nat} {x : Fp} : x ∈ blockGroup xs k ↔ ∃ j, j / 8 = k ∧ xs[j]? = some x := by
  rw [blockGroup, List.mem_iff_getElem?]
  constructor
  · rintro ⟨i, hi⟩
    rw [List.getElem?_take, Option.ite_none_right_eq_some, List.getElem?_drop] at hi
    exact ⟨8 * k + i, by omega, hi.2⟩
  · rintro ⟨j, rfl, hj⟩
    refine ⟨j % 8, ?_⟩
    rw [List.getElem?_take, if_pos (Nat.mod_lt _ (by decide)), List.getElem?_drop, Nat.div_add_mod, hj]

/-- The sub-shift is the largest of 0 to 3 whose bound every value of the group keeps, or 0. -/
theorem subShift_spec (e : Int) (xs : List Fp) :
    let fits := fun n : Nat => ∀ x ∈ xs, belowPow x.mag x.exp (e - 127 - n) = true
    subShift e xs ≤ 3 ∧ (subShift e xs ≠ 0 → fits (subShift e xs)) ∧ ∀ n, subShift e xs < n → n ≤ 3 → ¬fits n := by
  intro fits
  have hok (n : Nat) : (xs.all fun x => belowPow x.mag x.exp (e - 127 - n)) = true ↔ fits n := List.all_eq_true
  simp only [subShift, hok]
  split_ifs with h3 h2 h1
  · exact ⟨le_rfl, fun _ => h3, fun n h h' => by omega⟩
  · refine ⟨by decide, fun _ => h2, fun n h h' => ?_⟩
    obtain rfl : n = 3 := by omega
    exact h3
  · refine ⟨by decide, fun _ => h1, fun n h h' => ?_⟩
    obtain rfl | rfl : n = 2 ∨ n = 3 := by omega
    · exact h2
    · exact h3
  · refine ⟨by decide, fun h => absurd rfl h, fun n h h' => ?_⟩
    obtain rfl | rfl | rfl : n = 1 ∨ n = 2 ∨ n = 3 := by omega
    · exact h1
    · exact h2
    · exact h3

/-! ### A block quantised (R80) -/

theorem natAbs_roundInt (md : Rounding) (neg : Bool) (m : Nat) (e : Int) (u : Nat) :
    (roundInt md neg m e u).natAbs = Exact.units ⟨m, e, false⟩ 0 md neg u := by
  cases neg with
  | true => exact (Int.natAbs_neg _).trans (Int.natAbs_natCast _)
  | false => exact Int.natAbs_natCast _

/-- A payload is the rounded value, saturated, with its sign above it unless it is zero. -/
theorem sxPayload_eq {x : Fp} {v : ℚ} {m sigma u n : Nat} {e : Int} {md : FpMode} (hv : x.value = some v) (hu : u < 65536)
    (hn : RoundsTo md.round x.sign u (|(v : ℝ)| * 2 ^ ((m : Int) - 1 - (e - 127 - sigma))) n) :
    sxPayload m e sigma md u x = (if x.sign = true ∧ min n (2 ^ m - 1) ≠ 0 then 2 ^ m else 0) + min n (2 ^ m - 1) := by
  have habs := Fp.abs_value hv
  obtain ⟨neg, mg, ex, rfl, -⟩ := Fp.value_eq_some_iff.1 hv
  have hexact := roundsTo_units_exact (md := md.round) (neg := neg) mg (ex + (m - 1) - (e - 127 - sigma)) 0 hu
  have hmag : (mg : ℝ) * 2 ^ (ex + (m - 1) - (e - 127 - sigma)) / 2 ^ (0 : Int) = |(v : ℝ)| * 2 ^ ((m : Int) - 1 - (e - 127 - sigma)) := by
    have hcast : |(v : ℝ)| = mg * 2 ^ ex := by
      rw [← Rat.cast_abs, habs]
      push_cast
      rfl
    rw [hcast, zpow_zero, div_one, mul_assoc, ← zpow_add₀ two_ne_zero, add_sub_assoc]
  rw [hmag] at hexact
  simp only [sxPayload, natAbs_roundInt, hexact.unique hn]
  simp only [Fp.sign, Bool.and_eq_true, decide_eq_true_iff]
  rfl

section
variable {m : Nat} {md : FpMode} {draw : Nat → Nat} {xs : List Fp}

/-- The exponent of a block (R80). -/
def blockExp (xs : List Fp) : Int := max 1 (blockTop xs + 127)

/-- The sub-shifts of its four groups. -/
def blockShifts (xs : List Fp) : List Nat := (List.range 4).map fun k => subShift (blockExp xs) (blockGroup xs k)

theorem quantise_of_special (h : .nan ∈ xs ∨ .inf true ∈ xs ∨ .inf false ∈ xs) : quantise m md draw xs = ⟨List.replicate 32 0, 0xFF⟩ := by
  refine if_pos (List.any_eq_true.2 ?_)
  obtain h | h | h := h
  · exact ⟨_, h, by simp⟩
  · exact ⟨_, h, by simp⟩
  · exact ⟨_, h, by simp⟩

theorem quantise_of_zeros (h : ∀ x ∈ xs, x.value = some 0) : quantise m md draw xs = ⟨List.replicate 32 0, 0⟩ := by
  refine (if_neg fun hany => ?_).trans (if_pos (List.all_eq_true.2 fun x hx => ?_))
  · obtain ⟨x, hx, hs⟩ := List.any_eq_true.1 hany
    have hv := h x hx
    cases x with
    | fin => simp at hs
    | nan | inf => exact nomatch hv
  · exact decide_eq_true ((Fp.mag_eq_zero_iff (h x hx)).2 rfl)

theorem quantise_of_finite (hfin : ∀ x ∈ xs, ∃ v, x.value = some v) (hne : ∃ x ∈ xs, x.mag ≠ 0) : quantise m md draw xs =
    ⟨xs.zipIdx.map fun x => sxPayload m (blockExp xs) ((blockShifts xs).getD (x.2 / 8) 0) md (draw x.2) x.1,
      (blockExp xs).toNat + ((List.range 4).map fun k => (blockShifts xs).getD k 0 * 2 ^ (8 + 2 * k)).sum⟩ := by
  refine (if_neg fun hany => ?_).trans (if_neg fun hall => ?_)
  · obtain ⟨x, hx, hs⟩ := List.any_eq_true.1 hany
    obtain ⟨v, hv⟩ := hfin x hx
    cases x with
    | fin => simp at hs
    | nan | inf => exact nomatch hv
  · obtain ⟨x, hx, hm⟩ := hne
    exact hm (by simpa using List.all_eq_true.1 hall x hx)

theorem getD_blockShifts {k : Nat} (hk : k < 4) : (blockShifts xs).getD k 0 = subShift (blockExp xs) (blockGroup xs k) := by
  simp [blockShifts, hk]

theorem length_payload (hlen : xs.length = 32) : (quantise m md draw xs).payload.length = 32 := by
  unfold quantise
  split_ifs
  · exact List.length_replicate
  · exact List.length_replicate
  · simpa using hlen

end

theorem rules_blockQuantisation : Rules.BlockQuantisation := by
  intro m md draw xs _ hlen hdraw b
  refine ⟨length_payload hlen, quantise_of_special, fun vs hvs => ⟨fun hzero => ?zeros, fun top htop hne hmax => ?block⟩⟩
  case zeros =>
    refine quantise_of_zeros fun x hx => ?_
    obtain ⟨v, hv, hxv⟩ := value_isSome_of_mem hvs hx
    rw [hxv, hzero v hv]
  case block =>
    intro e
    have hfin : ∀ x ∈ xs, ∃ v, x.value = some v := fun x hx => by
      obtain ⟨v, -, hxv⟩ := value_isSome_of_mem hvs hx
      exact ⟨v, hxv⟩
    have hmag : ∃ x ∈ xs, x.mag ≠ 0 := by
      obtain ⟨j, hj⟩ := List.getElem?_of_mem htop
      obtain ⟨x, hx, hxv⟩ := (getElem?_values_iff hvs).1 hj
      exact ⟨x, List.mem_of_getElem? hx, mt (Fp.mag_eq_zero_iff hxv).1 hne⟩
    have he : blockExp xs = e := by
      rw [blockExp, blockTop_eq hvs htop hne hmax]
      omega
    have hb : b = _ := quantise_of_finite hfin hmag
    have hshift (k : Nat) (hk : k < 4) : (blockShifts xs).getD k 0 = subShift e (blockGroup xs k) := he ▸ getD_blockShifts hk
    refine ⟨fun k => subShift e (blockGroup xs k), ?scale, fun k hk => ?shift, fun i v x n hv hx hn => ?payload⟩
    case scale =>
      have hscale : b.scale = e.toNat + List.sum [(blockShifts xs).getD 0 0 * 2 ^ 8, (blockShifts xs).getD 1 0 * 2 ^ 10,
          (blockShifts xs).getD 2 0 * 2 ^ 12, (blockShifts xs).getD 3 0 * 2 ^ 14] := by
        rw [hb, he]
        rfl
      rw [hscale, hshift 0 (by decide), hshift 1 (by decide), hshift 2 (by decide), hshift 3 (by decide)]
      simp only [List.sum_cons, List.sum_nil]
      omega
    case shift =>
      intro fits
      have hfits (n : Nat) : fits n ↔ ∀ x ∈ blockGroup xs k, belowPow x.mag x.exp (e - 127 - n) = true := by
        constructor
        · intro h x hx
          obtain ⟨j, hj, hxj⟩ := mem_blockGroup_iff.1 hx
          obtain ⟨v, hxv⟩ := hfin x (List.mem_of_getElem? hxj)
          exact (Fp.belowPow_iff hxv _).2 (h j v hj ((getElem?_values_iff hvs).2 ⟨x, hxj, hxv⟩))
        · intro h j v hj hv
          obtain ⟨x, hxj, hxv⟩ := (getElem?_values_iff hvs).1 hv
          exact (Fp.belowPow_iff hxv _).1 (h x (mem_blockGroup_iff.2 ⟨j, hj, hxj⟩))
      simp only [hfits]
      exact subShift_spec e (blockGroup xs k)
    case payload =>
      intro big
      have hi : i < 32 := hlen ▸ (List.getElem?_eq_some_iff.1 hx).1
      obtain ⟨x', hx', hxv⟩ := (getElem?_values_iff hvs).1 hv
      obtain rfl := Option.some.inj (hx.symm.trans hx')
      rw [hb, List.getElem?_map, List.getElem?_zipIdx, hx]
      simp only [Option.map_some, Nat.zero_add]
      rw [he, hshift _ (by omega), sxPayload_eq hxv (hdraw i) hn]

end Sys2Proof.Machine
end

section
/-! ## Blocks in lane registers: where they lie, and what QBLK and DQBLK write (R68, R74, R77, R78, R80) -/

namespace Sys2Proof.Machine

/-! ### Words and halfwords of a block (R78) -/

/-- The magnitude bits of the three kinds, and the bits of an element, which are also the words of a block. -/
theorem sxBits_eq {kind : Nat} (h : kind < 3) : sxBits kind = [7, 3, 1][kind]! := by
  interval_cases kind <;> rfl

theorem sxWords_eq {kind : Nat} (h : kind < 3) : sxWords kind = [8, 4, 2][kind]! := by
  interval_cases kind <;> rfl

theorem sxWords_cases {kind : Nat} (h : kind < 3) : sxWords kind = 8 ∨ sxWords kind = 4 ∨ sxWords kind = 2 := by
  interval_cases kind <;> simp [sxWords, sxBits]

/-- A halfword replaced: it holds the low 16 bits, and the other stays. -/
theorem insertBits_half {x v h : Nat} (hx : x < 2 ^ 32) (hh : h < 2) : insertBits x (16 * h) 16 v < 2 ^ 32 ∧
    insertBits x (16 * h) 16 v / 2 ^ (16 * h) % 2 ^ 16 = v % 2 ^ 16 ∧
    ∀ j, j < 2 → j ≠ h → insertBits x (16 * h) 16 v / 2 ^ (16 * j) % 2 ^ 16 = x / 2 ^ (16 * j) % 2 ^ 16 := by
  obtain rfl | rfl : h = 0 ∨ h = 1 := by omega
  · refine ⟨?_, ?_, fun j hj hne => ?_⟩
    · simp only [insertBits, bits]; omega
    · simp only [insertBits, bits]; omega
    · obtain rfl : j = 1 := by omega
      simp only [insertBits, bits]; omega
  · refine ⟨?_, ?_, fun j hj hne => ?_⟩
    · simp only [insertBits, bits]; omega
    · simp only [insertBits, bits]; omega
    · obtain rfl : j = 0 := by omega
      simp only [insertBits, bits]; omega

/-- Element i % (32 / n) of word i / (32 / n) of a packed block is payload i. -/
theorem elem_sxPack {kind : Nat} {x : SxBlock} (hk : kind < 3) (hx : ∀ y ∈ x.payload, y < 2 ^ sxWords kind) (i : Nat) :
    (sxPack kind x (i / (32 / sxWords kind))).toNat / 2 ^ (sxWords kind * (i % (32 / sxWords kind))) % 2 ^ sxWords kind =
      x.payload.getD i 0 := by
  have hmul : sxWords kind * (32 / sxWords kind) = 32 := by
    obtain h | h | h := sxWords_cases hk <;> rw [h]
  have hper : 0 < 32 / sxWords kind := Nat.pos_of_ne_zero fun h => by simp [h] at hmul
  have hlt (j : Nat) : x.payload.getD j 0 < 2 ^ sxWords kind := by
    rw [List.getD_eq_getElem?_getD]
    cases hj : x.payload[j]? with
    | none => exact Nat.two_pow_pos _
    | some y => exact hx y (List.mem_of_getElem? hj)
  have h := ofNat_sum_fields (fun j => x.payload.getD (32 / sxWords kind * (i / (32 / sxWords kind)) + j) 0) hmul (fun j _ => hlt _)
    (Nat.mod_lt i hper)
  rwa [Nat.div_add_mod] at h

/-! ### A block written -/

section
variable {w : Weave} {kind d b g l : Nat} {x : SxBlock}

/-- The lanes that hold the payload of block g. -/
def payloadLanes (kind g : Nat) : LaneMask := maskOf fun l => sxWords kind * g ≤ l && l < sxWords kind * g + sxWords kind

theorem getLsbD_payloadLanes : (payloadLanes kind g).getLsbD l = decide (l < 96 ∧ sxWords kind * g ≤ l ∧ l < sxWords kind * g + sxWords kind) := by
  rw [payloadLanes, getLsbD_maskOf, ← Bool.decide_and, ← Bool.decide_and]

/-- The mask of one lane. -/
theorem getLsbD_natCast_one_shiftLeft (k l : Nat) : ((1 <<< k : Nat) : LaneMask).getLsbD l = (decide (l < 96) && decide (k = l)) := by
  rw [BitVec.natCast_eq_ofNat, BitVec.getLsbD_ofNat, Nat.one_shiftLeft, Nat.testBit_two_pow]

theorem putBlock_vRegs : { w.putBlock kind d b g x with vRegs := w.vRegs } = w := rfl

theorem lane_putBlock_ne {r : Nat} (hd : r ≠ d) (hb : r ≠ b) : (w.putBlock kind d b g x).lane r = w.lane r := by
  rw [Weave.putBlock, Weave.lane_setLanes_ne _ _ _ hb, Weave.lane_setLanes_ne _ _ _ hd]

section
variable (hne : d ≠ b)
include hne

/-- The payload register of a block that was put: the words of the block in their lanes. -/
theorem laneAt_putBlock_payload (hd : d < w.vRegs.length) : laneAt ((w.putBlock kind d b g x).lane d) l =
    if (payloadLanes kind g).getLsbD l then sxPack kind x (l - sxWords kind * g) else laneAt (w.lane d) l := by
  rw [Weave.putBlock, Weave.lane_setLanes_ne _ _ _ hne, Weave.lane_setLanes_same _ _ _ hd, laneAt_blend]
  rfl

/-- The scale register of a block that was put: one halfword of one lane. -/
theorem laneAt_putBlock_scale (hb : b < w.vRegs.length) (hg : g < 3) : laneAt ((w.putBlock kind d b g x).lane b) l =
    if l = g / 2 then BitVec.ofNat 32 (insertBits (laneAt (w.lane b) (g / 2)).toNat (16 * (g % 2)) 16 x.scale)
    else laneAt (w.lane b) l := by
  rw [Weave.putBlock, Weave.lane_setLanes_same _ _ _ (by rwa [Weave.setLanes_vRegs, List.length_modify]), laneAt_blend,
    Weave.lane_setLanes_ne _ _ _ hne.symm, getLsbD_natCast_one_shiftLeft, ← Bool.decide_and]
  exact if_congr (decide_eq_true_iff.trans (by omega)) rfl rfl

/-- The halfwords of the scale register after a block was put. -/
theorem half_putBlock_scale (hb : b < w.vRegs.length) (hg : g < 3) {h : Nat} (hh : h < 2) :
    (laneAt ((w.putBlock kind d b g x).lane b) l).toNat / 2 ^ (16 * h) % 2 ^ 16 =
      if l = g / 2 ∧ h = g % 2 then x.scale % 2 ^ 16 else (laneAt (w.lane b) l).toNat / 2 ^ (16 * h) % 2 ^ 16 := by
  obtain ⟨hlt, hsame, hother⟩ := insertBits_half (v := x.scale) (laneAt (w.lane b) (g / 2)).isLt (Nat.mod_lt g two_pos)
  rw [laneAt_putBlock_scale hne hb hg]
  by_cases hl : l = g / 2
  · rw [if_pos hl, BitVec.toNat_ofNat, Nat.mod_eq_of_lt hlt]
    by_cases hhg : h = g % 2
    · rw [if_pos ⟨hl, hhg⟩, hhg, hsame]
    · rw [if_neg fun hc => hhg hc.2, hother h hh hhg, hl]
  · rw [if_neg hl, if_neg fun hc => hl hc.1]

end
end

/-! ### The blocks that QBLK replaces (R80) -/

section
variable {act : LaneMask}

theorem getLsbD_blockLanes (g l : Nat) : (blockLanes g).getLsbD l = decide (l < 96 ∧ l / 32 = g) := by
  rw [blockLanes, getLsbD_maskOf, ← Bool.decide_and]

theorem blockLanes_active {g : Nat} (hg : g < 3) : decide (act &&& blockLanes g ≠ 0) = (List.range 32).any fun i => act.getLsbD (32 * g + i) := by
  rw [Bool.eq_iff_iff, decide_eq_true_iff, List.any_eq_true, ne_eq, laneMask_eq_zero_iff]
  simp only [BitVec.getLsbD_and, getLsbD_blockLanes, Bool.and_eq_true, decide_eq_true_iff, not_forall, not_not, List.mem_range]
  constructor
  · rintro ⟨l, -, hl, hl', rfl⟩
    exact ⟨l % 32, Nat.mod_lt _ (by decide), by rwa [Nat.div_add_mod]⟩
  · rintro ⟨i, hi, hact⟩
    exact ⟨32 * g + i, by omega, hact, by omega, by omega⟩

/-- The blocks with an active lane. -/
def activeBlocks (act : LaneMask) : List Nat := (List.range 3).filter fun g => act &&& blockLanes g ≠ 0

theorem activeBlocks_eq : activeBlocks act = [0, 1, 2].filter fun g => (List.range 32).any fun i => act.getLsbD (32 * g + i) :=
  List.filter_congr fun _ hg => blockLanes_active (List.mem_range.1 hg)

theorem getLsbD_foldl_blockLanes (gs : List Nat) (m : LaneMask) (l : Nat) :
    (gs.foldl (fun m g => m ||| blockLanes g) m).getLsbD l = (m.getLsbD l || (decide (l < 96) && gs.contains (l / 32))) := by
  induction gs generalizing m with
  | nil => simp
  | cons g gs ih =>
    rw [List.foldl_cons, ih, BitVec.getLsbD_or, getLsbD_blockLanes, List.contains_cons, Bool.or_assoc, Bool.decide_and,
      Bool.and_or_distrib_left]
    rfl

theorem foldl_blockLanes_eq (gs : List Nat) : gs.foldl (fun m g => m ||| blockLanes g) 0 = maskOf fun l => gs.contains (l / 32) := by
  refine BitVec.eq_of_getLsbD_eq fun l _ => ?_
  rw [getLsbD_foldl_blockLanes, getLsbD_maskOf]
  simp

end

/-- QBLK has three kinds. -/
theorem State.Ready.qblk_kind {k : BitVec 2} {b a d : RegField} {s : State} {w : Weave} (h : s.Ready (.qblk k b a d) w) : k.toNat < 3 := by
  obtain ⟨-, hf, -⟩ := h
  obtain ⟨-, -, hwf, -⟩ := decodeFault_eq_none_iff.1 hf
  have hcodes := ((Bool.and_eq_true _ _).mp hwf).1
  have hk := ((Bool.and_eq_true _ _).mp hcodes).1
  exact Nat.lt_succ_of_le (of_decide_eq_true hk)

theorem exec_qblk {k : BitVec 2} {b a d : RegField} {s : State} {w : Weave} (h : s.Ready (.qblk k b a d) w) :
    exec (.qblk k b a d) s = .next (s.issued.onMe fun x =>
      ((activeBlocks (w.act s.cur.strand)).foldl (fun u g => u.putBlock k.toNat d.toNat b.toNat g
        (quantise (sxBits k.toNat) (fpMode w.fpctl) (fun i => w.draw (32 * g + i) 0) ((List.range 32).map fun i =>
          if (w.act s.cur.strand).getLsbD (32 * g + i) then fp32.read (fpMode w.fpctl) (laneAt (w.lane a.toNat) (32 * g + i)).toNat
          else .fin false 0 0))) x).advance
        ((activeBlocks (w.act s.cur.strand)).foldl (fun m g => m ||| blockLanes g) 0) 1) := by
  unfold exec
  exact run_ok h rfl

theorem rules_blockStores : Rules.BlockStores := by
  refine ⟨fun k b a d s w h => ?qblk, fun kind d b g w x hk hg hne hd hb => ?put⟩
  case qblk =>
    intro md act blocks value block
    rw [exec_qblk h, foldl_blockLanes_eq, activeBlocks_eq, sxBits_eq h.qblk_kind]
  case put =>
    intro n per v
    have hn : n = sxWords kind := (sxWords_eq hk).symm
    have hper : n * per = 32 ∧ 0 < per ∧ n ≤ 8 := by
      obtain h | h | h := sxWords_cases hk <;> simp [per, hn, h]
    refine ⟨putBlock_vRegs, fun r => lane_putBlock_ne, fun hscale => ?scale, fun i hi hpay => ?payload, fun l hl hout => ?others,
      fun l h hl hh hout => ?halves⟩
    case scale =>
      rw [half_putBlock_scale hne hb hg (Nat.mod_lt g two_pos), if_pos ⟨rfl, rfl⟩, Nat.mod_eq_of_lt hscale]
    case payload =>
      have hword : i / per < n := Nat.div_lt_of_lt_mul (by rw [Nat.mul_comm, hper.1]; exact hi)
      have hin : (payloadLanes kind g).getLsbD (n * g + i / per) = true := by
        rw [getLsbD_payloadLanes, ← hn]
        have hlast : n * g ≤ 8 * 2 := Nat.mul_le_mul hper.2.2 (Nat.le_of_lt_succ hg)
        exact decide_eq_true ⟨by omega, Nat.le_add_right _ _, Nat.add_lt_add_left hword _⟩
      rw [laneAt_putBlock_payload hne hd, if_pos hin, ← hn, Nat.add_sub_cancel_left]
      rw [hn] at hpay
      have helem := elem_sxPack hk hpay i
      rwa [← hn] at helem
    case others =>
      have hnot : ¬(payloadLanes kind g).getLsbD l = true := by
        rw [getLsbD_payloadLanes, ← hn, decide_eq_true_iff]
        omega
      rw [laneAt_putBlock_payload hne hd, if_neg hnot]
    case halves =>
      have hnot : ¬(l = g / 2 ∧ h = g % 2) := fun hc => hout.elim (fun h => h hc.1) fun h => h hc.2
      rw [half_putBlock_scale hne hb hg hh, if_neg hnot]

/-! ### The values of a block (R77) -/

theorem Weave.advance_zero (w : Weave) (m : LaneMask) : w.advance m 0 = w := by
  have hgens : (Vector.ofFn fun l : Fin 96 => if m.getLsbD l.val then advanceGen 0 ((w.gens[l.val]?).getD 0) else (w.gens[l.val]?).getD 0) =
      w.gens := by
    refine Vector.ext fun l hl => ?_
    rw [Vector.getElem_ofFn, advanceGen, ite_self, Vector.getElem?_eq_getElem hl, Option.getD_some]
  have hby : w.advanceBy m 0 = w := by
    rw [Weave.advanceBy, hgens]
  rw [Weave.advance, hby, ite_self]

/-- A member that writes a lane register and draws nothing. -/
theorem drawnResult_zero_of_exec {i : Instr} {d : RegField} {g : Strand → Weave → Nat → Word}
    (h : ∀ s, exec i s = run i s fun w t => writeLanes w t d.toNat (g t.cur.strand w)) : DrawnResult i d 0 g := by
  intro s w hr
  simp only [Weave.advance_zero]
  exact (h s).trans (run_ok hr rfl)

section
variable {m scale i payload : Nat}

theorem sxValue_of_nan (h : scale % 256 = 255) : sxValue m scale i payload = .nan := if_pos h

theorem sxValue_of_finite (h : scale % 256 ≠ 255) : sxValue m scale i payload =
    .fin (bitAt payload m && bits payload 0 m ≠ 0) (bits payload 0 m)
      (((scale % 256 : Nat) : Int) - 127 - bits scale (8 + 2 * (i / 8)) 2 - (m - 1)) := if_neg h

/-- A payload is negative where its sign bit is set and its magnitude is not zero. -/
theorem sxSign_eq (h : payload < 2 ^ (m + 1)) : (bitAt payload m && bits payload 0 m ≠ 0 : Bool) = decide (2 ^ m < payload) := by
  have hpow : 2 ^ (m + 1) = 2 ^ m * 2 := pow_succ 2 m
  rw [bitAt_eq_decide_le h, bits_zero, ← Bool.decide_and]
  refine decide_eq_decide.2 ?_
  by_cases hle : 2 ^ m ≤ payload
  · rw [Nat.mod_eq_sub_mod hle, Nat.mod_eq_of_lt (by omega)]
    omega
  · exact iff_of_false (fun hc => hle hc.1) fun hc => hle hc.le

end

theorem rules_blockValues : Rules.BlockValues := by
  intro k b a d hk
  refine ⟨fun w l => sxValue (sxBits k.toNat) (sxScale (w.lane b.toNat) (l / 32)) (l % 32) (sxElem k.toNat (w.lane a.toNat) (l / 32) (l % 32)),
    drawnResult_zero_of_exec fun _ => rfl, fun w l _ => ?_⟩
  intro m n g i scale payload e sigma neg
  have hm : sxBits k.toNat = m := sxBits_eq hk
  have hscale : sxScale (w.lane b.toNat) (l / 32) = scale := rfl
  have hpay : sxElem k.toNat (w.lane a.toNat) (l / 32) (l % 32) = payload := by
    rw [sxElem, sxWords, hm]
    rfl
  simp only [hm, hscale, hpay]
  refine ⟨sxValue_of_nan, fun hne => ?_⟩
  rw [sxValue_of_finite hne, sxSign_eq (Nat.mod_lt _ (Nat.two_pow_pos n)), fp_value_fin, bits_zero]
  exact ⟨rfl, rfl⟩

end Sys2Proof.Machine
end

section
open Sys2Proof Sys2Proof.Machine

/-- Settles O14: the exact magnitudes of a block, and the words where its payloads and scale lie. -/
theorem blockFormats : Obligations.BlockFormats := ⟨rules_blockQuantisation, rules_blockStores, rules_blockValues⟩
end

section
/-! ## Words and members (R89, R92 to R105) -/

namespace Sys2Proof

/-! ### Fields of a word -/

/-- A field of two bit vectors put together lies in the one or in the other; k is the width of the lower. -/
theorem field_of_append (k : Nat) {v lo n : Nat} {x : BitVec v} {y : BitVec k} :
    (lo + n ≤ k → (x ++ y).extractLsb' lo n = y.extractLsb' lo n) ∧
      (k ≤ lo → (x ++ y).extractLsb' lo n = x.extractLsb' (lo - k) n) :=
  ⟨BitVec.extractLsb'_append_eq_of_add_le, BitVec.extractLsb'_append_eq_of_le⟩

/-! ### The member that a word names -/

/-- The word that encodes a member names it. -/
def DecodesBack (i : Instr) : Prop := ∀ x, encode i = some x → x.member = some i

/-- Major 1 (R101). -/
theorem decodesBack_salu (b a d : RegField) :
    DecodesBack (.add b a d) ∧ DecodesBack (.sub b a d) ∧ DecodesBack (.mul b a d) ∧ DecodesBack (.mulh b a d) ∧
      DecodesBack (.divu b a d) ∧ DecodesBack (.remu b a d) ∧ DecodesBack (.and b a d) ∧ DecodesBack (.or b a d) ∧
      DecodesBack (.xor b a d) ∧ DecodesBack (.shl b a d) ∧ DecodesBack (.shr b a d) ∧ DecodesBack (.sar b a d) ∧
      DecodesBack (.slt b a d) ∧ DecodesBack (.sltu b a d) ∧ DecodesBack (.min b a d) ∧ DecodesBack (.max b a d) := by
  and_intros <;> rintro _ ⟨⟩ <;>
    simp [InstrWord.member, decodeLong, decodeSalu, field_of_append 6]

/-- Major 2 (R101). -/
theorem decodesBack_salui (i : BitVec 10) (a d : RegField) :
    DecodesBack (.addi i a d) ∧ DecodesBack (.andi i a d) ∧ DecodesBack (.ori i a d) ∧ DecodesBack (.xori i a d) ∧
      DecodesBack (.shli i a d) ∧ DecodesBack (.shri i a d) ∧ DecodesBack (.sari i a d) ∧ DecodesBack (.slti i a d) := by
  and_intros <;> rintro _ ⟨⟩ <;>
    simp [InstrWord.member, decodeLong, decodeSalui, field_of_append 6, field_of_append 10]

/-- Major 3 (R101). -/
theorem decodesBack_smisc :
    (∀ a d, DecodesBack (.clz a d)) ∧ (∀ a d, DecodesBack (.popc a d)) ∧ (∀ b a d, DecodesBack (.sel b a d)) ∧
      (∀ c d, DecodesBack (.mfc c d)) ∧ (∀ a c, DecodesBack (.mtc a c)) ∧ (∀ s d, DecodesBack (.clock s d)) ∧
      (∀ a d, DecodesBack (.pgq a d)) := by
  and_intros <;> intros <;> rintro _ ⟨⟩ <;>
    simp [InstrWord.member, decodeLong, decodeSmisc, field_of_append 6]

/-- Major 9 (R101). -/
theorem decodesBack_ctrl :
    DecodesBack .ret ∧ (∀ a d, DecodesBack (.jmpr a d)) ∧ DecodesBack .exit ∧ DecodesBack .nop ∧ (∀ o d, DecodesBack (.yield o d)) ∧
      (∀ d, DecodesBack (.wait d)) ∧ (∀ c, DecodesBack (.trap c)) ∧ DecodesBack .rte ∧ DecodesBack .brk ∧
      (∀ o s p, DecodesBack (.brv o s p)) ∧ (∀ o, DecodesBack (.join o)) ∧ (∀ k p d, DecodesBack (.vote k p d)) ∧
      (∀ b a d, DecodesBack (.launch b a d)) := by
  and_intros <;> intros <;> rintro _ ⟨⟩ <;>
    simp [InstrWord.member, decodeLong, decodeCtrl, field_of_append 1, field_of_append 3, field_of_append 6, field_of_append 12,
      field_of_append 14, field_of_append 18]

/-- Major 10 (R101). -/
theorem decodesBack_vialu (p : BitVec 4) (b a d : RegField) :
    DecodesBack (.vadd p b a d) ∧ DecodesBack (.vsub p b a d) ∧ DecodesBack (.vmul p b a d) ∧ DecodesBack (.vmulh p b a d) ∧
      DecodesBack (.vmulhu p b a d) ∧ DecodesBack (.vmad p b a d) ∧ DecodesBack (.vand p b a d) ∧ DecodesBack (.vor p b a d) ∧
      DecodesBack (.vxor p b a d) ∧ DecodesBack (.vshl p b a d) ∧ DecodesBack (.vshr p b a d) ∧ DecodesBack (.vsar p b a d) ∧
      DecodesBack (.vmin p b a d) ∧ DecodesBack (.vmax p b a d) ∧ DecodesBack (.vadds p b a d) ∧ DecodesBack (.vsubs p b a d) := by
  and_intros <;> rintro _ ⟨⟩ <;>
    simp [InstrWord.member, decodeLong, decodeVialu, field_of_append 4, field_of_append 6]

/-- Major 11 (R101). -/
theorem decodesBack_vialu16 (p : BitVec 4) (b a d : RegField) :
    DecodesBack (.vaddI16 p b a d) ∧ DecodesBack (.vsubI16 p b a d) ∧ DecodesBack (.vmulI16 p b a d) ∧
      DecodesBack (.vmulhI16 p b a d) ∧ DecodesBack (.vmulhuI16 p b a d) ∧ DecodesBack (.vmadI16 p b a d) ∧
      DecodesBack (.vandI16 p b a d) ∧ DecodesBack (.vorI16 p b a d) ∧ DecodesBack (.vxorI16 p b a d) ∧
      DecodesBack (.vshlI16 p b a d) ∧ DecodesBack (.vshrI16 p b a d) ∧ DecodesBack (.vsarI16 p b a d) ∧
      DecodesBack (.vminI16 p b a d) ∧ DecodesBack (.vmaxI16 p b a d) ∧ DecodesBack (.vaddsI16 p b a d) ∧
      DecodesBack (.vsubsI16 p b a d) := by
  and_intros <;> rintro _ ⟨⟩ <;>
    simp [InstrWord.member, decodeLong, decodeVialu16, field_of_append 4, field_of_append 6]

/-- Major 12 (R101). -/
theorem decodesBack_vialu8 (p : BitVec 4) (b a d : RegField) :
    DecodesBack (.vaddI8 p b a d) ∧ DecodesBack (.vsubI8 p b a d) ∧ DecodesBack (.vmulI8 p b a d) ∧ DecodesBack (.vmulhI8 p b a d) ∧
      DecodesBack (.vmulhuI8 p b a d) ∧ DecodesBack (.vmadI8 p b a d) ∧ DecodesBack (.vandI8 p b a d) ∧
      DecodesBack (.vorI8 p b a d) ∧ DecodesBack (.vxorI8 p b a d) ∧ DecodesBack (.vshlI8 p b a d) ∧ DecodesBack (.vshrI8 p b a d) ∧
      DecodesBack (.vsarI8 p b a d) ∧ DecodesBack (.vminI8 p b a d) ∧ DecodesBack (.vmaxI8 p b a d) ∧
      DecodesBack (.vaddsI8 p b a d) ∧ DecodesBack (.vsubsI8 p b a d) := by
  and_intros <;> rintro _ ⟨⟩ <;>
    simp [InstrWord.member, decodeLong, decodeVialu8, field_of_append 4, field_of_append 6]

/-- Major 13 (R101). -/
theorem decodesBack_vimisc :
    (∀ p b a c k, DecodesBack (.vcmp p b a c k)) ∧ (∀ p b k d, DecodesBack (.vsel p b k d)) ∧ (∀ p b d, DecodesBack (.vabs p b d)) ∧
      (∀ p b d, DecodesBack (.vclz p b d)) ∧ (∀ p b d, DecodesBack (.vpopc p b d)) ∧ (∀ p b a d, DecodesBack (.vdot4 p b a d)) ∧
      (∀ p b d, DecodesBack (.vmov p b d)) ∧ (∀ p b s w i d, DecodesBack (.vext p b s w i d)) ∧
      (∀ p b w i d, DecodesBack (.vins p b w i d)) ∧ (∀ a d, DecodesBack (.vbcst a d)) ∧ (∀ p b a d, DecodesBack (.vminu p b a d)) ∧
      (∀ p b a d, DecodesBack (.vmaxu p b a d)) := by
  and_intros <;> intros <;> rintro _ ⟨⟩ <;>
    simp [InstrWord.member, decodeLong, decodeVimisc, field_of_append 1, field_of_append 2, field_of_append 3, field_of_append 4,
      field_of_append 6]

/-- Major 14 (R101). -/
theorem decodesBack_vfalu :
    (∀ p b a d, DecodesBack (.fadd p b a d)) ∧ (∀ p b a d, DecodesBack (.fsub p b a d)) ∧ (∀ p b a d, DecodesBack (.fmul p b a d)) ∧
      (∀ p b a d, DecodesBack (.fma p b a d)) ∧ (∀ p b a d, DecodesBack (.fnma p b a d)) ∧
      (∀ p b a d, DecodesBack (.fmin p b a d)) ∧ (∀ p b a d, DecodesBack (.fmax p b a d)) ∧
      (∀ p b a c k, DecodesBack (.fcmp p b a c k)) ∧ (∀ p b d, DecodesBack (.fabs p b d)) ∧ (∀ p b d, DecodesBack (.fneg p b d)) ∧
      (∀ p b a d, DecodesBack (.fsign p b a d)) ∧ (∀ p b a d, DecodesBack (.fscale p b a d)) ∧
      (∀ p b m d, DecodesBack (.frnd p b m d)) ∧ (∀ p b d, DecodesBack (.fclass p b d)) := by
  and_intros <;> intros <;> rintro _ ⟨⟩ <;>
    simp [InstrWord.member, decodeLong, decodeVfalu, field_of_append 3, field_of_append 4, field_of_append 6]

/-- Major 15 (R101). -/
theorem decodesBack_vfpk :
    (∀ p b a d, DecodesBack (.faddF16 p b a d)) ∧ (∀ p b a d, DecodesBack (.fsubF16 p b a d)) ∧
      (∀ p b a d, DecodesBack (.fmulF16 p b a d)) ∧ (∀ p b a d, DecodesBack (.fmaF16 p b a d)) ∧
      (∀ p b a d, DecodesBack (.fminF16 p b a d)) ∧ (∀ p b a d, DecodesBack (.fmaxF16 p b a d)) ∧
      (∀ p b a c k, DecodesBack (.fcmpF16 p b a c k)) ∧ (∀ p b a d, DecodesBack (.fdot2F16 p b a d)) ∧
      (∀ p b a d, DecodesBack (.faddBf16 p b a d)) ∧ (∀ p b a d, DecodesBack (.fsubBf16 p b a d)) ∧
      (∀ p b a d, DecodesBack (.fmulBf16 p b a d)) ∧ (∀ p b a d, DecodesBack (.fmaBf16 p b a d)) ∧
      (∀ p b a d, DecodesBack (.fminBf16 p b a d)) ∧ (∀ p b a d, DecodesBack (.fmaxBf16 p b a d)) ∧
      (∀ p b a c k, DecodesBack (.fcmpBf16 p b a c k)) ∧ (∀ p b a d, DecodesBack (.fdot2Bf16 p b a d)) := by
  and_intros <;> intros <;> rintro _ ⟨⟩ <;>
    simp [InstrWord.member, decodeLong, decodeVfpk, field_of_append 3, field_of_append 4, field_of_append 6]

/-- Major 16 (R101). -/
theorem decodesBack_vsfu :
    (∀ p b d, DecodesBack (.frcp p b d)) ∧ (∀ p b d, DecodesBack (.frsq p b d)) ∧ (∀ p b d, DecodesBack (.fsqrt p b d)) ∧
      (∀ p b a d, DecodesBack (.fdiv p b a d)) ∧ (∀ p b d, DecodesBack (.fexp2 p b d)) ∧ (∀ p b d, DecodesBack (.flog2 p b d)) ∧
      (∀ p b d, DecodesBack (.fsin p b d)) ∧ (∀ p b d, DecodesBack (.fcos p b d)) ∧ (∀ p b d, DecodesBack (.ftanh p b d)) := by
  and_intros <;> intros <;> rintro _ ⟨⟩ <;>
    simp [InstrWord.member, decodeLong, decodeVsfu, field_of_append 4, field_of_append 6]

/-- Major 17 (R101). -/
theorem decodesBack_vcvt :
    (∀ s t j a d, DecodesBack (.fcvt s t j a d)) ∧ (∀ k b a d, DecodesBack (.qblk k b a d)) ∧
      (∀ k b a d, DecodesBack (.dqblk k b a d)) := by
  and_intros <;> intros <;> rintro _ ⟨⟩ <;>
    simp [InstrWord.member, decodeLong, decodeVcvt, field_of_append 2, field_of_append 3, field_of_append 4, field_of_append 6]

/-- Major 18 (R101). -/
theorem decodesBack_vrearr :
    (∀ a d, DecodesBack (.zipW2 a d)) ∧ (∀ a d, DecodesBack (.zipW3 a d)) ∧ (∀ a d, DecodesBack (.zipW4 a d)) ∧
      (∀ a d, DecodesBack (.unzipW2 a d)) ∧ (∀ a d, DecodesBack (.unzipW3 a d)) ∧ (∀ a d, DecodesBack (.unzipW4 a d)) ∧
      (∀ p b a d, DecodesBack (.vperm p b a d)) ∧ (∀ k o a d, DecodesBack (.vred k o a d)) ∧
      (∀ k o a d, DecodesBack (.vscan k o a d)) ∧ (∀ k a d, DecodesBack (.vcmpr k a d)) := by
  and_intros <;> intros <;> rintro _ ⟨⟩ <;>
    simp [InstrWord.member, decodeLong, decodeVrearr, field_of_append 2, field_of_append 3, field_of_append 4, field_of_append 6]

/-- Major 19 (R101). -/
theorem decodesBack_vimm :
    (∀ i a d, DecodesBack (.vaddi i a d)) ∧ (∀ i a d, DecodesBack (.vandi i a d)) ∧ (∀ i a d, DecodesBack (.vori i a d)) ∧
      (∀ i a d, DecodesBack (.vxori i a d)) ∧ (∀ i a d, DecodesBack (.vshli i a d)) ∧ (∀ i a d, DecodesBack (.vshri i a d)) ∧
      (∀ i a d, DecodesBack (.vsari i a d)) ∧ (∀ i d, DecodesBack (.vmovi i d)) ∧ (∀ i a c k, DecodesBack (.vcmpi i a c k)) := by
  and_intros <;> intros <;> rintro _ ⟨⟩ <;>
    simp [InstrWord.member, decodeLong, decodeVimm, field_of_append 3, field_of_append 6, field_of_append 10]

/-- Major 20 (R101). -/
theorem decodesBack_idxq :
    (∀ x a d, DecodesBack (.vldx x a d)) ∧ (∀ p b a x, DecodesBack (.vstx p b a x)) ∧ (∀ a x, DecodesBack (.setx a x)) ∧
      (∀ a k q, DecodesBack (.qpush a k q)) ∧ (∀ k q d, DecodesBack (.qpop k q d)) ∧ (∀ k q d, DecodesBack (.qpeek k q d)) ∧
      (∀ q d, DecodesBack (.qstat q d)) := by
  and_intros <;> intros <;> rintro _ ⟨⟩ <;>
    simp [InstrWord.member, decodeLong, decodeIdxq, field_of_append 1, field_of_append 2, field_of_append 3, field_of_append 4,
      field_of_append 6]

/-- Major 21 (R101). -/
theorem decodesBack_port :
    (∀ p b n, DecodesBack (.npush p b n)) ∧ (∀ n d, DecodesBack (.npop n d)) ∧ (∀ n d, DecodesBack (.npeek n d)) ∧
      (∀ n k p, DecodesBack (.npoll n k p)) ∧ (∀ n a, DecodesBack (.nsave n a)) ∧ (∀ n a, DecodesBack (.nload n a)) ∧
      (∀ a d, DecodesBack (.xshuf a d)) := by
  and_intros <;> intros <;> rintro _ ⟨⟩ <;>
    simp [InstrWord.member, decodeLong, decodePort, field_of_append 1, field_of_append 2, field_of_append 3, field_of_append 4,
      field_of_append 6, field_of_append 9, field_of_append 12]

/-- Major 22 (R101). -/
theorem decodesBack_mema :
    (∀ f w e c h d, DecodesBack (.lds f w e c h d)) ∧ (∀ f w c h d, DecodesBack (.sts f w c h d)) ∧
      (∀ f c h d, DecodesBack (.ldc f c h d)) ∧ (∀ f c h d, DecodesBack (.stc f c h d)) ∧
      (∀ f w e c h q, DecodesBack (.ldq f w e c h q)) ∧ (∀ f w c h q, DecodesBack (.stq f w c h q)) ∧
      (∀ f c h, DecodesBack (.pref f c h)) := by
  and_intros <;> intros <;> rintro _ ⟨⟩ <;>
    simp [InstrWord.member, decodeLong, decodeMema, field_of_append 1, field_of_append 2, field_of_append 3, field_of_append 4,
      field_of_append 6, field_of_append 12]

/-- Major 23 (R101). -/
theorem decodesBack_memv :
    (∀ f w e c h d, DecodesBack (.vld f w e c h d)) ∧ (∀ f w c h d, DecodesBack (.vst f w c h d)) ∧
      (∀ f w e c h d, DecodesBack (.sld f w e c h d)) ∧ (∀ f w c h d, DecodesBack (.sst f w c h d)) := by
  and_intros <;> intros <;> rintro _ ⟨⟩ <;>
    simp [InstrWord.member, decodeLong, decodeMemv, field_of_append 1, field_of_append 2, field_of_append 6]

/-- Major 24 (R101). -/
theorem decodesBack_gath :
    (∀ w s c b a i q, DecodesBack (.gthq w s c b a i q)) ∧ (∀ w s c b a i q, DecodesBack (.sctq w s c b a i q)) ∧
      (∀ w s c b a d, DecodesBack (.vgth w s c b a d)) ∧ (∀ w s c b a d, DecodesBack (.vsct w s c b a d)) := by
  and_intros <;> intros <;> rintro _ ⟨⟩ <;>
    simp [InstrWord.member, decodeLong, decodeGath, field_of_append 1, field_of_append 2, field_of_append 6]

/-- Major 25 (R101). -/
theorem decodesBack_atom :
    (∀ o w b a d, DecodesBack (.amo o w b a d)) ∧ (∀ o b a d, DecodesBack (.vamo o b a d)) ∧
      (∀ w b a d, DecodesBack (.cas w b a d)) ∧ (∀ b a d, DecodesBack (.vcas b a d)) := by
  and_intros <;> intros <;> rintro _ ⟨⟩ <;>
    simp [InstrWord.member, decodeLong, decodeAtom, field_of_append 2, field_of_append 4, field_of_append 6]

/-- Major 26 (R101). -/
theorem decodesBack_sync :
    (∀ s o, DecodesBack (.fence s o)) ∧ (∀ a s, DecodesBack (.acqp a s)) ∧ (∀ d, DecodesBack (.bar d)) ∧
      (∀ a d, DecodesBack (.binit a d)) ∧ (∀ d, DecodesBack (.bara d)) ∧ (∀ d, DecodesBack (.barw d)) ∧
      (∀ b a d, DecodesBack (.waitv b a d)) := by
  and_intros <;> intros <;> rintro _ ⟨⟩ <;>
    simp [InstrWord.member, decodeLong, decodeSync, field_of_append 3, field_of_append 6, field_of_append 9]

/-- Major 27 (R101). -/
theorem decodesBack_bndl :
    (∀ b a d, DecodesBack (.bopen b a d)) ∧ (∀ a d, DecodesBack (.bjoin a d)) ∧ (∀ d, DecodesBack (.bclose d)) ∧
      (∀ a, DecodesBack (.babort a)) ∧ (∀ a d, DecodesBack (.bview a d)) ∧ (∀ a, DecodesBack (.brel a)) ∧
      (∀ a d, DecodesBack (.bstat a d)) ∧ (∀ a d, DecodesBack (.bpin a d)) ∧ (∀ b a d, DecodesBack (.layq b a d)) ∧
      (∀ b a d, DecodesBack (.laypin b a d)) ∧ (∀ b a d, DecodesBack (.layadv b a d)) := by
  and_intros <;> intros <;> rintro _ ⟨⟩ <;>
    simp [InstrWord.member, decodeLong, decodeBndl, field_of_append 6, field_of_append 12]

/-- Major 28 (R101). -/
theorem decodesBack_matx :
    DecodesBack .mgang ∧ (∀ k b a d, DecodesBack (.mload k b a d)) ∧ DecodesBack .mswap ∧ (∀ e b a d, DecodesBack (.mmac e b a d)) ∧
      (∀ p a d, DecodesBack (.mread p a d)) ∧ DecodesBack .mzero ∧ (∀ a, DecodesBack (.msave a)) ∧ (∀ a, DecodesBack (.mrstr a)) := by
  and_intros <;> intros <;> rintro _ ⟨⟩ <;>
    simp [InstrWord.member, decodeLong, decodeMatx, field_of_append 1, field_of_append 2, field_of_append 4, field_of_append 6,
      field_of_append 9, field_of_append 12]

/-- Major 29 (R101). -/
theorem decodesBack_eng :
    (∀ l k x a d, DecodesBack (.tcopy l k x a d)) ∧ (∀ x a d, DecodesBack (.tcopys x a d)) ∧ (∀ o a d, DecodesBack (.nmx o a d)) ∧
      (∀ c a d, DecodesBack (.scan c a d)) ∧ (∀ a d, DecodesBack (.ckpt a d)) ∧ (∀ o a d, DecodesBack (.cred o a d)) ∧
      (∀ a d, DecodesBack (.cbcst a d)) := by
  and_intros <;> intros <;> rintro _ ⟨⟩ <;>
    simp [InstrWord.member, decodeLong, decodeEng, field_of_append 1, field_of_append 2, field_of_append 3, field_of_append 6,
      field_of_append 7, field_of_append 8, field_of_append 9]

/-- Major 30 (R101). -/
theorem decodesBack_sys :
    (∀ b a d, DecodesBack (.objmap b a d)) ∧ (∀ b a d, DecodesBack (.objunmap b a d)) ∧ (∀ b a d, DecodesBack (.objq b a d)) ∧
      (∀ b a d, DecodesBack (.mapgen b a d)) ∧ (∀ b a, DecodesBack (.inval b a)) ∧ DecodesBack .savespl ∧
      (∀ a, DecodesBack (.rstspl a)) ∧ (∀ a d, DecodesBack (.perf a d)) ∧ (∀ a d, DecodesBack (.preempt a d)) := by
  and_intros <;> intros <;> rintro _ ⟨⟩ <;>
    simp [InstrWord.member, decodeLong, decodeSys, field_of_append 6, field_of_append 12]

/-- The 16-bit words (R100). -/
theorem decodesBack_short (b : BitVec 5) (d : RegField) :
    DecodesBack (.vaddN b d) ∧ DecodesBack (.vsubN b d) ∧ DecodesBack (.vmulN b d) ∧ DecodesBack (.vandN b d) ∧
      DecodesBack (.vorN b d) ∧ DecodesBack (.vxorN b d) ∧ DecodesBack (.vshlN b d) ∧ DecodesBack (.vshrN b d) ∧
      DecodesBack (.vsarN b d) ∧ DecodesBack (.vminN b d) ∧ DecodesBack (.vmaxN b d) ∧ DecodesBack (.vmovN b d) ∧
      DecodesBack (.faddN b d) ∧ DecodesBack (.fsubN b d) ∧ DecodesBack (.fmulN b d) ∧ DecodesBack (.fmaxN b d) := by
  and_intros <;> rintro _ ⟨⟩ <;>
    simp [InstrWord.member, decodeShort, field_of_append 5, field_of_append 6]

/-- Majors 4 to 8 and 31, of one member each (R101). -/
theorem decodesBack_single :
    (∀ i d, DecodesBack (.movi i d)) ∧ (∀ p v d, DecodesBack (.movk p v d)) ∧ (∀ o, DecodesBack (.bra o)) ∧
      (∀ o, DecodesBack (.call o)) ∧ (∀ o c b a, DecodesBack (.bcc o c b a)) ∧
      (∀ v b c s p o, DecodesBack (.prefixWord v b c s p o)) := by
  and_intros <;> intros <;> rintro _ ⟨⟩ <;>
    simp [InstrWord.member, decodeLong, decodeMovi, decodeMovk, decodeBra, decodeCall, decodeBcc, decodePrefix, field_of_append 1,
      field_of_append 2, field_of_append 3, field_of_append 6, field_of_append 16]

/-- Every word that encodes a member names it. -/
theorem decodesBack (i : Instr) : DecodesBack i := by
  cases i with
  | add | sub | mul | mulh | divu | remu | and | or | xor | shl | shr | sar | slt | sltu | min | max =>
    simp only [decodesBack_salu]
  | addi | andi | ori | xori | shli | shri | sari | slti =>
    simp only [decodesBack_salui]
  | clz | popc | sel | mfc | mtc | clock | pgq =>
    simp only [decodesBack_smisc]
  | ret | jmpr | exit | nop | yield | wait | trap | rte | brk | brv | join | vote | launch =>
    simp only [decodesBack_ctrl]
  | vadd | vsub | vmul | vmulh | vmulhu | vmad | vand | vor | vxor | vshl | vshr | vsar | vmin | vmax | vadds | vsubs =>
    simp only [decodesBack_vialu]
  | vaddI16 | vsubI16 | vmulI16 | vmulhI16 | vmulhuI16 | vmadI16 | vandI16 | vorI16 | vxorI16 | vshlI16 | vshrI16 | vsarI16
  | vminI16 | vmaxI16 | vaddsI16 | vsubsI16 =>
    simp only [decodesBack_vialu16]
  | vaddI8 | vsubI8 | vmulI8 | vmulhI8 | vmulhuI8 | vmadI8 | vandI8 | vorI8 | vxorI8 | vshlI8 | vshrI8 | vsarI8 | vminI8 | vmaxI8
  | vaddsI8 | vsubsI8 =>
    simp only [decodesBack_vialu8]
  | vcmp | vsel | vabs | vclz | vpopc | vdot4 | vmov | vext | vins | vbcst | vminu | vmaxu =>
    simp only [decodesBack_vimisc]
  | fadd | fsub | fmul | fma | fnma | fmin | fmax | fcmp | fabs | fneg | fsign | fscale | frnd | fclass =>
    simp only [decodesBack_vfalu]
  | faddF16 | fsubF16 | fmulF16 | fmaF16 | fminF16 | fmaxF16 | fcmpF16 | fdot2F16 | faddBf16 | fsubBf16 | fmulBf16 | fmaBf16
  | fminBf16 | fmaxBf16 | fcmpBf16 | fdot2Bf16 =>
    simp only [decodesBack_vfpk]
  | frcp | frsq | fsqrt | fdiv | fexp2 | flog2 | fsin | fcos | ftanh =>
    simp only [decodesBack_vsfu]
  | fcvt | qblk | dqblk =>
    simp only [decodesBack_vcvt]
  | zipW2 | zipW3 | zipW4 | unzipW2 | unzipW3 | unzipW4 | vperm | vred | vscan | vcmpr =>
    simp only [decodesBack_vrearr]
  | vaddi | vandi | vori | vxori | vshli | vshri | vsari | vmovi | vcmpi =>
    simp only [decodesBack_vimm]
  | vldx | vstx | setx | qpush | qpop | qpeek | qstat =>
    simp only [decodesBack_idxq]
  | npush | npop | npeek | npoll | nsave | nload | xshuf =>
    simp only [decodesBack_port]
  | lds | sts | ldc | stc | ldq | stq | pref =>
    simp only [decodesBack_mema]
  | vld | vst | sld | sst =>
    simp only [decodesBack_memv]
  | gthq | sctq | vgth | vsct =>
    simp only [decodesBack_gath]
  | amo | vamo | cas | vcas =>
    simp only [decodesBack_atom]
  | fence | acqp | bar | binit | bara | barw | waitv =>
    simp only [decodesBack_sync]
  | bopen | bjoin | bclose | babort | bview | brel | bstat | bpin | layq | laypin | layadv =>
    simp only [decodesBack_bndl]
  | mgang | mload | mswap | mmac | mread | mzero | msave | mrstr =>
    simp only [decodesBack_matx]
  | tcopy | tcopys | nmx | scan | ckpt | cred | cbcst =>
    simp only [decodesBack_eng]
  | objmap | objunmap | objq | mapgen | inval | savespl | rstspl | perf | preempt =>
    simp only [decodesBack_sys]
  | vaddN | vsubN | vmulN | vandN | vorN | vxorN | vshlN | vshrN | vsarN | vminN | vmaxN | vmovN | faddN | fsubN | fmulN | fmaxN =>
    simp only [decodesBack_short]
  | movi | movk | bra | call | bcc | prefixWord =>
    simp only [decodesBack_single]
  | _ => rintro _ ⟨⟩

theorem InstrWord.decode_of_encode {i : Instr} {x : InstrWord} (h : encode i = some x) : x.decode = .instr i := by
  simp only [InstrWord.decode, decodesBack i x h, if_pos h]

/-- A word decodes to the member that encodes to it alone: every bit of it counts. -/
theorem InstrWord.encode_of_decode {i : Instr} {x : InstrWord} (h : x.decode = .instr i) : encode i = some x := by
  unfold InstrWord.decode at h
  split at h
  · cases h
  · split at h
    next he =>
      cases h
      exact he
    · cases h

/-! ### Words as bytes -/

/-- Bit 0 of the first halfword is 1 for a 32-bit word and 0 for a 16-bit word (R89). -/
theorem lengthBit_of_encode (i : Instr) : Laws.Encodes.Statement i := by
  cases i with
  | ret => exact Laws.Encodes.ret
  | exit => exact Laws.Encodes.exit
  | nop => exact Laws.Encodes.nop
  | rte => exact Laws.Encodes.rte
  | brk => exact Laws.Encodes.brk
  | mgang => exact Laws.Encodes.mgang
  | mswap => exact Laws.Encodes.mswap
  | mzero => exact Laws.Encodes.mzero
  | savespl => exact Laws.Encodes.savespl
  | _ => rintro _ ⟨⟩ <;> exact (Laws.low_append _ _).trans rfl

theorem halfword_extract (w : BitVec 16) : halfword (w.extractLsb' 0 8) (w.extractLsb' 8 8) = w := by
  rw [halfword, BitVec.extractLsb'_append_extractLsb'_eq_extractLsb' (rfl : 8 = 0 + 8)]
  exact BitVec.extractLsb'_eq_self

/-- The halfwords of a 32-bit word, the lower first. -/
theorem halfword_extract_long (w : BitVec 32) :
    halfword (w.extractLsb' 16 8) (w.extractLsb' 24 8) ++ halfword (w.extractLsb' 0 8) (w.extractLsb' 8 8) = w := by
  rw [halfword, halfword, BitVec.extractLsb'_append_extractLsb'_eq_extractLsb' (rfl : 24 = 16 + 8),
    BitVec.extractLsb'_append_extractLsb'_eq_extractLsb' (rfl : 8 = 0 + 8),
    BitVec.extractLsb'_append_extractLsb'_eq_extractLsb' (rfl : 16 = 0 + (8 + 8))]
  exact BitVec.extractLsb'_eq_self

/-- The first word of bytes that begin with the bytes of a word whose length bit is right. -/
theorem firstWord_toBytes {x : InstrWord} (h : x.lengthBit = decide (x.bytes = 4)) (rest : List Byte) :
    firstWord (x.toBytes ++ rest) = some (x, rest) := by
  cases x with
  | short w =>
    have h0 : (w.extractLsb' 0 8).getLsbD 0 = false := by simpa [InstrWord.lengthBit, InstrWord.bytes] using h
    simp only [InstrWord.toBytes, List.cons_append, List.nil_append, firstWord, h0, Bool.false_eq_true, if_false, halfword_extract]
  | long w =>
    have h0 : (w.extractLsb' 0 8).getLsbD 0 = true := by simpa [InstrWord.lengthBit, InstrWord.bytes] using h
    simp only [InstrWord.toBytes, List.cons_append, List.nil_append, firstWord, h0, if_true, halfword_extract_long]

/-- Bytes with a first word begin with the bytes of that word. -/
theorem eq_toBytes_of_firstWord {bs rest : List Byte} {x : InstrWord} (h : firstWord bs = some (x, rest)) : bs = x.toBytes ++ rest := by
  unfold firstWord at h
  split at h
  next b0 b1 r =>
    split at h
    · split at h
      next b2 b3 _ =>
        cases h
        simp [InstrWord.toBytes, halfword, field_of_append 8, field_of_append 16]
      · cases h
    · cases h
      simp [InstrWord.toBytes, halfword, field_of_append 8]
  · cases h

theorem decodeBytes_toBytes {i : Instr} {x : InstrWord} (h : encode i = some x) (rest : List Byte) :
    decodeBytes (x.toBytes ++ rest) = .ok (i, rest) := by
  simp only [decodeBytes, firstWord_toBytes (lengthBit_of_encode i x h), InstrWord.decode_of_encode h]

theorem eq_toBytes_of_decodeBytes {i : Instr} {bs rest : List Byte} (h : decodeBytes bs = .ok (i, rest)) :
    ∃ x, encode i = some x ∧ bs = x.toBytes ++ rest := by
  unfold decodeBytes at h
  split at h
  · cases h
  next x r hx =>
    split at h
    · cases h
    · cases h
    next hd =>
      cases h
      exact ⟨x, InstrWord.encode_of_decode hd, eq_toBytes_of_firstWord hx⟩

end Sys2Proof
end

section
open Sys2Proof

theorem rules_encodeThenDecode : Rules.EncodeThenDecode := fun i x rest h =>
  ⟨InstrWord.decode_of_encode h, by rw [lengthBit_of_encode i x h, decide_eq_true_iff], decodeBytes_toBytes h rest⟩

theorem rules_decodeThenEncode : Rules.DecodeThenEncode := fun _ _ _ _ _ =>
  ⟨InstrWord.encode_of_decode,
    fun hx hy => Option.some.inj ((InstrWord.encode_of_decode hx).symm.trans (InstrWord.encode_of_decode hy)), eq_toBytes_of_decodeBytes⟩

/-- Settles O52: the word of each member names it, and it decodes to nothing but the member that encodes to it. -/
theorem encodingRoundTrip : Obligations.EncodingRoundTrip := ⟨rules_encodeThenDecode, rules_decodeThenEncode⟩
end

section
open Sys2Proof

/-- Settles O53: each word is the encoding of its member (O52), and no member has major 0. -/
theorem decodedWords : Obligations.DecodedWords := by
  refine ⟨?_, ?_, ?_, ?_, ?_, ?_, ?_, ?_, rfl⟩ <;> exact InstrWord.decode_of_encode rfl
end

section
/-! ## The checks of a word, and prefixes (R9, R93, R99, R105) -/

namespace Sys2Proof.Machine

/-! ### A check that fails -/

section
variable {s : State} {w : Weave} {i : Instr} {c : Cause}

/-- Instruction i of the acting strand fails a check of decoding with cause c (R105 steps 6 to 9). -/
structure State.FailsCheck (s : State) (i : Instr) (w : Weave) (c : Cause) : Prop where
  weave : s.weave? s.cur.weave = some w
  now : s.cur.moment = .now
  cause : s.decodeFault i w = some c

/-- An outcome that is the fault of a check of instruction i and nothing else. -/
def State.FaultsAs (s : State) (i : Instr) (w : Weave) (c : Cause) (o : Host.Outcome State Fault Refusal) : Prop :=
  o = .next (s.vector s.cur.weave s.cur.strand (s.infoOf i w c accOther))

theorem State.FailsCheck.run (h : s.FailsCheck i w c) (body : Body) : s.FaultsAs i w c (run i s body) :=
  run_check h.weave h.now h.cause

theorem State.FailsCheck.salu (h : s.FailsCheck i w c) (b a d : RegField) (f : DWord → DWord → DWord) :
    s.FaultsAs i w c (salu i b a d s f) := h.run _

theorem State.FailsCheck.salui (h : s.FailsCheck i w c) (a d : RegField) (f : DWord → DWord) : s.FaultsAs i w c (salui i a d s f) :=
  h.run _

theorem State.FailsCheck.waitOn (h : s.FailsCheck i w c) (d : RegField) (wants : Bool → Bool) (target : BitVec 32 → BitVec 32) :
    s.FaultsAs i w c (waitOn i d s wants target) := h.run _

theorem State.FailsCheck.lane3 (h : s.FailsCheck i w c) (p : BitVec 4) (b a d : RegField) (f : Word → Word → Word → Word) :
    s.FaultsAs i w c (lane3 i p b a d s f) := h.run _

theorem State.FailsCheck.lane2 (h : s.FailsCheck i w c) (p : BitVec 4) (b d : RegField) (f : Word → Word → Word) :
    s.FaultsAs i w c (lane2 i p b d s f) := h.run _

theorem State.FailsCheck.laneImm (h : s.FailsCheck i w c) (a d : RegField) (f : Word → Word) : s.FaultsAs i w c (laneImm i a d s f) :=
  h.run _

theorem State.FailsCheck.floatLane (h : s.FailsCheck i w c) (f : Fmt) (p : BitVec 4) (b a d : RegField) (draws : Bool) (op : FloatOp) :
    s.FaultsAs i w c (floatLane i f p b a d s draws op) := h.run _

theorem State.FailsCheck.sfu (h : s.FailsCheck i w c) (p : BitVec 4) (b a d : RegField) (f : FpMode → Nat → Fp → Fp → Nat) :
    s.FaultsAs i w c (sfu i p b a d s f) := h.run _

/-- A 16-bit form fails the checks that the word for which it stands fails: it names the same registers (R100). -/
theorem State.FailsCheck.of_form {j : Instr} (h : s.FailsCheck i w c) (hs : j.streams = i.streams) (hu : j.supervisorOnly = i.supervisorOnly)
    (hwf : j.wellFormed s.cur.strand.stream = i.wellFormed s.cur.strand.stream) (hcodes : s.codesSuit j w = s.codesSuit i w)
    (hops : (j.operands s.cur.strand.stream).all (Opnd.inBound w.nregs) = (i.operands s.cur.strand.stream).all (Opnd.inBound w.nregs)) :
    s.FailsCheck j w c := by
  refine ⟨h.weave, h.now, ?_⟩
  rw [← h.cause]
  simp only [State.decodeFault, hs, hu, hwf, hcodes, hops]

/-- The record of a 16-bit form is that of the word for which it stands: neither is an engine command. -/
theorem State.FaultsAs.of_form {j : Instr} {o : Host.Outcome State Fault Refusal} (h : s.FaultsAs j w c o)
    (hk : j.engineKind = i.engineKind) : s.FaultsAs i w c o := by
  rw [State.FaultsAs, State.infoOf, hk] at h
  exact h

theorem shortOpnds_inBound (n : Nat) (b : BitVec 5) (d : RegField) :
    [Opnd.lane d.toNat, .lane d.toNat, .lane (b.setWidth 6).toNat].all (Opnd.inBound n) =
      [Opnd.lane d.toNat, .lane b.toNat].all (Opnd.inBound n) := by
  have hb : (b.setWidth 6).toNat = b.toNat := BitVec.toNat_setWidth_of_le (by decide)
  simp [hb]

theorem shortOpnds_inBound_two (n : Nat) (b : BitVec 5) (d : RegField) :
    [Opnd.lane d.toNat, .lane (b.setWidth 6).toNat].all (Opnd.inBound n) =
      [Opnd.lane d.toNat, .lane b.toNat].all (Opnd.inBound n) := by
  have hb : (b.setWidth 6).toNat = b.toNat := BitVec.toNat_setWidth_of_le (by decide)
  simp [hb]

/-- Whatever member it is, a check that it fails is all that comes of it (R105). -/
theorem State.FailsCheck.exec (h : s.FailsCheck i w c) (he : i.isEvent = false) (hp : isPrefix i = false) : s.FaultsAs i w c (exec i s) := by
  cases i with
  | prefixWord => cases hp
  | add | sub | mul | mulh | divu | remu | and | or | xor | shl | shr | sar | slt | sltu | min | max =>
    unfold Machine.exec
    exact h.salu _ _ _ _
  | addi | andi | ori | xori | shli | shri | sari | slti | clz | popc =>
    unfold Machine.exec
    exact h.salui _ _ _
  | yield | wait =>
    unfold Machine.exec
    exact h.waitOn _ _ _
  | vadd | vsub | vmul | vmulh | vmulhu | vmad | vand | vor | vxor | vshl | vshr | vsar | vmin | vmax | vadds | vsubs | vaddI16 | vsubI16
  | vmulI16 | vmulhI16 | vmulhuI16 | vmadI16 | vandI16 | vorI16 | vxorI16 | vshlI16 | vshrI16 | vsarI16 | vminI16 | vmaxI16 | vaddsI16
  | vsubsI16 | vaddI8 | vsubI8 | vmulI8 | vmulhI8 | vmulhuI8 | vmadI8 | vandI8 | vorI8 | vxorI8 | vshlI8 | vshrI8 | vsarI8 | vminI8
  | vmaxI8 | vaddsI8 | vsubsI8 | vdot4 | vminu | vmaxu =>
    unfold Machine.exec
    exact h.lane3 _ _ _ _ _
  | vabs | vclz | vpopc | vmov | vext | vins | fclass =>
    unfold Machine.exec
    exact h.lane2 _ _ _ _
  | vaddi | vandi | vori | vxori | vshli | vshri | vsari =>
    unfold Machine.exec
    exact h.laneImm _ _ _
  | fadd | fsub | fmul | fma | fnma | fmin | fmax | fabs | fneg | faddF16 | fsubF16 | fmulF16 | fmaF16 | fminF16 | fmaxF16 | faddBf16
  | fsubBf16 | fmulBf16 | fmaBf16 | fminBf16 | fmaxBf16 =>
    unfold Machine.exec
    exact h.floatLane _ _ _ _ _ _ _
  | frcp | frsq | fsqrt | fdiv | fexp2 | flog2 | fsin | fcos | ftanh =>
    unfold Machine.exec
    exact h.sfu _ _ _ _ _
  | vaddN | vsubN | vmulN | vandN | vorN | vxorN | vshlN | vshrN | vsarN | vminN | vmaxN =>
    unfold Machine.exec
    refine State.FaultsAs.of_form (State.FailsCheck.lane3 ?_ _ _ _ _ _) rfl
    exact h.of_form rfl rfl rfl rfl (shortOpnds_inBound _ _ _)
  | vmovN =>
    unfold Machine.exec
    refine State.FaultsAs.of_form (State.FailsCheck.lane2 ?_ _ _ _ _) rfl
    exact h.of_form rfl rfl rfl rfl (shortOpnds_inBound_two _ _ _)
  | faddN | fsubN | fmulN | fmaxN =>
    unfold Machine.exec
    refine State.FaultsAs.of_form (State.FailsCheck.floatLane ?_ _ _ _ _ _ _ _) rfl
    exact h.of_form rfl rfl rfl rfl (shortOpnds_inBound _ _ _)
  | sel | mfc | mtc | clock | pgq | movi | movk | bra | call | bcc | ret | jmpr | exit | nop | trap | rte | brk | brv | join
  | vote | launch | vcmp | vsel | vbcst | fcmp | fsign | fscale | frnd | fcmpF16 | fdot2F16 | fcmpBf16 | fdot2Bf16 | fcvt | qblk
  | dqblk | zipW2 | zipW3 | zipW4 | unzipW2 | unzipW3 | unzipW4 | vperm | vred | vscan | vcmpr | vmovi | vcmpi | vldx | vstx
  | setx | qpush | qpop | qpeek | qstat | npush | npop | npeek | npoll | nsave | nload | xshuf | lds | sts | ldc | stc | ldq | stq
  | pref | vld | vst | sld | sst | gthq | sctq | vgth | vsct | amo | vamo | cas | vcas | fence | acqp | bar | binit | bara | barw
  | waitv | bopen | bjoin | bclose | babort | bview | brel | bstat | bpin | layq | laypin | layadv | mgang | mload | mswap | mmac
  | mread | mzero | msave | mrstr | tcopy | tcopys | nmx | scan | ckpt | cred | cbcst | objmap | objunmap | objq | mapgen | inval
  | savespl | rstspl | perf | preempt =>
    unfold Machine.exec
    exact h.run _
  | _ => cases he
end

/-! ### The first check that fails (R105 steps 6 to 9) -/

section
variable {s : State} {w : Weave} {i : Instr}

/-- A strand is in supervisor mode where it is not in user mode. -/
theorem Weave.mode_eq_supervisor_iff {st : Strand} : w.mode st = .supervisor ↔ w.mode st ≠ .user := by
  cases w.mode st <;> simp

theorem privileged_iff {st : Strand} :
    (i.supervisorOnly = false ∨ w.mode st = .supervisor) ↔ ¬(i.supervisorOnly && decide (w.mode st = .user)) = true := by
  rw [Weave.mode_eq_supervisor_iff]
  cases i.supervisorOnly <;> simp

theorem decodeFault_stream (h : i.streams.allows s.cur.strand.stream ≠ true) : s.decodeFault i w = some .stream := by
  simp [State.decodeFault, h]

theorem decodeFault_priv (hs : i.streams.allows s.cur.strand.stream = true)
    (h : ¬(i.supervisorOnly = false ∨ w.mode s.cur.strand = .supervisor)) : s.decodeFault i w = some .priv := by
  rw [privileged_iff, not_not] at h
  simp only [State.decodeFault, hs, h, Bool.not_true, Bool.false_eq_true, if_false, if_true]

theorem decodeFault_illegal (hs : i.streams.allows s.cur.strand.stream = true)
    (hp : i.supervisorOnly = false ∨ w.mode s.cur.strand = .supervisor)
    (h : ¬(i.wellFormed s.cur.strand.stream = true ∧ s.codesSuit i w = true)) : s.decodeFault i w = some .illegal := by
  have hi : (!i.wellFormed s.cur.strand.stream || !s.codesSuit i w) = true := by
    rw [← Bool.not_and, Bool.not_eq_true', ← Bool.not_eq_true, Bool.and_eq_true]
    exact h
  simp only [State.decodeFault, hs, if_neg (privileged_iff.1 hp), hi, Bool.not_true, Bool.false_eq_true, if_false, if_true]

theorem decodeFault_regBound (hs : i.streams.allows s.cur.strand.stream = true)
    (hp : i.supervisorOnly = false ∨ w.mode s.cur.strand = .supervisor)
    (hf : i.wellFormed s.cur.strand.stream = true ∧ s.codesSuit i w = true)
    (h : ¬(i.operands s.cur.strand.stream).all (Opnd.inBound w.nregs) = true) : s.decodeFault i w = some .regBound := by
  rw [Bool.not_eq_true] at h
  simp only [State.decodeFault, hs, if_neg (privileged_iff.1 hp), hf.1, hf.2, h, Bool.not_true, Bool.not_false, Bool.or_self,
    Bool.false_eq_true, if_false, if_true]

/-- An instruction is ready where its weave is resident, its access is for now, and it passes the four checks. -/
theorem ready_iff (hw : s.weave? s.cur.weave = some w) (hm : s.cur.moment = .now) : s.Ready i w ↔
    i.streams.allows s.cur.strand.stream = true ∧ (i.supervisorOnly = false ∨ w.mode s.cur.strand = .supervisor) ∧
      (i.wellFormed s.cur.strand.stream = true ∧ s.codesSuit i w = true) ∧
      (i.operands s.cur.strand.stream).all (Opnd.inBound w.nregs) = true := by
  rw [State.Ready, decodeFault_eq_none_iff, privileged_iff, Bool.and_eq_true, decide_eq_true_iff]
  simp only [hw, hm, true_and, and_true, and_assoc]
end

theorem rules_checksInOrder : Rules.ChecksInOrder := by
  intro i s w hw he hp hm st legal allowed formed bound faults
  have hfault : ∀ c, s.decodeFault i w = some c → faults c := fun c hc =>
    ⟨s.infoOf i w c accOther, State.FailsCheck.exec ⟨hw, hm, hc⟩ he (isPrefix_eq_false hp), rfl, rfl, rfl, rfl, rfl, rfl,
      fun ha => congrArg w.act ha, fun _ hc => congrArg w.act hc⟩
  exact ⟨fun h => hfault _ (decodeFault_stream h), fun hl h => hfault _ (decodeFault_priv hl h),
    fun hl ha h => hfault _ (decodeFault_illegal hl ha h), fun hl ha hf h => hfault _ (decodeFault_regBound hl ha hf h), ready_iff hw hm⟩

/-! ### Prefixes (R9, R99) -/

theorem isSome_orderOfCode : ∀ c : BitVec 3, (Order.ofCode c).isSome = decide (c.toNat ≤ 4) := by decide

theorem isSome_scopeOfCode : ∀ c : BitVec 3, (Scope.ofCode c).isSome = decide (c.toNat ≤ 6) := by decide

theorem isSome_spaceOfCode : ∀ c : BitVec 3, (Space.ofCode c).isSome = decide (c.toNat ≤ 3) := by decide

theorem isSome_cachePolicyOfCode : ∀ c : BitVec 3, (CachePolicy.ofCode c).isSome = decide (c.toNat ≤ 3) := by decide

section
variable {v b : BitVec 1} {c k p o : BitVec 3}

/-- The codes that a PREFIX's attributes stand for. -/
theorem prefixAttrs_eq_some {a : Attrs} (h : prefixAttrs v b c k p o = some a) : Order.ofCode o = some a.order ∧
    Scope.ofCode p = some a.scope ∧ Space.ofCode k = some a.space ∧ CachePolicy.ofCode c = some a.cache ∧
      a.bundle = (b == 1) ∧ a.view = (v == 1) := by
  unfold prefixAttrs at h
  split at h
  next ho hp hk hc =>
    cases h
    exact ⟨ho, hp, hk, hc, rfl, rfl⟩
  · cases h

/-- A PREFIX has attributes exactly where its four codes are defined (R9). -/
theorem isSome_prefixAttrs : (prefixAttrs v b c k p o).isSome = true ↔ o.toNat ≤ 4 ∧ p.toNat ≤ 6 ∧ k.toNat ≤ 3 ∧ c.toNat ≤ 3 := by
  have hdef : (prefixAttrs v b c k p o).isSome =
      ((Order.ofCode o).isSome && (Scope.ofCode p).isSome && (Space.ofCode k).isSome && (CachePolicy.ofCode c).isSome) := by
    unfold prefixAttrs
    cases Order.ofCode o <;> cases Scope.ofCode p <;> cases Space.ofCode k <;> cases CachePolicy.ofCode c <;> rfl
  rw [hdef, isSome_orderOfCode, isSome_scopeOfCode, isSome_spaceOfCode, isSome_cachePolicyOfCode]
  simp only [Bool.and_eq_true, decide_eq_true_iff, and_assoc]
end

section
variable {s : State} {w : Weave} {x : InstrWord}

/-- A PREFIX that cannot fetch its successor faults as the fetch does. -/
theorem State.pairUp_of_error {e : Cause} (h : s.fetch w s.cur.strand (s.cur.pc.toNat + 4) = .error e) (a? : Option Attrs) :
    s.pairUp w a? = s.vectorMe (s.fetchInfo w e (s.cur.pc.toNat + 4)) := by
  simp only [State.pairUp, h]

theorem State.pairUp_none (h : s.fetch w s.cur.strand (s.cur.pc.toNat + 4) = .ok x) :
    s.pairUp w none = s.vectorMe (s.info w .illegal accOther) := by
  simp only [State.pairUp, h]

/-- A PREFIX before a word that takes one gives it attributes, before another faults. -/
theorem State.pairUp_some (h : s.fetch w s.cur.strand (s.cur.pc.toNat + 4) = .ok x) (a : Attrs) :
    s.pairUp w (some a) = if x.takesPrefix then { s with cur := { s.cur with bytes := 8, attrs := some a } }
      else s.vectorMe (s.info w .prefixMisuse accOther) := by
  simp only [State.pairUp, h]

theorem exec_prefixWord (hw : s.weave? s.cur.weave = some w) (v b : BitVec 1) (c k p o : BitVec 3) :
    exec (.prefixWord v b c k p o) s = .next (s.pairUp w (prefixAttrs v b c k p o)) := by
  change execPrefixWord v b c k p o s = _
  rw [execPrefixWord, hw]
end

theorem rules_prefixes : Rules.Prefixes := by
  intro v b c k p o s w hw i next defined faults
  have hrun : exec i s = .next (s.pairUp w (prefixAttrs v b c k p o)) := exec_prefixWord hw v b c k p o
  refine ⟨fun e he => hrun.trans (congrArg _ (State.pairUp_of_error he _)), fun x hx => ⟨fun hd => ?_, fun hd ht => ?_, fun hd ht => ?_⟩⟩
  · have ha : prefixAttrs v b c k p o = none := Option.not_isSome_iff_eq_none.1 fun h => hd (isSome_prefixAttrs.1 h)
    rw [ha, State.pairUp_none hx] at hrun
    exact hrun
  · obtain ⟨a, ha⟩ := Option.isSome_iff_exists.1 ((isSome_prefixAttrs (v := v) (b := b)).2 hd)
    rw [ha, State.pairUp_some hx, ht] at hrun
    exact hrun
  · obtain ⟨a, ha⟩ := Option.isSome_iff_exists.1 ((isSome_prefixAttrs (v := v) (b := b)).2 hd)
    obtain ⟨horder, hscope, hspace, hcache, hbundle, hview⟩ := prefixAttrs_eq_some ha
    rw [ha, State.pairUp_some hx, ht] at hrun
    exact ⟨a, horder, hscope, hspace, hcache, hbundle, hview, hrun⟩

end Sys2Proof.Machine
end

section
open Sys2Proof Sys2Proof.Machine

/-- Settles O55: the chain of checks that every member's run begins with, and what a PREFIX makes of the word after it. -/
theorem decodeChecks : Obligations.DecodeChecks := ⟨rules_checksInOrder, rules_prefixes⟩
end

section
/-! ## Bytes of a core's SRAM, written and read as numbers (R19, R240, R247)

A memory that reads a byte nothing has written as any value lists every byte written, so these hold in every state. -/

namespace Sys2Proof.Machine

/-! ### Cells -/

/-- A read after a write, where no unlisted byte has a value of its own. -/
theorem cellGet_cellSet_none (cells : List Host.Cell) (a k : Nat) (b : Byte) :
    cellGet (cellSet none cells a b) k = if k = a then some b else cellGet cells k := by
  induction cells with
  | nil => grind [cellSet, cellGet]
  | cons x r ih => grind [cellSet, cellGet]

/-! ### One byte, and a run of bytes -/

theorem sramByte_sramSet (s : State) {core a c k : Nat} (b : Byte) (ha : a < 0x82000) (hk : k < 0x82000) :
    (s.sramSet core a b).sramByte c k = if c = core ∧ k = a then b else s.sramByte c k := by
  unfold State.sramSet State.sramByte
  by_cases h1 : a < 0x80000 <;> by_cases h2 : k < 0x80000
  · simp only [h1, h2, if_true, cellGet_cellSet_none]
    have hkey : spadKey c k = spadKey core a ↔ c = core ∧ k = a := by unfold spadKey; omega
    by_cases hck : c = core ∧ k = a
    · rw [if_pos (hkey.2 hck), if_pos hck, Option.getD_some]
    · rw [if_neg fun h => hck (hkey.1 h), if_neg hck]
  · rw [if_neg (by omega : ¬(c = core ∧ k = a))]
    simp only [h1, h2, if_true, if_false]
  · rw [if_neg (by omega : ¬(c = core ∧ k = a))]
    simp only [h1, h2, ha, if_true, if_false]
  · simp only [h1, h2, ha, if_true, if_false, cellGet_cellSet_none]
    have hkey : c * 8192 + (k - 0x80000) = core * 8192 + (a - 0x80000) ↔ c = core ∧ k = a := by omega
    by_cases hck : c = core ∧ k = a
    · rw [if_pos (hkey.2 hck), if_pos hck, Option.getD_some]
    · rw [if_neg fun h => hck (hkey.1 h), if_neg hck]

/-- A byte after a run of bytes is written, in any core. -/
theorem sramByte_sramStore_any (s : State) {core a c k : Nat} (bs : List Byte) (ha : a + bs.length ≤ 0x82000) (hk : k < 0x82000) :
    (s.sramStore core a bs).sramByte c k =
      if c = core ∧ a ≤ k ∧ k < a + bs.length then bs[k - a]?.getD 0 else s.sramByte c k := by
  have run : ∀ (l : List Byte) (n : Nat) (u : State), a + n + l.length ≤ 0x82000 →
      ((l.zipIdx n).foldl (fun t x => t.sramSet core (a + x.2) x.1) u).sramByte c k =
        if c = core ∧ a + n ≤ k ∧ k < a + n + l.length then l[k - (a + n)]?.getD 0 else u.sramByte c k := by
    intro l
    induction l with
    | nil =>
      intro n u _
      rw [if_neg (by simp only [List.length_nil]; omega)]
      rfl
    | cons b r ih =>
      intro n u hn
      rw [List.length_cons] at hn ⊢
      rw [List.zipIdx_cons, List.foldl_cons, ih (n + 1) _ (by omega), sramByte_sramSet u b (by omega) hk]
      by_cases hc : c = core
      · by_cases h1 : k = a + n
        · subst h1
          simp [hc]
        · by_cases h2 : a + (n + 1) ≤ k ∧ k < a + (n + 1) + r.length
          · have e : k - (a + n) = k - (a + (n + 1)) + 1 := by omega
            rw [if_pos ⟨hc, h2⟩, if_pos ⟨hc, by omega, by omega⟩, e, List.getElem?_cons_succ]
          · rw [if_neg fun h => h2 h.2, if_neg fun h => h1 h.2, if_neg (by omega)]
      · simp only [hc, false_and, if_false]
  exact run bs 0 s ha

/-- A run of bytes changes nothing but the scratchpads and the supervisor stores. -/
theorem sramStore_frame (s : State) (core a : Nat) (bs : List Byte) :
    s.sramStore core a bs = { s with spad := (s.sramStore core a bs).spad, store := (s.sramStore core a bs).store } := by
  have one : ∀ (u : State) (k : Nat) (b : Byte),
      u.sramSet core k b = { u with spad := (u.sramSet core k b).spad, store := (u.sramSet core k b).store } := by
    intro u k b
    unfold State.sramSet
    split_ifs <;> rfl
  have run : ∀ (l : List (Byte × Nat)) (u : State), l.foldl (fun t x => t.sramSet core (a + x.2) x.1) u =
      { u with spad := (l.foldl (fun t x => t.sramSet core (a + x.2) x.1) u).spad
               store := (l.foldl (fun t x => t.sramSet core (a + x.2) x.1) u).store } := by
    intro l
    induction l with
    | nil => exact fun u => rfl
    | cons x r ih =>
      intro u
      rw [List.foldl_cons, ih, one u]
  exact run _ s

/-! ### Numbers -/

theorem leNat_eq_ofDigits (l : List Byte) : leNat l = Nat.ofDigits 256 (l.map BitVec.toNat) := by
  induction l with
  | nil => rfl
  | cons b r ih => rw [leNat, ih, List.map_cons, Nat.ofDigits_cons]

theorem toNat_lt_256 {l : List Byte} : ∀ x ∈ l.map BitVec.toNat, x < 256 := by
  intro x hx
  obtain ⟨b, -, rfl⟩ := List.mem_map.1 hx
  exact b.isLt

/-- A run of bytes within a run, as a field of its number. -/
theorem leNat_drop_take (l : List Byte) (k n : Nat) : leNat ((l.drop k).take n) = leNat l / 256 ^ k % 256 ^ n := by
  simp only [leNat_eq_ofDigits, List.map_take, List.map_drop]
  rw [Nat.ofDigits_div_pow_eq_ofDigits_drop k (by decide) _ toNat_lt_256]
  rw [← List.map_drop, Nat.ofDigits_mod_pow_eq_ofDigits_take n (by decide) _ toNat_lt_256, List.map_drop]

theorem length_natBytes (n x : Nat) : (natBytes n x).length = n := by
  induction n generalizing x with
  | zero => rfl
  | succ n ih => rw [natBytes, List.length_cons, ih]

theorem leNat_natBytes (n x : Nat) : leNat (natBytes n x) = x % 256 ^ n := by
  induction n generalizing x with
  | zero => simp [natBytes, leNat, Nat.mod_one]
  | succ n ih =>
    rw [natBytes, leNat, ih, BitVec.toNat_ofNat, pow_succ' 256 n]
    exact Nat.mod_mul.symm

/-- Part of a run of bytes, read as a field of the number that the whole run holds. -/
theorem sramRead_field (s : State) (core a : Nat) {k n size : Nat} (h : k + n ≤ size) :
    s.sramRead core (a + k) n = s.sramRead core a size / 256 ^ k % 256 ^ n := by
  simp only [State.sramRead]
  rw [← leNat_drop_take]
  congr 1
  refine List.ext_getElem (by simp; omega) fun i h1 h2 => ?_
  simp [add_assoc]

theorem length_leBytes (n x : Nat) : (leBytes n x).length = n := length_natBytes n x

theorem sramWrite_eq (s : State) (core a n x : Nat) : s.sramWrite core a n x = s.sramStore core a (leBytes n x) := rfl

/-- A number reads back as it was written. -/
theorem sramRead_sramWrite (s : State) {core a n : Nat} (x : Nat) (h : a + n ≤ 0x82000) :
    (s.sramWrite core a n x).sramRead core a n = x % 256 ^ n := by
  rw [← leNat_natBytes n x, State.sramRead]
  congr 1
  refine List.ext_getElem (by simp [length_natBytes]) fun i h1 h2 => ?_
  rw [length_natBytes] at h2
  rw [List.getElem_map, List.getElem_range, sramWrite_eq, sramByte_sramStore_any s _ (by rw [length_leBytes]; exact h) (by omega),
    if_pos (by rw [length_leBytes]; omega), Nat.add_sub_cancel_left]
  simp [leBytes, length_natBytes, h2]

theorem sramByte_sramWrite_off (s : State) {core a n c k : Nat} (x : Nat) (h : a + n ≤ 0x82000) (hk : k < 0x82000)
    (hoff : c ≠ core ∨ k < a ∨ a + n ≤ k) : (s.sramWrite core a n x).sramByte c k = s.sramByte c k := by
  rw [sramWrite_eq, sramByte_sramStore_any s _ (by rw [length_leBytes]; exact h) hk, if_neg (by rw [length_leBytes]; omega)]

end Sys2Proof.Machine
end

section
/-! ## Taking a fault (R102, R229, R246 to R251) -/

namespace Sys2Proof.Machine

/-! ### The record (R248) -/

/-- The fields of a record, each where R248 puts it. -/
theorem recordWord_fields {cause : Nat} {w : Weave} {st : Strand} {i : FaultInfo} (hc : cause < 2 ^ 8) (ha : i.access < 16)
    (he : i.engine < 16) (ht : st.inTable = true) :
    let r := recordWord cause w st i
    let field := fun (lo width : Nat) => r / 2 ^ lo % 2 ^ width
    field 0 8 = cause ∧ field 8 1 = Strand.number st ∧ field 12 4 = i.access ∧ field 16 4 = i.engine ∧ field 32 32 = i.pc.toNat ∧
      field 64 32 = i.object.toNat ∧ field 96 32 = i.generation.toNat ∧ field 128 128 = i.place.toNat ∧
      field 256 96 = i.faulters.toNat ∧ field 352 96 = (w.act st).toNat ∧ field 448 8 = st.entry ∧ field 456 8 = i.port.toNat ∧
      r < 2 ^ 512 := by
  have hn : Strand.number st < 2 := by cases st <;> simp [Strand.number]
  have hentry : (if Strand.number st = 1 then st.entry else 0) = st.entry := by cases st <;> rfl
  have hlt : st.entry < 256 := by
    cases st with
    | a => decide
    | c e => exact (of_decide_eq_true ht).trans (by decide)
  have h1 := i.pc.isLt
  have h2 := i.object.isLt
  have h3 := i.generation.isLt
  have h4 := i.place.isLt
  have h5 := i.faulters.isLt
  have h6 := (w.act st).isLt
  have h7 := i.port.isLt
  simp only [recordWord, hentry]
  norm_num only at *
  and_intros <;> omega

/-! ### The stream vectored (R250) -/

theorem Strand.lt_of_inTable {e : Nat} (h : (Strand.c e).inTable = true) : e < 128 := of_decide_eq_true h

section
variable {s : State} {id : WeaveId} {st : Strand} {w : Weave} {f : FaultInfo}

/-- A weave whose stream has entered the handler of a slot, under the faulters' mask of its fault: what changes in it. -/
def Weave.vectored (w : Weave) (st : Strand) (slot time : Nat) (m : LaneMask) : Weave :=
  match st with
  | .a => { w with aMode := .supervisor, aPc := w.handlerPc 0 slot, aWait := none }
  | .c e => { w with
      cMode := .supervisor, cHand := e, fltm := m, cWaited := w.cWaited + (w.entry e).waited time
      split := ((w.setEntry e { w.entry e with kind := .ready, wait := none }).setPc (.c e) (w.handlerPc 1 slot)).split }

theorem Weave.vectored_id (w : Weave) (st : Strand) (slot time : Nat) (m : LaneMask) : (w.vectored st slot time m).id = w.id := by
  cases st <;> rfl

theorem Weave.entry_of_split {u v : Weave} (h : u.split = v.split) (e : Nat) : u.entry e = v.entry e := by
  rw [Weave.entry, Weave.entry, h]

theorem Weave.entry_vectored_same (w : Weave) {e : Nat} (he : e < 128) (slot time : Nat) (m : LaneMask) :
    (w.vectored (.c e) slot time m).entry e = { w.entry e with addr := w.handlerPc 1 slot, kind := .ready, wait := none } := by
  refine (Weave.entry_of_split (v := (w.setEntry e { w.entry e with kind := .ready, wait := none }).setPc (.c e) (w.handlerPc 1 slot)) rfl
    e).trans ?_
  rw [Weave.setPc, entry_setEntry_same _ he, entry_setEntry_same _ he]

theorem Weave.entry_vectored_ne (w : Weave) {e k : Nat} (hk : k ≠ e) (slot time : Nat) (m : LaneMask) :
    (w.vectored (.c e) slot time m).entry k = w.entry k := by
  refine (Weave.entry_of_split (v := (w.setEntry e { w.entry e with kind := .ready, wait := none }).setPc (.c e) (w.handlerPc 1 slot)) rfl
    k).trans ?_
  rw [Weave.setPc, entry_setEntry_ne _ hk, entry_setEntry_ne _ hk]

/-- A mask of every bit but bit 0 rounds down to an even number. -/
theorem toNat_clearBit0 (x : BitVec 32) : (x &&& 0xFFFFFFFE#32).toNat = x.toNat / 2 * 2 := by
  have bits : ∀ i : Fin 32, (0xFFFFFFFE#32).getLsbD i = !decide (i.val < 1) := by decide
  have h : x &&& 0xFFFFFFFE#32 = (x >>> 1) <<< 1 := by
    refine BitVec.eq_of_getLsbD_eq fun i hi => ?_
    rw [BitVec.getLsbD_and, bits ⟨i, hi⟩, BitVec.getLsbD_shiftLeft, BitVec.getLsbD_ushiftRight]
    by_cases h1 : i < 1
    · simp [h1]
    · simp [h1, hi, show 1 + (i - 1) = i by omega]
  have hx := x.isLt
  rw [h, BitVec.toNat_shiftLeft, BitVec.toNat_ushiftRight, Nat.shiftRight_eq_div_pow, Nat.shiftLeft_eq]
  omega

theorem handlerPc_toNat (w : Weave) (n slot : Nat) :
    (w.handlerPc n slot).toNat = (w.hndlr.toNat % 2 ^ 32 / 2 * 2 + 2048 * n + 64 * slot) % 2 ^ 32 := by
  rw [Weave.handlerPc, BitVec.toNat_add, toNat_clearBit0, BitVec.toNat_setWidth, BitVec.toNat_ofNat]
  omega

theorem Weave.vectored_a (w : Weave) (slot time : Nat) (m : LaneMask) :
    (((w.endWait .a time).setMode .a .supervisor).setPc .a (w.handlerPc 0 slot)).setFltm .a m = w.vectored .a slot time m := rfl

theorem Weave.vectored_c (w : Weave) (e slot time : Nat) (m : LaneMask) :
    ({ ((w.endWait (.c e) time).setMode (.c e) .supervisor).setPc (.c e) (w.handlerPc 1 slot) with cHand := e } : Weave).setFltm (.c e) m =
      w.vectored (.c e) slot time m := by
  simp only [Weave.endWait, Weave.setMode, Weave.setPc, Weave.setFltm, Weave.setEntry, Weave.entry, Weave.vectored]

/-- A fault in user mode: the record, the latch, and the stream vectored. -/
theorem State.vector_user (hw : s.weave? id = some w) (hm : w.mode st = .user) : s.vector id st f =
    ((s.sramWrite id.core (w.fltrec.toNat + 64 * Strand.number st) 64 (recordWord f.cause.code w st f)).leaveLatch id st).onWeave id
      fun v => v.vectored st f.cause.code s.time f.faulters := by
  simp only [State.vector, hw, hm, State.enter]
  cases st with
  | a => 
    refine (State.onWeave_onWeave fun v => by simp [Weave.endWait_id]).trans ?_
    simp only [← Weave.vectored_a]
    rfl
  | c e =>
    refine (State.onWeave_onWeave fun v => by simp [Weave.endWait_id]).trans ?_
    simp only [← Weave.vectored_c]
    rfl

/-! ### What a fault in user mode leaves -/

theorem sramWrite_frame (s : State) (core a n x : Nat) :
    s.sramWrite core a n x = { s with spad := (s.sramWrite core a n x).spad, store := (s.sramWrite core a n x).store } :=
  sramStore_frame s core a _

theorem State.leaveLatch_eq (s : State) (id : WeaveId) (st : Strand) : s.leaveLatch id st =
    { s with crews := s.crews.map fun c => { c with latch := c.latch.filter fun a => !(a.weave = id && st = .c a.entry) } } := by
  rw [State.leaveLatch]
  congr 1
  refine List.map_congr_left fun c _ => ?_
  split
  next h =>
    have hl : c.latch = [] := List.isEmpty_iff.1 h
    simp only [hl, List.filter_nil]
    rw [← hl]
  next => rfl

theorem sramByte_onWeave (s : State) (id : WeaveId) (g : Weave → Weave) (core y : Nat) :
    (s.onWeave id g).sramByte core y = s.sramByte core y := rfl

theorem sramByte_leaveLatch (s : State) (id : WeaveId) (st : Strand) (core y : Nat) :
    (s.leaveLatch id st).sramByte core y = s.sramByte core y := rfl

theorem Cause.code_lt (c : Cause) : c.code < 2 ^ 8 := by cases c <;> decide

/-- A fault in user mode changes the weaves, the crews' latches and the SRAM alone. -/
theorem vector_user_frame (hw : s.weave? id = some w) (hm : w.mode st = .user) : s.vector id st f =
    { s with
      weaves := (s.vector id st f).weaves
      crews := s.crews.map fun c => { c with latch := c.latch.filter fun a => !(a.weave = id && st = .c a.entry) }
      spad := (s.vector id st f).spad
      store := (s.vector id st f).store } := by
  rw [State.vector_user hw hm, State.leaveLatch_eq, sramWrite_frame]
  rfl

theorem weave?_vector_user_same (hw : s.weave? id = some w) (hm : w.mode st = .user) :
    (s.vector id st f).weave? id = some (w.vectored st f.cause.code s.time f.faulters) := by
  rw [State.vector_user hw hm, State.leaveLatch_eq, sramWrite_frame]
  exact weave?_onWeave_same (fun v => v.vectored_id ..) hw

theorem weave?_vector_user_ne (hw : s.weave? id = some w) (hm : w.mode st = .user) {x : WeaveId} (hx : x ≠ id) :
    (s.vector id st f).weave? x = s.weave? x := by
  rw [State.vector_user hw hm, State.leaveLatch_eq, sramWrite_frame]
  exact weave?_onWeave_ne (fun v => v.vectored_id ..) hx

theorem sramByte_vector_user (hw : s.weave? id = some w) (hm : w.mode st = .user) (core y : Nat) :
    (s.vector id st f).sramByte core y =
      (s.sramWrite id.core (w.fltrec.toNat + 64 * Strand.number st) 64 (recordWord f.cause.code w st f)).sramByte core y := by
  rw [State.vector_user hw hm, sramByte_onWeave, sramByte_leaveLatch]

theorem sramRead_vector_user (hw : s.weave? id = some w) (hm : w.mode st = .user) (core a n : Nat) :
    (s.vector id st f).sramRead core a n =
      (s.sramWrite id.core (w.fltrec.toNat + 64 * Strand.number st) 64 (recordWord f.cause.code w st f)).sramRead core a n := by
  simp only [State.sramRead, sramByte_vector_user hw hm]

theorem Weave.mode_vectored (w : Weave) (st : Strand) (slot time : Nat) (m : LaneMask) :
    (w.vectored st slot time m).mode st = .supervisor := by
  cases st <;> rfl

theorem Weave.pc_vectored (w : Weave) {st : Strand} (h : st.inTable = true) (slot time : Nat) (m : LaneMask) :
    (w.vectored st slot time m).pc st = w.handlerPc (Strand.number st) slot := by
  cases st with
  | a => rfl
  | c e => rw [Weave.pc, Weave.entry_vectored_same w (Strand.lt_of_inTable h)]; rfl

end

theorem rules_faultEntry : Rules.FaultEntry := by
  intro s id st w f hw hm hst hrec ha he n t at' field
  have hn : n < 2 := by cases st <;> simp [n, Strand.number]
  obtain ⟨hcause, hstream, haccess, hengine, hpc, hobject, hgeneration, hplace, hfaulters, hact, hentry, hport, hsize⟩ :=
    recordWord_fields (w := w) (i := f) f.cause.code_lt ha he hst
  have hread : t.sramRead id.core at' 64 = recordWord f.cause.code w st f := by
    refine (sramRead_vector_user hw hm ..).trans ((sramRead_sramWrite s _ (by omega)).trans (Nat.mod_eq_of_lt ?_))
    exact hsize.trans_eq (by rw [show 256 = 2 ^ 8 from rfl, ← pow_mul])
  have hfield : ∀ lo width, field lo width = recordWord f.cause.code w st f / 2 ^ lo % 2 ^ width := fun lo width => by
    simp only [field, hread]
  have hpcs := w.pc_vectored hst f.cause.code s.time f.faulters
  refine ⟨w.vectored st f.cause.code s.time f.faulters, weave?_vector_user_same hw hm, w.mode_vectored .., ?pc,
    (hfield _ _).trans hcause, (hfield _ _).trans hstream, (hfield _ _).trans haccess, (hfield _ _).trans hengine,
    (hfield _ _).trans hpc, (hfield _ _).trans hobject, (hfield _ _).trans hgeneration, (hfield _ _).trans hplace,
    (hfield _ _).trans hfaulters, (hfield _ _).trans hact, ?entry, (hfield _ _).trans hport, ?bytes, ?frame, ?latches,
    fun x hx => weave?_vector_user_ne hw hm hx, ?_⟩
  case pc => rw [hpcs, handlerPc_toNat]
  case entry =>
    rintro e rfl
    exact (hfield _ _).trans hentry
  case bytes =>
    intro core y hy hoff
    exact (sramByte_vector_user hw hm core y).trans (sramByte_sramWrite_off s _ (by omega) hy hoff)
  case frame =>
    have h := vector_user_frame (f := f) hw hm
    rw [show t = s.vector id st f from rfl, h]
  case latches => exact congrArg State.crews (vector_user_frame hw hm)
  cases st with
  | a => exact ⟨rfl, rfl, rfl, rfl, rfl, rfl, rfl, rfl, fun _ => ⟨rfl, rfl, rfl, rfl⟩, fun e h => nomatch h⟩
  | c k =>
    refine ⟨rfl, rfl, rfl, rfl, rfl, rfl, rfl, rfl, (nomatch ·), ?_⟩
    rintro e ⟨⟩
    refine ⟨rfl, rfl, rfl, rfl, rfl, ?_, fun k hk => w.entry_vectored_ne hk ..⟩
    rw [hpcs]
    exact w.entry_vectored_same (Strand.lt_of_inTable hst) ..

end Sys2Proof.Machine
end

section
/-! ## The double fault (R253), TRAP, BRK and RTE (R252, R304, R356, R367) -/

namespace Sys2Proof.Machine

/-! ### A weave that ends (R253, R31) -/

section
variable {s : State} {id : WeaveId} {w : Weave}

/-- A weave, every fragment of both of its streams stopped. -/
def Weave.ended (w : Weave) : Weave :=
  { w with aEnded := true, aWait := none, aPend := none, cPend := none, split := .replicate 128 SplitEntry.empty, stopped := true }

theorem Weave.entry_ended (w : Weave) (e : Nat) : w.ended.entry e = SplitEntry.empty := by
  rw [Weave.entry, Weave.ended]
  by_cases he : e < 128 <;> simp [he]

/-- A crew, the arrivals of one weave at its latch withdrawn where it is the crew of a number. -/
def Crew.without (crew : Nat) (id : WeaveId) (c : Crew) : Crew :=
  if c.id = crew then { c with latch := c.latch.filter fun a => a.weave ≠ id } else c

theorem Crew.without_id (crew : Nat) (id : WeaveId) (c : Crew) : (c.without crew id).id = c.id := by
  rw [Crew.without]; split <;> rfl

theorem Crew.without_launch (crew : Nat) (id : WeaveId) (c : Crew) : (c.without crew id).launch = c.launch := by
  rw [Crew.without]; split <;> rfl

theorem State.endStreams_eq (hw : s.weave? id = some w) :
    s.endStreams id = { s.onWeave id Weave.ended with crews := s.crews.map (Crew.without w.crew id) } := by
  simp only [State.endStreams, hw]
  rfl

theorem crew?_endStreams (hw : s.weave? id = some w) {k : Nat} {c : Crew} (hc : s.crew? k = some c) :
    (s.endStreams id).crew? k = some (c.without w.crew id) := by
  have hp : ((fun c : Crew => decide (c.id = k)) ∘ Crew.without w.crew id) = fun c => decide (c.id = k) :=
    funext fun c => by simp only [Function.comp_apply, Crew.without_id]
  rw [State.endStreams_eq hw]
  simp only [State.crew?] at hc ⊢
  rw [List.find?_map, hp, hc, Option.map_some]

theorem markFaulted_frame (s : State) (crew : Nat) :
    s.markFaulted crew = { s with crews := (s.markFaulted crew).crews, launches := (s.markFaulted crew).launches } := by
  rw [State.markFaulted]
  split <;> rfl

/-- The launch of a crew carries status bit 27 once the crew is marked. -/
theorem faulted_markFaulted {crew : Nat} {c : Crew} (hc : s.crew? crew = some c) :
    ∀ l ∈ (s.markFaulted crew).launches, l.id = c.launch → l.faulted = true := by
  simp only [State.markFaulted, hc, List.mem_map]
  rintro l ⟨l', -, rfl⟩ hl
  by_cases h : l'.id = c.launch
  · rw [if_pos h]
  · rw [if_neg h] at hl
    exact absurd hl h

theorem State.stopWeave_eq (hw : s.weave? id = some w) (hs : w.saved = false) :
    s.stopWeave id = (s.endStreams id).markFaulted w.crew := by
  simp only [State.stopWeave, hw, hs, Bool.false_eq_true, if_false]

/-- A weave that a fault ends: it alone changes, with its crew and its launch. -/
theorem stopWeave_frame (hw : s.weave? id = some w) (hs : w.saved = false) : s.stopWeave id =
    { s.onWeave id Weave.ended with crews := (s.stopWeave id).crews, launches := (s.stopWeave id).launches } := by
  rw [State.stopWeave_eq hw hs, markFaulted_frame, State.endStreams_eq hw]

theorem State.vector_supervisor {st : Strand} (f : FaultInfo) (hw : s.weave? id = some w) (hm : w.mode st = .supervisor) :
    s.vector id st f = (s.stopWeave id).sendError w.partition (doubleFault w f) := by
  simp only [State.vector, hw, hm]

end

theorem rules_doubleFaults : Rules.DoubleFaults := by
  intro s id st w f hw hm hs object generation offset
  have frame := stopWeave_frame hw hs
  refine ⟨s.stopWeave id, w.ended, ?sends, ?weave, rfl, rfl, rfl, w.entry_ended, ?others, rfl, rfl, ?launch, ?memory, ?threads,
    ?flights⟩
  case sends => rw [State.vector_supervisor f hw hm, doubleFault, dieOf, weave?_name hw]
  case weave =>
    rw [frame]
    exact weave?_onWeave_same (fun _ => rfl) hw
  case others =>
    intro x hx
    rw [frame]
    exact weave?_onWeave_ne (fun _ => rfl) hx
  case launch =>
    intro c hc l hl hlc
    rw [State.stopWeave_eq hw hs] at hl
    exact faulted_markFaulted (crew?_endStreams hw hc) l hl (hlc.trans (Crew.without_launch ..).symm)
  case memory =>
    rw [frame]
    exact ⟨fun _ => rfl, fun _ _ => rfl, fun _ _ => rfl⟩
  case threads => rw [frame]; rfl
  case flights => rw [frame]; rfl

/-! ### TRAP and BRK (R367, R304) -/

/-- An instruction whose body faults vectors its stream, with no other effect. -/
theorem run_fault {i : Instr} {s : State} {w : Weave} {body : Body} {f : FaultInfo} (h : s.Ready i w)
    (hb : body w s.issued = .error (.fault f)) : run i s body = .next (s.vector s.cur.weave s.cur.strand f) :=
  run_stop h hb fun _ hq => Stop.noConfusion hq

theorem rules_traps : Rules.Traps := by
  intro c s w takes
  constructor
  · intro h
    change execTrap c s = _
    exact run_fault h rfl
  · intro h
    change execBrk s = _
    exact run_fault h rfl

/-! ### RTE (R252, R356) -/

section
variable {s : State} {w : Weave} {st : Strand}

/-- A weave whose stream has returned to user mode at a PC, with an entry mask. -/
def Weave.returned (w : Weave) (st : Strand) (pc : BitVec 32) (mask : LaneMask) : Weave :=
  let u := (w.setMode st .user).setPc st pc
  match st with
  | .a => u
  | .c e => u.setEntry e { u.entry e with mask := mask &&& (u.entry e).owned }

theorem Weave.returned_id (w : Weave) (st : Strand) (pc : BitVec 32) (mask : LaneMask) : (w.returned st pc mask).id = w.id := by
  cases st <;> rfl

theorem Weave.mode_returned (w : Weave) (st : Strand) (pc : BitVec 32) (mask : LaneMask) : (w.returned st pc mask).mode st = .user := by
  cases st <;> rfl

@[simp] theorem Weave.returned_fltm (w : Weave) (st : Strand) (pc : BitVec 32) (mask : LaneMask) :
    (w.returned st pc mask).fltm = w.fltm := by
  cases st <;> rfl

@[simp] theorem Weave.returned_aRegs (w : Weave) (st : Strand) (pc : BitVec 32) (mask : LaneMask) :
    (w.returned st pc mask).aRegs = w.aRegs := by
  cases st <;> rfl

@[simp] theorem Weave.returned_sRegs (w : Weave) (st : Strand) (pc : BitVec 32) (mask : LaneMask) :
    (w.returned st pc mask).sRegs = w.sRegs := by
  cases st <;> rfl

@[simp] theorem Weave.returned_vRegs (w : Weave) (st : Strand) (pc : BitVec 32) (mask : LaneMask) :
    (w.returned st pc mask).vRegs = w.vRegs := by
  cases st <;> rfl

@[simp] theorem Weave.returned_pRegs (w : Weave) (st : Strand) (pc : BitVec 32) (mask : LaneMask) :
    (w.returned st pc mask).pRegs = w.pRegs := by
  cases st <;> rfl

/-- A fragment that returns leaves the A-stream's mode. -/
@[simp] theorem Weave.returned_c_aMode (w : Weave) (e : Nat) (pc : BitVec 32) (mask : LaneMask) :
    (w.returned (.c e) pc mask).aMode = w.aMode := rfl

/-- A fragment that returns leaves the A-stream's PC. -/
@[simp] theorem Weave.returned_c_aPc (w : Weave) (e : Nat) (pc : BitVec 32) (mask : LaneMask) :
    (w.returned (.c e) pc mask).aPc = w.aPc := rfl

/-- The entry of a stream that has returned. -/
theorem Weave.entry_returned_same (w : Weave) {e : Nat} (he : e < 128) (pc : BitVec 32) (mask : LaneMask) :
    (w.returned (.c e) pc mask).entry e = { w.entry e with addr := pc, mask := mask &&& (w.entry e).owned } := by
  have hu : ((w.setMode (.c e) .user).setPc (.c e) pc).entry e = { w.entry e with addr := pc } := entry_setEntry_same _ he
  rw [Weave.returned, entry_setEntry_same _ he, hu]

theorem Weave.entry_returned_ne (w : Weave) {e k : Nat} (hk : k ≠ e) (pc : BitVec 32) (mask : LaneMask) :
    (w.returned (.c e) pc mask).entry k = w.entry k :=
  (entry_setEntry_ne _ hk).trans (entry_setEntry_ne _ hk)

theorem Weave.pc_returned (w : Weave) (h : st.inTable = true) (pc : BitVec 32) (mask : LaneMask) :
    (w.returned st pc mask).pc st = pc := by
  cases st with
  | a => rfl
  | c e => rw [Weave.pc, Weave.entry_returned_same w (Strand.lt_of_inTable h)]

/-- A field of a stream's fault record (R247, R248). -/
def State.recordField (s : State) (w : Weave) (st : Strand) (lo width : Nat) : Nat :=
  s.sramRead w.id.core (w.fltrec.toNat + 64 * Strand.number st) 64 / 2 ^ lo % 2 ^ width

/-- Bytes of a stream's fault record are a field of it. -/
theorem sramRead_record (s : State) (w : Weave) (st : Strand) {k n : Nat} (h : k + n ≤ 64) :
    s.sramRead w.id.core (w.recordAt (Strand.number st) + k) n = s.recordField w st (8 * k) (8 * n) := by
  rw [State.recordField, pow_mul, pow_mul]
  exact sramRead_field s _ _ h

/-- RTE by the record's fields: its cause, the PC's bit 0, the PC and the mask. -/
theorem returnFrom_eq (s : State) (w : Weave) (st : Strand) : s.returnFrom w st =
    if s.recordField w st 0 8 = 0x00 ∨ s.recordField w st 0 8 = 0xFF then .error .illegal
    else if s.recordField w st 32 1 = 1 then .error .align
    else .ok (s.onWeave w.id fun v =>
      v.returned st (BitVec.ofNat 32 (s.recordField w st 32 32)) (BitVec.ofNat 96 (s.recordField w st 352 96))) := by
  have hcause : s.sramRead w.id.core (w.recordAt (Strand.number st)) 1 = s.recordField w st 0 8 :=
    sramRead_record s w st (k := 0) (by decide)
  have hpc : s.sramRead w.id.core (w.recordAt (Strand.number st) + 4) 4 = s.recordField w st 32 32 := sramRead_record s w st (by decide)
  have hmask : s.sramRead w.id.core (w.recordAt (Strand.number st) + 0x2C) 12 = s.recordField w st 352 96 :=
    sramRead_record s w st (by decide)
  have hbit : (BitVec.ofNat 32 (s.recordField w st 32 32)).getLsbD 0 = decide (s.recordField w st 32 1 = 1) := by
    rw [BitVec.getLsbD_ofNat, Nat.testBit_zero, State.recordField, State.recordField, Nat.mod_mod_of_dvd _ (by decide)]
    rfl
  simp only [State.returnFrom, hcause, hpc, hmask, hbit, Bool.or_eq_true, decide_eq_true_eq]
  cases st <;> rfl

variable (h : s.Ready .rte w)
include h

/-- RTE runs in supervisor mode alone. -/
theorem mode_of_ready_rte : w.mode s.cur.strand = .supervisor := by
  obtain ⟨-, hp, -⟩ := decodeFault_eq_none_iff.1 h.2.1
  exact Weave.mode_eq_supervisor_iff.2 fun hu => hp ⟨rfl, hu⟩

theorem exec_rte_error {c : Cause} (hr : s.issued.returnFrom w s.cur.strand = .error c) :
    exec .rte s = .next (s.vector s.cur.weave s.cur.strand (s.info w c accOther)) := by
  change execRte s = _
  refine run_fault h ?_
  simp only [show s.issued.cur = s.cur from rfl, hr]
  rfl

theorem exec_rte_ok {u : State} (hr : s.issued.returnFrom w s.cur.strand = .ok u) : exec .rte s = .next u := by
  change execRte s = _
  refine run_ok h ?_
  simp only [show s.issued.cur = s.cur from rfl, hr]

end

section
variable (w : Weave) (st : Strand) (next pc : BitVec 32) (mask : LaneMask)

/-- A weave whose stream has issued RTE and returned. -/
def Weave.afterRte : Weave := ((w.setPc st next).countIssue st).returned st pc mask

theorem Weave.afterRte_fltm : (w.afterRte st next pc mask).fltm = w.fltm := by simp [Weave.afterRte]

theorem Weave.afterRte_regs : (w.afterRte st next pc mask).aRegs = w.aRegs ∧ (w.afterRte st next pc mask).sRegs = w.sRegs ∧
    (w.afterRte st next pc mask).vRegs = w.vRegs ∧ (w.afterRte st next pc mask).pRegs = w.pRegs := by
  simp [Weave.afterRte]

theorem Weave.afterRte_entry_same {e : Nat} (he : e < 128) : (w.afterRte (.c e) next pc mask).entry e =
    { w.entry e with addr := pc, mask := mask &&& (w.entry e).owned } := by
  have issue : ((w.setPc (.c e) next).countIssue (.c e)).entry e = { w.entry e with addr := next } := entry_setEntry_same _ he
  rw [Weave.afterRte, Weave.entry_returned_same _ he, issue]

theorem Weave.afterRte_entry_ne {e k : Nat} (hk : k ≠ e) : (w.afterRte (.c e) next pc mask).entry k = w.entry k :=
  (Weave.entry_returned_ne _ hk pc mask).trans (entry_setEntry_ne _ hk)

/-- RTE of the A-stream leaves the C-stream. -/
theorem Weave.afterRte_a (h : st = .a) :
    (w.afterRte st next pc mask).split = w.split ∧ (w.afterRte st next pc mask).cMode = w.cMode := by
  subst h
  exact ⟨rfl, rfl⟩

/-- RTE of a fragment leaves the A-stream and the other fragments. -/
theorem Weave.afterRte_c {e : Nat} (h : st = .c e) (ht : st.inTable = true) :
    (w.afterRte st next pc mask).aMode = w.aMode ∧ (w.afterRte st next pc mask).aPc = w.aPc ∧
      (w.afterRte st next pc mask).entry e = { w.entry e with addr := pc, mask := mask &&& (w.entry e).owned } ∧
      ∀ k, k ≠ e → (w.afterRte st next pc mask).entry k = w.entry k := by
  subst h
  exact ⟨by simp [Weave.afterRte], by simp [Weave.afterRte, Weave.setPc, Weave.setEntry],
    w.afterRte_entry_same next pc mask (Strand.lt_of_inTable ht), fun k hk => w.afterRte_entry_ne next pc mask hk⟩

end

theorem rules_returns : Rules.Returns := by
  intro s w st record field cause faults
  refine ⟨fun hw hm hn => ?priv, fun h hst => ?ready⟩
  case priv =>
    have allowed : Instr.rte.streams.allows st.stream = true := by cases st <;> rfl
    change execRte s = _
    exact run_check hw hn (decodeFault_priv allowed fun hp => hp.elim Bool.noConfusion fun hp => Mode.noConfusion (hp.symm.trans hm))
  let pc : BitVec 32 := BitVec.ofNat 32 (field 32 32)
  let mask : LaneMask := BitVec.ofNat 96 (field 352 96)
  have ret : s.issued.returnFrom w st = if cause = 0x00 ∨ cause = 0xFF then .error .illegal
      else if field 32 1 = 1 then .error .align else .ok (s.issued.onWeave w.id fun v => v.returned st pc mask) :=
    returnFrom_eq s.issued w st
  refine ⟨mode_of_ready_rte h, fun hc => ?illegal, fun h0 hff hb => ?align, fun h0 hff hb => ?returns⟩
  case illegal => exact exec_rte_error h (ret.trans (if_pos hc))
  case align => exact exec_rte_error h ((ret.trans (if_neg (not_or.2 ⟨h0, hff⟩))).trans (if_pos hb))
  case returns =>
    rw [if_neg (not_or.2 ⟨h0, hff⟩), if_neg (hb ▸ Nat.zero_ne_one), weave?_name h.1] at ret
    let next := s.cur.pc + BitVec.ofNat 32 s.cur.bytes
    let v := w.afterRte st next pc mask
    have acting : (s.issued.onWeave s.cur.weave fun v => v.returned st pc mask).weave? s.cur.weave = some v :=
      weave?_onWeave_same (fun v => v.returned_id ..) (issued_weave? h.1)
    have pcs : v.pc st = pc := Weave.pc_returned _ hst pc mask
    obtain ⟨aRegs, sRegs, vRegs, pRegs⟩ := w.afterRte_regs st next pc mask
    refine ⟨_, v, exec_rte_ok h ret, acting, Weave.mode_returned .., pcs, w.afterRte_fltm .., aRegs, sRegs, vRegs, pRegs, ?others,
      sameElse_onMe s _, ⟨fun _ => rfl, fun _ _ => rfl, fun _ _ => rfl⟩, w.afterRte_a st next pc mask, fun e he => ?fragment⟩
    case others => exact fun x hx => (weave?_onWeave_ne (fun v => v.returned_id ..) hx).trans (issued_others s x hx)
    case fragment =>
      rw [pcs]
      exact w.afterRte_c st next pc mask he hst

end Sys2Proof.Machine
end

section
open Sys2Proof Sys2Proof.Machine

/-- Settles O56: the record of a fault is read back field by field from the bytes written; a weave that a double fault ends, a trap, and
a return each change what one equation of the model says. -/
theorem faultsAndReturns : Obligations.FaultsAndReturns := ⟨rules_faultEntry, rules_doubleFaults, rules_traps, rules_returns⟩

end

section
/-! ## The checks of an access (R110, R111, R112, R239, R337) -/

namespace Sys2Proof.Machine

/-! ### The deciding step of several lanes -/

/-- The lanes of a list that fail, each with its step and its cause. -/
def failingLanes (fails : List (Nat × Option (Nat × Cause))) : List (Nat × Nat × Cause) :=
  fails.filterMap fun x => x.2.map fun y => (x.1, y)

/-- The failure of the lower step, the earlier one where both are of one step. -/
def lowerStep (m : Option (Nat × Cause)) (x : Nat × Nat × Cause) : Option (Nat × Cause) :=
  match m with
  | none => some x.2
  | some y => if x.2.1 < y.1 then some x.2 else m

/-- The lanes that fail a step. -/
def lanesAtStep (hits : List (Nat × Nat × Cause)) (n : Nat) : LaneMask :=
  hits.foldl (fun m x => if x.2.1 = n then m ||| ((1 : LaneMask) <<< x.1) else m) 0

theorem decideLanes_eq (fails : List (Nat × Option (Nat × Cause))) : decideLanes fails =
    ((failingLanes fails).foldl lowerStep none).map fun y => (y.2, lanesAtStep (failingLanes fails) y.1) := by
  unfold decideLanes
  change (match (failingLanes fails).foldl lowerStep none with
    | none => none
    | some (step, cause) => some (cause, lanesAtStep (failingLanes fails) step)) = _
  cases (failingLanes fails).foldl lowerStep none <;> rfl

theorem mem_failingLanes {fails : List (Nat × Option (Nat × Cause))} {x : Nat × Nat × Cause} :
    x ∈ failingLanes fails ↔ (x.1, some x.2) ∈ fails := by
  obtain ⟨l, n, c⟩ := x
  simp only [failingLanes, List.mem_filterMap, Option.map_eq_some_iff, Prod.mk.injEq, Prod.exists]
  constructor
  · rintro ⟨_, _, hx, _, _, rfl, rfl, rfl, rfl⟩
    exact hx
  · exact fun h => ⟨l, some (n, c), h, n, c, rfl, rfl, rfl, rfl⟩

/-- The failure that every other one gives way to decides, once it is met. -/
theorem foldl_lowerStep {n : Nat} {c : Cause} {hits : List (Nat × Nat × Cause)} {m : Option (Nat × Cause)}
    (hm : ∀ y, m = some y → n < y.1 ∨ y = (n, c)) (hle : ∀ x ∈ hits, n < x.2.1 ∨ x.2 = (n, c))
    (hmet : m = some (n, c) ∨ ∃ x ∈ hits, x.2 = (n, c)) : hits.foldl lowerStep m = some (n, c) := by
  induction hits generalizing m with
  | nil => simpa using hmet
  | cons x r ih =>
    obtain ⟨hx, hr⟩ := List.forall_mem_cons.1 hle
    have hkept : m = some (n, c) → lowerStep m x = some (n, c) := by
      rintro rfl
      exact if_neg (hx.elim (fun h => by omega) fun h => by simp [h])
    have htaken : x.2 = (n, c) → lowerStep m x = some (n, c) := by
      intro h
      match m with
      | none => exact congrArg some h
      | some y =>
        obtain hlt | rfl := hm y rfl
        · exact (if_pos (by simpa [h] using hlt)).trans (congrArg some h)
        · exact hkept rfl
    refine ih (fun y hy => ?_) hr ?_
    · match m with
      | none => exact Option.some.inj hy ▸ hx
      | some z =>
        by_cases hz : x.2.1 < z.1
        · exact Option.some.inj ((if_pos hz).symm.trans hy) ▸ hx
        · exact hm y ((if_neg hz).symm.trans hy)
    · obtain rfl | ⟨y, hy, hyn⟩ := hmet
      · exact .inl (hkept rfl)
      · obtain rfl | hy := List.mem_cons.1 hy
        · exact .inl (htaken hyn)
        · exact .inr ⟨y, hy, hyn⟩

theorem getLsbD_lanesAtStep (hits : List (Nat × Nat × Cause)) (n : Nat) {j : Nat} (hj : j < 96) :
    (lanesAtStep hits n).getLsbD j = true ↔ ∃ x ∈ hits, x.2.1 = n ∧ x.1 = j := by
  have hmap : lanesAtStep hits n = ((hits.filter fun x => x.2.1 = n).map (·.1)).foldl
      (fun (m : LaneMask) l => if (fun _ => true) l = true then m ||| ((1 : LaneMask) <<< l) else m) 0 := by
    simp [lanesAtStep, List.foldl_map, List.foldl_filter]
  rw [hmap, getLsbD_foldl_lanes]
  simp [hj, and_assoc]

/-! ### The fault of an access -/

section
variable {s : State} {g : Agent} {q : Req} {n : Nat} {c : Cause}

/-- The step that a lane of an access fails, with its cause (R110). -/
def State.laneFailure (s : State) (g : Agent) (q : Req) (l : Nat × Bool × Int) : Option (Nat × Cause) :=
  s.checkLane g q (s.seeDesc g.core g.part q.object) l.2.1 l.2.2

def State.laneFailures (s : State) (g : Agent) (q : Req) : List (Nat × Option (Nat × Cause)) :=
  q.lanes.map fun l => (l.1, s.laneFailure g q l)

/-- The lanes of an access that fail a step. -/
def State.failersAt (s : State) (g : Agent) (q : Req) (n : Nat) : LaneMask := lanesAtStep (failingLanes (s.laneFailures g q)) n

theorem mem_laneFailures {x : Nat × Nat × Cause} : x ∈ failingLanes (s.laneFailures g q) ↔
    ∃ k ∈ q.lanes, k.1 = x.1 ∧ s.laneFailure g q k = some x.2 := by
  simp only [mem_failingLanes, State.laneFailures, List.mem_map, Prod.mk.injEq]

theorem State.checkReq_of_pass (h : ∀ l ∈ q.lanes, s.laneFailure g q l = none) : s.checkReq g q = .ok () := by
  have hnone : failingLanes (s.laneFailures g q) = [] := by
    refine List.eq_nil_iff_forall_not_mem.2 fun x hx => ?_
    obtain ⟨k, hk, -, hf⟩ := mem_laneFailures.1 hx
    simp [h k hk] at hf
  have hdecide : decideLanes (s.laneFailures g q) = none := by rw [decideLanes_eq, hnone]; rfl
  unfold State.laneFailures State.laneFailure at hdecide
  simp only [State.checkReq, hdecide]

/-- R110: the lowest step that any lane fails decides. -/
theorem State.checkReq_of_fail {l : Nat × Bool × Int} (hl : l ∈ q.lanes) (hf : s.laneFailure g q l = some (n, c))
    (hle : ∀ k ∈ q.lanes, ∀ m d, s.laneFailure g q k = some (m, d) → n < m ∨ (n = m ∧ c = d)) :
    s.checkReq g q = .error (q.fault c (s.failersAt g q n)) := by
  have hfirst : (failingLanes (s.laneFailures g q)).foldl lowerStep none = some (n, c) := by
    refine foldl_lowerStep (by simp) (fun x hx => ?_) (.inr ⟨(l.1, n, c), mem_laneFailures.2 ⟨l, hl, rfl, hf⟩, rfl⟩)
    obtain ⟨k, hk, -, hx⟩ := mem_laneFailures.1 hx
    exact (hle k hk _ _ hx).imp_right fun ⟨hn, hc⟩ => Prod.ext hn.symm hc.symm
  have hdecide : decideLanes (s.laneFailures g q) = some (c, s.failersAt g q n) := by rw [decideLanes_eq, hfirst]; rfl
  conv at hdecide => lhs; unfold State.laneFailures State.laneFailure
  simp only [State.checkReq, hdecide]

theorem State.getLsbD_failersAt (s : State) (g : Agent) (q : Req) (n : Nat) {j : Nat} (hj : j < 96) :
    (s.failersAt g q n).getLsbD j = true ↔ ∃ k ∈ q.lanes, k.1 = j ∧ ∃ d, s.laneFailure g q k = some (n, d) := by
  rw [State.failersAt, getLsbD_lanesAtStep _ _ hj]
  simp only [mem_laneFailures]
  constructor
  · rintro ⟨⟨_, _, d⟩, ⟨k, hk, rfl, hf⟩, rfl, rfl⟩
    exact ⟨k, hk, rfl, d, hf⟩
  · rintro ⟨k, hk, rfl, d, hf⟩
    exact ⟨(k.1, n, d), ⟨k, hk, rfl, hf⟩, rfl, rfl⟩

/-! A failing access has no effect (R110). -/

variable {e : Stop} (id : WeaveId) (w : Weave) (a : Attrs)

theorem State.load_of_fault (h : s.checkReq g q = .error e) : s.load id g a q = .error e := by
  simp only [State.load, h]

theorem State.store'_of_fault (h : s.checkReq g q = .error e) (v : Nat → Nat) : s.store' w g a q v = .error e := by
  simp only [State.store', h]

theorem State.atomic_of_fault (h : s.checkReq g q = .error e) (f : Nat → Nat → Option Nat) : s.atomic w g a q f = .error e := by
  simp only [State.atomic, h]

end

theorem rules_accessChecks : Rules.AccessChecks := by
  intro s g a q w id v f _ step
  refine ⟨State.checkReq_of_pass, fun n c l hl hf hle => ?_⟩
  have hstop := State.checkReq_of_fail hl hf hle
  exact ⟨s.failersAt g q n, fun j hj => s.getLsbD_failersAt g q n hj, hstop, State.load_of_fault id a hstop,
    State.store'_of_fault w a hstop v, State.atomic_of_fault w a hstop f⟩

/-! ### The steps of one lane -/

theorem checkLane_spd {q : Req} (h : q.space = .spd) (s : State) (g : Agent) (d : Option ObjDesc) (bad : Bool) (off : Int) :
    s.checkLane g q d bad off =
      if off < 0 ∨ s.spadInside g off.toNat q.width = false then some (3, .objBound)
      else if off.toNat % q.width ≠ 0 then some (4, .align) else none := by
  simp [State.checkLane, h]

theorem checkLane_hst {q : Req} (h : q.space = .hst) (s : State) (g : Agent) (d : Option ObjDesc) (bad : Bool) (off : Int) :
    s.checkLane g q d bad off =
      if bad = true ∨ off < 0 then some (3, .objBound)
      else if off.toNat % q.width ≠ 0 then some (4, .align)
      else if s.granted g.fn < off.toNat + q.width then some (5, .perm) else none := by
  simp [State.checkLane, h]

theorem checkLane_object {q : Req} (h : q.space = .obj ∨ q.space = .far) (s : State) (g : Agent) (d : Option ObjDesc) (bad : Bool)
    (off : Int) : s.checkLane g q d bad off = s.checkAt g.core g.part q.object d q.need q.width bad off := by
  obtain h | h := h <;> simp only [State.checkLane, h]

theorem rules_laneChecks : Rules.LaneChecks := by
  intro s g q bad off
  refine ⟨fun h d => checkLane_spd h s g d bad off, fun h d => checkLane_hst h s g d bad off, fun h => ⟨?absent, fun d => ?object⟩⟩
  case absent => rw [checkLane_object h, State.checkAt]
  case object =>
    intro count span _ _
    have hspan : max 1 span = d.spanOf q.width := rfl
    rw [checkLane_object h, State.checkAt, hspan]
    simp [count, or_assoc]

end Sys2Proof.Machine
end

section
open Sys2Proof Sys2Proof.Machine

/-- Settles O18: the fold over the lanes that fail finds the lowest step, and each space has its own chain of steps. -/
theorem accessChecks : Obligations.AccessChecks := ⟨rules_accessChecks, rules_laneChecks⟩

end

section
/-! ## The slots of a layout (R117, R119) -/

namespace Sys2Proof.Machine

/-! ### Layout codes (R117) -/

theorem tileShape_pos (k : Nat) : 0 < (tileShape k).1 ∧ 0 < (tileShape k).2 := by
  unfold tileShape
  split <;> decide

theorem layoutDefined_iff (l : Nat) : layoutDefined l = true ↔
    l = 0 ∨ l = 1 ∨ ∃ shape order, shape < 8 ∧ order < 2 ∧ l = 2 + 4 * shape + 32 * order := by
  simp only [layoutDefined, bits_zero, Bool.and_eq_true, Bool.or_eq_true, decide_eq_true_eq]
  constructor
  · rintro ⟨hl, hlow | htile⟩
    · omega
    · exact .inr (.inr ⟨l / 4 % 8, l / 32, by omega, by omega, by omega⟩)
  · rintro (rfl | rfl | ⟨shape, order, hs, ho, rfl⟩) <;> omega

section
variable {l shape order : Nat}

theorem bits_tileCode (hs : shape < 8) (hl : l = 2 + 4 * shape + 32 * order) : bits l 2 3 = shape := by
  simp only [bits]
  norm_num only
  omega

theorem bitAt_tileCode (hs : shape < 8) (ho : order < 2) (hl : l = 2 + 4 * shape + 32 * order) : bitAt l 5 = decide (order = 1) := by
  have h : l / 32 % 2 = order := by omega
  simp only [bitAt]
  norm_num only
  rw [h]
  rfl

end

/-! ### A number made of two digits -/

section
variable {a b m n : Nat}

theorem digits_div (hb : b < n) : (a * n + b) / n = a := by
  rw [Nat.add_comm, Nat.add_mul_div_right _ _ (by omega), Nat.div_eq_of_lt hb, Nat.zero_add]

theorem digits_mod (hb : b < n) : (a * n + b) % n = b := by
  rw [Nat.add_comm, Nat.add_mul_mod_self_right, Nat.mod_eq_of_lt hb]

theorem digits_lt (ha : a < m) (hb : b < n) : a * n + b < m * n :=
  calc a * n + b < a * n + n := by omega
    _ = (a + 1) * n := by rw [Nat.succ_mul]
    _ ≤ m * n := Nat.mul_le_mul_right n ha

end

/-! ### Elements and slots (R119) -/

section
variable {h c i : Nat}

theorem row_col_lt (hi : i < h * c) : i / c < h ∧ i % c < c :=
  have hc : 0 < c := Nat.pos_of_ne_zero fun h0 => by simp [h0] at hi
  ⟨Nat.div_lt_of_lt_mul (by rwa [Nat.mul_comm]), Nat.mod_lt _ hc⟩

theorem slot_columns (hi : i < h * c) : slot 1 h c i < h * c ∧ unslot 1 h c (slot 1 h c i) = i := by
  obtain ⟨hrow, hcol⟩ := row_col_lt hi
  have hs : slot 1 h c i = i % c * h + i / c := rfl
  have hu (p : Nat) : unslot 1 h c p = p % h * c + p / h := if_neg (Nat.ne_zero_of_lt hrow)
  rw [hu, hs, digits_mod hrow, digits_div hrow, Nat.mul_comm h c]
  exact ⟨digits_lt hcol hrow, Nat.div_add_mod' i c⟩

/-- The number of an element's tile: along the rows of tiles under order 0, along the columns under order 1. -/
def tileNumber (order rows cols tr tc : Nat) : Nat := if order = 0 then tr * cols + tc else tc * rows + tr

theorem tileNumber_lt {order rows cols tr tc : Nat} (hr : tr < rows) (hc : tc < cols) :
    tileNumber order rows cols tr tc < rows * cols := by
  unfold tileNumber
  split
  · exact digits_lt hr hc
  · exact Nat.mul_comm rows cols ▸ digits_lt hc hr

variable {l shape order : Nat} (hs : shape < 8) (ho : order < 2) (hl : l = 2 + 4 * shape + 32 * order)
include hs ho hl

theorem slot_tiles {th tw : Nat} (ht : tileShape shape = (th, tw)) (h c i : Nat) : slot l h c i =
    tileNumber order (h / th) (c / tw) (i / c / th) (i % c / tw) * (th * tw) + (i / c % th * tw + i % c % tw) := by
  have h0 : l ≠ 0 := by omega
  have h1 : l ≠ 1 := by omega
  have horder : (if decide (order = 1) = true then i % c / tw * (h / th) + i / c / th else i / c / th * (c / tw) + i % c / tw) =
      tileNumber order (h / th) (c / tw) (i / c / th) (i % c / tw) := by
    obtain rfl | rfl : order = 0 ∨ order = 1 := by omega
    · rfl
    · rfl
  simp only [slot, h0, h1, if_false, bits_tileCode hs hl, bitAt_tileCode hs ho hl, ht, horder, Nat.mul_assoc, Nat.add_assoc]

theorem unslot_tiles {th tw : Nat} (ht : tileShape shape = (th, tw)) {rows cols tr tc : Nat} (hrows : h / th = rows) (hcols : c / tw = cols)
    (hr : tr < rows) (hc : tc < cols) {u : Nat} (hu : u < th * tw) :
    unslot l h c (tileNumber order rows cols tr tc * (th * tw) + u) = (tr * th + u / tw) * c + (tc * tw + u % tw) := by
  have h0 : l ≠ 0 := by omega
  have h1 : l ≠ 1 := by omega
  simp only [unslot, h0, h1, if_false, bits_tileCode hs hl, bitAt_tileCode hs ho hl, ht, digits_div hu, digits_mod hu, hrows, hcols]
  obtain rfl | rfl : order = 0 ∨ order = 1 := by omega
  · simp [tileNumber, digits_div hc, digits_mod hc]
  · simp [tileNumber, digits_div hr, digits_mod hr]

/-- A layout of tiles gives every element of a region that its tiles divide a slot of its own. -/
theorem slot_of_tiles (hh : h % (tileShape shape).1 = 0) (hc : c % (tileShape shape).2 = 0) (hi : i < h * c) :
    slot l h c i < h * c ∧ unslot l h c (slot l h c i) = i := by
  obtain ⟨th, tw, ht⟩ : ∃ th tw, tileShape shape = (th, tw) := ⟨_, _, rfl⟩
  obtain ⟨hth, htw⟩ := ht ▸ tileShape_pos shape
  obtain ⟨rows, rfl⟩ : th ∣ h := Nat.dvd_of_mod_eq_zero (by simpa [ht] using hh)
  obtain ⟨cols, rfl⟩ : tw ∣ c := Nat.dvd_of_mod_eq_zero (by simpa [ht] using hc)
  obtain ⟨hrow, hcol⟩ := row_col_lt hi
  have hrows : th * rows / th = rows := Nat.mul_div_cancel_left _ hth
  have hcols : tw * cols / tw = cols := Nat.mul_div_cancel_left _ htw
  have htr : i / (tw * cols) / th < rows := Nat.div_lt_of_lt_mul hrow
  have htc : i % (tw * cols) / tw < cols := Nat.div_lt_of_lt_mul hcol
  have hmr := Nat.mod_lt (i / (tw * cols)) hth
  have hmc := Nat.mod_lt (i % (tw * cols)) htw
  have hu := digits_lt hmr hmc
  rw [slot_tiles hs ho hl ht, hrows, hcols]
  constructor
  · calc _ < rows * cols * (th * tw) := digits_lt (tileNumber_lt htr htc) hu
      _ = th * rows * (tw * cols) := by ring
  · rw [unslot_tiles hs ho hl ht hrows hcols htr htc hu, digits_div hmc, digits_mod hmc, Nat.div_add_mod', Nat.div_add_mod',
      Nat.div_add_mod']

end

theorem rules_layoutSlots : Rules.LayoutSlots := by
  intro l h c i
  refine ⟨fun k x hk => ?shapes, layoutDefined_iff l, rfl, rfl, fun shape order hs ho hl => ?tiles, fun hdef hdiv hi => ?own⟩
  case shapes =>
    match k with
    | 0 | 1 | 2 | 3 | 4 | 5 | 6 | 7 => exact Option.some.inj hk
    | _ + 8 => cases hk
  case tiles =>
    exact (slot_tiles hs ho hl (th := (tileShape shape).1) (tw := (tileShape shape).2) rfl h c i).trans (Nat.add_assoc ..).symm
  case own =>
    obtain rfl | rfl | ⟨shape, order, hs, ho, hl⟩ := (layoutDefined_iff l).1 hdef
    · exact ⟨hi, rfl⟩
    · exact slot_columns hi
    · have hshape : l / 4 % 8 = shape := by omega
      obtain ⟨hh, hc⟩ := hdiv (by omega)
      rw [hshape] at hh hc
      exact slot_of_tiles hs ho hl hh hc hi

end Sys2Proof.Machine
end

section
/-! ## The layout members: LAYQ, LAYPIN and LAYADV (R132 to R135) -/

namespace Sys2Proof.Machine

/-! ### A member on the region that holds an offset (R132, R133) -/

theorem region?_id {s : State} {id : RegionId} {r : Region} (h : s.region? id = some r) : r.id = id :=
  of_decide_eq_true (List.find?_some (p := fun r : Region => decide (r.id = id)) h)

theorem regionOf_id (s : State) (id : RegionId) (d : ObjDesc) : (s.regionOf id d).id = id := by
  unfold State.regionOf
  cases h : s.region? id with
  | none => rfl
  | some r => exact region?_id h

/-- The value of a layout member arrives in register d as a load's data do (R132). -/
def State.answers (s : State) (w : Weave) (d : RegField) (u : State) (x : DWord) : Host.Outcome State Fault Refusal :=
  .next (u.fly (s.info w .illegal accOther) (.scal d.toNat x) [] 0 true)

/-- The object and the offset that a layout member names. -/
def State.namedObject (s : State) (w : Weave) (a : RegField) : Nat := (w.scal s.cur.strand a.toNat).toNat
def State.namedOffset (s : State) (w : Weave) (b : RegField) : Nat := (w.scal s.cur.strand b.toNat).toNat

/-- A layout member that answers a value for an object of bytes, and for a region of a tensor the value and the state of f. -/
def State.AnswersRegion (s : State) (w : Weave) (b a d : RegField) (i : Instr) (bytes : DWord)
    (f : State → ObjDesc → Region → State × DWord) : Prop :=
  ∃ body : Body, exec i s = run i s body ∧ body w s.issued = layoutBody b a (fun w t => flyScal w t d bytes)
    (fun w t x r => flyScal w (f t x r).1 d (f t x r).2) w s.issued

section
variable {s : State} {i : Instr} {w : Weave} {b a d : RegField} {bytes : DWord} {f : State → ObjDesc → Region → State × DWord}
  (hi : s.AnswersRegion w b a d i bytes f) (h : s.Ready i w)
include hi h

theorem State.AnswersRegion.fault {c : Cause} (hf : s.issued.regionFault w (s.namedObject w a) (s.namedOffset w b) = some c) :
    exec i s = .next (s.vector s.cur.weave s.cur.strand { s.info w c accLayout with
      object := BitVec.ofNat 32 (s.namedObject w a), place := BitVec.ofNat 128 (s.namedOffset w b % 2 ^ 48)
      generation := s.issued.recordGeneration w.partition (s.namedObject w a)
        (s.issued.seeDesc w.id.core w.partition (s.namedObject w a)) (s.namedOffset w b) }) := by
  obtain ⟨body, hrun, hbody⟩ := hi
  refine hrun.trans (run_fault h (hbody.trans ?_))
  change s.issued.regionFault w (handleOf w s.issued.cur.strand a) (reg w s.issued b).toNat = some c at hf
  simp only [layoutBody, hf]
  rfl

variable {x : ObjDesc} (hf : s.issued.regionFault w (s.namedObject w a) (s.namedOffset w b) = none)
  (hx : s.issued.objDesc w.partition (s.namedObject w a) = some x)
include hf hx

theorem State.AnswersRegion.next {u : State} (hu : (if x.kind = 2 then
      let r := s.issued.regionOf ⟨w.partition, s.namedObject w a, s.namedOffset w b / x.regionElems⟩ x
      flyScal w (f s.issued x r).1 d (f s.issued x r).2
    else flyScal w s.issued d bytes) = .ok u) : exec i s = .next u := by
  obtain ⟨body, hrun, hbody⟩ := hi
  refine hrun.trans (run_ok h (hbody.trans ?_))
  change s.issued.regionFault w (handleOf w s.issued.cur.strand a) (reg w s.issued b).toNat = none at hf
  change s.issued.objDesc w.partition (handleOf w s.issued.cur.strand a) = some x at hx
  have harrived (y : Except Stop State) : whenArrived w s.issued y = y := if_neg (by simp [h.2.2])
  simp only [layoutBody, hf, hx, Option.some_or, harrived]
  exact hu

theorem State.AnswersRegion.plain (hk : x.kind ≠ 2) : exec i s = s.answers w d s.issued bytes := hi.next h hf hx (if_neg hk)

/-- `u` is where f leaves the region that the offset lies in. -/
theorem State.AnswersRegion.tensor (hk : x.kind = 2) {u : State} {y : DWord} (hcur : u.cur = s.cur)
    (hu : f s.issued x (s.issued.regionOf ⟨w.partition, s.namedObject w a, s.namedOffset w b / x.regionElems⟩ x) = (u, y)) :
    exec i s = s.answers w d u y := by
  refine hi.next h hf hx ((if_pos hk).trans ?_)
  simp only [hu, flyScal, State.info, hcur]

end

/-! ### The value of LAYQ (R134) -/

theorem Region.pinDue_iff (r : Region) : r.pinDue = true ↔ r.pinPending.isSome = true ∨ ∃ n, r.request = some (n, true) := by
  unfold Region.pinDue
  cases r.request with
  | none => simp
  | some x => obtain ⟨n, p⟩ := x; cases p <;> simp

/-- The numbers that LAYQ reports, each field at its place. -/
theorem layoutWord_fields {l c p m g a n t : Nat} (hl : l < 256) (hc : c < 4) (hp : p < 2) (hm : m < 2) (hg : g < 65536)
    (ha : a ≤ 0xFFFF) (hn : n < 256) (ht : t < 256) {y : DWord}
    (hy : y = BitVec.ofNat 64 (l + 2 ^ 8 * c + 2 ^ 10 * p + 2 ^ 14 * m + 2 ^ 16 * g + 2 ^ 32 * a + (2 ^ 48 * n + 2 ^ 56 * t))) :
    y.extractLsb' 0 8 = BitVec.ofNat 8 l ∧ y.extractLsb' 8 2 = BitVec.ofNat 2 c ∧ y.getLsbD 10 = decide (p = 1) ∧
      y.extractLsb' 11 3 = 0 ∧ y.getLsbD 14 = decide (m = 1) ∧ y.getLsbD 15 = false ∧ y.extractLsb' 16 16 = BitVec.ofNat 16 g ∧
      y.extractLsb' 32 16 = BitVec.ofNat 16 a ∧ y.extractLsb' 48 16 = BitVec.ofNat 16 (n + 256 * t) ∧
      y.extractLsb' 48 8 = BitVec.ofNat 8 n ∧ y.extractLsb' 56 8 = BitVec.ofNat 8 t := by
  have hv : y.toNat = l + 2 ^ 8 * c + 2 ^ 10 * p + 2 ^ 14 * m + 2 ^ 16 * g + 2 ^ 32 * a + (2 ^ 48 * n + 2 ^ 56 * t) := by
    rw [hy, BitVec.toNat_ofNat]
    omega
  have hfield (lo k z : Nat) (hz : y.toNat / 2 ^ lo % 2 ^ k = z) : y.extractLsb' lo k = BitVec.ofNat k z := by
    apply BitVec.eq_of_toNat_eq
    rw [BitVec.extractLsb'_toNat, BitVec.toNat_ofNat, Nat.shiftRight_eq_div_pow, hz, ← hz, Nat.mod_mod]
  have hbit (k z : Nat) (hz : y.toNat / 2 ^ k % 2 = z) : y.getLsbD k = decide (z = 1) := by
    rw [← BitVec.testBit_toNat, Nat.testBit_eq_decide_div_mod_eq, hz]
  refine ⟨hfield _ _ _ ?_, hfield _ _ _ ?_, hbit _ _ ?_, hfield _ _ 0 ?_, hbit _ _ ?_, hbit _ 0 ?_, hfield _ _ _ ?_, hfield _ _ _ ?_,
    hfield _ _ _ ?_, hfield _ _ _ ?_, hfield _ _ _ ?_⟩ <;> omega

theorem RegionState.code_lt (x : RegionState) : x.code < 4 := by cases x <;> decide

theorem ofBool_lt (c : Bool) : ofBool c < 2 := by cases c <;> decide

theorem ofBool_eq_one (c : Bool) : decide (ofBool c = 1) = c := by cases c <;> rfl

theorem popBits_lt (x : Nat) : popBits 64 x < 256 :=
  calc popBits 64 x ≤ (List.range 64).length := List.length_filter_le ..
    _ < 256 := by simp

/-- LAYQ's report of a region (R134). -/
theorem layoutWord_report (s : State) (d : ObjDesc) {r : Region} (hl : r.layout < 256) (ht : r.target < 256) :
    let y := s.layoutWord d r
    y.extractLsb' 0 8 = BitVec.ofNat 8 r.layout ∧ y.extractLsb' 8 2 = BitVec.ofNat 2 r.state.code ∧ y.getLsbD 10 = r.pinDue ∧
      y.extractLsb' 11 3 = 0 ∧ y.getLsbD 14 = !s.movable d r.id.region ∧ y.getLsbD 15 = false ∧
      y.extractLsb' 16 16 = r.generation.setWidth 16 ∧ y.extractLsb' 32 16 = BitVec.ofNat 16 (min 0xFFFF ((s.sinceChange r).getD 0xFFFF)) ∧
      (r.state ≠ .retiling → y.extractLsb' 48 16 = 0) ∧
      (r.state = .retiling → y.extractLsb' 48 8 = BitVec.ofNat 8 (popBits 64 r.done.toNat) ∧ y.extractLsb' 56 8 = BitVec.ofNat 8 r.target) := by
  intro y
  by_cases hr : r.state = .retiling
  · obtain ⟨h0, h1, h2, h3, h4, h5, h6, h7, -, h8, h9⟩ := layoutWord_fields (y := y) hl r.state.code_lt (ofBool_lt r.pinDue)
      (ofBool_lt (!s.movable d r.id.region)) r.generation.isLt (Nat.min_le_left 0xFFFF ((s.sinceChange r).getD 0xFFFF))
      (popBits_lt r.done.toNat) ht (by simp only [y, State.layoutWord, hr, if_true])
    rw [ofBool_eq_one] at h2 h4
    exact ⟨h0, h1, h2, h3, h4, h5, h6.trans (by simp), h7, fun h => absurd hr h, fun _ => ⟨h8, h9⟩⟩
  · obtain ⟨h0, h1, h2, h3, h4, h5, h6, h7, h8, -, -⟩ := layoutWord_fields (y := y) hl r.state.code_lt (ofBool_lt r.pinDue)
      (ofBool_lt (!s.movable d r.id.region)) r.generation.isLt (Nat.min_le_left 0xFFFF ((s.sinceChange r).getD 0xFFFF))
      (n := 0) (t := 0) (by decide) (by decide) (by simp [y, State.layoutWord, hr])
    rw [ofBool_eq_one] at h2 h4
    exact ⟨h0, h1, h2, h3, h4, h5, h6.trans (by simp), h7, fun _ => h8, fun h => absurd h hr⟩

/-! ### LAYPIN and LAYADV (R133, R135) -/

theorem bitAt_pinBit {v : Nat} (hv : v < 2 ^ 9) : bitAt v 8 = decide (2 ^ 8 ≤ v) := bitAt_eq_decide_le hv

section
variable (s : State) (d : ObjDesc) (r : Region) (code : Nat)

/-- What an unpin leaves of a region, its state apart (R135). -/
def Region.unpinning (r : Region) : Region := r.still.unpinned

theorem Region.unpinning_eq : r.unpinning =
    let mine := (r.request.map (·.2)).getD false
    { r with
      streak := none, rivals := [], pinPending := none, request := if mine then none else r.request
      target := if mine then r.contest.getD r.layout else r.target } := by
  have hmine : r.request.any (·.2) = (r.request.map (·.2)).getD false := by cases r.request <;> rfl
  simp only [Region.unpinning, Region.unpinned, Region.still, hmine]

theorem layPin_unpin : layPin s d r false code = if r.state = .pinned then ({ r.unpinning with state := .stable }, 3)
    else if r.pinDue then (r.unpinning, 3) else (r, 3) := rfl

theorem layPin_pin : layPin s d r true code = if r.state = .retiling then ({ r with pinPending := some code }, 1)
    else if code = r.layout then (r.fixed, 0)
    else if d.eligible r.id.region code && s.movable d r.id.region then
      ({ r with target := code, request := some (code, true), pinPending := none }, 1)
    else (r.fixed, 2) := rfl

end

theorem layoutRequestOk_iff {v : Nat} {pin : Bool} :
    layoutRequestOk v pin = true ↔ v < (if pin then 512 else 256) ∧ layoutDefined (v % 256) = true := by
  simp [layoutRequestOk]

@[simp] theorem State.setRegion_cur (s : State) (r : Region) : (s.setRegion r).cur = s.cur := by
  unfold State.setRegion
  split <;> rfl

section
variable {s : State} {w : Weave} (b a d : RegField)

theorem answersRegion_layq : s.AnswersRegion w b a d (.layq b a d) 0x8000 fun t x r => (t, t.layoutWord x r) :=
  ⟨_, rfl, rfl⟩

/-- The value that the instruction's register d holds. -/
def State.requested (s : State) (w : Weave) (d : RegField) : Nat := (w.scal s.cur.strand d.toNat).toNat

theorem answersRegion_laypin (hok : layoutRequestOk (s.requested w d) true = true) :
    s.AnswersRegion w b a d (.laypin b a d) (if bitAt (s.requested w d) 8 then 2 else 3) fun t x r =>
      let y := layPin t x r (bitAt (s.requested w d) 8) (s.requested w d % 256)
      (t.setRegion y.1, BitVec.ofNat 64 y.2) := by
  have hexec : exec (.laypin b a d) s = execLaypin b a d s := rfl
  unfold execLaypin at hexec
  refine ⟨_, hexec, if_neg ?_⟩
  change ¬(!layoutRequestOk (s.requested w d) true) = true
  simp [hok]

theorem answersRegion_layadv (hok : layoutRequestOk (s.requested w d) false = true) :
    s.AnswersRegion w b a d (.layadv b a d) 2 fun t x r =>
      let y := layAdv t x r (s.requested w d % 256)
      (t.setRegion y.1, BitVec.ofNat 64 y.2) := by
  have hexec : exec (.layadv b a d) s = execLayadv b a d s := rfl
  unfold execLayadv at hexec
  refine ⟨_, hexec, if_neg ?_⟩
  change ¬(!layoutRequestOk (s.requested w d) false) = true
  simp [hok]

theorem exec_laypin_undefined (h : s.Ready (.laypin b a d) w) (hok : layoutRequestOk (s.requested w d) true = false) :
    exec (.laypin b a d) s = .next (s.vector s.cur.weave s.cur.strand (s.info w .illegal accLayout)) := by
  change execLaypin b a d s = _
  refine h.run_failing (c := .illegal) (a := accLayout) (if_pos ?_)
  change (!layoutRequestOk (s.requested w d) true) = true
  simp [hok]

theorem exec_layadv_undefined (h : s.Ready (.layadv b a d) w) (hok : layoutRequestOk (s.requested w d) false = false) :
    exec (.layadv b a d) s = .next (s.vector s.cur.weave s.cur.strand (s.info w .illegal accLayout)) := by
  change execLayadv b a d s = _
  refine h.run_failing (c := .illegal) (a := accLayout) (if_pos ?_)
  change (!layoutRequestOk (s.requested w d) false) = true
  simp [hok]

end

theorem rules_layoutMembers : Rules.LayoutMembers := by
  intro b a d s w st t h o v put reaches
  have laypin (hr : reaches (.laypin b a d)) : s.Ready (.laypin b a d) w ∧ v < 2 ^ 9 ∧ layoutRequestOk v true = true := by
    obtain ⟨hr, hi | ⟨-, hv⟩ | ⟨hi, -⟩⟩ := hr
    · cases hi
    · exact ⟨hr, hv.1, layoutRequestOk_iff.2 hv⟩
    · cases hi
  have layadv (hr : reaches (.layadv b a d)) : s.Ready (.layadv b a d) w ∧ v < 2 ^ 8 ∧ layoutRequestOk v false = true := by
    obtain ⟨hr, hi | ⟨hi, -⟩ | ⟨-, hv, hdef⟩⟩ := hr
    · cases hi
    · cases hi
    · exact ⟨hr, hv, layoutRequestOk_iff.2 ⟨hv, (Nat.mod_eq_of_lt hv).symm ▸ hdef⟩⟩
  refine ⟨?undefined, ?fault, fun x hf hx => ⟨fun hk => ⟨?_, ?_, ?_⟩, ?tensor⟩⟩
  case undefined =>
    rintro i (⟨rfl, hv⟩ | ⟨rfl, hv⟩) hr
    · refine exec_laypin_undefined b a d hr (Bool.eq_false_iff.2 fun hok => ?_)
      obtain ⟨hlt, hdef⟩ := layoutRequestOk_iff.1 hok
      exact hv.elim (fun h => absurd hlt (Nat.not_lt.2 h)) fun h => Bool.false_ne_true (h.symm.trans hdef)
    · refine exec_layadv_undefined b a d hr (Bool.eq_false_iff.2 fun hok => ?_)
      obtain ⟨hlt, hdef⟩ := layoutRequestOk_iff.1 hok
      rw [Nat.mod_eq_of_lt (show s.requested w d < 256 from hlt)] at hdef
      exact hv.elim (fun h => absurd hlt (Nat.not_lt.2 h)) fun h => Bool.false_ne_true (h.symm.trans hdef)
  case fault =>
    rintro i c hi hf
    obtain rfl | ⟨rfl, -⟩ | ⟨rfl, -⟩ := hi.2
    · exact (answersRegion_layq b a d).fault hi.1 hf
    · exact (answersRegion_laypin b a d (laypin hi).2.2).fault hi.1 hf
    · exact (answersRegion_layadv b a d (layadv hi).2.2).fault hi.1 hf
  · exact fun hr => (answersRegion_layq b a d).plain hr.1 hf hx hk
  · intro hr
    obtain ⟨hready, hv, hok⟩ := laypin hr
    refine ((answersRegion_laypin b a d hok).plain hready hf hx hk).trans ?_
    rw [bitAt_pinBit (v := s.requested w d) hv]
    change s.answers w d t (if decide (2 ^ 8 ≤ v) = true then 2 else 3) = _
    by_cases hp : 2 ^ 8 ≤ v
    · rw [if_pos hp, if_pos (decide_eq_true hp)]; rfl
    · rw [if_neg hp, if_neg (by simpa using hp)]; rfl
  · intro hr
    obtain ⟨hready, hv, hok⟩ := layadv hr
    exact (answersRegion_layadv b a d hok).plain hready hf hx hk
  case tensor =>
    intro hk k r pending code mine settled fixed back
    have hk' : r.id.region = k := congrArg RegionId.region (regionOf_id t ⟨w.partition, h, k⟩ x)
    refine ⟨?layq, ?laypin, ?layadv⟩
    case layq =>
      intro hr hl ht
      obtain ⟨h0, h1, h2, h3, h4, h5, h6, h7, h8, h9⟩ := layoutWord_report t x hl ht
      refine ⟨t.layoutWord x r, ?_, h0, h1.trans ?_, ?_, h3, ?_, h5, h6, h7, h8, fun hs => ?_⟩
      · refine ((answersRegion_layq b a d).tensor (u := t) hr.1 hf hx hk rfl rfl).trans ?_
        exact congrArg (s.answers w d t) (BitVec.ofNat_toNat 64 (t.layoutWord x r)).symm
      · cases r.state <;> rfl
      · rw [h2, Region.pinDue_iff]
      · rw [h4, hk', Bool.not_eq_true']
      · rw [← popBits_toNat 64 r.done]
        exact h9 hs
    case laypin =>
      intro hr
      obtain ⟨hready, hv, hok⟩ := laypin hr
      have answer {pin : Bool} (hp : decide (2 ^ 8 ≤ v) = pin) {r' : Region} {n : Nat} (hl : layPin t x r pin code = (r', n)) :
          exec (.laypin b a d) s = put (t.setRegion r') n := by
        refine (answersRegion_laypin b a d hok).tensor hready hf hx hk (State.setRegion_cur t r') ?_
        rw [bitAt_pinBit (v := s.requested w d) hv, show decide (2 ^ 8 ≤ s.requested w d) = pin from hp]
        exact congrArg (fun y : Region × Nat => (t.setRegion y.1, BitVec.ofNat 64 y.2)) hl
      refine ⟨fun hunpin => ?_, fun hpin => ?_⟩
      · have unpin {r' : Region} (hl : layPin t x r false code = (r', 3)) := answer (decide_eq_false (Nat.not_le.2 hunpin)) hl
        rw [layPin_unpin, Region.unpinning_eq] at unpin
        refine ⟨fun hs => unpin (if_pos hs), fun hs hp => unpin ?_, fun hs hp => unpin ?_⟩
        · rw [if_neg hs, if_pos (r.pinDue_iff.2 hp)]
        · rw [if_neg hs, if_neg fun hd => hp (r.pinDue_iff.1 hd)]
      · have pin {r' : Region} {n : Nat} (hl : layPin t x r true code = (r', n)) := answer (decide_eq_true hpin) hl
        rw [layPin_pin, hk'] at pin
        refine ⟨fun hs => pin (if_pos hs), fun hs => ⟨fun hc => pin ?_, fun hc he hm => pin ?_, fun hc hem => pin ?_⟩⟩
        · rw [if_neg hs, if_pos hc]
          rfl
        · rw [if_neg hs, if_neg hc, if_pos (by rw [he, hm]; rfl)]
        · rw [if_neg hs, if_neg hc, if_neg (by rcases hem with he | hm <;> simp [*])]
          rfl
    case layadv =>
      intro hr
      obtain ⟨hready, hv, hok⟩ := layadv hr
      have answer {r' : Region} {n : Nat} (hl : layAdv t x r code = (r', n)) : exec (.layadv b a d) s = put (t.setRegion r') n :=
        (answersRegion_layadv b a d hok).tensor hready hf hx hk (State.setRegion_cur t r')
          (congrArg (fun y : Region × Nat => (t.setRegion y.1, BitVec.ofNat 64 y.2)) hl)
      rw [layAdv, hk'] at answer
      refine ⟨fun hs => answer (if_pos ?_), fun hs hm => ?_⟩
      · rcases hs with hs | hs | hm <;> simp [*]
      · have hfree : ¬(decide (r.state = .pinned) || decide (r.state = .retiling) || !t.movable x k) = true := by
          rcases hs with hs | hs <;> simp [*]
        rw [if_neg hfree] at answer
        refine ⟨fun hc => answer (if_pos hc), fun hc he => answer ?_, fun hc he => answer ?_⟩
        · rw [if_neg hc, if_pos he]
          rfl
        · rw [if_neg hc, if_neg (by simp [he])]

end Sys2Proof.Machine
end

section
open Sys2Proof Sys2Proof.Machine

/-- Settles O31: a slot is a number of two digits, tile and place within it; a layout member is one step that answers the region. -/
theorem layouts : Obligations.Layouts := ⟨rules_layoutSlots, rules_layoutMembers⟩

end

section
/-! ## What moves bytes between copies and homes leaves alone (R145, R149, R158, R178) -/

namespace Sys2Proof.Machine

/-- Everything but the memories with their poison, the copies and what tracks them, the buffers of the ports, and the control blocks,
where an error ring stands. -/
def State.aside (s : State) : State :=
  { s with mem := [], hostMem := [], poison := [], caches := [], dirs := [], pcbs := .replicate 16 .reset
           cxl := s.cxl.map fun p => { p with buffer := [] } }

theorem aside_ite {s t u : State} {c : Prop} [Decidable c] (ht : t.aside = s.aside) (hu : u.aside = s.aside) :
    (if c then t else u).aside = s.aside := by
  split <;> assumption

theorem aside_foldl {α : Type} {s : State} {f : State → α → State} (hf : ∀ t x, (f t x).aside = t.aside) (l : List α) :
    (l.foldl f s).aside = s.aside := by
  induction l generalizing s with
  | nil => rfl
  | cons x r ih => exact (ih (s := f s x)).trans (hf s x)

section
variable (s : State) (h : Holder) (line : Nat) (c : CacheLine)

theorem aside_memSet (a : Nat) (b : Byte) : (s.memSet a b).aside = s.aside := by
  unfold State.memSet
  split <;> rfl

theorem aside_putLine : (s.putLine c).aside = s.aside := by
  unfold State.putLine
  split <;> rfl

theorem aside_mergeBytes (xs : List (Byte × Nat × Option Bool × Nat)) : (s.mergeBytes xs).aside = s.aside :=
  aside_foldl (fun t _ => aside_memSet t _ _) xs

theorem aside_passCopy (core : Nat) : (s.passCopy core c).aside = s.aside := by
  unfold State.passCopy
  split
  · exact aside_ite (aside_putLine ..) rfl
  · rfl

theorem aside_expel : (s.expel h line).aside = s.aside :=
  aside_foldl (f := fun t c => (t.mergeBytes (t.mergeMoves c)).dropLine c.holder line) (fun t c => aside_mergeBytes t (t.mergeMoves c)) _

theorem aside_mergeLine : (s.mergeLine c).aside = s.aside := by
  have hmerged (xs ls) : ((List.foldl (fun t l => t.expel c.holder l) s ls).mergeBytes xs).aside = s.aside :=
    (aside_mergeBytes _ xs).trans (aside_foldl (fun t _ => aside_expel t _ _) ls)
  unfold State.mergeLine
  simp only
  split
  · exact (aside_passCopy ..).trans (hmerged ..)
  · exact hmerged ..

theorem aside_onCxl {f : CxlPort → CxlPort} (hf : ∀ p, { f p with buffer := [] } = { p with buffer := [] }) (port : Nat) :
    (s.onCxl port f).aside = s.aside := by
  unfold State.onCxl
  split
  · next hp =>
    simp only [State.aside, Vector.map_set, hf]
    congr 1
    apply Vector.ext
    intro i hi
    rw [Vector.getElem_set]
    split
    · next hip => subst hip; rw [Vector.getElem_map]
    · rfl
  · rfl

theorem aside_holdBack : (s.holdBack c).aside = s.aside := by
  unfold State.holdBack
  split
  · rfl
  · exact aside_ite ((aside_putLine ..).trans (aside_onCxl (f := fun x => { x with buffer := x.buffer ++ [c] }) s (fun _ => rfl) _)) rfl

theorem aside_writeBack : (s.writeBack h line).aside = s.aside := by
  unfold State.writeBack
  split
  · rfl
  · exact aside_ite rfl (aside_ite (aside_holdBack ..) ((aside_putLine ..).trans (aside_mergeLine ..)))

theorem aside_giveUp : (s.giveUp h line).aside = s.aside :=
  aside_ite (aside_writeBack ..) (aside_writeBack ..)

end

/-- A port is as far down as it was. -/
theorem portDown_of_aside {s t : State} (h : t.aside = s.aside) (p : Nat) : t.portDown p = s.portDown p := by
  have hport (u : State) : u.portDown p = ((u.aside.cxl.toList[p]?).map (·.down)).getD false := by
    simp only [State.portDown, State.aside, Vector.toList_map, List.getElem?_map, Option.map_map]
    rfl
  rw [hport, hport, h]

theorem lineHeld_of_aside {s t : State} (h : t.aside = s.aside) (line : Nat) : t.lineHeld line = s.lineHeld line := by
  simp only [State.lineHeld, funext (portDown_of_aside h)]

end Sys2Proof.Machine
end

section
/-! ## Copies of a line, and the bytes that a write-back merges (R130, R149, R178) -/

namespace Sys2Proof.Machine

/-! ### A holder's copy of a line -/

section
variable (s : State) (h hd : Holder) (line l : Nat) (c : CacheLine)

theorem lineAt_eq_some {s : State} {h : Holder} {line : Nat} {c : CacheLine} (hc : s.lineAt h line = some c) :
    c.holder = h ∧ c.line = line ∧ c ∈ s.caches := by
  have hkey := List.find?_some hc
  simp only [Bool.and_eq_true, decide_eq_true_eq] at hkey
  exact ⟨hkey.1, hkey.2, List.mem_of_find?_eq_some hc⟩

theorem lineAt_putLine : (s.putLine c).lineAt hd l = if c.holder = hd ∧ c.line = l then some c else s.lineAt hd l := by
  unfold State.putLine
  split
  · next hhas =>
    have hkeep : (fun x : CacheLine => decide (x.holder = hd) && decide (x.line = l)) ∘
        (fun x => if (decide (x.holder = c.holder) && decide (x.line = c.line)) = true then c else x) =
        fun x => decide (x.holder = hd) && decide (x.line = l) := by
      funext x
      by_cases hx : x.holder = c.holder ∧ x.line = c.line
      · simp [hx.1, hx.2]
      · simp only [Function.comp, Bool.and_eq_true, decide_eq_true_eq, if_neg hx]
    simp only [State.lineAt, List.find?_map, hkeep]
    split
    · next hkey =>
      obtain ⟨rfl, rfl⟩ := hkey
      obtain ⟨x, hx⟩ := Option.isSome_iff_exists.1 hhas
      obtain ⟨hxh, hxl, -⟩ := lineAt_eq_some hx
      simp only [State.lineAt] at hx
      simp [hx, hxh, hxl]
    · next hkey =>
      cases hx : List.find? (fun x : CacheLine => decide (x.holder = hd) && decide (x.line = l)) s.caches with
      | none => rfl
      | some x =>
        obtain ⟨hxh, hxl, -⟩ := lineAt_eq_some (s := s) hx
        subst hxh hxl
        simp only [Option.map_some, Bool.and_eq_true, decide_eq_true_eq, if_neg fun e : x.holder = c.holder ∧ x.line = c.line =>
          hkey ⟨e.1.symm, e.2.symm⟩]
  · next hhas =>
    have hnone : s.lineAt c.holder c.line = none := Option.not_isSome_iff_eq_none.1 hhas
    simp only [State.lineAt, List.find?_append] at hnone ⊢
    split
    · next hkey =>
      obtain ⟨rfl, rfl⟩ := hkey
      simp [hnone]
    · next hkey => simp [hkey]

theorem lineAt_dropLine : (s.dropLine h line).lineAt hd l = if h = hd ∧ line = l then none else s.lineAt hd l := by
  simp only [State.lineAt, State.dropLine, List.find?_filter]
  split
  · next hkey =>
    obtain ⟨rfl, rfl⟩ := hkey
    exact List.find?_eq_none.2 fun x _ => by simp; tauto
  · next hkey =>
    congr 1
    funext x
    rw [Bool.eq_iff_iff]
    simp only [Bool.and_eq_true, decide_eq_true_eq, Bool.not_eq_true', Bool.and_eq_false_iff, decide_eq_false_iff_not]
    refine and_iff_right_of_imp ?_
    rintro ⟨rfl, rfl⟩
    exact not_and_or.1 fun e => hkey ⟨e.1.symm, e.2.symm⟩

theorem lineAt_passCopy (core : Nat) (hcl : hd ≠ .cluster (clusterOf core)) : (s.passCopy core c).lineAt hd l = s.lineAt hd l := by
  unfold State.passCopy
  split
  · next x hx =>
    split
    · rw [lineAt_putLine, if_neg fun e => hcl (e.1.symm.trans (lineAt_eq_some hx).1)]
    · rfl
  · rfl

@[simp] theorem caches_mergeBytes (xs : List (Byte × Nat × Option Bool × Nat)) : (s.mergeBytes xs).caches = s.caches := by
  unfold State.mergeBytes
  induction xs generalizing s with
  | nil => rfl
  | cons x r ih => exact (ih _).trans (State.memSet_caches ..)

@[simp] theorem lineAt_mergeBytes (xs : List (Byte × Nat × Option Bool × Nat)) : (s.mergeBytes xs).lineAt hd l = s.lineAt hd l := by
  simp only [State.lineAt, caches_mergeBytes]

/-- A line's other holders leave it; the given holder keeps its copies. -/
theorem lineAt_expel : (s.expel h line).lineAt h l = s.lineAt h l := by
  unfold State.expel
  have hothers : ∀ x ∈ s.caches.filter (fun c => c.line = line && c.state ≠ .plain && c.state ≠ .l && c.holder ≠ h), x.holder ≠ h := by
    intro x hx
    simp only [List.mem_filter, Bool.and_eq_true, decide_eq_true_eq] at hx
    exact hx.2.2
  generalize s.caches.filter (fun c => c.line = line && c.state ≠ .plain && c.state ≠ .l && c.holder ≠ h) = xs at hothers
  induction xs generalizing s with
  | nil => rfl
  | cons x r ih =>
    obtain ⟨hx, hr⟩ := List.forall_mem_cons.1 hothers
    rw [List.foldl_cons, ih _ hr, lineAt_dropLine, if_neg fun e => hx e.1, lineAt_mergeBytes]

theorem lineAt_mergeLine : (s.mergeLine c).lineAt c.holder l = s.lineAt c.holder l := by
  have hmerged (ls : List Nat) (xs) (t : State) : ((ls.foldl (fun t l => t.expel c.holder l) t).mergeBytes xs).lineAt c.holder l =
      t.lineAt c.holder l := by
    rw [lineAt_mergeBytes]
    induction ls generalizing t with
    | nil => rfl
    | cons y r ih => exact (ih _).trans (lineAt_expel ..)
  unfold State.mergeLine
  simp only
  split
  · next core hcore => rw [lineAt_passCopy _ _ _ _ _ (by simp [hcore]), hmerged]
  · exact hmerged ..

/-- A line written back stays with its holder, clean (R130). -/
theorem lineAt_writeBack_same {s : State} {h : Holder} {line : Nat} {c : CacheLine} (hc : s.lineAt h line = some c)
    (hheld : s.lineHeld line = false) : (s.writeBack h line).lineAt h line = some { c with dirty := 0 } := by
  obtain ⟨rfl, rfl, -⟩ := lineAt_eq_some hc
  simp only [State.writeBack, hc]
  split
  · next hd => rw [hc, ← hd]
  · rw [if_neg (by simp [hheld]), lineAt_putLine, if_pos ⟨rfl, rfl⟩]

theorem lineAt_writeBack_ne {l : Nat} (hl : l ≠ line) : (s.writeBack h line).lineAt h l = s.lineAt h l := by
  unfold State.writeBack
  split
  · rfl
  · next c hc =>
    obtain ⟨rfl, rfl, -⟩ := lineAt_eq_some hc
    have hput (t : State) : (t.putLine { c with dirty := 0 }).lineAt c.holder l = t.lineAt c.holder l := by
      rw [lineAt_putLine, if_neg fun e => hl e.2.symm]
    split
    · rfl
    · split
      · unfold State.holdBack
        split
        · rfl
        · split
          · exact hput _
          · rfl
      · rw [hput, lineAt_mergeLine]

end

end Sys2Proof.Machine
end

section
/-! ## Write-backs, L copies that end, walks and snoops (R130, R156, R158, R177, R178) -/

namespace Sys2Proof.Machine

theorem mem_distinct_iff {α : Type} [DecidableEq α] {l : List α} {x : α} : x ∈ distinct l ↔ x ∈ l := by
  induction l with
  | nil => rfl
  | cons y r ih => by_cases hx : x = y <;> simp [distinct, ih, hx]

/-! ### The bytes that a write-back merges -/

section
variable {s t : State} {c : CacheLine} {line : Nat}

/-- Dirty bytes of a line that go to the line's own address. -/
def ownMoves (line : Nat) (data : List Byte) (is : List Nat) : List (Byte × Nat × Option Bool × Nat) :=
  is.map fun i => (data.getD i 0, 128 * line + i, none, 0)

theorem mergeMoves_untagged (s : State) (ht : c.tag = none) :
    s.mergeMoves c = ownMoves c.line c.data ((List.range 128).filter fun i => c.dirty.getLsbD i) := by
  simp only [State.mergeMoves, State.mergePlaces, ht, ownMoves, List.map_cons, List.map_nil]
  exact List.flatMap_pure_eq_map ..

theorem mergeMoves_clean (s : State) (hd : c.dirty = 0) : s.mergeMoves c = [] := by
  simp [State.mergeMoves, hd]

/-- Memory holds some bytes in its canonical form. -/
def State.Holds (s : State) (f : Nat → Byte) : Prop := s.MemOk ∧ ∀ a, s.memByte a = f a

/-- Bytes of a line written over others. -/
def overLine (f : Nat → Byte) (line : Nat) (data : List Byte) (p : Nat → Prop) [DecidablePred p] (a : Nat) : Byte :=
  if a / 128 = line ∧ p (a % 128) then data.getD (a % 128) 0 else f a

theorem State.Holds.mergeBytes {f : Nat → Byte} (h : s.Holds f) (line : Nat) (data : List Byte) {is : List Nat} (his : ∀ i ∈ is, i < 128) :
    (s.mergeBytes (ownMoves line data is)).Holds (overLine f line data (· ∈ is)) := by
  induction is generalizing s f with
  | nil => exact ⟨h.1, fun a => (h.2 a).trans (by simp [overLine])⟩
  | cons i r ih =>
    obtain ⟨hi, hr⟩ := List.forall_mem_cons.1 his
    have hset : (s.memSet (128 * line + i) (data.getD i 0)).Holds (overLine f line data (· = i)) := by
      refine ⟨memSet_ok h.1 _ _, fun a => ?_⟩
      by_cases ha : a = 128 * line + i
      · subst ha
        rw [memByte_memSet_same h.1, overLine, if_pos (by omega), show (128 * line + i) % 128 = i by omega]
      · rw [memByte_memSet_ne h.1 _ ha, h.2, overLine, if_neg (by omega)]
    obtain ⟨hok, hbytes⟩ := ih hset hr
    refine ⟨hok, fun a => (hbytes a).trans ?_⟩
    unfold overLine
    by_cases hl : a / 128 = line
    · by_cases hmem : a % 128 ∈ r <;> simp [hl, hmem]
    · simp [hl]

theorem State.Holds.passCopy {f : Nat → Byte} (h : s.Holds f) (core : Nat) (c : CacheLine) : (s.passCopy core c).Holds f := by
  unfold State.passCopy
  split
  · split
    · unfold State.putLine
      split <;> exact h
    · exact h
  · exact h

theorem State.Holds.putLine {f : Nat → Byte} (h : s.Holds f) (c : CacheLine) : (s.putLine c).Holds f := by
  unfold State.putLine
  split <;> exact h

/-- The other holders of a line have nothing dirty. -/
def State.OthersClean (s : State) (h : Holder) (line : Nat) : Prop := ∀ x ∈ s.caches, x.line = line → x.holder ≠ h → x.dirty = 0

theorem State.Holds.expel {f : Nat → Byte} {h : Holder} (hf : s.Holds f) (hc : s.OthersClean h line) :
    (s.expel h line).Holds f ∧ (s.expel h line).OthersClean h line := by
  unfold State.expel
  have hclean : ∀ x ∈ s.caches.filter (fun c => c.line = line && c.state ≠ .plain && c.state ≠ .l && c.holder ≠ h), x.dirty = 0 := by
    intro x hx
    simp only [List.mem_filter, Bool.and_eq_true, decide_eq_true_eq] at hx
    exact hc x hx.1 hx.2.1.1.1 hx.2.2
  generalize s.caches.filter (fun c => c.line = line && c.state ≠ .plain && c.state ≠ .l && c.holder ≠ h) = xs at hclean
  induction xs generalizing s with
  | nil => exact ⟨hf, hc⟩
  | cons x r ih =>
    obtain ⟨hx, hr⟩ := List.forall_mem_cons.1 hclean
    rw [List.foldl_cons, mergeMoves_clean s hx]
    exact ih (s := (s.mergeBytes []).dropLine x.holder line) hf (fun y hy => hc y (List.mem_of_mem_filter hy)) hr

/-- R130, R178: a line without a region goes to its own address, byte by byte. -/
theorem State.Holds.mergeLine {f : Nat → Byte} (h : s.Holds f) (ht : c.tag = none) (hc : s.OthersClean c.holder c.line) :
    (s.mergeLine c).Holds (overLine f c.line c.data (c.dirty.getLsbD · = true)) := by
  have hlines (ls : List Nat) (hls : ∀ l ∈ ls, l = c.line) {t : State} (h : t.Holds f) (hc : t.OthersClean c.holder c.line) :
      (ls.foldl (fun t l => t.expel c.holder l) t).Holds f := by
    induction ls generalizing t with
    | nil => exact h
    | cons l r ih =>
      obtain ⟨rfl, hr⟩ := List.forall_mem_cons.1 hls
      obtain ⟨h', hc'⟩ := h.expel hc
      exact ih hr h' hc'
  have hmerged : ((List.foldl (fun t l => t.expel c.holder l) s (distinct ((s.mergeMoves c).map fun x => lineOf x.2.1))).mergeBytes
      (s.mergeMoves c)).Holds (overLine f c.line c.data (c.dirty.getLsbD · = true)) := by
    have hall : ∀ l ∈ distinct ((s.mergeMoves c).map fun x => lineOf x.2.1), l = c.line := by
      intro l hl
      rw [mergeMoves_untagged s ht] at hl
      obtain ⟨x, hx, rfl⟩ := List.mem_map.1 (mem_distinct_iff.1 hl)
      obtain ⟨i, hi, rfl⟩ := List.mem_map.1 hx
      have := List.mem_range.1 (List.mem_of_mem_filter hi)
      simp only [lineOf]
      omega
    have := (hlines _ hall h hc).mergeBytes c.line c.data (is := (List.range 128).filter fun i => c.dirty.getLsbD i)
      fun i hi => List.mem_range.1 (List.mem_of_mem_filter hi)
    rw [← mergeMoves_untagged s ht] at this
    refine ⟨this.1, fun a => (this.2 a).trans ?_⟩
    simp [overLine, Nat.mod_lt]
  unfold State.mergeLine
  simp only
  split
  · exact hmerged.passCopy ..
  · exact hmerged

theorem State.Holds.writeBack {f : Nat → Byte} {h : Holder} (hf : s.Holds f) (hc : s.lineAt h line = some c) (ht : c.tag = none)
    (hclean : s.OthersClean h line) (hheld : s.lineHeld line = false) :
    (s.writeBack h line).Holds (overLine f line c.data (c.dirty.getLsbD · = true)) := by
  obtain ⟨rfl, rfl, -⟩ := lineAt_eq_some hc
  simp only [State.writeBack, hc]
  split
  · next hd => exact ⟨hf.1, fun a => (hf.2 a).trans (by simp [overLine, hd])⟩
  · rw [if_neg (by simp [hheld])]
    exact (hf.mergeLine ht hclean).putLine _

end

/-! ### Lines behind a port that is down (R158) -/

theorem lineHeld_iff {s : State} {line : Nat} : s.lineHeld line = true ↔ ∃ p, portOf (128 * line) = some p ∧ s.portDown p = true := by
  unfold State.lineHeld
  cases portOf (128 * line) <;> simp

theorem portOf_lt {a p : Nat} (h : portOf a = some p) : p < 4 := by
  unfold portOf at h
  split at h
  · cases h
    exact Nat.mod_lt _ (by decide)
  · cases h

theorem cxl_onCxl (s : State) {p : Nat} (hp : p < 4) (f : CxlPort → CxlPort) :
    (s.onCxl p f).cxl.toList[p]? = (s.cxl.toList[p]?).map f := by
  simp [State.onCxl, hp]

section
variable {s : State} {h : Holder} {line p : Nat} {c : CacheLine} {x : CxlPort}

theorem State.putLine_frame (s : State) (c : CacheLine) : s.putLine c = { s with caches := (s.putLine c).caches } := by
  unfold State.putLine
  split <;> rfl

theorem writeBack_held (hc : s.lineAt h line = some c) (hd : c.dirty ≠ 0) (hp : portOf (128 * line) = some p)
    (hdown : s.portDown p = true) (hx : s.cxl.toList[p]? = some x) : s.writeBack h line =
      if x.buffer.length < 4096 then (s.onCxl p fun y => { y with buffer := y.buffer ++ [c] }).putLine { c with dirty := 0 } else s := by
  obtain ⟨rfl, rfl, -⟩ := lineAt_eq_some hc
  simp only [State.writeBack, hc, if_neg hd, if_pos (lineHeld_iff.2 ⟨p, hp, hdown⟩), State.holdBack, hp, hx, Option.map_some, Option.getD_some]

/-- The line of a holder as a write-back leaves it: clean, or as it was where its port is down (R130, R158). -/
theorem lineAt_writeBack {l : Nat} (hc : s.lineAt h line = some c) : ∃ x, (s.writeBack h l).lineAt h line = some x ∧
    (x = c ∨ x = { c with dirty := 0 }) ∧ (l = line → s.lineHeld line = false → x = { c with dirty := 0 }) := by
  by_cases hl : l = line
  · subst hl
    by_cases hheld : s.lineHeld l = true
    · obtain ⟨p, hp, hdown⟩ := lineHeld_iff.1 hheld
      suffices h' : ∃ x, (s.writeBack h l).lineAt h l = some x ∧ (x = c ∨ x = { c with dirty := 0 }) by
        obtain ⟨x, hx, hor⟩ := h'
        exact ⟨x, hx, hor, fun _ hno => absurd hheld (by simp [hno])⟩
      obtain ⟨rfl, rfl, -⟩ := lineAt_eq_some hc
      simp only [State.writeBack, hc, if_pos hheld, State.holdBack, hp]
      split
      · exact ⟨c, hc, .inl rfl⟩
      · split
        · exact ⟨_, (lineAt_putLine ..).trans (if_pos ⟨rfl, rfl⟩), .inr rfl⟩
        · exact ⟨c, hc, .inl rfl⟩
    · exact ⟨_, lineAt_writeBack_same hc (Bool.eq_false_iff.2 hheld), .inr rfl, fun _ _ => rfl⟩
  · exact ⟨c, (lineAt_writeBack_ne s h l fun e => hl e.symm).trans hc, .inl rfl, fun e => absurd e hl⟩

theorem giveUp_of_free (hheld : s.lineHeld line = false) : s.giveUp h line = (s.writeBack h line).dropLine h line := by
  unfold State.giveUp
  refine if_neg ?_
  cases hc : s.lineAt h line with
  | none => simp [State.writeBack, hc]
  | some c => simp [lineAt_writeBack_same hc hheld]

end

/-! ### Lines that several operations leave a cache with -/

section
variable {s : State} {h : Holder} {line : Nat} {c x : CacheLine}

theorem mem_putLine (hx : x ∈ (s.putLine c).caches) : x = c ∨ (x ∈ s.caches ∧ ¬(x.holder = c.holder ∧ x.line = c.line)) := by
  unfold State.putLine at hx
  split at hx
  · obtain ⟨y, hy, rfl⟩ := List.mem_map.1 hx
    split
    · exact .inl rfl
    · next hne => exact .inr ⟨hy, by simpa using hne⟩
  · next hhas =>
    refine (List.mem_append.1 hx).symm.imp (fun h => List.mem_singleton.1 h) fun hx => ⟨hx, fun hkey => hhas ?_⟩
    exact List.find?_isSome.2 ⟨x, hx, by simp [hkey]⟩

theorem mem_dropLine : x ∈ (s.dropLine h line).caches ↔ x ∈ s.caches ∧ ¬(x.holder = h ∧ x.line = line) := by
  simp only [State.dropLine, List.mem_filter, Bool.not_eq_true', Bool.and_eq_false_iff, decide_eq_false_iff_not, not_and_or]

theorem mem_expel (hx : x ∈ (s.expel h line).caches) : x ∈ s.caches := by
  unfold State.expel at hx
  generalize s.caches.filter (fun c => c.line = line && c.state ≠ .plain && c.state ≠ .l && c.holder ≠ h) = xs at hx
  induction xs generalizing s with
  | nil => exact hx
  | cons y r ih => exact caches_mergeBytes s _ ▸ (mem_dropLine.1 (ih hx)).1

/-- A holder has an L copy of a line. -/
def State.HasL (s : State) (line : Nat) (h : Holder) : Prop := ∃ x ∈ s.caches, x.line = line ∧ x.state = .l ∧ x.holder = h

theorem State.HasL.of_passCopy {core : Nat} (hL : (s.passCopy core c).HasL line h) : s.HasL line h := by
  unfold State.passCopy at hL
  split at hL
  · next l hl =>
    split at hL
    · next hst =>
      obtain ⟨x, hx, hline, hstate, hholder⟩ := hL
      obtain rfl | ⟨hx, -⟩ := mem_putLine hx
      · exact ⟨l, (lineAt_eq_some hl).2.2, hline, hst, hholder⟩
      · exact ⟨x, hx, hline, hstate, hholder⟩
    · exact hL
  · exact hL

theorem State.HasL.of_mergeLine (hL : (s.mergeLine c).HasL line h) : s.HasL line h := by
  have hmerged (ls : List Nat) (xs) {t : State} (hL : ((ls.foldl (fun t l => t.expel c.holder l) t).mergeBytes xs).HasL line h) :
      t.HasL line h := by
    obtain ⟨x, hx, hkey⟩ := hL
    rw [caches_mergeBytes] at hx
    refine ⟨x, ?_, hkey⟩
    clear hkey
    induction ls generalizing t with
    | nil => exact hx
    | cons l r ih => exact mem_expel (ih hx)
  unfold State.mergeLine at hL
  simp only at hL
  split at hL
  · exact hmerged _ _ hL.of_passCopy
  · exact hmerged _ _ hL

/-- An L copy given up has ended, and no other begins (R177). -/
theorem State.HasL.of_giveUp {h' : Holder} (hheld : s.lineHeld line = false) (hL : (s.giveUp h' line).HasL line h) :
    s.HasL line h ∧ h ≠ h' := by
  rw [giveUp_of_free hheld] at hL
  obtain ⟨x, hx, hline, hstate, rfl⟩ := hL
  obtain ⟨hx, hne⟩ := mem_dropLine.1 hx
  have hne : x.holder ≠ h' := fun e => hne ⟨e, hline⟩
  refine ⟨?_, hne⟩
  unfold State.writeBack at hx
  split at hx
  · exact ⟨x, hx, hline, hstate, rfl⟩
  · next c hc =>
    split at hx
    · exact ⟨x, hx, hline, hstate, rfl⟩
    · rw [if_neg (by simp [hheld])] at hx
      obtain rfl | ⟨hx, -⟩ := mem_putLine hx
      · exact absurd (lineAt_eq_some hc).1 hne
      · exact State.HasL.of_mergeLine ⟨x, hx, hline, hstate, rfl⟩

/-- R177: every L copy of a line has ended. -/
theorem not_hasL_endLineL (hheld : s.lineHeld line = false) (h : Holder) : ¬(s.endLineL line).HasL line h := by
  have hfold (cs : List CacheLine) {t : State} (ht : t.lineHeld line = false)
      (hL : (cs.foldl (fun t c => t.giveUp c.holder line) t).HasL line h) : t.HasL line h ∧ ∀ c ∈ cs, h ≠ c.holder := by
    induction cs generalizing t with
    | nil => exact ⟨hL, fun c hc => absurd hc List.not_mem_nil⟩
    | cons c r ih =>
      obtain ⟨hL, hr⟩ := ih ((lineHeld_of_aside (aside_giveUp ..) line).trans ht) hL
      obtain ⟨hL, hne⟩ := hL.of_giveUp ht
      exact ⟨hL, List.forall_mem_cons.2 ⟨hne, hr⟩⟩
  intro hL
  obtain ⟨⟨x, hx, hline, hstate, hholder⟩, hne⟩ := hfold _ hheld hL
  exact hne x (by simp [State.tracked, hx, hline, hstate]) hholder.symm

/-! ### A walk of a cache (R130) -/

theorem lineAt_walk (ls : List Nat) (hc : s.lineAt h line = some c) :
    ∃ x, (ls.foldl (fun t l => t.writeBack h l) s).lineAt h line = some x ∧ (x = c ∨ x = { c with dirty := 0 }) ∧
      (line ∈ ls → s.lineHeld line = false → x = { c with dirty := 0 }) := by
  induction ls generalizing s c with
  | nil => exact ⟨c, hc, .inl rfl, fun hm => absurd hm List.not_mem_nil⟩
  | cons l r ih =>
    obtain ⟨y, hy, hkept, hclean⟩ := lineAt_writeBack (l := l) hc
    obtain ⟨x, hx, hkept', hclean'⟩ := ih hy
    refine ⟨x, hx, ?_, fun hm hheld => ?_⟩
    · obtain rfl | rfl := hkept
      · exact hkept'
      · exact .inr (hkept'.elim id id)
    · obtain rfl | hm := List.mem_cons.1 hm
      · obtain rfl := hclean rfl hheld
        exact hkept'.elim id id
      · have hx := hclean' hm ((lineHeld_of_aside (aside_writeBack ..) line).trans hheld)
        obtain rfl | rfl := hkept <;> exact hx

end

/-! ### A snoop of one half of a line (R156) -/

/-- The bytes of a half. -/
def halfMask (k : Nat) : BitVec 128 := 0xFFFFFFFFFFFFFFFF <<< (64 * k)

theorem getLsbD_halfMask : ∀ k < 2, ∀ i < 128, (halfMask k).getLsbD i = decide (i / 64 = k) := by decide

/-- What is left of a copy whose half the host recalls. -/
def CacheLine.snooped (c : CacheLine) (k : Nat) : CacheLine := { c with dirty := c.dirty &&& ~~~halfMask k }.withoutHalf k

/-- One copy gives up a half. -/
def State.snoopCopy (k : Nat) (s : State) (c : CacheLine) : State :=
  let u := s.mergeBytes (s.mergeMoves { c with dirty := c.dirty &&& halfMask k })
  if (c.snooped k).halves = 0 then u.dropLine c.holder c.line else u.putLine (c.snooped k)

/-- The copies of a line in the order in which they give up their halves. -/
def State.snoopOrder (s : State) (line : Nat) : List CacheLine :=
  let copies := s.caches.filter fun c => c.line = line
  (copies.filter fun c => c.state ≠ .plain) ++ copies.filter fun c => c.state = .plain

theorem mem_snoopOrder {s : State} {line : Nat} {x : CacheLine} : x ∈ s.snoopOrder line ↔ x ∈ s.caches ∧ x.line = line := by
  simp only [State.snoopOrder, List.mem_append, List.mem_filter, decide_eq_true_eq]
  by_cases hx : x.state = .plain <;> simp [hx]

section
variable {s : State} {line k : Nat} {c x : CacheLine}

theorem State.snoop_of_untouched (h : s.lineHeld line = true ∨ lineOutside line = false) (hk : k < 2) : s.snoop (2 * line + k) = s := by
  have hline : (2 * line + k) / 2 = line := by omega
  unfold State.snoop
  simp only [hline]
  refine if_pos ?_
  obtain h | h := h <;> simp [h]

theorem State.snoop_eq (hheld : s.lineHeld line = false) (hout : lineOutside line = true) (hk : k < 2) :
    s.snoop (2 * line + k) = (s.snoopOrder line).foldl (State.snoopCopy k) s := by
  have hline : (2 * line + k) / 2 = line := by omega
  have hhalf : (2 * line + k) % 2 = k := by omega
  have hkeep : ∀ c ∈ s.snoopOrder line, c.line = line := fun c hc => (mem_snoopOrder.1 hc).2
  unfold State.snoop
  simp only [hline, hhalf]
  rw [if_neg (by simp [hheld, hout])]
  change (s.snoopOrder line).foldl _ s = _
  refine List.foldl_ext _ _ _ fun t c hc => ?_
  obtain rfl := hkeep c hc
  rfl

theorem CacheLine.halves_snooped (c : CacheLine) (hk : k < 2) : (c.snooped k).halves.getLsbD k = false := by
  change (c.halves &&& ~~~((1 : BitVec 2) <<< k)).getLsbD k = false
  obtain rfl | rfl : k = 0 ∨ k = 1 := by omega
  · simp
  · simp

/-- A copy after one has given up its half: the copies of that holder no longer have it. -/
theorem mem_snoopCopy (hk : k < 2) (hx : x ∈ (s.snoopCopy k c).caches) (hline : x.line = c.line) :
    x.halves.getLsbD k = false ∨ (x ∈ s.caches ∧ x.holder ≠ c.holder) := by
  unfold State.snoopCopy at hx
  simp only at hx
  split at hx
  · obtain ⟨hx, hne⟩ := mem_dropLine.1 hx
    exact .inr ⟨caches_mergeBytes s _ ▸ hx, fun e => hne ⟨e, hline⟩⟩
  · obtain rfl | ⟨hx, hne⟩ := mem_putLine hx
    · exact .inl (c.halves_snooped hk)
    · exact .inr ⟨caches_mergeBytes s _ ▸ hx, fun e => hne ⟨e, hline⟩⟩

/-- R156: no copy of the line holds the half that the host has recalled. -/
theorem halves_snoop (hheld : s.lineHeld line = false) (hout : lineOutside line = true) (hk : k < 2)
    (hx : x ∈ (s.snoop (2 * line + k)).caches) (hline : x.line = line) : x.halves.getLsbD k = false := by
  have hfold (cs : List CacheLine) (hcs : ∀ c ∈ cs, c.line = line) {t : State} (hx : x ∈ (cs.foldl (State.snoopCopy k) t).caches) :
      x.halves.getLsbD k = false ∨ (x ∈ t.caches ∧ ∀ c ∈ cs, x.holder ≠ c.holder) := by
    induction cs generalizing t with
    | nil => exact .inr ⟨hx, fun c hc => absurd hc List.not_mem_nil⟩
    | cons c r ih =>
      obtain ⟨hc, hr⟩ := List.forall_mem_cons.1 hcs
      obtain h | ⟨hx, hne⟩ := ih hr hx
      · exact .inl h
      · exact (mem_snoopCopy hk hx (hline.trans hc.symm)).imp_right fun ⟨hx, h⟩ => ⟨hx, List.forall_mem_cons.2 ⟨h, hne⟩⟩
  rw [State.snoop_eq hheld hout hk] at hx
  obtain h | ⟨hx, hne⟩ := hfold _ (fun c hc => (mem_snoopOrder.1 hc).2) hx
  · exact h
  · exact absurd rfl (hne x (mem_snoopOrder.2 ⟨hx, hline⟩))

theorem State.snoop_of_lone (hheld : s.lineHeld line = false) (hout : lineOutside line = true) (hk : k < 2)
    (hlone : s.caches.filter (fun x => x.line = line) = [c]) : s.snoop (2 * line + k) = s.snoopCopy k c := by
  have horder : s.snoopOrder line = [c] := by
    unfold State.snoopOrder
    rw [hlone]
    by_cases hc : c.state = .plain <;> simp [hc]
  rw [State.snoop_eq hheld hout hk, horder]
  rfl

theorem State.Holds.snoopCopy {f : Nat → Byte} (h : s.Holds f) (ht : c.tag = none) (k : Nat) :
    (s.snoopCopy k c).Holds (overLine f c.line c.data ((c.dirty &&& halfMask k).getLsbD · = true)) := by
  have hmoves := mergeMoves_untagged (c := { c with dirty := c.dirty &&& halfMask k }) s ht
  have hmerged := h.mergeBytes c.line c.data (is := (List.range 128).filter fun i => (c.dirty &&& halfMask k).getLsbD i)
    fun i hi => List.mem_range.1 (List.mem_of_mem_filter hi)
  unfold State.snoopCopy
  rw [hmoves]
  have hput : (s.mergeBytes (ownMoves c.line c.data ((List.range 128).filter fun i => (c.dirty &&& halfMask k).getLsbD i))).Holds
      (overLine f c.line c.data ((c.dirty &&& halfMask k).getLsbD · = true)) :=
    ⟨hmerged.1, fun a => (hmerged.2 a).trans (by simp [overLine, Nat.mod_lt])⟩
  simp only
  split
  · exact hput
  · exact hput.putLine _

theorem lineAt_snoopCopy (hx : (s.snoopCopy k c).lineAt c.holder c.line = some x) : x = c.snooped k := by
  unfold State.snoopCopy at hx
  simp only at hx
  split at hx
  · rw [lineAt_dropLine, if_pos ⟨rfl, rfl⟩] at hx
    cases hx
  · exact (Option.some.inj ((lineAt_putLine ..).symm.trans hx ▸ (if_pos ⟨rfl, rfl⟩).symm)).symm

end

end Sys2Proof.Machine
end

section
/-! ## The write-backs of a line (R130, R156, R158, R177, R178) -/

namespace Sys2Proof.Machine

section
variable {s : State} {h : Holder} {line k : Nat} {c : CacheLine}

theorem exec_writeBackMerge (hc : s.lineAt h line = some c) :
    exec (.writeBackMerge h line) s = .next (if c.state = .l then s else s.writeBack h line) := by
  change execWriteBackMerge h line s = _
  simp only [execWriteBackMerge, hc]

theorem exec_lCopyIdleExpiry (hc : s.lineAt (.cluster k) line = some c) : exec (.lCopyIdleExpiry k line) s =
    .next (if c.state = .l ∧ c.last + 65536 ≤ s.time then s.giveUp (.cluster k) line else s) := by
  change execLCopyIdleExpiry k line s = _
  by_cases hl : c.state = .l <;> simp [execLCopyIdleExpiry, State.endL, hc, hl]

/-- Some access of a line has been refused for 4,096 cc (R177). -/
def State.LateAt (s : State) (line : Nat) : Prop :=
  (∃ r ∈ s.retries, r.line = line ∧ r.since + 4096 ≤ s.time) ∨
    (∃ th ∈ s.threads, ∃ since last, th.refused = some (line, since, last) ∧ since + 4096 ≤ s.time) ∨
    ∃ p ∈ s.pending, ∃ since last, p.refused = some (line, since, last) ∧ since + 4096 ≤ s.time

theorem refusedLate_iff {x : Option (Nat × Nat × Nat)} {time : Nat} :
    x.any (fun r => decide (r.1 = line) && decide (r.2.1 + 4096 ≤ time)) = true ↔
      ∃ since last, x = some (line, since, last) ∧ since + 4096 ≤ time := by
  cases x with
  | none => simp
  | some r =>
    obtain ⟨l, since, last⟩ := r
    simp only [Option.any_some, Bool.and_eq_true, decide_eq_true_eq, Option.some.injEq, Prod.mk.injEq]
    constructor
    · rintro ⟨rfl, hlate⟩
      exact ⟨since, last, ⟨rfl, rfl, rfl⟩, hlate⟩
    · rintro ⟨_, _, ⟨rfl, rfl, rfl⟩, hlate⟩
      exact ⟨rfl, hlate⟩

/-- R177: refusals that have lasted 4,096 cc end every L copy of the line. -/
theorem exec_lCopyRetryRecall_of_late (hl : s.LateAt line) : exec (.lCopyRetryRecall line) s = .next (s.endLineL line) := by
  refine congrArg Host.Outcome.next (if_pos ?_)
  simpa only [Bool.or_eq_true, List.any_eq_true, refusedLate_iff, or_assoc, State.LateAt, Bool.and_eq_true, decide_eq_true_eq] using hl

theorem exec_lCopyRetryRecall_of_not_late (hl : ¬s.LateAt line) : exec (.lCopyRetryRecall line) s = .next s := by
  refine congrArg Host.Outcome.next (if_neg ?_)
  simpa only [Bool.or_eq_true, List.any_eq_true, refusedLate_iff, or_assoc, State.LateAt, Bool.and_eq_true, decide_eq_true_eq] using hl

theorem exec_staleLineWalk (hh : (∃ i, h = .l1 i) ∨ ∃ i, h = .cluster i) (s : State) :
    exec (.staleLineWalk h) s = .next (s.walkLines h) := by
  obtain ⟨i, rfl⟩ | ⟨i, rfl⟩ := hh <;> rfl

/-- R130: a holder's line after a walk; one with an older stamp is clean, unless its port is down. -/
theorem lineAt_walkLines (hc : s.lineAt h line = some c) : ∃ x, (s.walkLines h).lineAt h line = some x ∧
    (c.stamp ≠ s.mapGen → s.lineHeld line = false → x = { c with dirty := 0 }) := by
  obtain ⟨hh, hline, hmem⟩ := lineAt_eq_some hc
  obtain ⟨x, hx, -, hclean⟩ := lineAt_walk ((s.caches.filter fun c => c.holder = h && c.stamp ≠ s.mapGen).map (·.line)) hc
  exact ⟨x, hx, fun hstamp => hclean (List.mem_map.2 ⟨c, List.mem_filter.2 ⟨hmem, by simp [hh, hstamp]⟩, hline⟩)⟩

theorem mapGen_walkLines (s : State) (h : Holder) : (s.walkLines h).mapGen = s.mapGen := by
  have haside : (s.walkLines h).aside = s.aside := aside_foldl (fun t l => aside_writeBack t h l) _
  have hgen : (s.walkLines h).aside.mapGen = s.aside.mapGen := congrArg State.mapGen haside
  exact hgen

theorem lineOutside_iff : lineOutside line = true ↔
    isHost (128 * line) = true ∨ (isFar (128 * line) = true ∧ Config.sharedFar (frameOf (128 * line)) = true) := by
  simp [lineOutside]

end

end Sys2Proof.Machine
end

section
open Sys2Proof Sys2Proof.Machine

/-- Settles O47: what one write-back leaves of the copies and of memory, and the folds of it that recalls and walks are. -/
theorem writeBacks : Obligations.WriteBacks := by
  intro h line k s c hc held outside merged late half mine
  obtain ⟨hh, hline, hmem⟩ := lineAt_eq_some hc
  have hfree (hn : ¬held) : s.lineHeld line = false := Bool.eq_false_iff.2 fun e => hn (lineHeld_iff.1 e)
  have hk : k % 2 < 2 := Nat.mod_lt _ (by decide)
  have hmerge (hn : ¬held) {t : State} (ht : ∀ f, (s.writeBack h line).Holds f → t.Holds f) : merged t c.dirty := fun hok htag hclean =>
    (ht _ (State.Holds.writeBack ⟨hok, fun _ => rfl⟩ hc htag hclean (hfree hn))).2
  refine ⟨fun hkept => ?kept, fun hl hd p x hp hdown hx => ?buffered, fun hn hl => ?merged, fun hcl => ?expiry,
    ⟨fun hlate hn => ?recalled, fun hlate => ?unrecalled⟩, fun hcache => ?walk, fun hno => ?unsnooped, fun hn hout => ?snooped⟩
  case kept =>
    rw [exec_writeBackMerge hc]
    split
    · rfl
    · next hl => simp only [State.writeBack, hc, if_pos (hkept.resolve_left hl)]
  case buffered =>
    rw [exec_writeBackMerge hc, if_neg hl, writeBack_held hc hd hp hdown hx]
    refine ⟨fun hfull => by rw [if_neg (Nat.not_lt.2 hfull)], fun hroom => ?_⟩
    rw [if_pos hroom]
    refine ⟨_, rfl, ?_, ?_, ?_⟩
    · rw [lineAt_putLine, if_pos ⟨hh, hline⟩]
    · rw [State.putLine_frame]
      exact (cxl_onCxl s (portOf_lt hp) _).trans (congrArg (Option.map fun y : CxlPort => { y with buffer := y.buffer ++ [c] }) hx)
    · rw [State.putLine_frame]
      rfl
  case merged =>
    rw [exec_writeBackMerge hc, if_neg hl]
    exact ⟨_, rfl, lineAt_writeBack_same hc (hfree hn), hmerge hn fun _ hf => hf⟩
  case expiry =>
    subst hcl
    intro run
    have hrun : run = _ := exec_lCopyIdleExpiry hc
    refine ⟨fun hn hl hidle => ?_, fun hstays => hrun.trans (by rw [if_neg fun e => hstays.elim (fun hl => hl e.1) (Nat.not_lt.2 e.2)])⟩
    rw [if_pos ⟨hl, hidle⟩, giveUp_of_free (hfree hn)] at hrun
    refine ⟨_, hrun, ?_, hmerge hn fun _ hf => hf⟩
    rw [lineAt_dropLine, if_pos ⟨rfl, rfl⟩]
  case recalled =>
    refine ⟨_, exec_lCopyRetryRecall_of_late hlate, fun x hx hl => ?_⟩
    simp only [State.tracked, List.mem_filter, Bool.and_eq_true, decide_eq_true_eq] at hx
    exact not_hasL_endLineL (hfree hn) x.holder ⟨x, hx.1, hx.2.1, hl, rfl⟩
  case unrecalled => exact exec_lCopyRetryRecall_of_not_late hlate
  case walk =>
    obtain ⟨x, hx, hclean⟩ := lineAt_walkLines hc
    have hrun := exec_staleLineWalk (hcache.elim fun i hi => hi.imp (⟨i, ·⟩) (⟨i, ·⟩)) s
    exact ⟨_, hrun, ⟨x, hx, fun hstamp hn => hclean hstamp (hfree hn)⟩, mapGen_walkLines s h⟩
  case unsnooped =>
    refine congrArg Host.Outcome.next (State.snoop_of_untouched (hno.imp lineHeld_iff.2 fun hout => ?_) hk)
    exact Bool.eq_false_iff.2 fun e => hout (lineOutside_iff.1 e)
  case snooped =>
    have hout' := lineOutside_iff.2 hout
    refine ⟨_, rfl, fun x hx hxl => halves_snoop (hfree hn) hout' hk hx hxl, fun hlone => ?_⟩
    rw [State.snoop_of_lone (hfree hn) hout' hk hlone]
    refine ⟨fun d hd hok htag _ a => ?_, fun x hx i hi => ?_⟩
    · rw [(State.Holds.snoopCopy ⟨hok, fun _ => rfl⟩ htag (k % 2)).2 a, overLine, hline]
      have hbit : (c.dirty &&& halfMask (k % 2)).getLsbD (a % 128) = true ↔ d.getLsbD (a % 128) = true := by
        have ha : a % 128 < 128 := Nat.mod_lt _ (by decide)
        rw [hd _ ha, BitVec.getLsbD_and, getLsbD_halfMask _ hk _ ha, Bool.and_eq_true, decide_eq_true_eq]
      simp only [hbit]
    · rw [← hh, ← hline] at hx
      obtain rfl := lineAt_snoopCopy hx
      change (c.dirty &&& ~~~halfMask (k % 2)).getLsbD i = true ↔ _
      rw [BitVec.getLsbD_and, BitVec.getLsbD_not, getLsbD_halfMask _ hk _ hi]
      simp [hi, mine]

end

section
/-! ## The scores of layouts and the end of a window (R121 to R124, R137) -/

namespace Sys2Proof.Machine

/-! ### The candidate layout (R122) -/

section
variable {d : ObjDesc} {k current b c : Nat} {fs : List Family}

/-- The better of two candidates: the lower score, ties to the current layout and then to the lower code. -/
def better (d : ObjDesc) (k current : Nat) (fs : List Family) (b c : Nat) : Nat :=
  if scoreOf d k fs c < scoreOf d k fs b || (scoreOf d k fs c = scoreOf d k fs b && b ≠ current && c < b) then c else b

theorem better_cases (d : ObjDesc) (k current : Nat) (fs : List Family) (b c : Nat) :
    (better d k current fs b c = c ∧ (scoreOf d k fs c < scoreOf d k fs b ∨
      (scoreOf d k fs c = scoreOf d k fs b ∧ b ≠ current ∧ c < b))) ∨
    (better d k current fs b c = b ∧ scoreOf d k fs b ≤ scoreOf d k fs c ∧
      (scoreOf d k fs c = scoreOf d k fs b → b = current ∨ b ≤ c)) := by
  unfold better
  split
  · next h => exact .inl ⟨rfl, by simpa [and_assoc] using h⟩
  · next h =>
    simp only [Bool.or_eq_true, Bool.and_eq_true, decide_eq_true_eq, not_or, not_and, Nat.not_lt] at h
    exact .inr ⟨rfl, h.1, fun he => or_iff_not_imp_left.2 fun hb => h.2 ⟨he, hb⟩⟩

/-- What holds of the best of some candidates (R122): `cs` have been compared. -/
structure BestOf (d : ObjDesc) (k current : Nat) (fs : List Family) (cs : List Nat) (b : Nat) : Prop where
  mem : b = current ∨ b ∈ cs
  le_current : scoreOf d k fs b ≤ scoreOf d k fs current
  stays : scoreOf d k fs b = scoreOf d k fs current → b = current
  le : ∀ c ∈ cs, scoreOf d k fs b ≤ scoreOf d k fs c
  lower : ∀ c ∈ cs, scoreOf d k fs c = scoreOf d k fs b → b = current ∨ b ≤ c

theorem BestOf.start (d : ObjDesc) (k current : Nat) (fs : List Family) : BestOf d k current fs [] current :=
  ⟨.inl rfl, le_rfl, fun _ => rfl, fun _ h => absurd h List.not_mem_nil, fun _ h => absurd h List.not_mem_nil⟩

theorem BestOf.next {cs : List Nat} (h : BestOf d k current fs cs b) (c : Nat) :
    BestOf d k current fs (cs ++ [c]) (better d k current fs b c) := by
  obtain ⟨hmem, hcur, hstays, hle, hlower⟩ := h
  obtain ⟨he, hbetter⟩ | ⟨he, hkept, htie⟩ := better_cases d k current fs b c <;> rw [he]
  · have hcb : scoreOf d k fs c ≤ scoreOf d k fs b := hbetter.elim le_of_lt fun h => h.1.le
    refine ⟨.inr (by simp), hcb.trans hcur, fun heq => ?_, fun x hx => ?_, fun x hx heq => ?_⟩
    · obtain hlt | ⟨hsame, hb, -⟩ := hbetter
      · omega
      · exact absurd (hstays (by omega)) hb
    · obtain hx | hx := List.mem_append.1 hx
      · exact hcb.trans (hle x hx)
      · exact (List.mem_singleton.1 hx).symm ▸ le_rfl
    · obtain hx | hx := List.mem_append.1 hx
      · have hbx := hle x hx
        obtain hlt | ⟨hsame, hb, hcb⟩ := hbetter
        · omega
        · have hle := (hlower x hx (by omega)).resolve_left hb
          exact .inr (by omega)
      · exact .inr (List.mem_singleton.1 hx).ge
  · refine ⟨hmem.imp_right (List.mem_append_left _), hcur, hstays, fun x hx => ?_, fun x hx heq => ?_⟩
    · obtain hx | hx := List.mem_append.1 hx
      · exact hle x hx
      · exact (List.mem_singleton.1 hx).symm ▸ hkept
    · obtain hx | hx := List.mem_append.1 hx
      · exact hlower x hx heq
      · obtain rfl := List.mem_singleton.1 hx
        exact htie heq

theorem bestOf_spec (d : ObjDesc) (k current : Nat) (fs : List Family) :
    BestOf d k current fs ((List.range 64).filter (d.eligible k)) (bestOf d k current fs) := by
  have hfold (cs ds : List Nat) {b : Nat} (h : BestOf d k current fs cs b) :
      BestOf d k current fs (cs ++ ds) (ds.foldl (better d k current fs) b) := by
    induction ds generalizing cs b with
    | nil => exact (List.append_nil cs).symm ▸ h
    | cons c r ih => exact List.append_cons cs c r ▸ ih _ (h.next c)
  exact hfold [] _ (.start d k current fs)

end

/-! ### The compromise of a contest (R123) -/

theorem compromise_cases (d : ObjDesc) (k : Nat) :
    (compromise d k = 0x0E ∧ d.eligible k 0x0E = true) ∨
    (compromise d k = 0x0A ∧ d.eligible k 0x0A = true ∧ d.eligible k 0x0E = false) ∨
    (compromise d k = 0x06 ∧ d.eligible k 0x06 = true ∧ d.eligible k 0x0E = false ∧ d.eligible k 0x0A = false) ∨
    (compromise d k = 0x02 ∧ d.eligible k 0x02 = true ∧ d.eligible k 0x0E = false ∧ d.eligible k 0x0A = false ∧ d.eligible k 0x06 = false) ∨
    (compromise d k = 0 ∧ d.eligible k 0x0E = false ∧ d.eligible k 0x0A = false ∧ d.eligible k 0x06 = false ∧ d.eligible k 0x02 = false) := by
  unfold compromise
  cases h1 : d.eligible k 0x0E
  · cases h2 : d.eligible k 0x0A
    · cases h3 : d.eligible k 0x06
      · cases h4 : d.eligible k 0x02 <;> simp [h1, h2, h3, h4]
      · simp [h1, h2, h3]
    · simp [h1, h2]
  · simp [h1]

theorem rules_layoutScores : Rules.LayoutScores := by
  intro d k current fs b
  have hb := bestOf_spec d k current fs
  have hmem {c : Nat} : c ∈ (List.range 64).filter (d.eligible k) ↔ c < 64 ∧ d.eligible k c = true := by simp
  refine ⟨hb.mem.imp_right hmem.1, hb.le_current, hb.stays, fun c hc he => ?candidates, ?compromise⟩
  case candidates => exact ⟨hb.le c (hmem.2 ⟨hc, he⟩), hb.lower c (hmem.2 ⟨hc, he⟩)⟩
  case compromise =>
    rintro _ rfl
    obtain ⟨he, h⟩ | ⟨he, h⟩ | ⟨he, h⟩ | ⟨he, h⟩ | ⟨he, h⟩ := compromise_cases d k <;> rw [he] <;> simp [h]

/-! ### The end of a window (R121, R123, R124, R137) -/

theorem windowRegions_eq (s : State) : s.windowRegions =
    s.regions ++ (s.tracks.filter fun x => s.regions.all fun r => r.id ≠ x.region).filterMap fun x =>
      (s.objDesc x.region.part x.region.object).map fun d => s.newRegion x.region d := by
  have hnew (x : Track) : (!s.regions.any fun r => decide (r.id = x.region)) = s.regions.all fun r => r.id ≠ x.region := by
    rw [List.not_any_eq_all_not]
    simp
  simp only [State.windowRegions, hnew]

/-- The regions that a track names and that can move. -/
def State.tracksMovable (s : State) (x : Track) : Bool :=
  match s.objDesc x.region.part x.region.object with
  | some d => s.movable d x.region.region
  | none => false

theorem State.tracksMovable_iff {s : State} {x : Track} : s.tracksMovable x = true ↔
    ∃ d, s.objDesc x.region.part x.region.object = some d ∧ s.movable d x.region.region = true := by
  unfold State.tracksMovable
  cases s.objDesc x.region.part x.region.object <;> simp

/-- The monitors of the regions that can move, started afresh. -/
def State.freshTracks (s : State) : State := { s with tracks := (s.tracks.filter s.tracksMovable).map Track.fresh }

theorem State.windowEnd_eq (s : State) : s.windowEnd =
    let t : State := { s with window := s.window + 1, claimed := 0 }
    (t.windowRegions.foldl State.windowRegion t).freshTracks := rfl

theorem rules_windowEnds : Rules.WindowEnds := by
  intro s t fresh u
  refine ⟨fun hearly => congrArg Host.Outcome.next (if_neg (Nat.not_le.2 hearly)), fun hdue => ?_⟩
  have hregions : t.windowRegions = s.regions ++ fresh := windowRegions_eq t
  have hend : s.windowEnd = u.freshTracks := 
    s.windowEnd_eq.trans (congrArg (fun l : List Region => (l.foldl State.windowRegion t).freshTracks) hregions)
  refine ⟨_, congrArg Host.Outcome.next ((if_pos hdue).trans hend), fun x => ?_⟩
  simp only [List.mem_map, List.mem_filter, State.tracksMovable_iff, Track.fresh, and_assoc]
  exact exists_congr fun y => and_congr_right fun _ => by rw [and_comm, eq_comm]

end Sys2Proof.Machine
end

section
/-! ## A region's turn at the end of a window (R123, R124) -/

namespace Sys2Proof.Machine

/-! ### A region kept -/

section
variable (s : State) (r : Region)

theorem region?_setRegion : (s.setRegion r).region? r.id = some r := by
  unfold State.setRegion
  split
  · next h =>
    obtain ⟨x, hx⟩ := Option.isSome_iff_exists.1 h
    have hkeep : (fun x : Region => decide (x.id = r.id)) ∘ (fun x => if x.id = r.id then r else x) =
        fun x => decide (x.id = r.id) := by
      funext x
      by_cases hx : x.id = r.id <;> simp [hx]
    simp only [State.region?] at hx
    simp only [State.region?, List.find?_map, hkeep, hx, Option.map_some, if_pos (region?_id (s := s) hx)]
  · next h =>
    have hnone : s.region? r.id = none := Option.not_isSome_iff_eq_none.1 h
    simp only [State.region?] at hnone
    simp [State.region?, hnone]

theorem State.setRegion_frame : s.setRegion r = { s with regions := (s.setRegion r).regions } := by
  unfold State.setRegion
  split <;> rfl

variable (d : ObjDesc)

/-- What a change of its own record leaves of the facts on which a region's change depends. -/
theorem setRegion_conditions : (∀ k, (s.setRegion r).movable d k = s.movable d k) ∧ (∀ x n, (s.setRegion r).cooled x n = s.cooled x n) ∧
    (∀ id, (s.setRegion r).regionHeld id d = s.regionHeld id d) ∧ (s.setRegion r).budget = s.budget ∧
    (s.setRegion r).claimed = s.claimed ∧ ∀ f, (s.setRegion r).extWord d f = s.extWord d f := by
  rw [State.setRegion_frame]
  exact ⟨fun _ => rfl, fun _ _ => rfl, fun _ => rfl, rfl, rfl, fun _ => rfl⟩

/-- R123: so many windows have passed since a region's last change, if it has had one. -/
def State.Rested (s : State) (r : Region) (n : Nat) : Prop := ∀ m, r.lastChange = some m → n ≤ s.window - m

theorem State.cooled_iff (n : Nat) : s.cooled r n = true ↔ s.Rested r n := by
  unfold State.cooled State.sinceChange State.Rested
  cases r.lastChange <;> simp

end

/-! ### The start of a change (R124) -/

/-- What R124 asks before a region's change starts, its free frames apart. -/
def State.MayStart (s : State) (r : Region) (d : ObjDesc) : Prop :=
  s.movable d r.id.region = true ∧ s.Rested r 8 ∧ s.regionHeld r.id d = false ∧
    s.claimed + 524288 ≤ 1088000 * popBits 512 s.channels.toNat / 512

/-- The sites of a region's frames. -/
def State.sites (s : State) (r : Region) (d : ObjDesc) : List Nat := (d.regionFrames r.id.region).map fun f => extFrame (s.extWord d f)

/-- A region as its change to a layout begins. -/
def Region.started (r : Region) (code : Nat) (pin : Bool) (new : List Nat) : Region :=
  { r with
    state := .retiling, from' := r.state, target := code, newFrames := new, done := 0, busy := none
    request := none, streak := none, rivals := [], pinPending := if pin then some code else r.pinPending }

section
variable {s : State} {r : Region} {d : ObjDesc}

theorem mayStart_iff : (!s.movable d r.id.region || !s.cooled r 8 || decide (s.budget < s.claimed + Config.retileClaim)
    || s.regionHeld r.id d) = false ↔ s.MayStart r d := by
  rw [State.MayStart, ← State.cooled_iff]
  simp only [Bool.or_eq_false_iff, Bool.not_eq_false', decide_eq_false_iff_not, Nat.not_lt, and_assoc]
  exact and_congr_right fun _ => and_congr_right fun _ => and_comm

theorem startRetile_of_held (code : Nat) (pin : Bool)
    (h : r.state = .retiling ∨ ¬s.MayStart r d ∨ (s.setRegion r).takeSites r.id.part (s.sites r d) = none) :
    (s.setRegion r).startRetile r d code pin = s.setRegion r := by
  obtain ⟨hmov, hcool, hheld, hbudget, hclaim, hext⟩ := setRegion_conditions s r d
  unfold State.startRetile
  simp only [hmov, hcool, hheld, hbudget, hclaim, hext]
  split
  · rfl
  · next hgo =>
    rw [Bool.not_eq_true, Bool.or_assoc, Bool.or_assoc, Bool.or_assoc, Bool.or_eq_false_iff, ← Bool.or_assoc, ← Bool.or_assoc, mayStart_iff,
      decide_eq_false_iff_not] at hgo
    have hnone := (h.resolve_left hgo.1).resolve_left (not_not.2 hgo.2)
    unfold State.sites at hnone
    simp only [hnone]

theorem startRetile_of_may (code : Nat) (pin : Bool) (hst : r.state ≠ .retiling) (hmay : s.MayStart r d) {u : State} {new : List Nat}
    (hsites : (s.setRegion r).takeSites r.id.part (s.sites r d) = some (u, new)) : (s.setRegion r).startRetile r d code pin =
      { u.setRegion (r.started code pin new) with claimed := u.claimed + 524288 } := by
  obtain ⟨hmov, hcool, hheld, hbudget, hclaim, hext⟩ := setRegion_conditions s r d
  unfold State.startRetile
  simp only [hmov, hcool, hheld, hbudget, hclaim, hext]
  rw [if_neg]
  · unfold State.sites at hsites
    simp only [hsites]
    rfl
  · rw [Bool.not_eq_true, Bool.or_assoc, Bool.or_assoc, Bool.or_assoc, Bool.or_eq_false_iff, ← Bool.or_assoc, ← Bool.or_assoc, mayStart_iff,
      decide_eq_false_iff_not]
    exact ⟨hst, hmay⟩

end

/-! ### What a turn makes of the region that it has judged -/

/-- A region judged at the end of a window (R123). -/
def State.judged (s : State) (r : Region) (d : ObjDesc) : Region :=
  match r.state, s.track? r.id with
  | .stable, some t => if s.movable d r.id.region then scoreRegion s d r t else r.still
  | .contested, _ => if 1024 ≤ s.window - r.contestSince then { r.still.settled with state := .stable } else r
  | _, _ => r.still

/-- The change that waits for a region, or the contest that moves it, begun where R124 allows. -/
def State.begun (s : State) (r : Region) (d : ObjDesc) : State :=
  match r.request with
  | some (code, pin) => (s.setRegion r).startRetile r d code pin
  | none =>
    match r.state, r.contest with
    | .contested, some c => if c ≠ r.layout && (s.setRegion r).cooled r 64 then (s.setRegion r).startRetile r d c false else s.setRegion r
    | _, _ => s.setRegion r

theorem windowRegion_eq {s : State} {r : Region} {d : ObjDesc} (hd : s.objDesc r.id.part r.id.object = some d) :
    s.windowRegion r = s.begun (s.judged r d) d := by
  unfold State.windowRegion
  simp only [hd]
  rfl

section
variable {s : State} {r : Region} {d : ObjDesc}

theorem begun_of_request {code : Nat} {pin : Bool} (h : r.request = some (code, pin)) :
    s.begun r d = (s.setRegion r).startRetile r d code pin := by
  simp only [State.begun, h]

theorem begun_of_contest {c : Nat} (hq : r.request = none) (hs : r.state = .contested) (hc : r.contest = some c) (hl : c ≠ r.layout)
    (hrest : s.Rested r 64) : s.begun r d = (s.setRegion r).startRetile r d c false := by
  obtain ⟨-, hcool, -⟩ := setRegion_conditions s r d
  simp only [State.begun, hq, hs, hc, hcool, (s.cooled_iff r 64).2 hrest]
  exact if_pos (by simp [hl])

theorem begun_of_waits (hq : r.request = none)
    (hno : ¬(r.state = .contested ∧ ∃ c, r.contest = some c ∧ c ≠ r.layout ∧ s.Rested r 64)) : s.begun r d = s.setRegion r := by
  obtain ⟨-, hcool, -⟩ := setRegion_conditions s r d
  simp only [State.begun, hq]
  split
  · next c hs hc =>
    refine if_neg fun hgo => hno ⟨hs, c, hc, ?_⟩
    rw [Bool.and_eq_true, decide_eq_true_eq, hcool, s.cooled_iff] at hgo
    exact hgo
  · rfl

theorem judged_of_stable {t : Track} (hs : r.state = .stable) (ht : s.track? r.id = some t) :
    s.judged r d = if s.movable d r.id.region = true then scoreRegion s d r t else r.still := by
  simp only [State.judged, hs, ht]

theorem judged_of_untracked (hs : r.state = .stable) (ht : s.track? r.id = none) : s.judged r d = r.still := by
  simp only [State.judged, hs, ht]

theorem judged_of_contested (hs : r.state = .contested) : s.judged r d =
    if 1024 ≤ s.window - r.contestSince then { r.still.settled with state := .stable } else r := by
  simp only [State.judged, hs]

theorem judged_of_busy (hs : r.state = .retiling ∨ r.state = .pinned) : s.judged r d = r.still := by
  obtain hs | hs := hs <;> simp only [State.judged, hs]

end

/-! ### A stable region judged (R123) -/

/-- A best candidate scores at most 70 percent of the layout. -/
def GainsOver (d : ObjDesc) (r : Region) (t : Track) : Prop :=
  let best := bestOf d r.id.region r.layout t.families
  best ≠ r.layout ∧ 10 * scoreOf d r.id.region t.families best ≤ 7 * scoreOf d r.id.region t.families r.layout

/-- The streak of a region after a window. -/
def streakAfter (d : ObjDesc) (r : Region) (t : Track) : Option (Nat × Nat) :=
  let best := bestOf d r.id.region r.layout t.families
  if best ≠ r.layout && decide (10 * scoreOf d r.id.region t.families best ≤ 7 * scoreOf d r.id.region t.families r.layout) then
    some (best, match r.streak with
      | some (c, n) => if c = best then n + 1 else 1
      | none => 1)
  else none

section
variable {s : State} {r : Region} {d : ObjDesc} {t : Track}

theorem streakAfter_of_not_gains (h : ¬GainsOver d r t) : streakAfter d r t = none :=
  if_neg (by simpa [GainsOver] using h)

theorem streakAfter_of_gains (h : GainsOver d r t) : ∃ n, streakAfter d r t = some (bestOf d r.id.region r.layout t.families, n) ∧
    (∀ c m, r.streak = some (c, m) → n = if c = bestOf d r.id.region r.layout t.families then m + 1 else 1) ∧ (r.streak = none → n = 1) := by
  refine ⟨_, if_pos (by simpa [GainsOver] using h), fun c m hc => ?_, fun hn => ?_⟩
  · rw [hc]
  · rw [hn]

theorem mem_contestPairs {x : (Int × Int) × Nat} {k current : Nat} {old : List ((Int × Int) × Nat)} :
    x ∈ contestPairs d k current t old ↔ ∃ f g : Family,
      (f ∈ t.families ∧ t.total ≠ 0 ∧ t.total ≤ 4 * f.bytes) ∧ (g ∈ t.families ∧ t.total ≠ 0 ∧ t.total ≤ 4 * g.bytes) ∧
      f.stride < g.stride ∧ bestOf d k current [f] ≠ bestOf d k current [g] ∧
      x = ((f.stride, g.stride), ((old.find? fun y => y.1 = (f.stride, g.stride)).map (·.2)).getD 0 + 1) := by
  simp only [contestPairs, List.mem_flatMap, List.mem_map, List.mem_filter, Bool.and_eq_true, decide_eq_true_eq, ne_eq]
  constructor
  · rintro ⟨f, ⟨hf, hfb, hft⟩, g, ⟨⟨hg, hgb, hgt⟩, hlt, hne⟩, rfl⟩
    exact ⟨f, g, ⟨hf, hft, hfb⟩, ⟨hg, hgt, hgb⟩, hlt, hne, rfl⟩
  · rintro ⟨f, g, ⟨hf, hft, hfb⟩, ⟨hg, hgt, hgb⟩, hlt, hne, rfl⟩
    exact ⟨f, ⟨hf, hfb, hft⟩, g, ⟨⟨hg, hgb, hgt⟩, hlt, hne⟩, rfl⟩

/-- The pairs that rival in a region after a window. -/
def rivalsAfter (d : ObjDesc) (r : Region) (t : Track) : List ((Int × Int) × Nat) := contestPairs d r.id.region r.layout t r.rivals

theorem scoreRegion_of_contest (h : ∃ x ∈ rivalsAfter d r t, 4 ≤ x.2) : scoreRegion s d r t =
    { r with
      state := .contested, target := compromise d r.id.region, contest := some (compromise d r.id.region), contestSince := s.window
      rivals := [], streak := if r.request.isSome then r.streak else none } :=
  if_pos (by simpa [rivalsAfter] using h)

theorem scoreRegion_of_waiting (h : ¬∃ x ∈ rivalsAfter d r t, 4 ≤ x.2) (hq : r.request.isSome = true) :
    scoreRegion s d r t = { r with rivals := rivalsAfter d r t } :=
  (if_neg (by simpa [rivalsAfter] using h)).trans (if_pos hq)

/-- A streak asks for a change: its fourth window, and 64 windows of rest. -/
def State.StreakDue (s : State) (d : ObjDesc) (r : Region) (t : Track) : Prop :=
  ∃ n, streakAfter d r t = some (bestOf d r.id.region r.layout t.families, n) ∧ 4 ≤ n ∧ s.Rested r 64

theorem scoreRegion_of_no_contest (h : ¬∃ x ∈ rivalsAfter d r t, 4 ≤ x.2) (hq : r.request = none) : scoreRegion s d r t =
    if ((streakAfter d r t).any fun x => decide (4 ≤ x.2) && s.cooled r 64) = true then { r with
      streak := streakAfter d r t, rivals := rivalsAfter d r t, request := some (bestOf d r.id.region r.layout t.families, false) }
    else { r with streak := streakAfter d r t, rivals := rivalsAfter d r t } := by
  refine (if_neg (by simpa [rivalsAfter] using h)).trans ((if_neg (by simp [hq])).trans (if_congr ?_ rfl rfl))
  change (match streakAfter d r t with | some (_, n) => decide (4 ≤ n) && s.cooled r 64 | none => false) = true ↔ _
  cases streakAfter d r t <;> rfl

theorem streakDue_iff : s.StreakDue d r t ↔ ((streakAfter d r t).any fun x => decide (4 ≤ x.2) && s.cooled r 64) = true := by
  unfold State.StreakDue
  rw [← State.cooled_iff]
  by_cases hg : GainsOver d r t
  · obtain ⟨n, hn, -⟩ := streakAfter_of_gains hg
    simp [hn]
  · simp [streakAfter_of_not_gains hg]

theorem scoreRegion_of_due (h : ¬∃ x ∈ rivalsAfter d r t, 4 ≤ x.2) (hq : r.request = none) (hdue : s.StreakDue d r t) :
    scoreRegion s d r t = { r with
      streak := streakAfter d r t, rivals := rivalsAfter d r t, request := some (bestOf d r.id.region r.layout t.families, false) } :=
  (scoreRegion_of_no_contest h hq).trans (if_pos (streakDue_iff.1 hdue))

theorem scoreRegion_of_not_due (h : ¬∃ x ∈ rivalsAfter d r t, 4 ≤ x.2) (hq : r.request = none) (hdue : ¬s.StreakDue d r t) :
    scoreRegion s d r t = { r with streak := streakAfter d r t, rivals := rivalsAfter d r t } :=
  (scoreRegion_of_no_contest h hq).trans (if_neg (mt streakDue_iff.2 hdue))

end

end Sys2Proof.Machine
end

section
/-! ### The turn (R123, R124) -/

namespace Sys2Proof.Machine

section
variable (s : State) (r : Region) (d : ObjDesc)

theorem scoreRegion_kept (t : Track) : (scoreRegion s d r t).id = r.id ∧ (scoreRegion s d r t).lastChange = r.lastChange := by
  by_cases hc : ∃ x ∈ rivalsAfter d r t, 4 ≤ x.2
  · rw [scoreRegion_of_contest hc]
    exact ⟨rfl, rfl⟩
  · cases hq : r.request with
    | some q => rw [scoreRegion_of_waiting hc (by rw [hq]; rfl)]; exact ⟨rfl, rfl⟩
    | none =>
      rw [scoreRegion_of_no_contest hc hq]
      split <;> exact ⟨rfl, rfl⟩

theorem judged_kept : (s.judged r d).id = r.id ∧ (s.judged r d).lastChange = r.lastChange := by
  unfold State.judged
  split
  · split
    · exact scoreRegion_kept s r d _
    · exact ⟨rfl, rfl⟩
  · split <;> exact ⟨rfl, rfl⟩
  · exact ⟨rfl, rfl⟩

end

/-- A change that starts makes the region a retiling one. -/
theorem started_region {u : State} {r : Region} {new : List Nat} {code : Nat} {pin : Bool} :
    let y := r.started code pin new
    let t : State := { u.setRegion y with claimed := u.claimed + 524288 }
    t.region? r.id = some y ∧ t.claimed = u.claimed + 524288 ∧ t.mem = u.mem := by
  refine ⟨region?_setRegion u (r.started code pin new), rfl, ?_⟩
  show (u.setRegion (r.started code pin new)).mem = u.mem
  rw [State.setRegion_frame]

theorem rules_regionTurns : Rules.RegionTurns := by
  intro s r d hd k turn rested still fs may starts becomes tracked
  have hturn : turn = s.begun (s.judged r d) d := windowRegion_eq hd
  obtain ⟨hid, hlast⟩ := judged_kept s r d
  have hmay : s.MayStart (s.judged r d) d ↔ may := by simp only [State.MayStart, State.Rested, hid, hlast]; rfl
  have hrest : ∀ n, s.Rested (s.judged r d) n ↔ rested n := fun n => by simp only [State.Rested, hlast]; rfl
  have hfs : s.sites (s.judged r d) d = fs := by simp only [State.sites, hid]; rfl
  have hstarts : ∀ x code pin, s.judged r d = x → turn = (s.setRegion x).startRetile x d code pin → starts x code pin := by
    rintro x code pin rfl hx
    refine ⟨fun h => hx.trans (startRetile_of_held code pin ?_), fun hst hm u new hu => ⟨(s.judged r d).started code pin new, ?_⟩⟩
    · rwa [hmay, hfs, hid]
    · rw [hx, startRetile_of_may code pin hst (hmay.2 hm) (by rw [hfs, hid]; exact hu), ← hid]
      obtain ⟨hy, hc, hm⟩ := started_region (u := u) (r := s.judged r d) (new := new) (code := code) (pin := pin)
      exact ⟨hy, rfl, rfl, rfl, rfl, rfl, rfl, rfl, rfl, rfl, rfl, hc, hm⟩
  have hbecomes : ∀ x, s.judged r d = x → becomes x := by
    intro x hx
    refine ⟨fun hw => ?_, fun code pin hq => hstarts x code pin hx ?_, fun c hq hs hc hl hr => hstarts x c false hx ?_⟩
    · obtain ⟨hq, hno⟩ := hw
      rw [hturn, hx]
      exact begun_of_waits hq (by simpa only [← hx, hrest] using hno)
    · rw [hturn, hx, begun_of_request hq]
    · rw [hturn, hx, begun_of_contest hq hs hc hl (by rw [← hx, hrest]; exact hr)]
  refine ⟨fun hs hno => ?_, fun t hs ht hmov => ?_, fun hs => ⟨fun h => ?_, fun h => ?_⟩, fun hs => ?_⟩
  · cases ht : s.track? r.id with
    | none => exact hbecomes _ (judged_of_untracked hs ht)
    | some t => exact hbecomes _ ((judged_of_stable hs ht).trans (if_neg (by rw [hno t ht]; decide)))
  · have hj : s.judged r d = scoreRegion s d r t := (judged_of_stable hs ht).trans (if_pos hmov)
    refine ⟨streakAfter d r t, rivalsAfter d r t, streakAfter_of_not_gains, fun hg => ?_, fun hg hn => ?_, fun x => mem_contestPairs,
      fun hc => hbecomes _ (hj.trans (scoreRegion_of_contest hc)), fun hc hq => hbecomes _ (hj.trans (scoreRegion_of_waiting hc hq)),
      fun hc hq => ⟨fun hdue => hbecomes _ (hj.trans (scoreRegion_of_due hc hq hdue)),
        fun hdue => hbecomes _ (hj.trans (scoreRegion_of_not_due hc hq hdue))⟩⟩
    · obtain ⟨n, hn, hcount, -⟩ := streakAfter_of_gains hg
      exact ⟨n, hn, hcount⟩
    · obtain ⟨n, h, -, hone⟩ := streakAfter_of_gains hg
      rw [h, hone hn]
  · exact hbecomes _ ((judged_of_contested hs).trans (if_pos h))
  · exact hbecomes _ ((judged_of_contested hs).trans (if_neg (by omega)))
  · exact hbecomes _ (judged_of_busy hs)

end Sys2Proof.Machine
end

section
/-! ## The copy of a section (R125, R126, R128)

First what the work at the homes of lines leaves of the counters that a completed change is measured by. -/

namespace Sys2Proof.Machine

/-- The mapping generation, the window, and the changes completed. -/
def State.tally (s : State) : BitVec 16 × Nat × Nat := (s.mapGen, s.window, s.changesDone)

theorem tally_of_aside {s t : State} (h : t.aside = s.aside) : t.tally = s.tally :=
  show t.aside.tally = s.aside.tally by rw [h]

theorem tally_ite {s t u : State} {c : Prop} [Decidable c] (ht : t.tally = s.tally) (hu : u.tally = s.tally) :
    (if c then t else u).tally = s.tally := by
  split <;> assumption

theorem tally_foldl {α : Type} {f : State → α → State} (hf : ∀ t x, (f t x).tally = t.tally) (l : List α) (s : State) :
    (l.foldl f s).tally = s.tally := by
  induction l generalizing s with
  | nil => rfl
  | cons x r ih => exact (ih (f s x)).trans (hf s x)

section
variable (s : State)

theorem tally_memSet (a : Nat) (b : Byte) : (s.memSet a b).tally = s.tally := tally_of_aside (aside_memSet ..)

theorem tally_giveUp (h : Holder) (line : Nat) : (s.giveUp h line).tally = s.tally := tally_of_aside (aside_giveUp ..)

theorem tally_writeBack (h : Holder) (line : Nat) : (s.writeBack h line).tally = s.tally := tally_of_aside (aside_writeBack ..)

theorem tally_putLine (c : CacheLine) : (s.putLine c).tally = s.tally := tally_of_aside (aside_putLine ..)

theorem tally_setRegion (r : Region) : (s.setRegion r).tally = s.tally := by rw [State.setRegion_frame]; rfl

theorem tally_unpoison (a n : Nat) : (s.unpoison a n).tally = s.tally := tally_ite rfl rfl

theorem tally_homeSync (line : Nat) : (s.homeSync line).tally = s.tally := by
  refine tally_ite rfl (tally_foldl (fun t c => ?_) ((s.tracked line).filter CacheLine.owned) s)
  have hwritten := tally_writeBack t c.holder line
  simp only
  split
  · exact tally_ite ((tally_putLine ..).trans hwritten) hwritten
  · exact hwritten

theorem tally_gather (line : Nat) : (s.gather line).tally = s.tally :=
  (tally_homeSync (s.endLineL line) line).trans (tally_foldl (fun t (c : CacheLine) => tally_giveUp t c.holder line) _ s)

theorem tally_homeInvalidate (line : Nat) (spare : List Holder) : (s.homeInvalidate line spare).tally = s.tally :=
  tally_foldl (fun t (c : CacheLine) => tally_giveUp t c.holder line) _ s

theorem tally_reclaim (line : Nat) : (s.reclaim line).tally = s.tally := (tally_homeInvalidate ..).trans (tally_gather ..)

theorem tally_memWrite (a n x : Nat) : (s.memWrite a n x).tally = s.tally := tally_foldl (fun t (y : Byte × Nat) => tally_memSet t (a + y.2) y.1) _ s

theorem tally_homeWrite (a n x : Nat) : (s.homeWrite a n x).tally = s.tally := (tally_memWrite ..).trans (tally_reclaim ..)

theorem tally_objWrite (part object off n x : Nat) : (s.objWrite part object off n x).tally = s.tally :=
  (tally_foldl (fun t _ => tally_memSet t _ _) _ _).trans (tally_foldl (fun t line => tally_reclaim t line) _ s)

theorem tally_poolReturn (part frame : Nat) (far : Bool) : (s.poolReturn part frame far).tally = s.tally := by
  have hsync : (s.poolSync part).tally = s.tally := tally_foldl (fun t line => tally_gather t line) _ s
  unfold State.poolReturn
  simp only
  split
  · exact hsync
  · exact (tally_objWrite ..).trans hsync

theorem tally_sendError (part : Nat) (e : ErrorInfo) : (s.sendError part e).tally = s.tally :=
  tally_ite rfl (tally_objWrite ..)

theorem tally_movePlaces (old new : List Place) : (s.movePlaces old new).tally = s.tally := by
  refine tally_foldl (fun t x => ?_) (old.zip new) s
  exact tally_ite (tally_memSet t x.2.home _) (tally_memSet t x.2.home _)

theorem tally_settleFormer (id : RegionId) : (s.settleFormer id).tally = s.tally :=
  tally_foldl (fun t (c : CacheLine) => tally_writeBack t c.holder c.line) _ s

theorem tally_moveSection (r r' : Region) (d : ObjDesc) (sec : Nat) : (s.moveSection r r' d sec).tally = s.tally := by
  refine (tally_setRegion ..).trans ((tally_foldl (fun t (_ : Nat) => tally_movePlaces t _ _) _ _).trans ?_)
  refine (tally_ite rfl (tally_foldl (fun t (p : Place) => tally_unpoison t p.home 1) _ _)).trans ?_
  exact (tally_foldl (fun t line => tally_reclaim t line) _ _).trans ((tally_setRegion ..).trans (tally_settleFormer ..))

theorem tally_wakeBank (h : Holder) : (s.wakeBank h).tally = s.tally := by
  unfold State.wakeBank
  split
  · rfl
  · exact tally_ite (tally_foldl (fun t line => tally_giveUp t h line) _ _) rfl

/-- The sweep's second part: the generations of the regions that lag. -/
def State.sweepRegions (t : State) : State := (t.regions.filter fun r => t.renewed r.generation ≠ r.generation).foldl (fun u r =>
  (u.setRegion { r with generation := u.renewed r.generation }).forgetRegion r.id) t

/-- Its third: the translations of the regions that nothing has touched. -/
def State.sweepBase (u : State) : State := if u.renewed u.baseGen = u.baseGen then u
  else u.otbInvalidate fun e => (u.region? ⟨e.part, e.object, e.frame / 4⟩).isNone

/-- Its last: the generations that no region's own follows. -/
def State.sweepGenerations (v : State) : State :=
  { v with
    baseGen := v.renewed v.baseGen
    regions := v.regions.map fun (r : Region) => { r with layoutSince := v.renewed r.layoutSince } }

theorem sweep_eq : s.sweep = s.sweepLines.sweepRegions.sweepBase.sweepGenerations := rfl

theorem tally_sweepGenerations : s.sweepGenerations.tally = s.tally := rfl

theorem tally_sweepBase : s.sweepBase.tally = s.tally := tally_ite rfl rfl

theorem tally_sweepRegions : s.sweepRegions.tally = s.tally := by
  unfold State.sweepRegions
  apply tally_foldl
  intro u r
  exact tally_setRegion u { r with generation := u.renewed r.generation }

theorem tally_sweep : s.sweep.tally = s.tally := by
  calc s.sweep.tally
    _ = s.sweepLines.sweepRegions.sweepBase.sweepGenerations.tally := by rw [sweep_eq]
    _ = s.sweepLines.sweepRegions.sweepBase.tally := tally_sweepGenerations _
    _ = s.sweepLines.sweepRegions.tally := tally_sweepBase _
    _ = s.sweepLines.tally := tally_sweepRegions s.sweepLines
    _ = s.tally := tally_foldl (fun t (c : CacheLine) => tally_giveUp t c.holder c.line) _ s

theorem tally_nextGeneration : s.nextGeneration.tally = (s.mapGen + 1, s.window, s.changesDone) := by
  have hwoken : ∀ l : List (Holder × BitVec 16), (l.foldl (fun u x => u.wakeBank x.1) s).tally = s.tally :=
    fun l => tally_foldl (fun t x => tally_wakeBank t x.1) l s
  have hnext : ∀ u : State, (if u.mapGen.toNat % 8192 = 0 then u.sweep else u).tally = u.tally := fun u => tally_ite (tally_sweep u) rfl
  refine (hnext _).trans ?_
  obtain ⟨hgen, hwindow⟩ := Prod.mk.inj (hwoken (s.sleeping.filter fun x => decide (32767 ≤ (s.mapGen - x.2).toNat)))
  exact Prod.ext (congrArg (· + 1) hgen) hwindow

end

end Sys2Proof.Machine
end

section
/-! ### Bytes and halves moved from place to place -/

namespace Sys2Proof.Machine

/-- What a place holds, as a state's home memory has it. -/
def State.atPlace (s : State) (p : Place) : Nat := takeHalf (s.memByte p.home) p.half

/-- One place's byte or half moved to another, with its poison. -/
def State.movePlace (s : State) (x : Place × Place) : State :=
  let u := s.memSet x.2.home (setHalf (s.memByte x.2.home) (BitVec.ofNat 8 (s.atPlace x.1)) x.2.half)
  if s.poisoned x.1 then { u with poison := u.poison ++ [(x.2.home, 1)] } else u

theorem movePlaces_eq (s : State) (old new : List Place) : s.movePlaces old new = (old.zip new).foldl State.movePlace s := rfl

/-- Two places share no half of a byte. -/
def Place.Apart (p q : Place) : Prop := p.home ≠ q.home ∨ ∃ h, p.half = some h ∧ q.half = some !h

theorem Place.Apart.symm {p q : Place} (h : p.Apart q) : q.Apart p := by
  obtain hne | ⟨a, hp, hq⟩ := h
  · exact .inl hne.symm
  · exact .inr ⟨!a, hq, by rw [hp, Bool.not_not]⟩

theorem Place.apart_of_key_ne {p q : Place} (hk : p.half.isSome = q.half.isSome) (hne : (p.home, p.half) ≠ (q.home, q.half)) : p.Apart q := by
  by_cases hh : p.home = q.home
  · cases hp : p.half <;> cases hq : q.half
    case none.none => exact absurd (by rw [hh, hp, hq]) hne
    case none.some => simp [hp, hq] at hk
    case some.none => simp [hp, hq] at hk
    case some.some a b =>
      refine .inr ⟨a, hp, hq.trans (congrArg some ?_)⟩
      have : a ≠ b := fun hab => hne (by rw [hh, hp, hq, hab])
      revert this; cases a <;> cases b <;> simp
  · exact .inl hh

/-! #### Halves of a byte -/

theorem takeHalf_low (b : Byte) : takeHalf b (some false) = (b &&& 0x0F).toNat := by
  rw [BitVec.toNat_and]
  exact (Nat.and_two_pow_sub_one_eq_mod b.toNat 4).symm

theorem takeHalf_high (b : Byte) : takeHalf b (some true) = (b >>> 4).toNat := by
  rw [BitVec.toNat_ushiftRight, Nat.shiftRight_eq_div_pow]
  rfl

theorem takeHalf_lt (b : Byte) (h : Bool) : takeHalf b (some h) < 16 := by
  have := b.isLt
  cases h <;> simp only [takeHalf] <;> omega

theorem takeHalf_setHalf_half (old v : Byte) (h : Bool) : takeHalf (setHalf old v (some h)) (some h) = (v &&& 0x0F).toNat := by
  cases h
  · rw [takeHalf_low]
    refine congrArg BitVec.toNat (BitVec.eq_of_getLsbD_eq fun i hi => ?_)
    interval_cases i <;> simp [setHalf]
  · rw [takeHalf_high]
    refine congrArg BitVec.toNat (BitVec.eq_of_getLsbD_eq fun i hi => ?_)
    interval_cases i <;> simp [setHalf]

/-- A value that a place of one shape holds is what another of that shape holds once it is written there. -/
theorem takeHalf_setHalf_same {a b : Option Bool} (hk : a.isSome = b.isSome) (old v : Byte) :
    takeHalf (setHalf old (BitVec.ofNat 8 (takeHalf v a)) b) b = takeHalf v a := by
  cases a with
  | none =>
    obtain rfl : b = none := by simpa using hk
    simp [takeHalf, setHalf]
  | some x =>
    obtain ⟨y, rfl⟩ : ∃ y, b = some y := Option.isSome_iff_exists.1 hk.symm
    have hlt := takeHalf_lt v x
    rw [takeHalf_setHalf_half, ← takeHalf_low, takeHalf, BitVec.toNat_ofNat]
    omega

theorem takeHalf_setHalf_other (old v : Byte) (h : Bool) : takeHalf (setHalf old v (some h)) (some !h) = takeHalf old (some !h) := by
  cases h
  · rw [Bool.not_false, takeHalf_high, takeHalf_high]
    refine congrArg BitVec.toNat (BitVec.eq_of_getLsbD_eq fun i hi => ?_)
    interval_cases i <;> simp [setHalf]
  · rw [Bool.not_true, takeHalf_low, takeHalf_low]
    refine congrArg BitVec.toNat (BitVec.eq_of_getLsbD_eq fun i hi => ?_)
    interval_cases i <;> simp [setHalf]

section
variable {s : State}

theorem movePlace_eq (hp : s.poison = []) (x : Place × Place) :
    s.movePlace x = s.memSet x.2.home (setHalf (s.memByte x.2.home) (BitVec.ofNat 8 (s.atPlace x.1)) x.2.half) :=
  if_neg (by simp [State.poisoned, State.poisonAt, hp])

theorem movePlace_kept (hm : s.MemOk) (hp : s.poison = []) (x : Place × Place) : (s.movePlace x).MemOk ∧ (s.movePlace x).poison = [] := by
  rw [movePlace_eq hp]
  exact ⟨memSet_ok hm _ _, by simp [hp]⟩

theorem atPlace_movePlace_target (hm : s.MemOk) (hp : s.poison = []) {x : Place × Place} (hk : x.1.half.isSome = x.2.half.isSome) :
    (s.movePlace x).atPlace x.2 = s.atPlace x.1 := by
  rw [movePlace_eq hp, State.atPlace, memByte_memSet_same hm]
  exact takeHalf_setHalf_same hk _ _

theorem atPlace_movePlace_apart (hm : s.MemOk) (hp : s.poison = []) {x : Place × Place} {q : Place} (h : x.2.Apart q) :
    (s.movePlace x).atPlace q = s.atPlace q := by
  rw [movePlace_eq hp]
  unfold State.atPlace
  by_cases hh : x.2.home = q.home
  · obtain ⟨a, ha, hq⟩ := h.resolve_left (not_not.2 hh)
    rw [← hh, memByte_memSet_same hm, ha, hq]
    exact takeHalf_setHalf_other _ _ _
  · rw [memByte_memSet_ne hm _ (Ne.symm hh)]

end

theorem atPlace_foldl_apart {q : Place} (xs : List (Place × Place)) {s : State} (hm : s.MemOk) (hp : s.poison = [])
    (h : ∀ x ∈ xs, x.2.Apart q) : (xs.foldl State.movePlace s).atPlace q = s.atPlace q := by
  induction xs generalizing s with
  | nil => rfl
  | cons x xs ih =>
    obtain ⟨hm', hp'⟩ := movePlace_kept hm hp x
    rw [List.forall_mem_cons] at h
    exact (ih hm' hp' h.2).trans (atPlace_movePlace_apart hm hp h.1)

/-- A list of moves, the targets apart from each other and from the sources, brings each source's value to its target. -/
theorem atPlace_foldl_target (xs : List (Place × Place)) {s : State} (hm : s.MemOk) (hp : s.poison = [])
    (hkind : ∀ x ∈ xs, x.1.half.isSome = x.2.half.isSome) (hhome : ∀ x ∈ xs, ∀ y ∈ xs, x.1.home ≠ y.2.home)
    (hapart : xs.Pairwise fun x y => x.2.Apart y.2) {x : Place × Place} (hx : x ∈ xs) :
    (xs.foldl State.movePlace s).atPlace x.2 = s.atPlace x.1 := by
  induction xs generalizing s with
  | nil => cases hx
  | cons y xs ih =>
    obtain ⟨hm', hp'⟩ := movePlace_kept hm hp y
    obtain ⟨hy, hrest⟩ := List.pairwise_cons.1 hapart
    have hsource : (s.movePlace y).atPlace x.1 = s.atPlace x.1 :=
      atPlace_movePlace_apart hm hp (.inl (hhome x hx y (.head _)).symm)
    rw [List.foldl_cons]
    rcases List.mem_cons.1 hx with rfl | hx
    · exact (atPlace_foldl_apart xs hm' hp' fun z hz => (hy z hz).symm).trans (atPlace_movePlace_target hm hp (hkind x hx))
    · exact (ih hm' hp' (fun z hz => hkind z (.tail _ hz)) (fun z hz w hw => hhome z (.tail _ hz) w (.tail _ hw)) hrest hx).trans hsource

/-- The numbers that two lists of places of one shape hold, where each pair of places holds one value. -/
theorem joinPlaces_congr {see see' : Place → Byte} {old new : List Place} (hshape : old.map (·.half.isSome) = new.map (·.half.isSome))
    (h : ∀ x ∈ old.zip new, takeHalf (see' x.2) x.2.half = takeHalf (see x.1) x.1.half) : joinPlaces see' new = joinPlaces see old := by
  induction old generalizing new with
  | nil => rw [List.map_eq_nil_iff.1 hshape.symm]; rfl
  | cons p old ih =>
    cases new with
    | nil => cases hshape
    | cons q new =>
      obtain ⟨hpq, hshape⟩ := List.cons.inj hshape
      rw [List.zip_cons_cons, List.forall_mem_cons] at h
      have ih := ih hshape h.2
      have hvalue := h.1
      cases hp : p.half with
      | none =>
        have hq : q.half = none := by simpa [hp] using hpq
        simpa [joinPlaces, hp, hq, ih, takeHalf] using hvalue
      | some a =>
        obtain ⟨b, hq⟩ : ∃ b, q.half = some b := Option.isSome_iff_exists.1 (by simpa [hp] using hpq)
        simpa [joinPlaces, hp, hq, ih] using hvalue

end Sys2Proof.Machine
end

section
/-! ### The next section of a retiling region -/

namespace Sys2Proof.Machine

/-! #### With nothing cached and nothing poisoned -/

/-- A state but for its homes' directories. -/
def State.withDirs (s : State) (ds : List DirEntry) : State := { s with dirs := ds }

theorem memByte_setRegion (s : State) (r : Region) (a : Nat) : (s.setRegion r).memByte a = s.memByte a := by
  rw [State.setRegion_frame]
  rfl

theorem memByte_withDirs (s : State) (ds : List DirEntry) (a : Nat) : (s.withDirs ds).memByte a = s.memByte a := rfl

theorem caches_movePlace (s : State) (x : Place × Place) : (s.movePlace x).caches = s.caches := by
  unfold State.movePlace
  simp only
  split <;> simp

theorem caches_foldl_movePlace (xs : List (Place × Place)) (s : State) : (xs.foldl State.movePlace s).caches = s.caches := by
  induction xs generalizing s with
  | nil => rfl
  | cons x xs ih => exact (ih _).trans (caches_movePlace s x)

section
variable {s : State} (hc : s.caches = [])
include hc

theorem tracked_of_no_caches (line : Nat) : s.tracked line = [] := by simp [State.tracked, hc]

theorem reclaim_of_no_caches (line : Nat) : s.reclaim line = s.withDirs (s.reclaim line).dirs := by
  have htracked := tracked_of_no_caches hc line
  have hgather : s.gather line = s := by simp [State.gather, State.endLineL, State.homeSync, htracked]
  unfold State.reclaim
  rw [hgather]
  simp [State.homeInvalidate, htracked, State.withDirs]

theorem reclaimed_of_no_caches (ls : List Nat) : ls.foldl State.reclaim s = s.withDirs (ls.foldl State.reclaim s).dirs := by
  induction ls generalizing s with
  | nil => rfl
  | cons l ls ih =>
    rw [List.foldl_cons, ih (by rw [reclaim_of_no_caches hc l]; exact hc), reclaim_of_no_caches hc l]
    rfl

theorem settleFormer_of_no_caches (id : RegionId) : s.settleFormer id = s := by
  simp [State.settleFormer, State.formerLines, hc]

theorem homeByte_of_no_caches (a : Nat) : s.homeByte a = s.memByte a := by simp [State.homeByte, hc]

end

theorem mem_sectionElems {d : ObjDesc} {k sec i : Nat} : i ∈ sectionElems d k sec ↔ i < d.elemsOf k ∧ sectionOf d i = sec := by
  simp [sectionElems]

/-- The places of an element of a region under a record of it. -/
def State.placesUnder (s : State) (r : Region) (d : ObjDesc) (e : Nat) : List Place :=
  (s.setRegion r).elemPlaces none r.id.part r.id.object d (r.id.region * d.regionElems + e)

/-- The moves of a section, byte by byte, in the order that they are made. -/
def State.sectionMoves (s : State) (r r' : Region) (d : ObjDesc) (sec : Nat) : List (Place × Place) :=
  (sectionElems d r.id.region sec).flatMap fun e => (s.placesUnder r d e).zip (s.placesUnder r' d e)

theorem moveSection_of_clean {s : State} (hc : s.caches = []) (hp : s.poison = []) {r r' : Region} (hid : r'.id = r.id) (d : ObjDesc)
    (sec : Nat) : ∃ ds, s.moveSection r r' d sec =
      ((s.sectionMoves r r' d sec).foldl State.movePlace ((s.setRegion r).withDirs ds)).setRegion r' := by
  have hkept : (s.setRegion r).caches = [] ∧ (s.setRegion r).poison = [] := by
    rw [State.setRegion_frame]
    exact ⟨hc, hp⟩
  have hplaces : ∀ e, s.placesUnder r' d e = (s.setRegion r').elemPlaces none r.id.part r.id.object d (r.id.region * d.regionElems + e) :=
    fun e => by rw [State.placesUnder, hid]
  unfold State.moveSection
  simp only [settleFormer_of_no_caches hc]
  rw [reclaimed_of_no_caches hkept.1]
  generalize (List.foldl State.reclaim _ _).dirs = ds
  refine ⟨ds, congrArg (State.setRegion · r') ?_⟩
  have hclean : ((s.setRegion r).withDirs ds).poison.isEmpty = true := List.isEmpty_iff.2 hkept.2
  rw [if_pos hclean, List.foldl_map, State.sectionMoves, List.foldl_flatMap]
  simp only [hplaces]
  rfl

section
variable {s : State} {r r' : Region} {d : ObjDesc} {sec : Nat}

theorem mem_sectionMoves {x : Place × Place} (hx : x ∈ s.sectionMoves r r' d sec) :
    ∃ e, e ∈ sectionElems d r.id.region sec ∧ x ∈ (s.placesUnder r d e).zip (s.placesUnder r' d e) ∧
      x.1 ∈ s.placesUnder r d e ∧ x.2 ∈ s.placesUnder r' d e := by
  obtain ⟨e, he, hx⟩ := List.mem_flatMap.1 hx
  obtain ⟨hold, hnew⟩ := List.of_mem_zip (a := x.1) (b := x.2) hx
  exact ⟨e, he, hx, hold, hnew⟩

theorem same_shape_of_mem_zip {old new : List Place} (h : old.map (·.half.isSome) = new.map (·.half.isSome)) {x : Place × Place}
    (hx : x ∈ old.zip new) : x.1.half.isSome = x.2.half.isSome := by
  rw [← List.forall₂_eq_eq_eq, List.forall₂_map_left_iff, List.forall₂_map_right_iff] at h
  exact (List.forall₂_iff_zip.1 h).2 hx

/-- The targets of a section's moves are apart where the elements' new places are. -/
theorem sectionMoves_apart (hshape : ∀ e ∈ sectionElems d r.id.region sec,
      (s.placesUnder r d e).map (·.half.isSome) = (s.placesUnder r' d e).map (·.half.isSome))
    (hkinds : ∀ e ∈ sectionElems d r.id.region sec, ∀ f ∈ sectionElems d r.id.region sec, ∀ x ∈ s.placesUnder r' d e,
      ∀ y ∈ s.placesUnder r' d f, x.half.isSome = y.half.isSome ∧ (e ≠ f → (x.home, x.half) ≠ (y.home, y.half)))
    (hnodup : ∀ e ∈ sectionElems d r.id.region sec, ((s.placesUnder r' d e).map fun x => (x.home, x.half)).Nodup) :
    (s.sectionMoves r r' d sec).Pairwise fun x y => x.2.Apart y.2 := by
  have hrange : (sectionElems d r.id.region sec).Nodup := List.nodup_range.filter _
  rw [State.sectionMoves, List.pairwise_flatMap]
  refine ⟨fun e he => ?_, hrange.imp_of_mem fun {e f} he hf hne x hx y hy => ?_⟩
  · have hlen : (s.placesUnder r' d e).length ≤ (s.placesUnder r d e).length := by
      have := congrArg List.length (hshape e he)
      simp only [List.length_map] at this
      omega
    have hnew : (s.placesUnder r' d e).Pairwise Place.Apart :=
      (List.pairwise_map.1 (hnodup e he)).imp_of_mem fun {x y} hx hy hne => Place.apart_of_key_ne (hkinds e he e he x hx y hy).1 hne
    rw [← List.map_snd_zip hlen] at hnew
    exact List.pairwise_map.1 hnew
  · have hx := (List.of_mem_zip (a := x.1) (b := x.2) hx).2
    have hy := (List.of_mem_zip (a := y.1) (b := y.2) hy).2
    obtain ⟨hkind, hkey⟩ := hkinds e he f hf _ hx _ hy
    exact Place.apart_of_key_ne hkind (hkey hne)

end

/-- A section moved keeps the number that each of its elements holds. -/
theorem homeNat_moveSection {s : State} (hm : s.MemOk) (hc : s.caches = []) (hp : s.poison = []) {r r' : Region} (hid : r'.id = r.id) {d : ObjDesc}
    {sec : Nat}
    (hshape : ∀ e ∈ sectionElems d r.id.region sec,
      (s.placesUnder r d e).map (·.half.isSome) = (s.placesUnder r' d e).map (·.half.isSome))
    (hhome : ∀ e ∈ sectionElems d r.id.region sec, ∀ f ∈ sectionElems d r.id.region sec, ∀ x ∈ s.placesUnder r d e,
      ∀ y ∈ s.placesUnder r' d f, x.home ≠ y.home)
    (hkinds : ∀ e ∈ sectionElems d r.id.region sec, ∀ f ∈ sectionElems d r.id.region sec, ∀ x ∈ s.placesUnder r' d e,
      ∀ y ∈ s.placesUnder r' d f, x.half.isSome = y.half.isSome ∧ (e ≠ f → (x.home, x.half) ≠ (y.home, y.half)))
    (hnodup : ∀ e ∈ sectionElems d r.id.region sec, ((s.placesUnder r' d e).map fun x => (x.home, x.half)).Nodup)
    {e : Nat} (he : e ∈ sectionElems d r.id.region sec) :
    (s.moveSection r r' d sec).homeNat (s.placesUnder r' d e) = s.homeNat (s.placesUnder r d e) := by
  obtain ⟨ds, hmoved⟩ := moveSection_of_clean hc hp hid d sec
  have hstart : ((s.setRegion r).withDirs ds).MemOk ∧ ((s.setRegion r).withDirs ds).poison = [] ∧
      ((s.setRegion r).withDirs ds).caches = [] := by
    rw [State.setRegion_frame]
    exact ⟨hm, hp, hc⟩
  obtain ⟨hm', hp', hc'⟩ := hstart
  have hcaches : (s.moveSection r r' d sec).caches = [] := by
    rw [hmoved, State.setRegion_frame]
    exact (caches_foldl_movePlace _ _).trans hc'
  unfold State.homeNat
  refine joinPlaces_congr (hshape e he) fun x hx => ?_
  rw [homeByte_of_no_caches hcaches, homeByte_of_no_caches hc, hmoved, memByte_setRegion]
  have hvalue := atPlace_foldl_target (s.sectionMoves r r' d sec) hm' hp' (fun y hy => ?_) (fun y hy z hz => ?_)
    (sectionMoves_apart hshape hkinds hnodup) (List.mem_flatMap.2 ⟨e, he, hx⟩)
  · rw [State.atPlace, State.atPlace, memByte_withDirs, memByte_setRegion] at hvalue
    exact hvalue
  · obtain ⟨f, hf, hy, -⟩ := mem_sectionMoves hy
    exact same_shape_of_mem_zip (hshape f hf) hy
  · obtain ⟨f, hf, -, hy, -⟩ := mem_sectionMoves hy
    obtain ⟨g, hg, -, -, hz⟩ := mem_sectionMoves hz
    exact hhome f hf g hg _ hy _ hz

end Sys2Proof.Machine
end

section
/-! #### The last section (R128) -/

namespace Sys2Proof.Machine

/-- A region whose change is complete. -/
def Region.finished (r : Region) (v : State) (follow : Option (Nat × Bool)) : Region :=
  let contest := if r.pinPending.isSome then none else r.contest
  { r with
    state := if r.pinPending.isSome then .pinned else r.from'
    layout := r.target, previous := r.layout, generation := v.mapGen, layoutSince := v.mapGen, done := 0, busy := none
    newFrames := [], request := follow, pinPending := none, lastChange := some v.window, streak := none, rivals := []
    contest, target := contest.getD r.target
    contestSince := if r.from' = RegionState.contested && r.contest = some r.target then v.window else r.contestSince }

theorem finishRetile_eq (s : State) (r : Region) (d : ObjDesc) : ∃ (v : State) (follow : Option (Nat × Bool)),
    v.tally = (s.mapGen + 1, s.window, s.changesDone) ∧ s.finishRetile r d =
      (({ v with changesDone := v.changesDone + 1 } : State).setRegion (r.finished v follow)).forgetRegion r.id := by
  have hwritten : ∀ (xs : List (Nat × Nat)) (t : State),
      (xs.foldl (fun x y => x.homeWrite (d.extAt y.1) 8 (mkExt y.2 false true)) t).tally = t.tally :=
    fun xs t => tally_foldl (fun x y => tally_homeWrite x ..) xs t
  have hreturned : ∀ (fs : List Nat) (t : State), (fs.foldl (fun x f => x.poolReturn r.id.part f false) t).tally = t.tally :=
    fun fs t => tally_foldl (fun x f => tally_poolReturn x ..) fs t
  exact ⟨_, _, (hreturned _ _).trans ((hwritten _ _).trans (tally_nextGeneration s)), rfl⟩

/-- A completed change: the counters move on, and the region's record with them. -/
theorem finishRetile_result (s : State) (r : Region) (d : ObjDesc) : ∃ (v : State) (follow : Option (Nat × Bool)),
    v.mapGen = s.mapGen + 1 ∧ v.window = s.window ∧ (s.finishRetile r d).changesDone = s.changesDone + 1 ∧
      (s.finishRetile r d).mapGen = v.mapGen ∧ (s.finishRetile r d).region? r.id = some (r.finished v follow) := by
  obtain ⟨v, follow, htally, hfinish⟩ := finishRetile_eq s r d
  obtain ⟨hgen, hrest⟩ := Prod.mk.inj htally
  obtain ⟨hwindow, hchanges⟩ := Prod.mk.inj hrest
  obtain ⟨hgen', hrest'⟩ := Prod.mk.inj (tally_setRegion ({ v with changesDone := v.changesDone + 1 } : State) (r.finished v follow))
  obtain ⟨-, hchanges'⟩ := Prod.mk.inj hrest'
  refine ⟨v, follow, hgen, hwindow, ?_⟩
  rw [hfinish]
  exact ⟨hchanges'.trans (congrArg (· + 1) hchanges), hgen', region?_setRegion _ (r.finished v follow)⟩

/-! #### The copy -/

section
variable {s : State} {r : Region} {d : ObjDesc} {sec : Nat}

/-- A retiling region once a section of it has moved. -/
def Region.withDone (r : Region) (sec : Nat) : Region := { r with done := r.done ||| ((1 : BitVec 64) <<< sec), busy := none }

theorem getLsbD_withDone (hsec : sec < 64) {k : Nat} (hk : k < 64) :
    (r.withDone sec).done.getLsbD k = true ↔ r.done.getLsbD k = true ∨ k = sec := by
  have hbit : ((1 : BitVec 64) <<< sec).getLsbD k = decide (k = sec) := by
    simp only [BitVec.getLsbD_shiftLeft]
    rcases Nat.lt_trichotomy k sec with h | h | h
    · simp [h, h.ne]
    · simp [h, hsec]
    · simp [hk, h.ne', Nat.sub_ne_zero_of_lt h, Nat.not_lt_of_lt h]
  simp only [Region.withDone, BitVec.getLsbD_or, hbit, Bool.or_eq_true, decide_eq_true_eq]

/-- A section moved, and the errors found in it recorded. -/
def State.sectionMoved (s : State) (r : Region) (d : ObjDesc) (sec : Nat) : State :=
  (s.poisonedIn r d sec).foldl (fun u p => u.sendError r.id.part (dataError r p)) (s.moveSection { r with busy := none } (r.withDone sec) d sec)

theorem copySection_of_idle (hr : s.region? r.id = some r) (hd : s.objDesc r.id.part r.id.object = some d) (hst : r.state ≠ .retiling) :
    s.copySection r.id = s := by
  unfold State.copySection
  simp only [hr, hd, if_pos hst]
  split <;> rfl

theorem copySection_of_next (hr : s.region? r.id = some r) (hd : s.objDesc r.id.part r.id.object = some d) (hst : r.state = .retiling)
    (hsec : sec < sectionCount d r.id.region) (hnot : r.done.getLsbD sec = false) (hdone : ∀ k, k < sec → r.done.getLsbD k = true) :
    s.copySection r.id = if sec + 1 = sectionCount d r.id.region then (s.sectionMoved r d sec).finishRetile (r.withDone sec) d
      else (s.sectionMoved r d sec).setRegion { r.withDone sec with busy := some sec } := by
  have hfind : (List.range (sectionCount d r.id.region)).find? (fun k => !r.done.getLsbD k) = some sec :=
    List.find?_range_eq_some.2 ⟨by simp [hnot], List.mem_range.2 hsec, fun k hk => by simp [hdone k hk]⟩
  unfold State.copySection
  simp only [hr, hd, hfind]
  rw [if_neg (not_not.2 hst)]
  unfold State.sectionMoved Region.withDone
  rfl

theorem tally_sectionMoved : (s.sectionMoved r d sec).tally = s.tally :=
  (tally_foldl (fun u _ => tally_sendError u ..) _ _).trans (tally_moveSection ..)

theorem sectionMoved_of_clean (hp : s.poison = []) : s.sectionMoved r d sec = s.moveSection { r with busy := none } (r.withDone sec) d sec := by
  simp [State.sectionMoved, State.poisonedIn, hp]

end

theorem homeNat_setRegion (s : State) (r : Region) (ps : List Place) : (s.setRegion r).homeNat ps = s.homeNat ps := by
  rw [State.setRegion_frame]
  rfl

theorem releaseBusy_eq {s : State} {id : RegionId} {r : Region} (hr : s.region? id = some r) :
    s.releaseBusy id = s.setRegion { r with busy := none } := by
  simp only [State.releaseBusy, hr]

theorem rules_sectionCopies : Rules.SectionCopies := by
  intro id s r d hr hd run n
  obtain rfl : r.id = id := region?_id hr
  refine ⟨fun hst => congrArg Host.Outcome.next (copySection_of_idle hr hd hst), fun sec hst hsec hn hnot hdone => ?_,
    congrArg Host.Outcome.next (releaseBusy_eq hr)⟩
  have hnext : run = .next _ := congrArg Host.Outcome.next (copySection_of_next hr hd hst hsec hnot hdone)
  refine ⟨_, r.withDone sec, hnext, rfl, fun k hk => getLsbD_withDone (by omega) hk, fun hmore => ?_, fun hlast => ?_⟩
  · rw [if_neg hmore]
    refine ⟨region?_setRegion _ { r.withDone sec with busy := some sec }, ?_⟩
    intro places moves old new hm hc hp hshape hhome hkinds hnodup e he
    rw [homeNat_setRegion, sectionMoved_of_clean hp]
    exact homeNat_moveSection hm hc hp (r := { r with busy := none }) (r' := r.withDone sec) rfl
      (fun e he => hshape e (mem_sectionElems.1 he)) (fun e he f hf => hhome e f (mem_sectionElems.1 he) (mem_sectionElems.1 hf))
      (fun e he f hf => hkinds e f (mem_sectionElems.1 he) (mem_sectionElems.1 hf)) (fun e he => hnodup e (mem_sectionElems.1 he))
      (mem_sectionElems.2 he)
  · rw [if_pos hlast]
    obtain ⟨v, follow, hgen, hwindow, hchanges, hgen', hregion⟩ := finishRetile_result (s.sectionMoved r d sec) (r.withDone sec) d
    obtain ⟨hg, hrest⟩ := Prod.mk.inj (tally_sectionMoved (s := s) (r := r) (d := d) (sec := sec))
    obtain ⟨hw, hc⟩ := Prod.mk.inj hrest
    have hwindow' : v.window = s.window := hwindow.trans hw
    refine ⟨hchanges.trans (congrArg (· + 1) hc), hgen'.trans (hgen.trans (congrArg (· + 1) hg)), _, hregion, rfl, rfl, hgen'.symm, rfl, rfl, rfl,
      congrArg some hwindow', rfl, rfl, rfl, ?_⟩
    rw [← hwindow']
    exact if_congr (by rw [Bool.and_eq_true, decide_eq_true_eq, decide_eq_true_eq]; rfl) rfl rfl

end Sys2Proof.Machine
end

section
open Sys2Proof Sys2Proof.Machine

/-- Settles O50: the least score over the eligible layouts, the window's end as one fold over its regions, a region's turn from the
region that its judgement leaves, and a section's copy as moves between places that are apart. -/
theorem retiling : Obligations.Retiling := ⟨rules_layoutScores, rules_windowEnds, rules_regionTurns, rules_sectionCopies⟩

end

section
/-! ## What the registers of the module hold after reset (R141, R153, R157, R259, R267, R269, R270) -/

namespace Sys2Proof.Machine

theorem getElem?_toList_replicate {α : Type} {n k : Nat} (hk : k < n) (a : α) : (Vector.replicate n a).toList[k]? = some a := by
  rw [Vector.toList_replicate, List.getElem?_replicate, if_pos hk]

theorem coreStates_reset {k : Nat} (hk : k < 384) : State.reset.coreStates.toList[k]? = some CoreState.reset :=
  getElem?_toList_replicate hk _

theorem cxl_reset {p : Nat} (hp : p < 4) : State.reset.cxl.toList[p]? = some CxlPort.reset :=
  getElem?_toList_replicate hp _

theorem getD_toList_replicate {α : Type} (n k : Nat) (a : α) : (Vector.replicate n a).toList.getD k a = a := by
  rw [Vector.toList_replicate, List.getD_eq_getElem?_getD, List.getElem?_replicate]
  split <;> rfl

theorem pcb_reset (p : Nat) : State.reset.pcb p = Pcb.reset := getD_toList_replicate 16 p _

theorem launchQueue_reset (p q : Nat) : State.reset.launchQueue p q = LaunchQueue.reset := by
  rw [State.launchQueue, pcb_reset]
  change ((Vector.replicate 16 LaunchQueue.reset)[q]?).getD LaunchQueue.reset = _
  by_cases hq : q < 16 <;> simp [hq]

theorem scheduleEntries_reset {i : Nat} (hi : i < 64) :
    State.reset.scheduleEntries.toList[i]? = some (if i = 63 then 0x20 else 0) := by
  change (Vector.ofFn fun i : Fin 64 => if i.val = 63 then (0x20 : BitVec 8) else 0).toList[i]? = _
  simp [hi]

end Sys2Proof.Machine
end

section
open Sys2Proof Sys2Proof.Machine

/-- Settles O58, register by register; memories without a cell are in canonical form. -/
theorem resetValues : Obligations.ResetValues :=
  ⟨rfl, rfl, rfl, rfl, rfl, rfl, fun _ hk => ⟨_, coreStates_reset hk, rfl, rfl, rfl, rfl⟩, fun _ hi => scheduleEntries_reset hi,
    fun _ hp => ⟨_, cxl_reset hp, rfl, rfl⟩,
    fun p _ => ⟨congrArg Pcb.lim0 (pcb_reset p), congrArg Pcb.lim1 (pcb_reset p), fun q _ => launchQueue_reset p q⟩,
    fun _ hf => getElem?_toList_replicate hf _, fun _ hk => getElem?_toList_replicate hk _, rfl, rfl, rfl, rfl⟩
end

section
/-! ## A store lost with an L1 line that its home tracks (R145, R156, R161, R163)

The statement takes the caches as any list of copies without regions, each of 128 bytes. It does not ask that an L1's copy be one that
nothing tracks (R145), nor that a line have one owner (R149), so it also speaks of caches that no run leaves behind. Here a core's L1 has
its line in S, the core's cluster has the upper half of it only, and another cluster owns it with an older byte 0. The store is performed
in the L1. The load hits there too, but its access also fetches the half that the cluster lacks: the owner's dirty bytes go home, every
tracked copy of the line leaves before they are merged, the L1's with it, and the stored byte is overwritten at the home. -/

namespace Sys2Proof.Machine.TrackedL1

/-- A copy of the first line of host memory, all zeros. -/
def copy (h : Holder) (st : LineState) (halves : BitVec 2) (dirty : BitVec 128) : CacheLine :=
  { holder := h, line := hostBase / 128, data := List.replicate 128 0, halves, dirty, stamp := 0, state := st, upper := st, tag := none
    last := 0, early := false }

/-- The machine: function 0 is granted one line of host memory, of which three caches have copies. -/
def state : State :=
  { State.reset with
    hostGrant := [(0, 128)]
    caches := [copy (.l1 0) .s 3 0, copy (.cluster 0) .s 2 0, copy (.cluster 1) .m 3 1] }

/-- The acting weave; nothing of it bears on an unbundled store of host memory. -/
def weave : Weave := newWeave (fetchLaunch .c 2) (fetchCrew 1 2) 0 0 0 0

/-- Core 0, for partition 0 and function 0. -/
def agent : Agent := ⟨0, 0, 0, 0, 0, false⟩

/-- Relaxed, of the narrowest scope, through the L1. -/
def attrs : Attrs := ⟨.rlx, .wv, .hst, .ca, false, false⟩

/-- Byte 0 of host memory in lane 0. -/
def request (need : Need) : Req := ⟨.hst, 0, 1, need, [(0, false, 0)], none, none, default⟩

/-- What lane 0 loads after a store's answer. -/
def loaded : Except Stop State → Option Nat
  | .ok u => match u.load ⟨0, 0⟩ agent attrs (request .read) with
    | .ok r => some (r.value 0)
    | .error _ => none
  | .error _ => none

theorem performed_of_loaded {done : Except Stop State} {v : Nat} (h : loaded done = some v) :
    ∃ u r, done = .ok u ∧ u.load ⟨0, 0⟩ agent attrs (request .read) = .ok r ∧ r.value 0 = v := by
  cases done with
  | error => cases h
  | ok u =>
    simp only [loaded] at h
    split at h
    · next r hr => exact ⟨u, r, rfl, hr, Option.some.inj h⟩
    · cases h

theorem caches_plain : ∀ c ∈ state.caches, c.tag = none ∧ c.data.length = 128 := by decide +kernel

/-- A load after a store of 1 gives the owner's 0. -/
theorem loaded_store : loaded (state.store' weave agent attrs (request .write) fun _ => 1) = some 0 := by decide +kernel

end Sys2Proof.Machine.TrackedL1
end

section
open Sys2Proof Sys2Proof.Machine

/-- Refutes O20: where a core's L1 has a line in a state that the home tracks, and another cluster owns the line, a load that hits in the
L1 loses the byte that its stream has just stored there. -/
theorem not_ownStores : ¬ Obligations.OwnStores := by
  unfold Obligations.OwnStores
  intro h
  obtain ⟨u, r, hstore, hload, hzero⟩ := TrackedL1.performed_of_loaded TrackedL1.loaded_store
  obtain ⟨hown, -⟩ := h TrackedL1.state u TrackedL1.weave ⟨0, 0⟩ TrackedL1.agent TrackedL1.attrs (TrackedL1.request .write) 0 1 1
    (by decide) rfl rfl (.inl rfl) rfl rfl rfl rfl rfl rfl TrackedL1.caches_plain hstore
  exact absurd ((hown r hload).symm.trans hzero) (by decide)
end

section
/-! ## A read that takes its die's RDC bank out of a line (R147, R149, R178)

A cluster of die 1 owns a line of die 0 through its die's RDC bank and has stored to it. When another cluster of die 1 reads the line,
the owner's dirty bytes go home, and before they are merged the tracked copies of the line, the bank's among them, leave it
(`State.expel`). The bank was there when the read came, so it is not asked to fetch the line again, and the reader ends with a copy that no
bank of its die stands behind. -/

namespace Sys2Proof.Machine.RemoteRead

/-- Byte 0 of line 0, which die 0 homes. -/
def place : Place := ⟨0, 0, none, none, 0, 0, none, false, false⟩

/-- The machine after reset, once cluster 24 of die 1 has asked to own line 0 and has stored to its byte 0. -/
def state : State := (State.reset.ownRequest (.cluster 24) 0).pokeLine (.cluster 24) place 1 true

/-- The cluster of die 1 that reads. -/
def reader : Holder := .cluster 25

/-- Whether the RDC bank of die 1 has line 0 after a step's outcome. -/
def bankHas : Host.Outcome State Fault Refusal → Bool
  | .next t => (t.lineAt (.bank 1 0) 0).isSome
  | _ => true

theorem bankOf_reader : bankOf reader 0 = some (.bank 1 0) := rfl

/-- The bank has the line before the read. -/
theorem bankHas_state : bankHas (.next state) = true := by decide +kernel

/-- It has it no longer after the read. -/
theorem bankHas_read : bankHas (exec (.homeReadRequest reader 0) state) = false := by decide +kernel

theorem reads_at_once : ¬∃ x ∈ state.homeRetries, x.1 = reader ∧ x.2.1 = 0 ∧ state.time < x.2.2 + 32 := by decide +kernel

theorem no_fills : ∀ f ∈ state.fills, f.line ≠ 0 := by decide +kernel

theorem not_refused : ¬∃ c ∈ state.tracked 0, c.state = .l ∧ c.holder ≠ reader := by decide +kernel

/-- The reader and its die's bank have room, and the bank's copy is not stale. -/
theorem room : state.lineHeld 0 = false ∧ state.occupancy reader < state.capacity reader ∧ ∀ b, bankOf reader 0 = some b →
    state.occupancy b < state.capacity b ∧ ∀ c, state.lineAt b 0 = some c → state.lineStale c = false := by
  refine ⟨by decide +kernel, by decide +kernel, fun b hb => ?_⟩
  obtain rfl : Holder.bank 1 0 = b := Option.some.inj (bankOf_reader.symm.trans hb)
  refine ⟨by decide +kernel, fun c hc => ?_⟩
  have hfresh : ∀ c ∈ state.caches, state.lineStale c = false := by decide +kernel
  exact hfresh c (lineAt_eq_some hc).2.2

end Sys2Proof.Machine.RemoteRead
end

section
open Sys2Proof Sys2Proof.Machine

/-- Refutes O48: a cluster reads a line that another cluster of its die has written, the bytes written go home, and the bank through
which the die holds the line is invalidated on their way. -/
theorem not_homes : ¬ Obligations.Homes := by
  unfold Obligations.Homes Rules.HomeRequests
  rintro ⟨hrequests, -, -⟩
  obtain ⟨-, hheld, -⟩ := hrequests RemoteRead.reader 0 RemoteRead.state
  obtain ⟨-, -, hread, -, -, -⟩ := hheld (by decide +kernel)
  obtain ⟨-, hfree⟩ := hread RemoteRead.reads_at_once (by decide +kernel)
  obtain ⟨-, hserved⟩ := hfree RemoteRead.no_fills
  obtain ⟨-, hserves⟩ := hserved (by decide +kernel)
  obtain ⟨t, hexec, hserves⟩ := hserves RemoteRead.not_refused (by decide +kernel) (by decide +kernel) RemoteRead.room
  obtain ⟨st, -, -, -, -, -, hbank, -⟩ := hserves (some 1) rfl
  have hkept : RemoteRead.bankHas (exec (.homeReadRequest RemoteRead.reader 0) RemoteRead.state) = true := by
    rw [hexec]
    exact hbank _ RemoteRead.bankOf_reader
  exact absurd (RemoteRead.bankHas_read.symm.trans hkept) (by decide)
end

section
/-! ## CSRAM, PREQ, the limits and FTMO (R141, R142, R157, R158, R259, R269) -/

namespace Sys2Proof.Machine

/-! ### The split of a core's SRAM (R141, R142) -/

section
variable {s : State} {part core : Nat} {v : DWord}

/-- A core's own registers; its split as it was asked for and as it is in force are among them (R141). -/
abbrev State.coreAt (s : State) (core : Nat) : CoreState := s.coreStates.toList.getD core CoreState.reset

theorem coreAt_clearL1 (s : State) (core k : Nat) : (s.clearL1 core).coreAt k = s.coreAt k := by
  have haside : (s.clearL1 core).aside = s.aside := aside_foldl (fun t l => aside_giveUp t (.l1 core) l) _
  have hcores : (s.clearL1 core).aside.coreAt k = s.aside.coreAt k := congrArg (State.coreAt · k) haside
  exact hcores

theorem crewsOn_isEmpty_iff : (s.crewsOn core).isEmpty = true ↔ ∀ c ∈ s.crews, c.core = core → c.state = .saved := by
  simp [State.crewsOn]

theorem writeCsram_of_within (h : s.grantedCore part core = true) (hunits : v.toNat % 16 ≤ 7)
    (hlimit : v.toNat % 16 ≤ (s.pcb part).lim0.toNat % 16) :
    s.writeCsram part core v = s.onCore core fun x => { x with units := v.toNat % 16 } := by
  simp [State.writeCsram, Pcb.spadUnits, bits_zero, h, Nat.not_lt.2 hunits, Nat.not_lt.2 hlimit]

theorem writeCsram_of_beyond (h : s.grantedCore part core = true)
    (hbeyond : 7 < v.toNat % 16 ∨ (s.pcb part).lim0.toNat % 16 < v.toNat % 16) :
    s.writeCsram part core v = s.unitError part 0x24 (dieOf core) core := by
  simp [State.writeCsram, Pcb.spadUnits, bits_zero, h, hbeyond]

theorem changeSplit_of_kept (h : (∃ c ∈ s.crews, c.core = core ∧ c.state ≠ .saved) ∨ (s.coreAt core).units = (s.coreAt core).active) :
    s.changeSplit core = s := by
  refine if_pos (Bool.or_eq_true_iff.2 (.inl (Bool.or_eq_true_iff.2 ?_)))
  obtain ⟨c, hc, hcore, hstate⟩ | h := h
  · have hcrew : ¬(s.crewsOn core).isEmpty = true := fun e => hstate (crewsOn_isEmpty_iff.1 e c hc hcore)
    exact .inl (by rw [Bool.eq_false_iff.2 hcrew]; rfl)
  · exact .inr (decide_eq_true h)

/-- A split that changes: the L1 gives up its lines, and the scratchpad its contents once the L1 has none (R142). -/
theorem changeSplit_of_free (hfree : ∀ c ∈ s.crews, c.core = core → c.state = .saved)
    (hnew : (s.coreAt core).units ≠ (s.coreAt core).active) (hcore : core < 384) : s.changeSplit core =
      if (s.clearL1 core).caches.any (fun c => c.holder = .l1 core) then s.clearL1 core
      else { (s.clearL1 core).onCore core fun k => { k with active := k.units } with
        spad := cellClear (s.clearL1 core).spad (spadKey core 0) 0x80000
        poison := (s.clearL1 core).poison.filter fun p => decide (p.1 < sramKey core 0) || decide (sramKey core 0x80000 ≤ p.1) } := by
  refine if_neg fun h => ?_
  rw [crewsOn_isEmpty_iff.2 hfree] at h
  obtain h | h := Bool.or_eq_true_iff.1 h
  · exact hnew (of_decide_eq_true h)
  · exact absurd (of_decide_eq_true h) (Nat.not_le.2 hcore)

theorem coreAt_onCore_same (s : State) {core : Nat} (hcore : core < 384) (f : CoreState → CoreState) :
    (s.onCore core f).coreAt core = f (s.coreAt core) := by
  simp [State.coreAt, State.onCore, hcore, List.getD_eq_getElem?_getD]

theorem mem_cellClear {cells : List Host.Cell} {a n : Nat} {x : Host.Cell} :
    x ∈ cellClear cells a n ↔ x ∈ cells ∧ (x.1 < a ∨ a + n ≤ x.1) := by
  simp [cellClear]

theorem spadKey_bounds (core x : Nat) :
    (x < spadKey core 0 ∨ spadKey core 0 + 0x80000 ≤ x) ↔ (x < 2 ^ 19 * core ∨ 2 ^ 19 * (core + 1) ≤ x) := by
  unfold spadKey
  omega

end

theorem rules_coreSplits : Rules.CoreSplits := by
  intro part core v s
  refine ⟨fun hother => ?_, fun hmine hunits hlimit => ?_, fun hmine hbeyond => ?_, fun hkept => ?_,
    fun hfree hnew hcore hlines => ?_, fun hfree hnew hcore hempty => ?_⟩
  · exact congrArg Host.Outcome.next (if_pos (by simp [hother]))
  · exact congrArg Host.Outcome.next (writeCsram_of_within hmine hunits hlimit)
  · exact congrArg Host.Outcome.next (writeCsram_of_beyond hmine hbeyond)
  · exact congrArg Host.Outcome.next (changeSplit_of_kept hkept)
  · exact congrArg Host.Outcome.next ((changeSplit_of_free hfree hnew hcore).trans (if_pos (by simpa using hlines)))
  · refine ⟨_, congrArg Host.Outcome.next ((changeSplit_of_free hfree hnew hcore).trans (if_neg (by simpa using hempty))), ?_, rfl, rfl,
      fun x hx => ?_, fun x hout => ?_⟩
    · have hactive := congrArg CoreState.active (coreAt_onCore_same (s.clearL1 core) hcore fun k => { k with active := k.units })
      exact hactive.trans (congrArg CoreState.units (coreAt_clearL1 s core core))
    · exact (spadKey_bounds core x.1).1 (mem_cellClear.1 hx).2
    · exact mem_cellClear.trans (and_iff_left ((spadKey_bounds core x.1).2 hout))

/-! ### Words without their high bits -/

theorem and_lowBits {m : DWord} {k : Nat} (hm : m.toNat = 2 ^ k - 1) (v : DWord) :
    v &&& m = BitVec.ofNat 64 (v.toNat / 2 ^ 0 % 2 ^ k) := by
  refine BitVec.eq_of_toNat_eq ?_
  have hlt : v.toNat % 2 ^ k < 2 ^ 64 := (Nat.mod_le ..).trans_lt v.isLt
  rw [BitVec.toNat_and, hm, Nat.and_two_pow_sub_one_eq_mod, BitVec.toNat_ofNat, pow_zero, Nat.div_one, Nat.mod_eq_of_lt hlt]

/-- A field below the bits that are cleared is the word's own. -/
theorem bits_field {k lo n : Nat} (v : DWord) (h : lo + n ≤ k) :
    bits (BitVec.ofNat 64 (v.toNat / 2 ^ 0 % 2 ^ k)).toNat lo n = bits v.toNat lo n := by
  have hlt : v.toNat % 2 ^ k < 2 ^ 64 := (Nat.mod_le ..).trans_lt v.isLt
  rw [BitVec.toNat_ofNat, pow_zero, Nat.div_one, Nat.mod_eq_of_lt hlt]
  refine Nat.eq_of_testBit_eq fun i => ?_
  simp only [bits, Nat.testBit_mod_two_pow, Nat.testBit_div_two_pow]
  by_cases hi : i < n
  · simp [hi, show i + lo < k by omega]
  · simp [hi]

/-! ### PREQ, the limits, FTMO -/

section
variable {s : State} {part core port : Nat} {v : DWord}

theorem writePreq_of_granted (h : s.grantedCore part core = true) : s.writePreq part core v =
    (s.onCore core fun k => { k with
      preqAsked := v.extractLsb' 0 16
      preqSaved := k.preqSaved &&& ~~~(v.extractLsb' 32 16) }).requestSlots part core (v.toNat / 2 ^ 0 % 2 ^ 16) := by
  have hlow : v.setWidth 16 = v.extractLsb' 0 16 := (setWidth_eq_field v 16 le_rfl).trans (extractLsb'_eq_ofNat_mod v 0 16).symm
  rw [State.writePreq, h, if_neg (by decide), hlow]
  rfl

/-- The first word of limits with its fields alone, in force where they are raised (R269). -/
theorem raised_lim0 (p : Pcb) (v : DWord) : ({ p with lim0 := v &&& 0x7FFFFFFFFF } : Pcb).raised =
    { p with
      lim0 := BitVec.ofNat 64 (v.toNat / 2 ^ 0 % 2 ^ 39), bundlesNow := max p.bundlesNow (v.toNat / 2 ^ 20 % 2 ^ 13)
      retentionNow := max p.retentionNow p.retention } := by
  have hbundles := bits_field (k := 39) (lo := 20) (n := 13) v (by decide)
  rw [and_lowBits (k := 39) rfl]
  simp only [Pcb.raised, Pcb.bundles, Pcb.retention, hbundles]
  rfl

theorem raised_lim1 (p : Pcb) (v : DWord) : ({ p with lim1 := v &&& 0xFFFFFFFF } : Pcb).raised =
    { p with
      lim1 := BitVec.ofNat 64 (v.toNat / 2 ^ 0 % 2 ^ 32), bundlesNow := max p.bundlesNow p.bundles
      retentionNow := max p.retentionNow (v.toNat / 2 ^ 0 % 2 ^ 32) } := by
  have hretention := bits_field (k := 32) (lo := 0) (n := 32) v (by decide)
  rw [and_lowBits (k := 32) rfl]
  simp only [Pcb.raised, Pcb.bundles, Pcb.retention, hretention]
  rfl

theorem limitsOk_iff (x : Nat) : limitsOk x = true ↔ x / 2 ^ 0 % 2 ^ 4 ≤ 7 ∧ x / 2 ^ 4 % 2 ^ 8 ≤ 128 ∧ x / 2 ^ 12 % 2 ^ 8 ≤ 64 ∧
    x / 2 ^ 20 % 2 ^ 13 ≤ 4096 ∧ x / 2 ^ 33 % 2 ^ 6 ≤ 32 := by
  simp only [limitsOk, Bool.and_eq_true, decide_eq_true_eq]
  unfold bits
  tauto

theorem writeFtmo_eq (s : State) (port : Nat) (v : DWord) :
    let t := s.onCxl port fun c => { c with
      timeout := if v.toNat / 2 ^ 0 % 2 ^ 22 = 0 ∨ 4000000 < v.toNat / 2 ^ 0 % 2 ^ 22 then c.timeout else v.toNat / 2 ^ 0 % 2 ^ 22
      down := c.down && !(v.getLsbD 22 && c.up) }
    s.writeFtmo port v = if s.portDown port = true ∧ t.portDown port = false then t.drainPort port else t := by
  have htimeout (c : CxlPort) :
      (if (1 ≤ bits v.toNat 0 22 && bits v.toNat 0 22 ≤ 4000000 : Bool) = true then bits v.toNat 0 22 else c.timeout) =
      if v.toNat / 2 ^ 0 % 2 ^ 22 = 0 ∨ 4000000 < v.toNat / 2 ^ 0 % 2 ^ 22 then c.timeout else v.toNat / 2 ^ 0 % 2 ^ 22 := by
    rw [← ite_not]
    refine if_congr ?_ rfl rfl
    rw [Bool.and_eq_true, decide_eq_true_eq, decide_eq_true_eq, bits]
    omega
  intro t
  have ht : (s.onCxl port fun c => { c with
      timeout := if 1 ≤ bits v.toNat 0 22 && bits v.toNat 0 22 ≤ 4000000 then bits v.toNat 0 22 else c.timeout
      down := c.down && !(bitAt v.toNat 22 && c.up) }) = t := by
    simp only [htimeout, bitAt_toNat]
    rfl
  simp only [State.writeFtmo, ht]
  refine if_congr ?_ rfl rfl
  rw [Bool.and_eq_true, Bool.not_eq_true']

end

theorem rules_controlBlockWrites : Rules.ControlBlockWrites := by
  intro part core port v s
  refine ⟨fun hother => ?_, fun hmine => ?_, fun hin => ?_, fun hout => ?_, ?_, ?_⟩
  · exact congrArg Host.Outcome.next (if_pos (by simp [hother]))
  · exact congrArg Host.Outcome.next (writePreq_of_granted hmine)
  · refine congrArg Host.Outcome.next ((if_pos ((limitsOk_iff _).2 hin)).trans ?_)
    exact congrArg (s.onPcb part) (funext fun p => raised_lim0 p v)
  · exact congrArg Host.Outcome.next (if_neg fun h => hout ((limitsOk_iff _).1 h))
  · exact congrArg Host.Outcome.next (congrArg (s.onPcb part) (funext fun p => raised_lim1 p v))
  · exact congrArg Host.Outcome.next (writeFtmo_eq s port v)

end Sys2Proof.Machine
end

section
/-! ## Registers without behaviour of their own (R152, R153, R257, R258, R263, R266, R267, R269, R270) -/

namespace Sys2Proof.Machine

/-! ### Fields of a byte -/

/-- Bit 5 of an entry of the schedule tells entry 63 from the others (R153). -/
theorem slotEntry_eq (n : Nat) (v : DWord) :
    slotEntry n v = BitVec.ofNat 8 (v.toNat / 2 ^ 0 % 2 ^ 5 + if n = 63 then 32 else 0) := by
  have hlt : v.toNat % 2 ^ 5 < 2 ^ 5 := Nat.mod_lt _ (by decide)
  refine BitVec.eq_of_toNat_eq ?_
  have hlow : (v.setWidth 8 &&& 0x1F).toNat = v.toNat % 2 ^ 5 := by
    rw [BitVec.toNat_and, BitVec.toNat_setWidth, show (0x1F : BitVec 8).toNat = 2 ^ 5 - 1 from rfl, Nat.and_two_pow_sub_one_eq_mod,
      Nat.mod_mod_of_dvd _ (by decide)]
  rw [slotEntry, BitVec.toNat_or, hlow, BitVec.toNat_ofNat, pow_zero, Nat.div_one]
  split
  · rw [show (0x20 : BitVec 8).toNat = 2 ^ 5 * 1 from rfl, ← Nat.two_pow_add_eq_or_of_lt hlt]
    omega
  · rw [show (0 : BitVec 8).toNat = 0 from rfl, Nat.zero_or]
    omega

/-- The fields of VFMAP: bits 3:0 and bit 7 (R266). -/
theorem and_vfMapBits (v : DWord) :
    v.setWidth 8 &&& 0x8F = BitVec.ofNat 8 (v.toNat / 2 ^ 0 % 2 ^ 4 + 128 * (v.toNat / 2 ^ 7 % 2 ^ 1)) := by
  refine BitVec.eq_of_getLsbD_eq fun i hi => ?_
  have hlt : v.toNat % 2 ^ 4 < 2 ^ 7 := (Nat.mod_lt _ (by decide)).trans (by decide)
  have hmask : ∀ i < 8, (0x8F : BitVec 8).getLsbD i = (decide (i < 4) || decide (i = 7)) := by decide
  rw [BitVec.getLsbD_and, hmask i hi, BitVec.getLsbD_setWidth, BitVec.getLsbD_ofNat, pow_zero, Nat.div_one, Nat.add_comm,
    show (128 : Nat) = 2 ^ 7 from rfl, Nat.testBit_two_pow_mul_add _ hlt, Nat.testBit_mod_two_pow, Nat.testBit_mod_two_pow,
    Nat.testBit_div_two_pow, BitVec.getLsbD]
  by_cases h7 : i = 7
  · subst h7; simp
  · have h : i < 7 := by omega
    simp [h, h7, hi, Bool.and_comm]

/-! ### Words of a bit vector, entries of a list -/

theorem getLsbD_putWord64 (m : BitVec 384) {k : Nat} (hk : k < 6) (x : DWord) (i : Nat) :
    (putWord64 m k x).getLsbD i = if i / 64 = k then x.getLsbD (i % 64) else m.getLsbD i := by
  simp only [putWord64, BitVec.getLsbD_or, BitVec.getLsbD_and, BitVec.getLsbD_not, BitVec.getLsbD_shiftLeft, BitVec.getLsbD_setWidth,
    BitVec.getLsbD_allOnes]
  by_cases hi : i < 384
  · by_cases hik : i / 64 = k
    · have h1 : ¬i < 64 * k := by omega
      have h2 : i - 64 * k = i % 64 := by omega
      have h3 : i % 64 < 384 := by omega
      have h4 : i % 64 < 64 := by omega
      simp [hi, hik, h1, h2, h3, h4]
    · by_cases hlow : i < 64 * k
      · simp [hi, hik, hlow]
      · have h4 : ¬i - 64 * k < 64 := by omega
        simp [hi, hik, hlow, h4, BitVec.getLsbD_of_ge x (i - 64 * k) (by omega)]
  · have hik : ¬i / 64 = k := by omega
    simp [hi, hik, BitVec.getLsbD_of_ge m i (by omega)]

/-- The fields of a queue's control word (R270). -/
theorem control_eq (v : DWord) : (fun q : LaunchQueue => q.control v.toNat) = fun q => { q with
    enable := v.getLsbD 39, device := v.getLsbD 38, priority := v.toNat / 2 ^ 36 % 2 ^ 2, size := v.toNat / 2 ^ 32 % 2 ^ 4
    ring := v.toNat / 2 ^ 0 % 2 ^ 32 } := by
  funext q
  rw [LaunchQueue.control, bitAt_toNat, bitAt_toNat]
  rfl

theorem getD_updateAt_const {α : Type} (l : List α) (k e : Nat) (x d : α) :
    (updateAt (fun _ => x) k l).getD e d = if e = k ∧ k < l.length then x else l.getD e d := by
  rw [updateAt_eq_modify, List.getD_eq_getElem?_getD, List.getElem?_modify, List.getD_eq_getElem?_getD]
  by_cases he : k = e
  · subst he
    by_cases hk : k < l.length <;> simp [hk]
  · simp [he, Ne.symm he]

theorem lookup_filter_ne {α : Type} (l : List (Nat × α)) {n k : Nat} (hk : k ≠ n) :
    (l.filter fun x => x.1 ≠ n).lookup k = l.lookup k := by
  induction l with
  | nil => rfl
  | cons x r ih =>
    obtain ⟨j, y⟩ := x
    by_cases hj : j = n
    · subst hj
      rw [List.filter_cons_of_neg (by simp), ih, List.lookup_cons, beq_false_of_ne hk]
    · rw [List.filter_cons_of_pos (by simpa using hj), List.lookup_cons, List.lookup_cons, ih]

/-! ### Slice maps (R152) -/

section
variable (s : State) (n : Nat) (f : SliceMap → SliceMap)

theorem sliceMap_onSliceMap (d : Nat) : (s.onSliceMap n f).sliceMap d = if d = n ∧ n < 4 then f (s.sliceMap n) else s.sliceMap d := by
  unfold State.sliceMap State.onSliceMap
  by_cases hn : n < 4
  · by_cases hd : n = d
    · subst hd
      simp [hn, List.getD_eq_getElem?_getD]
    · simp [hn, hd, Ne.symm hd, List.getD_eq_getElem?_getD]
  · simp [hn]

theorem SliceMap.keepOld_entries (m : SliceMap) : m.keepOld.entries = m.entries := by
  unfold SliceMap.keepOld
  split <;> rfl

theorem SliceMap.keepOld_generation (m : SliceMap) : m.keepOld.generation = m.generation := by
  unfold SliceMap.keepOld
  split <;> rfl

/-- What a map named until a new generation is published stays known under the old one (R152). -/
theorem SliceMap.mem_publish_older {m : SliceMap} {g : BitVec 16} (h : m.generation ≠ g) :
    (m.generation, m.entries) ∈ (m.publish g).older := by
  simp only [SliceMap.publish, List.mem_filter, decide_eq_true_eq]
  refine ⟨?_, h⟩
  split
  · next hmem => exact List.contains_iff_mem.1 hmem
  · exact List.mem_cons_self

end

theorem rules_plainRegisterWrites : Rules.PlainRegisterWrites := by
  intro n k v s f write entry
  refine ⟨?schedule, ?vfMap, ?apert, ?table, rfl, rfl, rfl, rfl, rfl, rfl, ?granted, ?queue, ?slices, ?generation, ?hostGrant, ?handler⟩
  case schedule =>
    exact congrArg (fun x => Host.Outcome.next { s with scheduleEntries := s.scheduleEntries.setIfInBounds n x }) (slotEntry_eq n v)
  case vfMap => exact congrArg (fun x => Host.Outcome.next { s with vfMap := s.vfMap.setIfInBounds n x }) (and_vfMapBits v)
  case apert =>
    exact congrArg (fun x => Host.Outcome.next { s with aperts := s.aperts.setIfInBounds n x })
      (and_lowBits (m := 0x3FFFFFFFFFFF) (k := 46) rfl v)
  case table =>
    change Host.Outcome.next (s.onPcb n fun p => { p with tableBase := f 6 46 * 64 }) = _
    rw [Nat.mul_comm]
  case granted => exact fun hk => ⟨fun m => putWord64 m k v, rfl, fun m i => getLsbD_putWord64 m hk v i⟩
  case queue => exact congrArg (fun g => Host.Outcome.next (s.onLaunchQueue n k g)) (control_eq v)
  case slices =>
    refine ⟨_, rfl, fun d e hn => ?_, fun d => ?_⟩
    · refine (congrArg (fun m : SliceMap => m.entries.getD e 0) (sliceMap_onSliceMap s n _ d)).trans ?_
      by_cases hd : d = n
      · subst hd
        simp only [hn, and_self, if_true, getD_updateAt_const, true_and]
        rfl
      · simp only [hd, false_and, if_false]
        rfl
    · refine (congrArg SliceMap.generation (sliceMap_onSliceMap s n _ d)).trans ?_
      by_cases hd : d = n ∧ n < 4
      · obtain ⟨rfl, hn⟩ := hd
        rw [if_pos ⟨rfl, hn⟩]
        exact SliceMap.keepOld_generation _
      · rw [if_neg hd]
        rfl
  case generation =>
    have hgen : v.setWidth 16 = BitVec.ofNat 16 (f 0 16) := setWidth_eq_field v 16 le_rfl
    refine ⟨_, rfl, fun d => ⟨?_, fun hd hn hne => ?_⟩⟩
    · refine (congrArg SliceMap.generation (sliceMap_onSliceMap s n _ d)).trans ?_
      rw [apply_ite SliceMap.generation]
      exact if_congr Iff.rfl hgen rfl
    · subst hd
      have hmap := sliceMap_onSliceMap s d (fun m => m.publish (v.setWidth 16)) d
      rw [if_pos ⟨rfl, hn⟩] at hmap
      exact (congrArg SliceMap.older hmap) ▸ SliceMap.mem_publish_older (hgen ▸ hne)
  case hostGrant =>
    refine ⟨_, rfl, fun fn => ?_⟩
    change List.lookup fn ((n, v.toNat) :: s.hostGrant.filter fun x => x.1 ≠ n) = _
    by_cases hfn : fn = n
    · rw [hfn, List.lookup_cons_self, if_pos rfl]
    · rw [List.lookup_cons, beq_false_of_ne hfn, lookup_filter_ne _ hfn, if_neg hfn]
  case handler =>
    refine congrArg (fun x => Host.Outcome.next { s with fwHndlr := x }) ((and_evenBits v).trans ?_)
    have hlt : v.toNat / 2 < 2 ^ 63 := Nat.div_lt_of_lt_mul v.isLt
    change _ = BitVec.ofNat 64 (2 * (v.toNat / 2 ^ 1 % 2 ^ 63))
    rw [pow_one, Nat.mod_eq_of_lt hlt, Nat.mul_comm]

end Sys2Proof.Machine
end

section
open Sys2Proof Sys2Proof.Machine

/-- Settles O41, by what each register's write makes of the state: the splits, the control block, and the plain registers field by
field. -/
theorem hostRegisters : Obligations.HostRegisters := ⟨rules_coreSplits, rules_controlBlockWrites, rules_plainRegisterWrites⟩
end

section
/-! ## Ports, lines and control blocks under the work at homes (R108, R109, R157 to R159)

What a write-back, an error record and a withdrawal leave of a port, and which lines caches have after them. -/

namespace Sys2Proof.Machine

/-! ### Everything aside from bytes and copies -/

section
variable (s : State)

theorem aside_homeSync (line : Nat) : (s.homeSync line).aside = s.aside := by
  refine aside_ite rfl (aside_foldl (fun t c => ?_) ((s.tracked line).filter CacheLine.owned))
  have hwritten := aside_writeBack t c.holder line
  simp only
  split
  · exact aside_ite ((aside_putLine ..).trans hwritten) hwritten
  · exact hwritten

theorem aside_homeInvalidate (line : Nat) (spare : List Holder) : (s.homeInvalidate line spare).aside = s.aside :=
  aside_foldl (fun t (c : CacheLine) => aside_giveUp t c.holder line) _

theorem aside_reclaim (line : Nat) : (s.reclaim line).aside = s.aside :=
  (aside_homeInvalidate ..).trans ((aside_homeSync ..).trans (aside_foldl (fun t (c : CacheLine) => aside_giveUp t c.holder line) _))

theorem aside_memWrite (a n x : Nat) : (s.memWrite a n x).aside = s.aside :=
  aside_foldl (fun t (y : Byte × Nat) => aside_memSet t (a + y.2) y.1) _

theorem aside_objWrite (part object off n x : Nat) : (s.objWrite part object off n x).aside = s.aside :=
  (aside_foldl (fun t _ => aside_memSet t _ _) _).trans (aside_foldl (fun t line => aside_reclaim t line) _)

theorem aside_sendError (part : Nat) (e : ErrorInfo) : (s.sendError part e).aside = s.aside :=
  aside_ite rfl (aside_objWrite ..)

end

/-! ### The ports but for their buffers -/

/-- The ports without what their buffers hold. -/
def State.ports (s : State) : Vector CxlPort 4 := s.cxl.map fun p => { p with buffer := [] }

theorem ports_of_aside {s t : State} (h : t.aside = s.aside) : t.ports = s.ports := congrArg State.cxl h

theorem ports_foldl {α : Type} {f : State → α → State} (hf : ∀ t x, (f t x).ports = t.ports) (l : List α) (s : State) :
    (l.foldl f s).ports = s.ports := by
  induction l generalizing s with
  | nil => rfl
  | cons x r ih => exact (ih (f s x)).trans (hf s x)

theorem ports_reheader (s : State) (part handle : Nat) : (s.reheader part handle).ports = s.ports := by
  unfold State.reheader
  split
  · unfold State.putBundle
    refine (ports_of_aside (aside_objWrite ..)).trans ?_
    split <;> rfl
  · rfl

/-- A bit of the doubleword at an address set (R108, R109). -/
def State.setBit (s : State) (a b : Nat) : State :=
  s.memWrite a 8 (if bitAt (s.memRead a 8) b then s.memRead a 8 else s.memRead a 8 + 2 ^ b)

theorem withdraw_of_none {s : State} {x : Nat × Nat × Nat} (h : s.objDesc x.1 x.2.1 = none) : s.withdraw x = s := by
  simp only [State.withdraw, h]

/-- A frame withdrawn: both lines reclaimed, both bits set, and the object's translations dropped (R108, R109). -/
theorem withdraw_of_some {s : State} {x : Nat × Nat × Nat} {d : ObjDesc} (h : s.objDesc x.1 x.2.1 = some d) : s.withdraw x =
    ((((s.reclaim (lineOf (d.extAt x.2.2))).reclaim (lineOf ((s.pcb x.1).entry x.2.1))).setBit (d.extAt x.2.2) 2).setBit
      ((s.pcb x.1).entry x.2.1) 11).otbInvalidate fun e => e.part = x.1 && e.object = x.2.1 := by
  simp only [State.withdraw, h]
  rfl

theorem ports_otbInvalidate (s : State) (p : OtbEntry → Bool) : (s.otbInvalidate p).ports = s.ports := rfl

theorem ports_withdraw (s : State) (x : Nat × Nat × Nat) : (s.withdraw x).ports = s.ports := by
  cases hd : s.objDesc x.1 x.2.1 with
  | none => rw [withdraw_of_none hd]
  | some d =>
    have hset (t : State) (a b : Nat) : (t.setBit a b).aside = t.aside := aside_memWrite ..
    rw [withdraw_of_some hd, ports_otbInvalidate]
    exact ports_of_aside ((hset ..).trans ((hset ..).trans ((aside_reclaim ..).trans (aside_reclaim ..))))

/-- A port that keeps all but its buffer. -/
theorem port_of_ports {s t : State} (h : t.ports = s.ports) {p : Nat} {c : CxlPort} (hc : s.cxl.toList[p]? = some c) :
    ∃ b, t.cxl.toList[p]? = some { c with buffer := b } := by
  have hget (u : State) : u.ports.toList[p]? = (u.cxl.toList[p]?).map fun x => { x with buffer := [] } := by
    simp [State.ports]
  have hsame := (hget t).symm.trans ((congrArg (fun v : Vector CxlPort 4 => v.toList[p]?) h).trans (hget s))
  rw [hc] at hsame
  obtain ⟨x, hx, hxc⟩ := Option.map_eq_some_iff.1 hsame
  refine ⟨x.buffer, hx.trans (congrArg some ?_)⟩
  cases x
  cases c
  simp only [CxlPort.mk.injEq] at hxc ⊢
  tauto

/-! ### The lines that caches have -/

/-- Every cached line satisfies a property. -/
structure State.LinesIn (s : State) (P : Nat → Prop) : Prop where
  of_mem : ∀ x ∈ s.caches, P x.line

section
variable {s : State} {P : Nat → Prop}

theorem State.LinesIn.foldl {α : Type} (h : s.LinesIn P) {f : State → α → State} (l : List α) (hf : ∀ t x, t.LinesIn P → (f t x).LinesIn P) :
    (l.foldl f s).LinesIn P := by
  induction l generalizing s with
  | nil => exact h
  | cons x r ih => exact ih (hf s x h)

theorem State.LinesIn.ite {t : State} (c : Prop) [Decidable c] (h : s.LinesIn P) (h' : t.LinesIn P) : (if c then s else t).LinesIn P := by
  split <;> assumption

/-- Fewer copies, or changes elsewhere. -/
theorem State.LinesIn.of_subset (h : s.LinesIn P) {t : State} (ht : ∀ x ∈ t.caches, x ∈ s.caches) : t.LinesIn P :=
  ⟨fun x hx => h.of_mem x (ht x hx)⟩

theorem State.LinesIn.of_lineAt (h : s.LinesIn P) {hd : Holder} {line : Nat} {c : CacheLine} (hc : s.lineAt hd line = some c) : P c.line :=
  h.of_mem c (lineAt_eq_some hc).2.2

theorem State.LinesIn.memSet (h : s.LinesIn P) (a : Nat) (b : Byte) : (s.memSet a b).LinesIn P :=
  h.of_subset fun x hx => by rwa [State.memSet_caches] at hx

theorem State.LinesIn.memWrite (h : s.LinesIn P) (a n x : Nat) : (s.memWrite a n x).LinesIn P := h.foldl _ fun _ _ ht => ht.memSet _ _

theorem State.LinesIn.putLine (h : s.LinesIn P) {c : CacheLine} (hc : P c.line) : (s.putLine c).LinesIn P := by
  refine ⟨fun x hx => ?_⟩
  obtain rfl | ⟨hx, -⟩ := mem_putLine hx
  · exact hc
  · exact h.of_mem x hx

theorem State.LinesIn.dropLine (h : s.LinesIn P) (hd : Holder) (line : Nat) : (s.dropLine hd line).LinesIn P :=
  h.of_subset fun _ hx => (mem_dropLine.1 hx).1

theorem State.LinesIn.passCopy (h : s.LinesIn P) (core : Nat) (c : CacheLine) : (s.passCopy core c).LinesIn P := by
  unfold State.passCopy
  split
  · next l hl =>
    have hline : P l.line := h.of_lineAt hl
    exact .ite _ (h.putLine (c := l.over c) hline) h
  · exact h

theorem State.LinesIn.mergeLine (h : s.LinesIn P) (c : CacheLine) : (s.mergeLine c).LinesIn P := by
  have hmerged (ls : List Nat) (xs) : ((ls.foldl (fun t l => t.expel c.holder l) s).mergeBytes xs).LinesIn P :=
    (h.foldl ls fun t l ht => ht.of_subset fun _ => mem_expel).of_subset fun x hx => by rwa [caches_mergeBytes] at hx
  unfold State.mergeLine
  simp only
  split
  · exact (hmerged ..).passCopy ..
  · exact hmerged ..

theorem State.LinesIn.writeBack (h : s.LinesIn P) (hd : Holder) (line : Nat) : (s.writeBack hd line).LinesIn P := by
  unfold State.writeBack
  split
  · exact h
  · next c hc =>
    have hline : P c.line := h.of_lineAt hc
    have hput {t : State} (ht : t.LinesIn P) : (t.putLine { c with dirty := 0 }).LinesIn P := ht.putLine (c := { c with dirty := 0 }) hline
    have hheld : (s.holdBack c).LinesIn P := by
      unfold State.holdBack
      split
      · exact h
      · exact .ite _ (hput (h.of_subset fun _ => id)) h
    exact .ite _ h (.ite _ hheld (hput (h.mergeLine c)))

theorem State.LinesIn.giveUp (h : s.LinesIn P) (hd : Holder) (line : Nat) : (s.giveUp hd line).LinesIn P :=
  .ite _ (h.writeBack hd line) ((h.writeBack hd line).dropLine hd line)

theorem State.LinesIn.homeSync (h : s.LinesIn P) (line : Nat) : (s.homeSync line).LinesIn P := by
  refine .ite _ h ?_
  have hwritten : (((s.tracked line).filter CacheLine.owned).foldl (fun t c =>
      let u := t.writeBack c.holder line
      match u.lineAt c.holder line with
      | some x => if x.dirty = 0 then u.putLine (x.inState .s) else u
      | none => u) s).LinesIn P := by
    refine h.foldl _ fun t c ht => ?_
    have hu := ht.writeBack c.holder line
    simp only
    split
    · next x hx =>
      have hline : P x.line := hu.of_lineAt hx
      exact .ite _ (hu.putLine (c := x.inState .s) hline) hu
    · exact hu
  refine ⟨fun x hx => ?_⟩
  obtain ⟨y, hy, rfl⟩ := List.mem_map.1 hx
  have hline := hwritten.of_mem y hy
  split
  · split <;> exact hline
  · exact hline

theorem State.LinesIn.reclaim (h : s.LinesIn P) (line : Nat) : (s.reclaim line).LinesIn P := by
  have hgather : (s.gather line).LinesIn P := (h.foldl _ fun t (c : CacheLine) ht => ht.giveUp c.holder line).homeSync line
  exact (hgather.foldl _ fun t (c : CacheLine) ht => ht.giveUp c.holder line).of_subset fun _ => id

theorem State.LinesIn.objWrite (h : s.LinesIn P) (part object off n x : Nat) : (s.objWrite part object off n x).LinesIn P :=
  (h.foldl _ fun _ line ht => ht.reclaim line).foldl _ fun _ _ ht => ht.memSet _ _

theorem State.LinesIn.sendError (h : s.LinesIn P) (part : Nat) (e : ErrorInfo) : (s.sendError part e).LinesIn P :=
  .ite _ (h.of_subset fun _ => id) ((h.objWrite ..).of_subset fun _ => id)

theorem State.LinesIn.reheader (h : s.LinesIn P) (part handle : Nat) : (s.reheader part handle).LinesIn P := by
  unfold State.reheader
  split
  · unfold State.putBundle
    refine State.LinesIn.objWrite ?_ ..
    split <;> exact h.of_subset fun _ => id
  · exact h

theorem State.LinesIn.withdraw (h : s.LinesIn P) (x : Nat × Nat × Nat) : (s.withdraw x).LinesIn P := by
  cases hd : s.objDesc x.1 x.2.1 with
  | none => rwa [withdraw_of_none hd]
  | some d =>
    rw [withdraw_of_some hd]
    exact ((((h.reclaim _).reclaim _).memWrite ..).memWrite ..).of_subset fun _ => id

end

end Sys2Proof.Machine
end

section
/-! ## CXL ports and extents (R157, R158, R159) -/

namespace Sys2Proof.Machine

/-! ### Copies that stay clean -/

/-- A holder's copy of a line, if any, has no dirty byte. -/
def State.CleanAt (s : State) (h : Holder) (line : Nat) : Prop := ∀ x, s.lineAt h line = some x → x.dirty = 0

section
variable {s : State} {h : Holder} {line : Nat}

theorem State.CleanAt.putLine (hs : s.CleanAt h line) {c : CacheLine} (hc : c.holder = h → c.line = line → c.dirty = 0) :
    (s.putLine c).CleanAt h line := by
  intro x hx
  rw [lineAt_putLine] at hx
  split at hx
  · next hkey =>
    obtain rfl := Option.some.inj hx
    exact hc hkey.1 hkey.2
  · exact hs x hx

theorem State.CleanAt.dropLine (hs : s.CleanAt h line) (hd : Holder) (l : Nat) : (s.dropLine hd l).CleanAt h line := by
  intro x hx
  rw [lineAt_dropLine] at hx
  split at hx
  · cases hx
  · exact hs x hx

theorem State.CleanAt.mergeBytes (hs : s.CleanAt h line) (xs : List (Byte × Nat × Option Bool × Nat)) : (s.mergeBytes xs).CleanAt h line :=
  fun x hx => hs x ((lineAt_mergeBytes ..).symm.trans hx)

theorem State.CleanAt.foldl {α : Type} (hs : s.CleanAt h line) {f : State → α → State} (l : List α)
    (hf : ∀ t x, t.CleanAt h line → (f t x).CleanAt h line) : (l.foldl f s).CleanAt h line := by
  induction l generalizing s with
  | nil => exact hs
  | cons x r ih => exact ih (hf s x hs)

/-- The bytes that an L1 hands on leave its cluster's L copy no dirtier. -/
theorem State.CleanAt.passCopy (hs : s.CleanAt h line) (core : Nat) (c : CacheLine) : (s.passCopy core c).CleanAt h line := by
  unfold State.passCopy
  split
  · next l hl =>
    split
    · obtain ⟨hlh, hll, -⟩ := lineAt_eq_some hl
      refine hs.putLine fun hholder hline => ?_
      have hsame : s.lineAt h line = some l := by
        rw [← hholder, ← hline, show (l.over c).holder = _ from hlh, show (l.over c).line = _ from hll]
        exact hl
      show l.dirty &&& ~~~c.dirty = 0
      rw [hs l hsame, BitVec.ofNat_eq_ofNat, BitVec.zero_and]
    · exact hs
  · exact hs

theorem State.CleanAt.mergeLine (hs : s.CleanAt h line) (c : CacheLine) : (s.mergeLine c).CleanAt h line := by
  have hmerged (ls : List Nat) (xs) : ((ls.foldl (fun t l => t.expel c.holder l) s).mergeBytes xs).CleanAt h line :=
    (hs.foldl ls fun t l ht => ht.foldl _ fun u y hu => (hu.mergeBytes (u.mergeMoves y)).dropLine y.holder l).mergeBytes xs
  unfold State.mergeLine
  simp only
  split
  · exact (hmerged _ _).passCopy _ _
  · exact hmerged _ _

theorem State.CleanAt.writeBack (hs : s.CleanAt h line) (hd : Holder) (l : Nat) : (s.writeBack hd l).CleanAt h line := by
  unfold State.writeBack
  split
  · exact hs
  · next c hc =>
    have hput {t : State} (ht : t.CleanAt h line) : (t.putLine { c with dirty := 0 }).CleanAt h line := ht.putLine fun _ _ => rfl
    have hheld : (s.holdBack c).CleanAt h line := by
      unfold State.holdBack
      split
      · exact hs
      · split
        · exact hput hs
        · exact hs
    split
    · exact hs
    · split
      · exact hheld
      · exact hput (hs.mergeLine c)

theorem cleanAt_writeBack (hheld : s.lineHeld line = false) : (s.writeBack h line).CleanAt h line := by
  intro x hx
  cases hc : s.lineAt h line with
  | none =>
    rw [State.writeBack, hc] at hx
    exact absurd (hc.symm.trans hx) (by simp)
  | some c =>
    rw [lineAt_writeBack_same hc hheld] at hx
    obtain rfl := Option.some.inj hx
    rfl

end

/-! ### An extent's lines written back (R159) -/

section
variable {s : State} {p first count : Nat}

theorem aside_writeExtent (s : State) (p first count : Nat) : (s.writeExtent p first count).aside = s.aside :=
  aside_foldl (fun t (c : CacheLine) => aside_writeBack t c.holder c.line) _

theorem lineInExtent_iff {line : Nat} : lineInExtent p first count line = true ↔ isFar (128 * line) = true ∧ frameOf (128 * line) % 4 = p ∧
    first ≤ frameOf (128 * line) / 4 ∧ frameOf (128 * line) / 4 < first + count := by
  simp [lineInExtent, inExtent, and_assoc]

theorem lineHeld_of_inExtent {line : Nat} (hin : lineInExtent p first count line = true) : s.lineHeld line = s.portDown p := by
  obtain ⟨hfar, hport, -⟩ := lineInExtent_iff.1 hin
  simp [State.lineHeld, portOf, hfar, hport]

/-- No copy of an extent's line is dirty once all of them have been written back. -/
theorem cleanAt_writeExtent (hup : s.portDown p = false) (h : Holder) {line : Nat} (hin : lineInExtent p first count line = true) :
    (s.writeExtent p first count).CleanAt h line := by
  have hfold (cs : List CacheLine) {t : State} (ht : t.lineHeld line = false)
      (hclean : (∃ c ∈ cs, c.holder = h ∧ c.line = line) ∨ t.CleanAt h line) :
      (cs.foldl (fun (t : State) c => t.writeBack c.holder c.line) t).CleanAt h line := by
    induction cs generalizing t with
    | nil => exact hclean.resolve_left (by simp)
    | cons c r ih =>
      refine ih ((lineHeld_of_aside (aside_writeBack ..) line).trans ht) ?_
      obtain ⟨y, hy, rfl, rfl⟩ | hclean := hclean
      · obtain rfl | hy := List.mem_cons.1 hy
        · exact .inr (cleanAt_writeBack ht)
        · exact .inl ⟨y, hy, rfl, rfl⟩
      · exact .inr (hclean.writeBack _ _)
  refine hfold _ ((lineHeld_of_inExtent hin).trans hup) ?_
  cases hc : s.lineAt h line with
  | none => exact .inr fun x hx => absurd (hc.symm.trans hx) (by simp)
  | some c =>
    obtain ⟨hh, hl, hmem⟩ := lineAt_eq_some hc
    exact .inl ⟨c, List.mem_filter.2 ⟨hmem, hl ▸ hin⟩, hh, hl⟩

end

/-! ### A port read after a change -/

section
variable {s : State} {p : Nat} {c : CxlPort}

/-- A port, and what the model names where there is none. -/
def State.port (s : State) (p : Nat) : CxlPort := (s.cxl.toList[p]?).getD CxlPort.reset

theorem lt_of_port (hc : s.cxl.toList[p]? = some c) : p < 4 := by
  have hlen := (List.getElem?_eq_some_iff.1 hc).1
  simpa using hlen

theorem portDown_eq (hc : s.cxl.toList[p]? = some c) : s.portDown p = c.down := by
  simp [State.portDown, hc]

theorem port_onCxl (hp : p < 4) (s : State) (f : CxlPort → CxlPort) : (s.onCxl p f).port p = f (s.port p) := by
  rw [State.port, cxl_onCxl s hp]
  simp [State.port, hp]

theorem onCxl_onCxl (s : State) (p : Nat) (f g : CxlPort → CxlPort) : (s.onCxl p f).onCxl p g = s.onCxl p fun c => g (f c) := by
  unfold State.onCxl
  by_cases hp : p < 4 <;> simp [hp]

/-- A port changed by a function is a port given the value that the function takes there. -/
theorem onCxl_eq_const (hp : p < 4) (s : State) (f : CxlPort → CxlPort) : s.onCxl p f = s.onCxl p fun _ => f (s.port p) := by
  unfold State.onCxl
  simp [State.port, hp]

theorem port_of_ports_eq {t : State} (h : t.ports = s.ports) (hc : s.cxl.toList[p]? = some c) :
    ∃ b, t.port p = { c with buffer := b } := by
  obtain ⟨b, hb⟩ := port_of_ports h hc
  exact ⟨b, by rw [State.port, hb, Option.getD_some]⟩

end

/-! ### A port that sets down (R157, R158, R258) -/

section
variable {s : State} {p : Nat}

/-- One error record for each partition concerned, and for partition 0 where none is (R258). -/
def State.tell (s : State) (code p : Nat) (hit : List (Nat × Nat × Nat)) : State :=
  (if distinct (hit.map (·.1)) = [] then [0] else distinct (hit.map (·.1))).foldl (fun (u : State) q => u.sendError q
    { code, die := p, unit := p, ctx := 0, object := 0, generation := 0, offset := 0 }) s

theorem tellParts_eq (s : State) (code p : Nat) (hit : List (Nat × Nat × Nat)) : s.tellParts code p hit = s.tell code p hit := by
  simp only [State.tellParts, State.tell, List.isEmpty_iff]
  rfl

/-- The accesses outstanding to a port lost. -/
def State.losing (s : State) (p : Nat) : State :=
  { s with flights := s.flights.map fun f => if f.certain then f else { f with lost := f.lost ||| f.lanesOn p } }

theorem setDown_eq (hp : p < 4) (s : State) : s.setDown p =
    if s.portDown p = true then (s.onCxl p fun c => { c with down := true }).losing p
    else ((s.onCxl p fun c => { c with down := true }).losing p).tell 0x26 p (s.farFrames fun f => f % 4 = p) := by
  unfold State.setDown
  simp only [tellParts_eq, Bool.or_eq_true, decide_eq_true_eq, Nat.not_le.2 hp, or_false]
  rfl

theorem portDown_onCxl_up (s : State) (p : Nat) (b : Bool) : (s.onCxl p fun c => { c with up := b }).portDown p = s.portDown p := by
  unfold State.portDown State.onCxl
  by_cases hp : p < 4 <;> simp [hp]

theorem overdue_iff : (s.flights.any fun f => s.overdue f p) = true ↔ ∃ f ∈ s.flights, f.certain = false ∧ f.lanesOn p ≠ 0 ∧
    f.since + 3300 * ((s.cxl.toList[p]?).map (·.timeout)).getD 0 ≤ s.time := by
  simp [State.overdue, and_assoc]

end

theorem rules_farPorts : Rules.FarPorts := by
  intro p s hp overdue parts downs present
  refine ⟨fun habsent => ?_, fun hpresent => ⟨?_, fun hlate => ?_, fun hnone => ?_, ?_⟩⟩
  · exact ⟨congrArg Host.Outcome.next (if_neg habsent),
      congrArg Host.Outcome.next (if_neg fun h => habsent ((Bool.and_eq_true _ _).mp h).1), congrArg Host.Outcome.next (if_neg habsent)⟩
  · refine congrArg Host.Outcome.next ((if_pos hpresent).trans ((setDown_eq hp _).trans ?_))
    rw [portDown_onCxl_up, onCxl_onCxl]
    rfl
  · refine congrArg Host.Outcome.next ((if_pos ?_).trans (setDown_eq hp s))
    exact (Bool.and_eq_true _ _).mpr ⟨hpresent, overdue_iff.2 hlate⟩
  · exact congrArg Host.Outcome.next (if_neg fun h => hnone (overdue_iff.1 ((Bool.and_eq_true _ _).mp h).2))
  · exact congrArg Host.Outcome.next (if_pos hpresent)

/-! ### Extents granted, asked for and given back (R159) -/

section
variable {s : State} {p first count : Nat}

/-- Nothing moves where no spilled version lives in the extent. -/
theorem moveSpilled_foldl (hfree : ∀ m ∈ s.members, ∀ x ∈ m.spilled, codeInExtent p first count x.2 = false) (t : State) :
    s.members.foldl (fun (y : Option State) m => y.bind fun u => u.moveSpilled p first count m) (some t) = some t := by
  generalize s.members = ms at hfree
  induction ms with
  | nil => rfl
  | cons m r ih =>
    obtain ⟨hm, hr⟩ := List.forall_mem_cons.1 hfree
    have hout : m.spilled.filter (fun x => codeInExtent p first count x.2) = [] := List.filter_eq_nil_iff.2 fun x hx => by simp [hm x hx]
    rw [List.foldl_cons, Option.bind_some, State.moveSpilled, hout]
    exact ih hr

end

theorem rules_extents : Rules.Extents := by
  intro p first count s c hc port inside total ack
  have hp : p < 4 := lt_of_port hc
  have hclean (f : CxlPort → CxlPort) (hup : c.down = false) : ∀ h l x, ((s.writeExtent p first count).onCxl p f).lineAt h l = some x →
      inside l → x.dirty = 0 := fun h l x hx hin =>
    cleanAt_writeExtent ((portDown_eq hc).trans hup) h (lineInExtent_iff.2 hin) x hx
  obtain ⟨b, hb⟩ := port_of_ports_eq (ports_of_aside (aside_writeExtent s p first count)) hc
  have hport (f : CxlPort → CxlPort) : port ((s.writeExtent p first count).onCxl p f) = f { c with buffer := b } :=
    (port_onCxl hp _ f).trans (congrArg f hb)
  refine ⟨fun hpresent hroom => ?_, fun hno => ?_, fun hno => ?_, fun hgranted hnew hup => ?_, fun hno => ?_, fun hasked hup hfree => ?_⟩
  · refine congrArg Host.Outcome.next (if_neg fun h => ?_)
    obtain h | h := Bool.or_eq_true_iff.1 h
    · rw [State.hasPort, hpresent] at h
      cases h
    · exact absurd (of_decide_eq_true h) (Nat.not_lt.2 hroom)
  · refine congrArg Host.Outcome.next (if_pos (Bool.or_eq_true_iff.2 ?_))
    exact hno.imp (fun h => by rw [State.hasPort, h]; rfl) decide_eq_true
  · change execExtentReleaseRequest p first count s = _
    simp only [execExtentReleaseRequest, hc]
    refine congrArg Host.Outcome.next (if_neg ?_)
    simp only [Bool.and_eq_true, Bool.not_eq_true', List.contains_iff_mem, Bool.eq_false_iff, ne_eq]
    tauto
  · have hexec : exec (.extentReleaseRequest p first count) s = .next ((s.writeExtent p first count).onCxl p fun x =>
        { x with releasing := (first, count) :: x.releasing }) := by
      change execExtentReleaseRequest p first count s = _
      simp only [execExtentReleaseRequest, hc]
      exact congrArg Host.Outcome.next (if_pos (by simp [hgranted, hnew, hup]))
    exact ⟨_, hexec, by rw [hport], by rw [hport], hclean _ hup⟩
  · change execExtentReleaseAck p first count s = _
    simp only [execExtentReleaseAck, hc]
    exact congrArg Host.Outcome.next (if_pos (by simpa using hno))
  · have hexec : ack = .next ((s.writeExtent p first count).onCxl p fun x => { x with
        granted := x.granted.erase (first, count), releasing := x.releasing.erase (first, count), capacity := x.capacity - count }) := by
      change execExtentReleaseAck p first count s = _
      simp only [execExtentReleaseAck, hc]
      rw [if_neg (by simp [hasked, hup]), moveSpilled_foldl hfree]
    exact ⟨_, hexec, by rw [hport], by rw [hport], by rw [hport], hclean _ hup⟩

end Sys2Proof.Machine
end

section
/-! ## Bytes at their homes, written and read as numbers (R19, R145) -/

namespace Sys2Proof.Machine

section
variable {s : State}

/-- A byte after a run of bytes is written. -/
theorem memByte_memStore (h : s.MemOk) (a : Nat) (bs : List Byte) (k : Nat) :
    (s.memStore a bs).memByte k = if a ≤ k ∧ k < a + bs.length then bs.getD (k - a) 0 else s.memByte k := by
  have hrun (l : List Byte) (n : Nat) {t : State} (ht : t.MemOk) : ((l.zipIdx n).foldl (fun u x => u.memSet (a + x.2) x.1) t).memByte k =
      if a + n ≤ k ∧ k < a + n + l.length then l.getD (k - (a + n)) 0 else t.memByte k := by
    induction l generalizing n t with
    | nil => rw [if_neg (by simp only [List.length_nil]; omega)]; rfl
    | cons b r ih =>
      rw [List.zipIdx_cons, List.foldl_cons, ih (n + 1) (memSet_ok ht _ _), List.length_cons]
      by_cases hk : k = a + n
      · subst hk
        rw [if_neg (by omega), memByte_memSet_same ht, if_pos (by omega), Nat.sub_self, List.getD_cons_zero]
      · rw [memByte_memSet_ne ht _ hk]
        by_cases hin : a + (n + 1) ≤ k ∧ k < a + (n + 1) + r.length
        · rw [if_pos hin, if_pos (by omega), show k - (a + n) = k - (a + (n + 1)) + 1 by omega, List.getD_cons_succ]
        · rw [if_neg hin, if_neg (by omega)]
  exact hrun bs 0 h

theorem memByte_memWrite_off (h : s.MemOk) {a n k : Nat} (x : Nat) (hk : ¬(a ≤ k ∧ k < a + n)) : (s.memWrite a n x).memByte k = s.memByte k := by
  rw [State.memWrite, memByte_memStore h, length_leBytes, if_neg hk]

/-- A number reads back as it was written. -/
theorem memRead_memWrite (h : s.MemOk) (a n x : Nat) : (s.memWrite a n x).memRead a n = x % 256 ^ n := by
  rw [← leNat_natBytes n x, State.memRead]
  congr 1
  refine List.ext_getElem (by simp [length_natBytes]) fun i h1 h2 => ?_
  rw [length_natBytes] at h2
  rw [List.getElem_map, List.getElem_range, State.memWrite, memByte_memStore h, length_leBytes, if_pos (by omega), Nat.add_sub_cancel_left]
  simp [leBytes, length_natBytes, h2]

/-- Bytes that do not change read as the same number. -/
theorem memRead_congr {t : State} {a n : Nat} (h : ∀ k, a ≤ k → k < a + n → t.memByte k = s.memByte k) : t.memRead a n = s.memRead a n := by
  unfold State.memRead
  exact congrArg leNat (List.map_congr_left fun i hi => h _ (by omega) (by have := List.mem_range.1 hi; omega))

theorem memRead_lt (s : State) (a n : Nat) : s.memRead a n < 256 ^ n := by
  have hlt := Nat.ofDigits_lt_base_pow_length (b := 256) (by decide) (toNat_lt_256 (l := (List.range n).map fun i => s.memByte (a + i)))
  rw [List.length_map, List.length_map, List.length_range] at hlt
  rw [State.memRead, leNat_eq_ofDigits]
  exact hlt

theorem homeWord_of_no_caches (hc : s.caches = []) (a n : Nat) : s.homeWord a n = s.memRead a n := by
  simp only [State.homeWord, homeByte_of_no_caches hc, State.memRead]

theorem memStore_frame (s : State) (a : Nat) (bs : List Byte) :
    s.memStore a bs = { s with mem := (s.memStore a bs).mem, hostMem := (s.memStore a bs).hostMem } := by
  have hone (t : State) (k : Nat) (b : Byte) : t.memSet k b = { t with mem := (t.memSet k b).mem, hostMem := (t.memSet k b).hostMem } := by
    unfold State.memSet
    split <;> rfl
  have hrun (l : List (Byte × Nat)) (t : State) : l.foldl (fun u x => u.memSet (a + x.2) x.1) t =
      { t with mem := (l.foldl (fun u x => u.memSet (a + x.2) x.1) t).mem
               hostMem := (l.foldl (fun u x => u.memSet (a + x.2) x.1) t).hostMem } := by
    induction l generalizing t with
    | nil => rfl
    | cons x r ih =>
      rw [List.foldl_cons, ih, hone t]
  exact hrun _ s

/-! ### One bit of a doubleword set -/

theorem add_two_pow_eq_or {v b : Nat} (h : v.testBit b = false) : v + 2 ^ b = v ||| 2 ^ b := by
  have hbit : v / 2 ^ b % 2 = 0 := by
    rw [Nat.testBit_eq_decide_div_mod_eq, decide_eq_false_iff_not] at h
    omega
  have hlow : v % 2 ^ (b + 1) = v % 2 ^ b := by rw [Nat.mod_pow_succ, hbit, Nat.mul_zero, Nat.add_zero]
  have hlt : v % 2 ^ b < 2 ^ b := Nat.mod_lt _ (by positivity)
  have hv : v = 2 ^ (b + 1) * (v / 2 ^ (b + 1)) + v % 2 ^ b := by rw [← hlow, Nat.div_add_mod]
  calc v + 2 ^ b
    _ = 2 ^ (b + 1) * (v / 2 ^ (b + 1)) + (v % 2 ^ b + 2 ^ b) := by omega
    _ = 2 ^ (b + 1) * (v / 2 ^ (b + 1)) ||| (v % 2 ^ b + 2 ^ b) := Nat.two_pow_add_eq_or_of_lt (by rw [pow_succ]; omega) _
    _ = (2 ^ (b + 1) * (v / 2 ^ (b + 1)) ||| v % 2 ^ b) ||| 2 ^ b := by rw [← Nat.or_two_pow_eq_add_of_lt hlt, Nat.or_assoc]
    _ = v ||| 2 ^ b := by rw [← Nat.two_pow_add_eq_or_of_lt (by rw [pow_succ]; omega), ← hv]

theorem or_two_pow_of_testBit {v b : Nat} (h : v.testBit b = true) : v ||| 2 ^ b = v := by
  refine Nat.eq_of_testBit_eq fun i => ?_
  rw [Nat.testBit_or, Nat.testBit_two_pow]
  by_cases hi : b = i
  · subst hi; simp [h]
  · simp [hi]

theorem setBit_frame (s : State) (a b : Nat) : s.setBit a b = { s with mem := (s.setBit a b).mem, hostMem := (s.setBit a b).hostMem } :=
  memStore_frame ..

theorem setBit_ok (h : s.MemOk) (a b : Nat) : (s.setBit a b).MemOk := memWrite_ok h ..

theorem caches_setBit (s : State) (a b : Nat) : (s.setBit a b).caches = s.caches := by rw [setBit_frame]

theorem pcbs_setBit (s : State) (a b : Nat) : (s.setBit a b).pcbs = s.pcbs := by rw [setBit_frame]

theorem memRead_setBit_off (h : s.MemOk) {a k n : Nat} (b : Nat) (hk : ∀ i, k ≤ i → i < k + n → ¬(a ≤ i ∧ i < a + 8)) :
    (s.setBit a b).memRead k n = s.memRead k n :=
  memRead_congr fun i hi hi' => memByte_memWrite_off h _ (hk i hi hi')

theorem memRead_setBit (h : s.MemOk) (a : Nat) {b : Nat} (hb : b < 64) : (s.setBit a b).memRead a 8 = s.memRead a 8 ||| 2 ^ b := by
  have hlt : s.memRead a 8 < 2 ^ 64 := memRead_lt s a 8
  have hor : (if bitAt (s.memRead a 8) b = true then s.memRead a 8 else s.memRead a 8 + 2 ^ b) = s.memRead a 8 ||| 2 ^ b := by
    rw [bitAt_eq_testBit]
    split
    · next hset => exact (or_two_pow_of_testBit hset).symm
    · next hset => exact add_two_pow_eq_or (Bool.eq_false_iff.2 hset)
  rw [State.setBit, memRead_memWrite h, hor]
  exact Nat.mod_eq_of_lt (Nat.or_lt_two_pow hlt (Nat.pow_lt_pow_right (by decide) hb))

end

/-! ### The words of an object's table entry (R107, R108) -/

section
variable {s : State} {part object : Nat} {d : ObjDesc}

/-- The eight words of an entry at an address. -/
def State.entryWords (s : State) (a : Nat) : List DWord := (List.range 8).map fun i => BitVec.ofNat 64 (s.homeWord (a + 8 * i) 8)

theorem objDesc_eq_some_iff : s.objDesc part object = some d ↔ ∃ p, s.pcbs.toList[part]? = some p ∧ object ≠ 0 ∧ object < p.tableEntries ∧
    parseObject (s.entryWords (p.entry object)) = some d := by
  unfold State.objDesc State.objWords
  cases s.pcbs.toList[part]? with
  | none => simp
  | some p =>
    by_cases h : object ≠ 0 ∧ object < p.tableEntries
    · simp [h.1, h.2, Nat.not_le.2 h.2, State.entryWords]
    · have h' : object = 0 ∨ p.tableEntries ≤ object := by omega
      simp only [Bool.or_eq_true, decide_eq_true_eq, if_pos h', Option.bind_none, Option.some.injEq, exists_eq_left']
      exact iff_of_false (by simp) fun hx => h ⟨hx.1, hx.2.1⟩

theorem getD_entryWords (s : State) (a : Nat) {i : Nat} (hi : i < 8) : (s.entryWords a).getD i 0 = BitVec.ofNat 64 (s.homeWord (a + 8 * i) 8) := by
  simp [State.entryWords, hi]

/-- A field that does not reach bit 11. -/
theorem bits_or_bit11 {v lo n : Nat} (h : 11 < lo ∨ lo + n ≤ 11) : bits (v ||| 2 ^ 11) lo n = bits v lo n := by
  refine Nat.eq_of_testBit_eq fun i => ?_
  simp only [bits, Nat.testBit_mod_two_pow, Nat.testBit_div_two_pow, Nat.testBit_or, Nat.testBit_two_pow]
  by_cases hi : i < n
  · simp [show ¬11 = i + lo by omega]
  · simp [hi]

theorem bitAt_or_bit11 {v i : Nat} (h : i ≠ 11) : bitAt (v ||| 2 ^ 11) i = bitAt v i := by
  rw [bitAt_eq_testBit, bitAt_eq_testBit, Nat.testBit_or, Nat.testBit_two_pow, decide_eq_false (Ne.symm h), Bool.or_false]

theorem bitAt_bit11 (v : Nat) : bitAt (v ||| 2 ^ 11) 11 = true := by
  rw [bitAt_eq_testBit, Nat.testBit_or, Nat.testBit_two_pow, decide_eq_true rfl, Bool.or_true]

/-- Bit 11 of an entry's first word says that the object is withdrawn, and nothing else (R108). -/
theorem parseObject_withdrawn {w w' : List DWord} (hfirst : (w'.getD 0 0).toNat = (w.getD 0 0).toNat ||| 2 ^ 11)
    (hrest : ∀ i, 0 < i → i < 8 → w'.getD i 0 = w.getD i 0) (h : parseObject w = some d) :
    parseObject w' = some { d with withdrawn := true } := by
  unfold parseObject at h ⊢
  simp (disch := decide) only [hfirst, hrest, bits_or_bit11, bitAt_or_bit11, bitAt_bit11]
  rw [Option.ite_none_right_eq_some] at h ⊢
  obtain ⟨hwell, hd⟩ := h
  obtain rfl := Option.some.inj hd
  exact ⟨hwell, rfl⟩

end

end Sys2Proof.Machine
end

section
/-! ## Forced removals (R108, R109, R159, R258) -/

namespace Sys2Proof.Machine

/-! ### One frame withdrawn -/

section
variable {s : State} {d : ObjDesc}

/-- Two ranges of bytes are apart: an entry of the object table and an entry of an extent list. -/
def EntriesApart (e x : Nat) : Prop := ∀ a b, e ≤ a → a < e + 64 → x ≤ b → b < x + 8 → a ≠ b

/-- Both bits set where nothing is cached: the frame's and the object's. -/
def State.marked (s : State) (x e : Nat) : State := (s.setBit x 2).setBit e 11

theorem marked_frame (s : State) (x e : Nat) : s.marked x e = { s with mem := (s.marked x e).mem, hostMem := (s.marked x e).hostMem } := by
  unfold State.marked
  rw [setBit_frame, setBit_frame s]

theorem caches_marked (s : State) (x e : Nat) : (s.marked x e).caches = s.caches := by rw [marked_frame]

theorem pcbs_marked (s : State) (x e : Nat) : (s.marked x e).pcbs = s.pcbs := by rw [marked_frame]

theorem memRead_marked_extent (h : s.MemOk) {x e : Nat} (hapart : EntriesApart e x) :
    (s.marked x e).memRead x 8 = s.memRead x 8 ||| 2 ^ 2 := by
  have hoff : ∀ i, x ≤ i → i < x + 8 → ¬(e ≤ i ∧ i < e + 8) := fun i hi hi' ⟨he, he'⟩ => hapart i i he (by omega) hi hi' rfl
  rw [State.marked, memRead_setBit_off (setBit_ok h _ _) _ hoff, memRead_setBit h x (by decide)]

theorem memRead_marked_first (h : s.MemOk) {x e : Nat} (hapart : EntriesApart e x) :
    (s.marked x e).memRead e 8 = s.memRead e 8 ||| 2 ^ 11 := by
  have hoff : ∀ i, e ≤ i → i < e + 8 → ¬(x ≤ i ∧ i < x + 8) := fun i hi hi' ⟨hx, hx'⟩ => hapart i i hi (by omega) hx hx' rfl
  rw [State.marked, memRead_setBit (setBit_ok h _ _) e (by decide), memRead_setBit_off h _ hoff]

theorem memRead_marked_rest (h : s.MemOk) {x e k : Nat} (hapart : EntriesApart e x) (hk : 0 < k) (hk' : k < 8) :
    (s.marked x e).memRead (e + 8 * k) 8 = s.memRead (e + 8 * k) 8 := by
  have hoff : ∀ i, e + 8 * k ≤ i → i < e + 8 * k + 8 → ¬(x ≤ i ∧ i < x + 8) := fun i hi hi' ⟨hx, hx'⟩ =>
    hapart i i (by omega) (by omega) hx hx' rfl
  rw [State.marked, memRead_setBit_off (setBit_ok h _ _) _ (fun i hi hi' ⟨he, he'⟩ => by omega), memRead_setBit_off h _ hoff]

/-- The words of a table entry once its object is marked. -/
theorem parse_marked (h : s.MemOk) (hc : s.caches = []) {x e : Nat} (hapart : EntriesApart e x) (hd : parseObject (s.entryWords e) = some d) :
    parseObject ((s.marked x e).entryWords e) = some { d with withdrawn := true } := by
  have hword {t : State} (ht : t.caches = []) {i : Nat} (hi : i < 8) : (t.entryWords e).getD i 0 = BitVec.ofNat 64 (t.memRead (e + 8 * i) 8) := by
    rw [getD_entryWords t e hi, homeWord_of_no_caches ht]
  have hc' : (s.marked x e).caches = [] := (caches_marked ..).trans hc
  refine parseObject_withdrawn ?_ (fun i hi hi' => ?_) hd
  · have hlt : s.memRead e 8 < 2 ^ 64 := memRead_lt s e 8
    have hlt' : s.memRead e 8 ||| 2 ^ 11 < 2 ^ 64 := Nat.or_lt_two_pow hlt (by decide)
    rw [hword hc' (by decide), hword hc (by decide), Nat.mul_zero, Nat.add_zero, memRead_marked_first h hapart, BitVec.toNat_ofNat,
      BitVec.toNat_ofNat, Nat.mod_eq_of_lt hlt, Nat.mod_eq_of_lt hlt']
  · rw [hword hc' hi', hword hc hi', memRead_marked_rest h hapart hi hi']

/-- A state but for its translations. -/
def State.withOtb (s : State) (os : List OtbEntry) : State := { s with otb := os }

theorem caches_withOtb (s : State) (os : List OtbEntry) : (s.withOtb os).caches = s.caches := rfl
theorem pcbs_withOtb (s : State) (os : List OtbEntry) : (s.withOtb os).pcbs = s.pcbs := rfl
theorem memRead_withOtb (s : State) (os : List OtbEntry) (a n : Nat) : (s.withOtb os).memRead a n = s.memRead a n := rfl
theorem entryWords_withOtb (s : State) (os : List OtbEntry) (a : Nat) : (s.withOtb os).entryWords a = s.entryWords a := rfl
theorem memRead_withDirs (s : State) (ds : List DirEntry) (a n : Nat) : (s.withDirs ds).memRead a n = s.memRead a n := rfl
theorem entryWords_withDirs (s : State) (ds : List DirEntry) (a : Nat) : (s.withDirs ds).entryWords a = s.entryWords a := rfl

/-- With nothing cached, what a withdrawal leaves apart from directories and translations. -/
theorem withdraw_of_no_caches (hc : s.caches = []) {n : Nat × Nat × Nat} (hd : s.objDesc n.1 n.2.1 = some d) : ∃ ds os,
    s.withdraw n = ((s.withDirs ds).marked (d.extAt n.2.2) ((s.pcb n.1).entry n.2.1)).withOtb os := by
  have hreclaimed := reclaimed_of_no_caches hc [lineOf (d.extAt n.2.2), lineOf ((s.pcb n.1).entry n.2.1)]
  rw [List.foldl_cons, List.foldl_cons, List.foldl_nil] at hreclaimed
  rw [withdraw_of_some hd, hreclaimed]
  exact ⟨_, _, rfl⟩

/-- The frame's entry and its object carry the withdrawn bit from then on (R108, R109). -/
theorem withdraw_marks (h : s.MemOk) (hc : s.caches = []) {n : Nat × Nat × Nat} (hd : s.objDesc n.1 n.2.1 = some d)
    (hapart : EntriesApart ((s.pcb n.1).entry n.2.1) (d.extAt n.2.2)) :
    (s.withdraw n).objDesc n.1 n.2.1 = some { d with withdrawn := true } ∧ extWithdrawn ((s.withdraw n).extWord d n.2.2) = true := by
  obtain ⟨ds, os, hw⟩ := withdraw_of_no_caches hc hd
  obtain ⟨p, hp, hzero, hlt, hparse⟩ := objDesc_eq_some_iff.1 hd
  have hpcb : s.pcb n.1 = p := by rw [State.pcb, List.getD_eq_getElem?_getD, hp, Option.getD_some]
  rw [hpcb] at hw hapart
  rw [hw]
  have hok : (s.withDirs ds).MemOk := h
  have hclear : (s.withDirs ds).caches = [] := hc
  refine ⟨objDesc_eq_some_iff.2 ⟨p, ?_, hzero, hlt, ?_⟩, ?_⟩
  · rw [pcbs_withOtb, pcbs_marked]
    exact hp
  · rw [entryWords_withOtb]
    exact parse_marked hok hclear hapart ((entryWords_withDirs ..).symm ▸ hparse)
  · rw [extWithdrawn, State.extWord, homeWord_of_no_caches (by rw [caches_withOtb, caches_marked, hclear]), memRead_withOtb,
      memRead_marked_extent hok hapart, BitVec.getLsbD_ofNat, Nat.testBit_or, Nat.testBit_two_pow]
    simp

end

/-! ### The removal -/

section
variable {s : State} {p first count : Nat}

/-- A machine whose extent is gone: its lines and the versions in it. -/
def State.withoutExtent (s : State) (p first count : Nat) : State :=
  { s with
    caches := s.caches.filter fun l => !lineInExtent p first count l.line
    resident := s.resident.filter fun l => !lineInExtent p first count l.line
    dirs := s.dirs.filter fun l => !lineInExtent p first count l.line
    members := s.members.map fun m => { m with spilled := m.spilled.filter fun x => !codeInExtent p first count x.2 } }

/-- The member lines with a spilled version in an extent. -/
def State.spilledIn (s : State) (p first count : Nat) : List MemberLine :=
  s.members.filter fun m => m.spilled.any fun x => codeInExtent p first count x.2

/-- As `withoutExtent`, the headers of the manifests concerned written anew. -/
def State.removed (s : State) (p first count : Nat) : State :=
  (s.spilledIn p first count).foldl (fun y m => y.reheader m.part m.handle) (s.withoutExtent p first count)

/-- Every mapped frame of the extent withdrawn, and the partitions told. -/
def State.withdrawn (s : State) (p first count : Nat) : State :=
  ((s.farFrames (inExtent p first count)).foldl State.withdraw (s.removed p first count)).tell 0x25 p (s.farFrames (inExtent p first count))

/-- What becomes of the port. -/
def CxlPort.without (c : CxlPort) (p first count : Nat) : CxlPort :=
  { c with
    buffer := c.buffer.filter fun l => !lineInExtent p first count l.line
    granted := c.granted.erase (first, count), releasing := c.releasing.erase (first, count), capacity := c.capacity - count }

theorem exec_extentForcedRemoval {c : CxlPort} (hc : s.cxl.toList[p]? = some c) : exec (.extentForcedRemoval p first count) s =
    .next (if (first, count) ∈ c.granted then (s.withdrawn p first count).onCxl p fun x => x.without p first count else s) := by
  change execExtentForcedRemoval p first count s = _
  simp only [execExtentForcedRemoval, hc, tellParts_eq]
  by_cases hg : (first, count) ∈ c.granted
  · rw [if_neg (by simp [hg]), if_pos hg]
    rfl
  · rw [if_pos (by simp [hg]), if_neg hg]

theorem members_of_aside {s t : State} (h : t.aside = s.aside) : t.members = s.members := by
  have hmembers : t.aside.members = s.aside.members := congrArg State.members h
  exact hmembers

theorem members_reheader (s : State) (part handle : Nat) : (s.reheader part handle).members = s.members := by
  unfold State.reheader
  split
  · unfold State.putBundle
    refine (members_of_aside (aside_objWrite ..)).trans ?_
    split <;> rfl
  · rfl

theorem members_removed (s : State) (p first count : Nat) : (s.removed p first count).members = (s.withoutExtent p first count).members := by
  unfold State.removed
  generalize s.withoutExtent p first count = t
  induction s.spilledIn p first count generalizing t with
  | nil => rfl
  | cons m r ih => exact (ih _).trans (members_reheader ..)

theorem not_spilled_removed : ∀ m ∈ (s.removed p first count).members, ∀ x ∈ m.spilled, codeInExtent p first count x.2 = false := by
  rw [members_removed]
  intro m hm x hx
  obtain ⟨m, -, rfl⟩ := List.mem_map.1 hm
  simpa using (List.mem_filter.1 hx).2

/-- Where no version lives in the extent only lines go. -/
theorem removed_of_free (hfree : ∀ m ∈ s.members, ∀ x ∈ m.spilled, codeInExtent p first count x.2 = false) : s.removed p first count =
    { s with
      caches := (s.removed p first count).caches, resident := (s.removed p first count).resident, dirs := (s.removed p first count).dirs } := by
  have hnone : s.spilledIn p first count = [] := List.filter_eq_nil_iff.2 fun m hm => by
    simp only [List.any_eq_true, not_exists, not_and, Bool.not_eq_true]
    exact hfree m hm
  have hkept : (s.members.map fun m => { m with spilled := m.spilled.filter fun x => !codeInExtent p first count x.2 }) = s.members := by
    refine (List.map_congr_left fun m hm => ?_).trans (List.map_id _)
    have hall : (m.spilled.filter fun x => !codeInExtent p first count x.2) = m.spilled :=
      List.filter_eq_self.2 fun x hx => by rw [hfree m hm x hx]; rfl
    rw [hall]
    rfl
  simp only [State.removed, hnone, List.foldl_nil, State.withoutExtent, hkept]

theorem ports_tell (s : State) (code p : Nat) (hit : List (Nat × Nat × Nat)) : (s.tell code p hit).ports = s.ports :=
  ports_foldl (fun t q => ports_of_aside (aside_sendError t q _)) _ s

theorem ports_withdrawn (s : State) (p first count : Nat) : (s.withdrawn p first count).ports = s.ports :=
  (ports_tell ..).trans ((ports_foldl ports_withdraw _ _).trans (ports_foldl (fun t (m : MemberLine) => ports_reheader t m.part m.handle) _ _))

theorem linesIn_withdrawn (s : State) (p first count : Nat) :
    (s.withdrawn p first count).LinesIn fun line => lineInExtent p first count line = false := by
  have hstart : (s.withoutExtent p first count).LinesIn fun line => lineInExtent p first count line = false :=
    ⟨fun x hx => by simpa using (List.mem_filter.1 hx).2⟩
  have hremoved : (s.removed p first count).LinesIn fun line => lineInExtent p first count line = false :=
    hstart.foldl _ fun _ m ht => ht.reheader m.part m.handle
  exact (hremoved.foldl _ fun _ x ht => ht.withdraw x).foldl _ fun _ q ht => ht.sendError q _

end

theorem rules_forcedRemovals : Rules.ForcedRemovals := by
  intro p first count s c hc port inside force
  have hp : p < 4 := lt_of_port hc
  refine ⟨fun hno => (exec_extentForcedRemoval hc).trans (congrArg Host.Outcome.next (if_neg hno)), fun hgranted => ?_,
    fun n d hd hok hcaches hapart => withdraw_marks hok hcaches hd hapart⟩
  have hforce : force = .next ((s.withdrawn p first count).onCxl p fun x => x.without p first count) :=
    (exec_extentForcedRemoval hc).trans (congrArg Host.Outcome.next (if_pos hgranted))
  obtain ⟨b, hb⟩ := port_of_ports_eq (ports_withdrawn s p first count) hc
  have hport : port ((s.withdrawn p first count).onCxl p fun x => x.without p first count) =
      CxlPort.without { c with buffer := b } p first count := (port_onCxl hp _ _).trans (by rw [hb])
  have houtside {l : Nat} (h : lineInExtent p first count l = false) : ¬inside l := fun hin =>
    absurd (lineInExtent_iff.2 hin) (by simp [h])
  refine ⟨_, s.removed p first count, hforce, by rw [hport]; rfl, by rw [hport]; rfl, by rw [hport]; rfl,
    fun x hx => houtside ((linesIn_withdrawn s p first count).of_mem x hx), fun x hx => ?_, not_spilled_removed, removed_of_free, ?_⟩
  · rw [hport] at hx
    exact houtside (by simpa using (List.mem_filter.1 hx).2)
  · refine (onCxl_eq_const hp _ _).trans ?_
    rw [hport, ← hb]
    rfl

end Sys2Proof.Machine
end

section
open Sys2Proof Sys2Proof.Machine

/-- Settles O49: what a port that sets down loses and tells, write-backs that leave an extent's copies clean, and a removal's parts, each
of which keeps the ports but for their buffers and brings no line in. -/
theorem farMemory : Obligations.FarMemory := ⟨rules_farPorts, rules_extents, rules_forcedRemovals⟩
end

section
/-! ## What an acquire leaves of the clock

R165, R243: the copies that end and the flips that are settled change bytes and what tracks them, not who acts. -/

namespace Sys2Proof.Machine

section
variable {s : State} {k : Clock}

/-! ### Copies -/

theorem State.ClockIs.eachLine (h : s.ClockIs k) (hd : Holder) {f : State → Nat → State}
    (hf : ∀ t l, t.ClockIs k → (f t l).ClockIs k) : (s.eachLine hd f).ClockIs k := h.foldl _ hf

theorem State.ClockIs.endL (h : s.ClockIs k) (cluster line : Nat) : (s.endL cluster line).ClockIs k := by
  unfold State.endL
  split
  · exact .ite _ (h.giveUp _ _) h
  · exact h

theorem State.ClockIs.endAllL (h : s.ClockIs k) (cluster : Nat) : (s.endAllL cluster).ClockIs k :=
  h.eachLine _ fun _ _ ht => ht.endL _ _

theorem State.ClockIs.clearL1 (h : s.ClockIs k) (core : Nat) : (s.clearL1 core).ClockIs k :=
  h.eachLine _ fun _ _ ht => ht.giveUp _ _

theorem State.ClockIs.acquireCaches (h : s.ClockIs k) (core : Nat) (sc : Scope) : (s.acquireCaches core sc).ClockIs k :=
  .ite _ h (.ite _ (h.clearL1 _) ((h.clearL1 _).endAllL _))

theorem State.ClockIs.fitLine (h : s.ClockIs k) (hd : Holder) (p : Place) : (s.fitLine hd p).ClockIs k := by
  unfold State.fitLine
  split
  · exact h
  · exact .ite _ (h.giveUp _ _) (.ite _ h (h.putLine _))

theorem State.ClockIs.dropFormer (h : s.ClockIs k) (hd : Holder) (p : Place) : (s.dropFormer hd p).ClockIs k := by
  unfold State.dropFormer
  split
  · exact h
  · exact h.foldl _ fun _ _ ht => ht.giveUp _ _

theorem State.ClockIs.beforeHalf (h : s.ClockIs k) (hd : Holder) (p : Place) : (s.beforeHalf hd p).ClockIs k := by
  unfold State.beforeHalf
  split
  · exact (h.fitLine _ _).homeSync _
  · exact h.homeSync _

theorem State.ClockIs.freshen (h : s.ClockIs k) (hd : Holder) (p : Place) : (s.freshen hd p).ClockIs k := by
  unfold State.freshen
  extract_lets half fitted filled
  have hfitted : fitted.ClockIs k := (h.dropFormer hd p).fitLine hd p
  have hfilled : filled.ClockIs k := .ite _ (hfitted.beforeHalf hd p) hfitted
  split
  · exact hfilled
  · exact .ite _ hfilled (hfilled.putLine _)

theorem State.ClockIs.freshenHalves (h : s.ClockIs k) (core : Nat) (ps : List Place) : (s.freshenHalves core ps).ClockIs k :=
  h.foldl _ fun t p ht => by
    have hboth := (ht.freshen (.l1 core) p).freshen (.cluster (clusterOf core)) p
    simp only
    cases ((t.freshen (.l1 core) p).freshen (.cluster (clusterOf core)) p).nearHolder core p.line with
    | none => exact hboth
    | some near => exact hboth.freshen near p

/-! ### Flips -/

theorem State.ClockIs.putMember (h : s.ClockIs k) (m : MemberLine) : (s.putMember m).ClockIs k := .ite _ h h

theorem State.ClockIs.unpoison (h : s.ClockIs k) (a n : Nat) : (s.unpoison a n).ClockIs k := .ite _ h h

theorem State.ClockIs.markPlaces (h : s.ClockIs k) (ps : List Place) (bad : BitVec 128) : (s.markPlaces ps bad).ClockIs k :=
  .ite _ h (h.foldl _ fun _ _ ht => .ite _ (ht.unpoison _ _) (ht.unpoison _ _))

theorem State.ClockIs.flip (h : s.ClockIs k) (m : MemberLine) : (s.flip m).ClockIs k := by
  unfold State.flip
  split
  · exact h
  · exact (((h.eachPlaceLine _ fun _ _ ht => ht.reclaim _).putNat _ _).markPlaces _ _).putMember _

theorem State.ClockIs.settle (h : s.ClockIs k) (m : MemberLine) : (s.settle m).ClockIs k := by
  unfold State.settle
  split
  · exact .ite _ (h.putMember _) (.ite _ (h.flip _) h)
  · exact h

theorem State.ClockIs.settleAll (h : s.ClockIs k) : s.settleAll.ClockIs k := h.foldl _ fun _ _ ht => ht.settle _

theorem State.ClockIs.acquire (h : s.ClockIs k) (core : Nat) (sc : Scope) : (s.acquire core sc).ClockIs k := by
  have hflips : (s.acquireFlips sc).ClockIs k := .ite _ h.settleAll h
  exact hflips.acquireCaches core sc

/-! ### The word that a WAITV observes, and its run -/

theorem State.ClockIs.observe (h : s.ClockIs k) (id : RegionId) (d : ObjDesc) (run : List Nat) : (s.observe id d run).ClockIs k := by
  unfold State.observe
  extract_lets slice bytes fresh others mine
  refine .ite _ h (.ite _ h (.ite _ h ?_))
  split <;> exact h

theorem State.ClockIs.observeRun (h : s.ClockIs k) (part object : Nat) (d : ObjDesc) (run : List Nat) :
    (s.observeRun part object d run).ClockIs k := .ite _ h (h.foldl _ fun _ _ ht => ht.observe _ _ _)

theorem State.ClockIs.waitvRun (h : s.ClockIs k) (t : State) (g : Agent) (a : Attrs) (q : Req) : (s.waitvRun t g a q).ClockIs k := by
  unfold State.waitvRun
  split
  · exact h
  · exact h.observeRun _ _ _ _

theorem State.ClockIs.levelReady (h : s.ClockIs k) {core : Nat} {sc : Scope} {p : Place} {t : State} (ht : s.levelReady core sc p = .ok t) :
    t.ClockIs k := by
  have hnear := (h.freshenHalves core [p]).homeSync p.line
  unfold State.levelReady at ht
  split at ht
  · cases ht
  · cases ht
    exact .ite _ hnear (hnear.homeSync _)

theorem State.ClockIs.readyLines (h : s.ClockIs k) {f : State → Place → Except Stop State}
    (hf : ∀ u p v, u.ClockIs k → f u p = .ok v → v.ClockIs k) {ps : List Place} {t : State} (ht : readyLines f s ps = .ok t) :
    t.ClockIs k := by
  induction ps generalizing s with
  | nil =>
    cases ht
    exact h
  | cons p r ih =>
    unfold Machine.readyLines at ht
    split at ht
    · cases ht
    next u hu => exact ih (hf s p u h hu) ht

theorem State.ClockIs.observeWord (h : s.ClockIs k) {g : Agent} {a : Attrs} {q : Req} {u : State} {x : Word}
    (hx : s.observeWord g a q = .ok (u, x)) : u.ClockIs k := by
  unfold State.observeWord at hx
  split at hx
  · cases hx
  extract_lets o at hx
  split at hx
  · -- scratchpad
    split at hx <;> cases hx
    exact h
  · -- an object or host memory
    extract_lets ps at hx
    split at hx
    · cases hx
    split at hx
    · cases hx
    split at hx
    · cases hx
    split at hx
    · cases hx
    next hready =>
    cases hx
    exact h.readyLines (fun _ _ _ hu hv => hu.levelReady hv) hready
  · -- no such object
    cases hx
    exact h

end

end Sys2Proof.Machine
end

section
/-! ## FENCE, ACQP with its drain, and WAITV (R153, R167, R170, R174, R181, R278) -/

namespace Sys2Proof.Machine

/-- A body that cannot go on yet leaves everything as it is, to be issued again (R63). -/
theorem run_stall {i : Instr} {s : State} {w : Weave} {body : Body} (h : s.Ready i w) (hb : body w s.issued = .error .stall) :
    run i s body = .next s := by
  rw [run_stop h hb fun _ => nofun]
  rfl

/-! ### FENCE and ACQP -/

theorem scopeOfCode_of_code {scope : Scope} {c : BitVec 3} (h : scope.code = c.toNat) : Scope.ofCode c = some scope := by
  cases scope <;> simp [Scope.ofCode, ← h, Scope.code]

/-- The order codes of R167: 1 acquires, 2 releases, 3 and 4 do both. -/
theorem fenceReleases_iff : ∀ o : BitVec 3, 1 ≤ o.toNat → o.toNat ≤ 4 → (fenceReleases o = true ↔ o = 2 ∨ o = 3 ∨ o = 4) := by decide

theorem fenceAcquires_iff : ∀ o : BitVec 3, 1 ≤ o.toNat → o.toNat ≤ 4 → (fenceAcquires o = true ↔ o = 1 ∨ o = 3 ∨ o = 4) := by decide

section
variable {sc o : BitVec 3} {a : RegField} {s : State} {w : Weave} {scope : Scope}

/-- A FENCE that passes its checks names one of the four orders. -/
theorem State.Ready.fence_order (h : s.Ready (.fence sc o) w) : 1 ≤ o.toNat ∧ o.toNat ≤ 4 := by
  obtain ⟨-, -, hform, -, -⟩ := decodeFault_eq_none_iff.1 h.2.1
  simp only [Instr.wellFormed, Instr.codesOk, Bool.and_eq_true, decide_eq_true_iff] at hform
  obtain ⟨⟨⟨-, hone⟩, hfour⟩, -⟩ := hform
  exact ⟨hone, hfour⟩

theorem exec_fence_of_held (hscope : scope.code = sc.toNat) (h : s.Ready (.fence sc o) w)
    (hheld : s.issued.fenceHeld w.partition w.id.core scope = true) : exec (.fence sc o) s = .next s := by
  change execFence sc o s = _
  refine run_stall h ?_
  simp only [scopeOfCode_of_code hscope, Option.getD_some, if_pos hheld]

theorem exec_fence_of_free (hscope : scope.code = sc.toNat) (h : s.Ready (.fence sc o) w)
    (hfree : ¬s.issued.fenceHeld w.partition w.id.core scope = true) :
    let u := if o = 2 ∨ o = 3 ∨ o = 4 then s.issued.release w.id.core scope else s.issued
    exec (.fence sc o) s = .next (if o = 1 ∨ o = 3 ∨ o = 4 then u.acquire w.id.core scope else u) := by
  obtain ⟨hone, hfour⟩ := h.fence_order
  change execFence sc o s = _
  refine run_ok h ?_
  simp only [scopeOfCode_of_code hscope, Option.getD_some, if_neg hfree, fenceReleases_iff o hone hfour, fenceAcquires_iff o hone hfour]

theorem exec_acqp_illegal (h : s.Ready (.acqp a sc) w) (hv : 383 < (w.scal s.cur.strand a.toNat).toNat) :
    exec (.acqp a sc) s = .next (s.vector s.cur.weave s.cur.strand (s.info w .illegal accOther)) := by
  change execAcqp a sc s = _
  exact h.run_failing (if_pos hv)

theorem exec_acqp_perm (h : s.Ready (.acqp a sc) w) (hv : (w.scal s.cur.strand a.toNat).toNat ≤ 383)
    (hno : s.issued.hasCore (w.scal s.cur.strand a.toNat).toNat = false ∨
      s.issued.grantedCore w.partition (w.scal s.cur.strand a.toNat).toNat = false) :
    exec (.acqp a sc) s = .next (s.vector s.cur.weave s.cur.strand (s.info w .perm accOther)) := by
  change execAcqp a sc s = _
  exact h.run_failing ((if_neg (Nat.not_lt.2 hv)).trans (if_pos (by simpa [reg] using hno)))

theorem exec_acqp_flies (hscope : scope.code = sc.toNat) (h : s.Ready (.acqp a sc) w) (hv : (w.scal s.cur.strand a.toNat).toNat ≤ 383)
    (hcore : s.issued.hasCore (w.scal s.cur.strand a.toNat).toNat = true)
    (hgrant : s.issued.grantedCore w.partition (w.scal s.cur.strand a.toNat).toNat = true) :
    exec (.acqp a sc) s = .next (s.issued.fly (s.issued.info w .illegal accOther)
      (.drain (w.scal s.cur.strand a.toNat).toNat scope) [] 0 true) := by
  change execAcqp a sc s = _
  refine run_ok h ((if_neg (Nat.not_lt.2 hv)).trans ((if_neg (by simpa [reg] using And.intro hcore hgrant)).trans ?_))
  rw [scopeOfCode_of_code hscope]
  rfl

end

/-! ### The drain point -/

section
variable {s : State} {f : Flight} {core : Nat} {scope : Scope}

theorem drainHeld_iff : s.drainHeld f core scope = true ↔ ∃ x, s.weave? f.weave = some x ∧
    (s.fenceHeld x.partition core scope = true ∨ s.fenceHeld x.partition f.weave.core scope = true) := by
  simp [State.drainHeld, Option.any_eq_true]

theorem exec_acqpDrain (hf : s.flights.find? (fun x => x.id = f.id) = some f) (hdest : f.dest = .drain core scope) :
    exec (.acqpDrain f.id) s = .next (if s.drainHeld f core scope = true then s else
      State.drain { s with flights := s.flights.filter fun x => x.id ≠ f.id } f.weave.core core scope) := by
  change execAcqpDrain f.id s = _
  simp only [execAcqpDrain, hf, hdest]

end

theorem rules_fencesAndDrains : Rules.FencesAndDrains := by
  intro sc o a s w scope hscope t v held faults
  refine ⟨fun h => ⟨exec_fence_of_held hscope h, exec_fence_of_free hscope h⟩,
    fun h => ⟨exec_acqp_illegal h, exec_acqp_perm h, fun hv hcore hgrant => ⟨_, exec_acqp_flies hscope h hv hcore hgrant⟩⟩,
    ?drain⟩
  intro f core hf hdest u waits
  have hwaits : s.drainHeld f core scope = true ↔ waits := drainHeld_iff
  exact ⟨fun hw => (exec_acqpDrain hf hdest).trans (congrArg Host.Outcome.next (if_pos (hwaits.2 hw))),
    fun hw => (exec_acqpDrain hf hdest).trans (congrArg Host.Outcome.next (if_neg (mt hwaits.1 hw)))⟩

/-! ### WAITV -/

section
variable {at' : Attrs}

/-- An access of host memory names register value 0 as its handle (R337). -/
theorem hostHandleBad_iff {object : Nat} : hostHandleBad at' object = true ↔ at'.space = .hst ∧ object ≠ 0 := by
  simp [hostHandleBad]

/-- The request of a WAITV as it issues. -/
def State.waitvAsks (s : State) (w : Weave) (at' : Attrs) (b a : RegField) : Req :=
  s.issued.waitvReq w at' (w.scal s.cur.strand a.toNat).toNat (w.scal s.cur.strand b.toNat)

/-- What a WAITV observes as it issues. -/
def State.waitvSees (s : State) (w : Weave) (at' : Attrs) (b a : RegField) : Except Stop (State × Word) :=
  s.issued.observeWord (s.issued.agentOf w s.cur.strand) at' (s.waitvAsks w at' b a)

/-- The comparand of a WAITV. -/
def State.comparand (s : State) (w : Weave) (d : RegField) : Word := (w.scal s.cur.strand d.toNat).setWidth 32

/-- A WAITV whose word differs: it acquires and writes the word. -/
def State.waitvEnds (s : State) (w : Weave) (at' : Attrs) (d : RegField) (u : State) (x : Word) : State :=
  (u.acquire w.id.core at'.scope).onMe fun v => v.setScal s.cur.strand d.toNat (x.setWidth 64)

/-- What a WAITV waits on where its word is its comparand. -/
def State.waitvOn (s : State) (w : Weave) (at' : Attrs) (b a d : RegField) : WaitOn :=
  .word (w.scal s.cur.strand a.toNat).toNat (w.scal s.cur.strand b.toNat).toNat at' (s.comparand w d)
    (w.physical s.cur.strand d.toNat) (w.mode s.cur.strand)

/-- What a WAITV with a handle in place does: it stops as its observation does, and else goes by the word observed (R181, R153). -/
def State.waitvAnswer (s : State) (w : Weave) (at' : Attrs) (b a d : RegField) : Except Stop State :=
  (s.waitvSees w at' b a).bind fun seen =>
    if s.issued.fenceHeld w.partition w.id.core at'.scope then .error .stall
    else if seen.2 = s.comparand w d then .error (.wait (s.waitvOn w at' b a d))
    else .ok (s.waitvEnds w at' d
      (seen.1.waitvRun s.issued (s.issued.agentOf w s.cur.strand) at' (s.waitvAsks w at' b a)) seen.2)

variable {b a d : RegField} {s : State} {w : Weave}

/-- Who acts stays who acts while a WAITV observes and acquires. -/
theorem writeScal_waitv {u : State} {x : Word} (hsees : s.waitvSees w at' b a = .ok (u, x)) (g : Agent) (q : Req) :
    writeScal ((u.waitvRun s.issued g at' q).acquire w.id.core at'.scope) d (x.setWidth 64) =
      .ok (s.waitvEnds w at' d (u.waitvRun s.issued g at' q) x) := by
  have hclock : s.issued.ClockIs s.clock := s.clockIs_refl
  have hends := ((hclock.observeWord hsees).waitvRun s.issued g at' q).acquire w.id.core at'.scope
  have hcur := congrArg Clock.cur hends
  change State.cur _ = s.cur at hcur
  rw [writeScal, hcur, State.waitvEnds]

variable (hat : waitvAttrs (.waitv b a d) (w.mdef s.cur.strand) = some at')
include hat

theorem exec_waitv_badHandle (h : s.Ready (.waitv b a d) w) (hspace : at'.space = .hst) (hobject : (w.scal s.cur.strand a.toNat).toNat ≠ 0) :
    exec (.waitv b a d) s = .next (s.vector s.cur.weave s.cur.strand (s.info w .illegal accLoad)) := by
  change execWaitv b a d s = _
  refine h.run_failing ?_
  simp only [State.issued_cur, hat, Option.getD_some, handleOf]
  exact if_pos (hostHandleBad_iff.2 ⟨hspace, hobject⟩)

variable (h : s.Ready (.waitv b a d) w) (hhandle : at'.space = .hst → (w.scal s.cur.strand a.toNat).toNat = 0)
include hhandle

/-- WAITV runs a body whose effect is its answer. -/
theorem exec_waitv_answer : ∃ body : Body, exec (.waitv b a d) s = run (.waitv b a d) s body ∧
    body w s.issued = s.waitvAnswer w at' b a d := by
  have hgood : ¬hostHandleBad at' (w.scal s.cur.strand a.toNat).toNat = true := fun hb =>
    (hostHandleBad_iff.1 hb).2 (hhandle (hostHandleBad_iff.1 hb).1)
  refine ⟨_, show exec (.waitv b a d) s = execWaitv b a d s from rfl, ?_⟩
  simp only [State.issued_cur, hat, Option.getD_some, handleOf, reg, if_neg hgood, State.waitvAnswer]
  cases hsees : s.waitvSees w at' b a with
  | error e =>
    rw [State.waitvSees, State.waitvAsks] at hsees
    rw [hsees]
    rfl
  | ok seen =>
    have hwrite := writeScal_waitv (d := d) hsees (s.issued.agentOf w s.cur.strand) (s.waitvAsks w at' b a)
    rw [State.waitvAsks] at hwrite
    rw [State.waitvSees, State.waitvAsks] at hsees
    simp only [hsees, Except.bind, hwrite, ne_eq, ite_not]
    rfl

include h

theorem exec_waitv_of_error {e : Stop} (hsees : s.waitvSees w at' b a = .error e) (he : ∀ q, e ≠ .postpone q) :
    exec (.waitv b a d) s = .next (s.stopped e) := by
  obtain ⟨body, hexec, hbody⟩ := exec_waitv_answer hat hhandle
  rw [State.waitvAnswer, hsees] at hbody
  exact hexec.trans (run_stop h hbody he)

variable {u : State} {x : Word} (hsees : s.waitvSees w at' b a = .ok (u, x))
include hsees

theorem exec_waitv_of_held (hheld : s.issued.fenceHeld w.partition w.id.core at'.scope = true) : exec (.waitv b a d) s = .next s := by
  obtain ⟨body, hexec, hbody⟩ := exec_waitv_answer hat hhandle
  rw [State.waitvAnswer, hsees] at hbody
  exact hexec.trans (run_stall h (hbody.trans (if_pos hheld)))

variable (hfree : ¬s.issued.fenceHeld w.partition w.id.core at'.scope = true)
include hfree

theorem exec_waitv_of_equal (hx : x = s.comparand w d) : exec (.waitv b a d) s = .next (s.startWait (s.waitvOn w at' b a d)) := by
  obtain ⟨body, hexec, hbody⟩ := exec_waitv_answer hat hhandle
  rw [State.waitvAnswer, hsees] at hbody
  exact hexec.trans (h.run_wait (hbody.trans ((if_neg hfree).trans (if_pos hx))))

theorem exec_waitv_of_differs (hx : x ≠ s.comparand w d) : exec (.waitv b a d) s = .next (s.waitvEnds w at' d
    (u.waitvRun s.issued (s.issued.agentOf w s.cur.strand) at' (s.waitvAsks w at' b a)) x) := by
  obtain ⟨body, hexec, hbody⟩ := exec_waitv_answer hat hhandle
  rw [State.waitvAnswer, hsees] at hbody
  exact hexec.trans (run_ok h (hbody.trans ((if_neg hfree).trans (if_neg hx))))

end

/-! ### WAITV in scratchpad -/

section
variable {s : State} {w : Weave} {at' : Attrs} {b a : RegField}

/-- A WAITV of scratchpad makes no run (R121). -/
theorem waitvRun_spd (hspace : at'.space = .spd) (u t : State) (g : Agent) (q : Req) : u.waitvRun t g at' q = u := by
  simp [State.waitvRun, hspace]

theorem lanes_waitvAsks_spd (hspace : at'.space = .spd) :
    (s.waitvAsks w at' b a).lanes = [(0, false, ((w.scal s.cur.strand b.toNat).toNat : Int))] := by
  simp [State.waitvAsks, State.waitvReq, State.reqRow, State.reqAt, Offset.start, laneStep, hspace]

/-- In scratchpad a WAITV observes four bytes of its crew, where they lie aligned in its reservation and are not poisoned (R239). -/
theorem waitvSees_spd (hspace : at'.space = .spd) (hclean : s.poison = [])
    (hinside : s.issued.spadInside (s.issued.agentOf w s.cur.strand) (w.scal s.cur.strand b.toNat).toNat 4 = true)
    (haligned : (w.scal s.cur.strand b.toNat).toNat % 4 = 0) :
    let g := s.issued.agentOf w s.cur.strand
    s.waitvSees w at' b a = .ok (s.issued, BitVec.ofNat 32 (leNat ((List.range 4).map fun k =>
      s.issued.sramByte w.id.core (g.spad (w.scal s.cur.strand b.toNat).toNat + k)))) := by
  intro g
  have hq : (s.waitvAsks w at' b a).space = .spd := hspace
  have hwidth : (s.waitvAsks w at' b a).width = 4 := rfl
  have hcheck : s.issued.checkReq g (s.waitvAsks w at' b a) = .ok () := by
    refine State.checkReq_of_pass fun l hl => ?_
    rw [lanes_waitvAsks_spd hspace, List.mem_singleton] at hl
    subst hl
    rw [State.laneFailure, checkLane_spd hq, hwidth, if_neg (by simp [g, hinside]), if_neg (by simpa using haligned)]
  have hgood (n : Nat) : s.issued.sramPoisoned g.core n 4 = false := by
    have hclean' : s.issued.poison = [] := hclean
    rw [State.sramPoisoned, hclean']
    rfl
  rw [State.waitvSees, State.observeWord, hcheck]
  simp only [hq, lanes_waitvAsks_spd hspace]
  exact if_neg (by rw [hgood]; decide)

end

theorem rules_wordWaits : Rules.WordWaits := by
  intro b a d s w at' i st t g object o c held waits ends h hat
  refine ⟨exec_waitv_badHandle hat h, fun hhandle => ⟨fun e he => exec_waitv_of_error hat h hhandle he,
    fun u x hsees => exec_waitv_of_held hat h hhandle hsees, fun u x hsees => exec_waitv_of_differs hat h hhandle hsees,
    fun u hsees hfree => exec_waitv_of_equal hat h hhandle hsees hfree rfl⟩, fun hspace hfree hclean hinside haligned => ?_⟩
  have hhandle : at'.space = .hst → object = 0 := fun hhost => by simp [hspace] at hhost
  have hsees : s.waitvSees w at' b a = _ := waitvSees_spd hspace hclean hinside haligned
  refine ⟨fun hx => ?_, exec_waitv_of_equal hat h hhandle hsees hfree⟩
  have hends := exec_waitv_of_differs hat h hhandle hsees hfree hx
  rw [waitvRun_spd hspace] at hends
  exact hends

end Sys2Proof.Machine
end

section
open Sys2Proof Sys2Proof.Machine

/-- Settles O25, by what each member answers where its acquire waits for a slot and where it does not; a WAITV writes its register for
the strand that issued it because observing and acquiring leave the clock. -/
theorem fencesAndWaits : Obligations.FencesAndWaits := ⟨rules_fencesAndDrains, rules_wordWaits⟩
end

section
/-! ## The checks of a manifest (R110, R182, R193) -/

namespace Sys2Proof.Machine

/-- What a bundle member answers on its manifest: the fault of the manifest's checks, else what it does beyond them. -/
def onManifest (t : State) (w : Weave) (h : Nat) (write : Bool) (rest : Except Stop State) : Except Stop State :=
  match t.manifestFault w h write with
  | some c => objectStop t w c accLayout h 0
  | none => rest

/-- A member that makes the checks of a manifest before anything else that it does. -/
def State.ChecksManifest (s : State) (w : Weave) (i : Instr) (h : Nat) (write : Bool) (rest : Except Stop State) : Prop :=
  ∃ body : Body, exec i s = run i s body ∧ body w s.issued = onManifest s.issued w h write rest

/-- A body that faults on an object without a place. -/
theorem run_objectStop {s : State} {w : Weave} {i : Instr} {body : Body} {c : Cause} {access object g : Nat} (h : s.Ready i w)
    (hb : body w s.issued = objectStop s.issued w c access object g) :
    run i s body = .next (s.vector s.cur.weave s.cur.strand { s.info w c access with
      object := BitVec.ofNat 32 object, generation := BitVec.ofNat 32 g }) := run_fault h hb

/-! ### The first check that fails -/

section
variable {s : State} {w : Weave} {h : Nat} {write : Bool} {x : ObjDesc}

theorem manifestFault_of_unseen (hx : s.seeDesc w.id.core w.partition h = none) : s.manifestFault w h write = some .objBound := by
  simp only [State.manifestFault, hx]

variable (hx : s.seeDesc w.id.core w.partition h = some x)
include hx

theorem manifestFault_of_seen : s.manifestFault w h write =
    if x.kind ≠ 3 then some .objBound
    else if x.withdrawn = true then some .extentGone
    else if x.size < 64 then some .objBound
    else if x.readable = false ∨ (write = true ∧ x.writable = false) then some .perm
    else none := by
  simp only [State.manifestFault, hx, Bool.or_eq_true, Bool.and_eq_true, Bool.not_eq_true']

theorem manifestFault_of_kind (hk : x.kind ≠ 3) : s.manifestFault w h write = some .objBound :=
  (manifestFault_of_seen hx).trans (if_pos hk)

variable (hk : x.kind = 3)
include hk

theorem manifestFault_of_withdrawn (hg : x.withdrawn = true) : s.manifestFault w h write = some .extentGone := by
  rw [manifestFault_of_seen hx, if_neg (not_not.2 hk), if_pos hg]

variable (hg : x.withdrawn = false)
include hg

theorem manifestFault_of_small (hn : x.size < 64) : s.manifestFault w h write = some .objBound := by
  rw [manifestFault_of_seen hx, if_neg (not_not.2 hk), if_neg (by simp [hg]), if_pos hn]

variable (hn : 64 ≤ x.size)
include hn

theorem manifestFault_of_denied (hp : x.readable = false ∨ (write = true ∧ x.writable = false)) :
    s.manifestFault w h write = some .perm := by
  rw [manifestFault_of_seen hx, if_neg (not_not.2 hk), if_neg (by simp [hg]), if_neg (Nat.not_lt.2 hn), if_pos hp]

theorem manifestFault_of_granted (hr : x.readable = true) (hp : write = true → x.writable = true) : s.manifestFault w h write = none := by
  rw [manifestFault_of_seen hx, if_neg (not_not.2 hk), if_neg (by simp [hg]), if_neg (Nat.not_lt.2 hn), if_neg]
  rintro (hread | ⟨hwrite, hdeny⟩)
  · simp [hr] at hread
  · simp [hp hwrite] at hdeny

end

/-! ### The members that make the checks -/

section
variable {s : State} {w : Weave} {i : Instr} {h : Nat} {write : Bool} {rest : Except Stop State}
  (hi : s.ChecksManifest w i h write rest) (hr : s.Ready i w)
include hi hr

theorem State.ChecksManifest.fault {c : Cause} (hc : s.issued.manifestFault w h write = some c) :
    exec i s = .next (s.vector s.cur.weave s.cur.strand { s.info w c accLayout with object := BitVec.ofNat 32 h }) := by
  obtain ⟨body, hrun, hbody⟩ := hi
  refine hrun.trans (run_objectStop hr (hbody.trans ?_))
  simp only [onManifest, hc]

variable (hc : s.issued.manifestFault w h write = none)
include hc

theorem State.ChecksManifest.next {u : State} (hrest : rest = .ok u) : exec i s = .next u := by
  obtain ⟨body, hrun, hbody⟩ := hi
  refine hrun.trans (run_ok hr (hbody.trans ?_))
  simp only [onManifest, hc, hrest]

theorem State.ChecksManifest.stop {c : Cause} {access object g : Nat} (hrest : rest = objectStop s.issued w c access object g) :
    exec i s = .next (s.vector s.cur.weave s.cur.strand { s.info w c access with
      object := BitVec.ofNat 32 object, generation := BitVec.ofNat 32 g }) := by
  obtain ⟨body, hrun, hbody⟩ := hi
  refine hrun.trans (run_objectStop hr (hbody.trans ?_))
  simp only [onManifest, hc, hrest]

end

section
variable (s : State) (w : Weave) (b a d : RegField)

/-- What BOPEN and BJOIN do once their manifest has passed: a weave takes part in one bundle at a time (R296, R298). -/
def State.asksToJoin (t : State) (w : Weave) (h : Nat) (d : RegField) (op : CoordOp) : Except Stop State :=
  if w.breg ≠ 0 then objectStop t w .bundleOutside accLayout h (t.bregOpen w) else flyCoord w t d op

theorem checksManifest_bjoin : s.ChecksManifest w (.bjoin a d) (s.namedObject w a) true
    (s.issued.asksToJoin w (s.namedObject w a) d (.bjoin (s.namedObject w a))) :=
  ⟨_, show execBjoin a d s = run _ s _ from rfl, rfl⟩

theorem checksManifest_bopen (hlow : 1 ≤ s.requested w b) (hhigh : s.requested w b ≤ 65535) :
    s.ChecksManifest w (.bopen b a d) (s.namedObject w a) true
      (s.issued.asksToJoin w (s.namedObject w a) d (.bopen (s.namedObject w a) (s.requested w b))) := by
  refine ⟨_, show execBopen b a d s = run _ s _ from rfl, if_neg ?_⟩
  change ¬(decide (s.requested w b = 0) || decide (65535 < s.requested w b)) = true
  simp only [Bool.or_eq_true, decide_eq_true_eq]
  omega

theorem checksManifest_bpin (hv : s.requested w d < 2 ^ 33) : ∃ rest, s.ChecksManifest w (.bpin a d) (s.namedObject w a) true rest :=
  ⟨_, _, show execBpin a d s = run _ s _ from rfl, if_neg (not_not.2 (Nat.div_eq_of_lt hv))⟩

/-- What BABORT does once its manifest has passed (R284). -/
def State.aborts (t : State) (w : Weave) (h : Nat) : Except Stop State := .ok (((t.bundle? w.partition h).map t.abortBundle).getD t)

theorem checksManifest_babort : s.ChecksManifest w (.babort a) (s.namedObject w a) true (s.issued.aborts w (s.namedObject w a)) := by
  refine ⟨_, show execBabort a s = run _ s _ from rfl, congrArg (onManifest _ _ _ _) ?_⟩
  change _ = s.issued.aborts w (handleOf w s.issued.cur.strand a)
  unfold State.aborts
  cases s.issued.bundle? w.partition (handleOf w s.issued.cur.strand a) <;> rfl

theorem checksManifest_bview : ∃ rest, s.ChecksManifest w (.bview a d) (s.namedObject w a) false rest :=
  ⟨_, _, show execBview a d s = run _ s _ from rfl, rfl⟩

theorem checksManifest_brel : ∃ rest, s.ChecksManifest w (.brel a) (s.namedObject w a) false rest :=
  ⟨_, _, show execBrel a s = run _ s _ from rfl, rfl⟩

theorem checksManifest_bstat : ∃ rest, s.ChecksManifest w (.bstat a d) (s.namedObject w a) false rest :=
  ⟨_, _, show execBstat a d s = run _ s _ from rfl, rfl⟩

end

theorem rules_manifestChecks : Rules.ManifestChecks := by
  intro b a d s w t h faults good checks
  have check {i : Instr} {write : Bool} (hi : ∃ rest, s.ChecksManifest w i h write rest) : checks i write := by
    obtain ⟨rest, hi⟩ := hi
    have fault {c : Cause} (hc : t.manifestFault w h write = some c) : faults i c := fun hr => hi.fault hr hc
    exact ⟨fun hx => fault (manifestFault_of_unseen hx), fun x hx => ⟨fun hk => fault (manifestFault_of_kind hx hk),
      fun hk hg => fault (manifestFault_of_withdrawn hx hk hg), fun hk hg hn => fault (manifestFault_of_small hx hk hg hn),
      fun hk hg hn hp => fault (manifestFault_of_denied hx hk hg hn hp),
      fun ⟨hk, hg, hn, hread⟩ hp => manifestFault_of_granted hx hk hg hn hread hp⟩⟩
  exact ⟨check ⟨_, checksManifest_bjoin s w a d⟩, check ⟨_, checksManifest_babort s w a⟩, check (checksManifest_bview s w a d),
    check (checksManifest_brel s w a), check (checksManifest_bstat s w a d),
    fun hlow hhigh => check ⟨_, checksManifest_bopen s w b a d hlow hhigh⟩, fun hv => check (checksManifest_bpin s w a d hv)⟩

/-! ### BOPEN and BJOIN (R244, R296, R298) -/

section
variable {s : State} {w : Weave} {b a d : RegField} {i : Instr} {h : Nat} {op : CoordOp}

theorem exec_bopen_badCount (hr : s.Ready (.bopen b a d) w) (hn : s.requested w b = 0 ∨ 65535 < s.requested w b) :
    exec (.bopen b a d) s = .next (s.vector s.cur.weave s.cur.strand (s.info w .illegal accLayout)) := by
  change execBopen b a d s = _
  refine hr.run_failing (if_pos ?_)
  change (decide (s.requested w b = 0) || decide (65535 < s.requested w b)) = true
  simpa using hn

variable (hi : s.ChecksManifest w i h true (s.issued.asksToJoin w h d op)) (hr : s.Ready i w)
  (hc : s.issued.manifestFault w h true = none)
include hi hr hc

theorem exec_of_takesPart (hb : w.breg ≠ 0) : exec i s = .next (s.vector s.cur.weave s.cur.strand { s.info w .bundleOutside accLayout with
    object := BitVec.ofNat 32 h, generation := BitVec.ofNat 32 (s.issued.bregOpen w) }) := hi.stop hr hc (if_pos hb)

theorem exec_asksToJoin (hb : w.breg = 0) :
    exec i s = .next (s.issued.fly (s.info w .illegal accOther) (.coord d.toNat op) [] 0 true) := hi.next hr hc (if_neg (not_not.2 hb))

end

theorem rules_bundleOpening : Rules.BundleOpening := by
  intro b a d s w t h n asks hc
  have hjoin := checksManifest_bjoin s w a d
  refine ⟨exec_bopen_badCount, ?_, fun hr hlow hhigh hb => exec_asksToJoin (checksManifest_bopen s w b a d hlow hhigh) hr hc hb,
    fun hr hb => exec_asksToJoin hjoin hr hc hb⟩
  rintro i (rfl | ⟨rfl, hlow, hhigh⟩) hr hb
  · exact exec_of_takesPart hjoin hr hc hb
  · exact exec_of_takesPart (checksManifest_bopen s w b a d hlow hhigh) hr hc hb

end Sys2Proof.Machine
end

section
/-! ## The coordinator's answers to BOPEN and BJOIN (R183, R194, R244, R292, R296, R298) -/

namespace Sys2Proof.Machine

/-- The answer's change, with the result written for the strand that asked (R244). -/
def State.given (id : WeaveId) (st : Strand) (d : Nat) (y : State × DWord) : State :=
  y.1.onWeave id fun v => v.setPhysical st d y.2

/-- A weave that takes part in the open generation of an entry, which is its result (R292, R194). -/
def State.joining (s : State) (id : WeaveId) (h gen : Nat) : State × DWord :=
  (s.onWeave id fun v => v.participate h gen, bundleResult 0 gen)

section
variable {s : State} {id : WeaveId} {w : Weave} (hw : s.weave? id = some w) (st : Strand) (d h n : Nat)
include hw

theorem answer_bopen : s.answer id st d (.bopen h n) = State.given id st d (s.answerOpen w h n) := by
  simp only [State.answer, hw, State.given]

theorem answer_bjoin : s.answer id st d (.bjoin h) = State.given id st d (s.answerJoin w h) := by
  simp only [State.answer, hw, State.given]

theorem answer_bclose : s.answer id st d .bclose = State.given id st d (s.answerClose w) := by
  simp only [State.answer, hw, State.given]

end

/-! ### BOPEN -/

section
variable {s : State} {w : Weave} {h n : Nat} {x : Bundle}

/-- The lowest index that no entry of the directory holds (R183). -/
theorem freeIndex_eq {k : Nat} (hk : k < 4096) (hfree : ∀ x ∈ s.bundles, x.index ≠ k)
    (hlow : ∀ j, j < k → ∃ x ∈ s.bundles, x.index = j) : s.freeIndex = k := by
  have hfind : (List.range 4096).find? (fun i => !(s.bundles.any fun b => b.index = i)) = some k :=
    List.find?_range_eq_some.2 ⟨by simpa using hfree, List.mem_range.2 hk, fun j hj => by simpa using hlow j hj⟩
  rw [State.freeIndex, hfind, Option.getD_some]

/-- What a first open needs: entries left in the directory and to the partition, and a manifest whose header is zero (R182, R183). -/
def State.OpenRoom (s : State) (part handle : Nat) : Prop :=
  s.bundles.length < 4096 ∧ (s.bundles.filter fun x => x.part = part).length < (s.pcb part).bundlesNow ∧ s.objRead part handle 0 64 = 0

/-- The entry of a bundle that has never been opened. -/
def State.newEntry (s : State) (part handle : Nat) : Bundle :=
  { part, handle, index := s.freeIndex, coordinator := s.chipId.toNat, state := .committed, opened := 0, committed := 0
    participants := 0, joined := 0, closed := 0, chips := 0, pin := none, pinOwner := 0, members := [], reported := false
    aborted := [], owners := [] }

variable {part handle : Nat}

theorem firstOpen_of_room (hroom : s.OpenRoom part handle) : s.firstOpen part handle = some (s.newEntry part handle) := by
  obtain ⟨hall, hmine, hzero⟩ := hroom
  refine if_neg ?_
  simp only [Bool.or_eq_true, decide_eq_true_eq]
  omega

theorem firstOpen_of_no_room (hroom : ¬s.OpenRoom part handle) : s.firstOpen part handle = none := by
  refine if_pos ?_
  simp only [Bool.or_eq_true, decide_eq_true_eq]
  unfold State.OpenRoom at hroom
  omega

/-- The manifest's header brought home, which an open reads first. -/
def State.headed (s : State) (w : Weave) (h : Nat) : State := s.objSync w.partition h 0 64

/-- The entry that an open finds, or makes where there is none. -/
def State.openEntry (s : State) (w : Weave) (h : Nat) : Option Bundle :=
  ((s.headed w h).bundle? w.partition h).or ((s.headed w h).firstOpen w.partition h)

theorem openEntry_of_found (hx : (s.headed w h).bundle? w.partition h = some x) : s.openEntry w h = some x := by
  rw [State.openEntry, hx, Option.some_or]

theorem openEntry_of_none (hx : (s.headed w h).bundle? w.partition h = none) :
    s.openEntry w h = (s.headed w h).firstOpen w.partition h := by
  rw [State.openEntry, hx, Option.none_or]

theorem answerOpen_of_no_entry (hx : s.openEntry w h = none) :
    s.answerOpen w h n = (s.headed w h, bundleResult 2 (s.headed w h).openGen) := by
  unfold State.openEntry State.headed at hx
  simp only [State.answerOpen, hx, State.headed]

theorem answerOpen_of_entry (hx : s.openEntry w h = some x) : s.answerOpen w h n =
    if x.state ≠ .committed ∧ x.state ≠ .aborted then (s.headed w h, bundleResult 1 (s.headed w h).openGen)
    else if x.opened = 0xFFFFFFFE then (s.headed w h, bundleResult 2 (s.headed w h).openGen)
    else ((s.headed w h).putBundle (x.opening n w.function)).joining w.id h (x.opened + 1) := by
  unfold State.openEntry State.headed at hx
  simp only [State.answerOpen, hx, State.headed, Bool.and_eq_true, decide_eq_true_eq]
  rfl

variable (hx : s.openEntry w h = some x)
include hx

theorem answerOpen_of_busy (hs : x.state = .opened ∨ x.state = .committing) :
    s.answerOpen w h n = (s.headed w h, bundleResult 1 (s.headed w h).openGen) :=
  (answerOpen_of_entry hx).trans (if_pos (by rcases hs with hs | hs <;> simp [hs]))

variable (hs : x.state = .committed ∨ x.state = .aborted)
include hs

theorem answerOpen_of_spent (ho : x.opened = 0xFFFFFFFE) :
    s.answerOpen w h n = (s.headed w h, bundleResult 2 (s.headed w h).openGen) := by
  rw [answerOpen_of_entry hx, if_neg (by tauto), if_pos ho]

theorem answerOpen_opens (ho : x.opened ≠ 0xFFFFFFFE) :
    s.answerOpen w h n = ((s.headed w h).putBundle (x.opening n w.function)).joining w.id h (x.opened + 1) := by
  rw [answerOpen_of_entry hx, if_neg (by tauto), if_neg ho]

end

/-! ### BJOIN -/

section
variable {s : State} {w : Weave} {h : Nat} {x : Bundle}

/-- A bundle joined by one more weave (R296). -/
def Bundle.joinedBy (x : Bundle) (w : Weave) : Bundle := { x with joined := x.joined + 1, owners := w.function :: x.owners }

theorem answerJoin_of_entry (hx : s.bundle? w.partition h = some x) : s.answerJoin w h =
    if x.state ≠ .opened then (s, bundleResult 1 s.openGen)
    else if w.part = some (BitVec.ofNat 32 h, BitVec.ofNat 32 x.opened) then s.joining w.id h x.opened
    else if x.joined = x.participants then (s, bundleResult 3 s.openGen)
    else (s.putBundle (x.joinedBy w)).joining w.id h x.opened := by
  simp only [State.answerJoin, hx]
  rfl

theorem answerJoin_of_not_open (hx : ∀ x, s.bundle? w.partition h = some x → x.state ≠ .opened) :
    s.answerJoin w h = (s, bundleResult 1 s.openGen) := by
  cases hb : s.bundle? w.partition h with
  | none => simp only [State.answerJoin, hb]
  | some x => exact (answerJoin_of_entry hb).trans (if_pos (hx x hb))

variable (hx : s.bundle? w.partition h = some x) (hs : x.state = .opened)
include hx hs

theorem answerJoin_again (hp : w.part = some (BitVec.ofNat 32 h, BitVec.ofNat 32 x.opened)) :
    s.answerJoin w h = s.joining w.id h x.opened := by
  rw [answerJoin_of_entry hx, if_neg (not_not.2 hs), if_pos hp]

variable (hp : w.part ≠ some (BitVec.ofNat 32 h, BitVec.ofNat 32 x.opened))
include hp

theorem answerJoin_of_full (hj : x.joined = x.participants) : s.answerJoin w h = (s, bundleResult 3 s.openGen) := by
  rw [answerJoin_of_entry hx, if_neg (not_not.2 hs), if_neg hp, if_pos hj]

theorem answerJoin_joins (hj : x.joined ≠ x.participants) :
    s.answerJoin w h = (s.putBundle (x.joinedBy w)).joining w.id h x.opened := by
  rw [answerJoin_of_entry hx, if_neg (not_not.2 hs), if_neg hp, if_neg hj]

end

theorem rules_openingAnswers : Rules.OpeningAnswers := by
  intro s id st d h n w hw
  obtain rfl := weave?_name hw
  intro gives takesPart bopen bjoin
  have opens {y : State × DWord} (hy : s.answerOpen w h n = y) : s.answer w.id st d bopen = State.given w.id st d y :=
    (answer_bopen hw st d h n).trans (congrArg _ hy)
  have joins {y : State × DWord} (hy : s.answerJoin w h = y) : s.answer w.id st d bjoin = State.given w.id st d y :=
    (answer_bjoin hw st d h).trans (congrArg _ hy)
  refine ⟨?bopen, fun hx => ⟨_, joins (answerJoin_of_not_open hx)⟩, fun x hx hs => ⟨fun hp => joins (answerJoin_again hx hs hp),
    fun hp => ⟨fun hj => ⟨_, joins (answerJoin_of_full hx hs hp hj)⟩, fun hj => joins (answerJoin_joins hx hs hp hj)⟩⟩⟩
  intro u opening
  refine ⟨fun x hx => ?found, fun hx => ?first⟩
  case found =>
    have hentry := openEntry_of_found hx
    exact ⟨fun hs => ⟨_, opens (answerOpen_of_busy hentry hs)⟩, fun hs ho => ⟨_, opens (answerOpen_of_spent hentry hs ho)⟩,
      fun hs ho => opens (answerOpen_opens hentry hs ho)⟩
  case first =>
    have hentry := openEntry_of_none hx
    refine ⟨fun hroom => ⟨_, opens (answerOpen_of_no_entry (hentry.trans (firstOpen_of_no_room hroom)))⟩,
      fun hroom k hk hfree hlow => ?_⟩
    have hnew := hentry.trans (firstOpen_of_room hroom)
    rw [State.newEntry, freeIndex_eq (s := s.headed w h) hk hfree hlow] at hnew
    exact opens (answerOpen_opens hnew (.inl rfl) (show 0 ≠ 0xFFFFFFFE by decide))

end Sys2Proof.Machine
end

section
open Sys2Proof Sys2Proof.Machine

/-- Settles O26: every bundle member begins with one chain of checks; an answer is the entry that the coordinator finds or makes, judged. -/
theorem bundleOpening : Obligations.BundleOpening := ⟨rules_manifestChecks, rules_bundleOpening, rules_openingAnswers⟩
end

section
/-! ## Closes, aborts and commits (R189, R190, R244, R284, R292) -/

namespace Sys2Proof.Machine

/-! ### BCLOSE -/

section
variable {s : State} {w : Weave} {d : RegField}

theorem exec_bclose_outside (hr : s.Ready (.bclose d) w) (hp : w.part = none) :
    exec (.bclose d) s = .next (s.issued.fly (s.info w .illegal accOther) (.coord d.toNat .bclose) [] 0 true) := by
  change execBclose d s = _
  refine run_ok hr ?_
  simp only [hp]
  rfl

/-- A weave that takes part closes the bundle of its record, whose manifest it checks (R292). -/
theorem checksManifest_bclose (s : State) (d : RegField) {m g : BitVec 32} (hp : w.part = some (m, g)) :
    s.ChecksManifest w (.bclose d) m.toNat true (flyCoord w s.issued d .bclose) := by
  refine ⟨_, show execBclose d s = run _ s _ from rfl, ?_⟩
  simp only [hp]
  rfl

/-- The participation ended, with a result (R292). -/
def State.leaving (s : State) (id : WeaveId) (code : Nat) (gen : BitVec 32) : State × DWord :=
  (s.onWeave id Weave.leave, BitVec.ofNat 64 (2 ^ 32 * code + gen.toNat))

theorem bundleResult_toNat (code : Nat) (g : BitVec 32) : bundleResult code g.toNat = BitVec.ofNat 64 (2 ^ 32 * code + g.toNat) := by
  rw [bundleResult, Nat.mod_eq_of_lt g.isLt]

theorem Bundle.close_eq (x : Bundle) : x.close =
    { x with closed := x.closed + 1, state := if x.closed + 1 = x.participants then .committing else x.state } := by
  unfold Bundle.close
  split <;> rfl

theorem answerClose_of_none (hp : w.part = none) : s.answerClose w = s.leaving w.id 1 0 := by
  simp only [State.answerClose, hp]
  rfl

variable {m g : BitVec 32} (hp : w.part = some (m, g))
include hp

theorem answerClose_of_no_entry (hx : s.bundle? w.partition m.toNat = none) : s.answerClose w = s.leaving w.id 2 g := by
  simp only [State.answerClose, hp, hx, bundleResult_toNat, State.leaving]

variable {x : Bundle} (hx : s.bundle? w.partition m.toNat = some x)
include hx

theorem answerClose_of_aborted (hg : g.toNat ∈ x.aborted) : s.answerClose w = s.leaving w.id 2 g := by
  simp only [State.answerClose, hp, hx, if_pos hg, bundleResult_toNat, State.leaving]

theorem answerClose_counts (hg : g.toNat ∉ x.aborted) :
    s.answerClose w = ((s.release w.id.core .sp).putBundle x.close).leaving w.id 0 g := by
  simp only [State.answerClose, hp, hx, if_neg hg, bundleResult_toNat, State.leaving]

end

/-! ### Aborts -/

section
variable {s : State} {x : Bundle}

/-- The open versions of an aborted generation discarded, and its participants' BREG cleared (R190). -/
def State.withoutOpen (s : State) (x : Bundle) : State :=
  { s with
    members := s.members.map fun m => if m.part = x.part ∧ m.handle = x.handle ∧ m.openV.map (·.generation) = some x.opened then
      { m with openV := none } else m
    weaves := s.weaves.map fun v => if v.part = some (BitVec.ofNat 32 x.handle, BitVec.ofNat 32 x.opened) ∧
      v.ctxid.toNat / 256 % 16 = x.part then { v with breg := 0 } else v }

theorem abortBundle_of_live (hs : x.state = .opened ∨ x.state = .committing) : s.abortBundle x =
    (s.withoutOpen x).putBundle { x with state := .aborted, aborted := x.opened :: x.aborted, reported := false } := by
  have hlive : (decide (x.state = .opened) || decide (x.state = .committing)) = true := by simpa using hs
  simp only [State.abortBundle, if_pos hlive, State.withoutOpen, Bool.and_eq_true, decide_eq_true_eq, and_assoc]

theorem abortBundle_of_settled (hs : x.state = .committed ∨ x.state = .aborted) : s.abortBundle x = s :=
  if_neg (by rcases hs with hs | hs <;> simp [hs])

variable {w : Weave} {h : Nat}

theorem aborts_of_settled (hx : ∀ x, s.bundle? w.partition h = some x → x.state = .committed ∨ x.state = .aborted) :
    s.aborts w h = .ok s := by
  unfold State.aborts
  cases hb : s.bundle? w.partition h with
  | none => rfl
  | some x => exact congrArg _ (abortBundle_of_settled (hx x hb))

theorem aborts_of_live (hx : s.bundle? w.partition h = some x) (hs : x.state = .opened ∨ x.state = .committing) : s.aborts w h =
    .ok ((s.withoutOpen x).putBundle { x with state := .aborted, aborted := x.opened :: x.aborted, reported := false }) := by
  rw [State.aborts, hx, Option.map_some, Option.getD_some, abortBundle_of_live hs]

end

/-! ### The report of the member homes -/

section
variable {s : State} {x : Bundle}

theorem openSound_iff : s.openSound x = true ↔ ∀ y ∈ s.members, y.part = x.part → y.handle = x.handle → ∀ v, y.openV = some v →
    v.generation = x.opened → v.bad = 0 := by
  simp only [State.openSound, State.membersOf, List.all_eq_true, List.mem_filter, Bool.and_eq_true, decide_eq_true_eq, Option.all_eq_true,
    Bool.or_eq_true, and_imp, ne_eq, ← imp_iff_not_or]

theorem exec_bundleMemberReport {part handle : Nat} (hx : s.bundle? part handle = some x) :
    exec (.bundleMemberReport part handle) s = .next (s.commit x) := by
  change execBundleMemberReport part handle s = _
  simp only [execBundleMemberReport, hx]

variable (hs : x.state = .committing)
include hs

theorem commit_of_sound (h : s.openSound x = true) :
    s.commit x = s.putBundle { x with state := .committed, committed := x.opened, reported := true } := by
  rw [State.commit, if_neg (not_not.2 hs), if_pos h]

theorem commit_of_unsound (h : ¬s.openSound x = true) : s.commit x = s.abortBundle x := by
  rw [State.commit, if_neg (not_not.2 hs), if_neg h]

end

theorem rules_bundleClosing : Rules.BundleClosing := by
  intro a d s w t h asks
  refine ⟨fun hr => ⟨exec_bclose_outside hr, fun m g hp => ?bclose⟩, ?answer, fun hr hc => ?babort, fun part m x hx hs => ?report⟩
  case bclose =>
    have hi := checksManifest_bclose s d hp
    refine ⟨fun c hc => ?_, fun hc => hi.next hr hc rfl⟩
    have hfault := hi.fault hr hc
    rwa [BitVec.ofNat_toNat, BitVec.setWidth_eq] at hfault
  case answer =>
    intro id st n v hv
    obtain rfl := weave?_name hv
    intro gives
    have closes {u : State} {code : Nat} {g : BitVec 32} (hy : s.answerClose v = u.leaving v.id code g) : gives u code g :=
      (answer_bclose hv st n).trans (congrArg _ hy)
    refine ⟨fun hp => closes (answerClose_of_none hp), fun m g hp => ⟨fun hx => closes (answerClose_of_no_entry hp hx),
      fun x hx => ⟨fun hg => closes (answerClose_of_aborted hp hx hg), fun hg => closes ?_⟩⟩⟩
    rw [← Bundle.close_eq]
    exact answerClose_counts hp hx hg
  case babort =>
    have hi := checksManifest_babort s w a
    exact ⟨fun hx => hi.next hr hc (aborts_of_settled hx),
      fun x hx hs => ⟨t.withoutOpen x, hi.next hr hc (aborts_of_live hx hs), rfl, rfl, rfl⟩⟩
  case report =>
    intro sound
    rw [exec_bundleMemberReport hx]
    exact ⟨fun h => congrArg _ (commit_of_sound hs (openSound_iff.2 h)),
      fun h => congrArg _ (commit_of_unsound hs fun hsound => h (openSound_iff.1 hsound))⟩

end Sys2Proof.Machine
end

section
/-! ## Flips (R185, R187, R189)

Bytes written to whole places at their homes are read back there; a flip with no cached copy of its line is such a write. -/

namespace Sys2Proof.Machine

/-! ### Whole bytes written to places -/

section
variable {s : State}

theorem memSet_frame (s : State) (a : Nat) (b : Byte) :
    s.memSet a b = { s with mem := (s.memSet a b).mem, hostMem := (s.memSet a b).hostMem } := memStore_frame s a [b]

/-- A number is written to places one by one. -/
theorem putNat_cons (s : State) (p : Place) (ps : List Place) (x : Nat) :
    ∃ b y, s.putNat (p :: ps) x = (s.memSet p.home b).putNat ps y := by
  simp only [State.putNat, splitPlaces]
  cases p.half <;> exact ⟨_, _, rfl⟩

theorem putNat_frame (s : State) (ps : List Place) (x : Nat) :
    s.putNat ps x = { s with mem := (s.putNat ps x).mem, hostMem := (s.putNat ps x).hostMem } := by
  induction ps generalizing s x with
  | nil => rfl
  | cons p ps ih =>
    obtain ⟨b, y, hput⟩ := putNat_cons s p ps x
    rw [hput, ih, memSet_frame]

theorem memByte_putNat_off (hm : s.MemOk) {ps : List Place} (x : Nat) {a : Nat} (ha : a ∉ ps.map (·.home)) :
    (s.putNat ps x).memByte a = s.memByte a := by
  induction ps generalizing s x with
  | nil => rfl
  | cons p ps ih =>
    obtain ⟨b, y, hput⟩ := putNat_cons s p ps x
    rw [List.map_cons, List.mem_cons, not_or] at ha
    rw [hput, ih (memSet_ok hm _ _) y ha.2, memByte_memSet_ne hm _ ha.1]

theorem leNat_cons_low (b : Byte) (bs : List Byte) : BitVec.ofNat 8 (leNat (b :: bs)) = b := by
  refine BitVec.eq_of_toNat_eq ?_
  have := b.isLt
  rw [BitVec.toNat_ofNat, leNat]
  omega

theorem leNat_cons_high (b : Byte) (bs : List Byte) : leNat (b :: bs) / 256 = leNat bs := by
  have := b.isLt
  rw [leNat]
  omega

theorem putNat_cons_whole (s : State) {p : Place} (hp : p.half = none) (ps : List Place) (b : Byte) (bs : List Byte) :
    s.putNat (p :: ps) (leNat (b :: bs)) = (s.memSet p.home b).putNat ps (leNat bs) := by
  simp only [State.putNat, splitPlaces, hp, leNat_cons_low, leNat_cons_high, List.foldl_cons, setHalf]

/-- Each place holds its byte. -/
theorem memBytes_putNat (hm : s.MemOk) {ps : List Place} (hwhole : ∀ p ∈ ps, p.half = none) (hapart : (ps.map (·.home)).Nodup)
    {bs : List Byte} (hlen : bs.length = ps.length) : ps.map (fun p => (s.putNat ps (leNat bs)).memByte p.home) = bs := by
  induction ps generalizing s bs with
  | nil => exact (List.length_eq_zero_iff.1 hlen).symm
  | cons p ps ih =>
    obtain ⟨b, bs, rfl⟩ : ∃ b r, bs = b :: r := List.exists_cons_of_length_eq_add_one hlen
    obtain ⟨hp, hwhole⟩ := List.forall_mem_cons.1 hwhole
    obtain ⟨hoff, hapart⟩ := List.nodup_cons.1 hapart
    rw [putNat_cons_whole s hp, List.map_cons, ih (memSet_ok hm _ _) hwhole hapart (Nat.succ.inj hlen),
      memByte_putNat_off (memSet_ok hm _ _) _ hoff, memByte_memSet_same hm]

theorem joinPlaces_whole (see : Place → Byte) {ps : List Place} (hwhole : ∀ p ∈ ps, p.half = none) :
    joinPlaces see ps = leNat (ps.map see) := by
  induction ps with
  | nil => rfl
  | cons p ps ih =>
    obtain ⟨hp, hwhole⟩ := List.forall_mem_cons.1 hwhole
    simp only [joinPlaces, hp, List.map_cons, leNat, ih hwhole]

theorem leBytes_leNat (bs : List Byte) : leBytes bs.length (leNat bs) = bs := by
  induction bs with
  | nil => rfl
  | cons b bs ih =>
    rw [List.length_cons, leBytes, natBytes, leNat_cons_low, leNat_cons_high]
    exact congrArg _ ih

end

/-! ### Member lines -/

theorem member?_name {s : State} {part object line : Nat} {m : MemberLine} (h : s.member? part object line = some m) :
    m.part = part ∧ m.object = object ∧ m.line = line := by
  simpa [and_assoc] using List.find?_some h

/-- A member line that has m's name. -/
def MemberLine.sameName (m x : MemberLine) : Bool := x.part = m.part && x.object = m.object && x.line = m.line

theorem MemberLine.sameName_self (m : MemberLine) : m.sameName m = true := by simp [MemberLine.sameName]

/-- The replacing of lines of one name by one of that name keeps every line's name. -/
theorem MemberLine.sameName_replaced (m : MemberLine) : m.sameName ∘ (fun x => if m.sameName x then m else x) = m.sameName := by
  funext x
  cases hx : m.sameName x <;> simp [hx, m.sameName_self]

/-- A member line written back is found under its name. -/
theorem member?_putMember (s : State) (m : MemberLine) : (s.putMember m).member? m.part m.object m.line = some m := by
  have hfind (t : State) : t.member? m.part m.object m.line = t.members.find? m.sameName := rfl
  unfold State.putMember
  cases hm : s.members.find? m.sameName with
  | none =>
    rw [hfind s, hm]
    change (s.members ++ [m]).find? m.sameName = some m
    rw [List.find?_append, hm, Option.none_or, List.find?_singleton, if_pos m.sameName_self]
  | some y =>
    rw [hfind s, hm]
    change (s.members.map fun x => if m.sameName x then m else x).find? m.sameName = some m
    rw [List.find?_map, m.sameName_replaced, hm, Option.map_some, if_pos (List.find?_some hm)]

/-! ### A flip with nothing cached -/

theorem unpoison_frame (s : State) (a n : Nat) : s.unpoison a n = { s with poison := (s.unpoison a n).poison } := by
  unfold State.unpoison
  split <;> rfl

theorem foldl_poison_frame {α : Type} {f : State → α → State} (hf : ∀ t x, f t x = { t with poison := (f t x).poison }) (l : List α)
    (s : State) : l.foldl f s = { s with poison := (l.foldl f s).poison } := by
  induction l generalizing s with
  | nil => rfl
  | cons x l ih => rw [List.foldl_cons, ih, hf s x]

theorem markPlaces_frame (s : State) (ps : List Place) (bad : BitVec 128) :
    s.markPlaces ps bad = { s with poison := (s.markPlaces ps bad).poison } := by
  unfold State.markPlaces
  split
  · rfl
  · refine foldl_poison_frame (fun t p => ?_) ps s
    simp only
    split <;> rw [unpoison_frame]

section
variable {s : State} {m : MemberLine} {v : Version}

/-- The places of a member line. -/
def State.memberPlaces (s : State) (m : MemberLine) : List Place := s.logicalPlaces m.part m.object m.line

/-- A member line after its flip: the open version is current, and the old current, as it stands in place, the retained one (R189). -/
def State.flipped (s : State) (m : MemberLine) (v : Version) : MemberLine :=
  { m with
    current := v.generation, openV := none
    retained := some ⟨m.current, s.currentBytes m, s.badPlaces (s.memberPlaces m)⟩ }

/-- The bytes of a version and its poison in place. -/
def State.versionPlaced (s : State) (ps : List Place) (v : Version) : State := (s.putNat ps (leNat v.data)).markPlaces ps v.bad

theorem flip_of_no_caches (hc : s.caches = []) (hv : m.openV = some v) :
    ∃ ds, s.flip m = ((s.withDirs ds).versionPlaced (s.memberPlaces m) v).putMember (s.flipped m v) := by
  have hreclaim := reclaimed_of_no_caches hc (distinct ((s.memberPlaces m).map fun p => lineOf p.home))
  refine ⟨(State.eachPlaceLine s (s.memberPlaces m) State.reclaim).dirs, ?_⟩
  unfold State.flip State.eachPlaceLine
  simp only [hv]
  unfold State.memberPlaces at hreclaim
  rw [hreclaim]
  simp only [State.versionOf, if_true]
  rfl

/-- Where nothing is cached, a version placed is read back at its places. -/
theorem homeNat_versionPlaced (hm : s.MemOk) (hc : s.caches = []) {ps : List Place} (hwhole : ∀ p ∈ ps, p.half = none)
    (hapart : (ps.map (·.home)).Nodup) (hlen : v.data.length = ps.length) : (s.versionPlaced ps v).homeNat ps = leNat v.data := by
  have hcaches : (s.versionPlaced ps v).caches = [] := by
    rw [State.versionPlaced, markPlaces_frame, putNat_frame]
    exact hc
  have hbytes (a : Nat) : (s.versionPlaced ps v).memByte a = (s.putNat ps (leNat v.data)).memByte a := by
    rw [State.versionPlaced, markPlaces_frame]
    rfl
  rw [State.homeNat, joinPlaces_whole _ hwhole]
  simp only [homeByte_of_no_caches hcaches, hbytes, memBytes_putNat hm hwhole hapart hlen]

theorem homeNat_putMember (s : State) (x : MemberLine) (ps : List Place) : (s.putMember x).homeNat ps = s.homeNat ps := by
  unfold State.putMember
  split <;> rfl

end

/-! ### The settling of a line -/

section
variable {s : State} {m : MemberLine} {v : Version} {b : Bundle}

theorem settle_of_no_open (hv : m.openV = none) : s.settle m = s := by simp only [State.settle, hv]

variable (hv : m.openV = some v) (hb : s.bundle? m.part m.handle = some b)
include hv hb

theorem settle_of_open : s.settle m = if v.generation ∈ b.aborted then s.putMember { m with openV := none }
    else if v.generation ≤ b.committed then s.flip m else s := by
  simp only [State.settle, hv, hb]

theorem settle_of_aborted (ha : v.generation ∈ b.aborted) : s.settle m = s.putMember { m with openV := none } :=
  (settle_of_open hv hb).trans (if_pos ha)

variable (ha : v.generation ∉ b.aborted)
include ha

theorem settle_of_uncommitted (hc : b.committed < v.generation) : s.settle m = s := by
  rw [settle_of_open hv hb, if_neg ha, if_neg (Nat.not_le.2 hc)]

theorem settle_flips (hc : v.generation ≤ b.committed) : s.settle m = s.flip m := by
  rw [settle_of_open hv hb, if_neg ha, if_pos hc]

end

theorem rules_flips : Rules.Flips := by
  intro part handle object line s m v b i hi
  have hexec : exec i s = .next (s.settleOf part handle object line) := by rcases hi with rfl | rfl <;> rfl
  rw [hexec]
  refine ⟨fun hm => ?_, fun hm => ?_⟩
  · simp only [State.settleOf, hm]
  obtain ⟨rfl, rfl, rfl⟩ := member?_name hm
  have hsettle : s.settleOf m.part handle m.object m.line = if m.handle = handle then s.settle m else s := by
    simp only [State.settleOf, hm]
  rw [hsettle]
  refine ⟨?other, ?settled⟩
  case other =>
    rintro (hh | hv)
    · rw [if_neg hh]
    · rw [settle_of_no_open hv, ite_self]
  case settled =>
    rintro rfl hv hb
    rw [if_pos rfl]
    intro becomes
    refine ⟨fun ha => ?aborted, fun ha hc => ?waits, fun ha hle hc => ?flips⟩
    case aborted => exact ⟨_, congrArg _ (settle_of_aborted hv hb ha), member?_putMember s { m with openV := none }⟩
    case waits => rw [settle_of_uncommitted hv hb ha hc]
    case flips =>
      obtain ⟨ds, hflip⟩ := flip_of_no_caches hc hv
      rw [← settle_flips hv hb ha hle] at hflip
      refine ⟨⟨_, congrArg _ hflip, member?_putMember _ (s.flipped m v)⟩,
        fun hm ps hps hlen hwhole hapart hdata => ⟨_, congrArg _ hflip, ?_⟩⟩
      obtain rfl : ps = s.memberPlaces m := hps
      rw [homeNat_putMember, homeNat_versionPlaced (s := s.withDirs ds) hm hc hwhole hapart (hdata.trans hlen.symm), ← hdata]
      exact leBytes_leNat v.data

end Sys2Proof.Machine
end

section
open Sys2Proof Sys2Proof.Machine

/-- Settles O51: what one answer, one abort and one report make of the bundle's entry, and a flip as a write of the open version in place. -/
theorem bundleClosing : Obligations.BundleClosing := ⟨rules_bundleClosing, rules_flips⟩
end
